-- ==== Sys2Proof/Word.lean ====
section
/-!
DEFINITION. The word types of the VX9 (03 R44, 05 R96) and their plainest arithmetic.
-/
namespace Sys2Proof

/-- A byte of memory. -/
abbrev Byte := BitVec 8
/-- An instruction word, a vector register of one lane, a 32-bit special register. -/
abbrev W32 := BitVec 32
/-- A scalar register, the PC, a window register. -/
abbrev W64 := BitVec 64

end Sys2Proof
end

