-- ==== Sys2Proof/Syntax.lean ====
section
/-!
DEFINITION. The syntax of the VX9's steps: the operand types of Galnum (03 R48–R62), and `Instr`, one constructor for
each row of spec/opcode_table.json: the team instructions (an S-form and an L/X-form of one instruction are two rows), and
the device's own events (95_what_each_step_holds.md).
-/
namespace Sys2Proof

/-- The operand types of R58, in the order of their codes. -/
inductive Ty where
  | s32 | n32 | s64 | n64 | s16x2 | n16x2 | s8x4 | n8x4
  | f32 | f16x2 | bf16x2 | f64 | e4m3 | e5m2 | e2m1 | i4x
  deriving DecidableEq, Repr

/-- Words 0, 1 and 2 of an L-form (`lit = none`) or an X-form (`lit = some LIT`), field by field (R48–R50), without OP. -/
structure Form where
  /-- U: 1 = uniform. -/
  uni : Bool
  /-- GP, the guard predicate. -/
  gp : BitVec 3
  /-- GN, guard negate. -/
  gn : Bool
  d : BitVec 8
  a : BitVec 8
  b : BitVec 8
  c : BitVec 8
  wa : Bool
  wb : Bool
  wc : Bool
  ka : Bool
  kb : Bool
  kc : Bool
  ty : Ty
  mod : BitVec 3
  xl : BitVec 3
  lit : Option W32
  deriving DecidableEq, Repr

/-- Word 0 of an S-form, field by field, without OP (R51). -/
structure SForm where
  uni : Bool
  gp : BitVec 3
  gn : Bool
  d : BitVec 8
  a : BitVec 8
  deriving DecidableEq, Repr

/-- An access to a block of the device memory space, as its home memory controller sees it (R345). -/
structure BlockAcc where
  /-- The function whose window holds the address. -/
  fn : Nat
  /-- The device address of the first byte. -/
  addr : Nat
  /-- The bytes written, from `addr` on, within one block; none for a read. -/
  bytes : Option (List Byte)
  /-- CMP of the translation that makes the access. -/
  cmp : Bool
  /-- The ECC of the block's metadata entry finds an uncorrectable error (R344). -/
  ecc : Bool := false
  deriving DecidableEq, Repr

/-- The state of a grain in an L2 (R356). -/
inductive L2St where
  | m | o | e | s | i
  deriving DecidableEq, Repr

/-- A message between an L2 and a home directory (R357). -/
structure CohMsg where
  /-- The compute die of the L2 concerned. -/
  die : Nat
  /-- The device address of the grain's first byte; for a system line (R368), its system address. -/
  grain : Nat
  /-- The bytes of the grain: 32, 128 or 512. -/
  size : Nat
  /-- True for a line of host or peer memory, for which the hub acts as home. -/
  sys : Bool
  /-- The colour (R365). -/
  colour : Nat
  /-- The requesting core. -/
  core : Nat
  /-- Granted state of a Data message. -/
  grant : L2St
  /-- Dirty data travel with the message (WB, Rsp). -/
  dirty : Bool
  /-- Operation of an AtomicReq: MOD codes of R171; 8 for compare-and-swap. -/
  op : Nat
  /-- Operand type of an AtomicReq. -/
  ty : Ty
  /-- Address of the unit of an AtomicReq. -/
  addr : Nat
  /-- Operand x of an AtomicReq, or the old value of an AtomicRsp. -/
  x : W64
  /-- Second operand (the new value of a compare-and-swap), or the flag of an AtomicRsp. -/
  y : W64
  /-- Slot of the requesting team in its core, 16 × partition + slot (R363). -/
  slot : Nat := 0
  /-- Number of the instruction's operation that an AtomicReq performs; 0 for one of the home's own. -/
  tag : Nat := 0
  /-- How often the request has been rejected, and the clock from which a rejected one is sent again (R112, R363). -/
  tries : Nat := 0
  again : Nat := 0
  deriving DecidableEq, Repr

/-- A message of a Springor port or of the hub's CXL.cache agent (R368, R369, R375). -/
structure LinkMsg where
  port : Nat
  /-- Address of the line: a device address, a system address, or an offset in an export window. -/
  addr : Nat
  /-- Bytes written, in address order. -/
  bytes : List Byte
  /-- The die whose L2 is concerned. -/
  die : Nat
  /-- Exclusive state requested, or held. -/
  excl : Bool
  /-- Dirty data are returned. -/
  dirty : Bool
  /-- The flit was sealed (R383). -/
  sealed : Bool
  deriving DecidableEq, Repr

/-- What a requester offers at algorithm negotiation (R382). -/
structure SpdmOffers where
  sm2Sign : Bool
  sm3 : Bool
  sm2Dhe : Bool
  sm4Gcm : Bool
  deriving DecidableEq, Repr

/-- The partner's side of opening a peer session (R383). -/
structure Partner where
  offers : SpdmOffers
  /-- The partner's certificate chain, as one number. -/
  chain : Nat
  /-- KEY_EXCHANGE and FINISH completed. -/
  finished : Bool
  /-- The partner accepted BIND. -/
  bound : Bool
  deriving DecidableEq, Repr

/-- Which register window a write names (R376, R387). -/
inductive RegWindow where
  | fn (f : Nat)
  | belfry
  deriving DecidableEq, Repr

/-- What the outside world presents with an event of its own: a register write, a message, a request. Each event reads
the fields it needs; it is held in the machine's input field while the event is performed. -/
structure Input where
  /-- The function concerned. -/
  fn : Nat
  /-- Queue, window, entry, port, session, sensor or block concerned. -/
  num : Nat
  /-- The value written, or the message's number. -/
  value : W64
  /-- A second value (the low word of a Lantern write). -/
  low : W64
  /-- The write carries hypervisor authority (R5, R376). -/
  hv : Bool
  /-- Register window and offset of a plain register write. -/
  window : RegWindow
  offset : Nat
  /-- A check of the link succeeded: the CRC (`ok`), the tag (`tag`). -/
  ok : Bool
  tag : Bool
  link : LinkMsg
  partner : Partner
  deriving DecidableEq, Repr

/-- An input that names nothing. -/
def Input.none : Input :=
  { fn := 0, num := 0, value := 0, low := 0, hv := false, window := .belfry, offset := 0, ok := true, tag := true,
    link := { port := 0, addr := 0, bytes := [], die := 0, excl := false, dirty := false, sealed := false },
    partner := { offers := { sm2Sign := false, sm3 := false, sm2Dhe := false, sm4Gcm := false }, chain := 0, finished := false, bound := false } }

/-- The steps of the part, one constructor for each row of the opcode table. An event that the outside world presents
carries no operand of its own: it reads the machine's input field (`Input`). -/
inductive Instr where
  /-- IADD (R126): Adds two integer operands element by element, wrapping modulo 2^w. -/
  | iadd (f : Form)
  /-- ISUB (R126): Subtracts integer operands element by element, wrapping. -/
  | isub (f : Form)
  /-- IMUL (R126): Multiplies integer operands, keeping the low w bits. -/
  | imul (f : Form)
  /-- IMULH (R126): Returns the high half of the exact integer product. -/
  | imulh (f : Form)
  /-- IMAD (R126): Computes a times b plus c exactly, then wraps. -/
  | imad (f : Form)
  /-- IDIV (R114): Integer quotient truncated toward zero, with the defined results for division by zero. -/
  | idiv (f : Form)
  /-- IREM (R114): Integer remainder taking the sign of the dividend. -/
  | irem (f : Form)
  /-- IMIN (R126): Smaller of two integers, signed or unsigned by type. -/
  | imin (f : Form)
  /-- IMAX (R126): Larger of two integers, signed or unsigned by type. -/
  | imax (f : Form)
  /-- IABS_S (R126): Integer absolute value, S-form. -/
  | iabsS (f : SForm)
  /-- IABS_L (R126): Integer absolute value, L-form. -/
  | iabsL (f : Form)
  /-- INEG_S (R126): Integer negation, S-form. -/
  | inegS (f : SForm)
  /-- INEG_L (R126): Integer negation, L-form. -/
  | inegL (f : Form)
  /-- IADDS (R126): Saturating integer addition. -/
  | iadds (f : Form)
  /-- ISUBS (R126): Saturating integer subtraction. -/
  | isubs (f : Form)
  /-- AND (R126): Bitwise and. -/
  | and (f : Form)
  /-- OR (R126): Bitwise or. -/
  | or (f : Form)
  /-- XOR (R126): Bitwise exclusive or. -/
  | xor (f : Form)
  /-- ANDN (R126): Bitwise a and not b. -/
  | andn (f : Form)
  /-- NOT_S (R126): Bitwise not, S-form. -/
  | notS (f : SForm)
  /-- NOT_L (R126): Bitwise not, L-form. -/
  | notL (f : Form)
  /-- SHL (R126): Shift left, giving 0 for counts of w or more. -/
  | shl (f : Form)
  /-- SHR (R126): Logical shift right. -/
  | shr (f : Form)
  /-- SAR (R126): Arithmetic shift right with sign fill. -/
  | sar (f : Form)
  /-- ROL (R126): Rotate left by b mod w. -/
  | rol (f : Form)
  /-- BFX (R128): Extracts a bit field given by position and length. -/
  | bfx (f : Form)
  /-- BFI (R128): Inserts a bit field into a, cut at the type width. -/
  | bfi (f : Form)
  /-- POPC_S (R126): Population count, S-form. -/
  | popcS (f : SForm)
  /-- POPC_L (R126): Population count, L-form. -/
  | popcL (f : Form)
  /-- CLZ_S (R126): Count of leading zeros, S-form. -/
  | clzS (f : SForm)
  /-- CLZ_L (R126): Count of leading zeros, L-form. -/
  | clzL (f : Form)
  /-- CTZ_S (R126): Count of trailing zeros, S-form. -/
  | ctzS (f : SForm)
  /-- CTZ_L (R126): Count of trailing zeros, L-form. -/
  | ctzL (f : Form)
  /-- BREV_S (R126): Bit reversal, S-form. -/
  | brevS (f : SForm)
  /-- BREV_L (R126): Bit reversal, L-form. -/
  | brevL (f : Form)
  /-- SEL (R129): Chooses a or b by a predicate named in C. -/
  | sel (f : Form)
  /-- MOV_S (R126): Copies operand A bit for bit, S-form. -/
  | movS (f : SForm)
  /-- MOV_L (R126): Copies operand A bit for bit, optionally cross-lane, L-form. -/
  | movL (f : Form)
  /-- MOVI (R127): Loads the X-form literal, widened by type, into the destination. -/
  | movi (f : Form)
  /-- PRMT (R130): Permutes bytes of a and c under a selector. -/
  | prmt (f : Form)
  /-- SRD (R132): Reads a special register into the destination. -/
  | srd (f : Form)
  /-- SWR (R133): Writes a special register from a scalar register. -/
  | swr (f : Form)
  /-- IADDC (R131): Adds with a carry predicate that is read and written. -/
  | iaddc (f : Form)
  /-- FADD (R134): Floating-point addition rounded once. -/
  | fadd (f : Form)
  /-- FSUB (R134): Floating-point subtraction rounded once. -/
  | fsub (f : Form)
  /-- FMUL (R134): Floating-point multiplication rounded once. -/
  | fmul (f : Form)
  /-- FFMA (R134): Fused multiply-add with one rounding. -/
  | ffma (f : Form)
  /-- FMIN (R135): minimumNumber of two floating-point operands. -/
  | fmin (f : Form)
  /-- FMAX (R135): maximumNumber of two floating-point operands. -/
  | fmax (f : Form)
  /-- FABS_S (R134): Clears the sign bit, S-form. -/
  | fabsS (f : SForm)
  /-- FABS_L (R134): Clears the sign bit, L-form. -/
  | fabsL (f : Form)
  /-- FNEG_S (R134): Inverts the sign bit, S-form. -/
  | fnegS (f : SForm)
  /-- FNEG_L (R134): Inverts the sign bit, L-form. -/
  | fnegL (f : Form)
  /-- FDIV (R134): Correctly rounded floating-point division. -/
  | fdiv (f : Form)
  /-- FSQRT_S (R134): Correctly rounded square root, S-form. -/
  | fsqrtS (f : SForm)
  /-- FSQRT_L (R134): Correctly rounded square root, L-form. -/
  | fsqrtL (f : Form)
  /-- FRCP_S (R134): Correctly rounded reciprocal, S-form. -/
  | frcpS (f : SForm)
  /-- FRCP_L (R134): Correctly rounded reciprocal, L-form. -/
  | frcpL (f : Form)
  /-- FRINT_S (R136): Rounds to an integral value in its own format, S-form. -/
  | frintS (f : SForm)
  /-- FRINT_L (R136): Rounds to an integral value in its own format, L-form. -/
  | frintL (f : Form)
  /-- FCLASS_S (R136): Writes the class mask of a floating-point value, S-form. -/
  | fclassS (f : SForm)
  /-- FCLASS_L (R136): Writes the class mask of a floating-point value, L-form. -/
  | fclassL (f : Form)
  /-- FSCALE (R136): Scales a by 2^n with one rounding. -/
  | fscale (f : Form)
  /-- FDOT2 (R136): Two-element dot product plus f32 addend, rounded once to f32. -/
  | fdot2 (f : Form)
  /-- CVT (R137): Converts one value between numeric types. -/
  | cvt (f : Form)
  /-- PACK (R138): Narrows and packs the elements of two registers into one. -/
  | pack (f : Form)
  /-- UNPK (R139): Widens one half of a packed register. -/
  | unpk (f : Form)
  /-- SBQ (R267): Quantises each mask word's values into a scaled block with a shared scale. -/
  | sbq (f : Form)
  /-- SBDQ (R268): Expands a scaled block in registers into f32 values. -/
  | sbdq (f : Form)
  /-- ICMP (R142): Integer compare writing a predicate and its complement. -/
  | icmp (f : Form)
  /-- FCMP (R142): Floating-point compare writing a predicate and its complement. -/
  | fcmp (f : Form)
  /-- PLOP (R143): Combines two predicates by a logic function. -/
  | plop (f : Form)
  /-- PMOV (R144): Moves predicates to predicates, to a register, or from a register. -/
  | pmov (f : Form)
  /-- SHFL (R147): Delivers operand A from a computed source lane to each contributing lane. -/
  | shfl (f : Form)
  /-- BCST (R147): Broadcasts operand A of one lane to every contributing lane. -/
  | bcst (f : Form)
  /-- VOTE (R148): Any, all, ballot or count of a predicate across contributing lanes. -/
  | vote (f : Form)
  /-- MBAL_S (R148): Match ballot of equal values within a mask word, S-form. -/
  | mbalS (f : SForm)
  /-- MBAL_L (R148): Match ballot of equal values within a mask word, L-form. -/
  | mbalL (f : Form)
  /-- SCAN_S (R149): Team-wide prefix scan in a fixed tree order, S-form. -/
  | scanS (f : SForm)
  /-- SCAN_L (R149): Team-wide prefix scan in a fixed tree order, L-form. -/
  | scanL (f : Form)
  /-- RED_S (R149): Team-wide reduction delivered to every contributing lane, S-form. -/
  | redS (f : SForm)
  /-- RED_L (R149): Team-wide reduction delivered to every contributing lane, L-form. -/
  | redL (f : Form)
  /-- TSORT (R150): Stable team-wide sort of keys with payloads. -/
  | tsort (f : Form)
  /-- TSELK (R150): Selects the key of rank k and its lane across the team. -/
  | tselk (f : Form)
  /-- CEXP2 (R152): CORDIC 2^a with n iterations. -/
  | cexp2 (f : Form)
  /-- CLOG2 (R152): CORDIC log2 a. -/
  | clog2 (f : Form)
  /-- CSIN (R152): CORDIC sine in half-turns. -/
  | csin (f : Form)
  /-- CCOS (R152): CORDIC cosine in half-turns. -/
  | ccos (f : Form)
  /-- CSINCOS (R152): CORDIC sine and cosine into a register pair. -/
  | csincos (f : Form)
  /-- CATAN2 (R152): CORDIC atan2 over pi. -/
  | catan2 (f : Form)
  /-- CTANH (R152): CORDIC hyperbolic tangent. -/
  | ctanh (f : Form)
  /-- CSIGM (R152): CORDIC logistic sigmoid. -/
  | csigm (f : Form)
  /-- CRSQ (R152): CORDIC reciprocal square root. -/
  | crsq (f : Form)
  /-- CSQRT (R152): CORDIC square root. -/
  | csqrt (f : Form)
  /-- LD (R166): Loads bytes of a table row or core memory with conversion into the destination. -/
  | ld (f : Form)
  /-- ST (R166): Stores a converted value to a table row or core memory. -/
  | st (f : Form)
  /-- LDB (R169): Loads one scaled block with its scale per mask word. -/
  | ldb (f : Form)
  /-- STB (R170): Stores one scaled block with its scale as one atomic unit. -/
  | stb (f : Form)
  /-- AMO (R171): Atomic read-modify-write returning the old value. -/
  | amo (f : Form)
  /-- AMN (R171): Atomic read-modify-write without result. -/
  | amn (f : Form)
  /-- ACAS (R173): Atomic compare-and-swap returning old value and success flag. -/
  | acas (f : Form)
  /-- FENCE (R174): Orders predecessor-set accesses before successor-set accesses at a scope. -/
  | fence (f : Form)
  /-- PREF (R175): Hints a line fetch to L1 or L2 without any visible effect. -/
  | pref (f : Form)
  /-- LDC (R176): Reads the launch's parameter block. -/
  | ldc (f : Form)
  /-- TLOOK (R236): Looks up keys and returns row words or the heap slot. -/
  | tlook (f : Form)
  /-- TINS (R236): Inserts keys with row words into a keyed table. -/
  | tins (f : Form)
  /-- TDEL (R236): Deletes keys from a keyed table. -/
  | tdel (f : Form)
  /-- TMOD (R236): Writes row words of present keys. -/
  | tmod (f : Form)
  /-- TSET (R236): Maps a KV-paged key to an existing row and adds a reference. -/
  | tset (f : Form)
  /-- TOPEN (R238): Opens a cursor on an ordered table. -/
  | topen (f : Form)
  /-- TNEXT (R238): Steps a cursor and returns the next row within the bound. -/
  | tnext (f : Form)
  /-- TSEEK (R238): Repositions a cursor at a new starting key. -/
  | tseek (f : Form)
  /-- TCLOSE (R238): Closes a cursor in the core without a batch. -/
  | tclose (f : Form)
  /-- TCNT (R240): Counts keys of a table, optionally in a range. -/
  | tcnt (f : Form)
  /-- TSTAT (R241): Reads one statistic of a table. -/
  | tstat (f : Form)
  /-- MMA (R262): Issues a 32x32 matrix multiply-accumulate per mask word to the array. -/
  | mma (f : Form)
  /-- MFLUSH_S (R266): Waits for the team's matrix work and returns its k-step count, S-form. -/
  | mflushS (f : SForm)
  /-- MFLUSH_L (R266): Waits for the team's matrix work and returns its k-step count, L-form. -/
  | mflushL (f : Form)
  /-- KVX (R269): Translates token positions of a KV-paged table into row numbers. -/
  | kvx (f : Form)
  /-- QMC (R270): Copies core-memory bytes to the other core memories of the cluster. -/
  | qmc (f : Form)
  /-- CRED_S (R271): Deposits softmax state with the Oculus, S-form. -/
  | credS (f : SForm)
  /-- CRED_L (R271): Deposits softmax state with the Oculus, L-form. -/
  | credL (f : Form)
  /-- CPK (R279): Checks a copy request list, takes destination ownership and returns a promise. -/
  | cpk (f : Form)
  /-- BINIT (R283): Initialises a barrier object's count and advances its generation. -/
  | binit (f : Form)
  /-- BARR (R284): Counts bytes down on a barrier object after releasing earlier accesses. -/
  | barr (f : Form)
  /-- BWAIT (R285): Waits for a barrier object to reach zero or traps on its error. -/
  | bwait (f : Form)
  /-- WAITT (R286): Sleeps until a promise clock, then checks the barrier object. -/
  | waitt (f : Form)
  /-- QPUSH (R292): Pushes 64-bit entries to hardware queues. -/
  | qpush (f : Form)
  /-- QPOP (R292): Pops entries from hardware queues. -/
  | qpop (f : Form)
  /-- RDX (R296): Deposits key and payload for the next stage and removes the lane. -/
  | rdx (f : Form)
  /-- QSTAT (R293): Reads one statistic of a queue. -/
  | qstat (f : Form)
  /-- BRA (R154): Uniform branch taken when its scalar guard holds. -/
  | bra (f : Form)
  /-- BRV (R155): Branch asserting a uniform predicate, trapping NUB on disagreement. -/
  | brv (f : Form)
  /-- BANY (R154): Branch taken when a predicate is set in some contributing lane. -/
  | bany (f : Form)
  /-- BALL (R154): Branch taken when a predicate is set in every contributing lane. -/
  | ball (f : Form)
  /-- CALL (R154): Writes the return PC and branches. -/
  | call (f : Form)
  /-- RET_S (R155): Returns to the PC in a scalar register, S-form. -/
  | retS (f : SForm)
  /-- RET_L (R155): Returns to the PC in a scalar register, L-form. -/
  | retL (f : Form)
  /-- JMPI (R154): Indirect jump to sa plus sb. -/
  | jmpi (f : Form)
  /-- LOOP (R154): Decrements a counter and branches while it is nonzero. -/
  | loop (f : Form)
  /-- EXIT_S (R157): Removes lanes from the team, S-form. -/
  | exitS (f : SForm)
  /-- EXIT_L (R157): Removes lanes from the team, L-form. -/
  | exitL (f : Form)
  /-- BAR (R158): Arrives at the block barrier, parking unless it completes it. -/
  | bar (f : SForm)
  /-- SLEEP_S (R159): Parks the team until CLOCK reaches issue time plus a register count, S-form. -/
  | sleepS (f : SForm)
  /-- SLEEP_L (R159): Parks the team for a register or literal count, L- or X-form. -/
  | sleepL (f : Form)
  /-- YIELD (R159): Resets the team's issue age and starvation count. -/
  | yield (f : SForm)
  /-- TRAP (R154): Raises SOFT with the literal as subcode. -/
  | trap (f : Form)
  /-- SGPOST (R318): Posts a hash for the team's sibling to the Campanile. -/
  | sgpost (f : Form)
  /-- SGPOLL (R319): Reads a value of a sibling group. -/
  | sgpoll (f : Form)
  /-- SGCHK (R320): Tests the team's own group and writes a scalar predicate pair. -/
  | sgchk (f : Form)
  /-- LAUNCH (R322): Appends a descriptor from core memory to a launch queue of the team's front end. -/
  | launch (f : Form)
  /-- EVSIG (R323): Adds to an event counter after releasing earlier accesses at a scope. -/
  | evsig (f : Form)
  /-- EVWAIT (R323): Waits until an event counter reaches a target. -/
  | evwait (f : Form)
  /-- RTE (R198): Returns from handler mode and releases the block. -/
  | rte (f : SForm)
  /-- TSB_S (R199): Reads a word of the side-buffer entry, S-form. -/
  | tsbS (f : SForm)
  /-- TSB_L (R199): Reads a word of the side-buffer entry, L- or X-form. -/
  | tsbL (f : Form)
  /-- HALTB (R200): Halts the executing team's block with it as origin. -/
  | haltb (f : SForm)
  /-- STEP (R201): Arms a single-step trap after the next RTE. -/
  | step (f : SForm)
  /-- BKPT (R202): Raises DEBUG with subcode BKPT. -/
  | bkpt (f : SForm)
  /-- WATCH (R203): Arms or clears a watch range of the core. -/
  | watch (f : Form)
  /-- MBXW (R204): Writes a Lantern mailbox entry if empty. -/
  | mbxw (f : Form)
  /-- MBXR (R204): Reads a Lantern mailbox entry and clears FULL. -/
  | mbxr (f : Form)
  /-- ILL (R67): Defined illegal instruction raising ILLENC OPCODE. -/
  | ill (word : W32)
  /-- LATE_REPLY (R106): A long-latency result lands in the context image and any resident line with its full bit set. -/
  | lateReply (reply : Nat)
  /-- REGISTER_MISS_FILL (R104): A missing register line arrives from the image through the L1. -/
  | registerMissFill (team reg word : Nat)
  /-- TEAM_ACTIVATION (R110): A free slot takes the head of the ready list and pins its pages. -/
  | teamActivation (core : Nat)
  /-- TEAM_EVICTION (R107): The longest-parked team is written back and leaves its slot. -/
  | teamEviction (core part : Nat)
  /-- READY_LIST_STEAL (R110): An idle core takes a team READY for 4,096 clocks from another list of the cluster. -/
  | readyListSteal (core : Nat)
  /-- STARVATION_PICK (R111): A team ready for 64 clocks without being picked is issued next. -/
  | starvationPick (core part : Nat)
  /-- REQUEST_RETRY (R112): A rejected request is retried 8 clocks later, reserving after its fourth rejection. -/
  | requestRetry (team : Nat)
  /-- TEAM_RESUME (R108): A parked team's cause is resolved and it becomes ACTIVE or READY. -/
  | teamResume (team : Nat)
  /-- SLEEP_WAKE (R159): CLOCK reaches a sleeping team's wake value. -/
  | sleepWake (team : Nat)
  /-- TEAM_RETIREMENT (R94): A team with an empty mask retires once its writes are performed. -/
  | teamRetirement (team : Nat)
  /-- CONTEXT_IMAGE_FREE (R108): A retired team's image is freed after its last late reply lands. -/
  | contextImageFree (team : Nat)
  /-- CANCELLED_PENDING_RETIRE (R108): A cancelled-pending team retires when its last late reply lands. -/
  | cancelledPendingRetire (team : Nat)
  /-- BLOCK_PLACEMENT (R309): The distributor places a block on a cluster of its front end's range. -/
  | blockPlacement (job : Nat) (images : Option Nat)
  /-- TURN_END (R378): A front end's turn on a cluster ends and renews or hands over. -/
  | turnEnd (cluster : Nat)
  /-- MMA_ARRAY_EXECUTION (R262): The partition's array performs a queued MMA word by word. -/
  | mmaArrayExecution (core part : Nat)
  /-- OCULUS_MERGE (R271): The Oculus merges a round of CRED deposits and returns the result. -/
  | oculusMerge (block : Nat)
  /-- COPY_ROW (R280): The copy engine transfers one row and counts it on the barrier object. -/
  | copyRow (request : Nat)
  /-- PUSH_ACCEPT (R290): The queue's head accepts a push into its segment or spill ring. -/
  | pushAccept (request : Nat)
  /-- POP_SERVE (R292): The queue's head serves a pop and refills from the ring. -/
  | popServe (request : Nat)
  /-- RDX_DEPOSIT_ARRIVAL (R297): A deposit reaches the reorder unit and joins its bucket. -/
  | rdxDepositArrival (deposit : Nat)
  /-- BUCKET_FLUSH (R297): FLUSH_k clocks pass since a bucket's oldest entry and it launches. -/
  | bucketFlush (job stage bucket : Nat)
  /-- STAGE_DRAIN (R297): The previous stage is drained and every open bucket launches. -/
  | stageDrain (job stage : Nat)
  /-- SPIRE_BATCH (R218): The home Spire evaluates and performs one batch of table operations. -/
  | spireBatch (batch : Nat)
  /-- SPIRE_VERDICT (R235): The Spire's accept or withdraw verdict reaches the issuing core. -/
  | spireVerdict (verdict : Nat)
  /-- KV_RELEASE (R315): The Campanile has the Spire remove a cancelled sibling's KV keys. -/
  | kvRelease (group sibling : Nat)
  /-- CAMPANILE_POST (R313): The Campanile counts a post of a sibling group. -/
  | campanilePost (post : Nat)
  /-- FINISHED_SIBLING_CHECK (R313): At a fabric clock's end the group is decided when every sibling has finished. -/
  | finishedSiblingCheck (group : Nat)
  /-- TAIL_LINE_INVALIDATION (R302): A write takes the tail-word line from the front end, which rereads the tail word. -/
  | tailLineInvalidation (fe queue : Nat)
  /-- DESCRIPTOR_CONSUME (R306): The front end reads and checks a descriptor whose OWN is set. -/
  | descriptorConsume (fe queue : Nat)
  /-- LAUNCH_DESCRIPTOR (R304): A launch descriptor starts once its waits are met. -/
  | launchDescriptor (job : Nat)
  /-- DIRECTORY_UPDATE (R211): A table record is written into a directory and applied at the home Spire. -/
  | directoryUpdate (job : Nat)
  /-- QUEUE_DESCRIPTOR (R303): Writes a hardware queue's descriptor. -/
  | queueDescriptor (job : Nat)
  /-- CANCEL (R307): Cancels the started launches whose TAG matches. -/
  | cancel (job : Nat)
  /-- SIGNAL (R303): Performs only its completion event. -/
  | signal (job : Nat)
  /-- GROUP_OPEN (R311): Opens a Campanile group entry and zeroes its waste record. -/
  | groupOpen (job : Nat)
  /-- GROUP_FREE (R311): Decides an open group with NONE and begins freeing it. -/
  | groupFree (job : Nat)
  /-- GROUP_FREE_COMPLETION (R311): The group becomes FREE once no team lives and releases are done, and a log record is written. -/
  | groupFreeCompletion (job : Nat)
  /-- WAIT_COUNTER_WRITE (R307): A write to a waited counter makes the front end recheck the wait. -/
  | waitCounterWrite (job : Nat)
  /-- LAUNCH_COMPLETION (R307): A launch completes, adding DONEINC to DONE. -/
  | launchCompletion (job : Nat)
  /-- INVALIDATION_COMPLETE (R335): An invalidation completes and INVDONE advances. -/
  | invalidationComplete (fn : Nat)
  /-- QUOTA_LIMIT_EXPIRY (R342): QLIMIT passes and a quota-parked insert takes XFAULT QUOTA. -/
  | quotaLimitExpiry (team : Nat)
  /-- BLOCK_ACCESS (R345): The home memory controller acts on an access by the block's state. -/
  | blockAccess (acc : BlockAcc)
  /-- DISCARD_COMPLETE (R346): A discard completes and DISDONE advances. -/
  | discardComplete (fn : Nat)
  /-- HELD_WRITE_RELEASE (R349): A write held for space is performed once the pool is above its floor. -/
  | heldWriteRelease (die : Nat)
  /-- HELD_WRITE_EXPIRY (R350): A held write not performed within RECLIM becomes unresolvable. -/
  | heldWriteExpiry (die : Nat)
  /-- RECLAMATION_ROUND (R351): The ballooning engine begins a reclamation round. -/
  | reclamationRound (die : Nat)
  /-- BALWAIT_EXPIRY (R351): The wait on balloon drivers ends and demotion begins. -/
  | balwaitExpiry (die : Nat)
  /-- PROMOTION (R352): A referenced demoted frame is brought back to device storage. -/
  | promotion (frame : Nat)
  /-- RDS (R358): An L2 read request for a grain at its home. -/
  | rds (msg : CohMsg)
  /-- RDX_MSG (R358): An L2 read-for-ownership request at the home. -/
  | rdxMsg (msg : CohMsg)
  /-- OWNND (R358): Ownership without data for a grain a copy writes whole. -/
  | ownnd (msg : CohMsg)
  /-- UPG (R358): Upgrade of an S or O grain to M. -/
  | upg (msg : CohMsg)
  /-- ATOMICREQ (R358): An atomic performed in the home's L2. -/
  | atomicreq (msg : CohMsg)
  /-- WB (R358): Eviction of an M or O grain with data. -/
  | wb (msg : CohMsg)
  /-- SNPS (R357): Home snoop moving an owner to O or S with dirty data returned. -/
  | snps (msg : CohMsg)
  /-- SNPX (R357): Home snoop moving an owner to I with dirty data returned. -/
  | snpx (msg : CohMsg)
  /-- INV (R357): Home invalidation of a sharer. -/
  | inv (msg : CohMsg)
  /-- BI (R362): Back-invalidation of every grain of a super-line. -/
  | bi (msg : CohMsg)
  /-- DATA (R357): Home fill or grant of a grain to an L2. -/
  | data (msg : CohMsg)
  /-- RSP (R357): An L2 answer to a snoop, Inv or BI. -/
  | rsp (msg : CohMsg)
  /-- ATOMICRSP (R357): The home returns an atomic's old value and flag. -/
  | atomicrsp (msg : CohMsg)
  /-- RETRY (R363): The home rejects a request, which is sent again. -/
  | retry (msg : CohMsg)
  /-- POISON (R357): The home answers that a grain is POISON. -/
  | poison (msg : CohMsg)
  /-- RESERVED_OPCODE (R66): An instruction word with LEN = 11, OP = 0x000 with other bits nonzero, or a reserved opcode is fetched and raises ILLENC. -/
  | reservedOpcode (word : W32)
  /-- INVCMD (R335): Issues a translation invalidation of a page range. -/
  | invcmd
  /-- FSRESOLVE (R340): Resolves a fault record as resolved or unresolvable. -/
  | fsresolve
  /-- PQUOTA_WRITE (R342): A quota write makes quota-parked operations try again. -/
  | pquotaWrite
  /-- DLHEAD_WRITE (R343): Advancing the dirty-log head releases held writes. -/
  | dlheadWrite
  /-- DISCARD (R346): Discards frames as whole writes of zeros. -/
  | discard
  /-- LOGICAL_TIME_TICK (R359): Every 32 core clocks every core's logical time advances by 1. -/
  | logicalTimeTick
  /-- RDSHARED (R368): The hub obtains a host line for reading under CXL.cache. -/
  | rdshared
  /-- RDOWN (R368): The hub obtains a host line owned for stores and atomics. -/
  | rdown
  /-- DIRTYEVICT (R368): The hub returns a host line with data. -/
  | dirtyevict
  /-- CLEANEVICT (R368): The hub returns a clean host line. -/
  | cleanevict
  /-- SNPDATA (R368): A host snoop moving device holders to S with dirty data. -/
  | snpdata
  /-- SNPINV (R368): A host snoop invalidating device holders. -/
  | snpinv
  /-- SNPCUR (R368): A host snoop returning current data without state change. -/
  | snpcur
  /-- BISNPINV (R369): The home back-invalidates a line held by the host or a peer. -/
  | bisnpinv
  /-- BISNPDATA (R369): The home requests data from a host or peer holding a line exclusive. -/
  | bisnpdata
  /-- BIRSP (R369): The host or peer answers a back-invalidation snoop. -/
  | birsp
  /-- MEMRD (R375): A CXL.mem read of HDM-DB device memory or of a peer export. -/
  | memrd
  /-- MEMWR (R375): A CXL.mem write of HDM-DB device memory or of a peer export. -/
  | memwr
  /-- FLIT (R371): A 256-byte flit is received and checked on a port. -/
  | flit
  /-- PORT_TRAINING (R371): A port trains to 32, 16, 8 or 0 lanes. -/
  | portTraining
  /-- PORT_DOWN (R373): A port goes down and its in-flight requests complete with poison. -/
  | portDown
  /-- LOCK_INTERFACE_REQUEST (R381): Locks a virtual function's interface. -/
  | lockInterfaceRequest
  /-- START_INTERFACE_REQUEST (R381): Moves a locked interface to RUN. -/
  | startInterfaceRequest
  /-- STOP_INTERFACE_REQUEST (R381): Scrubs the function and returns it to CONFIG_UNLOCKED. -/
  | stopInterfaceRequest
  /-- GET_DEVICE_INTERFACE_REPORT (R381): Returns the locked fields' values. -/
  | getDeviceInterfaceReport
  /-- GET_DEVICE_INTERFACE_STATE (R381): Returns IFST. -/
  | getDeviceInterfaceState
  /-- ALGORITHM_NEGOTIATION (R382): SPDM negotiation offering only SM2, SM3 and SM4-GCM. -/
  | algorithmNegotiation
  /-- KEY_EXCHANGE (R382): SPDM key exchange on SM2 P-256. -/
  | keyExchange
  /-- FINISH (R382): SPDM FINISH completing a session. -/
  | finish
  /-- HEARTBEAT (R382): SPDM session heartbeat. -/
  | heartbeat
  /-- KEY_UPDATE (R382): SPDM session key update. -/
  | keyUpdate
  /-- END_SESSION (R382): Ends an SPDM session. -/
  | endSession
  /-- GET_MEASUREMENTS (R394): Returns the four measurement blocks. -/
  | getMeasurements
  /-- BIND (R383): Vendor-defined message binding a session to a sealed export. -/
  | bind
  /-- SESSION_OPEN (R383): SESS command opening a sealed peer session bound to a function. -/
  | sessionOpen
  /-- SESSION_CLOSE (R383): SESS command closing a peer session. -/
  | sessionClose
  /-- SESSION_KEY_UPDATE (R383): SESS command updating a peer session's keys. -/
  | sessionKeyUpdate
  /-- UPDATE (R393): BCMD 1: reads a firmware image into the inactive slot. -/
  | update
  /-- UPDATE_READ_COMPLETE (R393): The image read ends and it is verified, setting PENDING or a failure result. -/
  | updateReadComplete
  /-- COMMIT (R393): BCMD 2: makes the booted slot running and blows SVN fuses. -/
  | commit
  /-- WARM_RESET (R395): BCMD 3: cancels every launch and runs bring-up keeping log and Lantern. -/
  | warmReset
  /-- COLD_RESET (R395): Power-on reset running every bring-up stage. -/
  | coldReset
  /-- FUNCTION_LEVEL_RESET (R395): Stops one function's interface and clears its front end and fabric registers. -/
  | functionLevelReset
  /-- D3HOT_ENTRY (R396): The driver enters D3hot once no launch is started. -/
  | d3hotEntry
  /-- D3HOT_EXIT (R396): Leaving D3hot runs bring-up from stage 5. -/
  | d3hotExit
  /-- D3COLD (R396): Power is removed, keeping only flash. -/
  | d3cold
  /-- D0_IDLE_ENTRY (R396): After 1 ms without a live team the core clocks are gated. -/
  | d0IdleEntry
  /-- D0_IDLE_EXIT (R396): A team becomes live and the core clocks run again. -/
  | d0IdleExit
  /-- SENSOR_WARNING (R390): A sensor crosses its warning threshold and its action is taken. -/
  | sensorWarning
  /-- SHUTDOWN (R390): A critical sensor stops every clock and turns off the power stages. -/
  | shutdown
  /-- CLOCK_STEP_DOWN (R390): The core clock drops one step, at most once per millisecond. -/
  | clockStepDown
  /-- CLOCK_STEP_UP (R390): After 10 ms without a stepping warning the clock rises one step. -/
  | clockStepUp
  /-- LANTENT_HIGH_WRITE (R389): Host write of a Lantern entry's high word, stored only while FULL is 0. -/
  | lantentHighWrite
  /-- LANTENT_HIGH_READ (R389): Host read of a Lantern entry's high word, clearing FULL. -/
  | lantentHighRead
  /-- LANTASG_WRITE (R389): Assigns a Lantern entry and clears its FULL bit. -/
  | lantasgWrite
  /-- LQCFG_WRITE (R300): Enables a launch queue, clearing LQHEAD, or disables it. -/
  | lqcfgWrite
  /-- FSQCFG_WRITE (R341): Configures the fault queue; clearing EN drops waiting records. -/
  | fsqcfgWrite
  /-- FSQHEAD_WRITE (R338): Advancing the fault queue head lets waiting records be written. -/
  | fsqheadWrite
  /-- RRHEAD_WRITE (R308): Advancing the report ring head lets held records be written. -/
  | rrheadWrite
  /-- PTROOT_WRITE (R341): Sets the translation root, a clear of EN being ignored while the function is busy. -/
  | ptrootWrite
  /-- NCWIN_WRITE (R366): Changes a non-coherent window after caches drop its old range. -/
  | ncwinWrite
  /-- L2CFG_WRITE (R379): Sets way and slice masks, a slice change waiting for the function's lines to drop. -/
  | l2cfgWrite
  /-- ALIAS_WRITE (R376): A write through the alias reaches function VFSEL's register with hypervisor authority. -/
  | aliasWrite
  /-- REGISTER_WRITE (R397): A write to a register with no row of its own, ignored whole when out of range. -/
  | registerWrite
  /-- DEBUGGER_HALT (R202): The debugger halts a block through the Lantern, parking its teams with cause debug. -/
  | debuggerHalt
  /-- DEBUGGER_RESUME (R109): The debugger resumes a team or block parked with cause debug. -/
  | debuggerResume
  /-- SENSOR_WARNING_END (R390): A sensor returns inside its warning threshold and bit 63 of SENSOR(n) clears. -/
  | sensorWarningEnd
  deriving DecidableEq, Repr

end Sys2Proof
end

