-- ==== Sys2Proof/Machine/Encoding.lean ====
section
/-!
DEFINITION. The encoding tables of Galnum: types and their codes (R58), the forms of each major opcode with their field
kinds, types, MOD values and cross-lane reads (R63, R64 and each instruction's description), and the four checks of R66
that look inside a matched form: FIELD, TYPE, MOD, XL and REG.
-/
namespace Sys2Proof.Machine

/-- The code of a type (R58). -/
def tyCode (t : Ty) : Nat :=
  match t with
  | .s32 => 0 | .n32 => 1 | .s64 => 2 | .n64 => 3 | .s16x2 => 4 | .n16x2 => 5 | .s8x4 => 6 | .n8x4 => 7
  | .f32 => 8 | .f16x2 => 9 | .bf16x2 => 10 | .f64 => 11 | .e4m3 => 12 | .e5m2 => 13 | .e2m1 => 14 | .i4x => 15

/-- The type of a code (R58); codes are taken modulo 16. -/
def tyOfCode (n : Nat) : Ty :=
  match n % 16 with
  | 0 => .s32 | 1 => .n32 | 2 => .s64 | 3 => .n64 | 4 => .s16x2 | 5 => .n16x2 | 6 => .s8x4 | 7 => .n8x4
  | 8 => .f32 | 9 => .f16x2 | 10 => .bf16x2 | 11 => .f64 | 12 => .e4m3 | 13 => .e5m2 | 14 => .e2m1 | _ => .i4x

/-- Types whose lane values take an even pair of vector registers (R54). -/
def tyWide (t : Ty) : Bool :=
  match t with
  | .s64 => true | .n64 => true | .f64 => true | _ => false

/-- Element width in bits (R58). -/
def tyWidth (t : Ty) : Nat :=
  match t with
  | .s32 => 32 | .n32 => 32 | .s64 => 64 | .n64 => 64 | .s16x2 => 16 | .n16x2 => 16 | .s8x4 => 8 | .n8x4 => 8
  | .f32 => 32 | .f16x2 => 16 | .bf16x2 => 16 | .f64 => 64 | .e4m3 => 8 | .e5m2 => 8 | .e2m1 => 4 | .i4x => 4

/-- Elements of one operand value (R58). -/
def tyCount (t : Ty) : Nat := if tyWide t then 1 else 32 / tyWidth t

/-- Integer types whose name begins with s hold two's-complement values (R113). -/
def tySigned (t : Ty) : Bool :=
  match t with
  | .s32 => true | .s64 => true | .s16x2 => true | .s8x4 => true | _ => false

/-- The floating-point types f32, f16x2, bf16x2 and f64. -/
def tyFloat (t : Ty) : Bool :=
  match t with
  | .f32 => true | .f16x2 => true | .bf16x2 => true | .f64 => true | _ => false

/-- The registers that one operand covers. -/
inductive Wid where
  /-- By the instruction's type: a pair in a lane instruction of a 64-bit type (R54). -/
  | ty
  /-- One register whatever the type. -/
  | one
  /-- A 64-bit value: an even vector pair, or one scalar register. -/
  | w64
  /-- An even pair of registers. -/
  | pair
  /-- A span of `vn` vector registers from a multiple of `va`, or of `sn` scalar registers from a multiple of `sa`. -/
  | span (vn va sn sa : Nat)
  /-- The source type in bits 3:0 of C (CVT, R137). -/
  | st
  /-- The span of ACAS (R173). -/
  | acas
  /-- The key, cursor and window of a table instruction (R231). -/
  | table
  deriving DecidableEq, Repr

/-- What a source field A, B or C of a form carries. -/
inductive FK where
  /-- No operand: zero, with its wait and kind bits (R65). -/
  | zero
  /-- A register, vector or scalar by its kind bit (R52). -/
  | src (w : Wid)
  /-- A register whose kind bit is 0. -/
  | vsrc (w : Wid)
  /-- A register whose kind bit is 1: one scalar value for every lane. -/
  | ssrc (w : Wid)
  /-- A destination register in C: no wait and no kind bit (R275, R258). -/
  | dst (w : Wid)
  /-- A predicate number (R55). -/
  | pred
  /-- A number with bits outside the mask zero, and no register. -/
  | raw (mask : Nat)
  deriving DecidableEq, Repr

/-- What field D of a form carries. -/
inductive DK where
  | zero
  /-- A destination. -/
  | dst (w : Wid)
  /-- A register read through D, with wait and kind bits WB and KB (R160, R275). -/
  | rd (w : Wid)
  /-- Read and then written (AMO, ACAS). -/
  | rw (w : Wid)
  /-- pE:pD (R55). -/
  | preds
  /-- A number with bits outside the mask zero. -/
  | raw (mask : Nat)
  deriving DecidableEq, Repr

/-- Where LIT goes in an X-form (R50). -/
inductive LitK where
  /-- It replaces operand B. -/
  | opb
  /-- It replaces the byte offset in C. -/
  | off
  /-- It stands for operand A, whose field is zero (SLEEP, TSB). -/
  | opa
  /-- It stands beside the fields (a target, MOVI, TRAP). -/
  | own
  deriving DecidableEq, Repr

/-- The forms of one major opcode (R64). -/
structure Desc where
  sOk : Bool
  lOk : Bool
  xOk : Bool
  laneOk : Bool
  uniOk : Bool
  d : DK
  a : FK
  b : FK
  c : FK
  types : List Ty
  mods : List Nat
  xl : Bool
  lit : LitK
  /-- Default type of the S-form (R51). -/
  dty : Ty
  /-- Reserved to handler mode (R69). -/
  handler : Bool
  deriving DecidableEq, Repr

/-- The forms L and X, lane and uniform, type s32 only, no operand: the base the table rows change. -/
def descBase : Desc :=
  { sOk := false, lOk := true, xOk := false, laneOk := true, uniOk := true, d := .zero, a := .zero, b := .zero, c := .zero,
    types := [.s32], mods := [0], xl := false, lit := .own, dty := .s32, handler := false }

def tysInt : List Ty := [.s32, .n32, .s64, .n64]
def tysIntPacked : List Ty := tysInt ++ [.s16x2, .n16x2, .s8x4, .n8x4]
def tysFloat : List Ty := [.f32, .f16x2, .bf16x2, .f64]
def tysArith : List Ty := tysIntPacked ++ tysFloat
def tysScaled : List Ty := [.e4m3, .e5m2, .e2m1, .i4x]
def tysMem : List Ty := [.s32, .n32, .s64, .n64, .f32, .f64]
def modsRnd : List Nat := [0, 1, 2, 3]

/-- The shapes of R124. -/
def descUnary (types : List Ty) (mods : List Nat) (dty : Ty) : Desc :=
  { descBase with sOk := true, d := .dst .ty, a := .src .ty, types := types, mods := mods, xl := true, dty := dty }
def descBinary (types : List Ty) (mods : List Nat) : Desc :=
  { descBase with xOk := true, d := .dst .ty, a := .src .ty, b := .src .ty, types := types, mods := mods, xl := true, lit := .opb }
def descTernary (types : List Ty) (mods : List Nat) : Desc := { descBinary types mods with c := .src .ty }

/-- A lane-only long-latency instruction of chapter 07 (R146). -/
def descCross (types : List Ty) (mods : List Nat) : Desc :=
  { descBase with uniOk := false, d := .dst .ty, a := .src .ty, types := types, mods := mods }

/-- A function-unit instruction (R151). -/
def descFu : Desc :=
  { descBase with uniOk := false, d := .dst .one, a := .src .one, c := .raw 0xFF, types := [.f32], xl := true }

/-- A memory-shaped instruction: A the key, B the space, C or LIT the offset (R160). -/
def descMem (d : DK) (types : List Ty) (mods : List Nat) : Desc :=
  { descBase with xOk := true, d := d, a := .src .one, b := .raw 0xFF, c := .raw 0xFF, types := types, mods := mods, lit := .off }

/-- A table instruction (R230, R232). DESIGN CHOICE: its TY is a field that must be zero, so a nonzero one is FIELD as R230 says, where R58 and
R66 say TYPE of a type that an instruction does not accept (log entry 101). DESIGN CHOICE: TSTAT takes any A and WA, whose register it waits for or takes
EMPTY of like any source: R241 gives the encoding A = 0, WA = 1 and no outcome for another (log entry 121; unsafe). -/
def descTab (lane uni : Bool) (d : DK) (mods : List Nat) : Desc :=
  { descBase with xOk := true, laneOk := lane, uniOk := uni, d := d, a := .vsrc .table, b := .raw 0xFF, c := .raw 0xFF, mods := mods, lit := .off }

/-- A uniform-only instruction of type code 0. -/
def descUni (d : DK) (a b c : FK) : Desc := { descBase with laneOk := false, d := d, a := a, b := b, c := c }

/-- A branch or call with its target in LIT (R154). -/
def descTarget (uni : Bool) (d : DK) (a : FK) : Desc :=
  { descBase with lOk := false, xOk := true, laneOk := !uni, uniOk := uni, d := d, a := a }

/-- A form that has only an S-form, uniform (R154, R197). -/
def descShort (handler : Bool) : Desc := { descBase with sOk := true, lOk := false, laneOk := false, handler := handler }

def descsInt : List (Nat × Desc) := [
  (0x001, descBinary tysIntPacked [0]), (0x002, descBinary tysIntPacked [0]),
  (0x003, descBinary (tysInt ++ [.s16x2, .n16x2]) [0]), (0x004, descBinary tysInt [0]),
  (0x005, descTernary tysInt [0]), (0x006, descBinary tysInt [0]), (0x007, descBinary tysInt [0]),
  (0x008, descBinary tysIntPacked [0]), (0x009, descBinary tysIntPacked [0]),
  (0x00A, descUnary [.s32, .s64, .s16x2, .s8x4] [0] .s32), (0x00B, descUnary tysIntPacked [0] .s32),
  (0x00C, descBinary tysIntPacked [0]), (0x00D, descBinary tysIntPacked [0]),
  (0x00E, descBinary tysInt [0]), (0x00F, descBinary tysInt [0]), (0x010, descBinary tysInt [0]), (0x011, descBinary tysInt [0]),
  (0x012, descUnary tysInt [0] .s32), (0x013, descBinary tysInt [0]), (0x014, descBinary tysInt [0]),
  (0x015, descBinary tysInt [0]), (0x016, descBinary tysInt [0]), (0x017, descBinary tysInt [0]), (0x018, descTernary tysInt [0]),
  (0x019, descUnary tysInt [0] .s32), (0x01A, descUnary tysInt [0] .s32), (0x01B, descUnary tysInt [0] .s32),
  (0x01C, descUnary tysInt [0] .s32), (0x01D, { descBinary tysArith [0] with c := .pred }), (0x01E, descUnary tysArith [0] .s32),
  (0x01F, { descBase with lOk := false, xOk := true, d := .dst .ty, types := tysArith }),
  (0x020, descTernary [.n32] [0]),
  (0x021, { descBase with d := .dst .ty, a := .raw 0xFF, types := [.n32, .n64] }),
  (0x022, { descBase with laneOk := false, d := .raw 0xFF, a := .src .one, types := [.n32, .n64] }),
  (0x023, { descBinary [.n32] [0] with c := .pred })]

def descsFloat : List (Nat × Desc) := [
  (0x040, descBinary tysFloat modsRnd), (0x041, descBinary tysFloat modsRnd), (0x042, descBinary tysFloat modsRnd),
  (0x043, descTernary tysFloat modsRnd), (0x044, descBinary tysFloat [0]), (0x045, descBinary tysFloat [0]),
  (0x046, descUnary tysFloat [0] .f32), (0x047, descUnary tysFloat [0] .f32),
  (0x048, descBinary [.f32, .f16x2, .f64] modsRnd), (0x049, descUnary [.f32, .f16x2, .f64] modsRnd .f32),
  (0x04A, descUnary [.f32, .f16x2, .f64] modsRnd .f32), (0x04B, descUnary tysFloat modsRnd .f32),
  (0x04C, { descUnary tysFloat [0] .f32 with d := .dst .one }),
  (0x04D, { descBinary tysFloat modsRnd with b := .src .one }), (0x04E, descTernary [.f16x2, .bf16x2] modsRnd),
  (0x080, { descBase with d := .dst .ty, a := .src .st, c := .raw 0x0F, types := tysInt ++ tysFloat, mods := [0, 1, 2, 3, 4], xl := true }),
  (0x081, { descBinary [.s16x2, .n16x2, .s8x4, .n8x4, .f16x2, .bf16x2, .e4m3, .e5m2, .e2m1] [0, 1, 2, 3, 4] with c := .raw 0x0F }),
  (0x082, { descBase with d := .dst .one, a := .src .one, c := .raw 0x0F, types := [.s32, .n32, .s16x2, .n16x2, .f32, .f16x2, .bf16x2, .e4m3], mods := [0, 1], xl := true }),
  (0x083, { descBase with uniOk := false, d := .dst .one, a := .src .one, types := tysScaled, mods := modsRnd }),
  (0x084, { descBase with uniOk := false, d := .dst .one, a := .src .one, types := tysScaled })]

def descsPred : List (Nat × Desc) := [
  (0x0A0, { descBinary tysInt [0, 1, 2, 3, 4, 5] with d := .preds }),
  (0x0A1, { descBinary tysFloat [0, 1, 2, 3, 4, 5, 6, 7] with d := .preds }),
  (0x0A2, { descBase with d := .preds, a := .pred, b := .pred, mods := [0, 1, 2, 3, 4, 5, 6, 7] }),
  (0x0A3, { descBase with mods := [0, 1, 2] }),
  (0x0C0, { descCross tysArith modsRnd with xOk := true, b := .src .one, lit := .opb }),
  (0x0C1, { descCross tysArith [0] with xOk := true, b := .ssrc .one, lit := .opb }),
  (0x0C2, { descCross [.s32] modsRnd with a := .pred, d := .dst .one }),
  (0x0C3, { descCross tysMem [0] with sOk := true, d := .dst .one }),
  (0x0C4, { descCross (tysInt ++ tysFloat) [0, 1, 2, 3, 4, 5, 6, 7] with sOk := true }),
  (0x0C5, { descCross (tysInt ++ tysFloat) modsRnd with sOk := true }),
  (0x0C6, { descCross [.s32, .n32, .f32] [0, 1] with xOk := true, d := .dst .pair, b := .src .one, lit := .opb }),
  (0x0C7, { descCross [.s32, .n32, .f32] [0, 1] with xOk := true, d := .dst .pair, b := .ssrc .one, lit := .opb }),
  (0x0E0, descFu), (0x0E1, descFu), (0x0E2, descFu), (0x0E3, descFu), (0x0E4, { descFu with d := .dst .pair }),
  (0x0E5, { descFu with b := .src .one }), (0x0E6, descFu), (0x0E7, descFu), (0x0E8, descFu), (0x0E9, descFu)]

def tysAll : List Ty := tysArith ++ tysScaled

def descsMem : List (Nat × Desc) := [
  (0x100, descMem (.dst .ty) tysAll [0]), (0x101, descMem (.rd .ty) tysAll modsRnd),
  (0x102, { descMem (.dst .one) (.f32 :: tysScaled) [0] with uniOk := false }),
  (0x103, { descMem (.rd .one) tysScaled modsRnd with uniOk := false }),
  (0x104, descMem (.rw .ty) (tysInt ++ tysFloat) [0, 1, 2, 3, 4, 5, 6, 7]),
  (0x105, descMem (.rd .ty) (tysInt ++ tysFloat) [0, 1, 2, 3, 4, 5, 6, 7]),
  (0x106, descMem (.rw .acas) tysInt [0]),
  (0x107, { descUni .zero (.raw 0x1F) (.raw 0x1F) (.raw 0x01) with mods := [0, 1, 2, 3, 4, 5] }),
  (0x108, descMem .zero [.s32] [0, 1]),
  (0x109, { descMem (.dst .ty) tysMem [0] with b := .zero }),
  (0x140, descTab true true .preds [0, 1, 2, 4, 5, 6]), (0x141, descTab true true .preds [0, 1, 2, 4, 5, 6]),
  (0x142, descTab true true .preds [0, 1, 2]), (0x143, descTab true true .preds [0, 1, 2]),
  (0x144, descTab true false .preds [0, 1, 2, 4, 5, 6]), (0x145, descTab true false .preds [0]),
  (0x146, descTab true false .preds [0]), (0x147, descTab true false .preds [0]), (0x148, descTab true false .zero [0]),
  (0x149, descTab false true (.dst .one) [0, 4, 5, 6]), (0x14A, descTab false true (.dst .one) [0, 1, 2, 3, 4, 5])]

def descsEngine : List (Nat × Desc) := [
  (0x160, { descBase with uniOk := false, d := .dst (.span 32 1 32 1), a := .src .one, b := .ssrc (.span 4 4 4 4), types := [.f32], dty := .f32 }),
  (0x161, { descUni (.dst .one) .zero .zero .zero with sOk := true }),
  (0x162, { descBase with uniOk := false, d := .preds, a := .vsrc (.span 3 2 3 2), b := .raw 0x3F, c := .dst .pair }),
  (0x163, descUni (.dst .one) (.src .one) (.src .one) .zero),
  (0x164, { descBase with sOk := true, uniOk := false, a := .vsrc (.span 34 1 34 1), types := [.f32], dty := .f32 }),
  (0x180, { descUni (.dst .one) (.src .one) (.src .one) .zero with xOk := true, lit := .opb }),
  (0x181, { descMem (.rd .one) [.s32] [0] with laneOk := false }), (0x182, descMem (.rd .one) [.s32] [0]),
  (0x183, { descMem .zero [.s32] [0] with laneOk := false }), (0x184, { descMem (.rd .one) [.s32] [0] with laneOk := false }),
  (0x185, { descBase with xOk := true, a := .src .w64, b := .src .one, lit := .opb }),
  (0x186, { descBase with xOk := true, d := .preds, b := .src .one, c := .dst .w64, lit := .opb }),
  (0x187, { descBase with uniOk := false, a := .src .one, b := .src .w64 }),
  (0x188, { descUni (.dst .one) .zero (.src .one) .zero with xOk := true, mods := [0, 1, 2, 3, 4], lit := .opb })]

def descsControl : List (Nat × Desc) := [
  (0x1A0, descTarget true .zero .zero), (0x1A1, descTarget false .zero .pred), (0x1A2, descTarget false .zero .pred),
  (0x1A3, descTarget false .zero .pred), (0x1A4, descTarget true (.dst .one) .zero),
  (0x1A5, { descUni .zero (.src .one) .zero .zero with sOk := true }),
  (0x1A6, { descUni .zero (.src .one) (.src .one) .zero with xOk := true, lit := .opb }),
  (0x1A7, descTarget true (.dst .one) .zero), (0x1A8, { descBase with sOk := true }), (0x1A9, descShort false),
  (0x1AA, { descUni .zero (.src .one) .zero .zero with sOk := true, xOk := true, lit := .opa }), (0x1AB, descShort false),
  (0x1AC, descTarget true .zero .zero),
  (0x1C0, descUni (.dst .one) (.src .one) .zero .zero),
  (0x1C1, { descUni (.dst .one) (.src .one) .zero .zero with mods := [0, 1, 2, 3, 4, 5, 6, 7] }),
  (0x1C2, { descUni .preds .zero .zero .zero with mods := [0, 1, 2] }),
  (0x1C3, { descUni (.dst .one) (.src .one) (.src .one) .zero with xOk := true, lit := .opb }),
  (0x1C4, { descMem (.rd .one) [.s32] [0, 1, 2, 3, 4, 5] with laneOk := false }),
  (0x1C5, { descMem (.rd .one) [.s32] [0, 1, 2, 3, 4, 5] with laneOk := false }),
  (0x1E0, descShort true),
  (0x1E1, { descUni (.dst .one) (.src .one) .zero .zero with sOk := true, xOk := true, lit := .opa, handler := true }),
  (0x1E2, descShort true), (0x1E3, descShort true), (0x1E4, descShort false),
  (0x1E5, { descUni (.dst .one) (.src .one) (.src .one) (.src .one) with handler := true }),
  (0x1E6, descUni (.dst .one) (.src .one) (.src .one) (.src .one)),
  (0x1E7, descUni (.dst (.span 2 2 2 2)) (.src .one) .zero .zero)]

/-- The descriptors by major opcode; an opcode not listed is reserved (R63), as 0x000 is. -/
def descTable : List (Nat × Desc) := descsInt ++ descsFloat ++ descsPred ++ descsMem ++ descsEngine ++ descsControl

/-- The value of the first row whose key is `k`. -/
def rowOf {α : Type} (l : List (Nat × α)) (k : Nat) : Option α :=
  match l with
  | [] => none
  | (k', v) :: r => if k' = k then some v else rowOf r k

/-- The descriptor that matches a form: PMOV's fields follow its mode (R144), VOTE's its MOD (R146).
DESIGN CHOICE: R144 names no fields for PMOV's modes 3 to 7, which MOD refuses after FIELD. B and C, an operand in no mode,
must be zero there (R65); D and A, a field of some mode, are let pass. R146 names no fields for VOTE's MOD 4 to 7 either: D is taken for a register there, so
that neither D[7:6] nor pD = pE is checked before MOD refuses it (log entry 102; unsafe: another reading changes the subcode). -/
def descOf (op : Nat) (f : Form) : Option Desc :=
  match rowOf descTable op with
  | none => none
  | some ds =>
    if op = 0x0A3 then
      (match f.mod.toNat with
       | 0 => some { ds with d := .preds, a := .pred }
       | 1 => some { ds with d := .dst .one }
       | 2 => some { ds with a := .src .one }
       | _ => some { ds with d := .raw 0xFF, a := .src .one })
    else if op = 0x0C2 then (if f.mod.toNat < 2 then some { ds with d := .preds } else some ds)
    else some ds

/-- The Form that an S-form stands for (R51): WA is 1 exactly when it carries an operand A. -/
def expandShort (op : Nat) (f : SForm) : Form :=
  let ds := (rowOf descTable op).getD descBase
  { uni := f.uni, gp := f.gp, gn := f.gn, d := f.d, a := f.a, b := 0, c := 0,
    wa := (match ds.a with | .src _ => true | .vsrc _ => true | _ => false), wb := false, wc := false,
    ka := false, kb := false, kc := false, ty := ds.dty, mod := 0, xl := 0, lit := none }

/-- Limits a team's decoder checks against: declared register counts (R53) and the length of the text (R155). -/
structure Limits where
  vregs : Nat
  sregs : Nat
  textLen : Nat
  deriving DecidableEq, Repr

/-- The largest limits: every register, any target. -/
def Limits.widest : Limits := { vregs := 256, sregs := 128, textLen := 4294967296 }

/-- The field kinds of a form once LIT has taken its place (R50). -/
def litFields (ds : Desc) (f : Form) : Desc :=
  match f.lit with
  | none => ds
  | some _ =>
    match ds.lit with
    | .opb => { ds with b := .zero }
    | .off => { ds with c := .zero }
    | .opa => { ds with a := .zero }
    | .own => ds

/-- R52, R55, R65: a source field with its wait bit and kind bit. -/
def srcFieldOk (k : FK) (uni : Bool) (v : BitVec 8) (w kind : Bool) : Bool :=
  match k with
  | .zero => v == 0 && !w && !kind
  | .src _ => !(uni && kind)
  | .vsrc _ => !kind
  | .ssrc _ => kind
  | .dst _ => !w && !kind
  | .pred => decide (v.toNat < 8) && !kind
  | .raw mask => v.toNat ||| mask == mask && !w && !kind

/-- WB and KB belong to the register read through D (R160). -/
def dReads (d : DK) : Bool :=
  match d with
  | .rd _ => true
  | .rw _ => true
  | _ => false

/-- R52, R55: field D. -/
def dFieldOk (k : DK) (v : BitVec 8) : Bool :=
  match k with
  | .zero => v == 0
  | .dst _ => true
  | .rd _ => true
  | .rw _ => true
  | .preds => decide (v.toNat < 64) && (v.toNat % 8 != v.toNat / 8 || v.toNat % 8 == 7)
  | .raw mask => v.toNat ||| mask == mask

/-- Special registers a program may write: FPCTL, FPFLAGS, SEED, RPROG and the trap registers (R133). -/
def swrWritable (n : Nat) : Bool := decide (13 ≤ n ∧ n ≤ 16) || decide (20 ≤ n ∧ n ≤ 25)

/-- The source types PACK and UNPK accept for a narrow type (R138, R139): pairs (narrow, wide). -/
def packPairs : List (Ty × Ty) :=
  [(.f16x2, .f32), (.bf16x2, .f32), (.e4m3, .f16x2), (.e4m3, .bf16x2), (.e5m2, .f16x2), (.e5m2, .bf16x2), (.e2m1, .e4m3),
   (.s16x2, .s32), (.s16x2, .n32), (.n16x2, .s32), (.n16x2, .n32),
   (.s8x4, .s16x2), (.s8x4, .n16x2), (.n8x4, .s16x2), (.n8x4, .n16x2)]

/-- The byte offset of a memory-shaped or table instruction: C, or LIT in the X-form (R50). -/
def offsetOf (f : Form) : Nat :=
  match f.lit with
  | some l => l.toNat
  | none => f.c.toNat

/-- The FIELD rules that belong to one instruction's own description; a table instruction's TY among them (R230). DESIGN CHOICE: TCNT and TSTAT with a
nonzero offset in C or LIT are accepted and the offset is not used: their assembly carries none (R240, R241), and R232's list of the instructions whose
offset must be zero leaves them out (log entry 121; unsafe: another reading raises FIELD). -/
def ownFieldOk (op : Nat) (lim : Limits) (f : Form) : Bool :=
  let st := tyOfCode f.c.toNat
  if op = 0x021 then decide (f.a.toNat ≤ 25) && !(f.uni && f.a == 1)
  else if op = 0x022 then swrWritable f.d.toNat
  else if op = 0x080 then (tysInt ++ tysFloat).contains st && st != f.ty
  else if op = 0x081 then packPairs.contains (f.ty, st)
  else if op = 0x082 then packPairs.contains (st, f.ty)
  else if 0x0E0 ≤ op ∧ op ≤ 0x0E9 then decide (4 ≤ f.c.toNat ∧ f.c.toNat ≤ 26)
  else if (0x100 ≤ op ∧ op ≤ 0x106) ∨ op = 0x108 ∨ (0x181 ≤ op ∧ op ≤ 0x184) ∨ op = 0x1C4 ∨ op = 0x1C5 then decide (f.b.toNat ≤ 0x41)
  else if 0x140 ≤ op ∧ op ≤ 0x14A then
    let noOff := op == 0x142 || op == 0x144 || op == 0x145 || op == 0x147 || op == 0x148 || (op == 0x140 && f.mod.toNat ≥ 4)
    f.ty == .s32 && !((noOff || op == 0x149 || op == 0x14A) && decide (f.b.toNat ≥ 64)) && !(noOff && offsetOf f != 0)
  else if op = 0x162 then f.a.toNat % 2 == 0 && f.c.toNat % 2 == 0
  else if 0x1A0 ≤ op ∧ op ≤ 0x1A7 ∧ op ≠ 0x1A5 ∧ op ≠ 0x1A6 then
    (match f.lit with
     | some l => l.toNat % 4 == 0 && decide (l.toNat < lim.textLen)
     | none => true)
  else true

/-- Order 4 of R66. -/
def fieldOk (op : Nat) (ds : Desc) (lim : Limits) (f : Form) : Bool :=
  let e := litFields ds f
  !(f.uni && (f.ka || f.kb || f.kc)) && dFieldOk e.d f.d
    && srcFieldOk e.a f.uni f.a f.wa f.ka
    && (if dReads e.d then srcFieldOk e.b f.uni f.b false false else srcFieldOk e.b f.uni f.b f.wb f.kb)
    && srcFieldOk e.c f.uni f.c f.wc f.kc
    && ownFieldOk op lim f

/-- Conversions of CVT that are exact for every value, so that no rounding code is accepted (R137). -/
def cvtExact (dt st : Ty) : Bool :=
  (!tyFloat dt && !tyFloat st) || [(Ty.f16x2, Ty.f32), (.bf16x2, .f32), (.f16x2, .f64), (.bf16x2, .f64), (.f32, .f64), (.s32, .f64), (.n32, .f64)].contains (st, dt)

/-- Order 6 of R66: the MOD values of the descriptor, and the pairings of MOD with a type (R119, R137, R138, R149, R171). -/
def modOk (op : Nat) (ds : Desc) (f : Form) : Bool :=
  let m := f.mod.toNat
  let st := tyOfCode f.c.toNat
  ds.mods.contains m &&
    (if op = 0x0C4 ∨ op = 0x0C5 then !(tyFloat f.ty && m % 4 == 3)
     else if op = 0x104 ∨ op = 0x105 then
       (if m ≤ 2 then true
        else if m ≤ 5 then tysInt.contains f.ty
        else if m = 6 then tysMem.contains f.ty
        else f.ty == .n32 || f.ty == .n64)
     else if op = 0x080 then
       m == 0 || (!cvtExact f.ty st && (decide (m < 4) || f.ty == .f16x2 || f.ty == .bf16x2 || (f.ty == .f32 && st == .f64)))
     else if op = 0x081 then decide (m < 4) || [Ty.f16x2, .bf16x2, .e4m3, .e5m2, .e2m1].contains f.ty
     else true)

/-- Order 7 of R66 (R62). -/
def xlOk (ds : Desc) (f : Form) : Bool := f.xl == 0 || (ds.xl && !f.uni && !f.ka)

/-- Key registers of a table instruction: their count and alignment (R231). -/
def tableKeyRegs (op : Nat) (f : Form) : Nat × Nat :=
  if 0x145 ≤ op ∧ op ≤ 0x148 then (6, 2)
  else if op = 0x149 then (if f.mod.toNat ≥ 4 then (2, 2) else (1, 1))
  else if op = 0x14A then (1, 1)
  else
    (match f.mod.toNat % 4, f.uni with
     | 0, _ => (1, 1)
     | 1, false => (2, 2)
     | 1, true => (1, 1)
     | _, false => (4, 2)
     | _, true => (2, 2))

/-- Words of the window of a table instruction; 0 where it has none (R230, R232). -/
def tableWindow (op : Nat) (f : Form) : Nat :=
  if op = 0x140 ∨ op = 0x141 ∨ op = 0x143 ∨ op = 0x144 ∨ op = 0x146 then 2 ^ (f.b.toNat / 64) else 0

/-- Registers an operand covers and the multiple it starts at; `vec` for vector registers (R53, R54). -/
def widRegs (op : Nat) (f : Form) (w : Wid) (vec : Bool) : Nat × Nat :=
  match w with
  | .ty => if vec && tyWide f.ty then (2, 2) else (1, 1)
  | .one => (1, 1)
  | .w64 => if vec then (2, 2) else (1, 1)
  | .pair => (2, 2)
  | .span vn va sn sa => if vec then (vn, va) else (sn, sa)
  | .st => if vec && tyWide (tyOfCode f.c.toNat) then (2, 2) else (1, 1)
  | .acas => if vec && tyWide f.ty then (4, 4) else (2, 2)
  | .table => let k := tableKeyRegs op f; (k.1 + tableWindow op f, k.2)

/-- R52, R53: a register field names registers within the declared counts, aligned. -/
def regFieldOk (op : Nat) (lim : Limits) (f : Form) (w : Wid) (v : BitVec 8) (vec : Bool) : Bool :=
  let r := widRegs op f w vec
  v.toNat % r.2 == 0 && decide (v.toNat + r.1 ≤ (if vec then lim.vregs else lim.sregs))

def srcRegOk (op : Nat) (lim : Limits) (f : Form) (k : FK) (v : BitVec 8) (kind : Bool) : Bool :=
  match k with
  | .src w => regFieldOk op lim f w v (!f.uni && !kind)
  | .vsrc w => regFieldOk op lim f w v (!f.uni)
  | .ssrc w => regFieldOk op lim f w v false
  | .dst w => regFieldOk op lim f w v (!f.uni)
  | _ => true

def dRegOk (op : Nat) (lim : Limits) (f : Form) (k : DK) : Bool :=
  match k with
  | .dst w => regFieldOk op lim f w f.d (!f.uni)
  | .rd w => regFieldOk op lim f w f.d (!f.uni && !f.kb)
  | .rw w => regFieldOk op lim f w f.d (!f.uni && !f.kb)
  | _ => true

/-- Order 8 of R66. The key register of MMA lies outside the tile (R258). -/
def regOk (op : Nat) (ds : Desc) (lim : Limits) (f : Form) : Bool :=
  let e := litFields ds f
  dRegOk op lim f e.d && srcRegOk op lim f e.a f.a f.ka
    && srcRegOk op lim f e.b f.b (if dReads e.d then false else f.kb)
    && srcRegOk op lim f e.c f.c f.kc
    && !(op == 0x160 && !f.ka && decide (f.d.toNat ≤ f.a.toNat ∧ f.a.toNat < f.d.toNat + 32))

/-- The reasons decoding fails (R66). -/
inductive IllSub where
  | len | opcode | form | field | type | mod | xl | reg
  deriving DecidableEq, Repr

/-- The subcode of each failure (R66, R180). -/
def illCode (s : IllSub) : Nat :=
  match s with
  | .len => 1 | .opcode => 2 | .form => 3 | .field => 4 | .type => 5 | .mod => 6 | .xl => 7 | .reg => 8

/-- The first failed check of orders 3 to 8 of R66 for major opcode `op`; `short` for an S-form. -/
def checkForm (op : Nat) (lim : Limits) (short : Bool) (f : Form) : Option IllSub :=
  match descOf op f with
  | none => some .opcode
  | some ds =>
    let lenOk := if short then ds.sOk else (match f.lit with | none => ds.lOk | some _ => ds.xOk)
    if !(lenOk && (if f.uni then ds.uniOk else ds.laneOk)) then some .form
    else if !fieldOk op ds lim f then some .field
    else if !ds.types.contains f.ty then some .type
    else if !modOk op ds f then some .mod
    else if !xlOk ds f then some .xl
    else if !regOk op ds lim f then some .reg
    else none

end Sys2Proof.Machine
end

