-- ==== Sys2Proof/Machine/Rows.lean ====
section
/-!
DEFINITION. The rows of the opcode table by major opcode: which constructor a matched form becomes, and the opcode and
fields of each constructor.
-/
namespace Sys2Proof.Machine

/-- A matched row: major opcode with the fields of an L/X-form (`w`) or of an S-form (`s`). -/
inductive Raw where
  | w (op : Nat) (f : Form)
  | s (op : Nat) (f : SForm)
  deriving DecidableEq, Repr

/-- OP, LEN class and fields of an instruction row; none for ILL, RESERVED_OPCODE and the device's events. -/
def rawOf (i : Instr) : Option Raw :=
  match i with
  | .iadd f => some (.w 0x001 f)
  | .isub f => some (.w 0x002 f)
  | .imul f => some (.w 0x003 f)
  | .imulh f => some (.w 0x004 f)
  | .imad f => some (.w 0x005 f)
  | .idiv f => some (.w 0x006 f)
  | .irem f => some (.w 0x007 f)
  | .imin f => some (.w 0x008 f)
  | .imax f => some (.w 0x009 f)
  | .iabsS f => some (.s 0x00A f)
  | .iabsL f => some (.w 0x00A f)
  | .inegS f => some (.s 0x00B f)
  | .inegL f => some (.w 0x00B f)
  | .iadds f => some (.w 0x00C f)
  | .isubs f => some (.w 0x00D f)
  | .and f => some (.w 0x00E f)
  | .or f => some (.w 0x00F f)
  | .xor f => some (.w 0x010 f)
  | .andn f => some (.w 0x011 f)
  | .notS f => some (.s 0x012 f)
  | .notL f => some (.w 0x012 f)
  | .shl f => some (.w 0x013 f)
  | .shr f => some (.w 0x014 f)
  | .sar f => some (.w 0x015 f)
  | .rol f => some (.w 0x016 f)
  | .bfx f => some (.w 0x017 f)
  | .bfi f => some (.w 0x018 f)
  | .popcS f => some (.s 0x019 f)
  | .popcL f => some (.w 0x019 f)
  | .clzS f => some (.s 0x01A f)
  | .clzL f => some (.w 0x01A f)
  | .ctzS f => some (.s 0x01B f)
  | .ctzL f => some (.w 0x01B f)
  | .brevS f => some (.s 0x01C f)
  | .brevL f => some (.w 0x01C f)
  | .sel f => some (.w 0x01D f)
  | .movS f => some (.s 0x01E f)
  | .movL f => some (.w 0x01E f)
  | .movi f => some (.w 0x01F f)
  | .prmt f => some (.w 0x020 f)
  | .srd f => some (.w 0x021 f)
  | .swr f => some (.w 0x022 f)
  | .iaddc f => some (.w 0x023 f)
  | .fadd f => some (.w 0x040 f)
  | .fsub f => some (.w 0x041 f)
  | .fmul f => some (.w 0x042 f)
  | .ffma f => some (.w 0x043 f)
  | .fmin f => some (.w 0x044 f)
  | .fmax f => some (.w 0x045 f)
  | .fabsS f => some (.s 0x046 f)
  | .fabsL f => some (.w 0x046 f)
  | .fnegS f => some (.s 0x047 f)
  | .fnegL f => some (.w 0x047 f)
  | .fdiv f => some (.w 0x048 f)
  | .fsqrtS f => some (.s 0x049 f)
  | .fsqrtL f => some (.w 0x049 f)
  | .frcpS f => some (.s 0x04A f)
  | .frcpL f => some (.w 0x04A f)
  | .frintS f => some (.s 0x04B f)
  | .frintL f => some (.w 0x04B f)
  | .fclassS f => some (.s 0x04C f)
  | .fclassL f => some (.w 0x04C f)
  | .fscale f => some (.w 0x04D f)
  | .fdot2 f => some (.w 0x04E f)
  | .cvt f => some (.w 0x080 f)
  | .pack f => some (.w 0x081 f)
  | .unpk f => some (.w 0x082 f)
  | .sbq f => some (.w 0x083 f)
  | .sbdq f => some (.w 0x084 f)
  | .icmp f => some (.w 0x0A0 f)
  | .fcmp f => some (.w 0x0A1 f)
  | .plop f => some (.w 0x0A2 f)
  | .pmov f => some (.w 0x0A3 f)
  | .shfl f => some (.w 0x0C0 f)
  | .bcst f => some (.w 0x0C1 f)
  | .vote f => some (.w 0x0C2 f)
  | .mbalS f => some (.s 0x0C3 f)
  | .mbalL f => some (.w 0x0C3 f)
  | .scanS f => some (.s 0x0C4 f)
  | .scanL f => some (.w 0x0C4 f)
  | .redS f => some (.s 0x0C5 f)
  | .redL f => some (.w 0x0C5 f)
  | .tsort f => some (.w 0x0C6 f)
  | .tselk f => some (.w 0x0C7 f)
  | .cexp2 f => some (.w 0x0E0 f)
  | .clog2 f => some (.w 0x0E1 f)
  | .csin f => some (.w 0x0E2 f)
  | .ccos f => some (.w 0x0E3 f)
  | .csincos f => some (.w 0x0E4 f)
  | .catan2 f => some (.w 0x0E5 f)
  | .ctanh f => some (.w 0x0E6 f)
  | .csigm f => some (.w 0x0E7 f)
  | .crsq f => some (.w 0x0E8 f)
  | .csqrt f => some (.w 0x0E9 f)
  | .ld f => some (.w 0x100 f)
  | .st f => some (.w 0x101 f)
  | .ldb f => some (.w 0x102 f)
  | .stb f => some (.w 0x103 f)
  | .amo f => some (.w 0x104 f)
  | .amn f => some (.w 0x105 f)
  | .acas f => some (.w 0x106 f)
  | .fence f => some (.w 0x107 f)
  | .pref f => some (.w 0x108 f)
  | .ldc f => some (.w 0x109 f)
  | .tlook f => some (.w 0x140 f)
  | .tins f => some (.w 0x141 f)
  | .tdel f => some (.w 0x142 f)
  | .tmod f => some (.w 0x143 f)
  | .tset f => some (.w 0x144 f)
  | .topen f => some (.w 0x145 f)
  | .tnext f => some (.w 0x146 f)
  | .tseek f => some (.w 0x147 f)
  | .tclose f => some (.w 0x148 f)
  | .tcnt f => some (.w 0x149 f)
  | .tstat f => some (.w 0x14A f)
  | .mma f => some (.w 0x160 f)
  | .mflushS f => some (.s 0x161 f)
  | .mflushL f => some (.w 0x161 f)
  | .kvx f => some (.w 0x162 f)
  | .qmc f => some (.w 0x163 f)
  | .credS f => some (.s 0x164 f)
  | .credL f => some (.w 0x164 f)
  | .cpk f => some (.w 0x180 f)
  | .binit f => some (.w 0x181 f)
  | .barr f => some (.w 0x182 f)
  | .bwait f => some (.w 0x183 f)
  | .waitt f => some (.w 0x184 f)
  | .qpush f => some (.w 0x185 f)
  | .qpop f => some (.w 0x186 f)
  | .rdx f => some (.w 0x187 f)
  | .qstat f => some (.w 0x188 f)
  | .bra f => some (.w 0x1A0 f)
  | .brv f => some (.w 0x1A1 f)
  | .bany f => some (.w 0x1A2 f)
  | .ball f => some (.w 0x1A3 f)
  | .call f => some (.w 0x1A4 f)
  | .retS f => some (.s 0x1A5 f)
  | .retL f => some (.w 0x1A5 f)
  | .jmpi f => some (.w 0x1A6 f)
  | .loop f => some (.w 0x1A7 f)
  | .exitS f => some (.s 0x1A8 f)
  | .exitL f => some (.w 0x1A8 f)
  | .bar f => some (.s 0x1A9 f)
  | .sleepS f => some (.s 0x1AA f)
  | .sleepL f => some (.w 0x1AA f)
  | .yield f => some (.s 0x1AB f)
  | .trap f => some (.w 0x1AC f)
  | .sgpost f => some (.w 0x1C0 f)
  | .sgpoll f => some (.w 0x1C1 f)
  | .sgchk f => some (.w 0x1C2 f)
  | .launch f => some (.w 0x1C3 f)
  | .evsig f => some (.w 0x1C4 f)
  | .evwait f => some (.w 0x1C5 f)
  | .rte f => some (.s 0x1E0 f)
  | .tsbS f => some (.s 0x1E1 f)
  | .tsbL f => some (.w 0x1E1 f)
  | .haltb f => some (.s 0x1E2 f)
  | .step f => some (.s 0x1E3 f)
  | .bkpt f => some (.s 0x1E4 f)
  | .watch f => some (.w 0x1E5 f)
  | .mbxw f => some (.w 0x1E6 f)
  | .mbxr f => some (.w 0x1E7 f)
  | .ill _ => none
  | .lateReply _ => none
  | .registerMissFill _ _ _ => none
  | .teamActivation _ => none
  | .teamEviction _ _ => none
  | .readyListSteal _ => none
  | .starvationPick _ _ => none
  | .requestRetry _ => none
  | .teamResume _ => none
  | .sleepWake _ => none
  | .teamRetirement _ => none
  | .contextImageFree _ => none
  | .cancelledPendingRetire _ => none
  | .blockPlacement _ _ => none
  | .turnEnd _ => none
  | .mmaArrayExecution _ _ => none
  | .oculusMerge _ => none
  | .copyRow _ => none
  | .pushAccept _ => none
  | .popServe _ => none
  | .rdxDepositArrival _ => none
  | .bucketFlush _ _ _ => none
  | .stageDrain _ _ => none
  | .spireBatch _ => none
  | .spireVerdict _ => none
  | .kvRelease _ _ => none
  | .campanilePost _ => none
  | .finishedSiblingCheck _ => none
  | .tailLineInvalidation _ _ => none
  | .descriptorConsume _ _ => none
  | .launchDescriptor _ => none
  | .directoryUpdate _ => none
  | .queueDescriptor _ => none
  | .cancel _ => none
  | .signal _ => none
  | .groupOpen _ => none
  | .groupFree _ => none
  | .groupFreeCompletion _ => none
  | .waitCounterWrite _ => none
  | .launchCompletion _ => none
  | .invalidationComplete _ => none
  | .quotaLimitExpiry _ => none
  | .blockAccess _ => none
  | .discardComplete _ => none
  | .heldWriteRelease _ => none
  | .heldWriteExpiry _ => none
  | .reclamationRound _ => none
  | .balwaitExpiry _ => none
  | .promotion _ => none
  | .rds _ => none
  | .rdxMsg _ => none
  | .ownnd _ => none
  | .upg _ => none
  | .atomicreq _ => none
  | .wb _ => none
  | .snps _ => none
  | .snpx _ => none
  | .inv _ => none
  | .bi _ => none
  | .data _ => none
  | .rsp _ => none
  | .atomicrsp _ => none
  | .retry _ => none
  | .poison _ => none
  | .reservedOpcode _ => none
  | .invcmd => none
  | .fsresolve => none
  | .pquotaWrite => none
  | .dlheadWrite => none
  | .discard => none
  | .logicalTimeTick => none
  | .rdshared => none
  | .rdown => none
  | .dirtyevict => none
  | .cleanevict => none
  | .snpdata => none
  | .snpinv => none
  | .snpcur => none
  | .bisnpinv => none
  | .bisnpdata => none
  | .birsp => none
  | .memrd => none
  | .memwr => none
  | .flit => none
  | .portTraining => none
  | .portDown => none
  | .lockInterfaceRequest => none
  | .startInterfaceRequest => none
  | .stopInterfaceRequest => none
  | .getDeviceInterfaceReport => none
  | .getDeviceInterfaceState => none
  | .algorithmNegotiation => none
  | .keyExchange => none
  | .finish => none
  | .heartbeat => none
  | .keyUpdate => none
  | .endSession => none
  | .getMeasurements => none
  | .bind => none
  | .sessionOpen => none
  | .sessionClose => none
  | .sessionKeyUpdate => none
  | .update => none
  | .updateReadComplete => none
  | .commit => none
  | .warmReset => none
  | .coldReset => none
  | .functionLevelReset => none
  | .d3hotEntry => none
  | .d3hotExit => none
  | .d3cold => none
  | .d0IdleEntry => none
  | .d0IdleExit => none
  | .sensorWarning => none
  | .shutdown => none
  | .clockStepDown => none
  | .clockStepUp => none
  | .lantentHighWrite => none
  | .lantentHighRead => none
  | .lantasgWrite => none
  | .lqcfgWrite => none
  | .fsqcfgWrite => none
  | .fsqheadWrite => none
  | .rrheadWrite => none
  | .ptrootWrite => none
  | .ncwinWrite => none
  | .l2cfgWrite => none
  | .aliasWrite => none
  | .registerWrite => none
  | .debuggerHalt => none
  | .debuggerResume => none
  | .sensorWarningEnd => none

/-! The constructor of each major opcode (R63): L- and X-form rows, then S-form rows. -/

def wideRows0 : List (Nat × (Form → Instr)) := [
  (0x001, .iadd), (0x002, .isub), (0x003, .imul), (0x004, .imulh), (0x005, .imad), (0x006, .idiv),
  (0x007, .irem), (0x008, .imin), (0x009, .imax), (0x00A, .iabsL), (0x00B, .inegL), (0x00C, .iadds),
  (0x00D, .isubs), (0x00E, .and), (0x00F, .or), (0x010, .xor), (0x011, .andn), (0x012, .notL),
  (0x013, .shl), (0x014, .shr), (0x015, .sar), (0x016, .rol), (0x017, .bfx), (0x018, .bfi)]

def wideRows1 : List (Nat × (Form → Instr)) := [
  (0x019, .popcL), (0x01A, .clzL), (0x01B, .ctzL), (0x01C, .brevL), (0x01D, .sel), (0x01E, .movL),
  (0x01F, .movi), (0x020, .prmt), (0x021, .srd), (0x022, .swr), (0x023, .iaddc), (0x040, .fadd),
  (0x041, .fsub), (0x042, .fmul), (0x043, .ffma), (0x044, .fmin), (0x045, .fmax), (0x046, .fabsL),
  (0x047, .fnegL), (0x048, .fdiv), (0x049, .fsqrtL), (0x04A, .frcpL), (0x04B, .frintL), (0x04C, .fclassL)]

def wideRows2 : List (Nat × (Form → Instr)) := [
  (0x04D, .fscale), (0x04E, .fdot2), (0x080, .cvt), (0x081, .pack), (0x082, .unpk), (0x083, .sbq),
  (0x084, .sbdq), (0x0A0, .icmp), (0x0A1, .fcmp), (0x0A2, .plop), (0x0A3, .pmov), (0x0C0, .shfl),
  (0x0C1, .bcst), (0x0C2, .vote), (0x0C3, .mbalL), (0x0C4, .scanL), (0x0C5, .redL), (0x0C6, .tsort),
  (0x0C7, .tselk), (0x0E0, .cexp2), (0x0E1, .clog2), (0x0E2, .csin), (0x0E3, .ccos), (0x0E4, .csincos)]

def wideRows3 : List (Nat × (Form → Instr)) := [
  (0x0E5, .catan2), (0x0E6, .ctanh), (0x0E7, .csigm), (0x0E8, .crsq), (0x0E9, .csqrt), (0x100, .ld),
  (0x101, .st), (0x102, .ldb), (0x103, .stb), (0x104, .amo), (0x105, .amn), (0x106, .acas),
  (0x107, .fence), (0x108, .pref), (0x109, .ldc), (0x140, .tlook), (0x141, .tins), (0x142, .tdel),
  (0x143, .tmod), (0x144, .tset), (0x145, .topen), (0x146, .tnext), (0x147, .tseek), (0x148, .tclose)]

def wideRows4 : List (Nat × (Form → Instr)) := [
  (0x149, .tcnt), (0x14A, .tstat), (0x160, .mma), (0x161, .mflushL), (0x162, .kvx), (0x163, .qmc),
  (0x164, .credL), (0x180, .cpk), (0x181, .binit), (0x182, .barr), (0x183, .bwait), (0x184, .waitt),
  (0x185, .qpush), (0x186, .qpop), (0x187, .rdx), (0x188, .qstat), (0x1A0, .bra), (0x1A1, .brv),
  (0x1A2, .bany), (0x1A3, .ball), (0x1A4, .call), (0x1A5, .retL), (0x1A6, .jmpi), (0x1A7, .loop)]

def wideRows5 : List (Nat × (Form → Instr)) := [
  (0x1A8, .exitL), (0x1AA, .sleepL), (0x1AC, .trap), (0x1C0, .sgpost), (0x1C1, .sgpoll), (0x1C2, .sgchk),
  (0x1C3, .launch), (0x1C4, .evsig), (0x1C5, .evwait), (0x1E1, .tsbL), (0x1E5, .watch), (0x1E6, .mbxw),
  (0x1E7, .mbxr)]

def wideRows : List (Nat × (Form → Instr)) := wideRows0 ++ wideRows1 ++ wideRows2 ++ wideRows3 ++ wideRows4 ++ wideRows5

def shortRows0 : List (Nat × (SForm → Instr)) := [
  (0x00A, .iabsS), (0x00B, .inegS), (0x012, .notS), (0x019, .popcS), (0x01A, .clzS), (0x01B, .ctzS),
  (0x01C, .brevS), (0x01E, .movS), (0x046, .fabsS), (0x047, .fnegS), (0x049, .fsqrtS), (0x04A, .frcpS),
  (0x04B, .frintS), (0x04C, .fclassS), (0x0C3, .mbalS), (0x0C4, .scanS), (0x0C5, .redS), (0x161, .mflushS),
  (0x164, .credS), (0x1A5, .retS), (0x1A8, .exitS), (0x1A9, .bar), (0x1AA, .sleepS), (0x1AB, .yield)]

def shortRows1 : List (Nat × (SForm → Instr)) := [
  (0x1E0, .rte), (0x1E1, .tsbS), (0x1E2, .haltb), (0x1E3, .step), (0x1E4, .bkpt)]

def shortRows : List (Nat × (SForm → Instr)) := shortRows0 ++ shortRows1

end Sys2Proof.Machine
end

