-- ==== Sys2Proof/WellFormed.lean ====
section
/-!
DEFINITION. Well-formed instructions: a team instruction whose fields pass every check of R66 at the widest limits, a word
that ILL or RESERVED_OPCODE stands for, and an event whose unit numbers exist (01 R8, R9; 23 R370, R376; 24 R389, R390).
-/
namespace Sys2Proof

open Machine

/-- The words of RESERVED_OPCODE: LEN = 11, a reserved opcode, or OP = 0 with other bits nonzero (R66). -/
def reservedWord (w : W32) : Bool :=
  let op := (w.toNat / 128) % 512
  w.toNat % 4 == 3 || (op == 0 && w != 0) || (op != 0 && (rowOf descTable op).isNone)

/-- Numbers that an event names lie in range. -/
def eventOk (i : Instr) : Bool :=
  match i with
  | .teamActivation c | .readyListSteal c => decide (c < 96)
  | .teamEviction c p | .starvationPick c p | .mmaArrayExecution c p => decide (c < 96 ∧ p < 32)
  | .turnEnd c => decide (c < 24)
  | .heldWriteRelease d | .heldWriteExpiry d | .reclamationRound d | .balwaitExpiry d => decide (d < 4)
  | .tailLineInvalidation f q | .descriptorConsume f q => decide (f < 64 ∧ q < 8)
  | .invalidationComplete f | .discardComplete f => decide (f < 64)
  | .blockAccess a => decide (a.fn < 64) && (match a.bytes with | none => true | some b => decide (a.addr % 256 + b.length ≤ 256))
  | .rds m | .rdxMsg m | .ownnd m | .upg m | .atomicreq m | .wb m | .snps m | .snpx m | .inv m | .bi m | .data m | .rsp m
  | .atomicrsp m | .retry m | .poison m => decide (m.die < 5 ∧ m.colour < 64) && (m.size == 32 || m.size == 128 || m.size == 512) && m.grain % m.size == 0
  | _ => true

/-- The check of one instruction at given limits: none when it is well formed. -/
def Instr.check (i : Instr) (lim : Limits) : Option IllSub :=
  match rawOf i with
  | some (.w op f) => checkForm op lim false f
  | some (.s op f) => checkForm op lim true (expandShort op f)
  | none => none

/-- A well-formed instruction at given limits. -/
def Instr.wellFormedAt (lim : Limits) (i : Instr) : Bool :=
  match i with
  | .ill w => w == 0
  | .reservedOpcode w => reservedWord w
  | _ => (i.check lim).isNone && eventOk i

/-- A well-formed instruction at the widest limits. -/
def Instr.wellFormed (i : Instr) : Bool := i.wellFormedAt Limits.widest

end Sys2Proof
end

