-- ==== Sys2Proof/Decode.lean ====
section
/-!
DEFINITION. Decoding of Galnum words, total, refusing by the subcodes of R66 in their order, and the encoder written from
the same field positions (R48–R51).
-/
namespace Sys2Proof

open Machine

/-- Bits hi:lo of a number (R71). -/
def natBits (x hi lo : Nat) : Nat := (x / 2 ^ lo) % 2 ^ (hi - lo + 1)

/-- One bit as a Bool. -/
def natBit (x i : Nat) : Bool := (x / 2 ^ i) % 2 == 1

/-- What decoding answers: an instruction, or the failed check. -/
inductive DecRes where
  | ok (i : Instr)
  | bad (sub : IllSub)
  deriving DecidableEq, Repr

/-- Word 0 (R48): OP. -/
def opOf (w0 : W32) : Nat := natBits w0.toNat 15 7

/-- Instruction length in words (R44), 1 where LEN is reserved. -/
def lenWords (w0 : W32) : Nat := if w0.toNat % 4 = 3 then 1 else w0.toNat % 4 + 1

/-- The fields of an L- or X-form (R48–R50). -/
def parseWide (w0 w1 : W32) (lit : Option W32) : Form :=
  let x := w0.toNat
  let y := w1.toNat
  { uni := natBit x 2, gp := BitVec.ofNat 3 (natBits x 5 3), gn := natBit x 6,
    d := BitVec.ofNat 8 (natBits x 23 16), a := BitVec.ofNat 8 (natBits x 31 24),
    b := BitVec.ofNat 8 (natBits y 7 0), c := BitVec.ofNat 8 (natBits y 15 8),
    wa := natBit y 16, wb := natBit y 17, wc := natBit y 18, ka := natBit y 19, kb := natBit y 20, kc := natBit y 21,
    ty := tyOfCode (natBits y 25 22), mod := BitVec.ofNat 3 (natBits y 28 26), xl := BitVec.ofNat 3 (natBits y 31 29), lit := lit }

/-- The fields of an S-form (R48, R51). -/
def parseShort (w0 : W32) : SForm :=
  let x := w0.toNat
  { uni := natBit x 2, gp := BitVec.ofNat 3 (natBits x 5 3), gn := natBit x 6,
    d := BitVec.ofNat 8 (natBits x 23 16), a := BitVec.ofNat 8 (natBits x 31 24) }

/-- Decoding of the words at the PC (R66): `w1` and `w2` are looked at only when LEN asks for them. -/
def decodeWords (lim : Limits) (w0 w1 w2 : W32) : DecRes :=
  let op := opOf w0
  if w0.toNat % 4 = 3 then .ok (.reservedOpcode w0)
  else if op = 0 then (if w0 = 0 then .ok (.ill w0) else .ok (.reservedOpcode w0))
  else if (rowOf descTable op).isNone then .ok (.reservedOpcode w0)
  else if w0.toNat % 4 = 0 then
    let f := parseShort w0
    match checkForm op lim true (expandShort op f) with
    | some e => .bad e
    | none =>
      match rowOf shortRows op with
      | some mk => .ok (mk f)
      | none => .bad .form
  else
    let f := parseWide w0 w1 (if w0.toNat % 4 = 2 then some w2 else none)
    match checkForm op lim false f with
    | some e => .bad e
    | none =>
      match rowOf wideRows op with
      | some mk => .ok (mk f)
      | none => .bad .form

/-- The bit of a Bool. -/
def boolNat (b : Bool) : Nat := if b then 1 else 0

/-- Word 0 of a form (R48). -/
def word0 (op : Nat) (len : Nat) (uni : Bool) (gp : BitVec 3) (gn : Bool) (d a : BitVec 8) : W32 :=
  BitVec.ofNat 32 (len + 4 * boolNat uni + 8 * gp.toNat + 64 * boolNat gn + 128 * op + 65536 * d.toNat + 16777216 * a.toNat)

/-- Word 1 of an L- or X-form (R49). -/
def word1 (f : Form) : W32 :=
  BitVec.ofNat 32 (f.b.toNat + 256 * f.c.toNat + 65536 * boolNat f.wa + 131072 * boolNat f.wb + 262144 * boolNat f.wc
    + 524288 * boolNat f.ka + 1048576 * boolNat f.kb + 2097152 * boolNat f.kc + 4194304 * tyCode f.ty
    + 67108864 * f.mod.toNat + 536870912 * f.xl.toNat)

/-- The words of an instruction; none for an event of the device. -/
def encode (i : Instr) : List W32 :=
  match rawOf i with
  | some (.s op f) => [word0 op 0 f.uni f.gp f.gn f.d f.a]
  | some (.w op f) =>
    match f.lit with
    | none => [word0 op 1 f.uni f.gp f.gn f.d f.a, word1 f]
    | some l => [word0 op 2 f.uni f.gp f.gn f.d f.a, word1 f, l]
  | none =>
    match i with
    | .ill w => [w]
    | .reservedOpcode w => [w]
    | _ => []

/-- Decoding of a list of words; missing words read as zero (R45). -/
def decodeList (lim : Limits) (ws : List W32) : DecRes := decodeWords lim (ws.getD 0 0) (ws.getD 1 0) (ws.getD 2 0)

/-- What the decoder reads from an instruction whose bits are `w`, words in their order from bit 0 up, bits above `nbits` zero. -/
def decodeTableWord (nbits w : Nat) : Option Instr :=
  let x := w % 2 ^ nbits
  match decodeWords Limits.widest (BitVec.ofNat 32 x) (BitVec.ofNat 32 (x / 2 ^ 32)) (BitVec.ofNat 32 (x / 2 ^ 64)) with
  | .ok i => some i
  | .bad _ => none

end Sys2Proof
end

