-- ==== Sys2Proof/Config.lean ====
section
/-!
DEFINITION. What the implementation fixes and the specification leaves open: the free values of the model, constants with no
body, so that nothing can be proved of their values (log entries 2 to 7, 15, 17, 22, 27, 36, 37, 93, 95, 97, 98), and the sizes of
the part (01 R9).
-/
namespace Sys2Proof.Config

/-- How many further instructions a running sibling issues after a halt, before the limit of 4 (09 R187). Log entry 2. -/
opaque freeSkid : Nat → Nat

/-- The storage block number a DATA block takes (21 R344). Log entry 3. -/
opaque freeStorage : Nat → BitVec 32

/-- The value a CORDIC instruction of major opcode `op` gives for operands a, b and iteration count n, before the bound of
R152 is applied to it (07 R151, R152). Log entry 4. -/
opaque cordic : Nat → BitVec 32 → BitVec 32 → Nat → BitVec 32

/-- The second result of CSINCOS (07 R151). Log entry 4. -/
opaque cordicCos : BitVec 32 → Nat → BitVec 32

/-- SM3-256 of a byte string (23 R382, 24 R392). Log entry 5. -/
opaque sm3 : List Byte → BitVec 256

/-- SM2 verification of a signature over a digest with the fused public key (24 R392). Log entry 5. -/
opaque sm2Verify : BitVec 256 → Nat → Bool

/-- Verification of a partner's certificate chain (23 R383). Log entry 5. -/
opaque chainValid : Nat → Bool

/-- The FINISH code a session expects: from both key shares (23 R382). Log entry 5. -/
opaque finishMac : BitVec 64 → BitVec 64

/-- The responder's key share of a session (23 R382). Log entry 5. -/
opaque keyShare : Nat → BitVec 64

/-- Digest of the boot ROM, and of the HV registers with the fuse configuration (24 R394). Log entry 5. -/
opaque romDigest : Nat
opaque hvDigest : List (Nat × BitVec 64) → Nat → Nat

/-- The fused unique device secret, the alias key derived from a device identity, the certificate of an alias key that the device key signs, and the
certificate chain of the device key (24 R394). Log entry 5. -/
opaque deviceSecret : Nat
opaque aliasKey : BitVec 256 → BitVec 256
opaque aliasCert : BitVec 256 → List (BitVec 64)
opaque deviceCert : List (BitVec 64)

/-- Firmware version in flash slot A at manufacture (24 R392). Log entry 6. -/
opaque factoryVersion : BitVec 32
/-- SM3-256 digest of that image's body. Log entry 6. -/
opaque factoryDigest : BitVec 256

/-- LEN of an instruction that could not be fetched (09 R184, 03 R47). Log entry 36. -/
opaque unfetchedLen : Nat → BitVec 2

/-- VA of the QUOTA record of a Spire insert (21 R339). Log entry 37. -/
opaque quotaVa : Nat → Nat

/-- Word i of error log record n, at 8n + i, where the specification states none for its kind (24 R391). Log entry 27. -/
opaque logWord : Nat → BitVec 64

/-- The ECC code of a metadata entry (21 R344). Log entry 7. -/
opaque eccCode : BitVec 56 → BitVec 8

/-- The leaf hint that the Spire writes for a node of an ordered index (11 R221, R223). Log entry 15. -/
opaque leafHint : Nat → BitVec 32

/-- An entry of a spill ring read from a block in POISON (17 R289). Log entry 17. -/
opaque poisonedEntry : Nat → BitVec 64

/-- What the destinations of an atomic hold whose held write expired and was discarded (21 R350). Log entry 22. -/
opaque discardedAtomic : Nat → BitVec 64

/-- Whether an access still uses a cached translation whose entry has changed since and that no invalidation has covered (21 R334, R335).
Log entry 93. -/
opaque staleTr : Nat → Bool

/-- Which super-line leaves an L1 whose tags are all in use (22 R355 names no order). Log entry 95. -/
opaque l1Victim : Nat → Nat

/-- Batches that a Spire's queue holds besides one (11 R217 gives no size). Log entry 97. -/
opaque spireQueue : Nat
/-- ERR of a copy's row whose key lookup raises TABLE or meets an invalid record, less 1 and modulo 6: the table of 17 R281 has no value for it (log
entry 98). -/
opaque copyTableErr : Nat → Nat

/-- Figures of 01 R9. -/
def dies : Nat := 4
def clusters : Nat := 24
def cores : Nat := 96
def partitions : Nat := 32
def slots : Nat := 16
/-- Lines of a partition's register cache. -/
def rcacheLines : Nat := 384
/-- Bytes of a core memory: 768 KiB. -/
def coreMemBytes : Nat := 786432
/-- Miss-status entries of a core (05 R112). -/
def missEntries : Nat := 256
/-- Tags of an L1 (256 KiB), and slices, sets in each and ways of an L2 (64 MiB), of 512-byte super-lines (01 R9, 22 R355). -/
def l1Tags : Nat := 512
def l2Slices : Nat := 32
def l2Sets : Nat := 256
def l2Ways : Nat := 16
/-- Blocks of 256 bytes of one die's HBM outside its metadata carve-out and reserve: 144 − 9 − 1 GiB (24 R395). -/
def poolBlocks : Nat := 562036736
/-- Blocks of a die's emergency reserve: 1 GiB (05 R19). -/
def reserveBlocks : Nat := 4194304
/-- Entries and ways of a snoop filter (22 R362). -/
def sfEntries : Nat := 524288
def sfWays : Nat := 16

end Sys2Proof.Config
end

