-- ==== Sys2Proof/Machine/Maps.lean ====
section
/-!
DEFINITION. Sparse maps from numbers to data, as plain lists of (key, value) pairs in one canonical form: keys strictly
rising, no entry equal to what an unlisted key reads as. Memory, register files and every indexed unit are such maps.
-/
namespace Sys2Proof.Machine

/-- A sparse map: what is not listed reads as the default the reader names. -/
abbrev SMap (α : Type) := List (Nat × α)

/-- The value at key `k`, or `d` where no entry stands. -/
def SMap.get {α : Type} (m : SMap α) (k : Nat) (d : α) : α :=
  match m with
  | [] => d
  | (k', v) :: r => if k' = k then v else SMap.get r k d

/-- The entry at key `k`, if one is listed. -/
def SMap.find {α : Type} (m : SMap α) (k : Nat) : Option α :=
  match m with
  | [] => none
  | (k', v) :: r => if k' = k then some v else SMap.find r k

/-- The map without its entries at `k`. -/
def SMap.drop {α : Type} (m : SMap α) (k : Nat) : SMap α :=
  match m with
  | [] => []
  | (k', v) :: r => if k' = k then SMap.drop r k else (k', v) :: SMap.drop r k

/-- The entry (k, v) put at its place among rising keys. -/
def SMap.ins {α : Type} (m : SMap α) (k : Nat) (v : α) : SMap α :=
  match m with
  | [] => [(k, v)]
  | (k', v') :: r => if k < k' then (k, v) :: (k', v') :: r else (k', v') :: SMap.ins r k v

/-- The map with `v` at `k`; writing the default removes the entry. -/
def SMap.put {α : Type} [DecidableEq α] (m : SMap α) (k : Nat) (v d : α) : SMap α :=
  if v = d then SMap.drop m k else SMap.ins (SMap.drop m k) k v

/-- Every key of `m` is above `lo`, keys rise strictly, and no value equals its default. -/
def SMap.wfFrom {α : Type} [DecidableEq α] (d : Nat → α) (lo : Option Nat) (m : SMap α) : Bool :=
  match m with
  | [] => true
  | (k, v) :: r =>
    (match lo with | none => true | some l => decide (l < k)) && decide (v ≠ d k) && SMap.wfFrom d (some k) r

/-- The canonical form under the default `d`. -/
def SMap.wf {α : Type} [DecidableEq α] (d : Nat → α) (m : SMap α) : Bool := SMap.wfFrom d none m

/-- The keys listed. -/
def SMap.keys {α : Type} (m : SMap α) : List Nat := m.map (fun e => e.1)

/-- The least number at or above `n` that is no key of `m`, within the list's length of tries. -/
def SMap.freshKey {α : Type} (m : SMap α) : Nat :=
  m.foldl (fun acc e => if acc ≤ e.1 then e.1 + 1 else acc) 0

end Sys2Proof.Machine
end

