-- ==== Sys2Proof/Machine/State.lean ====
section
/-!
DEFINITION. The state of the VX9 as plain data: the teams and their context images, blocks, launches and the scheduler, the
memories, the engines and their queues, the fabric, the link, the Belfry, and the input the outside world presents.
INVENTORY.md lists each piece with the rule that names it.
-/
namespace Sys2Proof.Machine

/-- Why the machine stops with a fault. -/
inductive Fault where
  /-- Raised by BLOCK_ACCESS for a device address outside the device memory space (21 R337): safe, no such access exists. -/
  | noSuchAddress (addr : Nat)
  deriving DecidableEq, Repr

/-- Why the machine refuses an instruction. -/
inductive Refusal where
  /-- Raised by a refused arm of `exec` alone: the instruction has no meaning yet. Safe. -/
  | notModelled (mnemonic : String)
  deriving DecidableEq, Repr

/-- The state of a team (05 R102, R108). -/
inductive TSt where
  | ready | active | parked | retired
  deriving DecidableEq, Repr

/-- The park causes (05 R109). -/
inductive Cause where
  | none | barrier | sleep | event | page | quota | space | queue | halted | debug | cancelledPending
  deriving DecidableEq, Repr

/-- A destination of a late reply with its value (05 R18, R97). -/
inductive Dst where
  | v (reg lane : Nat) (x : W32)
  | s (reg : Nat) (x : W64)
  | p (n lane : Nat) (x : Bool)
  | q (n : Nat) (x : Bool)
  deriving DecidableEq, Repr

/-- A trap recorded against a load, atomic or MMA that has completed, or against a discarded write, to be taken at the next
boundary (R178, R264, R350). -/
structure PendTrap where
  cls : Nat
  sub : Nat
  /-- PC and LEN of the instruction the trap concerns. -/
  pc : W64
  ilen : Nat
  /-- The lanes recorded, each with the class. -/
  lanes : List Nat
  /-- Side-buffer words 2 and 4's offset. -/
  key : Nat
  off : Nat
  deriving DecidableEq, Repr

/-- A translation (21 R329): a system address or a device address, the page class and grain, the leaf's CMP bit, and the function. -/
structure Tr where
  sys : Bool
  addr : Nat
  cls : Nat
  grain : Nat
  cmp : Bool
  fn : Nat
  deriving DecidableEq, Repr

/-- What an instruction does at one place of a table: a lane's access, or a scaled block with its scale word. -/
structure AUnit where
  lane : Nat
  /-- The lanes it serves, of one pass. -/
  lanes : List Nat
  key : Nat
  off : Nat
  tr : Tr
  va : Nat
  /-- Place and address of the scale word. -/
  sc : Option (Tr × Nat)
  /-- Bytes stored; the scale word of STB. -/
  bytes : List Byte
  /-- Operands of an atomic. -/
  x : W64
  y : W64
  /-- Elements that STB merges, by number. -/
  elems : List (Nat × Nat)
  deriving DecidableEq, Repr

/-- The rest of a memory instruction that has issued: units that hold miss-status entries and wait for their grains to be owned (22 R359), and units
rejected for want of an entry (R112, R177). -/
structure Rest where
  opc : Nat
  f : Form
  len : Nat
  pc : W64
  enc : Nat
  ilv : Nat
  /-- Bytes of one unit. -/
  n : Nat
  ins : Nat
  /-- Bytes the whole instruction counts as moved (19 R316). -/
  moved : Nat
  inside : List AUnit
  out : List AUnit
  deriving DecidableEq, Repr

/-- A late reply under way (R18, R106). -/
structure Reply where
  team : Nat
  dsts : List Dst
  /-- The core whose miss-status entries it holds, and how many (R112). -/
  entry : Option (Nat × Nat)
  /-- Its landing completes an instruction, if no other reply of that is to come (20 R326), which moved `bytes` counted bytes (19 R316). -/
  completes : Bool
  bytes : Nat
  /-- Fence-set bit of the access (R61): 0 R, 1 W, 2 A, 3 T, 4 E; 5 for none, 6 for T and E. -/
  set : Nat
  trap : Option PendTrap
  /-- For data from host or peer memory: the ports they come through, each with the trap to record should it go down (23 R373). -/
  link : List (Nat × PendTrap) := []
  /-- Number of its instruction, where it has several replies: it is complete with the last of them. -/
  ins : Nat := 0
  /-- The CLOCK before which it does not land (19 R318). -/
  due : Nat := 0
  deriving DecidableEq, Repr

/-- A table record (11 R208). -/
structure Rec where
  gen : Nat
  hseed : Nat
  hlog2 : Nat
  fanout : Nat
  sslot : Nat
  slayout : Nat
  ps : Bool
  pd : Bool
  pi : Bool
  pw : Bool
  pr : Bool
  home : Nat
  rowlim : Nat
  rowb : Nat
  kind : Nat
  keyw : Nat
  enc : Nat
  ilv : Nat
  uniq : Bool
  ilog2 : Nat
  ibase : Nat
  base : Nat
  deriving DecidableEq, Repr

/-- An MMA of a team that has issued and not completed: its issue-time operands (15 R262, R263). -/
structure MmaJob where
  f : Form
  pc : W64
  lanes : List Nat
  /-- The A key of each contributing lane. -/
  keys : List (Nat × Nat)
  /-- The format block, s(B) to s(B + 3). -/
  fmt : List W64
  /-- The records of both operands and of their scale tables, as checked at issue (11 R211). -/
  ra : Rec
  rb : Rec
  sa : Option Rec
  sb : Option Rec
  /-- Stopped within its k-steps: waits for activation, resolution or RTE (R264). -/
  stopped : Bool
  /-- Stopped with XFAULT: waits for RTE alone (R264). -/
  trapped : Bool
  /-- A poisoned operand element was read, by these lanes. -/
  poison : List Nat
  /-- The array's next k-step of the word, and its accumulators by 32 × lane + column (14 R255). -/
  step : Nat
  acc : List (Nat × Nat)
  deriving DecidableEq, Repr

/-- Counts towards a sibling's waste record not yet recorded (19 R316). -/
structure Waste where
  instrPre : Nat
  instrPost : Nat
  kstepPre : Nat
  kstepPost : Nat
  bytesPre : Nat
  bytesPost : Nat
  deriving DecidableEq, Repr

def Waste.zero : Waste := { instrPre := 0, instrPost := 0, kstepPre := 0, kstepPost := 0, bytesPre := 0, bytesPost := 0 }

/-- A halt received by a running sibling: instructions it may still issue, those issued, and the origin (09 R187). -/
structure Skid where
  left : Nat
  used : Nat
  originPc : W64
  originTeam : Nat
  /-- An instruction issued before the decision still awaits its verdict: it counts for nothing. -/
  early : Bool
  deriving DecidableEq, Repr

/-- A team: its context image (05 R96–R102), its trap state (09 R185) and its place. -/
structure Team where
  vf : Nat
  job : Nat
  block : Nat
  nlanes : Nat
  vregs : Nat
  sregs : Nat
  stage : Nat
  prio : Nat
  teamid : Nat
  ctxbase : W64
  blockx : W32
  blocky : W32
  blockz : W32
  sgid : W64
  sgidx : W32
  pc : W64
  st : TSt
  cause : Cause
  arg : W64
  hmode : Bool
  rprog : W64
  fpctl : W32
  fpflags : W32
  seed : W32
  /-- The active mask: bit l is lane l (R94). -/
  mask : BitVec 1024
  /-- Vector registers, empty bits and uncorrectable marks, keyed 1024 × register + lane (R96, R189). -/
  v : SMap W32
  vE : SMap Bool
  vBad : SMap Bool
  s : SMap W64
  sE : SMap Bool
  /-- p0–p6, keyed 1024 × n + lane. -/
  p : SMap Bool
  pE : SMap Bool
  q : SMap Bool
  qE : SMap Bool
  trapcause : W64
  trappc : W64
  trapskid : W64
  stepctl : W64
  haltctl : W64
  trapbase : W64
  savedQ : SMap Bool
  savedQE : SMap Bool
  savedFpctl : W32
  /-- Virtual address of the side-buffer save record, 0 when none (R185, R186). -/
  sideSave : W64
  /-- The side-buffer entry, 72 words (R186). -/
  side : SMap W64
  /-- The step of R201 is under way. -/
  stepping : Bool
  /-- No watch range fires for the next instruction (R198). -/
  noWatch : Bool
  skid : Option Skid
  pend : Option PendTrap
  /-- Further traps recorded for the same boundary (log entry 116). -/
  pendMore : List PendTrap
  /-- A park to be taken at the next boundary (R291, R296, R343, R349). -/
  parkNext : Option (Cause × W64)
  /-- Cancellation to be taken at the next boundary (R314). -/
  cancelPend : Bool
  /-- A table batch of the team has no verdict yet (R235). -/
  verdict : Bool
  mma : Option MmaJob
  /-- k-steps since the last MFLUSH, modulo 2^64 (R266). -/
  ksteps : W64
  /-- CREDs executed (R271). -/
  creds : Nat
  waste : Waste
  /-- Instructions executed since creation. -/
  icount : Nat
  /-- The instruction it parked in counts as completed when it resumes (20 R326). -/
  countOnWake : Bool
  /-- Counted bytes of its last store, some of which is held: it counts as completed once that is performed (20 R326). -/
  owes : Option Nat
  /-- Place: core, partition and slot, while `inSlot`; else the core of its ready list. -/
  inSlot : Bool
  core : Nat
  part : Nat
  slot : Nat
  /-- Clock at which its next instruction became ready (R111), it became READY, was PARKED, was activated. -/
  age : Nat
  readyAt : Nat
  parkedAt : Nat
  activeAt : Nat
  /-- Time of a quota park (R342) or of a Spire batch's space park (R350), and how often QUSED of its function had fallen then. -/
  quotaAt : Nat
  quotaUsed : Nat
  /-- Value that an EVWAIT of the team waits for (19 R323). -/
  evTarget : W64
  /-- Rejections of its current access, and the clock of the next try (R112). -/
  rejects : Nat
  retryAt : Option Nat
  /-- Image freed (R108). -/
  freed : Bool
  /-- Register lines, by number, and whether the control page, of which the write-back buffer holds newer contents than the image: their
  page did not translate when they were written (R106). -/
  unsaved : List Nat
  unsavedCtl : Bool
  /-- Where a preemption saved its control page and dirty lines, when not in its image (09 R193, 23 R380): 1 the SAVEB region, 2 the SAVEC region; the
  system address, and the lines' numbers. -/
  saveRec : Option (Nat × Nat × List Nat)
  /-- The rest of its last instruction, which it waits for. -/
  rest : Option Rest
  deriving DecidableEq, Repr

/-- A team that has no register written and no place. -/
def Team.blank : Team :=
  { vf := 0, job := 0, block := 0, nlanes := 1, vregs := 8, sregs := 8, stage := 0, prio := 0, teamid := 0, ctxbase := 0,
    blockx := 0, blocky := 0, blockz := 0, sgid := 0, sgidx := 0, pc := 0, st := .ready, cause := .none, arg := 0, hmode := false,
    rprog := 0, fpctl := 0, fpflags := 0, seed := 0, mask := 0, v := [], vE := [], vBad := [], s := [], sE := [], p := [], pE := [],
    q := [], qE := [], trapcause := 0, trappc := 0, trapskid := 0, stepctl := 0, haltctl := 0, trapbase := 0, savedQ := [], savedQE := [],
    savedFpctl := 0, sideSave := 0, side := [], stepping := false, noWatch := false, skid := none, pend := none, pendMore := [], parkNext := none,
    cancelPend := false, verdict := false, mma := none, ksteps := 0, creds := 0, waste := Waste.zero, icount := 0, countOnWake := false, owes := none, inSlot := false,
    core := 0, part := 0, slot := 0, age := 0, readyAt := 0, parkedAt := 0, activeAt := 0, quotaAt := 0, quotaUsed := 0, evTarget := 0, rejects := 0, retryAt := none,
    freed := false, unsaved := [], unsavedCtl := false, saveRec := none, rest := none }

/-- One team's deposit in a round of CRED (15 R271): per contributing lane the registers v(A) to v(A + 33). -/
structure CredDep where
  team : Nat
  round : Nat
  a : Nat
  lanes : List (Nat × List W32)
  deriving DecidableEq, Repr

/-- A block (05 R91, 07 R158, 09 R187). -/
structure Block where
  vf : Nat
  job : Nat
  cluster : Nat
  /-- Base and size of its allocation in each core memory (04 R74). -/
  base : Nat
  size : Nat
  teams : List Nat
  gen : Nat
  arrived : List Nat
  /-- A halt is in force, with its origins. -/
  halted : Bool
  origins : List Nat
  /-- Halted for good (R183). -/
  dead : Bool
  /-- Halted by the debugger (R202). -/
  debug : Bool
  /-- Sibling index, when its launch belongs to a group. -/
  sibling : Option Nat
  cred : List CredDep
  /-- Off its cluster: where its four allocations were saved (R380): 0 device, 1 B, 2 C; their bytes as saved (R193), keyed
  2^20 × core of the cluster + offset, and which of these are uncorrectable. -/
  saved : Option (Nat × SMap Byte × List Nat)
  /-- The virtual address of that save in the context region, or its system address in a save region; none while it is not written there. -/
  savedAt : Option Nat := none
  deriving DecidableEq, Repr

def Block.blank : Block :=
  { vf := 0, job := 0, cluster := 0, base := 0, size := 0, teams := [], gen := 0, arrived := [], halted := false, origins := [],
    dead := false, debug := false, sibling := none, cred := [], saved := none }

/-- A deposit of RDX (17 R296). -/
structure Deposit where
  job : Nat
  /-- The stage it is for. -/
  stage : Nat
  key : W32
  val : W64
  team : Nat
  die : Nat
  at_ : Nat
  deriving DecidableEq, Repr

/-- Where a consumed descriptor stands (19 R307). -/
inductive Phase where
  | waiting | started | complete
  deriving DecidableEq, Repr

/-- A descriptor the front end has consumed: a launch or a command (19 R303). -/
structure Job where
  fn : Nat
  level : Nat
  num : Nat
  words : List W64
  /-- The records of its stages 1, 2, … (R305), read with the descriptor. -/
  stages : List (List W64)
  phase : Phase
  /-- Start order. -/
  order : Nat
  cancelled : Bool
  /-- Status of a rejection, 0 when not rejected. -/
  status : Nat
  /-- Its waits were met when they were last checked (R307). -/
  met : Bool
  /-- Only its completion event is left; the addition to DONE is skipped. -/
  ended : Bool
  noDone : Bool
  /-- Consumed before its queue was last enabled. -/
  old : Bool
  /-- Next block of stage 0 by linear index. -/
  nextBlock : Nat
  /-- Siblings whose unplaced blocks are dropped (R314). -/
  dropped : List Nat
  /-- Deposits in buckets, in arrival order, and those held for room in the store. -/
  buckets : List Deposit
  held : List Deposit
  /-- Blocks launched so far of each stage, and teams of later stages waiting for a place: (stage, entries). -/
  seq : SMap Nat
  ready : List (Nat × List Deposit)
  deriving DecidableEq, Repr

def Job.blank : Job :=
  { fn := 0, level := 0, num := 0, words := [], stages := [], phase := .waiting, order := 0, cancelled := false, status := 0, met := false,
    ended := false, noDone := false, old := false, nextBlock := 0,
    dropped := [], buckets := [], held := [], seq := [], ready := [] }

/-- Who waits on a fault record (21 R340). -/
inductive Waiter where
  | team (id : Nat)
  | copy (request row : Nat)
  | release (group sibling : Nat)
  /-- A front end's queue, for what it read: 0 the tail word or a slot, 1 a table of the descriptor being consumed, 2 a wait counter
  or the place of a command of job `job`, 3 its DONE counter. -/
  | fe (fn queue what job : Nat)
  | queue
  | nobody
  deriving DecidableEq, Repr

/-- A fault record (21 R339). -/
structure FaultRec where
  fn : Nat
  seq : Nat
  kind : Nat
  cause : Nat
  w : Bool
  lane : Nat
  slot : Nat
  ctx : W64
  arg : W64
  va : Nat
  /-- Written to the ring, or waiting for room. -/
  written : Bool
  waiter : Waiter
  /-- For a waiting team: the lanes that named the page, and key and offset of the lowest of them (R186, R190). -/
  lanes : List Nat
  key : Nat
  off : Nat
  /-- The page is one that the team's MMA stopped at (15 R264). -/
  mma : Bool
  deriving DecidableEq, Repr

/-- One lane of a batch at the Spire (11 R217): its key or cursor and its window words as read at issue. -/
structure BatchLane where
  lane : Nat
  key : Nat
  win : List W32
  bound : Nat
  hint : W32
  flags : W32
  deriving DecidableEq, Repr

/-- A batch of table operations (11 R217, 12 R235): one instruction's operations on one table. -/
structure Batch where
  team : Nat
  vf : Nat
  die : Nat
  core : Nat
  op : Nat
  len : Nat
  f : Form
  dir : Nat
  slot : Nat
  /-- Clock of its issue. -/
  arrive : Nat
  lanes : List BatchLane
  deriving DecidableEq, Repr

/-- How the Spire answers a batch (12 R235). -/
inductive VOut where
  | accepted
  /-- Causes (lane, class, subcode). -/
  | fault (causes : List (Nat × Nat × Nat))
  /-- Pages not resident: (lane, VA, cause, write). -/
  | pages (recs : List (Nat × Nat × Nat × Bool))
  /-- The lane whose insert finds the quota reached. -/
  | quota (lane : Nat)
  /-- The lowest block that needs storage. -/
  | space (addr : Nat)
  deriving DecidableEq, Repr

/-- The Spire's verdict on a batch, on its way to the core (12 R235). -/
structure Verdict where
  batch : Batch
  out : VOut
  deriving DecidableEq, Repr

/-- A B-link node (11 R219): entries (key, child or slot); the key 2^128 stands for +∞. -/
structure Node where
  leaf : Bool
  low : Option Nat
  high : Nat
  right : Option Nat
  ents : List (Nat × Nat)
  deriving DecidableEq, Repr

/-- A table's index as its home Spire keeps it (11 R212–R225). -/
structure Table where
  kind : Nat
  keyw : Nat
  rowb : Nat
  rowlim : Nat
  base : Nat
  home : Nat
  fanout : Nat
  hlog2 : Nat
  hseed : Nat
  ilog2 : Nat
  gen : Nat
  nodes : SMap Node
  root : Nat
  height : Nat
  splits : W64
  /-- Nodes or overflow lines allocated from the region. -/
  alloc : Nat
  /-- Overflow lines unlinked and free for reuse. -/
  freeLines : List Nat
  /-- Bucket chains: each line with its number and entries (key, slot); the first is the bucket's own. -/
  chains : SMap (List (Nat × List (Nat × Nat)))
  freeSlots : List Nat
  nextSlot : Nat
  refs : SMap Nat
  deriving DecidableEq, Repr

def Table.blank : Table :=
  { kind := 0, keyw := 0, rowb := 0, rowlim := 0, base := 0, home := 0, fanout := 0, hlog2 := 0, hseed := 0, ilog2 := 0, gen := 0,
    nodes := [], root := 0, height := 0, splits := 0, alloc := 0, freeLines := [], chains := [], freeSlots := [], nextSlot := 0, refs := [] }

/-- A request of a copy engine (17 R276–R281; QMC, 15 R270). -/
structure CopyReq where
  /-- A number of its own. -/
  id : Nat
  core : Nat
  team : Nat
  block : Nat
  vf : Nat
  dir : Nat
  /-- The eight words of the record; for QMC its source offset, length and core mask. -/
  words : List W64
  qmc : Bool
  /-- Records of source and destination tables, as checked at CPK (11 R211). -/
  src : Option Rec
  dest : Option Rec
  /-- The destination register of QMC. -/
  dst : Nat
  /-- Rows not yet done; rows waiting, each with the 64 KiB page of its fault record, or 2^41 for a held write. -/
  todo : List Nat
  waiting : List (Nat × Nat)
  /-- Rows that wait whose key no lookup found: MISS counts them when they end (17 R277). -/
  missed : List Nat := []
  /-- Bytes copied so far, of QMC's result. -/
  bytes : Nat
  deriving DecidableEq, Repr

/-- A hardware queue (17 R288–R293). -/
structure Queue where
  vf : Nat
  en : Bool
  home : Nat
  mcap : Nat
  mbase : Nat
  head : List W64
  ringHead : Nat
  ringLen : Nat
  pushes : W64
  /-- A page of the ring that a refill reads has its fault record out. -/
  stuck : Bool
  /-- So has a page that the first held push writes. -/
  pushStuck : Bool := false
  deriving DecidableEq, Repr

def Queue.blank : Queue :=
  { vf := 0, en := false, home := 0, mcap := 0, mbase := 0, head := [], ringHead := 0, ringLen := 0, pushes := 0, stuck := false }

/-- A request on its way to a queue's head (17 R292, R293). -/
structure QReq where
  /-- 0 push, 1 pop, 2 QSTAT. -/
  kind : Nat
  queue : Nat
  vf : Nat
  team : Nat
  die : Nat
  lane : Nat
  uni : Bool
  /-- Value pushed; for a pop the issue value of its destination; for QSTAT the selector. -/
  val : W64
  dst : Nat
  pd : Nat
  pe : Nat
  /-- The last request of its instruction, and the instruction's number. -/
  last : Bool
  ins : Nat := 0
  /-- A push held at the head, with the cause (R291): queue, space, quota; page for a page or dirty-log wait of the ring. -/
  hold : Cause
  /-- Time of its hold, until an expiry has been logged (21 R350). -/
  since : Option Nat
  /-- How often its die's full push segment has turned it away, and the clock before which it is not tried again (R291, 05 R112). -/
  tries : Nat := 0
  retry : Nat := 0
  deriving DecidableEq, Repr

/-- An entry of the Campanile (19 R311–R316). -/
structure Group where
  vf : Nat
  /-- 0 FREE, 1 OPEN, 2 DECIDED. -/
  st : Nat
  /-- 0 undecided, 1 QUORUM, 2 PLURALITY, 3 NONE. -/
  cause : Nat
  n : Nat
  q : Nat
  kven : Nat
  kv0 : Nat
  kv1 : Nat
  seqbase : W64
  kvdir : Nat
  wrec : Nat
  /-- Tracked hashes in the order of their first posts, and the counts of each and of the other bucket (index 8). -/
  track : List W64
  count : SMap Nat
  /-- Siblings that some launch of the group carries. -/
  launched : BitVec 64
  posted : BitVec 64
  hash : SMap W64
  tidx : SMap Nat
  cancelled : BitVec 64
  released : BitVec 64
  winner : Option Nat
  posts : Nat
  dclock : Nat
  /-- Progress of the releases: per sibling the slot index being released (0, 1; 2 done) and the keys removed. -/
  relSlot : SMap Nat
  relKeys : SMap Nat
  relErr : BitVec 64
  /-- The least key that the release of the slot still removes. -/
  relNext : SMap Nat := []
  /-- Releases waiting on a fault record. -/
  relWait : BitVec 64
  deriving DecidableEq, Repr

def Group.blank : Group :=
  { vf := 0, st := 0, cause := 0, n := 0, q := 0, kven := 0, kv0 := 0, kv1 := 0, seqbase := 0, kvdir := 0, wrec := 0, track := [], count := [],
    launched := 0, posted := 0, hash := [], tidx := [], cancelled := 0, released := 0, winner := none, posts := 0, dclock := 0,
    relSlot := [], relKeys := [], relErr := 0, relWait := 0 }

/-- A request on its way to the Campanile or to a front end (19 R318–R322). -/
structure Post where
  /-- 0 SGPOST, 1 SGPOLL, 2 SGCHK. -/
  kind : Nat
  team : Nat
  vf : Nat
  group : Nat
  sib : Nat
  valid : Bool
  word : W64
  sel : Nat
  dst : Nat
  pd : Nat
  pe : Nat
  deriving DecidableEq, Repr

/-- A LAUNCH append waiting for room in its queue (19 R322). -/
structure Append where
  team : Nat
  fn : Nat
  level : Nat
  /-- The number reserved. -/
  num : Option Nat
  bytes : List Byte
  dst : Nat
  deriving DecidableEq, Repr

/-- A watch range of a core (09 R203). -/
structure Watch where
  core : Bool
  slot : Nat
  rd : Bool
  wr : Bool
  en : Bool
  lo : Nat
  hi : Nat
  block : Nat
  deriving DecidableEq, Repr

def Watch.blank : Watch := { core := false, slot := 0, rd := false, wr := false, en := false, lo := 0, hi := 0, block := 0 }

/-- The state of a 256-byte block (21 R344). -/
inductive BlkSt where
  | zero | const | data | poison
  deriving DecidableEq, Repr

/-- The metadata entry of a block (21 R344). -/
structure Blk where
  st : BlkSt
  value : W32
  nc : Bool
  deriving DecidableEq, Repr

def Blk.fresh : Blk := { st := .zero, value := 0, nc := false }

/-- Who made a write that is held (21 R343, R349). -/
inductive Writer where
  | team (id : Nat) (pc : W64) (ilen : Nat)
  | copy (request row : Nat)
  | l2
  | queue
  deriving DecidableEq, Repr

/-- An atomic whose read-modify-write is held: the instruction, its lane and operands (21 R349). -/
structure HeldAmo where
  opc : Nat
  op : Nat
  f : Form
  lane : Nat
  x : W64
  y : W64
  /-- The atomic on its way that it belongs to (22 R357); 0 in core memory. -/
  tag : Nat := 0
  deriving DecidableEq, Repr

/-- An atomic operation of a team on a table, on its way to the home of its grain (22 R358): number, instruction, the issuing team's place, what
it is, and the miss-status entries it holds. -/
structure Atom where
  tag : Nat
  ins : Nat
  team : Nat
  core : Nat
  pc : W64
  len : Nat
  opc : Nat
  f : Form
  n : Nat
  u : AUnit
  entries : Nat
  /-- Bytes that its whole instruction counts as moved (19 R316). -/
  moved : Nat := 0
  /-- Performed at its home: old value and flag, or the subcode of ECC; its result is on its way. -/
  done : Option (Nat × Bool × Nat)
  /-- The result has come; it lands with the others of its instruction. -/
  back : Bool := false
  deriving DecidableEq, Repr

/-- What of a write falls into one block, or at a system address. -/
structure Part where
  sys : Bool
  addr : Nat
  bytes : List Byte
  cmp : Bool
  deriving DecidableEq, Repr

/-- What a held write does when it is performed: it stores its bytes, reads and modifies, merges elements into a scaled block (08 R170), or
sets the accessed bit of a leaf (21 R329). -/
inductive HeldOp where
  | put
  /-- Adds to a 64-bit counter of a waste record (19 R316). -/
  | add (x : W64)
  | amo (a : HeldAmo)
  | stb (enc ilv : Nat) (elems : List (Nat × Nat))
  | acc
  /-- Dirty sectors that an L2 writes back, and those of a core's `ncoh` sector (22 R358, R367). -/
  | wb
  | flush (core k : Nat)
  deriving DecidableEq, Repr

/-- A write held at its home, for space or for the dirty log: all its parts are performed together. -/
structure Held where
  fn : Nat
  parts : List Part
  writer : Writer
  since : Nat
  /-- Held for the dirty log (R343) and not for space (R349). -/
  log : Bool
  va : Nat
  op : HeldOp
  deriving DecidableEq, Repr

/-- Address of the first part; the window's start of a batch that waits for the log alone. -/
def Held.addr (h : Held) : Nat := match h.parts with | p :: _ => p.addr | [] => 0
/-- An atomic's operation. -/
def Held.amo (h : Held) : Option HeldAmo := match h.op with | .amo a => some a | _ => none

/-- A 64 KiB frame: its reference bit and the slot of the demotion region it was demoted to (21 R352). -/
structure Frame where
  ref : Bool
  slot : Option Nat
  deriving DecidableEq, Repr

/-- A ballooning engine's round (21 R351): waiting for balloon drivers since a time. -/
structure Round where
  active : Bool
  waiting : Bool
  since : Nat
  deriving DecidableEq, Repr

/-- A grain in an L2 (22 R356, R359). -/
structure L2Line where
  st : L2St
  size : Nat
  wts : W64
  rts : W64
  holders : BitVec 24
  colour : Nat
  deriving DecidableEq, Repr

def L2Line.absent : L2Line := { st := .i, size := 128, wts := 0, rts := 0, holders := 0, colour := 0 }

/-- Directory states (22 R356). -/
inductive DirSt where
  | i | s | em | os
  deriving DecidableEq, Repr

/-- A grain in its home directory (22 R356): owner, sharers. -/
structure DirLine where
  st : DirSt
  owner : Nat
  sharers : BitVec 4
  size : Nat
  deriving DecidableEq, Repr

def DirLine.absent : DirLine := { st := .i, owner := 0, sharers := 0, size := 128 }

/-- A directory transaction in progress: the request and the answers it still waits for (22 R358); for a back-invalidation the request whose
allocation it serves (22 R362). -/
structure Txn where
  req : Instr
  grain : Nat
  waits : Nat
  next : Option Instr := none
  deriving DecidableEq, Repr

/-- An entry of a snoop filter (22 R362): super-line and home; the list is in order of requests, oldest first. -/
structure SfEnt where
  line : Nat
  home : Nat
  /-- The grain with which it was allocated (R355). -/
  size : Nat := 128
  deriving DecidableEq, Repr

/-- A line of host or peer memory held by the device (22 R368): dies holding it, owned. -/
structure HubLine where
  dies : BitVec 4
  owned : Bool
  deriving DecidableEq, Repr

/-- A sector in an L1 (22 R359): lease end, WTS of the grain it came from, and its 32 bytes; none when it is absent. -/
structure L1Sec where
  le : W64
  wts : W64
  bytes : List Byte
  deriving DecidableEq, Repr

def L1Sec.absent : L1Sec := { le := 0, wts := 0, bytes := [] }

/-- A non-coherent sector in an L1 (22 R367): its bytes, and which of them are dirty. -/
structure NcSec where
  bytes : List Byte
  dirty : BitVec 32
  /-- CMP of the translation that wrote it last. -/
  cmp : Bool
  deriving DecidableEq, Repr

def NcSec.absent : NcSec := { bytes := [], dirty := 0, cmp := false }

/-- The coherence metadata (22 R354–R369). -/
structure Coh where
  /-- Periods of 32 core clocks whose tick has been taken. -/
  ticks : Nat
  lt : SMap W64
  /-- Sectors in the L1s, keyed core × 2^52 + sector. -/
  l1 : SMap L1Sec
  l2 : SMap L2Line
  dir : SMap DirLine
  sf : List SfEnt
  txns : List Txn
  waiting : List Instr
  net : List Instr
  rot : SMap Nat
  hub : SMap HubLine
  /-- Non-coherent sectors in the L1s (22 R367), keyed likewise. -/
  nc : SMap NcSec
  /-- L2 tags by set (23 R379), keyed die × 2^20 + 256 × slice + set: (super-line, way), least recently used first. -/
  tags : SMap (List (Nat × Nat))
  /-- Super-lines of context images whose tags an L1 holds, by virtual address (01 R9, 05 R104), keyed by core: function and VA div 512. -/
  ctx : SMap (List (Nat × Nat))
  /-- Sectors of the device memory space that an L2 holds dirty (22 R356), by number: 1 written through CMP = 1, 2 through CMP = 0. -/
  late : SMap Nat
  /-- Cores whose reads wait for a grain that another core of their die has asked for: grain's key, core. -/
  merged : List (Nat × Nat)
  /-- Grains, by key, whose fill in flight is dropped as it comes (23 R385). -/
  voided : List Nat
  /-- Lines of device memory that the host or a peer holds (22 R369, 23 R374), by number: port, 0 for the host's two, and whether exclusive. -/
  hosts : SMap (List (Nat × Bool))
  deriving DecidableEq, Repr

/-- A port (23 R371, R372). -/
structure Port where
  lanes : Nat
  up : Bool
  replays : W32
  fails : Nat
  deriving DecidableEq, Repr

/-- An SPDM session or negotiation (23 R382): 0 none, 1 negotiated, 2 exchanged, 3 established. -/
structure Sess where
  port : Nat
  st : Nat
  share : W64
  epoch : Nat
  deriving DecidableEq, Repr

/-- A peer session (23 R383): state 0 none, 1 opening, 2 open, 3 failed, bound function, session index, key epoch; the export side's bound function. -/
structure Peer where
  st : Nat
  fn : Nat
  idx : Nat
  epoch : Nat
  export_ : Option Nat
  /-- The responder's session that is bound to the export. -/
  exportIdx : Nat
  deriving DecidableEq, Repr

/-- Power states (24 R390, R396). -/
inductive Power where
  | d0 | d0idle | d3hot | d3cold | off
  deriving DecidableEq, Repr

/-- A firmware image as read: header, signature, body (24 R392). -/
structure FwImage where
  header : List Byte
  signature : Nat
  body : List Byte
  deriving DecidableEq, Repr

/-- A firmware slot of the flash (24 R392). -/
structure FwSlot where
  valid : Bool
  version : W32
  svn : Nat
  digest : BitVec 256
  deriving DecidableEq, Repr

/-- The Belfry (24 R386–R396). -/
structure Belfry where
  stage : Nat
  /-- Bring-up stopped at STAGE by a step that failed (R395). -/
  failed : Bool
  result : Nat
  busy : Bool
  pending : Bool
  /-- Running slot: false A, true B. -/
  slot : Bool
  /-- Running an image that was booted and not committed. -/
  newBoot : Bool
  bootFails : Nat
  fuses : Nat
  barg : W64
  logtail : Nat
  logrd : W64
  log : SMap (List W64)
  lantasg : SMap W64
  /-- Lantern entries: low and high words at 2i and 2i + 1. -/
  lantent : SMap W64
  sensor : SMap W32
  warn : SMap Bool
  step : Nat
  stepAt : Nat
  warnAt : Nat
  power : Power
  flash : SMap FwSlot
  idleAt : Nat
  /-- The firmware that the ROM has booted (R388), and the device identity derived for it (R394). -/
  running : FwSlot
  identity : BitVec 256
  /-- System address of the image that UPDATE reads (R393). -/
  source : W64
  /-- Since when the input power is above 2,700 W, and since when the reading of a sensor is critical (R390). -/
  powerAt : Option Nat
  crit : List (Nat × Nat)
  deriving DecidableEq, Repr

/-- A cluster's turn (23 R378) and its count of placed blocks modulo 4 (19 R309). -/
structure Cluster where
  holder : Option Nat
  since : Nat
  placed : Nat
  deriving DecidableEq, Repr

def Cluster.blank : Cluster := { holder := none, since := 0, placed := 0 }

/-- The machine. -/
structure State where
  /-- CLOCK (01 R4, R11). -/
  clock : W64
  /-- Time in units of 1/63 ns, so that every core clock step is whole: 105, 120, 140, 168, 210 (24 R390). -/
  time : Nat
  /-- The team whose instruction is being executed, or that issues next when `picked`. -/
  cur : Nat
  picked : Bool
  /-- Events still to come from outside, with their inputs, and the input of the current one. -/
  agenda : List (Instr × Input)
  /-- Events from outside that wait for a copy's bytes (22 R361). -/
  deferred : List (Instr × Input)
  inp : Input
  /-- The model's own: which of its possible moves the machine makes in its coming turns, by their number; the first that changes anything
  once the list is empty (log entry 39). -/
  order : List Nat
  /-- The model's own counter, to which the free values are applied. -/
  fresh : Nat
  teams : SMap Team
  blocks : SMap Block
  jobs : SMap Job
  orders : Nat
  /-- Core memories, keyed 2^20 × core + offset (01 R9), and their uncorrectable bytes. -/
  cm : SMap Byte
  cmBad : SMap Bool
  /-- Device memory space by device address, and its block metadata by block number (21 R344). -/
  mem : List Host.Cell
  blk : SMap Blk
  /-- Host and peer memory by system address (21 R328). -/
  sysmem : List Host.Cell
  /-- Registers of the functions' windows, keyed 65536 × function + offset (23 R376). -/
  regs : SMap W64
  /-- Slot whose OWN is waited for, per queue: the tail word as last read (19 R302), keyed 8 × function + queue. -/
  tails : SMap Nat
  /-- Lines that front ends hold (19 R302, R307), by queue: 16 × function + 2 × queue for the tail word, and 1 more for word 0 of the next slot;
  2048 + 4 × descriptor + i for its wait counter i. -/
  feLines : List (Nat × Bool × Nat)
  /-- A table of the descriptor being consumed proved unresolvable (R306, check 6), keyed likewise. -/
  feFail : SMap Bool
  /-- Report records held for room (19 R308): function and words. -/
  reports : List (Nat × List W64)
  faults : List FaultRec
  replies : List Reply
  /-- Reservations of miss-status entries, oldest first: core and team (05 R112). -/
  reserved : List (Nat × Nat)
  /-- Register-cache lines present, keyed 32 × core + partition: (team, line, dirty), least recent first (05 R104). -/
  rcache : SMap (List (Nat × Nat × Bool))
  batches : List Batch
  verdicts : List Verdict
  tables : SMap Table
  /-- The last tie at each Spire (11 R217): its clock, the die that its order began with, and the die that the next begins with. -/
  spireRot : SMap (Nat × Nat × Nat)
  copies : List CopyReq
  /-- Promise of each engine's previous list (17 R279). -/
  promise : SMap Nat
  queues : SMap Queue
  qreqs : List QReq
  deposits : List Deposit
  groups : SMap Group
  posts : List Post
  appends : List Append
  watches : SMap Watch
  /-- MMAs queued at each partition's array, keyed 32 × core + partition (15 R265). -/
  arrays : SMap (List Nat)
  clusters : SMap Cluster
  /-- Cluster of each front end's previous placement (19 R309). -/
  fePrev : SMap Nat
  held : List Held
  /-- Atomic operations on their way to their homes, or answered (22 R358), and the number of the last. -/
  atoms : List Atom
  atomTag : Nat
  /-- How often QUSED of a function has fallen (21 R342). -/
  falls : SMap Nat
  poolFree : SMap Nat
  rsvFree : SMap Nat
  /-- The die's reserve is low: nothing is placed or activated there (21 R348). -/
  rsvLow : SMap Bool
  rounds : SMap Round
  frames : SMap Frame
  /-- Cached translations (21 R334), keyed 2^47 × agent + 2^41 × function + VA div 65,536: the leaf entry as it was read, and its level. -/
  tlb : SMap (Nat × Nat)
  /-- The model's own: the agent whose translations an event uses, 0 for none but the picked team's core. -/
  who : Nat
  /-- Invalidations and discards under way: function and value (21 R335, R346). -/
  invs : List (Nat × W64 × W64)
  discards : List (Nat × W64)
  coh : Coh
  ports : SMap Port
  sess : SMap Sess
  peers : SMap Peer
  /-- TDISP state of each function (23 R381). -/
  tdisp : SMap Nat
  /-- The last answer the device gave to each of its partners: DOE responses (23 R381, R382), keyed by function, 64 + port, 128 +
  session; CXL.mem responses, 256 + port (R374, R375); reads of a Lantern entry's high word, 320 + entry (24 R389). -/
  doe : SMap (List W64)
  bel : Belfry
  deriving DecidableEq, Repr

def Round.idle : Round := { active := false, waiting := false, since := 0 }
def Port.down : Port := { lanes := 0, up := false, replays := 0, fails := 0 }
def Sess.none : Sess := { port := 0, st := 0, share := 0, epoch := 0 }
def Peer.none : Peer := { st := 0, fn := 0, idx := 0, epoch := 0, export_ := .none, exportIdx := 0 }
def FwSlot.erased : FwSlot := { valid := false, version := 0, svn := 0, digest := 0 }
def HubLine.absent : HubLine := { dies := 0, owned := false }
def Frame.fresh : Frame := { ref := false, slot := none }

/-- The coherence metadata with nothing cached: every LT is 0 (R359). -/
def Coh.reset : Coh :=
  { ticks := 0, lt := [], l1 := [], l2 := [], dir := [], sf := [], txns := [], waiting := [], net := [], rot := [], hub := [], nc := [], tags := [], ctx := [], late := [], merged := [], voided := [], hosts := [] }

/-- The Belfry at power-on: flash slot A holds a firmware image (DESIGN CHOICE, log entry 8). -/
def Belfry.reset : Belfry :=
  { stage := 0, failed := false, result := 0, busy := false, pending := false, slot := false, newBoot := false, bootFails := 0, fuses := 0, barg := 0,
    logtail := 0, logrd := 0, log := [], lantasg := [], lantent := [], sensor := [], warn := [], step := 0, stepAt := 0, warnAt := 0,
    power := .d0, flash := [(0, { valid := true, version := Config.factoryVersion, svn := 0, digest := Config.factoryDigest })], idleAt := 0,
    running := FwSlot.erased, identity := 0, source := 0, powerAt := .none, crit := [] }

/-- The machine right after reset: bring-up has reached no STAGE (24 R388, R395), no unit holds work, every register reads
its reset value (those with a nonzero one read it through the register table of Registers.lean), memory lists nothing. -/
def State.reset : State :=
  { clock := 0, time := 0, cur := 0, picked := false, agenda := [], deferred := [], inp := Input.none, order := [], fresh := 0, teams := [], blocks := [], jobs := [],
    orders := 0, cm := [], cmBad := [], mem := [], blk := [], sysmem := [], regs := [], tails := [], feLines := [], feFail := [], reports := [], faults := [],
    replies := [], reserved := [], rcache := [], batches := [], verdicts := [], tables := [], spireRot := [], copies := [], promise := [],
    queues := [], qreqs := [], deposits := [], groups := [], posts := [], appends := [], watches := [], arrays := [], clusters := [],
    fePrev := [], held := [], poolFree := [], rsvFree := [], rsvLow := [], rounds := [], frames := [], tlb := [], who := 0, atoms := [], atomTag := 0, falls := [], invs := [], discards := [], coh := Coh.reset,
    ports := [], sess := [], peers := [], tdisp := [], doe := [], bel := Belfry.reset }

end Sys2Proof.Machine
end

