-- ==== Sys2Proof/Machine/Bits.lean ====
section
/-!
DEFINITION. Bit fields of words, bytes in little-endian order (03 R44, 04 R87), and sign extension (R71).
-/
namespace Sys2Proof.Machine

/-- Bits hi:lo of a 64-bit word. -/
def fld (x : W64) (hi lo : Nat) : Nat := (x.toNat / 2 ^ lo) % 2 ^ (hi - lo + 1)

/-- Bits hi:lo of a number. -/
def nfld (x hi lo : Nat) : Nat := (x / 2 ^ lo) % 2 ^ (hi - lo + 1)

/-- Bit i of a number. -/
def nbit (x i : Nat) : Bool := (x / 2 ^ i) % 2 == 1

/-- The word with bits hi:lo replaced by `v`. -/
def setFld (x : W64) (hi lo v : Nat) : W64 :=
  BitVec.ofNat 64 (x.toNat - fld x hi lo * 2 ^ lo + (v % 2 ^ (hi - lo + 1)) * 2 ^ lo)

/-- The number a little-endian byte string stands for. -/
def leNat (bs : List Byte) : Nat :=
  match bs with
  | [] => 0
  | b :: r => b.toNat + 256 * leNat r

/-- The `n` low bytes of a number, lowest first. -/
def natLe (n x : Nat) : List Byte :=
  match n with
  | 0 => []
  | k + 1 => BitVec.ofNat 8 x :: natLe k (x / 256)

/-- An unsigned number of width w read as two's complement. -/
def toSigned (w x : Nat) : Int := if x < 2 ^ (w - 1) then (x : Int) else (x : Int) - (2 : Int) ^ w

/-- An integer wrapped to w bits. -/
def wrapInt (w : Nat) (x : Int) : Nat := (x % (2 : Int) ^ w).toNat

/-- sat of R71. -/
def satInt (x lo hi : Int) : Int := if x < lo then lo else if x > hi then hi else x

/-- The bit of a Bool. -/
def bnat (b : Bool) : Nat := if b then 1 else 0

/-- The numbers 0 … n − 1. -/
def upTo (n : Nat) : List Nat := List.range n

/-- The entry of an association list under `k`. -/
def assoc {α : Type} (l : List (Nat × α)) (k : Nat) (d : α) : α := SMap.get l k d

/-- The list without its element number `k`. -/
def dropAt {α : Type} (l : List α) (k : Nat) : List α := l.take k ++ l.drop (k + 1)

/-- The list with element number `k` replaced. -/
def putAt {α : Type} (l : List α) (k : Nat) (x : α) : List α :=
  match l, k with
  | [], _ => []
  | _ :: r, 0 => x :: r
  | y :: r, j + 1 => y :: putAt r j x

/-- The index of the first element that satisfies `p`. -/
def firstIdx {α : Type} (p : α → Bool) (l : List α) : Option Nat :=
  match l with
  | [] => none
  | x :: r => if p x then some 0 else (firstIdx p r).map (· + 1)

/-- The least of a list under a key, first among equals. -/
def leastBy {α : Type} (key : α → Nat) (l : List α) : Option α :=
  l.foldl (fun acc x => match acc with | none => some x | some y => if key x < key y then some x else some y) none

/-- Ascending insertion sort under a strict order test: `lt x y`; equal elements keep their order. -/
def insertBy {α : Type} (lt : α → α → Bool) (x : α) (l : List α) : List α :=
  match l with
  | [] => [x]
  | y :: r => if lt x y then x :: y :: r else y :: insertBy lt x r

def sortBy {α : Type} (lt : α → α → Bool) (l : List α) : List α :=
  l.foldl (fun acc x => insertBy lt x acc) []

end Sys2Proof.Machine
end

