-- ==== Sys2Proof/Machine/Registers.lean ====
section
/-!
DEFINITION. The register windows of the functions (19 R300, 21 R336, R347, 22 R366, 23 R372–R377): reset values, reading by
name, and storing a value the device itself writes. Writes by software are in RegWrites.lean.
-/
namespace Sys2Proof.Machine

/-- Reset value of the register at an offset of function f's window. Registers without a stated reset value are 0 (log entry 9). -/
def regReset (f off : Nat) : W64 :=
  if off = 0x000 then BitVec.ofNat 64 f
  else if off = 0x870 then 100000
  else if off = 0xA10 then 0xFFFFFFFF0000FFFF
  else if off = 0xA18 then 2000
  else if off = 0xD10 then 576
  else if 0xC00 ≤ off ∧ off < 0xD00 then
    (match (off - 0xC00) % 0x40 with
     | 0x10 => 8388608
     | 0x18 => 4194304
     | 0x20 => 1048576
     | 0x28 => 20000
     | 0x30 => 5000
     | _ => 0)
  else 0

/-- Offsets of the registers. -/
def oCLRANGE : Nat := 0x008
def oCTXBASE : Nat := 0x010
def oCTXSIZE : Nat := 0x018
def oRRBASE : Nat := 0x020
def oRRCFG : Nat := 0x028
def oRRHEAD : Nat := 0x030
def oRRTAIL : Nat := 0x038
def oLQBASE (q : Nat) : Nat := 0x100 + 0x20 * q
def oLQTAILA (q : Nat) : Nat := 0x108 + 0x20 * q
def oLQCFG (q : Nat) : Nat := 0x110 + 0x20 * q
def oLQHEAD (q : Nat) : Nat := 0x118 + 0x20 * q
def oPTROOT : Nat := 0x800
def oDABASE : Nat := 0x808
def oDASIZE : Nat := 0x810
def oINVADDR : Nat := 0x818
def oINVREQ : Nat := 0x828
def oINVDONE : Nat := 0x830
def oFSQBASE : Nat := 0x838
def oFSQCFG : Nat := 0x840
def oFSQHEAD : Nat := 0x848
def oFSQTAIL : Nat := 0x850
def oQUSED : Nat := 0x860
def oPQUOTA : Nat := 0x868
def oQLIMIT : Nat := 0x870
def oDISDONE : Nat := 0x880
def oDLBASE : Nat := 0x888
def oDLHEAD : Nat := 0x890
def oDLTAIL : Nat := 0x898
def oDBMAP : Nat := 0x8A0
def oNCWIN (n : Nat) : Nat := 0x900 + 8 * n
def oQRANGE : Nat := 0xA00
def oGRANGE : Nat := 0xA08
def oL2CFG : Nat := 0xA10
def oSHARE : Nat := 0xA18
def oSAVEB : Nat := 0xA20
def oSAVEC : Nat := 0xA28
def oSAVESZ : Nat := 0xA30
def oIFST : Nat := 0xA38
def oPOOLHIGH (d : Nat) : Nat := 0xC10 + 0x40 * d
def oPOOLLOW (d : Nat) : Nat := 0xC18 + 0x40 * d
def oPOOLFLOOR (d : Nat) : Nat := 0xC20 + 0x40 * d
def oRECLIM (d : Nat) : Nat := 0xC28 + 0x40 * d
def oBALWAIT (d : Nat) : Nat := 0xC30 + 0x40 * d
def oDEMBASE : Nat := 0xD00
def oDEMSIZE : Nat := 0xD08
def oDMSPACE : Nat := 0xD10
def oVFSEL : Nat := 0xFF8
def oEXPBASE (p : Nat) : Nat := 0xE40 + 0x20 * (p - 2)
def oEXPSIZE (p : Nat) : Nat := 0xE48 + 0x20 * (p - 2)
def oEXPCFG (p : Nat) : Nat := 0xE50 + 0x20 * (p - 2)

/-- The register at an offset of function f's window, as stored. -/
def State.reg (s : State) (f off : Nat) : W64 := SMap.get s.regs (65536 * f + off) (regReset f off)

/-- The machine with that register holding `v`. -/
def State.setReg (s : State) (f off : Nat) (v : W64) : State :=
  { s with regs := SMap.put s.regs (65536 * f + off) v (regReset f off) }

/-- The register as a number. -/
def State.regN (s : State) (f off : Nat) : Nat := (s.reg f off).toNat

/-- Adds to a register modulo 2^64. -/
def State.addReg (s : State) (f off : Nat) (v : W64) : State := s.setReg f off (s.reg f off + v)

/-- The watermarks in force: FLOOR ≤ LOW ≤ HIGH, or the reset values (R347). -/
def State.watermarks (s : State) (d : Nat) : Nat × Nat × Nat :=
  let h := s.regN 0 (oPOOLHIGH d)
  let l := s.regN 0 (oPOOLLOW d)
  let f := s.regN 0 (oPOOLFLOOR d)
  if f ≤ l ∧ l ≤ h then (f, l, h) else (1048576, 4194304, 8388608)

/-- POOLFREE and RSVFREE of a die (R347). -/
def State.pool (s : State) (d : Nat) : Nat := SMap.get s.poolFree d 0
def State.rsv (s : State) (d : Nat) : Nat := SMap.get s.rsvFree d 0

/-- TDISP state of a function (R381): 0 CONFIG_UNLOCKED, 1 CONFIG_LOCKED, 2 RUN, 3 ERROR. -/
def State.ifst (s : State) (f : Nat) : Nat := SMap.get s.tdisp f 0

/-- A port (R371). -/
def State.port (s : State) (p : Nat) : Port := SMap.get s.ports p Port.down

/-- A peer session (R383). -/
def State.peer (s : State) (p : Nat) : Peer := SMap.get s.peers p Peer.none

/-- Units of time in a microsecond (log entry 10). -/
def usUnits : Nat := 63000

/-- Units of time in one core clock at a clock step (24 R390). -/
def clockUnits (step : Nat) : Nat :=
  match step with
  | 0 => 105 | 1 => 120 | 2 => 140 | 3 => 168 | _ => 210

/-- The reference timer at 100 MHz (24 R386). -/
def State.refTimer (s : State) : Nat := s.time / 630

/-- A team is live (05 R108). -/
def State.anyLive (s : State) : Bool := s.teams.any (fun t => t.2.st != .retired)

/-- Time passes: one core clock, or one period of the reference timer while the core clocks stand (24 R390, R396); none once the
power is off. -/
def State.tick (s : State) : State :=
  let b := if s.anyLive then { s.bel with idleAt := s.time } else s.bel
  match s.bel.power with
  | .d0 => { s with clock := s.clock + 1, time := s.time + clockUnits s.bel.step, bel := b }
  | .d0idle => { s with time := s.time + 630, bel := b }
  | .d3hot => { s with time := s.time + 630, bel := b }
  | _ => s

end Sys2Proof.Machine
end

