-- ==== Sys2Proof/Machine/Fabric.lean ====
section
/-!
DEFINITION. The memory fabric below the engines: bytes, block states, storage pools, the dirty log, held writes (21 R343–R353),
the four-level walk (21 R328–R333), system addresses (23 R373, R383), the error log (24 R391) and fault records (21 R338–R341).
-/
namespace Sys2Proof.Machine

/-- What a byte of memory that nothing has written reads as: a new block is ZERO (21 R344); host memory by log entry 11. -/
def memDefault : Byte := 0

/-- The canonical form of a memory: addresses strictly rising, no entry equal to what an unlisted address reads as. -/
def Memory.wf (m : List Host.Cell) : Bool := SMap.wf (fun _ => memDefault) m

/-- A team by its number. -/
def State.team (s : State) (i : Nat) : Team := SMap.get s.teams i Team.blank
def State.setTeam (s : State) (i : Nat) (t : Team) : State := { s with teams := SMap.put s.teams i t Team.blank }
/-- A block by its number. -/
def State.block (s : State) (i : Nat) : Block := SMap.get s.blocks i Block.blank
def State.setBlock (s : State) (i : Nat) (b : Block) : State := { s with blocks := SMap.put s.blocks i b Block.blank }
/-- A job by its number. -/
def State.job (s : State) (i : Nat) : Job := SMap.get s.jobs i Job.blank
def State.setJob (s : State) (i : Nat) (j : Job) : State := { s with jobs := SMap.put s.jobs i j Job.blank }

/-- The next free value of the model's counter is used. -/
def State.useFresh (s : State) : State := { s with fresh := s.fresh + 1 }

/-! Cached grains (22 R355, R359). Keys: grain or sector number, marked for system lines, below the die or core. -/

def grainBytes (g : Nat) : Nat := if g = 0 then 32 else if g = 1 then 128 else 512
/-- Line key of an address. -/
def lineKey (sys : Bool) (a : Nat) : Nat := a / 32 + (if sys then 2 ^ 50 else 0)
def dieKey (die k : Nat) : Nat := die * 2 ^ 52 + k

/-- The grain of the byte at an address: the snoop filter's entry keeps the one it was allocated with (R355). -/
def State.grainAt (s : State) (t : Tr) (a : Nat) : Nat :=
  match s.coh.sf.find? (fun e => !t.sys && e.line == a / 512) with
  | some e => e.size
  | none => grainBytes t.grain

/-! Bytes. -/

/-- The `n` bytes from address `a` on. -/
def readMem (m : SMap Byte) (a n : Nat) : List Byte :=
  match n with
  | 0 => []
  | k + 1 => SMap.get m a memDefault :: readMem m (a + 1) k

/-- The bytes written from address `a` on. -/
def writeMem (m : SMap Byte) (a : Nat) (bs : List Byte) : SMap Byte :=
  match bs with
  | [] => m
  | b :: r => writeMem (SMap.put m a b memDefault) (a + 1) r

/-- The memory with the bytes of [lo, hi) zero. -/
def clearMem (m : SMap Byte) (lo hi : Nat) : SMap Byte := m.filter (fun e => !(decide (lo ≤ e.1) && decide (e.1 < hi)))

/-- A range cut at the multiples of `u`: (start, bytes). -/
def cutBytes (fuel u a : Nat) (bs : List Byte) : List (Nat × List Byte) :=
  match fuel with
  | 0 => []
  | k + 1 =>
    if bs.isEmpty then []
    else let n := u - a % u; (a, bs.take n) :: cutBytes k u (a + n) (bs.drop n)

/-- A range of addresses cut at the multiples of `u`: (start, length). -/
def cutRange (fuel u a n : Nat) : List (Nat × Nat) :=
  match fuel with
  | 0 => []
  | k + 1 => if n = 0 then [] else let m := min n (u - a % u); (a, m) :: cutRange k u (a + m) (n - m)

/-! Error log (24 R391). -/

/-- A record is written to the error log; words that its kind does not state are free (log entry 27). -/
def State.logErr (s : State) (kind die vf : Nat) (w2 w3 : Option W64) (detail : List W64) : State :=
  let n := s.bel.logtail
  let w0 := BitVec.ofNat 64 (kind + 256 * die + 65536 * vf + 2 ^ 32 * (n % 2 ^ 32))
  let free := fun i => Config.logWord (8 * n + i)
  let rec_ := [w0, BitVec.ofNat 64 s.refTimer, w2.getD (free 2), w3.getD (free 3)] ++ (upTo 4).map (fun i => detail.getD i (free (4 + i)))
  { s with bel := { s.bel with logtail := n + 1, log := SMap.put s.bel.log (n % 65536) rec_ [] } }

/-! Windows and blocks. -/

/-- Home compute die of a device address: frame number modulo 4 (R344). -/
def homeDie (da : Nat) : Nat := (da / 65536) % 4

/-- The function whose window holds a device address (R328). -/
def State.ownerOf (s : State) (da : Nat) : Option Nat :=
  (upTo 64).find? (fun f => decide (s.regN f oDABASE ≤ da) && decide (da < s.regN f oDABASE + s.regN f oDASIZE))

/-- Metadata entry of the block of a device address (R344). -/
def State.blkOf (s : State) (da : Nat) : Blk := SMap.get s.blk (da / 256) Blk.fresh
def State.frameOf (s : State) (da : Nat) : Frame := SMap.get s.frames (da / 65536) Frame.fresh

/-- A block's contents are POISON. -/
def State.poisoned (s : State) (da : Nat) : Bool := (s.blkOf da).st == .poison

/-- Bytes of a grain lie in POISON: it is never cached (R356). -/
def State.grainBad (s : State) (sys : Bool) (grain size : Nat) : Bool := !sys && (cutRange 3 256 grain size).any (fun e => s.poisoned e.1)

/-- QUSED of the function whose window holds the address changes (R342). -/
def State.addUsed (s : State) (da : Nat) (up : Bool) : State :=
  match s.ownerOf da with
  | none => s
  | some f =>
    if up then s.addReg f oQUSED 1 else { s.addReg f oQUSED (-1) with falls := SMap.put s.falls f (SMap.get s.falls f 0 + 1) 0 }

/-- Blocks of a reserve below which nothing is placed on its die, and from which placement goes on (R348). -/
def rsvMin : Nat := 1048576
def rsvEnough : Nat := 2097152

/-- The reserve of a die holds n blocks. -/
def State.setRsv (s : State) (d n : Nat) : State :=
  let low := if n < rsvMin then true else if n ≥ rsvEnough then false else SMap.get s.rsvLow d false
  { s with rsvFree := SMap.put s.rsvFree d n 0, rsvLow := SMap.put s.rsvLow d low false }

/-- The ballooning engine of a die reclaims at once, for a write that waits (R347). -/
def State.askRound (s : State) (d : Nat) : State :=
  { s with rounds := SMap.put s.rounds d { SMap.get s.rounds d Round.idle with active := true } Round.idle }

/-- A storage block returns: the reserve first, the pool after it. With POOLFREE at POOLHIGH the engine has reclaimed enough (R347). -/
def State.freeStorage (s : State) (d : Nat) : State :=
  if s.rsv d < Config.reserveBlocks then s.setRsv d (s.rsv d + 1)
  else
    let n := s.pool d + 1
    let r := SMap.get s.rounds d Round.idle
    { s with poolFree := SMap.put s.poolFree d n 0,
             rounds := if n ≥ (s.watermarks d).2.2 ∧ r.active then SMap.put s.rounds d { r with active := false } Round.idle else s.rounds }

/-- A storage block is taken: from the pool while it holds any, else from the reserve (R348). -/
def State.takeStorage (s : State) (d : Nat) : State :=
  if s.pool d > 0 then { s with poolFree := SMap.put s.poolFree d (s.pool d - 1) 0 } else s.setRsv d (s.rsv d - 1)

/-- The reference bit of the frame is set (R352). -/
def State.touchFrame (s : State) (da : Nat) : State :=
  { s with frames := SMap.put s.frames (da / 65536) { s.frameOf da with ref := true } Frame.fresh }

/-! A demoted frame's DATA blocks lie in its slot of the demotion region (R352). -/

/-- The system address of a device address whose block lies in the demotion region. -/
def State.slotAddr (s : State) (da : Nat) : Option Nat :=
  match (s.frameOf da).slot with
  | some n => if (s.blkOf da).st = .data then some (s.regN 0 oDEMBASE + 65536 * n + da % 65536) else none
  | none => none

/-- Bytes of the device memory space, as the home controllers of their blocks serve them. -/
def State.readDev (s : State) (a n : Nat) : List Byte :=
  (cutRange 4097 256 a n).flatMap (fun e =>
    match s.slotAddr e.1 with
    | some b => readMem s.sysmem b e.2
    | none => readMem s.mem e.1 e.2)

/-- Bytes stored within one block, which is in DATA already where its frame is demoted. -/
def State.writeDev (s : State) (da : Nat) (bs : List Byte) : State :=
  match s.slotAddr da with
  | some b => { s with sysmem := writeMem s.sysmem b bs }
  | none => { s with mem := writeMem s.mem da bs }

/-- Byte i of a repeated word. -/
def wordByte (c : W32) (i : Nat) : Byte := BitVec.ofNat 8 (c.toNat / 256 ^ (i % 4))

/-- Every written byte equals the byte of the repeated word at its place. -/
def sameAs (c : W32) (a : Nat) (bs : List Byte) : Bool :=
  match bs with
  | [] => true
  | b :: r => b == wordByte c a && sameAs c (a + 1) r

/-- The repeated word of a whole block, if it is uniform. -/
def uniformWord (bs : List Byte) : Option W32 :=
  let c := BitVec.ofNat 32 (leNat (bs.take 4))
  if sameAs c 0 bs then some c else none

/-- The repeated word of a block that holds no storage. -/
def Blk.word (b : Blk) : W32 := if b.st == .const then b.value else 0

/-- What a write does to the state of its block (R345). -/
inductive BlkMove where
  | keep | uniform (w : W32) | inPlace | expand
  deriving DecidableEq, Repr

/-- R345: the row of the table for a write to a block that is not in POISON. -/
def blkMove (b : Blk) (a : Nat) (bs : List Byte) (cmp : Bool) : BlkMove :=
  if b.st ≠ .data ∧ sameAs b.word a bs then .keep
  else
    match (if bs.length = 256 then uniformWord bs else none) with
    | some w => if b.st = .data ∧ !cmp then .inPlace else .uniform w
    | none => if b.st = .data then .inPlace else .expand

/-- A write is performed in its block: state, storage and bytes (R345). In a demoted frame an expanding write fills the block's place in the
slot with the old contents. -/
def State.blockPut (s : State) (da : Nat) (bs : List Byte) (cmp : Bool) : State :=
  let b := s.blkOf da
  let k := da / 256
  let d := homeDie da
  let demoted := (s.frameOf da).slot.isSome
  match blkMove b da bs cmp with
  | .keep => { s with mem := writeMem s.mem da bs, blk := SMap.put s.blk k { b with nc := !cmp } Blk.fresh }
  | .uniform w =>
    let nb : Blk := if w = 0 then { st := .zero, value := 0, nc := !cmp } else { st := .const, value := w, nc := !cmp }
    let s2 := { s with mem := writeMem s.mem da bs, blk := SMap.put s.blk k nb Blk.fresh }
    if b.st = .data then (if demoted then s2 else s2.freeStorage d).addUsed da false else s2
  | .inPlace => { s.writeDev da bs with blk := SMap.put s.blk k { b with nc := !cmp } Blk.fresh }
  | .expand =>
    let nb : Blk := { st := .data, value := Config.freeStorage s.fresh, nc := !cmp }
    let old := readMem s.mem (256 * k) 256
    let s2 := ({ s with blk := SMap.put s.blk k nb Blk.fresh }).useFresh
    if demoted then ((s2.writeDev (256 * k) old).writeDev da bs).addUsed da true
    else ((s2.writeDev da bs).takeStorage d).addUsed da true

/-- The write takes a storage block of its die's pool. -/
def State.needsStorage (s : State) (da : Nat) (bs : List Byte) (cmp : Bool) : Bool :=
  blkMove (s.blkOf da) da bs cmp == .expand && (s.frameOf da).slot.isNone

/-- The pool of a die is at or below its floor (R349). -/
def State.poolLow (s : State) (d : Nat) : Bool := decide (s.pool d ≤ (s.watermarks d).1)

/-- A write by the device itself that no rule holds: logged nowhere, stored at once (log entry 12). -/
def State.rawPut (s : State) (da : Nat) (bs : List Byte) : State :=
  (cutBytes 4097 256 da bs).foldl (fun s0 e =>
    let s := s0.touchFrame e.1
    if s.poisoned e.1 then s else s.blockPut e.1 e.2 (!(s.blkOf e.1).nc)) s

/-! The dirty log (R343). -/

/-- Dirty-log frame number of a write in function f's window. -/
def State.dlFrame (s : State) (f da : Nat) : Nat := (da - s.regN f oDABASE) / 65536

def State.dlOn (s : State) (f : Nat) : Bool := nbit (s.regN f oDLBASE) 0

/-- The frame's bit in the dirty bitmap. -/
def State.dlBit (s : State) (f da : Nat) : Bool :=
  let n := s.dlFrame f da
  nbit ((s.readDev (s.regN f oDBMAP + n / 8) 1).headD memDefault).toNat (n % 8)

/-- The write needs an entry of the ring. -/
def State.dlNeeds (s : State) (f da : Nat) : Bool := s.dlOn f && !s.dlBit f da

def State.dlFull (s : State) (f : Nat) : Bool := decide ((s.reg f oDLTAIL - s.reg f oDLHEAD).toNat ≥ 4096)

/-- DIRTY_LOG_APPEND: the bit is looked up; where it is 0 it is set and the frame number appended. -/
def State.dlAppend (s0 : State) (f da : Nat) : State :=
  let n := s0.dlFrame f da
  let ba := s0.regN f oDBMAP + n / 8
  let s := if s0.dlOn f then s0.touchFrame ba else s0
  if s.dlNeeds f da then
    let old := ((s.readDev ba 1).headD memDefault).toNat
    let s1 := s.rawPut ba [BitVec.ofNat 8 (old + 2 ^ (n % 8))]
    let base := s.regN f oDLBASE - 1
    let s2 := s1.rawPut (base + (s.regN f oDLTAIL % 4096) * 8) (natLe 8 n)
    s2.addReg f oDLTAIL 1
  else s

/-! Writes, each of one unit: all its parts are performed together, or all wait (R343, R345, R349). -/

/-- How a write ends. -/
inductive Stored where
  | done | poison | held
  deriving DecidableEq, Repr

/-- A write is held to the block of a device address. -/
def State.blockHeld (s : State) (da : Nat) : Bool := s.held.any (fun h => h.parts.any (fun p => !p.sys && p.addr / 256 == da / 256))

/-- The parts in the device memory space, and the device addresses among them whose frames need an entry of the dirty log, one for each frame. -/
def devParts (ps : List Part) : List Part := ps.filter (fun p => !p.sys)
def State.logAsks (s : State) (f : Nat) (ps : List Part) : List Nat :=
  (devParts ps).foldl (fun l p => if s.dlNeeds f p.addr && !l.any (fun a => a / 65536 == p.addr / 65536) then l ++ [p.addr] else l) []

/-- Blocks of the dirty log that take storage when frames with these addresses are logged. -/
def State.logBlocks (s : State) (f : Nat) (logs : List Nat) : List Nat :=
  let raw (a n : Nat) : List Nat := if (s.blkOf a).st ≠ .poison ∧ s.needsStorage a (List.replicate n 255) (!(s.blkOf a).nc) then [a] else []
  if logs.isEmpty then [] else
    logs.flatMap (fun a => raw (s.regN f oDBMAP + s.dlFrame f a / 8) 1) ++ raw (s.regN f oDLBASE - 1 + (s.regN f oDLTAIL % 4096) * 8) 8

/-- Blocks that take storage when the parts are performed and logged, by an address in each. -/
def State.storageAsks (s : State) (f : Nat) (ps : List Part) : List Nat :=
  let own := ((devParts ps).filter (fun p => s.needsStorage p.addr p.bytes p.cmp)).map (fun p => p.addr)
  (own ++ s.logBlocks f (s.logAsks f ps)).foldl (fun l a => if l.any (fun b => b / 256 == a / 256) then l else l ++ [a]) []

/-- The dies whose pools would be left below their floor (R349). -/
def State.shortDies (s : State) (as : List Nat) : List Nat :=
  (upTo 4).filter (fun d => let n := (as.filter (fun a => homeDie a == d)).length; decide (0 < n) && decide (s.pool d < (s.watermarks d).1 + n))

/-- The dirty log has no room for the entries the parts need. -/
def State.logShort (s : State) (f : Nat) (ps : List Part) : Bool :=
  let n := (s.logAsks f ps).length
  decide (0 < n) && decide ((s.reg f oDLTAIL - s.reg f oDLHEAD).toNat + n > 4096)

/-- A write to a frame waits for the dirty log: its ring is full, or its blocks find no storage (R343, R349). -/
def State.logWaits (s : State) (f da : Nat) : Bool :=
  s.dlNeeds f da && (s.dlFull f || !(s.shortDies (s.logBlocks f [da])).isEmpty)

/-- A write takes lines from the front ends that hold them (19 R302). -/
def State.loseLines (s : State) (sys : Bool) (a n : Nat) : State :=
  { s with feLines := s.feLines.filter (fun e => !(e.2.1 == sys && decide (e.2.2 * 64 < a + n) && decide (a < e.2.2 * 64 + 64))) }

/-- One part is performed. -/
def State.putPart (s0 : State) (f : Nat) (p : Part) : State :=
  let s := s0.loseLines p.sys p.addr p.bytes.length
  if p.sys then { s with sysmem := writeMem s.sysmem p.addr p.bytes } else (s.dlAppend f p.addr).blockPut p.addr p.bytes p.cmp

def State.putParts (s : State) (f : Nat) (ps : List Part) : State := ps.foldl (fun s p => s.putPart f p) s

/-! Dirty sectors of the L2s (22 R356, R358): what a core or an atomic writes stands in the one image at once (log entry 14); its block changes state
when the L2 writes it back. -/

/-- Sectors of [lo, hi) that an L2 holds dirty, and their being so no more. -/
def State.lateIn (s : State) (lo hi : Nat) : List (Nat × Nat) := s.coh.late.filter (fun e => decide (lo < 32 * e.1 + 32) && decide (32 * e.1 < hi))
def State.clearLate (s : State) (lo hi : Nat) : State :=
  { s with coh := { s.coh with late := s.coh.late.filter (fun e => !(decide (lo < 32 * e.1 + 32) && decide (32 * e.1 < hi))) } }

/-- One part is written into the L2 that owns its grain: its sectors are dirty. -/
def State.latePart (s0 : State) (f : Nat) (p : Part) : State :=
  let s := s0.loseLines p.sys p.addr p.bytes.length
  if p.sys then { s with sysmem := writeMem s.sysmem p.addr p.bytes }
  else
    let s1 := (s.dlAppend f p.addr).writeDev p.addr p.bytes
    { s1 with coh := { s1.coh with late := (cutRange 9 32 p.addr p.bytes.length).foldl (fun m e => SMap.put m (e.1 / 32) (if p.cmp then 1 else 2) 0) s1.coh.late } }

def State.lateParts (s : State) (f : Nat) (ps : List Part) : State := ps.foldl (fun s p => s.latePart f p) s

/-- The write is held; a DLOG record is asked of the physical function's queue by its caller. -/
def State.holdWrite (s : State) (f : Nat) (ps : List Part) (w : Writer) (log : Bool) (va : Nat) (op : HeldOp) : State :=
  { s with held := s.held ++ [{ fn := f, parts := ps, writer := w, since := s.time, log := log, va := va, op := op }] }

/-- A write of `ps` waits behind another one, which waits for the dirty log. -/
def State.behindLog (s : State) (ps : List Part) : Bool :=
  let ahead := s.held.filter (fun h => h.parts.any (fun q => !q.sys && (devParts ps).any (fun p => p.addr / 256 == q.addr / 256)))
  ahead.all (fun h => h.log)

/-- A write is performed by `put`, or waits at the home controllers of its blocks (R343, R349). Context writes (`ctx`) draw on the reserve, but for
the blocks of the dirty log (R348). -/
def State.storeWith (s : State) (f : Nat) (ps : List Part) (ctx : Bool) (w : Writer) (va : Nat) (op : HeldOp) (put : State → State) : State × Stored :=
  let s0 := (devParts ps).foldl (fun s p => s.touchFrame p.addr) s
  if (devParts ps).any (fun p => s.poisoned p.addr) then (s0, .poison)
  else if (devParts ps).any (fun p => s.blockHeld p.addr) then (s0.holdWrite f ps w (s.behindLog ps) va op, .held)
  else
    let short := s.shortDies (if ctx then s.logBlocks f (s.logAsks f ps) else s.storageAsks f ps)
    if !short.isEmpty then (short.foldl State.askRound (s0.holdWrite f ps w false va op), .held)
    else if s.logShort f ps then (s0.holdWrite f ps w true va op, .held)
    else (put s0, .done)

/-- A write at the home controllers of its blocks (R345). -/
def State.storeParts (s : State) (f : Nat) (ps : List Part) (ctx : Bool) (w : Writer) (va : Nat) (op : HeldOp) : State × Stored :=
  s.storeWith f ps ctx w va op (fun s => s.putParts f ps)

/-- A write of a core, or an atomic's, into the L2 that owns its grains. One that would expand a block waits at the block's home first, as the example of
R353 has it. -/
def State.storeDirty (s : State) (f : Nat) (ps : List Part) (w : Writer) (va : Nat) (op : HeldOp) : State × Stored :=
  s.storeWith f ps false w va op (fun s => s.lateParts f ps)

/-- A write within one block. -/
def State.storeBlock (s : State) (f da : Nat) (bs : List Byte) (cmp ctx : Bool) (w : Writer) (va : Nat) : State × Stored :=
  s.storeParts f [{ sys := false, addr := da, bytes := bs, cmp := cmp }] ctx w va .put

/-! System addresses (23 R373, R383). -/

/-- The port that a system address goes through (23 R373). -/
def State.sysPort (s : State) (a : Nat) : Nat :=
  if nbit a 51 then nfld a 50 48
  else if (s.port 0).up && (s.port 1).up then nfld a 8 8
  else if (s.port 0).up then 0 else 1

/-- The access by function f reaches the partner of the system address. -/
def State.sysReach (s : State) (f a : Nat) : Bool :=
  if nbit a 51 then
    let p := nfld a 50 48
    decide (2 ≤ p) && (s.port p).up
      && (!(s.ifst f == 1 || s.ifst f == 2) || ((s.peer p).st == 2 && (s.peer p).fn == f))
  else (s.port 0).up || (s.port 1).up

/-! Fault records (R339), and the DLOG record of a write that waits for the dirty log. -/

def State.fsqOn (s : State) (f : Nat) : Bool := nbit (s.regN f oFSQCFG) 31
/-- A record with no fields but these. -/
def faultRec (f kind cause : Nat) (w : Bool) (lane slot : Nat) (ctx arg : W64) (va : Nat) (waiter : Waiter) : FaultRec :=
  { fn := f, seq := 0, kind := kind, cause := cause, w := w, lane := lane, slot := slot, ctx := ctx, arg := arg, va := va,
    written := false, waiter := waiter, lanes := [], key := 0, off := 0, mma := false }

/-- A DLOG record waits for its place in the physical function's queue (R343): ARG is DLTAIL of the window's function. -/
def State.askLog (s : State) (f : Nat) : State :=
  { s with faults := s.faults ++ [faultRec 0 7 0 false 0 0 0 (s.reg f oDLTAIL) 0 .nobody] }

/-! The walk (R329–R333). -/

/-- How a walk ends: a translation, a fault with its CAUSE (1 INVALID, 2 FORMAT, 3 WINDOW, 5 POISON), or PERM PAGE. -/
inductive Walk where
  | ok (t : Tr)
  | fault (cause : Nat)
  | perm
  deriving DecidableEq, Repr

/-- Index of a VA at a level. -/
def vaIndex (va lvl : Nat) : Nat :=
  match lvl with
  | 0 => nfld va 56 39 | 1 => nfld va 38 30 | 2 => nfld va 29 21 | _ => nfld va 20 16

/-- Lowest VA bit below the index of a level. -/
def vaLow (lvl : Nat) : Nat :=
  match lvl with
  | 0 => 39 | 1 => 30 | 2 => 21 | _ => 16

/-- Malformed entries (R332). -/
def entryBad (e lvl : Nat) : Bool :=
  if nbit e 1 then
    nfld e 63 52 != 0 || nbit e 15 || nfld e 12 11 != 0 || nbit e 4 || lvl == 0
      || nfld e 6 5 == 3 || nfld e 8 7 == 3 || decide (nfld e 14 13 ≥ 2)
      || (nfld e 51 16 * 65536) % 2 ^ vaLow lvl != 0
      || (nfld e 14 13 == 1 && nfld e 6 5 != 2)
  else
    nfld e 63 52 != 0 || nfld e 7 2 != 0 || lvl == 3 || (decide (lvl ≤ 1) && (nfld e 51 8 * 256) % 4096 != 0)

/-- The leaf of a VA: its device address and value, or the CAUSE of the fault. -/
def State.findLeaf (s : State) (f va node lvl fuel : Nat) : (Nat × Nat × Nat) ⊕ Nat :=
  match fuel with
  | 0 => .inr 2
  | k + 1 =>
    if node ≥ s.regN f oDASIZE then .inr 3
    else
      let ea := s.regN f oDABASE + node + 8 * vaIndex va lvl
      if s.poisoned ea then .inr 5
      else
        let e := leNat (s.readDev ea 8)
        if !nbit e 0 then .inr 1
        else if entryBad e lvl then .inr 2
        else if nbit e 1 then .inl (ea, e, lvl)
        else s.findLeaf f va (nfld e 51 8 * 256) (lvl + 1) k

/-- The class of a device access: `ncoh` inside an active non-coherent window (22 R366). -/
def State.inNcwin (s : State) (f g : Nat) : Bool :=
  (upTo 16).any (fun n =>
    let w := s.regN f (oNCWIN n)
    let b := nfld w 51 21 * 2 ^ 21
    let l := nfld w 6 1
    nbit w 0 && decide (21 ≤ l ∧ l ≤ 40) && b % 2 ^ l == 0 && decide (b ≤ g ∧ g < b + 2 ^ l))

/-- Addresses of the entries that a walk reads. -/
def State.leafPath (s : State) (f va node lvl fuel : Nat) : List Nat :=
  match fuel with
  | 0 => []
  | k + 1 =>
    if node ≥ s.regN f oDASIZE then []
    else
      let ea := s.regN f oDABASE + node + 8 * vaIndex va lvl
      let e := leNat (s.readDev ea 8)
      if s.poisoned ea || !nbit e 0 || entryBad e lvl || nbit e 1 then [ea] else ea :: s.leafPath f va (nfld e 51 8 * 256) (lvl + 1) k

/-- Root of the walks of a function. -/
def State.rootOf (s : State) (f : Nat) : Nat := nfld (s.regN f oPTROOT) 51 21 * 2 ^ 21

/-- The accessed bit is set by an atomic OR at the entry's home (R329, R332), logged as any write and held as any (R343, R349): the
translation does not wait for it (log entry 94). -/
def State.setAccessed (s : State) (f ea e : Nat) : State :=
  if nbit e 10 || s.held.any (fun h => h.op == .acc && h.addr == ea) then s
  else
    let r := s.storeParts f [{ sys := false, addr := ea, bytes := natLe 8 (e + 2 ^ 10), cmp := !(s.blkOf ea).nc }] false .l2 0 .acc
    if r.2 = .held ∧ s.logShort f [{ sys := false, addr := ea, bytes := [], cmp := true }] && s.fsqOn 0 then r.1.askLog f else r.1

/-- The agent that translates: the one an event names, else the core of the team that issues: 1 + the core for its lanes, its copy engine and its
matrix pipes, 97 + the die for a Spire. Queue segments, front ends and the fetch and write-back of context images keep none. -/
def State.agent (s : State) : Nat := if s.who ≠ 0 then s.who else if s.picked then (s.team s.cur).core + 1 else 0
/-- As `k` leaves the state, with the translations of agent a. -/
def State.as (s : State) (a : Nat) (k : State → State) : State := { k { s with who := a } with who := s.who }
/-- The key of a cached translation. -/
def tlbKey (a f va : Nat) : Nat := 2 ^ 47 * a + 2 ^ 41 * f + va / 65536

/-- The leaf that translates a VA: a cached one whose entry has not changed, or that the access still uses (R334); else the walk's. The flag
tells a fill. -/
def State.leafFor (s : State) (f va : Nat) : State × ((Nat × Nat × Nat) ⊕ Nat) × Bool :=
  let now := s.findLeaf f va (s.rootOf f) 0 4
  match (if s.agent = 0 then none else SMap.find s.tlb (tlbKey s.agent f va)) with
  | none => (s, now, true)
  | some c =>
    match now with
    | .inl x =>
      if x.2.2 = c.2 ∧ x.2.1 ||| 1024 = c.1 ||| 1024 then (s, now, false)
      else if Config.staleTr s.fresh then (s.useFresh, .inl (x.1, c.1, c.2), false)
      else (s.useFresh, now, true)
    | .inr _ => if Config.staleTr s.fresh then (s.useFresh, .inl (0, c.1, c.2), false) else (s.useFresh, now, true)

/-- A translation is cached where its agent keeps one. -/
def State.cacheLeaf (s : State) (f va : Nat) (x : Nat × Nat) : State :=
  if s.agent = 0 then s else { s with tlb := SMap.put s.tlb (tlbKey s.agent f va) x (0, 0) }

/-- A translation is used: its frame is accessed; at a fill the accessed bit is set, and the translation cached. -/
def State.useLeaf (s : State) (f va ea e lvl : Nat) (fill : Bool) (da : Option Nat) : State :=
  let s1 := match da with | some a => s.touchFrame a | none => s
  if !fill then s1 else (s1.setAccessed f ea e).cacheLeaf f va (e, lvl)

/-- translate of R329 for an access that reads, writes or both. -/
def State.walk (s : State) (f va : Nat) (rd wr : Bool) : State × Walk :=
  if !nbit (s.regN f oPTROOT) 0 then (s, .fault 1)
  else
    let r := s.leafFor f va
    let s := if r.2.2 then (r.1.leafPath f va (r.1.rootOf f) 0 4).foldl State.touchFrame r.1 else r.1
    match r.2.1 with
    | .inr c => (s, .fault c)
    | .inl (ea, e, lvl) =>
      let g := nfld e 51 16 * 65536 + va % 2 ^ vaLow lvl
      if (rd && !nbit e 2) || (wr && !nbit e 3) then (s, .perm)
      else if nfld e 14 13 = 0 then
        if g ≥ s.regN f oDASIZE then (s, .fault 3)
        else
          let cls := if s.inNcwin f g then 0 else nfld e 6 5
          (s.useLeaf f va ea e lvl r.2.2 (some (s.regN f oDABASE + g)),
            .ok { sys := false, addr := s.regN f oDABASE + g, cls := cls, grain := nfld e 8 7, cmp := nbit e 9, fn := f })
      else if s.sysReach f g then
        (s.useLeaf f va ea e lvl r.2.2 none, .ok { sys := true, addr := g, cls := 2, grain := nfld e 8 7, cmp := nbit e 9, fn := f })
      else (s, .perm)

/-! Reading and writing through a translation. -/

/-- The bytes at a translation, and whether one lies in a POISON block, or in a grain with one, which is never cached (22 R356). -/
def State.readTr (s : State) (t : Tr) (n : Nat) : List Byte × Bool :=
  if t.sys then (readMem s.sysmem t.addr n, false)
  else
    let lo := if t.cls = 0 then t.addr else (let g := s.grainAt t t.addr; t.addr / g * g)
    let hi := if t.cls = 0 then t.addr + n else (let g := s.grainAt t (t.addr + n - 1); (t.addr + n + g - 1) / g * g)
    (s.readDev t.addr n, (cutRange 4099 256 lo (hi - lo)).any (fun e => s.poisoned e.1))

/-- The parts of bytes written through a translation. -/
def Tr.parts (t : Tr) (bs : List Byte) : List Part :=
  if t.sys then [{ sys := true, addr := t.addr, bytes := bs, cmp := t.cmp }]
  else (cutBytes 4097 256 t.addr bs).map (fun e => { sys := false, addr := e.1, bytes := e.2, cmp := t.cmp })

/-- Bytes written through a translation. -/
def State.storeTr (s : State) (t : Tr) (bs : List Byte) (ctx : Bool) (w : Writer) (va : Nat) : State × Stored :=
  s.storeParts t.fn (t.parts bs) ctx w va .put

/-- Bytes at a virtual address range, page by page; the first failing page otherwise. -/
inductive VRead where
  | ok (bytes : List Byte) (poison : Bool)
  | fault (va cause : Nat)
  | perm
  deriving DecidableEq, Repr

def State.vread (s : State) (f va n : Nat) : State × VRead :=
  (cutRange 4097 65536 va n).foldl
    (fun (acc : State × VRead) e =>
      match acc.2 with
      | .ok bs p =>
        let w := acc.1.walk f e.1 true false
        (match w.2 with
         | .ok t => let r := w.1.readTr t e.2; (w.1, .ok (bs ++ r.1) (p || r.2))
         | .fault c => (w.1, .fault e.1 c)
         | .perm => (w.1, .perm))
      | _ => acc) (s, .ok [] false)

/-- The parts of bytes at a virtual address range; none where a page does not translate for writing. -/
def State.partsAt (s : State) (f va : Nat) (bs : List Byte) : State × Option (List Part) :=
  (cutBytes 4097 65536 va bs).foldl
    (fun (a : State × Option (List Part)) e =>
      match a.2 with
      | none => a
      | some ps =>
        let w := a.1.walk f e.1 false true
        match w.2 with
        | .ok t => (w.1, some (ps ++ t.parts e.2))
        | _ => (w.1, none)) (s, some [])

/-- A write-back of dirty sectors of one block (22 R358): whole where every sector of it is dirty, else sector by sector (R345). Held for storage or the
dirty log it leaves them dirty. -/
def State.wbBlock (s : State) (a n : Nat) : State :=
  let ks := s.lateIn a (a + n)
  match ks, s.ownerOf a with
  | [], _ => s
  | _, none => s.clearLate a (a + n)
  | k :: _, some f =>
    let part := fun (b m : Nat) (c : Nat) => ({ sys := false, addr := b, bytes := s.readDev b m, cmp := c == 1 } : Part)
    let ps := if n = 256 ∧ ks.length = 8 then [part a 256 k.2] else ks.map (fun e => part (32 * e.1) 32 e.2)
    if s.held.any (fun h => h.op == .wb && h.addr / 256 == a / 256) then s
    else
      let r := s.storeParts f ps false .l2 0 .wb
      match r.2 with
      | .held => if s.logShort f ps && s.fsqOn 0 then r.1.askLog f else r.1
      | _ => r.1.clearLate a (a + n)

/-- The dirty sectors of a grain are written back. -/
def State.writeBack (s : State) (a n : Nat) : State :=
  if s.coh.late.isEmpty then s else (cutRange 3 256 a n).foldl (fun s e => s.wbBlock e.1 e.2) s

/-- The write-back of a grain would be held. -/
def State.wbWaits (s : State) (a n : Nat) : Bool :=
  (cutRange 3 256 a n).any (fun e =>
    let ks := s.lateIn e.1 (e.1 + e.2)
    let ps := ks.map (fun k => ({ sys := false, addr := 32 * k.1, bytes := s.readDev (32 * k.1) 32, cmp := k.2 == 1 } : Part))
    match s.ownerOf e.1 with
    | some f => !ks.isEmpty && (s.blockHeld e.1 || s.logShort f ps || !(s.shortDies (s.storageAsks f ps)).isEmpty)
    | none => false)

/-- Every cached copy of the grains with bytes at [lo, hi) is gone, with its directory state; what the L2s held dirty of them is written back. -/
def State.dropLinesIn (s0 : State) (lo hi : Nat) : State :=
  let meets := fun (k n : Nat) => decide (k % 2 ^ 52 < 2 ^ 50) && decide (k % 2 ^ 52 * 32 < hi) && decide (lo < k % 2 ^ 52 * 32 + n)
  let gone := (s0.coh.l2.filter (fun e => meets e.1 e.2.size)).map (fun e => (e.1 % 2 ^ 52 * 32, e.2.size))
  let s := gone.foldl (fun s g => s.writeBack g.1 g.2) s0
  let inGone := fun (k : Nat) => gone.any (fun g => decide (g.1 ≤ k % 2 ^ 52 * 32) && decide (k % 2 ^ 52 * 32 < g.1 + g.2))
  { s with coh := { s.coh with
      l1 := s.coh.l1.filter (fun e => !(meets e.1 32 || inGone e.1)), nc := s.coh.nc.filter (fun e => !meets e.1 32),
      l2 := s.coh.l2.filter (fun e => !meets e.1 e.2.size),
      dir := s.coh.dir.filter (fun e => !meets e.1 e.2.size) } }

/-- The lines that parts in the device memory space write leave every cache. -/
def State.dropParts (s : State) (ps : List Part) : State := (devParts ps).foldl (fun s p => s.dropLinesIn p.addr (p.addr + p.bytes.length)) s

/-- A write by the device at a virtual address is performed whole, if it can be: its pages translate, no block of it is in POISON or has a
write held, there is storage and room in the dirty log (R338, R343, R349). It waits at its engine otherwise (log entry 12). -/
def State.tryPut (s : State) (f va : Nat) (bs : List Byte) : State × Bool :=
  let r := s.partsAt f va bs
  match r.2 with
  | none => (r.1, false)
  | some ps =>
    if (devParts ps).any (fun p => r.1.poisoned p.addr || r.1.blockHeld p.addr) || r.1.logShort f ps then (r.1, false)
    else
      let short := r.1.shortDies (r.1.storageAsks f ps)
      if short.isEmpty then ((r.1.putParts f ps).dropParts ps, true) else (short.foldl State.askRound r.1, false)

/-- A write of the Spire at a virtual address, whose storage it has reserved and whose room in the dirty log it has waited for (11 R226).
Pages that do not translate take nothing. -/
def State.vput (s : State) (f va : Nat) (bs : List Byte) : State :=
  let r := s.partsAt f va bs
  match r.2 with
  | some ps => (r.1.storeParts f ps true .queue va .put).1
  | none => r.1

/-- A 64-bit word at a virtual address, zero where it does not translate. -/
def State.vword (s : State) (f va : Nat) : W64 :=
  match (s.vread f va 8).2 with
  | .ok bs _ => BitVec.ofNat 64 (leNat bs)
  | _ => 0

/-- Little-endian bytes of 64-bit words. -/
def wordsLe (ws : List W64) : List Byte := ws.flatMap (fun w => natLe 8 w.toNat)

/-- 64-bit words of a byte string. -/
def leWords (fuel : Nat) (bs : List Byte) : List W64 :=
  match fuel with
  | 0 => []
  | k + 1 => if bs.isEmpty then [] else BitVec.ofNat 64 (leNat (bs.take 8)) :: leWords k (bs.drop 8)

/-! Fault records (R338–R341). -/

def State.fsqSize (s : State) (f : Nat) : Nat := 2 ^ (s.regN f oFSQCFG % 32)

/-- The 256 bits of a fault record (R339). -/
def FaultRec.bits (r : FaultRec) : Nat :=
  (r.va / 65536 % 2 ^ 41) * 65536 + 2 ^ 64 * r.kind + 2 ^ 67 * bnat r.w + 2 ^ 68 * r.cause + 2 ^ 80 * r.lane + 2 ^ 90 * r.slot
    + 2 ^ 96 * (r.seq % 2 ^ 32) + 2 ^ 128 * r.ctx.toNat + 2 ^ 192 * r.arg.toNat

/-- Waiting records of function f are written in order while the ring has room and takes them: none is ever dropped (R338). Records that need
no resolution leave. -/
def State.drainFaults (fuel : Nat) (s : State) (f : Nat) : State :=
  match fuel with
  | 0 => s
  | k + 1 =>
    match firstIdx (fun r => r.fn == f && !r.written) s.faults with
    | none => s
    | some i =>
      if !s.fsqOn f || decide ((s.reg f oFSQTAIL - s.reg f oFSQHEAD).toNat ≥ s.fsqSize f) then s
      else
        match s.faults[i]? with
        | none => s
        | some r =>
          let n := s.regN f oFSQTAIL
          let r' := { r with seq := n % 2 ^ 32, written := true }
          let s1 := s.tryPut f (s.regN f oFSQBASE + (n % s.fsqSize f) * 32) (natLe 32 r'.bits)
          if !s1.2 then s1.1
          else
            let s2 := s1.1.addReg f oFSQTAIL 1
            State.drainFaults k { s2 with faults := if r.kind ≥ 6 then dropAt s2.faults i else putAt s2.faults i r' } f

/-- A fault record is made for function f's queue (FAULT_RECORD); its EN is tested by the caller (R341). -/
def State.addFault (s : State) (r : FaultRec) : State :=
  State.drainFaults 1024 { s with faults := s.faults ++ [r] } r.fn

/-- The DLOG record of a write held for the dirty log (R343): ARG is DLTAIL of the window's function. -/
def State.dlogRecord (s : State) (f : Nat) : State :=
  if s.fsqOn 0 then s.addFault (faultRec 0 7 0 false 0 0 0 (s.reg f oDLTAIL) 0 .nobody) else s

/-! Report records (19 R308). -/

/-- Records held by function f's front end are written in order while the ring is enabled and has room. -/
def State.drainReports (fuel : Nat) (s : State) (f : Nat) : State :=
  match fuel with
  | 0 => s
  | k + 1 =>
    match firstIdx (fun (r : Nat × List W64) => r.1 == f) s.reports with
    | none => s
    | some i =>
      let cfg := s.regN f oRRCFG
      if !nbit cfg 31 || decide ((s.reg f oRRTAIL - s.reg f oRRHEAD).toNat ≥ 2 ^ (cfg % 32)) then s
      else
        match s.reports[i]? with
        | none => s
        | some r =>
          let n := s.regN f oRRTAIL
          let s1 := s.tryPut f (s.regN f oRRBASE + (n % 2 ^ (cfg % 32)) * 32) (wordsLe r.2)
          if s1.2 then State.drainReports k { s1.1.addReg f oRRTAIL 1 with reports := dropAt s1.1.reports i } f else s1.1

/-- A report record: KIND, level, status, TAG, descriptor number, CTXBASE. -/
def State.report (s : State) (f kind level status : Nat) (tag : W64) (num : Nat) (ctx : W64) : State :=
  let w0 := BitVec.ofNat 64 (kind + 256 * level + 2 ^ 32 * status)
  State.drainReports 1024 { s with reports := s.reports ++ [(f, [w0, tag, BitVec.ofNat 64 num, ctx])] } f

end Sys2Proof.Machine
end

