-- ==== Sys2Proof/Machine/Float.lean ====
section
/-!
DEFINITION. Floating-point numbers of the VX9 (06 R115–R119, 14 R245, R255): exact values, one rounding, flags. A finite
value is (−1)^neg × m × 2^e; operations compute it exactly, or with a sticky bit below every rounding position.
-/
namespace Sys2Proof.Machine

/-- How a format uses its top exponent (R115). -/
inductive FmtKind where
  | ieee | e4m3 | e2m1
  deriving DecidableEq, Repr

/-- A format: exponent bits, fraction bits, bias. -/
structure Fmt where
  ew : Nat
  fw : Nat
  bias : Nat
  kind : FmtKind
  deriving DecidableEq, Repr

def fmtF64 : Fmt := { ew := 11, fw := 52, bias := 1023, kind := .ieee }
def fmtF32 : Fmt := { ew := 8, fw := 23, bias := 127, kind := .ieee }
def fmtF16 : Fmt := { ew := 5, fw := 10, bias := 15, kind := .ieee }
def fmtBf16 : Fmt := { ew := 8, fw := 7, bias := 127, kind := .ieee }
def fmtE5m2 : Fmt := { ew := 5, fw := 2, bias := 15, kind := .ieee }
def fmtE4m3 : Fmt := { ew := 4, fw := 3, bias := 7, kind := .e4m3 }
def fmtE2m1 : Fmt := { ew := 2, fw := 1, bias := 1, kind := .e2m1 }
/-- The in-array accumulator (14 R255). -/
def fmtE8m15 : Fmt := { ew := 8, fw := 15, bias := 127, kind := .ieee }

/-- A value: NaN (signalling?, sign), infinity, or finite. -/
inductive FVal where
  | nan (sig neg : Bool)
  | inf (neg : Bool)
  | fin (neg : Bool) (m : Nat) (e : Int)
  deriving DecidableEq, Repr

/-- Rounding modes (R61). -/
inductive Rnd where
  | rne | rtz | rup | rdn
  deriving DecidableEq, Repr

/-- The mode of a rounding code; code 4 rounds to nearest where it does not act (R119). -/
def rndOf (code : Nat) : Rnd :=
  match code with
  | 1 => .rtz | 2 => .rup | 3 => .rdn | _ => .rne

/-- Flags in the bit positions of FPFLAGS (R121). -/
def flNV : Nat := 1
def flDZ : Nat := 2
def flOF : Nat := 4
def flUF : Nat := 8
def flNX : Nat := 16

/-- OR of two flag sets. -/
def flOr (a b : Nat) : Nat := a ||| b

/-- Bits of a format. -/
def Fmt.bits (f : Fmt) : Nat := f.ew + f.fw + 1

/-- The canonical NaN (R116); e2m1 has none and gives +0. -/
def Fmt.nan (f : Fmt) : Nat :=
  match f.kind with
  | .ieee => (2 ^ f.ew - 1) * 2 ^ f.fw + 2 ^ (f.fw - 1)
  | .e4m3 => 127
  | .e2m1 => 0

/-- The largest finite magnitude's code (R115). -/
def Fmt.maxFin (f : Fmt) : Nat :=
  match f.kind with
  | .ieee => (2 ^ f.ew - 1) * 2 ^ f.fw - 1
  | .e4m3 => 126
  | .e2m1 => 7

/-- The code of infinity (formats that have it). -/
def Fmt.infCode (f : Fmt) : Nat := (2 ^ f.ew - 1) * 2 ^ f.fw

def Fmt.sign (f : Fmt) (neg : Bool) : Nat := if neg then 2 ^ (f.ew + f.fw) else 0

/-- Formats that FTZ flushes (R118). -/
def Fmt.flushes (f : Fmt) : Bool := f == fmtF32 || f == fmtF16 || f == fmtBf16

/-- The value of a code, without flushing (R115). -/
def Fmt.value (f : Fmt) (x : Nat) : FVal :=
  let neg := (x / 2 ^ (f.ew + f.fw)) % 2 == 1
  let e := (x / 2 ^ f.fw) % 2 ^ f.ew
  let fr := x % 2 ^ f.fw
  if f.kind = .ieee ∧ e = 2 ^ f.ew - 1 then (if fr = 0 then .inf neg else .nan (fr < 2 ^ (f.fw - 1)) neg)
  else if f.kind = .e4m3 ∧ e = 15 ∧ fr = 7 then .nan false neg
  else if e = 0 then .fin neg fr (1 - (f.bias : Int) - (f.fw : Int))
  else .fin neg (2 ^ f.fw + fr) ((e : Int) - (f.bias : Int) - (f.fw : Int))

/-- The value of an operand under FTZ (R118). -/
def Fmt.read (f : Fmt) (ftz : Bool) (x : Nat) : FVal :=
  let e := (x / 2 ^ f.fw) % 2 ^ f.ew
  if ftz && f.flushes && e == 0 then .fin ((x / 2 ^ (f.ew + f.fw)) % 2 == 1) 0 0 else f.value x

/-- m × 2^e brought to the exponent `q`: the integer part and whether, and how, a fraction remains: 0 none, 1 below half,
2 half, 3 above half. -/
def alignTo (m : Nat) (e q : Int) : Nat × Nat :=
  if q ≤ e then (m * 2 ^ (e - q).toNat, 0)
  else
    let s := (q - e).toNat
    let r := m % 2 ^ s
    let h := 2 ^ (s - 1)
    (m / 2 ^ s, if r = 0 then 0 else if r < h then 1 else if r = h then 2 else 3)

/-- Whether a rounding adds one. -/
def roundsUp (r : Rnd) (neg : Bool) (i frac : Nat) : Bool :=
  match r with
  | .rne => frac == 3 || (frac == 2 && i % 2 == 1)
  | .rtz => false
  | .rup => frac != 0 && !neg
  | .rdn => frac != 0 && neg

/-- Exponent of the highest one bit of m × 2^e, for m ≠ 0. -/
def topExp (m : Nat) (e : Int) : Int := e + (Nat.log2 m : Int)

/-- The code a result of overflow takes (R117). -/
def Fmt.overflow (f : Fmt) (r : Rnd) (neg : Bool) : Nat × Nat :=
  let toInf := match r with | .rne => true | .rtz => false | .rup => !neg | .rdn => neg
  (f.sign neg + (if f.kind == .ieee && toInf then f.infCode else f.maxFin), flOF ||| flNX)

/-- A finite exact value rounded once to the format (R117, R118): its code and flags. -/
def Fmt.round (f : Fmt) (r : Rnd) (ftz neg : Bool) (m : Nat) (e : Int) : Nat × Nat :=
  if m = 0 then (f.sign neg, 0)
  else
    let emin : Int := 1 - (f.bias : Int)
    let top := topExp m e
    let tiny : Bool := decide (top < emin)
    if tiny && ftz && f.flushes then (f.sign neg, flUF ||| flNX)
    else
      let q : Int := (if tiny then emin else top) - (f.fw : Int)
      let al := alignTo m e q
      let i := if roundsUp r neg al.1 al.2 then al.1 + 1 else al.1
      let q' : Int := if i = 2 ^ (f.fw + 1) then q + 1 else q
      let i' := if i = 2 ^ (f.fw + 1) then 2 ^ f.fw else i
      let code := if i' < 2 ^ f.fw then i' else ((q' + (f.fw : Int) + (f.bias : Int)).toNat) * 2 ^ f.fw + (i' - 2 ^ f.fw)
      if code > f.maxFin then f.overflow r neg
      else (f.sign neg + code, if al.2 = 0 then 0 else if tiny then flUF ||| flNX else flNX)

/-- Any value rounded to the format: NaN canonical, infinity kept or, in e4m3 and e2m1, the largest with NV (R117). -/
def Fmt.put (f : Fmt) (r : Rnd) (ftz : Bool) (v : FVal) : Nat × Nat :=
  match v with
  | .nan _ _ => (f.nan, if f.kind == .e2m1 then flNV else 0)
  | .inf n => if f.kind == .ieee then (f.sign n + f.infCode, 0) else (f.sign n + f.maxFin, flNV)
  | .fin n m e => f.round r ftz n m e

/-- NV of signalling operands (R116). -/
def FVal.nv (v : FVal) : Nat :=
  match v with
  | .nan true _ => flNV
  | _ => 0

def FVal.isNan (v : FVal) : Bool :=
  match v with
  | .nan _ _ => true
  | _ => false

def FVal.neg (v : FVal) : FVal :=
  match v with
  | .nan s n => .nan s (!n)
  | .inf n => .inf (!n)
  | .fin n m e => .fin (!n) m e

def FVal.isNeg (v : FVal) : Bool :=
  match v with
  | .nan _ n => n
  | .inf n => n
  | .fin n _ _ => n

def FVal.isZero (v : FVal) : Bool :=
  match v with
  | .fin _ m _ => m == 0
  | _ => false

/-- The quiet NaN an operation delivers. -/
def FVal.qnan : FVal := .nan false false

/-- (−1)^neg × m as an integer. -/
def signed (neg : Bool) (m : Nat) : Int := if neg then -(m : Int) else (m : Int)

/-- Exact sum of two finite values; an exact zero sum of opposite signs is +0, or −0 under `.rdn` (R134). -/
def addFin (r : Rnd) (na : Bool) (ma : Nat) (ea : Int) (nb : Bool) (mb : Nat) (eb : Int) : FVal :=
  let e := if ea ≤ eb then ea else eb
  let x := signed na (ma * 2 ^ (ea - e).toNat) + signed nb (mb * 2 ^ (eb - e).toNat)
  if x = 0 then (if na = nb then .fin na 0 0 else .fin (r == .rdn) 0 0)
  else .fin (decide (x < 0)) x.natAbs e

/-- a + b exactly, with the flags of its special cases. -/
def FVal.add (r : Rnd) (a b : FVal) : FVal × Nat :=
  match a, b with
  | .nan s _, .nan t _ => (.qnan, if s || t then flNV else 0)
  | .nan s _, _ => (.qnan, if s then flNV else 0)
  | _, .nan t _ => (.qnan, if t then flNV else 0)
  | .inf m, .inf n => if m = n then (.inf m, 0) else (.qnan, flNV)
  | .inf m, _ => (.inf m, 0)
  | _, .inf n => (.inf n, 0)
  | .fin na ma ea, .fin nb mb eb => (addFin r na ma ea nb mb eb, 0)

/-- a × b exactly. -/
def FVal.mul (a b : FVal) : FVal × Nat :=
  match a, b with
  | .nan s _, .nan t _ => (.qnan, if s || t then flNV else 0)
  | .nan s _, _ => (.qnan, if s then flNV else 0)
  | _, .nan t _ => (.qnan, if t then flNV else 0)
  | .inf m, .inf n => (.inf (m != n), 0)
  | .inf m, .fin n k _ => if k = 0 then (.qnan, flNV) else (.inf (m != n), 0)
  | .fin m k _, .inf n => if k = 0 then (.qnan, flNV) else (.inf (m != n), 0)
  | .fin na ma ea, .fin nb mb eb => (.fin (na != nb) (ma * mb) (ea + eb), 0)

/-- a × b + c, exact before one rounding. NV of 0 × ∞ is raised with a NaN c too. -/
def FVal.fma (r : Rnd) (a b c : FVal) : FVal × Nat :=
  let p := FVal.mul a b
  let s := FVal.add r p.1 c
  (s.1, p.2 ||| s.2)

/-- Quotient bits: at least 130 below the leading one, with a sticky bit. -/
def divFin (ma : Nat) (ea : Int) (mb : Nat) (eb : Int) : Nat × Int :=
  let k := 130 + (Nat.log2 mb) - (Nat.log2 ma)
  let n := ma * 2 ^ k
  (2 * (n / mb) + (if n % mb = 0 then 0 else 1), ea - eb - (k : Int) - 1)

/-- a / b. -/
def FVal.div (a b : FVal) : FVal × Nat :=
  match a, b with
  | .nan s _, .nan t _ => (.qnan, if s || t then flNV else 0)
  | .nan s _, _ => (.qnan, if s then flNV else 0)
  | _, .nan t _ => (.qnan, if t then flNV else 0)
  | .inf _, .inf _ => (.qnan, flNV)
  | .inf m, .fin n _ _ => (.inf (m != n), 0)
  | .fin m _ _, .inf n => (.fin (m != n) 0 0, 0)
  | .fin na ma ea, .fin nb mb eb =>
    if mb = 0 then (if ma = 0 then (.qnan, flNV) else (.inf (na != nb), flDZ))
    else if ma = 0 then (.fin (na != nb) 0 0, 0)
    else let q := divFin ma ea mb eb; (.fin (na != nb) q.1 q.2, 0)

/-- Integer square root, bit by bit from 2^(k−1) down. -/
def isqrtGo (k : Nat) (n acc : Nat) : Nat :=
  match k with
  | 0 => acc
  | j + 1 => let t := acc + 2 ^ j; isqrtGo j n (if t * t ≤ n then t else acc)

/-- ⌊√n⌋. -/
def isqrt (n : Nat) : Nat := isqrtGo (Nat.log2 n / 2 + 1) n 0

/-- Square root with a sticky bit below at least 128 bits. -/
def sqrtFin (m : Nat) (e : Int) : Nat × Int :=
  let k := 260 - Nat.log2 m
  let k := if (e - (k : Int)) % 2 = 0 then k else k + 1
  let n := m * 2 ^ k
  let r := isqrt n
  (2 * r + (if r * r = n then 0 else 1), (e - (k : Int)) / 2 - 1)

/-- √a (R134). -/
def FVal.sqrt (a : FVal) : FVal × Nat :=
  match a with
  | .nan s _ => (.qnan, if s then flNV else 0)
  | .inf n => if n then (.qnan, flNV) else (.inf false, 0)
  | .fin n m e =>
    if m = 0 then (.fin n 0 0, 0)
    else if n then (.qnan, flNV)
    else let q := sqrtFin m e; (.fin false q.1 q.2, 0)

/-- The value one. -/
def FVal.one : FVal := .fin false 1 0

/-- Order of two finite or infinite values: −1, 0, 1; −0 and +0 equal. -/
def FVal.cmp (a b : FVal) : Int :=
  match a, b with
  | .inf m, .inf n => if m = n then 0 else if m then -1 else 1
  | .inf m, _ => if m then -1 else 1
  | _, .inf n => if n then 1 else -1
  | .fin na ma ea, .fin nb mb eb =>
    let e := if ea ≤ eb then ea else eb
    let x := signed na (ma * 2 ^ (ea - e).toNat)
    let y := signed nb (mb * 2 ^ (eb - e).toNat)
    if x < y then -1 else if x = y then 0 else 1
  | _, _ => 0

/-- a is below b with −0 below +0 (R135). -/
def FVal.below (a b : FVal) : Bool :=
  let c := FVal.cmp a b
  decide (c < 0) || (c == 0 && a.isNeg && !b.isNeg)

/-- minimumNumber, maximumNumber (R135). -/
def FVal.minmax (mx : Bool) (a b : FVal) : FVal × Nat :=
  let fl := a.nv ||| b.nv
  if a.isNan then (if b.isNan then (.qnan, fl) else (b, fl))
  else if b.isNan then (a, fl)
  else (if mx then (if FVal.below a b then b else a) else (if FVal.below b a then b else a), fl)

/-- A finite value rounded to an integer, and whether it changed. -/
def roundInt (r : Rnd) (neg : Bool) (m : Nat) (e : Int) : Nat × Bool :=
  let al := alignTo m e 0
  (if roundsUp r neg al.1 al.2 then al.1 + 1 else al.1, al.2 != 0)

/-- FRINT (R134, R136). -/
def FVal.rint (r : Rnd) (a : FVal) : FVal × Nat :=
  match a with
  | .nan s _ => (.qnan, if s then flNV else 0)
  | .inf n => (.inf n, 0)
  | .fin n m e => let x := roundInt r n m e; (.fin n x.1 0, if x.2 then flNX else 0)

/-- a × 2^n (R136). -/
def FVal.scale (a : FVal) (n : Int) : FVal × Nat :=
  match a with
  | .nan s _ => (.qnan, if s then flNV else 0)
  | .inf k => (.inf k, 0)
  | .fin k m e => (.fin k m (if m = 0 then 0 else e + n), 0)

/-- The class mask of FCLASS (R136). -/
def Fmt.classMask (f : Fmt) (x : Nat) : Nat :=
  let e := (x / 2 ^ f.fw) % 2 ^ f.ew
  match f.value x with
  | .nan s _ => if s then 256 else 512
  | .inf n => if n then 1 else 128
  | .fin n m _ => if m = 0 then (if n then 8 else 16) else if e = 0 then (if n then 4 else 32) else (if n then 2 else 64)

/-- A float value converted to an integer range [lo, hi] (R137). -/
def FVal.toInt (r : Rnd) (lo hi : Int) (a : FVal) : Int × Nat :=
  match a with
  | .nan _ _ => (0, flNV)
  | .inf n => (if n then lo else hi, flNV)
  | .fin n m e =>
    if topExp (m + 1) e > 70 then (if m = 0 then (0, 0) else (if n then lo else hi, flNV))
    else
      let x := roundInt r n m e
      let v := signed n x.1
      if v < lo then (lo, flNV) else if v > hi then (hi, flNV) else (v, if x.2 then flNX else 0)

/-- An integer as an exact value. -/
def FVal.ofInt (x : Int) : FVal := .fin (decide (x < 0)) x.natAbs 0

/-! Reference values of transcendental functions in fixed point, for the bounds of R152 and the rounding of R271. -/

/-- 2^(2^−i) for i = 1 … n in fixed point with `p` fraction bits, applied to the set bits of f (also of `p` bits), from the
high bit down: the product is 2^(f / 2^p). -/
def exp2Go (n p i c f acc : Nat) : Nat :=
  match n with
  | 0 => acc
  | k + 1 =>
    let c' := isqrt (c * 2 ^ p)
    let acc' := if (f / 2 ^ (p - i)) % 2 = 1 then acc * c' / 2 ^ p else acc
    exp2Go k p (i + 1) c' f acc'

/-- 2^(f / 2^p) in fixed point with p fraction bits, for f below 2^p. -/
def exp2Frac (p f : Nat) : Nat := if f = 0 then 2 ^ p else exp2Go p p 1 (2 * 2 ^ p) f (2 ^ p)

/-- 2^x of a finite value x, with p bits of precision: mantissa and exponent, sticky when inexact. -/
def exp2Val (p : Nat) (neg : Bool) (m : Nat) (e : Int) : Nat × Int :=
  let x := signed neg m * (if e ≥ 0 then (2 : Int) ^ e.toNat else 1)
  let s := if e ≥ 0 then 0 else (-e).toNat
  let k := x / (2 : Int) ^ s
  let fr := (x % (2 : Int) ^ s).toNat
  let f := if s ≤ p then fr * 2 ^ (p - s) else fr / 2 ^ (s - p)
  if fr = 0 then (1, k) else (2 * exp2Frac p f + 1, k - (p : Int) - 1)

/-- Fraction bits of log2 of a fixed-point number in [1, 2), by squaring. -/
def log2Go (n p x acc : Nat) : Nat :=
  match n with
  | 0 => acc
  | k + 1 =>
    let y := x * x / 2 ^ p
    if y ≥ 2 * 2 ^ p then log2Go k p (y / 2) (2 * acc + 1) else log2Go k p y (2 * acc)

/-- log2 of m × 2^e (m ≠ 0) as an integer in units of 2^−n, rounded down. -/
def log2Val (n : Nat) (m : Nat) (e : Int) : Int :=
  let t := Nat.log2 m
  let p := 2 * n + 64
  (e + (t : Int)) * 2 ^ n + (log2Go n p (m * 2 ^ p / 2 ^ t) 0 : Int)

/-- A Taylor sum: term ← term × y / (step of i), in fixed point with p bits; signs alternate when `alt`. -/
def taylorGo (n p i stride : Nat) (alt : Bool) (sgn : Bool) (y term : Nat) (acc : Int) : Int :=
  match n with
  | 0 => acc
  | k + 1 =>
    let t := if stride = 2 then term * y / 2 ^ p / (i * (i + 1)) else term * y / 2 ^ p / i
    let sgn' := if alt then !sgn else sgn
    taylorGo k p (i + stride) stride alt sgn' y t (if sgn' then acc - (t : Int) else acc + (t : Int))

/-- Fraction bits of the reference values. -/
def refBits : Nat := 120

/-- π with 120 fraction bits. -/
def refPi : Nat := 4175892906503776358826876457663557747

/-- sin(π r) for r = f / 2^120 in [0, 1/2]. -/
def refSin (f : Nat) : Nat :=
  let x := f * refPi / 2 ^ refBits
  (taylorGo 20 refBits 2 2 true false (x * x / 2 ^ refBits) x (x : Int)).toNat

/-- cos(π r) for r in [0, 1/2]. -/
def refCos (f : Nat) : Nat := refSin (2 ^ 119 - f)

/-- sin and cos of π x for a finite x, as signed fixed point. -/
def refSinCos (neg : Bool) (m : Nat) (e : Int) : Int × Int :=
  let q := if e ≥ -(120 : Int) then m * 2 ^ (e + 120).toNat else m / 2 ^ (-(e + 120)).toNat
  let r := q % 2 ^ 121
  let h := r / 2 ^ 119
  let f := r % 2 ^ 119
  let s := refSin f
  let c := refCos f
  let sc : Int × Int := match h with
    | 0 => ((s : Int), (c : Int))
    | 1 => ((c : Int), -(s : Int))
    | 2 => (-(s : Int), -(c : Int))
    | _ => (-(c : Int), (s : Int))
  (if neg then -sc.1 else sc.1, sc.2)

/-- z / (1 + √(1 + z²)): halves the angle whose tangent is z. -/
def tanHalf (z : Nat) : Nat := z * 2 ^ refBits / (2 ^ refBits + isqrt (2 ^ refBits * (2 ^ refBits + z * z / 2 ^ refBits)))

/-- The odd-power series of the arc tangent. -/
def atanGo (n i : Nat) (sgn : Bool) (z2 pw : Nat) (acc : Int) : Int :=
  match n with
  | 0 => acc
  | k + 1 =>
    let pw' := pw * z2 / 2 ^ refBits
    let t := pw' / (2 * i + 1)
    atanGo k (i + 1) (!sgn) z2 pw' (if sgn then acc + (t : Int) else acc - (t : Int))

/-- arctan(z) / π for z in [0, 1], fixed point. -/
def refAtan (z : Nat) : Nat :=
  let w := tanHalf (tanHalf (tanHalf z))
  let a := (atanGo 40 1 false (w * w / 2 ^ refBits) w (w : Int)).toNat
  8 * a * 2 ^ refBits / refPi

/-- e^(−x) for x ≥ 0 in fixed point (0 when below one unit). -/
def refExpNeg (x : Nat) : Nat :=
  -- e^(−x) = 2^(−x log2 e); log2 e with 120 fraction bits
  let y := x * 1917670637729674084946755258930051709 / 2 ^ refBits
  let k := y / 2 ^ refBits
  let f := y % 2 ^ refBits
  if k > 119 then 0
  else if f = 0 then 2 ^ refBits / 2 ^ k
  else exp2Frac refBits (2 ^ refBits - f) / 2 ^ (k + 1)

/-- A finite value of magnitude below 2^20 in fixed point, rounded toward zero; larger ones give 2^140. -/
def refFix (m : Nat) (e : Int) : Nat :=
  if m = 0 then 0
  else if topExp m e > 19 then 2 ^ 140
  else if e ≥ -(120 : Int) then m * 2 ^ (e + 120).toNat else m / 2 ^ (-(e + 120)).toNat

end Sys2Proof.Machine
end

