-- ==== Sys2Proof/Machine/Operands.lean ====
section
/-!
DEFINITION. Registers of a team and every operand form: reading, widening of literals, cross-lane sources, writing with the
full bit, the sources and destinations that an instruction waits on (03 R52–R62, R70, R72; 05 R96–R98).
-/
namespace Sys2Proof.Machine

/-- An instruction as issued: major opcode, LEN, fields. -/
structure Ins where
  op : Nat
  len : Nat
  f : Form
  deriving DecidableEq, Repr

/-- An L- or X-form. -/
def insW (op : Nat) (f : Form) : Ins := { op := op, len := (match f.lit with | none => 1 | some _ => 2), f := f }
/-- An S-form, as the L-form it stands for (R51). -/
def insS (op : Nat) (f : SForm) : Ins := { op := op, len := 0, f := expandShort op f }

/-- Its fields as the matched form has them. -/
def Ins.desc (i : Ins) : Desc := litFields ((descOf i.op i.f).getD descBase) i.f
/-- Operand values of 64-bit types (R54). -/
def Ins.wide (i : Ins) : Bool := tyWide i.f.ty

/-! Lanes. -/

/-- The lane is active (R71, R94). -/
def Team.active (t : Team) (l : Nat) : Bool := decide (l < t.nlanes) && t.mask.getLsbD l
/-- The active lanes, ascending. -/
def Team.lanes (t : Team) : List Nat := (upTo t.nlanes).filter t.active
/-- Mask words of the team (R94). -/
def Team.words (t : Team) : Nat := (t.nlanes + 31) / 32

/-! Register values. Keys: vector 1024 × register + lane; predicates 1024 × number + lane. -/

def vkey (r l : Nat) : Nat := 1024 * r + l

def Team.vr (t : Team) (r l : Nat) : Nat := (SMap.get t.v (vkey r l) (0 : W32)).toNat
def Team.sr (t : Team) (r : Nat) : Nat := (SMap.get t.s r (0 : W64)).toNat
/-- p(n) of lane l; p7 reads as 1 (R55, R96). -/
def Team.pr (t : Team) (n l : Nat) : Bool := if n = 7 then true else SMap.get t.p (vkey n l) false
def Team.qr (t : Team) (n : Nat) : Bool := if n = 7 then true else SMap.get t.q n false

/-- A register or predicate with a full/empty bit. -/
inductive Ref where
  | v (r l : Nat)
  | s (r : Nat)
  | p (n l : Nat)
  | q (n : Nat)
  deriving DecidableEq, Repr

/-- The register is empty; p7 and q7 never are (R96). -/
def Team.empty (t : Team) (r : Ref) : Bool :=
  match r with
  | .v r l => SMap.get t.vE (vkey r l) false
  | .s r => SMap.get t.sE r false
  | .p n l => n != 7 && SMap.get t.pE (vkey n l) false
  | .q n => n != 7 && SMap.get t.qE n false

/-- The register-cache word holds an uncorrectable error (09 R189). -/
def Team.bad (t : Team) (r : Ref) : Bool :=
  match r with
  | .v r l => SMap.get t.vBad (vkey r l) false
  | _ => false

/-- Writing a vector register of a lane, marked full (R97). -/
def Team.setV (t : Team) (r l x : Nat) : Team :=
  { t with v := SMap.put t.v (vkey r l) (BitVec.ofNat 32 x) 0, vE := SMap.drop t.vE (vkey r l), vBad := SMap.drop t.vBad (vkey r l) }
def Team.setS (t : Team) (r x : Nat) : Team :=
  { t with s := SMap.put t.s r (BitVec.ofNat 64 x) 0, sE := SMap.drop t.sE r }
/-- pwrite of R71: a write to p7 is discarded (R55). -/
def Team.setP (t : Team) (n l : Nat) (b : Bool) : Team :=
  if n = 7 then t else { t with p := SMap.put t.p (vkey n l) b false, pE := SMap.drop t.pE (vkey n l) }
def Team.setQ (t : Team) (n : Nat) (b : Bool) : Team :=
  if n = 7 then t else { t with q := SMap.put t.q n b false, qE := SMap.drop t.qE n }

/-- mark_empty of R71. -/
def Team.markEmpty (t : Team) (r : Ref) : Team :=
  match r with
  | .v r l => { t with vE := SMap.put t.vE (vkey r l) true false }
  | .s r => { t with sE := SMap.put t.sE r true false }
  | .p n l => if n = 7 then t else { t with pE := SMap.put t.pE (vkey n l) true false }
  | .q n => if n = 7 then t else { t with qE := SMap.put t.qE n true false }

def Team.markAll (t : Team) (rs : List Ref) : Team := rs.foldl Team.markEmpty t

/-- A value that lands in a register (R18, R97). In handler mode a q register that was empty at entry awaits the same value in the trap
state, so that RTE does not undo the reply (09 R185, R191). -/
def Team.land (t : Team) (d : Dst) : Team :=
  match d with
  | .v r l x => t.setV r l x.toNat
  | .s r x => t.setS r x.toNat
  | .p n l x => t.setP n l x
  | .q n x =>
    if t.hmode && n != 7 && SMap.get t.savedQE n false then
      { t.setQ n x with savedQ := SMap.put t.savedQ n x false, savedQE := SMap.drop t.savedQE n }
    else t.setQ n x

/-! Operand fetch (R72). -/

/-- Source lane of a cross-lane read (R62). -/
def crossSource (nlanes l xl : Nat) : Nat :=
  let w := l / 32
  let i := l % 32
  let j := match xl with
    | 1 => i ^^^ 1 | 2 => i ^^^ 2 | 3 => i ^^^ 4 | 4 => i ^^^ 8 | 5 => i ^^^ 16
    | 6 => i - 1 | 7 => 0 | _ => i
  if xl = 6 ∧ i = 0 then l
  else if 32 * w + j ≥ nlanes then l
  else 32 * w + j

/-- binary32 read as binary64, exactly, payloads in the high fraction bits (R60). -/
def widenF32 (x : Nat) : Nat :=
  let neg := (x / 2 ^ 31) % 2
  match fmtF32.value x with
  | .nan _ _ => neg * 2 ^ 63 + 0x7FF * 2 ^ 52 + (x % 2 ^ 23) * 2 ^ 29
  | .inf _ => neg * 2 ^ 63 + 0x7FF * 2 ^ 52
  | .fin n m e => (fmtF64.round .rne false n m e).1

/-- A literal widened to the operand width of a type (R60). -/
def widenLit (ty : Ty) (l : W32) : Nat :=
  match ty with
  | .s64 => (l.signExtend 64).toNat
  | .f64 => widenF32 l.toNat
  | _ => l.toNat

/-- A register operand: scalar when uniform or its kind bit is set (R52), a pair for 64-bit lane values (R54). -/
def Team.opnd (t : Team) (scalar wide : Bool) (r l : Nat) : Nat :=
  if scalar then (if wide then t.sr r else t.sr r % 2 ^ 32)
  else if wide then t.vr r l + 2 ^ 32 * t.vr (r + 1) l
  else t.vr r l

/-- Operand A with its cross-lane source. -/
def Ins.opa (i : Ins) (t : Team) (wide : Bool) (l : Nat) : Nat :=
  let sc := i.f.uni || i.f.ka
  t.opnd sc wide i.f.a.toNat (if sc then l else crossSource t.nlanes l i.f.xl.toNat)

/-- Operand B, or LIT where it replaces B. -/
def Ins.opb (i : Ins) (t : Team) (wide : Bool) (l : Nat) : Nat :=
  match i.f.lit with
  | some x => widenLit i.f.ty x
  | none => t.opnd (i.f.uni || i.f.kb) wide i.f.b.toNat l

/-- Operand B where it is no value of the instruction's type: LIT as it stands (02 R42). -/
def Ins.opbRaw (i : Ins) (t : Team) (wide : Bool) (l : Nat) : Nat :=
  match i.f.lit with
  | some x => x.toNat
  | none => t.opnd (i.f.uni || i.f.kb) wide i.f.b.toNat l

def Ins.opc (i : Ins) (t : Team) (wide : Bool) (l : Nat) : Nat := t.opnd (i.f.uni || i.f.kc) wide i.f.c.toNat l

/-- The register named in D where it is read: KB is its kind bit (R160). -/
def Ins.opd (i : Ins) (t : Team) (wide : Bool) (l : Nat) : Nat := t.opnd (i.f.uni || i.f.kb) wide i.f.d.toNat l

/-- Value of a 32-bit or packed result in a scalar register (R59). -/
def scalarOf (ty : Ty) (x : Nat) : Nat :=
  if tyWide ty then x % 2 ^ 64
  else if ty = .s32 then ((BitVec.ofNat 32 x).signExtend 64).toNat
  else x % 2 ^ 32

/-- write_d of R71 to register `r` under a type. -/
def Team.writeReg (t : Team) (uni : Bool) (ty : Ty) (r l x : Nat) : Team :=
  if uni then t.setS r (scalarOf ty x)
  else if tyWide ty then (t.setV r l (x % 2 ^ 32)).setV (r + 1) l (x / 2 ^ 32)
  else t.setV r l x

def Ins.writeD (i : Ins) (t : Team) (l x : Nat) : Team := t.writeReg i.f.uni i.f.ty i.f.d.toNat l x

/-- The same value as destinations of a late reply. -/
def dstsOf (uni : Bool) (ty : Ty) (r l x : Nat) : List Dst :=
  if uni then [.s r (BitVec.ofNat 64 (scalarOf ty x))]
  else if tyWide ty then [.v r l (BitVec.ofNat 32 x), .v (r + 1) l (BitVec.ofNat 32 (x / 2 ^ 32))]
  else [.v r l (BitVec.ofNat 32 x)]

/-- pD and pE of a predicate-writing form (R55). -/
def Ins.pd (i : Ins) : Nat := i.f.d.toNat % 8
def Ins.pe (i : Ins) : Nat := (i.f.d.toNat / 8) % 8

/-- Writes a predicate and its complement. -/
def Team.setPair (t : Team) (uni : Bool) (pd pe l : Nat) (b : Bool) : Team :=
  if uni then (t.setQ pd b).setQ pe (!b) else (t.setP pd l b).setP pe l (!b)

/-- The same as destinations of a late reply. -/
def pairDsts (uni : Bool) (pd pe l : Nat) (b c : Bool) : List Dst :=
  if uni then [.q pd b, .q pe c] else [.p pd l b, .p pe l c]

/-- A predicate source. -/
def Team.predOf (t : Team) (uni : Bool) (n l : Nat) : Bool := if uni then t.qr n else t.pr n l

/-- The guard of a lane, or of a uniform instruction (R56). -/
def Ins.guard (i : Ins) (t : Team) (l : Nat) : Bool := t.predOf i.f.uni i.f.gp.toNat l != i.f.gn

/-! What an instruction reads and writes, for waiting (R57, R70, R97, R98). -/

/-- The registers r … r + n − 1, vector ones of lane l. -/
def refSpan (vec : Bool) (r l n : Nat) : List Ref := (upTo n).map (fun k => if vec then .v (r + k) l else .s (r + k))

def predRef (uni : Bool) (n l : Nat) : Ref := if uni then .q n else .p n l

/-- Registers of a table instruction's span that are read: first and count (12 R231, R232): a window is read where it is a
source, and TCLOSE reads the cursor's last two registers alone. -/
def Ins.tableReads (i : Ins) : Nat × Nat :=
  let k := (tableKeyRegs i.op i.f).1
  if i.op = 0x148 then (4, 2)
  else if i.op = 0x141 ∨ i.op = 0x143 ∨ i.op = 0x144 then (0, k + tableWindow i.op i.f)
  else (0, k)

/-- Reads of a source field in lane l: each register with its wait bit. -/
def Ins.fieldRefs (i : Ins) (k : FK) (v : BitVec 8) (wt kind : Bool) (l : Nat) : List (Ref × Bool) :=
  let vec := !(i.f.uni || kind)
  let span (w : Wid) (vec : Bool) : List (Ref × Bool) := (refSpan vec v.toNat l (widRegs i.op i.f w vec).1).map (fun r => (r, wt))
  match k with
  | .src w => span w vec
  | .vsrc .table => (refSpan (!i.f.uni) (v.toNat + i.tableReads.1) l i.tableReads.2).map (fun r => (r, wt))
  | .vsrc w => span w (!i.f.uni)
  | .ssrc w => span w false
  | .pred => [(predRef i.f.uni v.toNat l, wt)]
  | _ => []

/-- The source lane of SHFL and BCST (07 R147); the lane itself when it has none. -/
def Ins.shuffleLane (i : Ins) (t : Team) (l : Nat) : Nat :=
  let b : Nat := i.opbRaw t false l
  let x : Nat := l ^^^ b
  let j : Int :=
    if i.op = 0x0C1 then (b : Int)
    else match i.f.mod.toNat with
      | 0 => (b : Int) | 1 => (l : Int) - (b : Int) | 2 => (l : Int) + (b : Int) | _ => (x : Int)
  if j < 0 ∨ j ≥ t.nlanes then l else j.toNat

/-- The lanes of the mask word of lane l. -/
def wordOf (nlanes l : Nat) : List Nat := ((upTo 32).map (fun k => 32 * (l / 32) + k)).filter (fun k => decide (k < nlanes))

/-- All reads of an instruction in lane l; SBDQ's lanes read the codes of their whole word (15 R268; which of them an empty code traps: log
entry 115). DESIGN CHOICE: while the index b of SHFL or BCST is empty its source lane is not
known, so no lane's a is tested until b is full (07 R147 names no order of the two tests; log entry 105; safe: the wait or the
EMPTY of b decides alone). -/
def Ins.srcRefs (i : Ins) (t : Team) (l : Nat) : List (Ref × Bool) :=
  let ds := i.desc
  let la :=
    if i.op = 0x0C0 ∨ i.op = 0x0C1 then i.shuffleLane t l
    else if i.f.xl = 0 then l else crossSource t.nlanes l i.f.xl.toNat
  let b := if dReads ds.d then [] else i.fieldRefs ds.b i.f.b i.f.wb i.f.kb l
  let d := match ds.d with
    | .rd w => i.fieldRefs (.src w) i.f.d i.f.wb i.f.kb l
    | .rw w => i.fieldRefs (.src w) i.f.d i.f.wb i.f.kb l
    | _ => []
  let own := if i.op = 0x0A3 ∧ i.f.mod = 1 then (upTo 7).map (fun n => (predRef i.f.uni n l, true)) else []
  let a :=
    if (i.op = 0x0C0 ∨ i.op = 0x0C1) ∧ b.any (fun r => t.empty r.1) then []
    else if i.op = 0x084 then (wordOf t.nlanes l).flatMap (fun k => i.fieldRefs ds.a i.f.a i.f.wa i.f.ka k)
    else i.fieldRefs ds.a i.f.a i.f.wa i.f.ka la
  a ++ b ++ i.fieldRefs ds.c i.f.c i.f.wc i.f.kc l ++ d ++ own

/-- Registers an instruction writes beside its D and C fields: a table instruction's window and cursor, PMOV.put's predicates,
MFLUSH's registers, and the carry predicate of IADDC (R131). -/
def Ins.ownDsts (i : Ins) (l : Nat) : List Ref :=
  let k := tableKeyRegs i.op i.f
  let vec := !i.f.uni
  if i.op = 0x140 then refSpan vec (i.f.a.toNat + k.1) l (tableWindow i.op i.f)
  else if i.op = 0x146 then refSpan vec i.f.a.toNat l (6 + tableWindow i.op i.f)
  else if i.op = 0x148 then refSpan vec (i.f.a.toNat + 4) l 2
  else if i.op = 0x145 ∨ i.op = 0x147 then refSpan vec i.f.a.toNat l 6
  else if i.op = 0x0A3 ∧ i.f.mod = 2 then (upTo 7).map (fun n => predRef i.f.uni n l)
  else if i.op = 0x164 then refSpan true i.f.a.toNat l 34
  else if i.op = 0x023 then [predRef i.f.uni i.f.c.toNat l]
  else []

/-- All destinations of an instruction in lane l. -/
def Ins.dstRefs (i : Ins) (l : Nat) : List Ref :=
  let ds := i.desc
  let reg (w : Wid) (v : BitVec 8) (vec : Bool) : List Ref := refSpan vec v.toNat l (widRegs i.op i.f w vec).1
  let d := match ds.d with
    | .dst w => reg w i.f.d (!i.f.uni)
    | .rw w => reg w i.f.d (!(i.f.uni || i.f.kb))
    | .preds => [predRef i.f.uni i.pd l, predRef i.f.uni i.pe l]
    | _ => []
  let c := match ds.c with
    | .dst w => reg w i.f.c (!i.f.uni)
    | _ => []
  d ++ c ++ i.ownDsts l

/-- Special registers marked H (06 R133). -/
def srHandler (n : Nat) : Bool := n == 16 || decide (20 ≤ n ∧ n ≤ 25)

/-- Reserved to handler mode: the instruction, or the special register that SRD or SWR names (03 R69; 06 R132, R133). -/
def Ins.reserved (i : Ins) : Bool := i.desc.handler || (i.op == 0x021 && srHandler i.f.a.toNat) || (i.op == 0x022 && srHandler i.f.d.toNat)

/-- A scalar register or uniform predicate. -/
def Ref.scalar (r : Ref) : Bool := match r with | .s _ => true | .q _ => true | _ => false

/-- Loads and atomics, whose destinations must be full in every active lane of the words swept (R167). -/
def Ins.isLoad (i : Ins) : Bool := i.op == 0x100 || i.op == 0x102 || i.op == 0x104 || i.op == 0x106 || i.op == 0x109

end Sys2Proof.Machine
end

