-- ==== Sys2Proof/Machine/Flags.lean ====
section
/-!
DEFINITION. The floating-point control and flags of a team (06 R120–R123) and the identity of its format.
-/
namespace Sys2Proof.Machine

/-- FPCTL.FTZ, bit 0 (R120). -/
def Team.ftz (t : Team) : Bool := t.fpctl.getLsbD 0

/-- The enabled flags of FPCTL, in the bit positions of FPFLAGS (R120, R121). -/
def Team.enables (t : Team) : Nat := (t.fpctl.toNat / 16) % 32

/-- The enabled flags among those raised: nonzero exactly when FPX is taken (R123). -/
def Team.fpx (t : Team) (fl : Nat) : Nat := fl &&& t.enables

/-- Flags ORed into FPFLAGS (R121, R122). -/
def Team.addFlags (t : Team) (fl : Nat) : Team := { t with fpflags := t.fpflags ||| BitVec.ofNat 32 (fl % 32) }

/-- The format of the elements of a floating-point type. -/
def tyFmt (ty : Ty) : Fmt :=
  match ty with
  | .f32 => fmtF32 | .f16x2 => fmtF16 | .bf16x2 => fmtBf16 | .f64 => fmtF64
  | .e4m3 => fmtE4m3 | .e5m2 => fmtE5m2 | .e2m1 => fmtE2m1 | _ => fmtF32

/-- Element j of an operand value (R59). -/
def elem (ty : Ty) (x j : Nat) : Nat := (x / 2 ^ (tyWidth ty * j)) % 2 ^ tyWidth ty

/-- Elements placed again, element 0 at the low end, with their flags ORed. -/
def joinElems (w : Nat) (es : List (Nat × Nat)) : Nat × Nat :=
  match es with
  | [] => (0, 0)
  | e :: r => let k := joinElems w r; (e.1 % 2 ^ w + 2 ^ w * k.1, e.2 ||| k.2)

/-- An operation on each element of a type, its values joined and flags ORed (R122). -/
def mapElems (ty : Ty) (g : Nat → Nat × Nat) : Nat × Nat := joinElems (tyWidth ty) ((upTo (tyCount ty)).map g)

/-- xorshift32 of SEED (R119). -/
def xorshift (x : W32) : W32 :=
  let a := x ^^^ (x <<< 13)
  let b := a ^^^ (a >>> 17)
  b ^^^ (b <<< 5)

end Sys2Proof.Machine
end

