-- ==== Sys2Proof/Machine/Image.lean ====
section
/-!
DEFINITION. The context image of a team: its control page (05 R99–R103, 09 R185, R188), its register lines' places, and how it is written and
read.
-/
namespace Sys2Proof.Machine

def Cause.code (c : Cause) : Nat :=
  match c with
  | .none => 0 | .barrier => 1 | .sleep => 2 | .event => 3 | .page => 4 | .quota => 5 | .space => 6 | .queue => 7 | .halted => 8
  | .debug => 9 | .cancelledPending => 10

def TSt.code (x : TSt) : Nat := match x with | .ready => 0 | .active => 1 | .parked => 2 | .retired => 3

/-- The team state word (R102). -/
def Team.stateWord (t : Team) : Nat :=
  2 ^ 38 * (t.nlanes - 1) + 2 ^ 33 * (t.words - 1) + 2 ^ 28 * (t.vregs / 8 - 1) + 2 ^ 24 * (t.sregs / 8 - 1) + 2 ^ 20 * t.stage
    + 2 ^ 16 * t.prio + 2 ^ 8 * t.cause.code + 4 * bnat t.hmode + t.st.code

/-- Bit k of a number set where `p k`, for the first n places. -/
def bitsOf (n : Nat) (p : Nat → Bool) : Nat := (upTo n).foldl (fun x k => x + bnat (p k) * 2 ^ k) 0

/-- The summary word (R94). -/
def Team.summary (t : Team) : Nat := bitsOf 32 (fun w => (t.mask.toNat / 2 ^ (32 * w)) % 2 ^ 32 != 0)

/-- The control page (R101, R185). -/
def Team.controlPage (t : Team) : List Byte :=
  let zeros (n : Nat) : List Byte := List.replicate n 0
  let qs (v e : SMap Bool) : Nat := bitsOf 7 (fun n => SMap.get v n false) + 256 * bitsOf 7 (fun n => SMap.get e n false)
  let preds (m : SMap Bool) : List Byte :=
    (upTo 7).flatMap (fun n => (upTo 32).flatMap (fun w => natLe 4 (bitsOf 32 (fun i => SMap.get m (vkey n (32 * w + i)) false))))
  natLe 8 t.pc.toNat ++ natLe 8 t.stateWord ++ natLe 8 t.arg.toNat ++ natLe 8 t.rprog.toNat ++ natLe 4 t.fpctl.toNat
    ++ natLe 4 t.fpflags.toNat ++ natLe 4 t.seed.toNat ++ natLe 4 t.teamid ++ natLe 8 t.sgid.toNat ++ natLe 8 t.sgidx.toNat
    ++ natLe 16 (bitsOf 128 (fun n => SMap.get t.sE n false)) ++ natLe 4 (qs t.q t.qE) ++ natLe 4 t.blockx.toNat
    ++ natLe 4 (t.blocky.toNat % 65536 + 65536 * t.blockz.toNat) ++ zeros 36 ++ natLe 4 t.summary ++ zeros 124
    ++ natLe 128 t.mask.toNat
    ++ natLe 8 t.trapcause.toNat ++ natLe 8 t.trappc.toNat ++ natLe 8 t.trapskid.toNat ++ natLe 4 (qs t.savedQ t.savedQE)
    ++ natLe 4 t.savedFpctl.toNat ++ natLe 8 t.stepctl.toNat ++ natLe 8 t.haltctl.toNat ++ natLe 8 t.trapbase.toNat
    ++ natLe 8 t.sideSave.toNat ++ zeros 64
    ++ (upTo 128).flatMap (fun n => natLe 8 (SMap.get t.s n (0 : W64)).toNat) ++ preds t.p ++ preds t.pE ++ zeros 768

/-- Bytes of the vector area, and the start of the full/empty area (R99). -/
def Team.vecBytes (t : Team) : Nat := t.vregs * t.words * 128
def Team.fullAt (t : Team) : Nat := 4096 + t.vecBytes
/-- Bytes of the image. -/
def Team.imageBytes (t : Team) : Nat := t.fullAt + (t.vregs * t.words * 4 + 127) / 128 * 128

/-- One register line and its full/empty word (R100). -/
def Team.line (t : Team) (n w : Nat) : List Byte :=
  (upTo 32).flatMap (fun i => natLe 4 (SMap.get t.v (vkey n (32 * w + i)) (0 : W32)).toNat)
def Team.fullWord (t : Team) (n w : Nat) : Nat := bitsOf 32 (fun i => SMap.get t.vE (vkey n (32 * w + i)) false)
def Team.lineAddr (t : Team) (n w : Nat) : Nat := t.ctxbase.toNat + 4096 + (n * t.words + w) * 128
def Team.fullAddr (t : Team) (n w : Nat) : Nat := t.ctxbase.toNat + t.fullAt + (n * t.words + w) * 4

/-! Writing it. -/

/-- HALTED: a halt originated by this team is in force (09 R188). -/
def State.haltedBy (s : State) (t : Team) (i : Nat) : Bool := (s.block t.block).halted && (s.block t.block).origins.contains i

/-- The control page as the image holds it: HALTCTL with its HALTED bit (09 R185, R188). -/
def State.controlOf (s : State) (i : Nat) (t : Team) : List Byte :=
  ({ t with haltctl := if s.haltedBy t i then t.haltctl ||| 1 else t.haltctl }).controlPage

/-- Bytes of an image are written, drawing on the reserve (R103, 21 R348). They stay in the write-back buffer where their page does not translate,
behind a write that is held to their block, and while the dirty log has no room (log entry 92); a POISON block takes none. -/
def State.imagePut (s : State) (f va : Nat) (bs : List Byte) : State × Bool :=
  let r := s.partsAt f va bs
  match r.2 with
  | none => (r.1, false)
  | some ps =>
    if (devParts ps).any (fun p => r.1.blockHeld p.addr) || r.1.logShort f ps then (r.1, false)
    else ((r.1.storeParts f ps true .queue va .put).1, true)

/-- The byte at an offset of its image stands in a save region (09 R193): the control page and the saved lines. -/
def Team.savedThere (t : Team) (off : Nat) : Option Nat :=
  match t.saveRec with
  | none => none
  | some x =>
    let no := if off < t.fullAt then (off - 4096) / 128 else (off - t.fullAt) / 4
    if off < 4096 ∨ x.2.2.contains no then some (x.2.1 + off) else none

/-- Bytes at an offset of team i's context image are written, or of the save that stands for it. -/
def State.ctxPut (s : State) (i off : Nat) (bs : List Byte) : State × Bool :=
  let t := s.team i
  match t.savedThere off with
  | some a => ((s.storeParts t.vf [{ sys := true, addr := a, bytes := bs, cmp := false }] true .queue 0 .put).1, true)
  | none => s.imagePut t.vf (t.ctxbase.toNat + off) bs

/-- The control page is written whole (R103, R107); where it cannot be it stays in the buffer. -/
def State.writeControl (s : State) (i : Nat) : State :=
  let t := s.team i
  let r := s.ctxPut i 0 (s.controlOf i t)
  r.1.setTeam i { r.1.team i with unsavedCtl := !r.2 }

/-- Numbers of the 8-byte words in which two pages differ. -/
def pageDiff (n : Nat) (a b : List Byte) : List Nat := (upTo n).filter (fun k => (a.drop (8 * k)).take 8 != (b.drop (8 * k)).take 8)

/-- The team out of its slot stood as `t0`: the words of its control page that changed are written to its image (R102, R106, R109). -/
def State.noteTeam (s : State) (i : Nat) (t0 : Team) : State :=
  let t := s.team i
  if t.inSlot || t.freed || t == t0 then s
  else
    let new := s.controlOf i t
    let r := (pageDiff 512 (s.controlOf i t0) new).foldl (fun (a : State × Bool) k =>
      let q := a.1.ctxPut i (8 * k) ((new.drop (8 * k)).take 8)
      (q.1, a.2 && q.2)) (s, true)
    if r.2 then r.1 else r.1.setTeam i { r.1.team i with unsavedCtl := true }

/-- The image of team i, which holds no slot, shows whether a halt it originated is in force (09 R185, R188). -/
def State.noteHalted (s : State) (i : Nat) : State :=
  let t := s.team i
  if t.inSlot || t.freed then s
  else
    let r := s.ctxPut i 0x1A8 (((s.controlOf i t).drop 0x1A8).take 8)
    if r.2 then r.1 else r.1.setTeam i { r.1.team i with unsavedCtl := true }

/-! Reading it (R102, R110). -/

/-- The team with its registers as a control page holds them; geometry, STAGE, PRIO, CAUSE and STATE are the scheduler's own (log entry 57). -/
def Team.loadControl (t : Team) (bs : List Byte) : Team :=
  let at_ (a n : Nat) : Nat := leNat ((bs.drop a).take n)
  let word (a : Nat) : W64 := BitVec.ofNat 64 (at_ a 8)
  let bits (n lo : Nat) (x : Nat) : SMap Bool := (upTo n).filterMap (fun k => if nbit x (lo + k) then some (k, true) else none)
  let preds (a : Nat) : SMap Bool := (upTo 7).flatMap (fun n =>
    let x := at_ (a + 128 * n) 128
    (upTo t.nlanes).filterMap (fun l => if nbit x l then some (vkey n l, true) else none))
  { t with
    pc := word 0 &&& ~~~(3 : W64), hmode := (word 8).getLsbD 2, arg := word 0x010, teamid := at_ 0x02C 4 % 8,
    sgid := word 0x030 &&& 0x8000000000000FFF, sgidx := (word 0x038).truncate 32 &&& 63, blockx := (word 0x054).truncate 32,
    blocky := BitVec.ofNat 32 (at_ 0x058 2), blockz := BitVec.ofNat 32 (at_ 0x05A 2), rprog := word 0x018 &&& 0xFFFF0000FFFFFFFF, fpctl := (word 0x020).truncate 32 &&& 0x1F1,
    fpflags := (word 0x024).truncate 32 &&& 0x1F, seed := (word 0x028).truncate 32, sE := bits t.sregs 0 (at_ 0x040 16),
    q := bits 7 0 (at_ 0x050 4), qE := bits 7 8 (at_ 0x050 4), mask := BitVec.ofNat 1024 (at_ 0x100 128 % 2 ^ t.nlanes),
    trapcause := word 0x180 &&& 0xFFFFFFFF00030F3F, trappc := word 0x188, trapskid := word 0x190 &&& 0xFFFFFFFF00000F07,
    savedQ := bits 7 0 (at_ 0x198 4), savedQE := bits 7 8 (at_ 0x198 4), savedFpctl := (word 0x19C).truncate 32 &&& 0x1F1,
    stepctl := word 0x1A0 &&& 0xFFFFFFFF00000001, haltctl := word 0x1A8 &&& 0x7FFF0002, trapbase := word 0x1B0,
    s := (upTo t.sregs).filterMap (fun n => let x := word (0x200 + 8 * n); if x = 0 then none else some (n, x)),
    p := preds 0x600, pE := preds 0x980 }

end Sys2Proof.Machine
end

