-- ==== Sys2Proof/Machine/Ops.lean ====
section
/-!
DEFINITION. The operations that every instruction shares: what it waits on (03 R56, R57, R70; 05 R98), completion, taking a trap
(09 R180–R186), the block halt and its release (R187, R188), return from a trap (R198), parks and their resolution (05 R109),
page faults (09 R190), late replies (01 R18), and the counts of 19 R316.
-/
namespace Sys2Proof.Machine

/-! Trap classes (R180). -/
def cILLENC : Nat := 0
def cPRIV : Nat := 1
def cNUB : Nat := 2
def cEMPTY : Nat := 3
def cECC : Nat := 4
def cALIGN : Nat := 5
def cBOUND : Nat := 6
def cPERM : Nat := 7
def cXFAULT : Nat := 8
def cDUPK : Nat := 9
def cTABLE : Nat := 10
def cFPX : Nat := 11
def cPROMISE : Nat := 12
def cDEBUG : Nat := 13
def cSOFT : Nat := 14

/-- Word i of a job's descriptor (19 R303). -/
def Job.word (j : Job) (i : Nat) : W64 := j.words.getD i 0
/-- Text address and length of a team's kernel (R304). -/
def State.ktext (s : State) (t : Team) : Nat := fld ((s.job t.job).word 1) 56 0
def State.klen (s : State) (t : Team) : Nat := fld ((s.job t.job).word 2) 31 0

/-- Compute die of a core (R8). -/
def dieOf (core : Nat) : Nat := core / 24

/-! Logical time (22 R359). -/

def State.lt (s : State) (core : Nat) : W64 := SMap.get s.coh.lt core 0
def State.setLt (s : State) (core : Nat) (x : W64) : State := { s with coh := { s.coh with lt := SMap.put s.coh.lt core x 0 } }
def maxW (a b : W64) : W64 := if a.toNat < b.toNat then b else a

/-- A core's logical time follows those of its die and its engines: what is ordered before this point by a fence, a barrier, a post or an event counter is not
missed under an old lease (22 R360; log entry 99). -/
def State.syncLt (s : State) (core : Nat) : State :=
  s.setLt core (maxW (s.lt (Config.cores + dieOf core)) ((upTo 24).foldl (fun m c => maxW m (s.lt (24 * dieOf core + c))) (s.lt core)))

/-! Completion. -/

/-- Counts of a completed instruction towards its sibling's record (19 R316, 20 R326): POST above the group's DCLOCK. -/
def State.account (s : State) (i : Nat) (instr ksteps bytes : Nat) : State :=
  let t := s.team i
  if !t.sgid.getLsbD 63 then s
  else
    let g := SMap.get s.groups (nfld (s.regN t.vf oGRANGE) 11 0 + t.sgid.toNat % 4096) Group.blank
    let w := t.waste
    let w' : Waste :=
      if g.st = 2 ∧ s.clock.toNat > g.dclock then
        { w with instrPost := w.instrPost + instr, kstepPost := w.kstepPost + ksteps, bytesPost := w.bytesPost + bytes }
      else { w with instrPre := w.instrPre + instr, kstepPre := w.kstepPre + ksteps, bytesPre := w.bytesPre + bytes }
    s.setTeam i { t with waste := w' }

/-- The instruction is past: the next PC (R44), one more instruction executed, no access of it left to be rejected. -/
def Team.advance (t : Team) (i : Ins) : Team :=
  { t with pc := t.pc + BitVec.ofNat 64 (4 * (i.len + 1)), icount := t.icount + 1, rejects := 0 }

/-- The executing team becomes `t`, past the instruction, which counts as completed. -/
def State.finish (s : State) (i : Ins) (t : Team) : State := (s.setTeam s.cur (t.advance i)).account s.cur 1 0 0

/-- As `finish` for an instruction that moved counted bytes. -/
def State.finishBytes (s : State) (i : Ins) (t : Team) (bytes : Nat) : State :=
  (s.setTeam s.cur (t.advance i)).account s.cur 1 0 bytes

/-- As `finish` for a long-latency producer, which counts when its last destination lands (R326). -/
def State.issued (s : State) (i : Ins) (t : Team) : State := s.setTeam s.cur (t.advance i)

/-! Late replies (R18, R106). -/

/-- A reply is under way to the executing team. -/
def State.sendReply (s : State) (dsts : List Dst) (set : Nat) (entry : Option (Nat × Nat)) (bytes : Nat) (trap : Option PendTrap) : State :=
  { s with replies := s.replies ++ [{ team := s.cur, dsts := dsts, entry := entry, completes := true, bytes := bytes, set := set, trap := trap }] }

/-- Replies outstanding for a team. -/
def State.outstanding (s : State) (i : Nat) : Nat := (s.replies.filter (fun r => r.team == i)).length

/-- A long-latency producer that reads memory or an engine by no request the model tracks: its destinations are marked empty
and a late reply carries the values. -/
def State.produce (s : State) (i : Ins) (t : Team) (marks : List Ref) (dsts : List Dst) (set : Nat) : State :=
  (s.issued i (t.markAll marks)).sendReply dsts set none 0 none

/-- The distinct 128-byte lines of a unit, each with its pass: it holds an entry for each (08 R177). -/
def AUnit.lines (u : AUnit) : List (Nat × Bool × Nat) :=
  let blk := (u.lane / 32, u.tr.sys, u.tr.addr / 128)
  blk :: (match u.sc with | some c => [(u.lane / 32, c.1.sys, c.1.addr / 128)].filter (· != blk) | none => [])

/-- Distinct lines of units. -/
def unitLines (us : List AUnit) : List (Nat × Bool × Nat) :=
  us.foldl (fun ls u => u.lines.foldl (fun ls x => if ls.contains x then ls else ls ++ [x]) ls) []

/-- Miss-status entries free in a core (R112): replies and atomics hold theirs, a memory instruction that waits for its grains, a table batch (12
R235) and a copy request one. -/
def State.freeEntries (s : State) (core : Nat) : Nat :=
  Config.missEntries - (s.batches.filter (fun b => b.core == core)).length - (s.copies.filter (fun c => c.core == core)).length
    - s.replies.foldl (fun n r => match r.entry with | some (c, k) => if c = core then n + k else n | none => n) 0
    - s.atoms.foldl (fun n a => if a.core = core then n + a.entries else n) 0
    - s.teams.foldl (fun n t => match t.2.rest with | some r => if t.2.core = core then n + (unitLines r.inside).length else n | none => n) 0

/-! Parks (R109). -/

/-- Team i parks with a cause, keeping its slot. -/
def State.park (s : State) (i : Nat) (c : Cause) (arg : W64) : State :=
  s.setTeam i { s.team i with st := .parked, cause := c, arg := arg, parkedAt := s.clock.toNat }

/-- The executing team parks at this instruction. -/
def State.parkHere (s : State) (c : Cause) (arg : W64) : State := s.park s.cur c arg

/-- The origins of a block with their TEAMID: the lowest. -/
def State.originOf (s : State) (b : Nat) : Nat :=
  match leastBy (fun i => (s.team i).teamid) (s.block b).origins with
  | some i => i
  | none => 0

/-- The resting TRAPSKID of a halted sibling (R187). -/
def skidWord (stop : W64) (origteam skid : Nat) : W64 :=
  BitVec.ofNat 64 (skid + 256 * origteam + 2 ^ 32 * (stop.toNat % 2 ^ 32))

/-- As `park`, for a team that may have no slot: its image shows the cause and the argument (R102, R109). -/
def State.parkNoted (s : State) (i : Nat) (c : Cause) (arg : W64) : State := (s.park i c arg).noteTeam i (s.team i)

/-- A sibling parks with cause halted: its argument is the origin's PC. DESIGN CHOICE: with several origins it is TRAPPC of the origin
of lowest TEAMID, and TRAPPC stands for an origin that executed HALTB too (R187 names one origin, and no PC for HALTB's; log
entry 109; unsafe). -/
def State.parkHalted (s : State) (i skid : Nat) : State :=
  let t := s.team i
  let o := s.team (s.originOf t.block)
  (s.setTeam i { t with st := .parked, cause := .halted, arg := o.trappc, parkedAt := s.clock.toNat, skid := none,
                        trapskid := skidWord t.pc o.teamid skid }).noteTeam i t

/-- The instruction a team parked in counts as completed (20 R326). -/
def State.countWake (s : State) (i : Nat) : State :=
  let t := s.team i
  if t.countOnWake then (s.setTeam i { t with countOnWake := false }).account i 1 0 0 else s

/-- A team may issue again: ACTIVE in its slot, or READY. A halt of its block in force holds it instead (R187), as a debugger's does
(R202). DESIGN CHOICE: a sibling that parks at a barrier or a page within its skid records SKID 0 when that is resolved during the halt, as R187 says of
a parked one, and no TRAPSKID when the block is released first (log entry 119; unsafe for SKID). -/
def State.unpark (s : State) (i : Nat) : State :=
  let t := s.team i
  let b := s.block t.block
  if t.cause = .cancelledPending then s
  else if b.dead || (b.halted && !b.origins.contains i) then
    if t.cause = .halted then s else (s.countWake i).parkHalted i 0
  else if b.debug then (s.countWake i).parkNoted i .debug 0
  else
    let t' : Team := { t with st := if t.inSlot then .active else .ready, cause := .none, arg := 0, countOnWake := false,
                              age := s.clock.toNat, readyAt := s.clock.toNat }
    let s1 := (s.setTeam i t').noteTeam i t
    if t.countOnWake then s1.account i 1 0 0 else s1

/-! The block halt (R187, R188). -/

/-- One sibling receives the halt; in a block that never runs again an earlier origin does too (R183). DESIGN CHOICE: a later origin of lower
TEAMID changes ORIGTEAM of the siblings already halted, and leaves that of the earlier origins as it was (R187 gives ORIGTEAM as the
lowest when several, and not when it is updated; log entry 110; unsafe). -/
def State.haltSibling (s : State) (origin i : Nat) : State :=
  let t := s.team i
  let b := s.block t.block
  let o := s.team origin
  let ot := (s.team (s.originOf t.block)).teamid
  if b.origins.contains i && !b.dead then s
  else
    match t.st with
    | .retired => s
    | .parked => if t.cause = .halted then (s.setTeam i { t with trapskid := setFld t.trapskid 10 8 ot }).noteTeam i t else s
    | .ready => s.parkHalted i 0
    | .active =>
      if t.skid.isSome then s
      else
        let n := min 4 (Config.freeSkid s.fresh)
        let s1 := s.useFresh
        if n = 0 ∧ !t.verdict ∧ t.rest.isNone ∧ t.pend.isNone ∧ t.parkNext.isNone ∧ !t.cancelPend then s1.parkHalted i 0
        else s1.setTeam i { t with skid := some { left := n, used := 0, originPc := o.trappc, originTeam := ot, early := t.verdict } }

/-- BLOCK_HALT with team `origin` as an origin. -/
def State.haltBlock (s : State) (origin : Nat) : State :=
  let bi := (s.team origin).block
  let b := s.block bi
  let s1 := s.setBlock bi { b with halted := true, origins := if b.origins.contains origin then b.origins else b.origins ++ [origin] }
  (b.teams.foldl (fun s i => if i = origin then s else s.haltSibling origin i) s1).noteHalted origin

/-- BLOCK_RELEASE once no origin is left: halted teams continue. -/
def State.releaseBlock (s : State) (bi : Nat) : State :=
  let b := s.block bi
  if !b.halted || b.dead || !b.origins.isEmpty then s
  else
    let s1 := s.setBlock bi { b with halted := false }
    b.teams.foldl (fun s i =>
      let t := s.team i
      if t.st = .parked ∧ t.cause = .halted then s.unpark i else s.setTeam i { t with skid := none }) s1

/-! Traps (R180–R186). -/

/-- What is recorded of a trap: class, subcode, each lane's class, the instruction concerned, and the access of the lowest
lane of the class. -/
structure TrapInfo where
  cls : Nat
  sub : Nat
  causes : List (Nat × Nat)
  /-- TRAPPC, the PC of the instruction concerned (side-buffer word 0) and its LEN. -/
  pc : W64
  ipc : W64
  ilen : Nat
  key : Nat
  off : Nat
  deriving DecidableEq, Repr

/-- The enable bits of FPCTL cleared (R182). -/
def fpctlEntry (x : W32) : W32 := x &&& 0xFFFFFE0F

/-- TRAPCAUSE (R184). -/
def trapWord (cls sub ilen slot : Nat) (multi double : Bool) : W64 :=
  BitVec.ofNat 64 (cls + 16 * ilen + 256 * slot + 2 ^ 16 * bnat multi + 2 ^ 17 * bnat double + 2 ^ 32 * (sub % 2 ^ 32))

/-- Lanes recorded more than one class. -/
def multiCause (cs : List (Nat × Nat)) : Bool :=
  match cs with
  | [] => false
  | c :: r => r.any (fun d => d.2 != c.2)

/-- The nibbles of side-buffer words 8 to 71. -/
def causeWords (cs : List (Nat × Nat)) (side : SMap W64) : SMap W64 :=
  cs.foldl (fun m c =>
    let k := 8 + c.1 / 16
    SMap.put m k (SMap.get m k 0 ||| BitVec.ofNat 64 ((c.2 + 1) * 16 ^ (c.1 % 16))) 0) side

/-- Lowest lane of the taken class. -/
def takenLane (cls : Nat) (cs : List (Nat × Nat)) : Option Nat :=
  (leastBy (fun c => c.1) (cs.filter (fun c => c.2 == cls))).map (fun c => c.1)

/-- The side-buffer entry (R186). -/
def sideEntry (x : TrapInfo) (cause skid : W64) : SMap W64 :=
  let m := causeWords x.causes []
  let w4 := match takenLane x.cls x.causes with
    | some l => 2 ^ 63 + 2 ^ 32 * l + x.off % 2 ^ 32
    | none => 0
  let put (m : SMap W64) (i : Nat) (v : W64) : SMap W64 := SMap.put m i v 0
  put (put (put (put (put (put m 0 x.ipc) 1 cause) 2 (BitVec.ofNat 64 x.key)) 3 (BitVec.ofNat 64 (x.key / 2 ^ 64)))
    4 (BitVec.ofNat 64 w4)) 5 skid

/-- The trap has no handler (R183). -/
def State.noHandler (s : State) (t : Team) (cls : Nat) : Bool :=
  t.trapbase == 0 || t.trapbase.toNat % 0x400 != 0 || decide (t.trapbase.toNat + cls * 0x40 ≥ s.klen t) || t.hmode

/-- The team's block never runs again and its front end receives a FATAL record (R183). -/
def State.fatal (s : State) (i cls : Nat) (arg : W64) : State :=
  let t := s.team i
  let s1 := s.parkNoted i .halted arg
  let s2 := (s1.setBlock t.block { s1.block t.block with dead := true }).haltBlock i
  let j := s.job t.job
  s2.report t.vf 4 j.level cls (j.word 11) j.num t.ctxbase

/-- TRAPSKID of team i as an origin that stops at `pc` (R187): ORIGTEAM is the lowest TEAMID of the block's origins with this one. -/
def State.originSkid (s : State) (i : Nat) (pc : W64) : W64 :=
  let t := s.team i
  setFld (skidWord pc t.teamid 0 ||| 2048) 10 8 (((s.block t.block).origins.map (fun o => (s.team o).teamid)).foldl min t.teamid)

/-- Team i with a trap recorded (R182, R184, R186). -/
def State.trapped (s : State) (i : Nat) (x : TrapInfo) : Team :=
  let t := s.team i
  let cause := trapWord x.cls x.sub x.ilen t.slot (multiCause x.causes) t.hmode
  let skid := s.originSkid i x.pc
  { t with trapcause := cause, trappc := x.pc, trapskid := skid, side := sideEntry x cause skid, skid := none, stepping := false,
           st := if t.st = .parked then (if t.inSlot then .active else .ready) else t.st, cause := .none, arg := 0, countOnWake := false,
           readyAt := s.clock.toNat, age := s.clock.toNat }

/-- It enters its handler (R182): the uniform predicates and FPCTL are saved, the enables cleared. -/
def Team.entered (t : Team) (cls : Nat) : Team :=
  { t with savedQ := t.q, savedQE := t.qE, savedFpctl := t.fpctl, hmode := true, fpctl := fpctlEntry t.fpctl,
           pc := t.trapbase + BitVec.ofNat 64 (cls * 0x40) }

/-- TRAP_ENTRY: team i takes a trap at its instruction boundary (R182, R183). Within its skid it becomes a further origin whatever its
NOHALT says (R187, R196). A park recorded for its next boundary stays recorded. In a block that never runs again it enters and stays halted
(R183). -/
def State.takeTrap (s : State) (i : Nat) (x : TrapInfo) : State :=
  let t := s.team i
  let t1 := s.trapped i x
  if t.hmode then ((s.setTeam i { t with trapcause := t1.trapcause, skid := none }).noteTeam i t).fatal i x.cls t.pc
  else if s.noHandler t x.cls then ((s.setTeam i t1).noteTeam i t).fatal i x.cls x.pc
  else
    let s1 := s.setTeam i (t1.entered x.cls)
    let s2 := (if t.haltctl.getLsbD (16 + x.cls) && t.skid.isNone then s1 else s1.haltBlock i).noteTeam i t
    if (s.block t.block).dead then s2.parkNoted i .halted (s2.team (s2.originOf t.block)).trappc else s2

/-- A precise trap of the executing team at its instruction. -/
def State.trapAt (s : State) (i : Ins) (cls sub : Nat) (causes : List (Nat × Nat)) (key off : Nat) : State :=
  let t := s.team s.cur
  s.takeTrap s.cur { cls := cls, sub := sub, causes := causes, pc := t.pc, ipc := t.pc, ilen := i.len, key := key, off := off }

/-- A precise trap with one class in the given lanes and no access; lane 0 for a uniform instruction (R186). -/
def State.trapLanes (s : State) (i : Ins) (cls sub : Nat) (lanes : List Nat) : State :=
  s.trapAt i cls sub ((if i.f.uni && cls > 1 then [0] else lanes).map (fun l => (l, cls))) 0 0

/-- ILLENC of a word at the PC (R68): every active lane. -/
def State.illegal (s : State) (len sub : Nat) : State :=
  let t := s.team s.cur
  s.takeTrap s.cur { cls := cILLENC, sub := sub, causes := t.lanes.map (fun l => (l, cILLENC)), pc := t.pc, ipc := t.pc, ilen := len, key := 0, off := 0 }

/-- The team as RTE leaves it (R198): what the entry saved is back, and it goes on at TRAPPC. -/
def Team.returned (t : Team) : Team :=
  { t with q := t.savedQ, qE := t.savedQE, fpctl := t.savedFpctl, hmode := false, side := [], sideSave := 0,
           pc := t.trappc &&& ~~~(3 : W64), icount := t.icount + 1, stepping := t.stepctl.getLsbD 0, noWatch := true }

/-- RTE (R198): the return from a trap. A TRAPPC with bits 1:0 set returns with them clear (log entry 13). While an origin of
the block has not returned, the team waits halted, itself an origin or not, but for what a halt still lets it issue (R187, R188); so it does in a
block that never runs again (R183). DESIGN CHOICE: FPCTL comes back whole from the trap state, so enables
that the handler cleared by SWR alone are enabled again, as R198 states, where R123 has such a handler's instruction execute in
full on return (log entry 104; unsafe: another machine would keep them clear). -/
def State.returnTrap (s : State) (i : Nat) : State :=
  let t := s.team i
  let s1 := s.setTeam i t.returned
  let b := s1.block t.block
  let s2 := if t.haltctl.getLsbD 1 then s1
    else (s1.setBlock t.block { b with origins := b.origins.filter (· != i) }).releaseBlock t.block
  let stays := b.dead || (!t.haltctl.getLsbD 1 && (s2.block t.block).halted)
  if stays && t.skid.isNone then s2.parkHalted i 0 else s2

/-! The partition's array (15 R264, R265). -/

/-- MMAs at a partition's array, the running one first. -/
def State.arrayOf (s : State) (k : Nat) : List Nat := SMap.get s.arrays k []
def State.setArray (s : State) (k : Nat) (l : List Nat) : State := { s with arrays := SMap.put s.arrays k l [] }
/-- Key of a team's partition. -/
def Team.partKey (t : Team) : Nat := 32 * t.core + t.part

/-- A team's MMA leaves the array, stopped at its last promotion: the accumulators are discarded (14 R257). -/
def State.stopMma (s : State) (i : Nat) : State :=
  let t := s.team i
  match t.mma with
  | none => s
  | some m =>
    (s.setTeam i { t with mma := some { m with stopped := true, acc := [] } }).setArray t.partKey ((s.arrayOf t.partKey).filter (· != i))

/-- A stopped MMA goes to the array again, from the k-step of RPROG: at activation, at the resolution of its pages. One stopped with XFAULT
waits for RTE (R264). -/
def State.requeueMma (s : State) (i : Nat) : State :=
  let t := s.team i
  match t.mma with
  | none => s
  | some m =>
    if !m.stopped || m.trapped || !t.inSlot then s
    else (s.setTeam i { t with mma := some { m with stopped := false, step := fld t.rprog 57 48, acc := [] } }).setArray
      t.partKey (s.arrayOf t.partKey ++ [i])

/-- RTE with PEND = 1 resumes the MMA, an XFAULT of it too (R264). -/
def State.rteMma (s : State) (i : Nat) : State :=
  let t := s.team i
  match t.mma with
  | none => s
  | some m => (s.setTeam i { t with mma := some { m with trapped := false } }).requeueMma i

/-! What an instruction waits on. -/

/-- What the shared checks of an instruction answer. -/
inductive Prep where
  | stall
  | trap (cls sub : Nat) (lanes : List Nat)
  | go (lanes : List Nat)
  deriving DecidableEq, Repr

/-- Registers that a pending MMA of the team still needs (15 R263): its key register in its lanes, its format block, its guard
predicate in every lane (p7 is never written, 03 R55). -/
def Team.mmaHolds (t : Team) : List Ref :=
  match t.mma with
  | none => []
  | some m =>
    (if m.f.ka then [.s m.f.a.toNat] else m.lanes.map (fun l => .v m.f.a.toNat l))
      ++ refSpan false m.f.b.toNat 0 4 ++ (if m.f.gp.toNat = 7 then [] else (upTo t.nlanes).map (fun l => .p m.f.gp.toNat l))

/-- Active lanes of the mask words that hold one of the given lanes. -/
def Team.sweep (t : Team) (lanes : List Nat) : List Nat :=
  t.lanes.filter (fun l => lanes.any (fun k => k / 32 == l / 32))

/-- Guard lanes: waits on the guard (R56), then the lanes of the passes. -/
def Ins.passLanes (i : Ins) (t : Team) : Option (List Nat) :=
  if i.f.uni then
    (if t.empty (.q i.f.gp.toNat) then none else some (if i.guard t 0 then [0] else []))
  else if t.lanes.any (fun l => t.empty (.p i.f.gp.toNat l)) then none
  else some (t.lanes.filter (i.guard t))

/-- The checks before an instruction acts (R56, R57, R69, R70, R98, R167, R189, R263). While a destination is empty it does not issue, so
it does not take EMPTY for a source either (R98, R111; log entry 43); a scalar or q destination holds it even where no lane acts (R98). -/
def prep (i : Ins) (t : Team) : Prep :=
  if i.reserved && !t.hmode then .trap cPRIV 0 t.lanes
  else
    match i.passLanes t with
    | none => .stall
    | some ls =>
      let reads := ls.map (fun l => (l, i.srcRefs t l))
      let writes := (if i.isLoad && !i.f.uni then t.sweep ls else ls).flatMap i.dstRefs
      if writes.any t.empty || ((i.dstRefs 0).filter Ref.scalar).any t.empty then .stall
      else
        let hurt := reads.filter (fun e => e.2.any (fun r => t.empty r.1 && !r.2))
        if !hurt.isEmpty then .trap cEMPTY 0 (hurt.map (fun e => e.1))
        else if reads.any (fun e => e.2.any (fun r => t.empty r.1)) then .stall
        else
          let bad := reads.filter (fun e => e.2.any (fun r => t.bad r.1))
          if !bad.isEmpty then .trap cECC 2 (bad.map (fun e => e.1))
          else if t.mmaHolds.any (fun r => writes.contains r) then .stall
          else .go ls

/-- An instruction whose checks pass acts by `k` on its lanes; otherwise it traps or waits (a wait leaves the state). -/
def runIns (i : Ins) (s : State) (k : Team → List Nat → State) : Host.Outcome State Fault Refusal :=
  let t := s.team s.cur
  match prep i t with
  | .stall => .next s
  | .trap c sub ls => .next (s.trapLanes i c sub ls)
  | .go ls => .next (k t ls)

/-- As `runIns` for a uniform instruction whose false guard has no effect but to pass. -/
def runUni (i : Ins) (s : State) (k : Team → State) : Host.Outcome State Fault Refusal :=
  runIns i s (fun t ls => if ls.isEmpty then s.finish i t else k t)

/-! Arithmetic instructions: one value per lane, flags ORed, FPX before any write (R122, R123). -/

/-- What one lane computes: the values written in order to the destination, and the flags. -/
structure LaneOut where
  lane : Nat
  val : Nat
  fl : Nat
  deriving DecidableEq, Repr

/-- Flags of all lanes. -/
def flagsOf (os : List LaneOut) : Nat := os.foldl (fun f o => f ||| o.fl) 0

/-- Completion with flags: FPX for the lanes whose enabled flags rise, or `k` on the team with its flags set. -/
def State.withFlags (s : State) (i : Ins) (t : Team) (os : List LaneOut) (k : Team → State) : State :=
  let en := t.fpx (flagsOf os)
  if en ≠ 0 then s.trapLanes i cFPX en ((os.filter (fun o => t.fpx o.fl != 0)).map (fun o => o.lane))
  else k (t.addFlags (flagsOf os))

/-- An instruction that writes one value of its type to field D in each lane. -/
def runAlu (i : Ins) (s : State) (g : Team → Nat → Nat × Nat) : Host.Outcome State Fault Refusal :=
  runIns i s (fun t ls =>
    let os := ls.map (fun l => let r := g t l; ({ lane := l, val := r.1, fl := r.2 } : LaneOut))
    s.withFlags i t os (fun t => s.finish i (os.foldl (fun t o => i.writeD t o.lane o.val) t)))

/-- As `runAlu`, writing a 32-bit value whatever the type. -/
def runAlu32 (i : Ins) (s : State) (g : Team → Nat → Nat × Nat) : Host.Outcome State Fault Refusal :=
  runIns i s (fun t ls =>
    let os := ls.map (fun l => let r := g t l; ({ lane := l, val := r.1, fl := r.2 } : LaneOut))
    s.withFlags i t os (fun t => s.finish i (os.foldl (fun t o => t.writeReg i.f.uni .n32 i.f.d.toNat o.lane o.val) t)))

/-- An instruction that writes a predicate and its complement in each lane (07 R141). -/
def runTest (i : Ins) (s : State) (g : Team → Nat → Bool × Nat) : Host.Outcome State Fault Refusal :=
  runIns i s (fun t ls =>
    let os := ls.map (fun l => let r := g t l; ({ lane := l, val := bnat r.1, fl := r.2 } : LaneOut))
    s.withFlags i t os (fun t => s.finish i (os.foldl (fun t o => t.setPair i.f.uni i.pd i.pe o.lane (o.val == 1)) t)))

/-! Page faults of an instruction (R190, R341). -/

/-- A page a lane found not resident: lane, VA, CAUSE, write, with the lane's key and offset. -/
structure PageHit where
  lane : Nat
  va : Nat
  cause : Nat
  w : Bool
  key : Nat
  off : Nat
  deriving DecidableEq, Repr

/-- One record for each distinct 64 KiB page, in ascending order of the lowest lane naming it. -/
def pageRecords (hits : List PageHit) : List PageHit :=
  hits.foldl (fun acc h => if acc.any (fun a => a.va / 65536 == h.va / 65536) then acc else acc ++ [h]) []

/-- The executing team parks with cause page for hits in ascending lane order, or takes XFAULT where no queue is enabled. -/
def State.pageFault (s : State) (i : Ins) (kind : Nat) (hits : List PageHit) : State :=
  let t := s.team s.cur
  match hits with
  | [] => s
  | h :: _ =>
    if !s.fsqOn t.vf then
      s.trapAt i cXFAULT 1 (if i.f.uni then [(0, cXFAULT)] else hits.map (fun x => (x.lane, cXFAULT))) h.key h.off
    else
      let s1 := s.parkHere .page (BitVec.ofNat 64 h.va)
      (pageRecords hits).foldl (fun s r =>
        let ls := if i.f.uni then [0] else (hits.filter (fun x => x.va / 65536 == r.va / 65536)).map (fun x => x.lane)
        s.addFault { faultRec t.vf kind r.cause r.w r.lane 0 t.ctxbase 0 r.va (.team s.cur) with lanes := ls, key := r.key, off := r.off }) s1

end Sys2Proof.Machine
end

