-- ==== Sys2Proof/Machine/Integer.lean ====
section
/-!
DEFINITION. Integer and logic instructions, moves and special registers (06 R113, R114, R126–R133).
-/
namespace Sys2Proof.Machine

/-- Element j of an operand as the integer it stands for (R113). -/
def elemInt (ty : Ty) (x j : Nat) : Int := if tySigned ty then toSigned (tyWidth ty) (elem ty x j) else (elem ty x j : Int)

/-- The range of a type's elements (R113). -/
def tyLo (ty : Ty) : Int := if tySigned ty then -(2 : Int) ^ (tyWidth ty - 1) else 0
def tyHi (ty : Ty) : Int := if tySigned ty then (2 : Int) ^ (tyWidth ty - 1) - 1 else (2 : Int) ^ tyWidth ty - 1

/-- An integer operation of one operand, element by element, wrapping. -/
def int1 (i : Ins) (g : Int → Int) (t : Team) (l : Nat) : Nat × Nat :=
  let a := i.opa t i.wide l
  mapElems i.f.ty (fun j => (wrapInt (tyWidth i.f.ty) (g (elemInt i.f.ty a j)), 0))

/-- An integer operation of two operands, element by element, wrapping. -/
def int2 (i : Ins) (g : Int → Int → Int) (t : Team) (l : Nat) : Nat × Nat :=
  let a := i.opa t i.wide l
  let b := i.opb t i.wide l
  mapElems i.f.ty (fun j => (wrapInt (tyWidth i.f.ty) (g (elemInt i.f.ty a j) (elemInt i.f.ty b j)), 0))

/-- A bitwise operation on whole operand values of width w: types 0 to 3. -/
def bit1 (i : Ins) (g : Nat → Nat → Nat) (t : Team) (l : Nat) : Nat × Nat :=
  let w := tyWidth i.f.ty
  (g w (i.opa t i.wide l) % 2 ^ w, 0)
def bit2 (i : Ins) (g : Nat → Nat → Nat → Nat) (t : Team) (l : Nat) : Nat × Nat :=
  let w := tyWidth i.f.ty
  (g w (i.opa t i.wide l) (i.opb t i.wide l) % 2 ^ w, 0)

/-- Division and remainder of R114. -/
def divInt (w : Nat) (a b : Int) : Int := if b = 0 then (2 : Int) ^ w - 1 else Int.tdiv a b
def remInt (a b : Int) : Int := if b = 0 then a else Int.tmod a b

/-- bits 2w − 1 : w of a product. -/
def mulHigh (w : Nat) (a b : Int) : Int := (a * b) / (2 : Int) ^ w

/-- Shifts (R114, R126). -/
def shlNat (w a b : Nat) : Nat := if b ≥ w then 0 else a * 2 ^ b
def shrNat (w a b : Nat) : Nat := if b ≥ w then 0 else a / 2 ^ b
def sarNat (w a b : Nat) : Nat := wrapInt w (toSigned w a / (2 : Int) ^ (if b ≥ w then w else b))
def rolNat (w a b : Nat) : Nat := let k := b % w; (a * 2 ^ k) % 2 ^ w + a / 2 ^ (w - k)

/-- BFX (R128). -/
def bfxNat (sg : Bool) (w a b : Nat) : Nat :=
  let pos := b % 256
  let len := min ((b / 256) % 256) w
  if len = 0 then 0
  else
    let x : Int := if sg then toSigned w a else (a : Int)
    let f := ((x / (2 : Int) ^ pos) % (2 : Int) ^ len).toNat
    if sg then wrapInt w (toSigned len f) else f

/-- BFI (R128): field bits at or above w are cut. -/
def bfiNat (w a b c : Nat) : Nat :=
  let pos := c % 256
  let len := (c / 256) % 256
  (upTo w).foldl (fun acc k =>
    let x := if pos ≤ k ∧ k < pos + len then (b / 2 ^ (k - pos)) % 2 else (a / 2 ^ k) % 2
    acc + x * 2 ^ k) 0

/-- Counts of bits. -/
def popNat (w a : Nat) : Nat := ((upTo w).filter (fun k => nbit a k)).length
def clzNat (w a : Nat) : Nat := if a = 0 then w else w - 1 - Nat.log2 a
def ctzNat (w a : Nat) : Nat := ((upTo w).takeWhile (fun k => !nbit a k)).length
def brevNat (w a : Nat) : Nat := (upTo w).foldl (fun acc k => acc + (if nbit a k then 2 ^ (w - 1 - k) else 0)) 0

/-- PRMT (R130). -/
def prmtNat (a b c : Nat) : Nat :=
  (upTo 4).foldl (fun acc k =>
    let n := (b / 16 ^ k) % 16
    let j := n % 8
    let x := if j < 4 then (a / 256 ^ j) % 256 else (c / 256 ^ (j - 4)) % 256
    let y := if n ≥ 8 then (if x ≥ 128 then 255 else 0) else x
    acc + y * 256 ^ k) 0

/-- IADD (R126). -/
def execIadd (f : Form) (s : State) : Host.Outcome State Fault Refusal :=
  runAlu (insW 0x001 f) s (int2 (insW 0x001 f) (fun a b => a + b))

/-- ISUB (R126). -/
def execIsub (f : Form) (s : State) : Host.Outcome State Fault Refusal :=
  runAlu (insW 0x002 f) s (int2 (insW 0x002 f) (fun a b => a - b))

/-- IMUL (R126). -/
def execImul (f : Form) (s : State) : Host.Outcome State Fault Refusal :=
  runAlu (insW 0x003 f) s (int2 (insW 0x003 f) (fun a b => a * b))

/-- IMULH (R126). -/
def execImulh (f : Form) (s : State) : Host.Outcome State Fault Refusal :=
  runAlu (insW 0x004 f) s (int2 (insW 0x004 f) (mulHigh (tyWidth f.ty)))

/-- IMAD (R126). -/
def execImad (f : Form) (s : State) : Host.Outcome State Fault Refusal :=
  let i := insW 0x005 f
  runAlu i s (fun t l =>
    let x := elemInt f.ty (i.opa t i.wide l) 0 * elemInt f.ty (i.opb t i.wide l) 0 + elemInt f.ty (i.opc t i.wide l) 0
    (wrapInt (tyWidth f.ty) x, 0))

/-- IDIV (R114). -/
def execIdiv (f : Form) (s : State) : Host.Outcome State Fault Refusal :=
  runAlu (insW 0x006 f) s (int2 (insW 0x006 f) (divInt (tyWidth f.ty)))

/-- IREM (R114). -/
def execIrem (f : Form) (s : State) : Host.Outcome State Fault Refusal :=
  runAlu (insW 0x007 f) s (int2 (insW 0x007 f) remInt)

/-- IMIN (R126). -/
def execImin (f : Form) (s : State) : Host.Outcome State Fault Refusal :=
  runAlu (insW 0x008 f) s (int2 (insW 0x008 f) (fun a b => if b < a then b else a))

/-- IMAX (R126). -/
def execImax (f : Form) (s : State) : Host.Outcome State Fault Refusal :=
  runAlu (insW 0x009 f) s (int2 (insW 0x009 f) (fun a b => if a < b then b else a))

/-- IABS (R126), S-form. -/
def execIabsS (f : SForm) (s : State) : Host.Outcome State Fault Refusal :=
  runAlu (insS 0x00A f) s (int1 (insS 0x00A f) (fun a => (a.natAbs : Int)))

/-- IABS (R126), L-form. -/
def execIabsL (f : Form) (s : State) : Host.Outcome State Fault Refusal :=
  runAlu (insW 0x00A f) s (int1 (insW 0x00A f) (fun a => (a.natAbs : Int)))

/-- INEG (R126), S-form. -/
def execInegS (f : SForm) (s : State) : Host.Outcome State Fault Refusal :=
  runAlu (insS 0x00B f) s (int1 (insS 0x00B f) (fun a => -a))

/-- INEG (R126), L-form. -/
def execInegL (f : Form) (s : State) : Host.Outcome State Fault Refusal :=
  runAlu (insW 0x00B f) s (int1 (insW 0x00B f) (fun a => -a))

/-- IADDS (R126). -/
def execIadds (f : Form) (s : State) : Host.Outcome State Fault Refusal :=
  runAlu (insW 0x00C f) s (int2 (insW 0x00C f) (fun a b => satInt (a + b) (tyLo f.ty) (tyHi f.ty)))

/-- ISUBS (R126). -/
def execIsubs (f : Form) (s : State) : Host.Outcome State Fault Refusal :=
  runAlu (insW 0x00D f) s (int2 (insW 0x00D f) (fun a b => satInt (a - b) (tyLo f.ty) (tyHi f.ty)))

/-- AND (R126). -/
def execAnd (f : Form) (s : State) : Host.Outcome State Fault Refusal :=
  runAlu (insW 0x00E f) s (bit2 (insW 0x00E f) (fun _ a b => a &&& b))

/-- OR (R126). -/
def execOr (f : Form) (s : State) : Host.Outcome State Fault Refusal :=
  runAlu (insW 0x00F f) s (bit2 (insW 0x00F f) (fun _ a b => a ||| b))

/-- XOR (R126). -/
def execXor (f : Form) (s : State) : Host.Outcome State Fault Refusal :=
  runAlu (insW 0x010 f) s (bit2 (insW 0x010 f) (fun _ a b => a ^^^ b))

/-- ANDN (R126). -/
def execAndn (f : Form) (s : State) : Host.Outcome State Fault Refusal :=
  runAlu (insW 0x011 f) s (bit2 (insW 0x011 f) (fun w a b => a &&& (2 ^ w - 1 - b)))

/-- NOT (R126), S-form. -/
def execNotS (f : SForm) (s : State) : Host.Outcome State Fault Refusal :=
  runAlu (insS 0x012 f) s (bit1 (insS 0x012 f) (fun w a => 2 ^ w - 1 - a))

/-- NOT (R126), L-form. -/
def execNotL (f : Form) (s : State) : Host.Outcome State Fault Refusal :=
  runAlu (insW 0x012 f) s (bit1 (insW 0x012 f) (fun w a => 2 ^ w - 1 - a))

/-- SHL (R114, R126). -/
def execShl (f : Form) (s : State) : Host.Outcome State Fault Refusal :=
  runAlu (insW 0x013 f) s (bit2 (insW 0x013 f) shlNat)

/-- SHR (R114, R126). -/
def execShr (f : Form) (s : State) : Host.Outcome State Fault Refusal :=
  runAlu (insW 0x014 f) s (bit2 (insW 0x014 f) shrNat)

/-- SAR (R114, R126). -/
def execSar (f : Form) (s : State) : Host.Outcome State Fault Refusal :=
  runAlu (insW 0x015 f) s (bit2 (insW 0x015 f) sarNat)

/-- ROL (R126). -/
def execRol (f : Form) (s : State) : Host.Outcome State Fault Refusal :=
  runAlu (insW 0x016 f) s (bit2 (insW 0x016 f) rolNat)

/-- BFX (R128). -/
def execBfx (f : Form) (s : State) : Host.Outcome State Fault Refusal :=
  runAlu (insW 0x017 f) s (bit2 (insW 0x017 f) (bfxNat (tySigned f.ty)))

/-- BFI (R128). -/
def execBfi (f : Form) (s : State) : Host.Outcome State Fault Refusal :=
  let i := insW 0x018 f
  runAlu i s (fun t l => (bfiNat (tyWidth f.ty) (i.opa t i.wide l) (i.opb t i.wide l) (i.opc t i.wide l), 0))

/-- POPC (R126), S-form. -/
def execPopcS (f : SForm) (s : State) : Host.Outcome State Fault Refusal :=
  runAlu (insS 0x019 f) s (bit1 (insS 0x019 f) popNat)

/-- POPC (R126), L-form. -/
def execPopcL (f : Form) (s : State) : Host.Outcome State Fault Refusal :=
  runAlu (insW 0x019 f) s (bit1 (insW 0x019 f) popNat)

/-- CLZ (R126), S-form. -/
def execClzS (f : SForm) (s : State) : Host.Outcome State Fault Refusal :=
  runAlu (insS 0x01A f) s (bit1 (insS 0x01A f) clzNat)

/-- CLZ (R126), L-form. -/
def execClzL (f : Form) (s : State) : Host.Outcome State Fault Refusal :=
  runAlu (insW 0x01A f) s (bit1 (insW 0x01A f) clzNat)

/-- CTZ (R126), S-form. -/
def execCtzS (f : SForm) (s : State) : Host.Outcome State Fault Refusal :=
  runAlu (insS 0x01B f) s (bit1 (insS 0x01B f) ctzNat)

/-- CTZ (R126), L-form. -/
def execCtzL (f : Form) (s : State) : Host.Outcome State Fault Refusal :=
  runAlu (insW 0x01B f) s (bit1 (insW 0x01B f) ctzNat)

/-- BREV (R126), S-form. -/
def execBrevS (f : SForm) (s : State) : Host.Outcome State Fault Refusal :=
  runAlu (insS 0x01C f) s (bit1 (insS 0x01C f) brevNat)

/-- BREV (R126), L-form. -/
def execBrevL (f : Form) (s : State) : Host.Outcome State Fault Refusal :=
  runAlu (insW 0x01C f) s (bit1 (insW 0x01C f) brevNat)

/-- SEL (R129). -/
def execSel (f : Form) (s : State) : Host.Outcome State Fault Refusal :=
  let i := insW 0x01D f
  runAlu i s (fun t l => (if t.predOf f.uni f.c.toNat l then i.opa t i.wide l else i.opb t i.wide l, 0))

/-- MOV (R126), S-form. -/
def execMovS (f : SForm) (s : State) : Host.Outcome State Fault Refusal :=
  runAlu (insS 0x01E f) s (fun t l => ((insS 0x01E f).opa t (insS 0x01E f).wide l, 0))

/-- MOV (R126), L-form. -/
def execMovL (f : Form) (s : State) : Host.Outcome State Fault Refusal :=
  runAlu (insW 0x01E f) s (fun t l => ((insW 0x01E f).opa t (insW 0x01E f).wide l, 0))

/-- MOVI (R127). -/
def execMovi (f : Form) (s : State) : Host.Outcome State Fault Refusal :=
  runAlu (insW 0x01F f) s (fun _ _ => (widenLit f.ty (f.lit.getD 0), 0))

/-- PRMT (R130). -/
def execPrmt (f : Form) (s : State) : Host.Outcome State Fault Refusal :=
  let i := insW 0x020 f
  runAlu i s (fun t l => (prmtNat (i.opa t false l) (i.opb t false l) (i.opc t false l), 0))

/-- IADDC (R131): the carry predicate is read and written. -/
def execIaddc (f : Form) (s : State) : Host.Outcome State Fault Refusal :=
  let i := insW 0x023 f
  runIns i s (fun t ls =>
    let os := ls.map (fun l => (l, i.opa t false l + i.opb t false l + bnat (t.predOf f.uni f.c.toNat l)))
    s.finish i (os.foldl (fun t o =>
      let t1 := i.writeD t o.1 (o.2 % 2 ^ 32)
      let c := decide (o.2 ≥ 2 ^ 32)
      if f.uni then t1.setQ f.c.toNat c else t1.setP f.c.toNat o.1 c) t))

/-! Special registers (R132, R133). -/

/-- The value of a special register as lane l of team `i` reads it. -/
def State.special (s : State) (i n l : Nat) : Nat :=
  let t := s.team i
  match n with
  | 0 => t.teamid | 1 => l | 2 => t.nlanes | 3 => t.blockx.toNat | 4 => t.blocky.toNat | 5 => t.blockz.toNat
  | 6 => t.stage | 7 => t.core | 8 => t.core / 4 | 9 => t.core / 24 | 10 => t.part | 11 => t.vf
  | 12 => s.clock.toNat | 13 => t.fpctl.toNat | 14 => t.fpflags.toNat | 15 => t.seed.toNat | 16 => t.rprog.toNat
  | 17 => t.ctxbase.toNat | 18 => t.sgid.toNat | 19 => t.sgidx.toNat | 20 => t.trapbase.toNat | 21 => t.trapcause.toNat
  | 22 => t.trappc.toNat | 23 => t.trapskid.toNat | 24 => t.stepctl.toNat
  | 25 => t.haltctl.toNat / 2 * 2 + bnat (s.haltedBy t i)
  | _ => 0

/-- SRD (R132). -/
def execSrd (f : Form) (s : State) : Host.Outcome State Fault Refusal :=
  let i := insW 0x021 f
  let t := s.team s.cur
  if srHandler f.a.toNat && !t.hmode then .next (s.trapLanes i cPRIV 0 t.lanes)
  else
    runIns i s (fun t ls =>
      s.finish i (ls.foldl (fun t l =>
        let x := s.special s.cur f.a.toNat l
        if f.uni then t.setS f.d.toNat x else i.writeD t l x) t))

/-- The team with a special register written from x; reserved bits are ignored (R133, R120, R121, 09 R184–R201, 15 R263). -/
def Team.setSpecial (t : Team) (n : Nat) (x : W64) : Team :=
  match n with
  | 13 => { t with fpctl := (x.truncate 32) &&& 0x1F1 }
  | 14 => { t with fpflags := (x.truncate 32) &&& 0x1F }
  | 15 => { t with seed := x.truncate 32 }
  | 20 => { t with trapbase := x }
  | 21 => { t with trapcause := x &&& 0xFFFFFFFF00030F3F }
  | 22 => { t with trappc := x }
  | 23 => { t with trapskid := x &&& 0xFFFFFFFF00000F07 }
  | 24 => { t with stepctl := x &&& 0xFFFFFFFF00000001 }
  | 25 => { t with haltctl := x &&& 0x7FFF0002 }
  | _ => t

/-- Lanes of an abandoned MMA whose tiles are marked full: those of WORD and of every later contributing word (15 R263). -/
def abandonTiles (t : Team) (m : MmaJob) : Team :=
  let w := fld t.rprog 62 58
  let ls := m.lanes.filter (fun l => decide (l / 32 ≥ w))
  let vE := ls.foldl (fun e l => (upTo 32).foldl (fun e c => SMap.drop e (vkey (m.f.d.toNat + c) l)) e) t.vE
  { t with vE := vE, mma := none }

/-- The team with RPROG written (15 R263): clearing PEND abandons a stopped MMA. -/
def Team.setRprog (t : Team) (x : W64) : Team :=
  let y := x &&& 0xFFFF0000FFFFFFFF
  match t.mma with
  | some m => if y.getLsbD 63 then { t with rprog := y } else { abandonTiles t m with rprog := y }
  | none => { t with rprog := y }

/-- SWR (R133). A write of RPROG waits while an MMA of the team runs (15 R263). -/
def execSwr (f : Form) (s : State) : Host.Outcome State Fault Refusal :=
  let i := insW 0x022 f
  let n := f.d.toNat
  let t := s.team s.cur
  if srHandler n && !t.hmode then .next (s.trapLanes i cPRIV 0 t.lanes)
  else
    runUni i s (fun t =>
      let x := BitVec.ofNat 64 (t.sr f.a.toNat)
      if n = 16 then
        (match t.mma with
         | some m => if m.stopped then s.finish i (t.setRprog x) else s
         | none => s.finish i (t.setRprog x))
      else s.finish i (t.setSpecial n x))

end Sys2Proof.Machine
end

