-- ==== Sys2Proof/Machine/FloatOps.lean ====
section
/-!
DEFINITION. Floating-point instructions (06 R116–R118, R134–R136): each exact value is rounded once.
-/
namespace Sys2Proof.Machine

/-- An exact result put into the format, with the flags of both. -/
def putFlags (fmt : Fmt) (r : Rnd) (ftz : Bool) (x : FVal × Nat) : Nat × Nat :=
  let p := fmt.put r ftz x.1
  (p.1, x.2 ||| p.2)

/-- The rounding mode in MOD. -/
def Ins.rnd (i : Ins) : Rnd := rndOf i.f.mod.toNat

/-- A floating-point operation of one, two or three operands, element by element. -/
def flt1 (i : Ins) (g : FVal → FVal × Nat) (t : Team) (l : Nat) : Nat × Nat :=
  let fmt := tyFmt i.f.ty
  let a := i.opa t i.wide l
  mapElems i.f.ty (fun j => putFlags fmt i.rnd t.ftz (g (fmt.read t.ftz (elem i.f.ty a j))))
def flt2 (i : Ins) (g : FVal → FVal → FVal × Nat) (t : Team) (l : Nat) : Nat × Nat :=
  let fmt := tyFmt i.f.ty
  let a := i.opa t i.wide l
  let b := i.opb t i.wide l
  mapElems i.f.ty (fun j =>
    putFlags fmt i.rnd t.ftz (g (fmt.read t.ftz (elem i.f.ty a j)) (fmt.read t.ftz (elem i.f.ty b j))))
def flt3 (i : Ins) (g : FVal → FVal → FVal → FVal × Nat) (t : Team) (l : Nat) : Nat × Nat :=
  let fmt := tyFmt i.f.ty
  let a := i.opa t i.wide l
  let b := i.opb t i.wide l
  let c := i.opc t i.wide l
  mapElems i.f.ty (fun j =>
    putFlags fmt i.rnd t.ftz (g (fmt.read t.ftz (elem i.f.ty a j)) (fmt.read t.ftz (elem i.f.ty b j)) (fmt.read t.ftz (elem i.f.ty c j))))

/-- An operation on the sign bit of each element (R116, R134). -/
def signOp (i : Ins) (g : Bool → Bool) (t : Team) (l : Nat) : Nat × Nat :=
  let w := tyWidth i.f.ty
  let a := i.opa t i.wide l
  mapElems i.f.ty (fun j => let x := elem i.f.ty a j; (x % 2 ^ (w - 1) + 2 ^ (w - 1) * bnat (g (nbit x (w - 1))), 0))

/-- Class masks of the elements, 16 bits each (R136). -/
def classOp (i : Ins) (t : Team) (l : Nat) : Nat × Nat :=
  let fmt := tyFmt i.f.ty
  let a := i.opa t i.wide l
  ((upTo (tyCount i.f.ty)).foldl (fun acc j => acc + fmt.classMask (elem i.f.ty a j) * 2 ^ (16 * j)) 0, 0)

/-- FDOT2 (R136): the exact sum rounded once to f32. -/
def dotOp (i : Ins) (t : Team) (l : Nat) : Nat × Nat :=
  let fmt := tyFmt i.f.ty
  let a := i.opa t false l
  let b := i.opb t false l
  let rd (x j : Nat) := fmt.read t.ftz (elem i.f.ty x j)
  let p0 := FVal.mul (rd a 0) (rd b 0)
  let p1 := FVal.mul (rd a 1) (rd b 1)
  let c := fmtF32.read t.ftz (i.opc t false l)
  let s1 := FVal.add i.rnd p0.1 p1.1
  let s2 := FVal.add i.rnd s1.1 c
  putFlags fmtF32 i.rnd t.ftz (s2.1, p0.2 ||| p1.2 ||| s1.2 ||| s2.2)

/-- FADD (R134). -/
def execFadd (f : Form) (s : State) : Host.Outcome State Fault Refusal :=
  runAlu (insW 0x040 f) s (flt2 (insW 0x040 f) (FVal.add (insW 0x040 f).rnd))

/-- FSUB (R134). -/
def execFsub (f : Form) (s : State) : Host.Outcome State Fault Refusal :=
  runAlu (insW 0x041 f) s (flt2 (insW 0x041 f) (fun a b => FVal.add (insW 0x041 f).rnd a b.neg))

/-- FMUL (R134). -/
def execFmul (f : Form) (s : State) : Host.Outcome State Fault Refusal :=
  runAlu (insW 0x042 f) s (flt2 (insW 0x042 f) FVal.mul)

/-- FFMA (R134). -/
def execFfma (f : Form) (s : State) : Host.Outcome State Fault Refusal :=
  runAlu (insW 0x043 f) s (flt3 (insW 0x043 f) (FVal.fma (insW 0x043 f).rnd))

/-- FMIN (R135). -/
def execFmin (f : Form) (s : State) : Host.Outcome State Fault Refusal :=
  runAlu (insW 0x044 f) s (flt2 (insW 0x044 f) (FVal.minmax false))

/-- FMAX (R135). -/
def execFmax (f : Form) (s : State) : Host.Outcome State Fault Refusal :=
  runAlu (insW 0x045 f) s (flt2 (insW 0x045 f) (FVal.minmax true))

/-- FABS (R134), S-form. -/
def execFabsS (f : SForm) (s : State) : Host.Outcome State Fault Refusal :=
  runAlu (insS 0x046 f) s (signOp (insS 0x046 f) (fun _ => false))

/-- FABS (R134), L-form. -/
def execFabsL (f : Form) (s : State) : Host.Outcome State Fault Refusal :=
  runAlu (insW 0x046 f) s (signOp (insW 0x046 f) (fun _ => false))

/-- FNEG (R134), S-form. -/
def execFnegS (f : SForm) (s : State) : Host.Outcome State Fault Refusal :=
  runAlu (insS 0x047 f) s (signOp (insS 0x047 f) (fun x => !x))

/-- FNEG (R134), L-form. -/
def execFnegL (f : Form) (s : State) : Host.Outcome State Fault Refusal :=
  runAlu (insW 0x047 f) s (signOp (insW 0x047 f) (fun x => !x))

/-- FDIV (R134). -/
def execFdiv (f : Form) (s : State) : Host.Outcome State Fault Refusal :=
  runAlu (insW 0x048 f) s (flt2 (insW 0x048 f) FVal.div)

/-- FSQRT (R134), S-form. -/
def execFsqrtS (f : SForm) (s : State) : Host.Outcome State Fault Refusal :=
  runAlu (insS 0x049 f) s (flt1 (insS 0x049 f) FVal.sqrt)

/-- FSQRT (R134), L-form. -/
def execFsqrtL (f : Form) (s : State) : Host.Outcome State Fault Refusal :=
  runAlu (insW 0x049 f) s (flt1 (insW 0x049 f) FVal.sqrt)

/-- FRCP (R134), S-form. -/
def execFrcpS (f : SForm) (s : State) : Host.Outcome State Fault Refusal :=
  runAlu (insS 0x04A f) s (flt1 (insS 0x04A f) (FVal.div FVal.one))

/-- FRCP (R134), L-form. -/
def execFrcpL (f : Form) (s : State) : Host.Outcome State Fault Refusal :=
  runAlu (insW 0x04A f) s (flt1 (insW 0x04A f) (FVal.div FVal.one))

/-- FRINT (R134, R136), S-form. -/
def execFrintS (f : SForm) (s : State) : Host.Outcome State Fault Refusal :=
  runAlu (insS 0x04B f) s (flt1 (insS 0x04B f) (FVal.rint (insS 0x04B f).rnd))

/-- FRINT (R134, R136), L-form. -/
def execFrintL (f : Form) (s : State) : Host.Outcome State Fault Refusal :=
  runAlu (insW 0x04B f) s (flt1 (insW 0x04B f) (FVal.rint (insW 0x04B f).rnd))

/-- FCLASS (R136), S-form. -/
def execFclassS (f : SForm) (s : State) : Host.Outcome State Fault Refusal :=
  runAlu32 (insS 0x04C f) s (classOp (insS 0x04C f))

/-- FCLASS (R136), L-form. -/
def execFclassL (f : Form) (s : State) : Host.Outcome State Fault Refusal :=
  runAlu32 (insW 0x04C f) s (classOp (insW 0x04C f))

/-- FSCALE (R136): n is one s32 register or the literal, for every type. -/
def execFscale (f : Form) (s : State) : Host.Outcome State Fault Refusal :=
  let i := insW 0x04D f
  runAlu i s (fun t l => flt1 i (fun a => FVal.scale a (toSigned 32 (i.opbRaw t false l))) t l)

/-- FDOT2 (R136). -/
def execFdot2 (f : Form) (s : State) : Host.Outcome State Fault Refusal :=
  runAlu (insW 0x04E f) s (dotOp (insW 0x04E f))

end Sys2Proof.Machine
end

