-- ==== Sys2Proof/Machine/Convert.lean ====
section
/-!
DEFINITION. Conversions (06 R119, R137–R139), with stochastic rounding.
-/
namespace Sys2Proof.Machine

/-- g(l) at the start of an `.sr` instruction (R119). -/
def srStart (seed : W32) (l : Nat) : W32 :=
  let g := seed ^^^ BitVec.ofNat 32 (l * 0x9E3779B9)
  if g = 0 then 0x9E3779B9 else g

/-- SEED after an `.sr` instruction that is not trapped (R119). -/
def srNext (seed : W32) : W32 := xorshift (if seed = 0 then 0x9E3779B9 else seed)

/-- A value rounded stochastically below the smallest positive magnitude, to nearest even above it (R119). -/
def srPut (fmt : Fmt) (ftz : Bool) (g : W32) (v : FVal) : Nat × Nat :=
  let flush := ftz && fmt.flushes
  let me : Int := if flush then 1 - (fmt.bias : Int) else 1 - (fmt.bias : Int) - (fmt.fw : Int)
  let code := if flush then 2 ^ fmt.fw else 1
  match v with
  | .fin n m e =>
    if m ≠ 0 ∧ topExp m e < me then
      let d := e + 32 - me
      let t := if d ≥ 0 then m * 2 ^ d.toNat else m / 2 ^ (-d).toNat
      (fmt.sign n + (if g.toNat < t then code else 0), flUF ||| flNX)
    else fmt.put .rne ftz v
  | _ => fmt.put .rne ftz v

/-- A value rounded under the code in MOD; `g` is the lane's generator after its advance for this element. -/
def putMode (fmt : Fmt) (mod : Nat) (ftz : Bool) (g : W32) (v : FVal) : Nat × Nat :=
  let p := if mod = 4 then srPut fmt ftz g v else fmt.put (rndOf mod) ftz v
  (p.1, v.nv ||| p.2)

/-- The generator after k advances. -/
def srAdvance (k : Nat) (g : W32) : W32 :=
  match k with
  | 0 => g
  | n + 1 => xorshift (srAdvance n g)

/-- The value of one numeric element as an exact value. -/
def numVal (ty : Ty) (ftz : Bool) (x : Nat) : FVal :=
  if tyFloat ty then (tyFmt ty).read ftz x else FVal.ofInt (if tySigned ty then toSigned (tyWidth ty) x else (x : Int))

/-- CVT of one element value (R137). -/
def cvtVal (dt st : Ty) (mod : Nat) (ftz : Bool) (g : W32) (x : Nat) : Nat × Nat :=
  if tyFloat dt then putMode (tyFmt dt) mod ftz g (numVal st ftz x)
  else if tyFloat st then
    let r := FVal.toInt (rndOf mod) (tyLo dt) (tyHi dt) ((tyFmt st).read ftz x)
    (wrapInt (tyWidth dt) r.1, r.2)
  else
    let v : Int := if tySigned st then toSigned (tyWidth st) x else (x : Int)
    (wrapInt (tyWidth dt) (satInt v (tyLo dt) (tyHi dt)), 0)

/-- The seed of the team after an instruction with rounding code `mod`. -/
def Team.afterSr (t : Team) (mod : Nat) : Team := if mod = 4 then { t with seed := srNext t.seed } else t

/-- An arithmetic instruction that may round stochastically: SEED advances even when no lane acts. -/
def runSr (i : Ins) (s : State) (g : Team → Nat → Nat × Nat) : Host.Outcome State Fault Refusal :=
  runIns i s (fun t ls =>
    let os := ls.map (fun l => let r := g t l; ({ lane := l, val := r.1, fl := r.2 } : LaneOut))
    s.withFlags i t os (fun t => s.finish i ((os.foldl (fun t o => i.writeD t o.lane o.val) t).afterSr i.f.mod.toNat)))

/-- CVT (R137). -/
def execCvt (f : Form) (s : State) : Host.Outcome State Fault Refusal :=
  let i := insW 0x080 f
  let st := tyOfCode f.c.toNat
  runSr i s (fun t l =>
    cvtVal f.ty st f.mod.toNat t.ftz (srAdvance 1 (srStart t.seed l)) (elem st (i.opa t (tyWide st) l) 0))

/-- PACK of one element. -/
def packElem (dt st : Ty) (mod : Nat) (ftz : Bool) (g : W32) (x : Nat) : Nat × Nat :=
  if tyFloat dt || dt == .e4m3 || dt == .e5m2 || dt == .e2m1 then putMode (tyFmt dt) mod ftz g ((tyFmt st).read ftz x)
  else
    let v : Int := if tySigned st then toSigned (tyWidth st) x else (x : Int)
    (wrapInt (tyWidth dt) (satInt v (tyLo dt) (tyHi dt)), 0)

/-- PACK (R138). -/
def execPack (f : Form) (s : State) : Host.Outcome State Fault Refusal :=
  let i := insW 0x081 f
  let st := tyOfCode f.c.toNat
  let n := tyCount st
  runSr i s (fun t l =>
    let a := i.opa t false l
    let b := i.opb t false l
    mapElems f.ty (fun j =>
      packElem f.ty st f.mod.toNat t.ftz (srAdvance (j + 1) (srStart t.seed l)) (if j < n then elem st a j else elem st b (j - n))))

/-- UNPK of one element (R139): a NaN keeps its sign. DESIGN CHOICE: an e5m2 or e4m3 subnormal that is subnormal in the f16
destination too keeps its value under FTZ, as R139 has these pairs exact and raising no other flag, where R118 flushes a tiny
f16 result (log entry 103; unsafe: a machine that follows R118 gives zero with UF and NX). -/
def unpkElem (dt st : Ty) (ftz : Bool) (x : Nat) : Nat × Nat :=
  if tyFloat st || st == .e4m3 || st == .e5m2 || st == .e2m1 then
    let v := (tyFmt st).read ftz x
    match v with
    | .nan sg n => ((tyFmt dt).nan + (tyFmt dt).sign n, if sg then flNV else 0)
    | _ => (((tyFmt dt).put .rne false v).1, 0)
  else (wrapInt (tyWidth dt) (if tySigned st then toSigned (tyWidth st) x else (x : Int)), 0)

/-- UNPK (R139). -/
def execUnpk (f : Form) (s : State) : Host.Outcome State Fault Refusal :=
  let i := insW 0x082 f
  let st := tyOfCode f.c.toNat
  let k := tyCount f.ty
  runAlu i s (fun t l =>
    let a := i.opa t false l
    mapElems f.ty (fun j => unpkElem f.ty st t.ftz (elem st a (f.mod.toNat * k + j))))

end Sys2Proof.Machine
end

