-- ==== Sys2Proof/Machine/Compare.lean ====
section
/-!
DEFINITION. Compare and predicate instructions (07 R141–R144).
-/
namespace Sys2Proof.Machine

/-- The conditions of ICMP (R142). -/
def icmpTest (m : Nat) (a b : Int) : Bool :=
  match m with
  | 0 => a == b | 1 => a != b | 2 => decide (a < b) | 3 => decide (a ≤ b) | 4 => decide (b < a) | _ => decide (b ≤ a)

/-- The conditions of FCMP with their NV (R142). -/
def fcmpTest (m : Nat) (a b : FVal) : Bool × Nat :=
  let un := a.isNan || b.isNan
  let sg := a.nv ||| b.nv
  let c := FVal.cmp a b
  let any := if un then flNV else 0
  match m with
  | 0 => (!un && c == 0, sg)
  | 1 => (!un && decide (c < 0), any)
  | 2 => (!un && decide (c ≤ 0), any)
  | 3 => (!un && decide (c > 0), any)
  | 4 => (!un && decide (c ≥ 0), any)
  | 5 => (un || c != 0, sg)
  | 6 => (!un, sg)
  | _ => (un, sg)

/-- ICMP (R142). -/
def execIcmp (f : Form) (s : State) : Host.Outcome State Fault Refusal :=
  let i := insW 0x0A0 f
  runTest i s (fun t l => (icmpTest f.mod.toNat (elemInt f.ty (i.opa t i.wide l) 0) (elemInt f.ty (i.opb t i.wide l) 0), 0))

/-- FCMP (R142): element 0 alone. -/
def execFcmp (f : Form) (s : State) : Host.Outcome State Fault Refusal :=
  let i := insW 0x0A1 f
  let fmt := tyFmt f.ty
  runTest i s (fun t l =>
    fcmpTest f.mod.toNat (fmt.read t.ftz (elem f.ty (i.opa t i.wide l) 0)) (fmt.read t.ftz (elem f.ty (i.opb t i.wide l) 0)))

/-- The functions of PLOP (R143). -/
def plopTest (m : Nat) (a b : Bool) : Bool :=
  match m with
  | 0 => a && b | 1 => a || b | 2 => a != b | 3 => a && !b | 4 => a || !b | 5 => !(a && b) | 6 => !(a || b) | _ => a == b

/-- PLOP (R143). -/
def execPlop (f : Form) (s : State) : Host.Outcome State Fault Refusal :=
  runTest (insW 0x0A2 f) s (fun t l => (plopTest f.mod.toNat (t.predOf f.uni f.a.toNat l) (t.predOf f.uni f.b.toNat l), 0))

/-- The predicates 7 to 0 of a lane as a number. -/
def predWord (t : Team) (uni : Bool) (l : Nat) : Nat := (upTo 8).foldl (fun acc n => acc + bnat (t.predOf uni n l) * 2 ^ n) 0

/-- PMOV (R144). -/
def execPmov (f : Form) (s : State) : Host.Outcome State Fault Refusal :=
  let i := insW 0x0A3 f
  match f.mod.toNat with
  | 0 => runTest i s (fun t l => (t.predOf f.uni f.a.toNat l, 0))
  | 1 => runAlu32 i s (fun t l => (predWord t f.uni l, 0))
  | _ =>
    runIns i s (fun t ls =>
      s.finish i (ls.foldl (fun t' l =>
        let x := i.opa t false l
        (upTo 7).foldl (fun t' n => if f.uni then t'.setQ n (nbit x n) else t'.setP n l (nbit x n)) t') t))

end Sys2Proof.Machine
end

