-- ==== Sys2Proof/Machine/CrossLane.lean ====
section
/-!
DEFINITION. Cross-lane and team-wide instructions (07 R145–R150): results bound at issue and landing as one late reply.
-/
namespace Sys2Proof.Machine

/-- A producer of this group: nothing is marked when no lane contributes. -/
def runProduce (i : Ins) (s : State) (g : Team → List Nat → List Dst) : Host.Outcome State Fault Refusal :=
  runIns i s (fun t ls => if ls.isEmpty then s.finish i t else s.produce i t (ls.flatMap i.dstRefs) (g t ls) 5)

/-- One value of the type per lane. -/
def laneDsts (i : Ins) (ls : List Nat) (g : Nat → Nat) : List Dst := ls.flatMap (fun l => dstsOf false i.f.ty i.f.d.toNat l (g l))

/-- SHFL (R147). -/
def execShfl (f : Form) (s : State) : Host.Outcome State Fault Refusal :=
  let i := insW 0x0C0 f
  runProduce i s (fun t ls => laneDsts i ls (fun l => t.opnd f.ka i.wide f.a.toNat (i.shuffleLane t l)))

/-- BCST (R147). -/
def execBcst (f : Form) (s : State) : Host.Outcome State Fault Refusal :=
  let i := insW 0x0C1 f
  runProduce i s (fun t ls => laneDsts i ls (fun l => t.opnd f.ka i.wide f.a.toNat (i.shuffleLane t l)))

/-- The ballot of a test over the contributing lanes of a mask word. -/
def ballot (ls : List Nat) (w : Nat) (p : Nat → Bool) : Nat :=
  (ls.filter (fun l => l / 32 == w && p l)).foldl (fun acc l => acc + 2 ^ (l % 32)) 0

/-- VOTE (R148). -/
def execVote (f : Form) (s : State) : Host.Outcome State Fault Refusal :=
  let i := insW 0x0C2 f
  runProduce i s (fun t ls =>
    let pa := fun l => t.pr f.a.toNat l
    match f.mod.toNat with
    | 0 => let b := ls.any pa; ls.flatMap (fun l => pairDsts false i.pd i.pe l b (!b))
    | 1 => let b := ls.all pa; ls.flatMap (fun l => pairDsts false i.pd i.pe l b (!b))
    | 2 => ls.map (fun l => Dst.v f.d.toNat l (BitVec.ofNat 32 (ballot ls (l / 32) pa)))
    | _ => ls.map (fun l => Dst.v f.d.toNat l (BitVec.ofNat 32 (ls.filter pa).length)))

/-- MBAL (R148): the match ballot of a word. -/
def matchBallot (i : Ins) (t : Team) (ls : List Nat) : List Dst :=
  let a := fun l => i.opa t i.wide l
  ls.map (fun l => Dst.v i.f.d.toNat l (BitVec.ofNat 32 (ballot ls (l / 32) (fun k => a k == a l))))

/-- MBAL (R148), S-form. -/
def execMbalS (f : SForm) (s : State) : Host.Outcome State Fault Refusal :=
  runProduce (insS 0x0C3 f) s (fun t ls => matchBallot (insS 0x0C3 f) t ls)

/-- MBAL (R148), L-form. -/
def execMbalL (f : Form) (s : State) : Host.Outcome State Fault Refusal :=
  runProduce (insW 0x0C3 f) s (fun t ls => matchBallot (insW 0x0C3 f) t ls)

/-! SCAN and RED (R149). -/

/-- One operation of the table on two values of a type, with its flags. -/
def combVal (ty : Ty) (op : Nat) (ftz : Bool) (x y : Nat) : Nat × Nat :=
  if tyFloat ty then
    let fmt := tyFmt ty
    mapElems ty (fun j =>
      let a := fmt.read ftz (elem ty x j)
      let b := fmt.read ftz (elem ty y j)
      putFlags fmt .rne ftz (if op = 0 then FVal.add .rne a b else FVal.minmax (op == 2) a b))
  else
    let a := elemInt ty x 0
    let b := elemInt ty y 0
    match op with
    | 0 => (wrapInt (tyWidth ty) (a + b), 0)
    | 1 => (wrapInt (tyWidth ty) (if b < a then b else a), 0)
    | 2 => (wrapInt (tyWidth ty) (if a < b then b else a), 0)
    | _ => (x ||| y, 0)

/-- comb of R149 on values that may be absent; flags are collected. -/
def comb (g : Nat → Nat → Nat × Nat) (x y : Option Nat × Nat) : Option Nat × Nat :=
  match x.1, y.1 with
  | none, _ => (y.1, x.2 ||| y.2)
  | _, none => (x.1, x.2 ||| y.2)
  | some a, some b => let r := g a b; (some r.1, x.2 ||| y.2 ||| r.2)

/-- node(k, 2^n) over the leaf values of a word. -/
def scanNode (g : Nat → Nat → Nat × Nat) (leaf : Nat → Option Nat) (n k : Nat) : Option Nat × Nat :=
  match n with
  | 0 => (leaf k, 0)
  | m + 1 => comb g (scanNode g leaf m (2 * k)) (scanNode g leaf m (2 * k + 1))

/-- local(w, i): the aligned blocks that make up lanes 0 … i, largest first; `n` counts block sizes down from 2^(n−1). -/
def scanLocal (g : Nat → Nat → Nat × Nat) (leaf : Nat → Option Nat) (n cnt start : Nat) (acc : Option Nat × Nat) : Option Nat × Nat :=
  match n with
  | 0 => acc
  | m + 1 =>
    if nbit cnt m then scanLocal g leaf m cnt (start + 2 ^ m) (comb g acc (scanNode g leaf m (start / 2 ^ m)))
    else scanLocal g leaf m cnt start acc

/-- Leaves of a mask word: the values of its contributing lanes. -/
def leafOf (i : Ins) (t : Team) (ls : List Nat) (w k : Nat) : Option Nat :=
  if ls.contains (32 * w + k) then some (i.opa t i.wide (32 * w + k)) else none

/-- Fold of the totals of the first `n` words. -/
def scanCarry (g : Nat → Nat → Nat × Nat) (i : Ins) (t : Team) (ls : List Nat) (n : Nat) : Option Nat × Nat :=
  (upTo n).foldl (fun acc w => comb g acc (scanNode g (leafOf i t ls w) 5 0)) (none, 0)

/-- incl of a lane. -/
def scanIncl (g : Nat → Nat → Nat × Nat) (i : Ins) (t : Team) (ls : List Nat) (l : Nat) : Option Nat × Nat :=
  comb g (scanCarry g i t ls (l / 32)) (scanLocal g (leafOf i t ls (l / 32)) 6 (l % 32 + 1) 0 (none, 0))

/-- The identity of an operation (R149), for every element. -/
def scanIdentity (ty : Ty) (op : Nat) : Nat :=
  if tyFloat ty then
    let fmt := tyFmt ty
    let e := if op = 0 then 0 else if op = 1 then fmt.infCode else fmt.sign true + fmt.infCode
    (mapElems ty (fun _ => (e, 0))).1
  else
    match op with
    | 1 => wrapInt (tyWidth ty) (tyHi ty)
    | 2 => wrapInt (tyWidth ty) (tyLo ty)
    | _ => 0

/-- Results of SCAN and RED per contributing lane, with flags. DESIGN CHOICE: SCAN.excl raises the flags of the operations that
feed a delivered result, so none of the last contributing lane's inclusive step (R149 does not say which operations of the tree
an exclusive scan performs; log entry 106; unsafe: that step may raise a flag of its own). -/
def scanResults (i : Ins) (t : Team) (ls : List Nat) : List (Nat × Nat) × Nat :=
  let op := i.f.mod.toNat % 4
  let g := combVal i.f.ty op t.ftz
  if i.op = 0x0C5 then
    let r := scanCarry g i t ls t.words
    (ls.map (fun l => (l, r.1.getD 0)), r.2)
  else if i.f.mod.toNat < 4 then
    let rs := ls.map (fun l => (l, scanIncl g i t ls l))
    (rs.map (fun e => (e.1, e.2.1.getD 0)), rs.foldl (fun f e => f ||| e.2.2) 0)
  else
    let rs := (ls.zip (none :: ls.map some)).map (fun e =>
      (e.1, match e.2 with | none => (some (scanIdentity i.f.ty op), 0) | some k => scanIncl g i t ls k))
    (rs.map (fun e => (e.1, e.2.1.getD 0)), rs.foldl (fun f e => f ||| e.2.2) 0)

/-- SCAN and RED: an enabled flag is every contributing lane's. -/
def runScan (i : Ins) (s : State) : Host.Outcome State Fault Refusal :=
  runIns i s (fun t ls =>
    if ls.isEmpty then s.finish i t
    else
      let r := scanResults i t ls
      s.withFlags i t (ls.map (fun l => ({ lane := l, val := 0, fl := r.2 } : LaneOut)))
        (fun t => s.produce i t (ls.flatMap i.dstRefs) (r.1.flatMap (fun e => dstsOf false i.f.ty i.f.d.toNat e.1 e.2)) 5))

/-- SCAN (R149), S-form. -/
def execScanS (f : SForm) (s : State) : Host.Outcome State Fault Refusal := runScan (insS 0x0C4 f) s
/-- SCAN (R149), L-form. -/
def execScanL (f : Form) (s : State) : Host.Outcome State Fault Refusal := runScan (insW 0x0C4 f) s
/-- RED (R149), S-form. -/
def execRedS (f : SForm) (s : State) : Host.Outcome State Fault Refusal := runScan (insS 0x0C5 f) s
/-- RED (R149), L-form. -/
def execRedL (f : Form) (s : State) : Host.Outcome State Fault Refusal := runScan (insW 0x0C5 f) s

/-! TSORT and TSELK (R150). -/

/-- The place of a key in the order of R150. -/
def sortKey (ty : Ty) (x : Nat) : Int :=
  if ty = .f32 then
    (if (fmtF32.value x).isNan then (2 : Int) ^ 33
     else if x < 2 ^ 31 then (2 : Int) ^ 31 + (x : Int) else (2 : Int) ^ 31 - 1 - ((x - 2 ^ 31 : Nat) : Int))
  else elemInt ty x 0

/-- The contributing lanes in rank order. -/
def ranked (i : Ins) (t : Team) (ls : List Nat) : List Nat :=
  let key := fun l => sortKey i.f.ty (i.opa t false l)
  sortBy (fun a b => if i.f.mod = 0 then decide (key a < key b) else decide (key b < key a)) ls

/-- A pair of 32-bit destinations. -/
def pair32 (d l x y : Nat) : List Dst := [.v d l (BitVec.ofNat 32 x), .v (d + 1) l (BitVec.ofNat 32 y)]

/-- TSORT (R150). -/
def execTsort (f : Form) (s : State) : Host.Outcome State Fault Refusal :=
  let i := insW 0x0C6 f
  runProduce i s (fun t ls =>
    (ls.zip (ranked i t ls)).flatMap (fun e => pair32 f.d.toNat e.1 (i.opa t false e.2) (i.opbRaw t false e.2)))

/-- TSELK (R150). -/
def execTselk (f : Form) (s : State) : Host.Outcome State Fault Refusal :=
  let i := insW 0x0C7 f
  runProduce i s (fun t ls =>
    let r := ranked i t ls
    let k := max 1 (min (i.opbRaw t false 0) r.length)
    let l := r.getD (k - 1) 0
    ls.flatMap (fun m => pair32 f.d.toNat m (i.opa t false l) l))

end Sys2Proof.Machine
end

