-- ==== Sys2Proof/Machine/FunctionUnit.lean ====
section
/-!
DEFINITION. The CORDIC function unit (07 R151–R153). A general result is a free value of Config held to the error bound of
R152; where the free value lies outside the bound the correctly rounded reference value stands for it (log entry 4).
-/
namespace Sys2Proof.Machine

/-- |x|. -/
def FVal.abs (v : FVal) : FVal := if v.isNeg then v.neg else v

/-- |x − y| ≤ bound, for finite values. -/
def nearVal (x y bound : FVal) : Bool := decide (FVal.cmp (FVal.add .rne x y.neg).1.abs bound ≤ 0)

/-- 2^(1−n) + 2^−k. -/
def cordicBound (n k : Nat) : FVal := .fin false (2 ^ (31 - n) + 2 ^ (30 - k)) (-30)

/-- The value is nonzero and below the smallest normal f32. -/
def tinyF32 (v : FVal) : Bool := !v.isZero && decide (FVal.cmp v.abs (.fin false 1 (-126)) < 0)

/-- A general result with its flags (R152, R153). Under FTZ a tiny result becomes a zero of the exact value's sign (R118). -/
def cordicPut (ftz : Bool) (free : W32) (ref bound : FVal) : Nat × Nat :=
  let tiny := tinyF32 ref || ref.isZero
  let b := if tiny then .fin false 1 (-149) else bound
  let fv := fmtF32.value free.toNat
  let ok := match fv with
    | .fin _ _ _ => nearVal fv ref b
    | _ => false
  let code := if ok then free.toNat else (fmtF32.put .rne false ref).1
  let sub := decide ((code / 2 ^ 23) % 256 = 0) && decide (code % 2 ^ 23 ≠ 0)
  if ftz && (sub || tinyF32 ref) then (fmtF32.sign ref.isNeg, if ref.isZero then flNX else flUF ||| flNX)
  else (code, if tinyF32 ref then flUF ||| flNX else flNX)

/-- The operand as the function reads it: flushed under FTZ. -/
def flushCode (ftz : Bool) (x : Nat) : Nat := if ftz && (x / 2 ^ 23) % 256 == 0 then (x / 2 ^ 31) * 2 ^ 31 else x

/-- A result of R153 that may be subnormal is flushed as any (R118). -/
def exactF32 (ftz : Bool) (v : FVal) : Nat × Nat := fmtF32.put .rne ftz v

/-- log2 e with 120 fraction bits. -/
def log2e : Nat := 1917670637729674084946755258930051709

/-- m × 2^e is an integer multiple of 2^k. -/
def multOf (m : Nat) (e k : Int) : Bool := m == 0 || decide (e ≥ k) || decide (m % 2 ^ (k - e).toNat = 0)

/-- m is a power of two: the exponent of the value. -/
def powTwo (m : Nat) (e : Int) : Option Int := if m ≠ 0 ∧ m = 2 ^ Nat.log2 m then some (topExp m e) else none

/-- A signed fixed-point number with 120 fraction bits as a value. -/
def fixVal (x : Int) : FVal := .fin (decide (x < 0)) x.natAbs (-120)

/-- The quiet results of NaN operands (R153). -/
def nanOut (v : FVal) : Nat × Nat := (fmtF32.nan, v.nv)

/-- A free value where the specification states no result; NX when it is finite (log entry 4). -/
def cordicFree (x : W32) : Nat × Nat :=
  (x.toNat, match fmtF32.value x.toNat with | .fin _ _ _ => flNX | _ => 0)

/-- CEXP2. -/
def fuExp2 (ftz : Bool) (n x : Nat) : Nat × Nat :=
  let a := flushCode ftz x
  match fmtF32.value a with
  | .nan s n => nanOut (.nan s n)
  | .inf neg => (if neg then 0 else fmtF32.infCode, 0)
  | .fin neg m e =>
    let v : FVal := .fin neg m e
    if FVal.cmp v (.fin false 128 0) ≥ 0 then (fmtF32.infCode, flOF ||| flNX)
    else if FVal.cmp v (.fin true 150 0) < 0 then (0, flUF ||| flNX)
    else if multOf m e 0 && decide (FVal.cmp v (.fin true 149 0) ≥ 0) then
      exactF32 ftz (.fin false 1 (signed neg (if e ≥ 0 then m * 2 ^ e.toNat else m / 2 ^ (-e).toNat)))
    else
      let r := exp2Val 120 neg m e
      let ref : FVal := .fin false r.1 r.2
      cordicPut ftz (Config.cordic 0x0E0 (BitVec.ofNat 32 a) 0 n) ref (FVal.mul (cordicBound n 23) ref).1

/-- CLOG2. -/
def fuLog2 (ftz : Bool) (n x : Nat) : Nat × Nat :=
  let a := flushCode ftz x
  match fmtF32.value a with
  | .nan s n => nanOut (.nan s n)
  | .inf neg => if neg then (fmtF32.nan, flNV) else cordicFree (Config.cordic 0x0E1 (BitVec.ofNat 32 a) 0 n)
  | .fin neg m e =>
    if m = 0 then (fmtF32.sign true + fmtF32.infCode, flDZ)
    else if neg then (fmtF32.nan, flNV)
    else
      match powTwo m e with
      | some k => exactF32 ftz (FVal.ofInt k)
      | none =>
        let r := 2 * log2Val 100 m e + 1
        cordicPut ftz (Config.cordic 0x0E1 (BitVec.ofNat 32 a) 0 n) (.fin (decide (r < 0)) r.natAbs (-101)) (cordicBound n 22)

/-- Sine and cosine of a half-turn angle as values, sharp near zero. -/
def sinCosRef (neg : Bool) (m : Nat) (e : Int) : FVal × FVal :=
  let sc := refSinCos neg m e
  (if topExp m e < -60 then .fin neg (m * refPi) (e - 120) else fixVal sc.1, fixVal sc.2)

/-- One of the two functions for angle code x: `sine`, with the free value `free` for the general result. -/
def fuSinCos (sine : Bool) (free : W32) (ftz : Bool) (n x : Nat) : Nat × Nat :=
  let a := flushCode ftz x
  match fmtF32.value a with
  | .nan s n => nanOut (.nan s n)
  | .inf _ => (fmtF32.nan, flNV)
  | .fin neg m e =>
    if m = 0 then (if sine then (fmtF32.sign neg, 0) else exactF32 false FVal.one)
    else if multOf m e (-1) then
      let sc := refSinCos neg m e
      let y := if sine then sc.1 else sc.2
      -- a zero takes the sign of the free value: no rule states it
      if y.natAbs < 2 ^ 100 then (fmtF32.sign (free.getLsbD 31), 0)
      else exactF32 false (.fin (decide (y < 0)) 1 0)
    else
      let r := sinCosRef neg m e
      cordicPut ftz free (if sine then r.1 else r.2) (cordicBound n 23)

/-- CATAN2 of codes a and b. -/
def fuAtan2 (ftz : Bool) (n xa xb : Nat) : Nat × Nat :=
  let a := flushCode ftz xa
  let b := flushCode ftz xb
  let free := Config.cordic 0x0E5 (BitVec.ofNat 32 a) (BitVec.ofNat 32 b) n
  let va := fmtF32.value a
  let vb := fmtF32.value b
  if va.isNan || vb.isNan then (fmtF32.nan, va.nv ||| vb.nv)
  else
    match va, vb with
    | .inf p, .inf q => exactF32 false (.fin p (if q then 3 else 1) (-2))
    | .fin p my ey, .fin q mx ex =>
      if my = 0 ∧ mx = 0 then (if q then exactF32 false (.fin p 1 0) else (fmtF32.sign p, 0))
      else
        let big := decide (FVal.cmp (.fin false my ey) (.fin false mx ex) > 0)
        let d := if big then divFin mx ex my ey else divFin my ey mx ex
        let num := if big then mx else my
        if num ≠ 0 ∧ !big ∧ !q ∧ topExp d.1 d.2 < -60 then
          cordicPut ftz free (.fin p (d.1 * 2 ^ 240 / refPi) (d.2 - 120)) (cordicBound n 23)
        else
          let z := if num = 0 then 0 else refFix d.1 d.2
          let t := refAtan z
          let u := if big then 2 ^ 119 - t else t
          let w := if q then 2 ^ 120 - u else u
          cordicPut ftz free (.fin p w (-120)) (cordicBound n 23)
    | _, _ => cordicFree free

/-- CTANH. Near zero the exact result lies just below its operand in magnitude. -/
def fuTanh (ftz : Bool) (n x : Nat) : Nat × Nat :=
  let a := flushCode ftz x
  match fmtF32.value a with
  | .nan s n => nanOut (.nan s n)
  | .inf neg => exactF32 false (.fin neg 1 0)
  | .fin neg m e =>
    if m = 0 then (fmtF32.sign neg, 0)
    else
      let E := refExpNeg (2 * refFix m e)
      let ref : FVal := if topExp m e < -40 then .fin neg (m * 2 ^ 120 - 1) (e - 120) else .fin neg ((2 ^ 120 - E) * 2 ^ 120 / (2 ^ 120 + E)) (-120)
      cordicPut ftz (Config.cordic 0x0E6 (BitVec.ofNat 32 a) 0 n) ref (cordicBound n 23)

/-- CSIGM. Below -4096 the exact result is nonzero and less than 2^-5909. -/
def fuSigm (ftz : Bool) (n x : Nat) : Nat × Nat :=
  let a := flushCode ftz x
  match fmtF32.value a with
  | .nan s n => nanOut (.nan s n)
  | .inf neg => if neg then (0, 0) else exactF32 false FVal.one
  | .fin neg m e =>
    if m = 0 then exactF32 false (.fin false 1 (-1))
    else
      let E := refExpNeg (refFix m e)
      let ref : FVal :=
        if neg then
          (if FVal.cmp (.fin false m e) (.fin false 40 0) > 0 then
             (if FVal.cmp (.fin false m e) (.fin false 4096 0) > 0 then .fin false 1 (-5909)
              else let r := exp2Val 120 true (m * log2e) (e - 120); .fin false r.1 r.2)
           else .fin false (E * 2 ^ 120 / (2 ^ 120 + E)) (-120))
        else .fin false (2 ^ 240 / (2 ^ 120 + E)) (-120)
      cordicPut ftz (Config.cordic 0x0E7 (BitVec.ofNat 32 a) 0 n) ref (cordicBound n 23)

/-- CRSQ and CSQRT. -/
def fuRoot (recip : Bool) (ftz : Bool) (n x : Nat) : Nat × Nat :=
  let a := flushCode ftz x
  match fmtF32.value a with
  | .nan s n => nanOut (.nan s n)
  | .inf neg => if neg then (fmtF32.nan, flNV) else if recip then (0, 0) else (fmtF32.infCode, 0)
  | .fin neg m e =>
    let free := Config.cordic (if recip then 0x0E8 else 0x0E9) (BitVec.ofNat 32 a) 0 n
    if m = 0 then
      (if recip then (fmtF32.sign neg + fmtF32.infCode, flDZ)
       else if neg then (fmtF32.sign true, 0) else cordicPut ftz free (.fin false 0 0) (.fin false 0 0))
    else if neg then (fmtF32.nan, flNV)
    else
      match powTwo m e with
      | some k =>
        if k % 2 = 0 then exactF32 ftz (.fin false 1 (if recip then -(k / 2) else k / 2))
        else
          let r := (FVal.sqrt (.fin false m e)).1
          let ref := if recip then (FVal.div FVal.one r).1 else r
          cordicPut ftz free ref (FVal.mul (cordicBound n 23) ref).1
      | none =>
        let r := (FVal.sqrt (.fin false m e)).1
        let ref := if recip then (FVal.div FVal.one r).1 else r
        cordicPut ftz free ref (FVal.mul (cordicBound n 23) ref).1

/-- A function-unit instruction of one result: FPX is taken at issue, before anything is marked (R123). -/
def runFu (i : Ins) (s : State) (g : Bool → Nat → Nat → Nat → Nat × Nat) : Host.Outcome State Fault Refusal :=
  runIns i s (fun t ls =>
    if ls.isEmpty then s.finish i t
    else
      let os := ls.map (fun l => let r := g t.ftz i.f.c.toNat (i.opa t false l) (t.opnd i.f.kb false i.f.b.toNat l)
                                 ({ lane := l, val := r.1, fl := r.2 } : LaneOut))
      s.withFlags i t os (fun t => s.produce i t (ls.flatMap i.dstRefs) (os.map (fun o => Dst.v i.f.d.toNat o.lane (BitVec.ofNat 32 o.val))) 5))

/-- CEXP2 (R152, R153). -/
def execCexp2 (f : Form) (s : State) : Host.Outcome State Fault Refusal := runFu (insW 0x0E0 f) s (fun z n a _ => fuExp2 z n a)
/-- CLOG2 (R152, R153). -/
def execClog2 (f : Form) (s : State) : Host.Outcome State Fault Refusal := runFu (insW 0x0E1 f) s (fun z n a _ => fuLog2 z n a)
/-- CSIN (R152, R153). -/
def execCsin (f : Form) (s : State) : Host.Outcome State Fault Refusal :=
  runFu (insW 0x0E2 f) s (fun z n a _ => fuSinCos true (Config.cordic 0x0E2 (BitVec.ofNat 32 (flushCode z a)) 0 n) z n a)
/-- CCOS (R152, R153). -/
def execCcos (f : Form) (s : State) : Host.Outcome State Fault Refusal :=
  runFu (insW 0x0E3 f) s (fun z n a _ => fuSinCos false (Config.cordic 0x0E3 (BitVec.ofNat 32 (flushCode z a)) 0 n) z n a)
/-- CSINCOS (R151–R153): the sine in d, the cosine in d + 1. -/
def execCsincos (f : Form) (s : State) : Host.Outcome State Fault Refusal :=
  let i := insW 0x0E4 f
  runIns i s (fun t ls =>
    if ls.isEmpty then s.finish i t
    else
      let n := f.c.toNat
      let rs := ls.map (fun l =>
        let a := i.opa t false l
        let c := BitVec.ofNat 32 (flushCode t.ftz a)
        (l, fuSinCos true (Config.cordic 0x0E4 c 0 n) t.ftz n a, fuSinCos false (Config.cordicCos c n) t.ftz n a))
      s.withFlags i t (rs.map (fun e => ({ lane := e.1, val := 0, fl := e.2.1.2 ||| e.2.2.2 } : LaneOut)))
        (fun t => s.produce i t (ls.flatMap i.dstRefs) (rs.flatMap (fun e => pair32 f.d.toNat e.1 e.2.1.1 e.2.2.1)) 5))
/-- CATAN2 (R152, R153). -/
def execCatan2 (f : Form) (s : State) : Host.Outcome State Fault Refusal := runFu (insW 0x0E5 f) s fuAtan2
/-- CTANH (R152, R153). -/
def execCtanh (f : Form) (s : State) : Host.Outcome State Fault Refusal := runFu (insW 0x0E6 f) s (fun z n a _ => fuTanh z n a)
/-- CSIGM (R152, R153). -/
def execCsigm (f : Form) (s : State) : Host.Outcome State Fault Refusal := runFu (insW 0x0E7 f) s (fun z n a _ => fuSigm z n a)
/-- CRSQ (R152, R153). -/
def execCrsq (f : Form) (s : State) : Host.Outcome State Fault Refusal := runFu (insW 0x0E8 f) s (fun z n a _ => fuRoot true z n a)
/-- CSQRT (R152, R153). -/
def execCsqrt (f : Form) (s : State) : Host.Outcome State Fault Refusal := runFu (insW 0x0E9 f) s (fun z n a _ => fuRoot false z n a)

end Sys2Proof.Machine
end

