-- ==== Sys2Proof/Machine/Control.lean ====
section
/-!
DEFINITION. Control instructions (07 R154–R159), and what of a team's accesses is still outstanding (04 R77, R86).
-/
namespace Sys2Proof.Machine

/-- Some access of team i in the sets of bits `p` (R61) is not performed. Copies are counted only when `copies` (R86, R174). -/
def State.pending (s : State) (i p : Nat) (copies : Bool) : Bool :=
  -- a reply of set code 6 is KVX's, of sets T and E (15 R272)
  s.replies.any (fun r => r.team == i && ((nbit p r.set && decide (r.set < 5)) || (r.set == 6 && (nbit p 3 || nbit p 4))))
    || (nbit p 3 && s.batches.any (fun b => b.team == i))
    || (nbit p 4 && s.batches.any (fun b => b.team == i && b.op == 0x162))
    || (nbit p 4 && (s.qreqs.any (fun q => q.team == i) || s.deposits.any (fun d => d.team == i)
          || s.jobs.any (fun j => j.2.held.any (fun d => d.team == i)) || (s.team i).mma.isSome
          || (s.block (s.team i).block).cred.any (fun c => c.team == i)
          || s.copies.any (fun c => c.team == i && (copies || c.qmc))))
    || ((nbit p 1 || nbit p 2) && s.held.any (fun h => match h.writer with | .team j _ _ => j == i | _ => false))
    || (nbit p 2 && s.atoms.any (fun a => a.team == i)) || (p != 0 && (s.team i).rest.isSome)

/-- Accesses of any set that BAR, SLEEP, EVWAIT and retirement wait for (R86). -/
def State.busy (s : State) (i : Nat) : Bool := s.pending i 31 false

/-- The executing team goes on at `target`. -/
def State.jump (s : State) (t : Team) (target : W64) : State :=
  (s.setTeam s.cur { t with pc := target, icount := t.icount + 1 }).account s.cur 1 0 0

/-- Target in LIT (R154). -/
def litTarget (f : Form) : W64 := (f.lit.getD 0).zeroExtend 64

/-- A register target that is not a multiple of 4 within the text (R155). -/
def State.badTarget (s : State) (t : Team) (x : W64) : Bool := x.toNat % 4 != 0 || decide (x.toNat ≥ s.klen t)

/-- BRA (R154). -/
def execBra (f : Form) (s : State) : Host.Outcome State Fault Refusal :=
  runUni (insW 0x1A0 f) s (fun t => s.jump t (litTarget f))

/-- BRV (R155). -/
def execBrv (f : Form) (s : State) : Host.Outcome State Fault Refusal :=
  let i := insW 0x1A1 f
  runIns i s (fun t ls =>
    match ls with
    | [] => s.finish i t
    | l :: _ =>
      let v := t.pr f.a.toNat l
      let bad := ls.filter (fun k => t.pr f.a.toNat k != v)
      if !bad.isEmpty then s.trapLanes i cNUB 0 bad
      else if v then s.jump t (litTarget f)
      else s.finish i t)

/-- BANY (R154). -/
def execBany (f : Form) (s : State) : Host.Outcome State Fault Refusal :=
  let i := insW 0x1A2 f
  runIns i s (fun t ls => if ls.any (fun l => t.pr f.a.toNat l) then s.jump t (litTarget f) else s.finish i t)

/-- BALL (R154). -/
def execBall (f : Form) (s : State) : Host.Outcome State Fault Refusal :=
  let i := insW 0x1A3 f
  runIns i s (fun t ls =>
    if !ls.isEmpty && ls.all (fun l => t.pr f.a.toNat l) then s.jump t (litTarget f) else s.finish i t)

/-- CALL (R154). -/
def execCall (f : Form) (s : State) : Host.Outcome State Fault Refusal :=
  runUni (insW 0x1A4 f) s (fun t => s.jump (t.setS f.d.toNat (t.pc + 12).toNat) (litTarget f))

/-- RET (R154, R155): to the PC in sa. -/
def runRet (i : Ins) (s : State) : Host.Outcome State Fault Refusal :=
  runUni i s (fun t =>
    let x := BitVec.ofNat 64 (t.sr i.f.a.toNat)
    if s.badTarget t x then s.illegal i.len 4 else s.jump t x)

/-- RET, S-form. -/
def execRetS (f : SForm) (s : State) : Host.Outcome State Fault Refusal := runRet (insS 0x1A5 f) s
/-- RET, L-form. -/
def execRetL (f : Form) (s : State) : Host.Outcome State Fault Refusal := runRet (insW 0x1A5 f) s

/-- JMPI (R154, R155): a literal is sign-extended. -/
def execJmpi (f : Form) (s : State) : Host.Outcome State Fault Refusal :=
  let i := insW 0x1A6 f
  runUni i s (fun t =>
    let b : W64 := match f.lit with
      | some l => l.signExtend 64
      | none => BitVec.ofNat 64 (t.sr f.b.toNat)
    let x := BitVec.ofNat 64 (t.sr f.a.toNat) + b
    if s.badTarget t x then s.illegal i.len 4 else s.jump t x)

/-- LOOP (R154). -/
def execLoop (f : Form) (s : State) : Host.Outcome State Fault Refusal :=
  let i := insW 0x1A7 f
  runUni i s (fun t =>
    let x := BitVec.ofNat 64 (t.sr f.d.toNat) - 1
    let t1 := t.setS f.d.toNat x.toNat
    if x = 0 then s.finish i t1 else s.jump t1 (litTarget f))

/-- The mask without lanes. -/
def Team.removeLanes (t : Team) (ls : List Nat) : Team :=
  { t with mask := ls.foldl (fun m l => m &&& ~~~((1 : BitVec 1024) <<< l)) t.mask }

/-- EXIT (R157): waits while an MMA of the team is under way (15 R263); one that removes the last lane, until every access of the
team is performed (04 R86). -/
def runExit (i : Ins) (s : State) : Host.Outcome State Fault Refusal :=
  runIns i s (fun t ls =>
    if ls.isEmpty then s.finish i t
    else
      let u := t.removeLanes (if i.f.uni then t.lanes else ls)
      if t.mma.isSome || (u.mask == 0 && s.busy s.cur) then s else s.finish i u)

/-- EXIT, S-form. -/
def execExitS (f : SForm) (s : State) : Host.Outcome State Fault Refusal := runExit (insS 0x1A8 f) s
/-- EXIT, L-form. -/
def execExitL (f : Form) (s : State) : Host.Outcome State Fault Refusal := runExit (insW 0x1A8 f) s

/-- The block barrier is complete: every team has arrived or retired, and one has arrived (R158). -/
def State.barrierMet (s : State) (b : Nat) : Bool :=
  let k := s.block b
  !k.arrived.isEmpty && k.teams.all (fun i => k.arrived.contains i || (s.team i).st == .retired)

/-- BARRIER_COMPLETION: the generation advances and every arrived team resumes. -/
def State.barrierStep (s : State) (b : Nat) : State :=
  if s.barrierMet b then
    let k := s.block b
    let s1 := s.setBlock b { k with gen := k.gen + 1, arrived := [] }
    k.arrived.foldl (fun s i => if (s.team i).st = .parked ∧ (s.team i).cause = .barrier then s.unpark i else s)
      (k.arrived.foldl (fun s i => s.syncLt (s.team i).core) s1)
  else s

/-- BAR (R158): the team whose arrival completes the barrier does not park. -/
def execBar (f : SForm) (s : State) : Host.Outcome State Fault Refusal :=
  let i := insS 0x1A9 f
  runUni i s (fun t =>
    if s.busy s.cur then s
    else
      let k := s.block t.block
      let s1 := s.setBlock t.block { k with arrived := k.arrived ++ [s.cur] }
      if s1.barrierMet t.block then (s1.finish i t).barrierStep t.block
      else (s1.setTeam s.cur { t.advance i with countOnWake := true }).park s.cur .barrier (BitVec.ofNat 64 k.gen))

/-- SLEEP (R159). -/
def runSleep (i : Ins) (s : State) : Host.Outcome State Fault Refusal :=
  runUni i s (fun t =>
    let n : W64 := match i.f.lit with
      | some l => l.zeroExtend 64
      | none => BitVec.ofNat 64 (t.sr i.f.a.toNat)
    if n = 0 then s.finish i t
    else if s.busy s.cur then s
    else (s.setTeam s.cur { t.advance i with countOnWake := true }).park s.cur .sleep (s.clock + n))

/-- SLEEP, S-form. -/
def execSleepS (f : SForm) (s : State) : Host.Outcome State Fault Refusal := runSleep (insS 0x1AA f) s
/-- SLEEP, L- and X-form. -/
def execSleepL (f : Form) (s : State) : Host.Outcome State Fault Refusal := runSleep (insW 0x1AA f) s

/-- YIELD (R159): the age of the next instruction is the clock after it. -/
def execYield (f : SForm) (s : State) : Host.Outcome State Fault Refusal :=
  let i := insS 0x1AB f
  runUni i s (fun t => s.finish i { t with age := s.clock.toNat + 1 })

/-- TRAP (R154): SOFT with the literal as subcode. -/
def execTrap (f : Form) (s : State) : Host.Outcome State Fault Refusal :=
  let i := insW 0x1AC f
  runUni i s (fun _ => s.trapLanes i cSOFT (f.lit.getD 0).toNat [0])

/-- ILL (03 R67). -/
def execIll (word : W32) (s : State) : Host.Outcome State Fault Refusal := .next (s.illegal (word.toNat % 4) 2)

/-- RESERVED_OPCODE (03 R66): LEN = 11 before a reserved opcode. -/
def execReservedOpcode (word : W32) (s : State) : Host.Outcome State Fault Refusal :=
  .next (if word.toNat % 4 = 3 then s.illegal 0 1 else s.illegal (word.toNat % 4) 2)

end Sys2Proof.Machine
end

