-- ==== Sys2Proof/Machine/Debug.lean ====
section
/-!
DEFINITION. Handler and debug instructions (09 R197–R204), and the debugger's halt and resume (09 R202, 05 R109).
-/
namespace Sys2Proof.Machine

/-- RTE (R198). -/
def execRte (f : SForm) (s : State) : Host.Outcome State Fault Refusal :=
  let i := insS 0x1E0 f
  runUni i s (fun _ => ((s.returnTrap s.cur).rteMma s.cur).account s.cur 1 0 0)

/-- TSB (R199). -/
def runTsb (i : Ins) (s : State) : Host.Outcome State Fault Refusal :=
  runUni i s (fun t =>
    let n := match i.f.lit with
      | some l => l.toNat
      | none => t.sr i.f.a.toNat
    s.finish i (t.setS i.f.d.toNat (if n < 72 then (SMap.get t.side n (0 : W64)).toNat else 0)))

/-- TSB, S-form. -/
def execTsbS (f : SForm) (s : State) : Host.Outcome State Fault Refusal := runTsb (insS 0x1E1 f) s
/-- TSB, L- and X-form. -/
def execTsbL (f : Form) (s : State) : Host.Outcome State Fault Refusal := runTsb (insW 0x1E1 f) s

/-- HALTB (R200). The team goes on, whatever halt of a sibling had reached it, and records TRAPSKID as the origin (R187). -/
def execHaltb (f : SForm) (s : State) : Host.Outcome State Fault Refusal :=
  let i := insS 0x1E2 f
  runUni i s (fun t => (s.finish i { t with skid := none, trapskid := s.originSkid s.cur t.trappc }).haltBlock s.cur)

/-- STEP (R201). -/
def execStep (f : SForm) (s : State) : Host.Outcome State Fault Refusal :=
  let i := insS 0x1E3 f
  runUni i s (fun t => s.finish i { t with stepctl := t.stepctl ||| 1 })

/-- BKPT (R202). -/
def execBkpt (f : SForm) (s : State) : Host.Outcome State Fault Refusal :=
  let i := insS 0x1E4 f
  runUni i s (fun _ => s.trapLanes i cDEBUG 1 [0])

/-- Watch range n of a core. -/
def State.watchOf (s : State) (core n : Nat) : Watch := SMap.get s.watches (4 * core + n) Watch.blank

/-- WATCH (R203). -/
def execWatch (f : Form) (s : State) : Host.Outcome State Fault Refusal :=
  let i := insW 0x1E5 f
  runUni i s (fun t =>
    let a := t.sr f.a.toNat
    let n := a % 4
    let old := s.watchOf t.core n
    if old.en && old.block != t.block then s.finish i (t.setS f.d.toNat 0)
    else
      let w : Watch := if nbit a 11 then
          { core := nbit a 2, slot := nfld a 8 3, rd := nbit a 9, wr := nbit a 10, en := true, lo := t.sr f.b.toNat, hi := t.sr f.c.toNat,
            block := t.block }
        else Watch.blank
      ({ s with watches := SMap.put s.watches (4 * t.core + n) w Watch.blank }).finish i (t.setS f.d.toNat 1))

/-! The Lantern mailbox (R204, 24 R389): low and high words of entry i at 2i and 2i + 1. -/

def State.lantern (s : State) (k : Nat) : W64 := SMap.get s.bel.lantent k 0
def State.setLantern (s : State) (k : Nat) (x : W64) : State :=
  { s with bel := { s.bel with lantent := SMap.put s.bel.lantent k x 0 } }

/-- The entry belongs to function f. -/
def State.lanternOwned (s : State) (f i : Nat) : Bool :=
  let a : W64 := SMap.get s.bel.lantasg i 0
  a.getLsbD 63 && fld a 5 0 == f

/-- Stores both words with FULL set while the entry is empty; whether it did. -/
def State.lanternPut (s : State) (i : Nat) (low high : W64) : State × Bool :=
  if (s.lantern (2 * i + 1)).getLsbD 63 then (s, false)
  else ((s.setLantern (2 * i) low).setLantern (2 * i + 1) (high ||| ((1 : W64) <<< 63)), true)

/-- MBXW (R204): after every earlier access of the team. -/
def execMbxw (f : Form) (s : State) : Host.Outcome State Fault Refusal :=
  let i := insW 0x1E6 f
  runUni i s (fun t =>
    let n := t.sr f.a.toNat
    if n ≥ 64 then s.trapLanes i cBOUND 4 [0]
    else if !s.lanternOwned t.vf n then s.trapLanes i cPERM 4 [0]
    else if s.pending s.cur 31 true then s
    else
      let r := s.lanternPut n (BitVec.ofNat 64 (t.sr f.b.toNat)) (BitVec.ofNat 64 (t.sr f.c.toNat))
      r.1.produce i t (i.dstRefs 0) [.s f.d.toNat (BitVec.ofNat 64 (bnat r.2))] 5)

/-- MBXR (R204). -/
def execMbxr (f : Form) (s : State) : Host.Outcome State Fault Refusal :=
  let i := insW 0x1E7 f
  runUni i s (fun t =>
    let n := t.sr f.a.toNat
    if n ≥ 64 then s.trapLanes i cBOUND 4 [0]
    else if !s.lanternOwned t.vf n then s.trapLanes i cPERM 4 [0]
    else if s.pending s.cur 31 true then s
    else
      let hi := s.lantern (2 * n + 1)
      (s.setLantern (2 * n + 1) (hi &&& ~~~((1 : W64) <<< 63))).produce i t (i.dstRefs 0)
        [.s f.d.toNat (s.lantern (2 * n)), .s (f.d.toNat + 1) hi] 5)

/-- DEBUGGER_HALT (R202): block `num` is halted. Its teams park with cause debug, one whose instruction is not past, or whose boundary has something
to take first (R196), at that boundary; a
parked team keeps its cause, and parks with cause debug when that is resolved. -/
def execDebuggerHalt (s : State) : Host.Outcome State Fault Refusal :=
  let b := s.block s.inp.num
  .next (b.teams.foldl (fun s i =>
    match (s.team i).st with
    | .active =>
      let t := s.team i
      if t.verdict || t.rest.isSome || t.pend.isSome || t.parkNext.isSome || t.cancelPend then s else s.park i .debug 0
    | .ready => s.parkNoted i .debug 0
    | _ => s) (s.setBlock s.inp.num { b with debug := true }))

/-- DEBUGGER_RESUME (05 R109): the teams of block `num` parked with cause debug resume. -/
def execDebuggerResume (s : State) : Host.Outcome State Fault Refusal :=
  let b := s.block s.inp.num
  .next (b.teams.foldl (fun s i =>
    if (s.team i).st = .parked ∧ (s.team i).cause = .debug then s.unpark i else s) (s.setBlock s.inp.num { b with debug := false }))

end Sys2Proof.Machine
end

