-- ==== Sys2Proof/Machine/Records.lean ====
section
/-!
DEFINITION. Table records (11 R207–R210), the parameter block's place (R304), and the caches that a plain access touches
(22 R355–R360, R367).
-/
namespace Sys2Proof.Machine

/-- The fields of a 320-bit record. -/
def recOf (n : Nat) : Rec :=
  { gen := nfld n 319 304, hseed := nfld n 255 224, hlog2 := nfld n 223 219, fanout := nfld n 218 212, sslot := nfld n 211 206,
    slayout := nfld n 205 204, ps := nbit n 203, pd := nbit n 202, pi := nbit n 201, pw := nbit n 200, pr := nbit n 199,
    home := nfld n 198 197, rowlim := nfld n 191 152, rowb := nfld n 151 139, kind := nfld n 138 137, keyw := nfld n 136 135,
    enc := nfld n 134 131, ilv := nfld n 130 129, uniq := nbit n 128, ilog2 := nfld n 127 122, ibase := nfld n 104 64 * 65536,
    base := nfld n 56 0 }

/-- Fan-out in force (R208). -/
def Rec.fan (r : Rec) : Nat := if r.fanout = 0 then 32 else r.fanout
/-- Key bytes of an ordered table. -/
def Rec.kb (r : Rec) : Nat := if r.keyw = 1 then 8 else 4
/-- Bytes of a node of an ordered table, or of a line (R213). -/
def Rec.unit (r : Rec) : Nat := if r.kind = 1 then 128 * ((64 + r.fan * (r.kb + 4) + 127) / 128) else 128
/-- The fixed part of the index region (R213). -/
def Rec.fixed (r : Rec) : Nat :=
  if r.kind = 1 then 4096
  else 4096 + 2 ^ r.hlog2 * 128 + (if r.kind = 3 then 128 * ((4 * r.rowlim + 127) / 128) else 0)

/-- [a, a + n) and [c, c + m) meet. -/
def rangesMeet (a n c m : Nat) : Bool := decide (n > 0) && decide (m > 0) && decide (a < c + m) && decide (c < a + n)

/-- R209: the record with these bits, in this slot, is invalid. -/
def recBad (n slot ctxbase ctxsize : Nat) : Bool :=
  let r := recOf n
  !nbit n 63 || nfld n 303 256 != 0 || nfld n 196 192 != 0 || nfld n 121 105 != 0 || nfld n 62 57 != 0
    || r.keyw == 3 || r.ilv == 3 || r.slayout == 3 || decide (r.enc ≥ 13)
    || decide (r.rowb < 4) || decide (r.rowb > 4096) || r.rowb % 4 != 0 || r.rowlim == 0 || r.base % 256 != 0
    || (r.slayout == 2 && r.sslot == slot)
    || rangesMeet r.base (r.rowlim * r.rowb) ctxbase ctxsize
    || (r.kind != 0 && rangesMeet r.ibase (2 ^ r.ilog2) ctxbase ctxsize)
    || (match r.kind with
        | 0 => r.ilog2 != 0 || r.ibase != 0 || r.hlog2 != 0 || r.fanout != 0
        | 1 => decide (r.keyw > 1) || (r.fanout != 0 && (decide (r.fanout < 4) || decide (r.fanout > 64))) || r.hlog2 != 0
        | 2 => decide (r.hlog2 < 4) || decide (r.hlog2 > 24) || r.fanout != 0
        | _ => r.keyw != 2 || decide (r.hlog2 < 4) || decide (r.hlog2 > 24) || r.fanout != 0 || r.rowb % 16 != 0)
    || (r.kind != 0 && (decide (r.rowlim > 2 ^ 32) || decide (r.ilog2 < 16) || decide (r.ilog2 > 40) || r.ibase % 2 ^ r.ilog2 != 0
          || decide (2 ^ r.ilog2 < r.fixed + r.unit)))

/-- What reading a record answers. -/
inductive RecRead where
  | ok (r : Rec)
  | bad
  | fault (va cause : Nat)
  | perm
  deriving DecidableEq, Repr

/-- The record of a slot of the directory at `dir` (R207, R211). DESIGN CHOICE: a record read from a POISON block counts
as an invalid one, for which the spec states no outcome (log entry 122; unsafe). -/
def State.record (s : State) (vf dir slot : Nat) : State × RecRead :=
  let r := s.vread vf (dir + 40 * slot) 40
  match r.2 with
  | .ok bs p =>
    let n := leNat bs
    if p || recBad n slot (s.regN vf oCTXBASE) (s.regN vf oCTXSIZE) then (r.1, .bad) else (r.1, .ok (recOf n))
  | .fault va c => (r.1, .fault va c)
  | .perm => (r.1, .perm)

/-- The table directory of a team's launch (R304). -/
def State.tdir (s : State) (t : Team) : Nat := fld ((s.job t.job).word 6) 56 0

/-! L1 sectors and L2 grains (R355, R359). -/

def State.l2 (s : State) (die k : Nat) : L2Line := SMap.get s.coh.l2 (dieKey die k) L2Line.absent
def State.setL2 (s : State) (die k : Nat) (x : L2Line) : State :=
  { s with coh := { s.coh with l2 := SMap.put s.coh.l2 (dieKey die k) x L2Line.absent } }
def State.l1 (s : State) (core k : Nat) : L1Sec := SMap.get s.coh.l1 (dieKey core k) L1Sec.absent
def State.setL1 (s : State) (core k : Nat) (x : L1Sec) : State :=
  { s with coh := { s.coh with l1 := SMap.put s.coh.l1 (dieKey core k) x L1Sec.absent } }
def State.nc (s : State) (core k : Nat) : NcSec := SMap.get s.coh.nc (dieKey core k) NcSec.absent
def State.setNc (s : State) (core k : Nat) (x : NcSec) : State :=
  { s with coh := { s.coh with nc := SMap.put s.coh.nc (dieKey core k) x NcSec.absent } }

/-- Keys [lo, lo + n) of a core's or a die's part of a map. -/
def keyIn (part lo n k : Nat) : Bool := k / 2 ^ 52 == part && decide (lo ≤ k % 2 ^ 52) && decide (k % 2 ^ 52 < lo + n)

/-- A core's L1 drops the coherent sectors with keys [lo, lo + n). -/
def State.dropL1s (s : State) (core lo n : Nat) : State :=
  { s with coh := { s.coh with l1 := s.coh.l1.filter (fun e => !keyIn core lo n e.1) } }

/-- A grain leaves the L1s of a die named in its holder vector. -/
def State.dropHolders (s : State) (die k : Nat) : State :=
  (upTo 24).foldl (fun s c => if (s.l2 die k).holders.getLsbD c then s.dropL1s (24 * die + c) k ((s.l2 die k).size / 32) else s) s

/-- An L2 loses a grain (R359, last row). -/
def State.loseGrain (s : State) (die k : Nat) : State := (s.dropHolders die k).setL2 die k L2Line.absent

/-- The grains that n bytes of a translation cover: (address, bytes). -/
def State.grains (s : State) (t : Tr) (n : Nat) : List (Nat × Nat) :=
  (cutRange 4097 32 t.addr n).foldl (fun l e =>
    let g := s.grainAt t e.1
    let x := (e.1 / g * g, g)
    if l.contains x then l else l ++ [x]) []

/-- Bytes of the image, of either space. -/
def State.imageBytes (s : State) (sys : Bool) (a n : Nat) : List Byte := if sys then readMem s.sysmem a n else s.readDev a n

/-! Messages (R357). -/

/-- A message on its way between an L2 and a home. -/
def State.sendMsg (s : State) (i : Instr) : State := { s with coh := { s.coh with net := s.coh.net ++ [i] } }

/-- A request of a die for a grain. -/
def cohRequest (sys : Bool) (die core grain size colour : Nat) : CohMsg :=
  { die := die, grain := grain, size := size, sys := sys, colour := colour, core := core, grant := .i, dirty := false, op := 0, ty := .n32,
    addr := grain, x := 0, y := 0 }

/-- Requests of an L2, as the directory distinguishes them. -/
inductive ReqKind where
  | rds | rdx | own | upg | amo
  deriving DecidableEq, Repr

def reqOf (i : Instr) : Option (ReqKind × CohMsg) :=
  match i with
  | .rds m => some (.rds, m)
  | .rdxMsg m => some (.rdx, m)
  | .ownnd m => some (.own, m)
  | .upg m => some (.upg, m)
  | .atomicreq m => some (.amo, m)
  | _ => none

def reqMsg (k : ReqKind) (m : CohMsg) : Instr :=
  match k with
  | .rds => .rds m | .rdx => .rdxMsg m | .own => .ownnd m | .upg => .upg m | .amo => .atomicreq m

/-- A message that answers or still carries a die's request for a grain. -/
def asksFor (die grain : Nat) (sys : Bool) (i : Instr) : Bool :=
  let is := fun (m : CohMsg) => m.die == die && m.grain == grain && m.sys == sys && m.tag == 0
  match i with
  | .rds m => is m | .rdxMsg m => is m | .ownnd m => is m | .upg m => is m | .data m => is m | .retry m => is m | .wb m => is m
  | _ => false

/-- The die has a request for the grain under way: it sends no second one. -/
def State.asked (s : State) (die grain : Nat) (sys : Bool) : Bool :=
  s.coh.net.any (asksFor die grain sys) || s.coh.waiting.any (asksFor die grain sys)
    || s.coh.txns.any (fun t => asksFor die grain sys t.req || (match t.next with | some i => asksFor die grain sys i | none => false))

/-- The die's L2 may write the grain: M, or E and owned toward the host (R356, R360). -/
def State.mayWrite (s : State) (die : Nat) (sys : Bool) (grain size : Nat) : Bool :=
  let st := (s.l2 die (lineKey sys grain)).st
  st == .m || (st == .e && (!sys || (cutRange 9 64 grain size).all (fun e => (SMap.get s.coh.hub (e.1 / 64) HubLine.absent).owned)))

/-- A die asks to own a grain; a read of it is asked for too (`wr` false). -/
def State.askGrain (s : State) (m : CohMsg) (wr : Bool) : State :=
  if s.asked m.die m.grain m.sys then s
  else if !wr then s.sendMsg (.rds m)
  else if (s.l2 m.die (lineKey m.sys m.grain)).st = .i then s.sendMsg (.rdxMsg m) else s.sendMsg (.upg m)

/-! L2 tags (23 R379): the slice of a super-line by SLICEMASK, its set in the slice by its low bits (log entry 100). -/

def sliceHash (a : Nat) : Nat := (upTo 8).foldl (fun h g => h ^^^ nfld a (13 + 5 * g) (9 + 5 * g)) 0

/-- The slices that a function's lines lie in, and the ways that its fills take. -/
def State.slicesOf (s : State) (f : Nat) : List Nat :=
  let m := fld (s.reg f oL2CFG) 63 32
  (upTo Config.l2Slices).filter (fun i => m == 0 || nbit m i)
def State.waysOf (s : State) (f : Nat) : List Nat :=
  let m := fld (s.reg f oL2CFG) 15 0
  (upTo Config.l2Ways).filter (fun i => m == 0 || nbit m i)

/-- The set of a die's L2 that a super-line of function f falls into. -/
def State.l2Set (s : State) (die line f : Nat) : Nat :=
  let ls := s.slicesOf f
  die * 2 ^ 20 + 256 * ls.getD (sliceHash (line % 2 ^ 46 * 512) % ls.length) 0 + line % Config.l2Sets
def State.tagsAt (s : State) (k : Nat) : List (Nat × Nat) := SMap.get s.coh.tags k []
def State.setTags (s : State) (k : Nat) (l : List (Nat × Nat)) : State := { s with coh := { s.coh with tags := SMap.put s.coh.tags k l [] } }

/-- The line of a grain is its set's most recently used. -/
def State.touchTag (s : State) (die k : Nat) : State :=
  let n := s.l2Set die (k / 16) (s.l2 die k).colour
  match (s.tagsAt n).find? (fun e => e.1 == k / 16) with
  | some e => s.setTags n ((s.tagsAt n).filter (· != e) ++ [e])
  | none => s

/-! The L1s. 256 KiB are 512 tags of 512 bytes (01 R9). -/

/-- Dirty bytes of a non-coherent sector as parts. -/
def NcSec.parts (x : NcSec) (a : Nat) : List Part :=
  (upTo 32).filterMap (fun i => if x.dirty.getLsbD i then some { sys := false, addr := a + i, bytes := [x.bytes.getD i 0], cmp := x.cmp } else none)

/-- A non-coherent sector's dirty bytes go to its home L2 (R367), which writes them back at once, or holds them dirty where the block's home lacks storage
(R358); it stays clean. While the dirty log has no room the sector stays dirty, and is written when there is (21 R343). -/
def State.flushSector (s : State) (core k : Nat) : State :=
  let x := s.nc core k
  let ps := x.parts (32 * k)
  let clean := fun (s : State) => s.setNc core k { x with dirty := 0 }
  if x.dirty = 0 then s
  else
    match s.ownerOf (32 * k) with
    | none => clean s
    | some f =>
      if s.logShort f ps then
        (if s.held.any (fun h => h.op == .flush core k) then s
         else let s1 := s.holdWrite f ps .l2 true 0 (.flush core k); if s1.fsqOn 0 then s1.askLog f else s1)
      else if s.poisoned (32 * k) then clean s
      else if s.blockHeld (32 * k) || !(s.shortDies (s.storageAsks f ps)).isEmpty then (clean (s.lateParts f ps)).writeBack (32 * k) 32
      else clean (s.storeParts f ps false .l2 0 .put).1

/-- Super-lines of context images that a core's L1 holds (05 R104). -/
def State.ctxTags (s : State) (core : Nat) : List (Nat × Nat) := SMap.get s.coh.ctx core []
def State.setCtxTags (s : State) (core : Nat) (l : List (Nat × Nat)) : State :=
  { s with coh := { s.coh with ctx := SMap.put s.coh.ctx core l [] } }

/-- Room for a super-line in a core's L1: with all tags in use one is free's choice (log entry 95), its dirty sectors written back. -/
def State.l1Room (s : State) (core line : Nat) : State :=
  let mine := fun (k : Nat) => k / 2 ^ 52 == core
  let add := fun (l : List Nat) (k : Nat) => if l.contains (k % 2 ^ 52 / 16) then l else l ++ [k % 2 ^ 52 / 16]
  let tags := (s.coh.nc.filter (fun e => mine e.1)).foldl (fun l e => add l e.1) ((s.coh.l1.filter (fun e => mine e.1)).foldl (fun l e => add l e.1) [])
  let held := s.ctxTags core
  let n := tags.length + held.length
  let x := Config.l1Victim s.fresh % n
  if tags.contains line || decide (n < Config.l1Tags) then s
  else if x ≥ tags.length then s.useFresh.setCtxTags core (dropAt held (x - tags.length))
  else
    let v := tags.getD x 0
    let s1 := (upTo 16).foldl (fun s i => s.flushSector core (16 * v + i)) s.useFresh
    { s1 with coh := { s1.coh with l1 := s1.coh.l1.filter (fun e => !keyIn core (16 * v) 16 e.1),
                                   nc := s1.coh.nc.filter (fun e => !keyIn core (16 * v) 16 e.1 || e.2.dirty != 0) } }

/-- A core's L1 holds a super-line of a context image: function and VA div 512. -/
def State.ctxTag (s : State) (core f line : Nat) : State :=
  if (s.ctxTags core).contains (f, line) then s
  else
    let s1 := s.l1Room core (2 ^ 50)
    s1.setCtxTags core (s1.ctxTags core ++ [(f, line)])

/-- A core's L1 takes sectors of a grain under a lease, with the bytes of the image. -/
def State.fillL1 (s : State) (core : Nat) (sys : Bool) (a n : Nat) (le wts : W64) : State :=
  (upTo (n / 32)).foldl (fun s i => s.setL1 core (lineKey sys a + i) { le := le, wts := wts, bytes := s.imageBytes sys (a + 32 * i) 32 })
    (s.l1Room core (lineKey sys a / 16))

/-- The core is named in the grain's holder vector. -/
def L2Line.hold (x : L2Line) (core : Nat) : L2Line := { x with holders := x.holders ||| ((1 : BitVec 24) <<< (core % 24)) }

/-- The L2 grants a lease for a read (R359): RTS, the L1 sectors and LT. -/
def State.leaseRead (s : State) (core die : Nat) (sys : Bool) (grain size : Nat) : State :=
  let k := lineKey sys grain
  let x := s.l2 die k
  let lt := s.lt core
  let s1 := s.setL2 die k { x.hold core with rts := maxW x.rts (maxW (x.wts + 8) (lt + 8)) }
  ((s1.touchTag die k).fillL1 core sys grain size (maxW lt x.wts + 8) x.wts).setLt core (maxW lt x.wts)

/-- The L2 has performed a store of a core on a grain in M or E (R359), at logical time t: the core's sectors of it follow. -/
def State.leaseWriteAt (s : State) (core die : Nat) (sys : Bool) (grain size : Nat) (t : W64) : State :=
  let k := lineKey sys grain
  let x := s.l2 die k
  let s1 := s.setL2 die k { x.hold core with st := .m, wts := t, rts := t }
  ((s1.touchTag die k).fillL1 core sys grain size t t).setLt core t

/-- The logical time of a store: after every lease of its grain. -/
def State.storeTime (s : State) (core die : Nat) (sys : Bool) (grain : Nat) : W64 := maxW (s.lt core) ((s.l2 die (lineKey sys grain)).rts + 1)

def State.leaseWrite (s : State) (core die : Nat) (sys : Bool) (grain size : Nat) : State :=
  s.leaseWriteAt core die sys grain size (s.storeTime core die sys grain)

/-- The L2 has performed a write of an engine of its die, as one of a core (R354, R359): no L1 is touched. The die's engines have one logical time,
which a core that synchronizes follows (log entry 99). -/
def State.engineWrite (s : State) (die : Nat) (sys : Bool) (grain : Nat) : State :=
  let k := lineKey sys grain
  let x := s.l2 die k
  let t := maxW (s.lt (Config.cores + die)) (x.rts + 1)
  ((s.setL2 die k { x with st := .m, wts := t, rts := t }).touchTag die k).setLt (Config.cores + die) t

/-- The L1s of a die lose the grains of a translation that its L2 may write. -/
def State.dropGrains (s : State) (die : Nat) (t : Tr) (n : Nat) : State :=
  (s.grains t n).foldl (fun s e =>
    let k := lineKey t.sys e.1
    if s.mayWrite die t.sys e.1 e.2 then (let s1 := s.dropHolders die k; s1.setL2 die k { s1.l2 die k with holders := 0 }) else s) s

/-! Reads and writes of a core. -/

/-- A core's read joins its die's request for a grain, which is under way: the grain comes to its L1 too (R359). -/
def State.joinRead (s : State) (die core : Nat) (sys : Bool) (grain : Nat) : State :=
  let e := (dieKey die (lineKey sys grain), core)
  if s.coh.merged.contains e then s else { s with coh := { s.coh with merged := s.coh.merged ++ [e] } }

/-- Bytes within one sector as a core reads them (R359, R367): its L1's under a lease, else the image's, through its die's L2. -/
def State.readSector (s : State) (core slot : Nat) (t : Tr) (a n : Nat) : State × List Byte :=
  let k := lineKey t.sys a
  let cut := fun (bs : List Byte) => (bs.drop (a % 32)).take n
  if t.cls = 0 then
    (if (s.nc core k).bytes.isEmpty then
       let s1 := (s.l1Room core (k / 16)).setNc core k { bytes := s.imageBytes t.sys (a / 32 * 32) 32, dirty := 0, cmp := t.cmp }
       (s1, cut (s1.nc core k).bytes)
     else (s, cut (s.nc core k).bytes))
  else
    let x := s.l1 core k
    if !x.bytes.isEmpty && decide ((s.lt core).toNat ≤ x.le.toNat) then (s.setLt core (maxW (s.lt core) x.wts), cut x.bytes)
    else
      let g := s.grainAt t a
      let die := dieOf core
      let bs := s.imageBytes t.sys a n
      if (s.l2 die (lineKey t.sys (a / g * g))).st = .i then
        ((if s.asked die (a / g * g) t.sys then s.joinRead die core t.sys (a / g * g)
          else s.askGrain { cohRequest t.sys die core (a / g * g) g t.fn with slot := slot } false), bs)
      else (s.leaseRead core die t.sys (a / g * g) g, bs)

/-- Bytes as the image gives them, with those that a core's L1 holds dirty of a non-coherent page (R367). -/
def State.withDirty (s : State) (core : Nat) (t : Tr) (bs : List Byte) : List Byte :=
  if t.cls ≠ 0 ∨ s.coh.nc.isEmpty then bs
  else (bs.zip (upTo bs.length)).map (fun e =>
    let a := t.addr + e.2
    let x := s.nc core (lineKey t.sys a)
    if x.dirty.getLsbD (a % 32) then x.bytes.getD (a % 32) 0 else e.1)

/-- A core's clean non-coherent sector leaves its L1. -/
def State.dropClean (s : State) (core k : Nat) : State := if (s.nc core k).dirty = 0 then s.setNc core k NcSec.absent else s

/-- n bytes as a core reads them; whether one lies in a POISON block, which is never cached (R356). -/
def State.coreRead (s0 : State) (core slot : Nat) (t : Tr) (n : Nat) : State × List Byte × Bool :=
  let s := if t.sys then s0 else s0.touchFrame t.addr
  if (s.readTr t n).2 then (s, (s.readTr t n).1, true)
  else
    let r := (cutRange 4097 32 t.addr n).foldl (fun (a : State × List Byte) e =>
      let q := a.1.readSector core slot t e.1 e.2
      (q.1, a.2 ++ q.2)) (s, [])
    (r.1, r.2, false)

/-- A core has performed a write of two places in the image as one (04 R87): both grains are written at one logical time. -/
def State.coreWroteBoth (s : State) (core : Nat) (t : Tr) (n : Nat) (t' : Tr) (n' : Nat) : State :=
  let die := dieOf core
  let gs := ((s.grains t n).map (fun e => (t.sys, e)) ++ (s.grains t' n').map (fun e => (t'.sys, e))).filter (fun e =>
    (s.l2 die (lineKey e.1 e.2.1)).st != .i)
  let at_ := gs.foldl (fun m e => maxW m (s.storeTime core die e.1 e.2.1)) (s.lt core)
  gs.foldl (fun s e => s.leaseWriteAt core die e.1 e.2.1 e.2.2 at_) s

/-- A core has performed a write in the image through its L2. -/
def State.coreWrote (s : State) (core : Nat) (t : Tr) (n : Nat) : State :=
  (s.grains t n).foldl (fun s e =>
    if (s.l2 (dieOf core) (lineKey t.sys e.1)).st = .i then s else s.leaseWrite core (dieOf core) t.sys e.1 e.2) s

/-- A byte of a non-coherent sector in the core's L1, which holds it. -/
def State.putNc (s : State) (core a : Nat) (b : Byte) (cmp : Bool) : State :=
  let x := s.nc core (a / 32)
  s.setNc core (a / 32) { bytes := x.bytes.set (a % 32) b, dirty := x.dirty ||| ((1 : BitVec 32) <<< (a % 32)), cmp := cmp }

/-- A core's write: into its L1 where the class is `ncoh` (R367), else into its L2 (R359). A grain with a POISON block takes ECC (R356). -/
def State.coreStore (s : State) (core : Nat) (t : Tr) (bs : List Byte) (w : Writer) (va : Nat) : State × Stored :=
  if t.cls = 0 then
    (if (s.readTr t bs.length).2 then (s, .poison)
     else
       let s1 := (s.coreRead core 0 t bs.length).1
       (((upTo bs.length).foldl (fun s i => s.putNc core (t.addr + i) (bs.getD i 0) t.cmp) s1), .done))
  else
    if (s.readTr t bs.length).2 then (s, .poison)
    else
    let r := s.storeDirty t.fn (t.parts bs) w va .put
    match r.2 with
    | .done => (r.1.coreWrote core t bs.length, .done)
    | x => (r.1, x)

/-- The grains that a write by a die needs and its L2 may not write yet (R359, R360); a write to one in POISON takes ECC at its home. -/
def State.engineLacks (s : State) (die : Nat) (t : Tr) (n : Nat) : List (Nat × Nat) :=
  if t.cls = 0 then [] else (s.grains t n).filter (fun e => !s.mayWrite die t.sys e.1 e.2 && !s.grainBad t.sys e.1 e.2)
def State.unowned (s : State) (core : Nat) (t : Tr) (n : Nat) : List (Nat × Nat) := s.engineLacks (dieOf core) t n

/-- They are asked for. -/
def State.askOwned (s : State) (core slot : Nat) (t : Tr) (n : Nat) : State :=
  (s.unowned core t n).foldl (fun s e => s.askGrain { cohRequest t.sys (dieOf core) core e.1 e.2 t.fn with slot := slot } true) s

/-! Engines: requests of their die's L2, with no L1 (R354); core 96 + die stands for them in messages. -/

/-- An access by an engine of a die: its L2 asks for what it lacks, and has performed a write of what it may write. -/
def State.touchEngine (s0 : State) (die : Nat) (t : Tr) (n : Nat) (wr : Bool) : State :=
  let s := if t.sys then s0 else s0.touchFrame t.addr
  if t.cls = 0 then s
  else
    (s.grains t n).foldl (fun s e =>
      let m := cohRequest t.sys die (96 + die) e.1 e.2 t.fn
      if s.grainBad t.sys e.1 e.2 then s
      else if wr then (if s.mayWrite die t.sys e.1 e.2 then s.engineWrite die t.sys e.1 else s.askGrain m true)
      else if (s.l2 die (lineKey t.sys e.1)).st = .i then s.askGrain m false else s.touchTag die (lineKey t.sys e.1)) s

end Sys2Proof.Machine
end

