-- ==== Sys2Proof/Machine/Scaled.lean ====
section
/-!
DEFINITION. Scaled blocks (14 R245–R253): scales, element order, I4X outliers, exact element values, and the place of a block's
scale word.
-/
namespace Sys2Proof.Machine

/-- The value of an E8M1 scale (R245). -/
def scaleVal (s : Nat) : FVal :=
  if s % 512 = 511 then .nan false false else .fin false (2 + s % 2) (((s / 2 % 256 : Nat) : Int) - 128)

/-- The formats of scaled blocks by encoding code (R248): 8 e4m3, 9 e5m2, 10 e2m1, 11 i4x. -/
def scaledFmt (enc : Nat) : Fmt := if enc = 8 then fmtE4m3 else if enc = 9 then fmtE5m2 else fmtE2m1
def scaledTy (enc : Nat) : Ty := if enc = 8 then .e4m3 else if enc = 9 then .e5m2 else if enc = 10 then .e2m1 else .i4x
/-- Element bits and block bytes. -/
def scaledBits (enc : Nat) : Nat := if enc ≤ 9 then 8 else 4
def scaledBytes (enc : Nat) : Nat := if enc ≤ 9 then 32 else 16
/-- The encoding of a scaled type. -/
def encOfTy (ty : Ty) : Nat := match ty with | .e4m3 => 8 | .e5m2 => 9 | .e2m1 => 10 | _ => 11

/-- Stored position of element i (R210). -/
def ilvPos (ilv i : Nat) : Nat :=
  if ilv = 1 then 2 * (i % 16) + i / 16 else if ilv = 2 then 4 * (i % 8) + i / 8 else i

/-- Code of element i in a block read as one little-endian number. -/
def blockCode (enc ilv blk i : Nat) : Nat := (blk / 2 ^ (scaledBits enc * ilvPos ilv i)) % 2 ^ scaledBits enc

/-- The block with element i's code replaced. -/
def setBlockCode (enc ilv blk i code : Nat) : Nat :=
  let w := scaledBits enc
  let p := 2 ^ (w * ilvPos ilv i)
  blk - blockCode enc ilv blk i * p + (code % 2 ^ w) * p

/-- A 4-bit two's-complement code. -/
def nib (c : Nat) : FVal := FVal.ofInt (toSigned 4 c)

/-- The elements of an I4X block, pair by pair from pair j on (R253). -/
def i4xGo (n j : Nat) (first : Bool) (olo : Nat) (c : Nat → Nat) : List FVal :=
  match n with
  | 0 => []
  | k + 1 =>
    let a := c (2 * j)
    let b := c (2 * j + 1)
    let lo := if first then olo else 0
    if a = 8 then fmtE4m3.value (b * 16 + lo) :: .fin false 0 0 :: i4xGo k (j + 1) false olo c
    else if b = 8 then .fin false 0 0 :: fmtE4m3.value (a * 16 + lo) :: i4xGo k (j + 1) false olo c
    else nib a :: nib b :: i4xGo k (j + 1) first olo c

/-- The 32 element values of a block before its scale. -/
def blockElems (enc : Nat) (w : Nat) (c : Nat → Nat) : List FVal :=
  if enc = 11 then i4xGo 16 0 true (w / 4096 % 16) c else (upTo 32).map (fun i => (scaledFmt enc).value (c i))

/-- The 32 block values (R250). -/
def blockVals (enc : Nat) (w : Nat) (c : Nat → Nat) : List FVal :=
  let s := scaleVal (w % 512)
  (blockElems enc w c).map (fun x => (FVal.mul x s).1)

/-- A value rounded to f32, canonical for NaN, without flags. -/
def toF32 (v : FVal) : Nat := (fmtF32.put .rne false v).1

/-- Where a block's scale word lies (R249): its offset in row k of the table itself, or of the table in SSLOT. -/
def scaleOff (r : Rec) (n o : Nat) : Nat := if r.slayout = 1 then (r.rowb / (n + 2)) * n + 2 * (o / n) else 2 * (o / n)

/-- Order 6 of R163 on the scale place: the scale table's record where the layout has one. -/
def noScale (r : Rec) (sc : Option Rec) (n : Nat) : Bool :=
  if r.slayout = 1 then r.rowb / (n + 2) == 0
  else if r.slayout = 2 then (match sc with | some x => x.kind != 0 | none => true)
  else true

end Sys2Proof.Machine
end

