-- ==== Sys2Proof/Machine/Copies.lean ====
section
/-!
DEFINITION. Copy requests (17 R276–R279): the fields of a record, the places of its rows, and which bytes an outstanding copy still
owns (04 R89).
-/
namespace Sys2Proof.Machine

/-- The fields of a request record (R276). -/
structure Copy where
  kind : Nat
  fslot : Nat
  tslot : Nat
  cmask : Nat
  fkey : Nat
  tkey : Nat
  foff : Nat
  toff : Nat
  rlen : Nat
  nrows : Nat
  fstride : Nat
  tstride : Nat
  bar : Nat
  /-- Every reserved bit is zero. -/
  clean : Bool
  deriving DecidableEq, Repr

/-- The record with these 512 bits. -/
def copyOf (n : Nat) : Copy :=
  { kind := nfld n 3 0, fslot := nfld n 13 8, tslot := nfld n 21 16, cmask := nfld n 27 24, fkey := nfld n 127 64,
    tkey := nfld n 191 128, foff := nfld n 203 192, toff := nfld n 235 224, rlen := nfld n 268 256, nrows := nfld n 304 288,
    fstride := nfld n 351 320, tstride := nfld n 383 352, bar := nfld n 405 384,
    clean := nfld n 511 406 == 0 && nfld n 319 305 == 0 && nfld n 287 269 == 0 && nfld n 255 236 == 0 && nfld n 223 204 == 0
      && nfld n 63 28 == 0 && nfld n 23 22 == 0 && nfld n 15 14 == 0 && nfld n 7 4 == 0 }

/-- The record of a queued request. -/
def CopyReq.copy (c : CopyReq) : Copy := copyOf (leNat (wordsLe c.words))

/-- Sides of a kind (R277). -/
def Copy.srcTable (c : Copy) : Bool := c.kind == 0 || c.kind == 2 || c.kind == 3
def Copy.dstTable (c : Copy) : Bool := c.kind == 1 || c.kind == 2
/-- Cores written by each row of a multicast. -/
def Copy.targets (c : Copy) : List Nat := (upTo 4).filter (nbit c.cmask)
/-- Bytes counted for each row, and of the whole destination. -/
def Copy.rowBytes (c : Copy) : Nat := c.rlen * (if c.kind = 4 then c.targets.length else 1)
def Copy.bytes (c : Copy) : Nat := c.nrows * c.rowBytes
/-- Key or core-memory offset of row r at either side. -/
def Copy.from (c : Copy) (r : Nat) : Nat := (c.fkey + r * c.fstride) % 2 ^ 64
def Copy.to (c : Copy) (r : Nat) : Nat := (c.tkey + r * c.tstride) % 2 ^ 64

/-- Bytes of a list key by the source's KEYW. -/
def keyBytes (keyw : Nat) : Nat := if keyw = 0 then 4 else if keyw = 1 then 8 else 16

/-- The byte of the core memories at a `[cl:]` offset of a block (R74). -/
def Block.at (b : Block) (x : Nat) : Nat := 2 ^ 20 * (4 * b.cluster + x / 2 ^ 20 % 4) + b.base + x % 2 ^ 20
/-- n bytes at a `[cl:]` offset lie in the block's allocation. -/
def Block.holds (b : Block) (x n : Nat) : Bool := decide (x < 2 ^ 22) && decide (x % 2 ^ 20 + n ≤ b.size)

/-- Offsets in `[cl:]` form written by row r in core memory. -/
def Copy.coreDests (c : Copy) (r : Nat) : List Nat :=
  if c.kind = 4 then c.targets.map (fun k => 2 ^ 20 * k + c.to r % 2 ^ 20) else if c.dstTable then [] else [c.to r]

/-- The address of row r in the destination table. -/
def CopyReq.destVa (c : CopyReq) (r : Nat) : Option Nat :=
  match c.dest with
  | some d => some (d.base + c.copy.to r * d.rowb + c.copy.toff)
  | none => none

/-- Rows still to come. -/
def CopyReq.left (c : CopyReq) : List Nat := c.todo ++ c.waiting.map (fun w => w.1)

/-! Places without effect on the tables of translation. -/

/-- The device or system address of a VA, where its walk succeeds. -/
def State.peek (s : State) (f va : Nat) : Option (Bool × Nat) :=
  if !nbit (s.regN f oPTROOT) 0 then none
  else
    match s.findLeaf f va (nfld (s.regN f oPTROOT) 51 21 * 2 ^ 21) 0 4 with
    | .inr _ => none
    | .inl (_, e, lvl) =>
      let g := nfld e 51 16 * 65536 + va % 2 ^ vaLow lvl
      some (if nfld e 14 13 = 0 then (false, s.regN f oDABASE + g) else (true, g))

/-- n bytes at VA `va` of function f meet m bytes at a device or system address. -/
def State.vaMeets (s : State) (f va n : Nat) (sys : Bool) (a m : Nat) : Bool :=
  (cutRange 4097 65536 va n).any (fun e =>
    match s.peek f e.1 with
    | some p => p.1 == sys && rangesMeet p.2 e.2 a m
    | none => false)

/-- The request is one of CPK that still owns bytes of core memory in [k, k + n). -/
def State.ownsCore (s : State) (c : CopyReq) (k n : Nat) : Bool :=
  !c.qmc && c.left.any (fun r => (c.copy.coreDests r).any (fun x => rangesMeet ((s.block c.block).at x) c.copy.rlen k n))

/-- The request still owns bytes at a device or system address. -/
def State.ownsDev (s : State) (c : CopyReq) (sys : Bool) (a n : Nat) : Bool :=
  !c.qmc && c.left.any (fun r =>
    match c.destVa r with
    | some va => s.vaMeets c.vf va c.copy.rlen sys a n
    | none => false)

/-- n bytes at a VA of function f lie in a place that an outstanding copy still owns: reads and writes of them by any agent wait (R89). -/
def State.vaOwned (s : State) (f va n : Nat) : Bool :=
  s.copies.any (fun c => !c.qmc && (cutRange 4097 65536 va n).any (fun e =>
    match s.peek f e.1 with | some p => s.ownsDev c p.1 p.2 e.2 | none => false))

/-- Some outstanding copy writes into the rows of a table, through its addresses or others of the same frames (R89): engines that read whole tables
wait for it. -/
def State.copiesInto (s : State) (vf : Nat) (r : Rec) : Bool :=
  s.copies.any (fun c => !c.qmc && c.left.any (fun k =>
    match c.destVa k with
    | some va => (c.vf == vf && rangesMeet va c.copy.rlen r.base (r.rowlim * r.rowb))
        || (cutRange 2 65536 va c.copy.rlen).any (fun e =>
             match s.peek c.vf e.1 with | some p => s.vaMeets vf r.base (r.rowlim * r.rowb) p.1 p.2 e.2 | none => false)
    | none => false))

/-! Barrier objects (R282). -/

/-- The two words of the object at byte k of the core memories. -/
def State.barWord (s : State) (k h : Nat) : Nat := leNat (readMem s.cm (k + 8 * h) 8)

/-- The object's words replaced. -/
def State.setBar (s : State) (k w0 w1 : Nat) : State :=
  { s with cm := writeMem s.cm k (natLe 8 w0 ++ natLe 8 w1) }

/-- COUNT has reached 0: every team in WAIT resumes at its BWAIT and WAIT is cleared. -/
def State.barRelease (s : State) (bi k : Nat) : State :=
  let w := s.barWord k 1
  if s.barWord k 0 % 2 ^ 32 ≠ 0 then s
  else
    let s1 := s.setBar k (s.barWord k 0) (w - w % 256)
    (s.block bi).teams.foldl (fun s i =>
      let t := s.team i
      if nbit w t.teamid && t.st == .parked && t.cause == .barrier && !(s.block bi).arrived.contains i
          && (s.block bi).at t.arg.toNat == k then s.unpark i else s) s1

/-- A count of c bytes on the object, with a failure and absent keys (R281, R282). -/
def State.barCount (s : State) (bi k c err miss : Nat) : State :=
  let w0 := s.barWord k 0
  let w1 := s.barWord k 1
  let n := w0 % 2 ^ 32
  let m := min 65535 (nfld w1 47 32 + miss)
  let e0 := nfld w1 23 16
  let e1 := if e0 ≠ 0 then e0 else if err ≠ 0 then err else if c > n then 5 else 0
  let w := w1 - nfld w1 47 32 * 2 ^ 32 - e0 * 2 ^ 16 + m * 2 ^ 32 + e1 * 2 ^ 16
  (s.setBar k (w0 - n + (n - c)) w).barRelease bi k

end Sys2Proof.Machine
end

