-- ==== Sys2Proof/Machine/Memory.lean ====
section
/-!
DEFINITION. The memory instructions (08 R160–R179): finding the bytes, the ordered checks, loads, stores, scaled blocks,
atomics, fences. A load's values are bound once its lines are in and its reply comes late; a store is performed on the one image of memory
once its die's L2 owns the grains, an atomic at its home (log entry 14).
-/
namespace Sys2Proof.Machine

/-- Where an access falls: a table row through its translation, or a byte of the core memories (2^20 × core + offset). -/
inductive Place where
  | tab (t : Tr) (va : Nat)
  | core (k : Nat)
  deriving DecidableEq, Repr

/-- An access of a lane whose checks passed. -/
structure Acc where
  lane : Nat
  key : Nat
  off : Nat
  place : Place
  deriving DecidableEq, Repr

/-- A lane's cause. -/
structure Fail where
  lane : Nat
  cls : Nat
  sub : Nat
  key : Nat
  off : Nat
  deriving DecidableEq, Repr

/-- What the checks of all lanes found. -/
structure Plan where
  fails : List Fail
  pages : List PageHit
  accs : List Acc
  deriving DecidableEq, Repr

def Plan.empty : Plan := { fails := [], pages := [], accs := [] }
def Plan.fail (p : Plan) (l cls sub key off : Nat) : Plan :=
  { p with fails := p.fails ++ [{ lane := l, cls := cls, sub := sub, key := key, off := off }] }
def Plan.page (p : Plan) (l va cause : Nat) (w : Bool) (key off : Nat) : Plan :=
  { p with pages := p.pages ++ [{ lane := l, va := va, cause := cause, w := w, key := key, off := off }] }
def Plan.acc (p : Plan) (l key off : Nat) (x : Place) : Plan :=
  { p with accs := p.accs ++ [{ lane := l, key := key, off := off, place := x }] }

/-- What an instruction asks of the places it reaches: permissions, width by encoding, legal page classes. -/
structure Want where
  rd : Bool
  wr : Bool
  width : Nat → Option Nat
  cls : Tr → Bool
  /-- The page must grant both permissions whatever the record does (21 R329: atomics, table inserts, deletes and updates). -/
  both : Bool

/-- The byte offset of an access (R160). -/
def Ins.offset (i : Ins) : Nat :=
  match i.f.lit with
  | some x => x.toNat
  | none => i.f.c.toNat

/-- The key or byte index in A (R162). -/
def Ins.memKey (i : Ins) (t : Team) (l : Nat) : Nat := if i.f.uni || i.f.ka then t.sr i.f.a.toNat else t.vr i.f.a.toNat l

/-- Checks 2 to 8 of R163 on a row. -/
def rowCheck (r : Rec) (k o : Nat) (rd wr : Bool) (n : Option Nat) : Option (Nat × Nat) :=
  if r.kind = 1 ∨ r.kind = 2 then some (cTABLE, 1)
  else if k ≥ r.rowlim then some (cBOUND, 1)
  else if (rd && !r.pr) || (wr && !r.pw) then some (cPERM, 1)
  else
    match n with
    | none => some (cTABLE, 2)
    | some n =>
      if o + n > r.rowb then some (cBOUND, 2)
      else if (r.base + k * r.rowb + o) % n ≠ 0 then some (cALIGN, 0)
      else none

/-- Check 9 for one place: translation, page permission, class. -/
def State.planWalk (s : State) (vf l key off va : Nat) (w : Want) (p : Plan) : State × Plan :=
  let r := s.walk vf va (w.rd || w.both) (w.wr || w.both)
  match r.2 with
  | .ok t => if w.cls t then (r.1, p.acc l key off (.tab t va)) else (r.1, p.fail l cPERM 3 key off)
  | .fault c => (r.1, p.page l va c w.wr key off)
  | .perm => (r.1, p.fail l cPERM 2 key off)

/-- The byte of a core memory that a block's address names (R74): `cl` for cluster memory. -/
def State.coreByte (s : State) (t : Team) (cl : Bool) (k o n : Nat) : Option Nat :=
  let b := s.block t.block
  let x := k % 2 ^ 32 + o
  if x ≥ 2 ^ 32 then none
  else if cl then
    (if x ≥ 2 ^ 22 then none
     else
       let a := x % 2 ^ 20
       if a + n > b.size then none else some (2 ^ 20 * (4 * b.cluster + x / 2 ^ 20) + b.base + a))
  else if x + n > b.size then none
  else some (2 ^ 20 * t.core + b.base + x)

/-- One lane's checks in core or cluster memory: BOUND SPACE, then ALIGN. -/
def State.planCore (s : State) (i : Ins) (t : Team) (n l : Nat) (p : Plan) : Plan :=
  let k := i.memKey t l % 2 ^ 32
  let o := i.offset
  match s.coreByte t (i.f.b == 0x41) k o n with
  | none => p.fail l cBOUND 4 k o
  | some a => if (k + o) % n ≠ 0 then p.fail l cALIGN 0 k o else p.acc l k o (.core a)

/-- What the record read means for every lane of a plan: the record, or each lane's cause. -/
def planRecord (r : RecRead) (ls : List Nat) (key : Nat → Nat) (off : Nat) : Rec ⊕ Plan :=
  match r with
  | .ok r => .inl r
  | .bad => .inr (ls.foldl (fun p l => p.fail l cBOUND 3 (key l) off) Plan.empty)
  | .fault va c => .inr (ls.foldl (fun p l => p.page l va c false (key l) off) Plan.empty)
  | .perm => .inr (ls.foldl (fun p l => p.fail l cPERM 2 (key l) off) Plan.empty)

/-- The plan of a plain access over its lanes, with the encoding in force (R162–R164). -/
def State.plan (s : State) (i : Ins) (t : Team) (ls : List Nat) (w : Want) : State × Plan × Nat :=
  if i.f.b.toNat ≥ 64 then
    (s, ls.foldl (fun p l => s.planCore i t ((w.width 0).getD 4) l p) Plan.empty, 0)
  else
    let q := s.record t.vf (s.tdir t) i.f.b.toNat
    match planRecord q.2 ls (i.memKey t) i.offset with
    | .inr p => (q.1, p, 0)
    | .inl r =>
      let a := ls.foldl (fun (a : State × Plan) l =>
        let k := i.memKey t l
        let o := i.offset
        match rowCheck r k o w.rd w.wr (w.width r.enc) with
        | some c => (a.1, a.2.fail l c.1 c.2 k o)
        | none => a.1.planWalk t.vf l k o (r.base + k * r.rowb + o) w a.2) (q.1, Plan.empty)
      (a.1, a.2, r.enc)

/-- The least class among causes, and the lowest lane that has it. -/
def Plan.taken (fs : List Fail) : Option Fail :=
  match leastBy (fun (x : Fail) => x.cls) fs with
  | none => none
  | some c => leastBy (fun (x : Fail) => x.lane) (fs.filter (fun x => x.cls == c.cls))

/-- The trap of a list of causes (R163, R181). -/
def State.trapFails (s : State) (i : Ins) (fs : List Fail) : State :=
  match Plan.taken fs with
  | none => s
  | some c => s.trapAt i c.cls c.sub (fs.map (fun x => (x.lane, x.cls))) c.key c.off

/-! Watch ranges (09 R203). -/

/-- The access matches the range. -/
def Watch.hits (w : Watch) (s : State) (t : Team) (slot n : Nat) (rd wr : Bool) (a : Acc) : Bool :=
  w.en && w.block == t.block && ((w.rd && rd) || (w.wr && wr)) &&
    (match a.place with
     | .tab _ _ => !w.core && w.slot == slot && decide (w.lo ≤ a.key) && decide (a.key ≤ w.hi)
     | .core k =>
       let o := k % 2 ^ 20 - (s.block t.block).base
       w.core && k / 2 ^ 20 == t.core && decide (w.lo < o + n) && decide (o ≤ w.hi))

/-- The instructions whose accesses or keys a watch range matches (R203). -/
def Ins.watched (i : Ins) : Bool := (decide (0x100 ≤ i.op) && decide (i.op ≤ 0x106)) || (decide (0x140 ≤ i.op) && decide (i.op ≤ 0x147))

/-- DEBUG in the lanes whose accesses match a watch range, with the number of the lowest range that one matches (log entry 117). -/
def State.watchTrap (s : State) (i : Ins) (t : Team) (slot n : Nat) (rd wr : Bool) (accs : List Acc) : Option State :=
  if t.noWatch || !i.watched then none
  else
    match (upTo 4).find? (fun r => accs.any ((s.watchOf t.core r).hits s t slot n rd wr)) with
    | none => none
    | some r =>
      let hs := accs.filter (fun a => (upTo 4).any (fun r => (s.watchOf t.core r).hits s t slot n rd wr a))
      some (s.trapFails i (hs.map (fun a => { lane := a.lane, cls := cDEBUG, sub := 16 + r, key := a.key, off := a.off })))

/-! Miss-status entries (05 R112, R177). -/

/-- Reservations of a core made before team i's own, or all of them. -/
def State.ahead (s : State) (core i : Nat) : Nat :=
  ((((s.reserved.filter (fun r => r.1 == core)).map (fun r => r.2))).takeWhile (fun x => x != i)).length

/-- Entries of the core that team i may take. -/
def State.entriesFor (s : State) (core i : Nat) : Nat := s.freeEntries core - s.ahead core i

/-- A free entry of the core is left for team i behind older reservations. -/
def State.mayEnter (s : State) (core i : Nat) : Bool := decide (0 < s.entriesFor core i)

/-- The access is rejected back to its team; its fourth rejection makes a reservation. -/
def State.reject (s : State) (i : Nat) : State :=
  let t := s.team i
  let s1 := s.setTeam i { t with rejects := t.rejects + 1, retryAt := some (s.clock.toNat + 8) }
  if t.rejects = 3 then { s1 with reserved := s1.reserved ++ [(t.core, i)] } else s1

/-- The access has its entry: its rejections and its reservation are over. -/
def State.entered (s : State) (i : Nat) : State :=
  if (s.team i).rejects = 0 ∧ ∀ r ∈ s.reserved, r.2 ≠ i then s
  else { s.setTeam i { s.team i with rejects := 0 } with reserved := s.reserved.filter (fun r => r.2 != i) }

/-- The place holds bytes that an outstanding copy owns, or lies in a grain of one (PEND): reads and writes wait (04 R89, R279,
22 R361). -/
def State.placeOwned (s : State) (x : Place) (n : Nat) : Bool :=
  s.copies.any (fun c =>
    match x with
    | .tab t _ =>
      if t.cls = 0 then s.ownsDev c t.sys t.addr n
      else
        let g := s.grainAt t t.addr
        let a := t.addr / g * g
        s.ownsDev c t.sys a ((t.addr + n - a + g - 1) / g * g)
    | .core k => s.ownsCore c k n)

/-- A table whose rows an MMA under way reads holds the address (R81): the model takes the whole table (log entry 96). -/
def mmaReads (m : MmaJob) (va n : Nat) : Bool :=
  let has := fun (r : Rec) => rangesMeet r.base (r.rowlim * r.rowb) va n
  !m.trapped && (has m.ra || has m.rb || (match m.sa with | some r => has r | none => false) || (match m.sb with | some r => has r | none => false))

/-- Bytes of the core memories that a QMC of team i under way still reads, or still writes. -/
def State.qmcMeets (s : State) (i k n : Nat) (wr : Bool) : Bool :=
  s.copies.any (fun c => c.qmc && c.team == i &&
    (let b := s.block c.block
     let a := (c.words.getD 0 0).toNat
     let m := (c.words.getD 1 0).toNat
     (wr && rangesMeet (2 ^ 20 * c.core + b.base + a) m k n) || c.todo.any (fun x => rangesMeet (2 ^ 20 * (4 * b.cluster + x) + b.base + a) m k n)))

/-- An earlier read of team i has not bound its value yet, before which no store of it is performed (R82): an atomic's, an MMA's or a QMC's. The
source of a CPK is read under R89 alone. -/
def State.unbound (s : State) (i : Nat) : Bool :=
  s.atoms.any (fun a => a.team == i && a.done.isNone && (a.opc == 0x104 || a.opc == 0x106))
    || (match (s.team i).mma with | some m => !m.trapped | none => false)
    || s.copies.any (fun c => c.qmc && c.team == i)

/-- An earlier access of team i to these bytes is still to be performed, which a later one follows (R81, R82). -/
def State.ownLater (s : State) (i : Nat) (x : Place) (n : Nat) (wr : Bool) : Bool :=
  match x with
  | .core k => s.qmcMeets i k n wr
  | .tab t va =>
    s.atoms.any (fun a => a.team == i && a.done.isNone && a.u.tr.sys == t.sys && rangesMeet a.u.tr.addr a.n t.addr n)
      || s.held.any (fun h => (match h.writer with | .team j _ _ => j == i | _ => false)
          && h.parts.any (fun p => p.sys == t.sys && rangesMeet p.addr p.bytes.length t.addr n))
      || (wr && (match (s.team i).mma with | some m => mmaReads m va n | none => false))

/-- Distinct 128-byte lines of the passes of table accesses. -/
def accLines (accs : List Acc) : List (Nat × Bool × Nat) :=
  accs.foldl (fun ls a =>
    match a.place with
    | .tab t _ => let k := (a.lane / 32, t.sys, t.addr / 128); if ls.contains k then ls else ls ++ [k]
    | .core _ => ls) []

/-- Number of these lines. -/
def lineCount (accs : List Acc) : Nat := (accLines accs).length

/-- The causes of an instruction: those its checks found, those of `extra` in lanes with none, and XFAULT in the lanes whose page is not resident
where no record can be written (R163, 21 R341). -/
def State.causes (s : State) (t : Team) (p : Plan) (extra : List Fail) : List Fail :=
  let pages : List Fail := if s.fsqOn t.vf then []
    else p.pages.map (fun x => { lane := x.lane, cls := cXFAULT, sub := 1, key := x.key, off := x.off })
  let found := p.fails ++ pages.filter (fun x => !p.fails.any (fun y => y.lane == x.lane))
  let found := found.foldl (fun l x => if l.any (fun y => y.lane == x.lane) then l else l ++ [x]) []
  found ++ extra.filter (fun x => !found.any (fun y => y.lane == x.lane))

/-- The shared end of the checks: a trap, a page park, a watch range, a wait, a rejection, or the accesses to be performed by `k`.
`extra` are causes found after the checks in lanes that passed them, or whose page alone is missing: a trap goes before the park (09 R196). -/
def State.settle (s : State) (i : Ins) (t : Team) (p : Plan) (extra : List Fail) (n : Nat) (rd wr : Bool)
    (k : State → State) : State :=
  if !(s.causes t p extra).isEmpty then s.trapFails i (s.causes t p extra)
  else if !p.pages.isEmpty then s.pageFault i 1 p.pages
  else
    match s.watchTrap i t i.f.b.toNat n rd wr p.accs with
    | some s' => s'
    | none =>
      if p.accs.any (fun a => s.placeOwned a.place n || s.ownLater s.cur a.place n wr) then s
      else if (i.op == 0x101 || i.op == 0x103) && s.unbound s.cur then s
      else if lineCount p.accs > 0 && !s.mayEnter t.core s.cur then s.reject s.cur
      else k s

/-! Bytes at a place. -/

/-- The bytes read, with the ECC subcode of what is wrong with them: 0, 1 POISON, 3 COREMEM (R178, R189). -/
def State.loadPlace (s : State) (x : Place) (n : Nat) : List Byte × Nat :=
  match x with
  | .tab t _ => let r := s.readTr t n; (r.1, if r.2 then 1 else 0)
  | .core k => (readMem s.cm k n, if (upTo n).any (fun j => SMap.get s.cmBad (k + j) false) then 3 else 0)

/-- Writing core memory: an overwritten byte is good again. -/
def State.putCore (s : State) (k : Nat) (bs : List Byte) : State :=
  { s with cm := writeMem s.cm k bs, cmBad := (upTo bs.length).foldl (fun m j => SMap.drop m (k + j)) s.cmBad }

/-- A place of the whole image is written: one of core memory, or of a table at its home. -/
def State.storePlace (s : State) (x : Place) (bs : List Byte) (w : Writer) : State × Stored :=
  match x with
  | .tab t va => s.storeTr t bs false w va
  | .core k => (s.putCore k bs, .done)

/-- A trap recorded against the instruction, to be taken at the next boundary (R178). -/
def eccPend (i : Ins) (t : Team) (bad : List (Acc × Nat)) : Option PendTrap :=
  match bad with
  | [] => none
  | b :: _ =>
    some { cls := cECC, sub := b.2, pc := t.pc, ilen := i.len, lanes := if i.f.uni then [0] else bad.map (fun e => e.1.lane),
           key := b.1.key, off := b.1.off }

/-- DEBUG of a step (R201). -/
def PendTrap.steps (p : PendTrap) : Bool := p.cls == cDEBUG && p.sub == 2

/-- A recorded trap joins those that await the boundary. A step's gives way to any other, with ARM still set (09 R201). -/
def Team.addPend (t : Team) (p : Option PendTrap) : Team :=
  match p, t.pend with
  | none, _ => t
  | some x, none => { t with pend := some x }
  | some x, some q => if q.steps then { t with pend := some x } else if x.steps then t else { t with pendMore := t.pendMore ++ [x] }

/-- The team parks at its next boundary for writes of its own that are held: space first (R343, R349). -/
def State.noteHeld (s : State) (i : Nat) : State :=
  let own := s.held.filter (fun h => match h.writer with | .team j _ _ => j == i | _ => false)
  let lows := (own.filter (fun h => !h.log)).map (fun h => h.addr)
  let logs := own.filter (fun h => h.log)
  match lows, logs with
  | a :: r, _ => s.setTeam i { s.team i with parkNext := some (.space, BitVec.ofNat 64 (r.foldl min a)) }
  | [], h :: _ => s.setTeam i { s.team i with parkNext := some (.page, BitVec.ofNat 64 h.va) }
  | [], [] => s

/-- DLOG records of the writes held since the list had `n` entries (R343). -/
def State.noteLogs (s : State) (n : Nat) : State :=
  ((s.held.drop n).filter (fun h => h.log)).foldl (fun s h => s.dlogRecord h.fn) s

/-! Conversion (R164, R165). -/

/-- The width at which an encoding is accessed under a type. -/
def convWidth (ty : Ty) (enc : Nat) : Option Nat :=
  match enc with
  | 0 => if ty = .e4m3 ∨ ty = .e5m2 ∨ ty = .e2m1 ∨ ty = .i4x then none else some (if tyWide ty then 8 else 4)
  | 1 => if ty = .f32 ∨ ty = .f64 then some 4 else none
  | 2 => if ty = .f16x2 then some 4 else if ty = .f32 then some 2 else none
  | 3 => if ty = .bf16x2 then some 4 else if ty = .f32 then some 2 else none
  | 4 => if ty = .s8x4 then some 4 else if ty = .s32 then some 1 else none
  | 5 => if ty = .n8x4 then some 4 else if ty = .n32 then some 1 else none
  | 6 => if ty = .s16x2 then some 4 else if ty = .s32 then some 2 else none
  | 7 => if ty = .n16x2 then some 4 else if ty = .n32 then some 2 else none
  | 8 => if ty = .e4m3 then some 4 else none
  | 9 => if ty = .e5m2 then some 4 else none
  | 10 => if ty = .e2m1 then some 4 else none
  | 11 => if ty = .i4x then some 4 else none
  | 12 => if ty = .f64 ∨ ty = .f32 then some 8 else none
  | _ => none

/-- Core and cluster memory also accept the code types. -/
def plainWidth (core : Bool) (ty : Ty) (enc : Nat) : Option Nat :=
  if core ∧ (ty = .e4m3 ∨ ty = .e5m2 ∨ ty = .e2m1 ∨ ty = .i4x) then some 4 else convWidth ty enc

/-- The stored and register formats of a converting access to floating-point data. -/
def convFmts (ty : Ty) (enc : Nat) : Option (Fmt × Fmt) :=
  match enc with
  | 1 => if ty = .f64 then some (fmtF32, fmtF64) else none
  | 2 => if ty = .f32 then some (fmtF16, fmtF32) else none
  | 3 => if ty = .f32 then some (fmtBf16, fmtF32) else none
  | 12 => if ty = .f32 then some (fmtF64, fmtF32) else none
  | _ => none

/-- Integer conversions: stored bits and signedness. -/
def convInt (ty : Ty) (enc : Nat) : Option (Nat × Bool) :=
  match enc with
  | 4 => if ty = .s32 then some (8, true) else none
  | 5 => if ty = .n32 then some (8, false) else none
  | 6 => if ty = .s32 then some (16, true) else none
  | 7 => if ty = .n32 then some (16, false) else none
  | _ => none

/-- A float changed to another format without flags: a NaN canonical with its sign. -/
def loadFlt (src dst : Fmt) (x : Nat) : Nat :=
  match src.value x with
  | .nan _ n => dst.nan + dst.sign n
  | v => (dst.put .rne false v).1

/-- load_conv. -/
def loadConv (ty : Ty) (enc x : Nat) : Nat :=
  match convFmts ty enc, convInt ty enc with
  | some p, _ => loadFlt p.1 p.2 x
  | _, some p => if p.2 then wrapInt 32 (toSigned p.1 x) else x
  | none, none => x

/-- store_conv with its flags. -/
def storeConv (ty : Ty) (enc mod : Nat) (ftz : Bool) (x : Nat) : Nat × Nat :=
  match convFmts ty enc, convInt ty enc with
  | some p, _ => putMode p.1 mod ftz 0 (p.2.read ftz x)
  | _, some p =>
    let v : Int := if p.2 then toSigned 32 x else (x : Int)
    (wrapInt p.1 (satInt v (if p.2 then -(2 : Int) ^ (p.1 - 1) else 0) (if p.2 then (2 : Int) ^ (p.1 - 1) - 1 else (2 : Int) ^ p.1 - 1)), 0)
  | none, none => (x, 0)

/-! Performing an instruction's units at tables (R112, R177, 22 R359, R360). -/

/-- A scaled block with the rest: whether an element write belongs to it, its bytes merged (R170). -/
def mergeElems (enc ilv : Nat) (old : List Byte) (elems : List (Nat × Nat)) : List Byte :=
  natLe old.length (elems.foldl (fun x e => setBlockCode enc ilv x e.1 e.2) (leNat old))

/-- The units that take their entries: each line of a pass in turn, as long as entries are left. Later units of a line that is turned away stay
behind it. -/
def Rest.enter (r : Rest) (room : Nat) : Rest :=
  let x := r.out.foldl (fun (a : List AUnit × List AUnit × Nat) u =>
    let have_ := unitLines (r.inside ++ a.1)
    let new := u.lines.filter (fun l => !have_.contains l)
    let behind := u.lines.any (fun l => (unitLines a.2.1).contains l)
    if !behind && decide (new.length ≤ a.2.2) then (a.1 ++ [u], a.2.1, a.2.2 - new.length) else (a.1, a.2.1 ++ [u], a.2.2)) ([], [], room)
  { r with inside := r.inside ++ x.1, out := x.2.1 }

def Rest.stores (r : Rest) : Bool := r.opc == 0x101 || r.opc == 0x103

/-- The grains of a unit are the core's L2's to write. -/
def State.unitOwned (s : State) (core : Nat) (r : Rest) (u : AUnit) : Bool :=
  (s.unowned core u.tr r.n).isEmpty && (match u.sc with | some c => (s.unowned core c.1 2).isEmpty | none => true)

/-- The units inside that may be performed, and those that wait: a store for its grains, behind an earlier one of its line (R81). -/
def State.splitUnits (s : State) (core : Nat) (r : Rest) : List AUnit × List AUnit :=
  if !r.stores then (r.inside, [])
  else r.inside.foldl (fun (a : List AUnit × List AUnit) u =>
    if s.unitOwned core r u && !u.lines.any (fun l => (unitLines a.2).contains l) then (a.1 ++ [u], a.2) else (a.1, a.2 ++ [u])) ([], [])

/-- Their grains are asked for. -/
def State.askUnits (s : State) (core slot : Nat) (r : Rest) (us : List AUnit) : State :=
  us.foldl (fun s u =>
    let s1 := s.askOwned core slot u.tr r.n
    match u.sc with | some c => s1.askOwned core slot c.1 2 | none => s1) s

/-- ECC recorded for the lanes of units. -/
def Rest.ecc (r : Rest) (bad : List AUnit) : Option PendTrap :=
  match bad with
  | [] => none
  | b :: _ =>
    some { cls := cECC, sub := 1, pc := r.pc, ilen := r.len, lanes := if r.f.uni then [0] else bad.flatMap (fun u => u.lanes), key := b.key, off := b.off }

/-- What a core's L1 holds of a block and its scale word may be read as one (04 R87): both under leases that the logical time of the read leaves valid.
Else the sectors are dropped, and both are read anew. -/
def State.pairUp (s : State) (core : Nat) (a b : Tr) : State :=
  let ka := lineKey a.sys a.addr
  let kb := lineKey b.sys b.addr
  if a.cls = 0 ∨ b.cls = 0 then (s.dropClean core ka).dropClean core kb
  else
    let x := s.l1 core ka
    let y := s.l1 core kb
    let lt := maxW (s.lt core) (maxW x.wts y.wts)
    if !x.bytes.isEmpty && !y.bytes.isEmpty && decide (lt.toNat ≤ x.le.toNat) && decide (lt.toNat ≤ y.le.toNat) then s
    else (s.dropL1s core ka 1).dropL1s core kb 1

/-- What a core reads at a unit: its bytes, its scale word, and whether either is poisoned. -/
def State.readUnit (s0 : State) (core slot n : Nat) (u : AUnit) : State × List Byte × List Byte × Bool :=
  let s := match u.sc with | some c => s0.pairUp core u.tr c.1 | none => s0
  let a := s.coreRead core slot u.tr n
  match u.sc with
  | none => (a.1, a.2.1, [], a.2.2)
  | some c => let b := a.1.coreRead core slot c.1 2; (b.1, a.2.1, b.2.1, a.2.2 || b.2.2)

/-- The units read in turn. -/
def State.readUnits (s : State) (core slot n : Nat) (us : List AUnit) : State × List (AUnit × List Byte × List Byte × Bool) :=
  us.foldl (fun (a : State × List (AUnit × List Byte × List Byte × Bool)) u =>
    let q := a.1.readUnit core slot n u
    (q.1, a.2 ++ [(u, q.2)])) (s, [])

/-- Element i of a block: a value in f32, or its code with the scale word (R169). -/
def blockLane (ty : Ty) (enc w : Nat) (c : Nat → Nat) (i : Nat) : Nat :=
  if ty = .f32 then toF32 ((blockVals enc w c).getD i (.fin false 0 0)) else c i + 65536 * w

/-- The destinations that a unit read fills: LD and LDC one lane's value, LDB each lane's element. -/
def Rest.dsts (r : Rest) (x : AUnit × List Byte × List Byte × Bool) : List Dst :=
  x.1.lanes.flatMap (fun l => dstsOf r.f.uni r.f.ty r.f.d.toNat l
    (if x.2.2.2 then 0
     else if r.opc = 0x102 then blockLane r.f.ty r.enc (leNat x.2.2.1) (blockCode r.enc r.ilv (leNat x.2.1)) (l % 32)
     else if r.opc = 0x109 then leNat x.2.1
     else loadConv r.f.ty r.enc (leNat x.2.1)))

/-- Bytes that units count as moved (19 R316). -/
def Rest.bytes (r : Rest) (us : List AUnit) : Nat := if r.opc = 0x1C4 then 0 else us.length * (if r.opc = 0x102 ∨ r.opc = 0x103 then r.n + 2 else r.n)

/-- The ports that data of units come through, each with the trap of a response of poison (23 R373). -/
def State.unitLinks (s : State) (r : Rest) (us : List AUnit) : List (Nat × PendTrap) :=
  (upTo 8).filterMap (fun p => (r.ecc (us.filter (fun u => u.tr.sys && s.sysPort u.tr.addr == p))).map (fun x => (p, x)))

/-- Loads: their values are bound, and one late reply carries them (log entry 14). -/
def State.loadUnits (s : State) (i : Nat) (r : Rest) (us : List AUnit) : State :=
  let t := s.team i
  let q := s.readUnits t.core (16 * t.part + t.slot) r.n us
  let bad := (q.2.filter (fun x => x.2.2.2)).map (fun x => x.1)
  { q.1 with replies := q.1.replies ++ [{ team := i, dsts := q.2.flatMap r.dsts, entry := some (t.core, (unitLines us).length), completes := true,
                                          bytes := r.moved, set := if r.opc = 0x109 then 5 else 0, trap := r.ecc bad, link := s.unitLinks r us, ins := r.ins }] }

/-- The bytes of a block that element writes touch: those that differ when all its bits are cleared and set. -/
def touchedBytes (enc ilv n : Nat) (elems : List (Nat × Nat)) : List Nat :=
  let fill := fun (c : Nat) => mergeElems enc ilv (List.replicate n 0) (elems.map (fun e => (e.1, c)))
  (upTo n).filter (fun i => (fill 0).getD i 0 != (fill 0xFF).getD i 0)

/-- One unit of a store: a lane's bytes, or a block merged with its scale word, all at once (R87, R170). -/
def State.storeUnit (s : State) (core : Nat) (r : Rest) (w : Writer) (u : AUnit) : State × Stored :=
  match u.sc with
  | none => s.coreStore core u.tr u.bytes w u.va
  | some c =>
    if u.tr.cls = 0 ∨ c.1.cls = 0 then
      let a := s.coreRead core 0 u.tr r.n
      if a.2.2 || (a.1.readTr c.1 2).2 then (a.1, .poison)
      else
        let new := mergeElems r.enc r.ilv a.2.1 u.elems
        let b := if u.tr.cls = 0 then
            ((touchedBytes r.enc r.ilv r.n u.elems).foldl (fun s i => s.putNc core (u.tr.addr + i) (new.getD i 0) u.tr.cmp) a.1, Stored.done)
          else a.1.coreStore core u.tr new w u.va
        let d := b.1.coreStore core c.1 u.bytes w c.2
        (d.1, if b.2 = .held ∨ d.2 = .held then .held else .done)
    else if (s.readTr u.tr r.n).2 || (s.readTr c.1 2).2 then (s, .poison)
    else
      let old := (s.readTr u.tr r.n).1
      let q := s.storeDirty u.tr.fn (u.tr.parts (mergeElems r.enc r.ilv old u.elems) ++ c.1.parts u.bytes) w u.va (.stb r.enc r.ilv u.elems)
      (if q.2 = .done then q.1.coreWroteBoth core u.tr r.n c.1 2 else q.1, q.2)

/-- Stores in turn; the units that met POISON have ECC recorded (R178). -/
def State.storeUnits (s : State) (i : Nat) (r : Rest) (us : List AUnit) : State :=
  let core := (s.team i).core
  let q := us.foldl (fun (a : State × List AUnit) u =>
    let x := a.1.storeUnit core r (.team i r.pc r.len) u
    (x.1, if x.2 = .poison then a.2 ++ [u] else a.2)) (s, [])
  q.1.setTeam i ((q.1.team i).addPend (r.ecc q.2))

/-- The operation of an atomic (R171): 8 for ACAS, an addition for EVSIG. -/
def Atom.op (a : Atom) : Nat := if a.opc = 0x106 then 8 else if a.opc = 0x1C4 then 0 else a.f.mod.toNat

/-- The message that carries an atomic to its home (22 R357). -/
def State.atomMsg (s : State) (a : Atom) : CohMsg :=
  let g := s.grainAt a.u.tr a.u.tr.addr
  { cohRequest a.u.tr.sys (dieOf a.core) a.core (a.u.tr.addr / g * g) g a.u.tr.fn with
      op := a.op, ty := a.f.ty, addr := a.u.tr.addr, x := a.u.x, y := a.u.y, tag := a.tag }

/-- Atomics are sent to the homes of their grains, in lane order (22 R357). -/
def State.sendAtoms (s : State) (i : Nat) (r : Rest) (us : List AUnit) : State :=
  let t := s.team i
  (us.foldl (fun (a : State × List (Nat × Bool × Nat)) u =>
    let s := a.1
    let tag := s.atomTag + 1
    let new := u.lines.filter (fun l => !a.2.contains l)
    let at_ : Atom := { tag := tag, ins := r.ins, team := i, core := t.core, pc := r.pc, len := r.len, opc := r.opc, f := r.f, n := r.n, u := u,
                        entries := new.length, moved := r.moved, done := none }
    (({ s with atoms := s.atoms ++ [at_], atomTag := tag }).sendMsg (.atomicreq { s.atomMsg at_ with slot := 16 * t.part + t.slot }), a.2 ++ new)) (s, [])).1

/-- What an instruction does with units it may perform. -/
def State.doUnits (s : State) (i : Nat) (r : Rest) (us : List AUnit) : State :=
  if us.isEmpty then s
  else if r.stores then s.storeUnits i r us
  else if (decide (0x104 ≤ r.opc) && decide (r.opc ≤ 0x106)) || r.opc == 0x1C4 then s.sendAtoms i r us
  else s.loadUnits i r us

/-- Part of a store of team i is held. -/
def State.storeHeld (s : State) (i : Nat) : Bool :=
  s.held.any (fun h => h.amo.isNone && (match h.writer with | .team j _ _ => j == i | _ => false))

/-- A store of team i has been performed but for what of it is held: it counts as completed with that (20 R326). -/
def State.stored (s : State) (i bytes : Nat) : State :=
  if s.storeHeld i then s.setTeam i { s.team i with owes := some bytes } else s.account i 1 0 bytes

/-- The rest of team i's instruction goes on as far as it can. When nothing is left a store counts as completed; units turned away try
again 8 clocks later (R112), and not before. -/
def State.runRest (s : State) (i : Nat) (r0 : Rest) : State :=
  let t := s.team i
  let m := s.held.length
  let early := t.retryAt.isSome
  let r := if early then r0 else r0.enter (s.entriesFor t.core i)
  let x := s.splitUnits t.core r
  let s1 := (s.doUnits i r x.1).askUnits t.core (16 * t.part + t.slot) r x.2
  let s2 := if s1.held.length = m then s1 else (s1.noteLogs m).noteHeld i
  if x.2.isEmpty && r.out.isEmpty then
    let s3 := (s2.setTeam i { s2.team i with rest := none }).entered i
    if r.stores then s3.stored i r.moved else s3
  else
    let s3 := s2.setTeam i { s2.team i with rest := some { r with inside := x.2 } }
    if r.out.isEmpty then s3.entered i else if early then s3 else s3.reject i

/-- An instruction whose checks have passed issues as `t`, and its units are performed. -/
def State.runUnits (s : State) (i : Ins) (t : Team) (enc ilv n : Nat) (us : List AUnit) : State :=
  let r : Rest := { opc := i.op, f := i.f, len := i.len, pc := t.pc, enc := enc, ilv := ilv, n := n, ins := s.fresh + 1, moved := 0, inside := [], out := us }
  (s.useFresh.issued i t).runRest s.cur { r with moved := r.bytes us }

/-- The units of plain accesses at a table. -/
def accUnits (accs : List Acc) (bytes : Nat → List Byte) (x y : Nat → Nat) : List AUnit :=
  accs.filterMap (fun a =>
    match a.place with
    | .tab t va => some { lane := a.lane, lanes := [a.lane], key := a.key, off := a.off, tr := t, va := va, sc := none, bytes := bytes a.lane,
                          x := BitVec.ofNat 64 (x a.lane), y := BitVec.ofNat 64 (y a.lane), elems := [] }
    | .core _ => none)

/-! LD and ST (R166, R167). -/

/-- The destinations of a lane's value. -/
def Ins.laneDst (i : Ins) (l x : Nat) : List Dst := dstsOf i.f.uni i.f.ty i.f.d.toNat l x

/-- The end of an access of core memory that answers values: registers marked, the late reply under way with the trap of bad data. -/
def State.landCore (s : State) (i : Ins) (t : Team) (ls : List Nat) (set : Nat) (dsts : List Dst) (bad : List (Acc × Nat)) : State :=
  (s.issued i (t.markAll (ls.flatMap i.dstRefs))).sendReply dsts set none 0 (eccPend i t bad)

/-- LD (R166). -/
def execLd (f : Form) (s : State) : Host.Outcome State Fault Refusal :=
  let i := insW 0x100 f
  runIns i s (fun t ls =>
    if ls.isEmpty then s.finish i t
    else
      let core := decide (f.b.toNat ≥ 64)
      let q := s.plan i t ls { rd := true, wr := false, width := plainWidth core f.ty, cls := fun _ => true, both := false }
      let n := (plainWidth core f.ty q.2.2).getD 4
      q.1.settle i t q.2.1 [] n true false (fun s =>
        if core then
          let rs := q.2.1.accs.map (fun a => (a, s.loadPlace a.place n))
          let dsts := rs.flatMap (fun e => i.laneDst e.1.lane (if e.2.2 = 0 then loadConv f.ty q.2.2 (leNat e.2.1) else 0))
          s.landCore i t ls 0 dsts ((rs.filter (fun e => e.2.2 != 0)).map (fun e => (e.1, e.2.2)))
        else
          s.runUnits i (t.markAll (ls.flatMap i.dstRefs)) q.2.2 0 n (accUnits q.2.1.accs (fun _ => []) (fun _ => 0) (fun _ => 0))))

/-- Core memory written by the lanes in ascending order. -/
def State.storeCore (s : State) (ws : List (Acc × List Byte)) : State :=
  ws.foldl (fun s e => match e.1.place with | .core k => s.putCore k e.2 | .tab _ _ => s) s

/-- ST (R166). FPX is looked for in every lane that passed checks 1 to 8 (R123, 09 R196). -/
def execSt (f : Form) (s : State) : Host.Outcome State Fault Refusal :=
  let i := insW 0x101 f
  runIns i s (fun t ls =>
    if ls.isEmpty then s.finish i t
    else
      let core := decide (f.b.toNat ≥ 64)
      let q := s.plan i t ls { rd := false, wr := true, width := plainWidth core f.ty, cls := fun _ => true, both := false }
      let n := (plainWidth core f.ty q.2.2).getD 4
      let val := fun l => storeConv f.ty q.2.2 f.mod.toNat t.ftz (i.opd t i.wide l)
      let ok := ls.filter (fun l => !q.2.1.fails.any (fun x => x.lane == l))
      let fl := ok.foldl (fun x l => x ||| (val l).2) 0
      let fpx := (ok.filter (fun l => t.fpx (val l).2 != 0)).map (fun l => ({ lane := l, cls := cFPX, sub := t.fpx fl, key := 0, off := 0 } : Fail))
      q.1.settle i t q.2.1 fpx n false true (fun s =>
        if core then (s.storeCore (q.2.1.accs.map (fun a => (a, natLe n (val a.lane).1)))).finish i (t.addFlags fl)
        else s.runUnits i (t.addFlags fl) q.2.2 0 n (accUnits q.2.1.accs (fun l => natLe n (val l).1) (fun _ => 0) (fun _ => 0))))

/-! LDB and STB (R168–R170). -/

/-- A block with its scale word, named by a mask word. -/
structure BlockAt where
  word : Nat
  lanes : List Nat
  blk : Acc
  scale : Acc
  deriving DecidableEq, Repr

/-- Checks 3 to 8 of a block and its scale (R163, R249). -/
def blockCheck (r : Rec) (sc : Option Rec) (ty : Ty) (k o : Nat) (wr : Bool) : Option (Nat × Nat) :=
  let sep := r.slayout == 2
  let ok (g : Rec → Bool) : Bool := match sc with | some x => g x | none => true
  let n := scaledBytes r.enc
  if r.kind = 1 ∨ r.kind = 2 then some (cTABLE, 1)
  else if decide (k ≥ r.rowlim) || (sep && !ok (fun x => decide (k < x.rowlim))) then some (cBOUND, 1)
  else if (if wr then !r.pw else !r.pr) || (sep && !ok (fun x => if wr then x.pw else x.pr)) then some (cPERM, 1)
  else if !(decide (8 ≤ r.enc) && decide (r.enc ≤ 11) && ((ty == .f32 && !wr) || ty == scaledTy r.enc)) then some (cTABLE, 2)
  else if noScale r sc n then some (cTABLE, 3)
  else if decide (o + n > r.rowb) || (r.slayout == 1 && decide (o + n > (r.rowb / (n + 2)) * n))
       || (sep && !ok (fun x => decide (2 * (o / n) + 2 ≤ x.rowb))) then some (cBOUND, 2)
  else if (r.base + k * r.rowb + o) % n ≠ 0 then some (cALIGN, 0)
  else none

/-- The scale table's record, where the layout has one; an invalid one counts as none. -/
def State.scaleRecord (s : State) (t : Team) (r : Rec) : State × RecRead :=
  if r.slayout = 2 then s.record t.vf (s.tdir t) r.sslot else (s, .bad)

/-- A valid record of a dense table. -/
def RecRead.dense (q : RecRead) : Option Rec := match q with | .ok x => if x.kind = 0 then some x else none | _ => none

/-- The address of the scale word of the block at offset o of row k. -/
def scaleAddr (r : Rec) (sc : Option Rec) (k o : Nat) : Nat :=
  let off := scaleOff r (scaledBytes r.enc) o
  match sc with
  | some x => x.base + k * x.rowb + off
  | none => r.base + k * r.rowb + off

/-- Mask words with a contributing lane, and their lanes. -/
def wordLanes (t : Team) (ls : List Nat) : List (Nat × List Nat) :=
  ((upTo t.words).map (fun w => (w, ls.filter (fun l => l / 32 == w)))).filter (fun e => !e.2.isEmpty)

/-- A cause of every lane of a word: copies of what one plan step added. -/
def spreadPlan (ls : List Nat) (base p : Plan) : Plan :=
  { p with
    fails := base.fails ++ (p.fails.drop base.fails.length).flatMap (fun x => ls.map (fun l => { x with lane := l })),
    pages := base.pages ++ (p.pages.drop base.pages.length).flatMap (fun x => ls.map (fun l => { x with lane := l })) }

/-- The plan of a scaled-block instruction: accesses come in pairs, block then scale, per word. -/
def State.planBlocks (s : State) (i : Ins) (t : Team) (ls : List Nat) (wr : Bool) : State × Plan × Option Rec :=
  let key := fun l => i.memKey t l
  let q := s.record t.vf (s.tdir t) i.f.b.toNat
  match planRecord q.2 ls key i.offset with
  | .inr p => (q.1, p, none)
  | .inl r =>
    let sq := q.1.scaleRecord t r
    let sc := (sq.1, sq.2.dense)
    let n := scaledBytes r.enc
    let w : Want := { rd := !wr, wr := wr, width := fun _ => some n, cls := fun _ => true, both := false }
    let a := (wordLanes t ls).foldl (fun (a : State × Plan) e =>
      let l := e.2.headD 0
      let k := key l
      let o := i.offset
      match blockCheck r sc.2 i.f.ty k o wr with
      | some c =>
        (a.1, spreadPlan e.2 a.2 (if c = (cTABLE, 3) then
          (match sq.2 with
           | .fault va x => a.2.page l va x false k o
           | .perm => a.2.fail l cPERM 2 k o
           | _ => a.2.fail l c.1 c.2 k o) else a.2.fail l c.1 c.2 k o))
      | none =>
        let x := a.1.planWalk t.vf l k o (r.base + k * r.rowb + o) w a.2
        let y := x.1.planWalk t.vf l k o (scaleAddr r sc.2 k o) w x.2
        (y.1, spreadPlan e.2 a.2 y.2)) (sc.1, Plan.empty)
    (a.1, a.2, some r)

/-- Accesses paired again. -/
def pairAccs (accs : List Acc) (ws : List (Nat × List Nat)) : List BlockAt :=
  match accs, ws with
  | b :: c :: r, w :: v => { word := w.1, lanes := w.2, blk := b, scale := c } :: pairAccs r v
  | _, _ => []

/-- The units of scaled blocks. -/
def blockUnits (bs : List BlockAt) (word : Nat → List Byte) (elems : Nat → Nat) : List AUnit :=
  bs.filterMap (fun b =>
    match b.blk.place, b.scale.place with
    | .tab t va, .tab c cva =>
      some { lane := b.lanes.headD 0, lanes := b.lanes, key := b.blk.key, off := b.blk.off, tr := t, va := va, sc := some (c, cva),
             bytes := word (b.lanes.headD 0), x := 0, y := 0, elems := b.lanes.map (fun l => (l % 32, elems l)) }
    | _, _ => none)

/-- LDB (R168, R169). -/
def execLdb (f : Form) (s : State) : Host.Outcome State Fault Refusal :=
  let i := insW 0x102 f
  runIns i s (fun t ls =>
    if ls.isEmpty then s.finish i t
    else if f.b.toNat ≥ 64 then
      s.trapFails i (ls.map (fun l => { lane := l, cls := cTABLE, sub := 1, key := i.memKey t l % 2 ^ 32, off := i.offset }))
    else
      let q := s.planBlocks i t ls false
      let enc := match q.2.2 with | some r => r.enc | none => 8
      let ilv := match q.2.2 with | some r => r.ilv | none => 0
      let n := scaledBytes enc
      q.1.settle i t q.2.1 [] n true false (fun s =>
        s.runUnits i (t.markAll (ls.flatMap i.dstRefs)) enc ilv n (blockUnits (pairAccs q.2.1.accs (wordLanes t ls)) (fun _ => []) (fun _ => 0))))

/-- The scale word an STB supplies is malformed (R170). -/
def badScaleWord (enc w : Nat) : Bool := if enc = 11 then nfld w 11 9 != 0 else nfld w 15 9 != 0

/-- STB (R168, R170). -/
def execStb (f : Form) (s : State) : Host.Outcome State Fault Refusal :=
  let i := insW 0x103 f
  runIns i s (fun t ls =>
    if ls.isEmpty then s.finish i t
    else if f.b.toNat ≥ 64 then
      s.trapFails i (ls.map (fun l => { lane := l, cls := cTABLE, sub := 1, key := i.memKey t l % 2 ^ 32, off := i.offset }))
    else
      let q := s.planBlocks i t ls true
      let enc := match q.2.2 with | some r => r.enc | none => 8
      let ilv := match q.2.2 with | some r => r.ilv | none => 0
      let n := scaledBytes enc
      let extra := (wordLanes t ls).flatMap (fun e =>
        let l := e.2.headD 0
        if q.2.2.isSome && badScaleWord enc (i.opd t false l / 65536) then
          e.2.map (fun m => ({ lane := m, cls := cTABLE, sub := 4, key := i.memKey t l, off := i.offset } : Fail))
        else [])
      q.1.settle i t q.2.1 extra n false true (fun s =>
        s.runUnits i t enc ilv n (blockUnits (pairAccs q.2.1.accs (wordLanes t ls)) (fun l => natLe 2 (i.opd t false l / 65536)) (i.opd t false))))

/-! Atomics (R171–R173). -/

/-- The new value of an atomic (R171): operations of MOD, 8 for compare-and-swap with new value `y`. -/
def amoNew (op : Nat) (ty : Ty) (old x y : Nat) : Nat :=
  let w := if tyWide ty then 64 else 32
  if op = 8 then (if old = x then y else old)
  else if op = 6 then x
  else if tyFloat ty then
    let fmt := tyFmt ty
    (mapElems ty (fun j =>
      let a := fmt.value (elem ty old j)
      let b := fmt.value (elem ty x j)
      ((fmt.put .rne false (if op = 0 then FVal.add .rne a b else FVal.minmax (op == 2) a b).1).1, 0))).1
  else
    let a := elemInt ty old 0
    let b := elemInt ty x 0
    match op with
    | 0 => wrapInt w (a + b)
    | 1 => if b < a then x else old
    | 2 => if a < b then x else old
    | 3 => old &&& x
    | 4 => old ||| x
    | 5 => old ^^^ x
    | _ => if old ≥ x then 0 else old + 1

/-- The encodings an atomic admits (R171), and its width. -/
def amoWidth (ty : Ty) (enc : Nat) : Option Nat :=
  let n := if tyWide ty then 8 else 4
  if enc = 0 then some n
  else if (ty = .f32 ∧ enc = 1) ∨ (ty = .f64 ∧ enc = 12) ∨ (ty = .f16x2 ∧ enc = 2) ∨ (ty = .bf16x2 ∧ enc = 3) then some n
  else none

/-- The page classes an atomic admits (R172). -/
def amoClass (ty : Ty) (t : Tr) : Bool := t.cls == 1 || (t.cls == 2 && ty != .f16x2 && ty != .bf16x2)

/-- Registers that receive an atomic's result: none for AMN; the old value; for ACAS the old value, the flag and, in a 64-bit
lane form, a zero. DESIGN CHOICE: with KB = 1 in a lane form every lane's result lands in the one scalar destination, in
ascending lane order, so the highest lane's stays (R171, R173 do not say which; log entry 108; unsafe). -/
def amoDsts (opc : Nat) (f : Form) (l old : Nat) (flag : Bool) : List Dst :=
  let uni := f.uni || f.kb
  let d := f.d.toNat
  if opc = 0x105 ∨ opc = 0x1C4 then []
  else if opc = 0x104 then dstsOf uni f.ty d l old
  else if uni then dstsOf true f.ty d l old ++ [.s (d + 1) (BitVec.ofNat 64 (bnat flag))]
  else if tyWide f.ty then dstsOf false f.ty d l old ++ [.v (d + 2) l (BitVec.ofNat 32 (bnat flag)), .v (d + 3) l 0]
  else dstsOf false f.ty d l old ++ [.v (d + 1) l (BitVec.ofNat 32 (bnat flag))]

/-- What one atomic did: performed with its old value, met bad data, or is held. -/
inductive AmoEnd where
  | old (x : Nat)
  | bad (sub : Nat)
  | held
  deriving DecidableEq, Repr

/-- One read-modify-write at a place, written only where the value is a new one to write (R173: a compare that fails writes nothing). Behind a
write held to its block it waits whole (21 R349). -/
def State.amoAt (s : State) (pl : Place) (n : Nat) (a : HeldAmo) (w : Writer) : State × AmoEnd :=
  let r := s.loadPlace pl n
  if r.2 ≠ 0 then (s, .bad r.2)
  else
    let old := leNat r.1
    let bs := natLe n (amoNew a.op a.f.ty old a.x.toNat a.y.toNat)
    match pl with
    | .core k => if a.op = 8 ∧ old ≠ a.x.toNat then (s, .old old) else (s.putCore k bs, .old old)
    | .tab t va =>
      if !t.sys && s.blockHeld t.addr then ((s.storeDirty t.fn (t.parts bs) w va (.amo a)).1, .held)
      else if a.op = 8 ∧ old ≠ a.x.toNat then (s, .old old)
      else
        let x := s.storeDirty t.fn (t.parts bs) w va (.amo a)
        (x.1, match x.2 with | .done => .old old | .poison => .bad 1 | .held => .held)

/-- Expected and new value of an ACAS, or the operand of an AMO, in a lane. -/
def Ins.amoOperands (i : Ins) (t : Team) (l : Nat) : Nat × Nat :=
  let uni := i.f.uni || i.f.kb
  let d := i.f.d.toNat
  if i.op = 0x106 then
    (if uni then (t.opnd true i.wide d l, t.opnd true i.wide (d + 1) l)
     else if i.wide then (t.opnd false true d l, t.opnd false true (d + 2) l)
     else (t.vr d l, t.vr (d + 1) l))
  else (i.opd t i.wide l, 0)

/-- The three atomic instructions: performed at once in core memory, sent to their homes from tables (R172, 22 R358). -/
def runAmo (i : Ins) (s : State) : Host.Outcome State Fault Refusal :=
  runIns i s (fun t ls =>
    if ls.isEmpty then s.finish i t
    else
      let n := if i.wide then 8 else 4
      let q := s.plan i t ls { rd := i.op != 0x105, wr := true, width := amoWidth i.f.ty, cls := amoClass i.f.ty, both := true }
      let marked := if i.op = 0x105 then t else t.markAll (ls.flatMap i.dstRefs)
      q.1.settle i t q.2.1 [] n (i.op != 0x105) true (fun s =>
        if i.f.b.toNat < 64 then
          s.runUnits i marked q.2.2 0 n (accUnits q.2.1.accs (fun _ => []) (fun l => (i.amoOperands t l).1) (fun l => (i.amoOperands t l).2))
        else
          let r := q.2.1.accs.foldl (fun (r : State × List Dst × List (Acc × Nat)) a =>
            let v := i.amoOperands t a.lane
            let h : HeldAmo := { opc := i.op, op := if i.op = 0x106 then 8 else i.f.mod.toNat, f := i.f, lane := a.lane,
                                 x := BitVec.ofNat 64 v.1, y := BitVec.ofNat 64 v.2 }
            let e := r.1.amoAt a.place n h (.team s.cur t.pc i.len)
            match e.2 with
            | .old x => (e.1, r.2.1 ++ amoDsts i.op i.f a.lane x (x == v.1), r.2.2)
            | .bad sub => (e.1, r.2.1 ++ amoDsts i.op i.f a.lane 0 false, r.2.2 ++ [(a, sub)])
            | .held => (e.1, r.2.1, r.2.2)) (s, [], [])
          if i.op = 0x105 then r.1.finish i (t.addPend (eccPend i t r.2.2)) else r.1.landCore i t ls 2 r.2.1 r.2.2))

/-- AMO (R171). -/
def execAmo (f : Form) (s : State) : Host.Outcome State Fault Refusal := runAmo (insW 0x104 f) s
/-- AMN (R171). -/
def execAmn (f : Form) (s : State) : Host.Outcome State Fault Refusal := runAmo (insW 0x105 f) s
/-- ACAS (R173). -/
def execAcas (f : Form) (s : State) : Host.Outcome State Fault Refusal := runAmo (insW 0x106 f) s

/-! FENCE, PREF, LDC (R174–R176). -/

/-- The L1's dirty `ncoh` sectors of a function are written to their home L2 (22 R367). -/
def State.flushNc (s : State) (core vf : Nat) : State :=
  ((s.coh.nc.filter (fun e => e.1 / 2 ^ 52 == core && e.2.dirty != 0 && s.ownerOf ((e.1 % 2 ^ 52) * 32) == some vf)).map (fun e => e.1 % 2 ^ 52)).foldl
    (fun s k => s.flushSector core k) s

/-- The L1 drops its clean `ncoh` sectors of a function (22 R367). -/
def State.dropNc (s : State) (core vf : Nat) : State :=
  { s with coh := { s.coh with nc := s.coh.nc.filter (fun e =>
      !(e.1 / 2 ^ 52 == core && e.2.dirty == 0 && s.ownerOf ((e.1 % 2 ^ 52) * 32) == some vf)) } }

/-- The maintenance of a fence of block scope or wider: W in P writes back, R in Q drops (22 R367), and logical time follows the die's (R360). -/
def State.maintain (s : State) (core vf p q scope : Nat) : State :=
  let s1 := if nbit p 1 && decide (scope ≥ 1) then s.flushNc core vf else s
  let s2 := if nbit q 0 && decide (scope ≥ 1) then s1.dropNc core vf else s1
  if scope ≥ 1 then s2.syncLt core else s2

/-- Some earlier access of P of a fence is not performed, or a write-back of its own still waits for the dirty log (22 R367). -/
def State.fenceWaits (s : State) (i : Nat) (f : Form) : Bool :=
  let p := f.a.toNat % 32
  let t := s.team i
  p != 0 && f.b.toNat % 32 != 0 && (s.pending i p (nbit p 4)
    || (nbit p 1 && decide (f.mod.toNat ≥ 1) && s.held.any (fun h => match h.op with | .flush c _ => c == t.core && h.fn == t.vf | _ => false)))

/-- FENCE (R174): it completes once every earlier access of P is performed, its own write-backs too where the dirty log holds them (22 R367); the
team then goes on. -/
def execFence (f : Form) (s : State) : Host.Outcome State Fault Refusal :=
  let i := insW 0x107 f
  runUni i s (fun t =>
    let p := f.a.toNat % 32
    let q := f.b.toNat % 32
    if p = 0 ∨ q = 0 then s.finish i t
    else if s.fenceWaits s.cur f then s
    else
      let m := s.maintain t.core t.vf p q f.mod.toNat
      if m.fenceWaits s.cur f then m else m.finish i t)

/-- PREF (R175): no visible effect but in the caches. Lanes whose guard or key is empty, whose checks fail, or whose line finds no free entry are
dropped: it never stalls. DESIGN CHOICE: checks 5, 7 and 8 use a width of 1 byte and allow every encoding (R175 gives neither), a lane
whose guard is empty is dropped, though 03 R56 has every guard waited for, and `.l2` of a line of system memory, which has no home
die, goes to the L2 of the core's own die (log entry 107; unsafe for what the caches hold). -/
def execPref (f : Form) (s : State) : Host.Outcome State Fault Refusal :=
  let i := insW 0x108 f
  let t := s.team s.cur
  let ls := if f.uni then (if t.empty (.q f.gp.toNat) then [] else if i.guard t 0 then [0] else [])
    else t.lanes.filter (fun l => !t.empty (.p f.gp.toNat l) && i.guard t l)
  let keyed := ls.filter (fun l => !t.empty (if f.uni || f.ka then .s f.a.toNat else .v f.a.toNat l))
  if f.b.toNat ≥ 64 then .next (s.finish i t)
  else
    let q := s.plan i t keyed { rd := true, wr := false, width := fun _ => some 1, cls := fun _ => true, both := false }
    let us := accUnits q.2.1.accs (fun _ => []) (fun _ => 0) (fun _ => 0)
    let r : Rest := { opc := i.op, f := f, len := i.len, pc := t.pc, enc := 0, ilv := 0, n := 1, ins := 0, moved := 0, inside := [], out := us }
    let go := (r.enter (q.1.entriesFor t.core s.cur)).inside
    let s1 := go.foldl (fun s u =>
      if f.mod.toNat = 0 then (s.coreRead t.core (16 * t.part + t.slot) u.tr 1).1
      else s.touchEngine (if u.tr.sys then dieOf t.core else homeDie u.tr.addr) u.tr 1 false) q.1
    let s2 := if go.isEmpty then s1 else
      { s1 with replies := s1.replies ++ [{ team := s.cur, dsts := [], entry := some (t.core, (unitLines go).length), completes := false, bytes := 0,
                                            set := 5, trap := none }] }
    .next (s2.finish i t)

/-- The check of a parameter-block access at byte `x` (R176). -/
def paramCheck (x n plen : Nat) : Option (Nat × Nat) :=
  if x + n > plen then some (cBOUND, 4) else if x % n ≠ 0 then some (cALIGN, 0) else none

/-- The plan of LDC: accesses of `n` bytes to the launch's parameter block (R176, 19 R304). -/
def State.planParam (s : State) (i : Ins) (t : Team) (ls : List Nat) (n : Nat) : State × Plan :=
  let j := s.job t.job
  let base := fld (j.word 4) 56 0
  let plen := fld (j.word 5) 12 0
  let w : Want := { rd := true, wr := false, width := fun _ => some n, cls := fun _ => true, both := false }
  ls.foldl (fun (a : State × Plan) l =>
    let k := i.memKey t l % 2 ^ 32
    let x := k + i.offset
    match paramCheck x n plen with
    | some c => (a.1, a.2.fail l c.1 c.2 k i.offset)
    | none => a.1.planWalk t.vf l k i.offset (base + x) w a.2) (s, Plan.empty)

/-- LDC (R176). -/
def execLdc (f : Form) (s : State) : Host.Outcome State Fault Refusal :=
  let i := insW 0x109 f
  runIns i s (fun t ls =>
    if ls.isEmpty then s.finish i t
    else
      let n := if i.wide then 8 else 4
      let a := s.planParam i t ls n
      a.1.settle i t a.2 [] n true false (fun s =>
        s.runUnits i (t.markAll (ls.flatMap i.dstRefs)) 0 0 n (accUnits a.2.accs (fun _ => []) (fun _ => 0) (fun _ => 0))))

end Sys2Proof.Machine
end

