-- ==== Sys2Proof/Machine/TableOps.lean ====
section
/-!
DEFINITION. The table instructions in the issuing core (12 R230–R235, R238 TCLOSE, R240, R241) and KVX (15 R269): checks, then one
batch on its way to the home Spire. The team issues nothing more until the verdict, which advances its PC.
-/
namespace Sys2Proof.Machine

/-- Bytes of a key by width code (R231). -/
def keyBits (w : Nat) : Nat := if w = 0 then 32 else if w = 1 then 64 else 128

/-- The key area of a lane under a width code. -/
def Team.keyAt (t : Team) (uni : Bool) (a w l : Nat) : Nat :=
  if uni then (if w = 0 then t.sr a % 2 ^ 32 else if w = 1 then t.sr a else t.sr a + 2 ^ 64 * t.sr (a + 1))
  else if w = 0 then t.vr a l
  else if w = 1 then t.vr a l + 2 ^ 32 * t.vr (a + 1) l
  else t.vr a l + 2 ^ 32 * t.vr (a + 1) l + 2 ^ 64 * t.vr (a + 2) l + 2 ^ 96 * t.vr (a + 3) l

/-- Cursor instructions. -/
def isCursor (op : Nat) : Bool := decide (0x145 ≤ op ∧ op ≤ 0x148)

/-- The slot of a table instruction (R230). -/
def Ins.slot (i : Ins) : Nat := i.f.b.toNat % 64

/-- The key of a lane: the key area, a cursor's last key, of the table's width `w` (R221), or KVX's (sequence, block). TCLOSE reads none (R232). -/
def Ins.tableKey (i : Ins) (t : Team) (w l : Nat) : Nat :=
  let a := i.f.a.toNat
  if i.op = 0x162 then (t.vr a l + 2 ^ 32 * t.vr (a + 1) l) * 2 ^ 64 + t.vr (a + 2) l / 16
  else if i.op = 0x14A ∨ i.op = 0x148 then 0
  else if i.op = 0x149 then
    (if i.f.mod.toNat ≥ 4 then t.sr a % 2 ^ keyBits (i.f.mod.toNat % 4) else 0)
  else if isCursor i.op then (t.vr a l + 2 ^ 32 * t.vr (a + 1) l) % 2 ^ keyBits w
  else t.keyAt i.f.uni a (i.f.mod.toNat % 4) l

/-- A lane of the batch as read at issue. -/
def Ins.batchLane (i : Ins) (t : Team) (w l : Nat) : BatchLane :=
  let a := i.f.a.toNat
  let k := (tableKeyRegs i.op i.f).1
  let src := i.op == 0x141 || i.op == 0x143 || i.op == 0x144
  let m := if src then tableWindow i.op i.f else 0
  { lane := l, key := i.tableKey t w l,
    win := (upTo m).map (fun j => BitVec.ofNat 32 (if i.f.uni then t.sr (a + k + j) else t.vr (a + k + j) l)),
    bound := if i.op = 0x149 then t.sr (a + 1) % 2 ^ keyBits (i.f.mod.toNat % 4)
             else if i.op = 0x162 then t.vr (a + 2) l
             else if isCursor i.op then t.vr (a + 2) l + 2 ^ 32 * t.vr (a + 3) l else 0,
    hint := if isCursor i.op then BitVec.ofNat 32 (t.vr (a + 4) l) else 0,
    flags := if isCursor i.op then BitVec.ofNat 32 (t.vr (a + 5) l) else 0 }

/-- The kinds an instruction accepts (R232). -/
def tableKind (op : Nat) (f : Form) (kind : Nat) : Bool :=
  if op = 0x162 ∨ op = 0x144 then kind == 3
  else if isCursor op then kind == 1
  else if op = 0x140 ∧ f.mod.toNat ≥ 4 then kind == 3
  else if op = 0x149 ∧ f.mod.toNat ≥ 4 then kind == 1
  else kind != 0

/-- The permission an instruction needs (R232, R269). -/
def tablePerm (op : Nat) (r : Rec) : Bool :=
  if op = 0x140 ∨ op = 0x14A ∨ op = 0x162 then r.pr
  else if op = 0x141 ∨ op = 0x144 then r.pi
  else if op = 0x142 then r.pd
  else if op = 0x143 then r.pw
  else if op = 0x148 then true
  else r.ps

/-- The instruction's MOD carries a key width (R230, R232, R240, R241). -/
def carriesKeyw (op : Nat) (f : Form) : Bool :=
  op == 0x140 || op == 0x141 || op == 0x142 || op == 0x143 || op == 0x144 || (op == 0x149 && decide (f.mod.toNat ≥ 4))

/-- Orders 2 to 6 of R233; TCLOSE and TSTAT have the first two alone (R238, R241). -/
def tableCheck (i : Ins) (r : Rec) : Option (Nat × Nat) :=
  let m := tableWindow i.op i.f
  let o := if i.op = 0x162 then 0 else i.offset
  if !tableKind i.op i.f r.kind then some (cTABLE, 1)
  else if carriesKeyw i.op i.f && i.f.mod.toNat % 4 != r.keyw then some (cTABLE, 9)
  else if !tablePerm i.op r then some (cPERM, 1)
  else if i.op = 0x148 ∨ i.op = 0x14A then none
  else if o + 4 * m > r.rowb then some (cBOUND, 2)
  else if o % 4 ≠ 0 then some (cALIGN, 0)
  else none

/-- Key width of the table that an instruction names; 64 bits where its record cannot be read. -/
def State.tableWidth (s : State) (i : Ins) (t : Team) : Nat := match (s.record t.vf (s.tdir t) i.slot).2 with | .ok r => r.keyw | _ => 1

/-- The plan of a table instruction: every lane's cause, or none. -/
def State.planTable (s : State) (i : Ins) (t : Team) (ls : List Nat) : State × Plan :=
  let q := s.record t.vf (s.tdir t) i.slot
  let o := if i.op = 0x162 then 0 else i.offset
  match planRecord q.2 ls (i.tableKey t 1) o with
  | .inr p => (q.1, p)
  | .inl r =>
    (q.1, ls.foldl (fun p l => match tableCheck i r with | some c => p.fail l c.1 c.2 (i.tableKey t r.keyw l) o | none => p) Plan.empty)

/-- What a table instruction does to its keys, for watch ranges (R203): reads, writes. -/
def tableReadsKey (op : Nat) : Bool := op == 0x140 || isCursor op || op == 0x162
def tableWritesKey (op : Nat) : Bool := op == 0x141 || op == 0x142 || op == 0x143 || op == 0x144

/-- Watch ranges see the keys of a table instruction as accesses of its slot; the place is not read. DESIGN CHOICE: TOPEN, TNEXT and TSEEK are
the scans of R203 and TLOOK its lookup; TCNT, TSTAT and KVX are neither (R203 does not say; log entry 111; unsafe). -/
def State.tableWatch (s : State) (i : Ins) (t : Team) (ls : List Nat) : Option State :=
  let at_ : Place := .tab { sys := false, addr := 0, cls := 1, grain := 0, cmp := false, fn := t.vf } 0
  if i.op = 0x149 ∨ i.op = 0x14A ∨ i.op = 0x162 then none
  else s.watchTrap i t i.slot 1 (tableReadsKey i.op) (tableWritesKey i.op)
         (ls.map (fun l => { lane := l, key := i.tableKey t (s.tableWidth i t) l, off := i.offset, place := at_ }))

/-- Home die of the table that an instruction names. -/
def State.spireOf (s : State) (i : Ins) (t : Team) : Nat := match (s.record t.vf (s.tdir t) i.slot).2 with | .ok r => r.home | _ => 0

/-- The queue of a Spire has room for a batch (11 R217); its size is free, one at least (log entry 97). -/
def State.spireRoom (s : State) (home : Nat) : Bool :=
  decide ((s.batches.filter (fun b => match (s.record b.vf b.dir b.slot).2 with | .ok r => r.home == home | _ => false)).length ≤ Config.spireQueue)

/-- A table instruction: checks, then its batch (R233, R235). -/
def runTable (i : Ins) (s : State) : Host.Outcome State Fault Refusal :=
  runIns i s (fun t ls =>
    if ls.isEmpty then s.finish i t
    else
      let q := s.planTable i t ls
      if !q.2.fails.isEmpty then q.1.trapFails i q.2.fails
      else if !q.2.pages.isEmpty then q.1.pageFault i 1 q.2.pages
      else
        match q.1.tableWatch i t ls with
        | some s' => s'
        | none =>
          if !q.1.mayEnter t.core s.cur || !q.1.spireRoom (q.1.spireOf i t) then q.1.reject s.cur
          else
            let s1 := q.1.entered s.cur
            let t1 := (s1.team s.cur).markAll (ls.flatMap i.dstRefs)
            let b : Batch := { team := s.cur, vf := t.vf, die := dieOf t.core, core := t.core, op := i.op, len := i.len, f := i.f,
                               dir := s.tdir t, slot := i.slot, arrive := s.clock.toNat, lanes := ls.map (i.batchLane t (s.tableWidth i t)) }
            { s1.setTeam s.cur { t1 with verdict := true } with batches := s1.batches ++ [b] })

/-- TLOOK (R236). -/
def execTlook (f : Form) (s : State) : Host.Outcome State Fault Refusal := runTable (insW 0x140 f) s
/-- TINS (R236). -/
def execTins (f : Form) (s : State) : Host.Outcome State Fault Refusal := runTable (insW 0x141 f) s
/-- TDEL (R236). -/
def execTdel (f : Form) (s : State) : Host.Outcome State Fault Refusal := runTable (insW 0x142 f) s
/-- TMOD (R236). -/
def execTmod (f : Form) (s : State) : Host.Outcome State Fault Refusal := runTable (insW 0x143 f) s
/-- TSET (R236). -/
def execTset (f : Form) (s : State) : Host.Outcome State Fault Refusal := runTable (insW 0x144 f) s
/-- TOPEN (R238). -/
def execTopen (f : Form) (s : State) : Host.Outcome State Fault Refusal := runTable (insW 0x145 f) s
/-- TNEXT (R238). -/
def execTnext (f : Form) (s : State) : Host.Outcome State Fault Refusal := runTable (insW 0x146 f) s
/-- TSEEK (R238). -/
def execTseek (f : Form) (s : State) : Host.Outcome State Fault Refusal := runTable (insW 0x147 f) s
/-- TCNT (R240). -/
def execTcnt (f : Form) (s : State) : Host.Outcome State Fault Refusal := runTable (insW 0x149 f) s
/-- TSTAT (R241). -/
def execTstat (f : Form) (s : State) : Host.Outcome State Fault Refusal := runTable (insW 0x14A f) s
/-- KVX (15 R269): its lookups form one batch. -/
def execKvx (f : Form) (s : State) : Host.Outcome State Fault Refusal := runTable (insW 0x162 f) s

/-- The flags of a closed cursor (R238). -/
def closedFlags (x : W32) : W32 := (x &&& 0xFFFF0000) ||| 3

/-- TCLOSE (R238): in the core, under orders 1 and 2 of R233. -/
def execTclose (f : Form) (s : State) : Host.Outcome State Fault Refusal :=
  let i := insW 0x148 f
  runIns i s (fun t ls =>
    if ls.isEmpty then s.finish i t
    else
      let q := s.planTable i t ls
      if !q.2.fails.isEmpty then q.1.trapFails i q.2.fails
      else if !q.2.pages.isEmpty then q.1.pageFault i 1 q.2.pages
      else
        q.1.finish i (ls.foldl (fun (t : Team) l =>
          (t.setV (f.a.toNat + 4) l 0).setV (f.a.toNat + 5) l (closedFlags (BitVec.ofNat 32 (t.vr (f.a.toNat + 5) l))).toNat) t))

end Sys2Proof.Machine
end

