-- ==== Sys2Proof/Machine/Spire.lean ====
section
/-!
DEFINITION. The Spire (11 R212–R229, 12 R236–R241): the B-link and hashed indexes, the evaluation of a batch as a whole, and the
event SPIRE_BATCH. The contents of the index region are private to the Spire: it is held as data of its own, and each header, node
and line that stands in memory is marked there by a nonzero word (log entry 16).
-/
namespace Sys2Proof.Machine

def Node.blank : Node := { leaf := true, low := none, high := 2 ^ 128, right := none, ents := [] }

def Table.node (tb : Table) (n : Nat) : Node := SMap.get tb.nodes n Node.blank
def Table.setNode (tb : Table) (n : Nat) (x : Node) : Table := { tb with nodes := SMap.ins (SMap.drop tb.nodes n) n x }

/-- A freshly formatted region (R212, R213); an ordered table has its root leaf. -/
def Table.format (r : Rec) : Table :=
  let tb : Table := { Table.blank with
    kind := r.kind, keyw := r.keyw, rowb := r.rowb, rowlim := r.rowlim, base := r.base, home := r.home, fanout := r.fanout,
    hlog2 := r.hlog2, hseed := r.hseed, ilog2 := r.ilog2, gen := r.gen }
  if r.kind = 1 then { tb.setNode 0 Node.blank with alloc := 1, height := 1 } else tb

/-- The record agrees with the header in every field of R212 but GEN. -/
def Table.agrees (tb : Table) (r : Rec) : Bool :=
  tb.kind == r.kind && tb.keyw == r.keyw && tb.rowb == r.rowb && tb.rowlim == r.rowlim && tb.base == r.base && tb.home == r.home
    && tb.fanout == r.fanout && tb.hlog2 == r.hlog2 && tb.hseed == r.hseed && tb.ilog2 == r.ilog2

/-! The ordered index (R219, R220). -/

/-- The child under which a key lies: the first entry whose key is not below it. -/
def childFor (ents : List (Nat × Nat)) (k : Nat) : Nat :=
  match ents.find? (fun e => decide (k ≤ e.1)) with
  | some e => e.2
  | none => (ents.getLastD (0, 0)).2

/-- The nodes from the root to the leaf of a key, leaf first. -/
def Table.path (tb : Table) (fuel n k : Nat) (acc : List Nat) : List Nat :=
  match fuel with
  | 0 => n :: acc
  | m + 1 => if (tb.node n).leaf then n :: acc else tb.path m (childFor (tb.node n).ents k) k (n :: acc)

def Table.pathTo (tb : Table) (k : Nat) : List Nat := tb.path tb.height tb.root k []

/-- An entry put at its place. -/
def entPut (ents : List (Nat × Nat)) (k v : Nat) : List (Nat × Nat) := insertBy (fun a b => decide (a.1 < b.1)) (k, v) ents

/-- A child's entry (H, C) becomes (h, C), and (H, N) follows it. -/
def postSplit (ents : List (Nat × Nat)) (c h n : Nat) : List (Nat × Nat) :=
  match ents with
  | [] => []
  | e :: r => if e.2 = c then (h, c) :: (e.1, n) :: r else e :: postSplit r c h n

/-- Splits of R219 up a path, leaf first. -/
def Table.splitUp (tb : Table) (fan : Nat) (path : List Nat) : Table :=
  match path with
  | [] => tb
  | c :: up =>
    let x := tb.node c
    if x.ents.length ≤ fan then tb
    else
      let k := (x.ents.length + 1) / 2
      let h := ((x.ents.take k).getLastD (0, 0)).1
      let n := tb.alloc
      let t1 := (tb.setNode c { x with ents := x.ents.take k, high := h, right := some n }).setNode n
        { x with ents := x.ents.drop k, low := some h }
      let t2 := { t1 with alloc := n + 1, splits := tb.splits + 1 }
      match up with
      | [] =>
        let rt : Node := { leaf := false, low := none, high := 2 ^ 128, right := none, ents := [(h, c), (x.high, n)] }
        { t2.setNode (n + 1) rt with alloc := n + 2, root := n + 1, height := tb.height + 1 }
      | p :: _ =>
        let px := t2.node p
        (t2.setNode p { px with ents := postSplit px.ents c h n }).splitUp fan up

/-! The hashed index (R224). -/

/-- bucket(K). -/
def hashBucket (keyw hseed hlog2 k : Nat) : Nat :=
  let fold := if keyw < 2 then k else (k % 2 ^ 64) ^^^ ((k / 2 ^ 64 * 0xC2B2AE3D27D4EB4F) % 2 ^ 64)
  let p := ((fold ^^^ hseed) * 0x9E3779B97F4A7C15) % 2 ^ 64
  p / 2 ^ (64 - hlog2)

def Table.bucket (tb : Table) (k : Nat) : Nat := hashBucket tb.keyw tb.hseed tb.hlog2 k
/-- Entries of a line by key width. -/
def lineCap (keyw : Nat) : Nat := if keyw = 0 then 15 else if keyw = 1 then 10 else 6

def Table.chain (tb : Table) (h : Nat) : List (Nat × List (Nat × Nat)) := SMap.get tb.chains h [(0, [])]
def Table.setChain (tb : Table) (h : Nat) (c : List (Nat × List (Nat × Nat))) : Table :=
  { tb with chains := SMap.put tb.chains h c [(0, [])] }

/-- An entry put into the first line with room, none if every line is full. -/
def chainPut (cap : Nat) (c : List (Nat × List (Nat × Nat))) (e : Nat × Nat) : Option (List (Nat × List (Nat × Nat))) :=
  match c with
  | [] => none
  | l :: r => if l.2.length < cap then some ((l.1, l.2 ++ [e]) :: r) else (chainPut cap r e).map (fun x => l :: x)

/-- Overflow lines in use. -/
def Table.overflow (tb : Table) : Nat := tb.alloc - tb.freeLines.length

/-! Both kinds. -/

/-- Every entry (key, slot). -/
def Table.ents (tb : Table) : List (Nat × Nat) :=
  if tb.kind = 1 then (tb.nodes.filter (fun n => n.2.leaf)).flatMap (fun n => n.2.ents)
  else tb.chains.flatMap (fun c => c.2.flatMap (fun l => l.2))

/-- The slot of a key. -/
def Table.findKey (tb : Table) (k : Nat) : Option Nat :=
  let es := if tb.kind = 1 then (tb.node ((tb.pathTo k).headD 0)).ents else (tb.chain (tb.bucket k)).flatMap (fun l => l.2)
  (es.find? (fun e => e.1 == k)).map (fun e => e.2)

/-- The table with a new entry. -/
def Table.addKey (tb : Table) (k v : Nat) : Table :=
  if tb.kind = 1 then
    let p := tb.pathTo k
    let l := p.headD 0
    let x := tb.node l
    (tb.setNode l { x with ents := entPut x.ents k v }).splitUp (if tb.fanout = 0 then 32 else tb.fanout) p
  else
    let h := tb.bucket k
    match chainPut (lineCap tb.keyw) (tb.chain h) (k, v) with
    | some c => tb.setChain h c
    | none =>
      match tb.freeLines with
      | n :: r => { tb.setChain h (tb.chain h ++ [(n, [(k, v)])]) with freeLines := r }
      | [] => { tb.setChain h (tb.chain h ++ [(tb.alloc + 1, [(k, v)])]) with alloc := tb.alloc + 1 }

/-- The table without a key. -/
def Table.dropKey (tb : Table) (k : Nat) : Table :=
  if tb.kind = 1 then
    let l := (tb.pathTo k).headD 0
    let x := tb.node l
    tb.setNode l { x with ents := x.ents.filter (fun e => e.1 != k) }
  else
    let h := tb.bucket k
    let c := (tb.chain h).map (fun l => (l.1, l.2.filter (fun e => e.1 != k)))
    let empty := (c.drop 1).filter (fun l => l.2.isEmpty)
    { tb.setChain h (c.take 1 ++ (c.drop 1).filter (fun l => !l.2.isEmpty)) with freeLines := empty.map (fun l => l.1) ++ tb.freeLines }

/-- Takes a heap slot: the most recently freed first, else the lowest never used (R214). -/
def Table.takeSlot (tb : Table) : Nat × Table :=
  match tb.freeSlots with
  | n :: r => (n, { tb with freeSlots := r })
  | [] => (tb.nextSlot, { tb with nextSlot := tb.nextSlot + 1 })
def Table.giveSlot (tb : Table) (n : Nat) : Table := { tb with freeSlots := n :: tb.freeSlots }

def Table.ref (tb : Table) (n : Nat) : Nat := SMap.get tb.refs n 0
def Table.setRef (tb : Table) (n x : Nat) : Table := { tb with refs := SMap.put tb.refs n x 0 }

/-- The least key in [lo, hi]. -/
def Table.least (tb : Table) (lo hi : Nat) : Option (Nat × Nat) :=
  leastBy (fun (e : Nat × Nat) => e.1) (tb.ents.filter (fun e => decide (lo ≤ e.1) && decide (e.1 ≤ hi)))

/-! Places in the index region (R213). -/

/-- Address of node or overflow line `n` (lines count from 1). -/
def unitAddr (r : Rec) (n : Nat) : Nat := r.ibase + r.fixed + (if r.kind = 1 then n else n - 1) * r.unit
/-- Units that the region holds beyond its fixed part. -/
def unitRoom (r : Rec) : Nat := (2 ^ r.ilog2 - r.fixed) / r.unit

/-- The index places an operation on a key reads. -/
def indexPlaces (r : Rec) (tb : Table) (k : Nat) : List (Nat × Nat) :=
  if tb.kind = 1 then (tb.pathTo k).map (fun n => (unitAddr r n, r.unit))
  else
    let h := tb.bucket k
    (tb.chain h).map (fun l => if l.1 = 0 then (r.ibase + 4096 + 128 * h, 128) else (unitAddr r l.1, 128))

/-! The Spire's accesses: every page walked, POISON found. -/

/-- What stops an operation of a lane. -/
inductive SpStop where
  | fault (cls sub : Nat)
  | page (va cause : Nat) (w : Bool)
  deriving DecidableEq, Repr

/-- The error log records the table of an index line in POISON (R227, 24 R391; log entry 90). -/
def State.lineErr (s : State) (vf : Nat) (r : Rec) (slot : Nat) : State :=
  s.logErr 3 r.home vf (some (BitVec.ofNat 64 r.ibase)) none [BitVec.ofNat 64 slot]

/-- A range is resident, permitted and clean. -/
def State.spReach (s : State) (vf die va n : Nat) (wr : Bool) : State × Option SpStop :=
  (cutRange 4097 65536 va n).foldl (fun (a : State × Option SpStop) e =>
    match a.2 with
    | some _ => a
    | none =>
      let q := a.1.walk vf e.1 true wr
      match q.2 with
      | .ok t => if (q.1.readTr t e.2).2 then (q.1, some (.fault cECC 1)) else (q.1.touchEngine die t e.2 wr, none)
      | .fault c => (q.1, some (.page e.1 c wr))
      | .perm => (q.1, some (.fault cPERM 2))) (s, none)

def State.spReachAll (s : State) (vf die : Nat) (wr : Bool) (rs : List (Nat × Nat)) : State × Option SpStop :=
  rs.foldl (fun (a : State × Option SpStop) r =>
    match a.2 with
    | some _ => a
    | none => a.1.spReach vf die r.1 r.2 wr) (s, none)

/-- Bytes of a range that has been reached. -/
def State.spBytes (s : State) (vf va n : Nat) : List Byte :=
  match (s.vread vf va n).2 with
  | .ok bs _ => bs
  | _ => []

/-- A word of a row. -/
def rowWords (m : Nat) (bs : List Byte) : List W32 := (upTo m).map (fun j => BitVec.ofNat 32 (leNat ((bs.drop (4 * j)).take 4)))
def wordBytes (ws : List W32) : List Byte := ws.flatMap (fun w => natLe 4 w.toNat)

/-- The places of a unit that marks stand at: its start, and each block it reaches into. -/
def unitMarks (r : Rec) (a : Nat) : List Nat := (cutRange 9 256 a r.unit).map (fun e => e.1)

/-- Marks on nodes and lines that came into being. -/
def State.markUnits (s : State) (vf : Nat) (r : Rec) (lo hi : Nat) : State :=
  ((upTo (hi - lo)).flatMap (fun j => unitMarks r (unitAddr r (lo + j + (if r.kind = 1 then 0 else 1))))).foldl (fun s a => s.vput vf a (natLe 8 1)) s

/-- The result of a lane: found, its window, its cursor (last, hint, flags), its value. -/
structure LaneRes where
  found : Bool
  win : List W32
  cur : Option (Nat × W32 × W32)
  val : Option Nat
  deriving DecidableEq, Repr

def LaneRes.none : LaneRes := { found := false, win := [], cur := .none, val := .none }
def LaneRes.hit (b : Bool) : LaneRes := { LaneRes.none with found := b }

/-- State of an evaluation: the machine and table as they would be after the lanes so far. -/
structure Eval where
  s : State
  tb : Table
  stop : Option SpStop
  res : LaneRes
  /-- What stopped it was a row, not the index. -/
  row : Bool := false

/-- An evaluation that goes on once ranges are reached. -/
def State.evalReach (s : State) (vf : Nat) (tb : Table) (wr : Bool) (rs : List (Nat × Nat)) (k : State → Eval) : Eval :=
  let q := s.spReachAll vf tb.home wr rs
  match q.2 with
  | some x => { s := q.1, tb := tb, stop := some x, res := LaneRes.none }
  | .none => k q.1

/-- As `evalReach`, of a row. -/
def State.rowReach (s : State) (vf : Nat) (tb : Table) (wr : Bool) (va n : Nat) (k : State → Eval) : Eval :=
  let q := s.spReach vf tb.home va n wr
  match q.2 with
  | some x => { s := q.1, tb := tb, stop := some x, res := LaneRes.none, row := true }
  | .none => k q.1

def rowAddr (r : Rec) (slot : Nat) : Nat := r.base + slot * r.rowb

/-- A new entry of the index, marked in memory. -/
def State.spAdd (s : State) (vf : Nat) (r : Rec) (tb : Table) (k v : Nat) (done : Table → Table) : Eval :=
  let t1 := tb.addKey k v
  let h := tb.bucket k
  let reused := if t1.freeLines.length < tb.freeLines.length then [(unitAddr r (tb.freeLines.headD 0), r.unit)] else []
  let new := reused ++ (upTo (t1.alloc - tb.alloc)).map (fun j => (unitAddr r (tb.alloc + j + (if r.kind = 1 then 0 else 1)), r.unit))
  s.evalReach vf tb true new (fun s =>
    let s1 := s.markUnits vf r tb.alloc t1.alloc
    let s2 := if r.kind = 1 then s1 else s1.vput vf (r.ibase + 4096 + 128 * h) (natLe 8 1)
    { s := s2, tb := done t1, stop := none, res := LaneRes.hit true })

/-- The reference count of a row of a KV-paged table (R213, R225). -/
def refPlace (r : Rec) (n : Nat) : Nat × Nat := (r.ibase + 4096 + 128 * 2 ^ r.hlog2 + 4 * n, 4)

/-- An evaluation that goes on once the counts of rows are reached, where the table has them. -/
def State.refReach (s : State) (vf : Nat) (r : Rec) (tb : Table) (wr : Bool) (n : Nat) (k : State → Eval) : Eval :=
  if r.kind = 3 then s.evalReach vf tb wr [refPlace r n] k else k s

/-- point(l) of R236; `o` the offset, `uniq` the unique form. -/
def spPoint (op : Nat) (slotForm uniq : Bool) (vf : Nat) (r : Rec) (o m : Nat) (s : State) (tb : Table) (x : BatchLane) : Eval :=
  let k := x.key
  let e := tb.findKey k
  let idx := indexPlaces r tb k
  let miss (s : State) : Eval := { s := s, tb := tb, stop := none, res := LaneRes.none }
  let bad (s : State) (c sub : Nat) : Eval := { s := s, tb := tb, stop := some (.fault c sub), res := LaneRes.none }
  s.evalReach vf tb (op != 0x140) idx (fun s =>
    match op with
    | 0x140 =>
      (match e with
       | .none => miss s
       | some n =>
         if slotForm then { s := s, tb := tb, stop := none, res := { LaneRes.hit true with win := [BitVec.ofNat 32 n] } }
         else s.rowReach vf tb false (rowAddr r n + o) (4 * m) (fun s =>
           { s := s, tb := tb, stop := none, res := { LaneRes.hit true with win := rowWords m (s.spBytes vf (rowAddr r n + o) (4 * m)) } }))
    | 0x141 =>
      (match e with
       | some _ => if uniq then bad s cDUPK 0 else miss s
       | .none =>
         let q := tb.takeSlot
         s.rowReach vf tb true (rowAddr r q.1) r.rowb (fun s => s.refReach vf r tb true q.1 (fun s =>
           let row := List.replicate o (0 : Byte) ++ wordBytes x.win ++ List.replicate (r.rowb - o - 4 * m) 0
           (s.vput vf (rowAddr r q.1) row).spAdd vf r q.2 k q.1 (fun t => if r.kind = 3 then t.setRef q.1 1 else t))))
    | 0x142 =>
      (match e with
       | .none => miss s
       | some n => s.refReach vf r tb true n (fun s =>
         let t1 := tb.dropKey k
         let t2 := if r.kind = 3 then t1.setRef n (tb.ref n - 1) else t1
         if r.kind = 3 ∧ tb.ref n > 1 then { s := s, tb := t2, stop := none, res := LaneRes.hit true }
         else s.rowReach vf tb true (rowAddr r n) r.rowb (fun s =>
           { s := s.vput vf (rowAddr r n) (List.replicate r.rowb 0), tb := t2.giveSlot n, stop := none, res := LaneRes.hit true })))
    | 0x143 =>
      (match e with
       | .none => miss s
       | some n => s.rowReach vf tb true (rowAddr r n + o) (4 * m) (fun s =>
           { s := s.vput vf (rowAddr r n + o) (wordBytes x.win), tb := tb, stop := none, res := LaneRes.hit true }))
    | _ =>
      let n := (x.win.headD 0).toNat
      if n ≥ r.rowlim then bad s cTABLE 10
      else s.refReach vf r tb true n (fun s =>
        if tb.ref n = 0 then bad s cTABLE 10
        else
        (match e with
         | some _ => if uniq then bad s cDUPK 0 else miss s
         | .none => if tb.ref n ≥ 2 ^ 32 - 1 then bad s cTABLE 8 else s.spAdd vf r tb k n (fun t => t.setRef n (tb.ref n + 1)))))

/-- Cursor flags. -/
def curFlags (gen : Nat) (started exhausted : Bool) : W32 := BitVec.ofNat 32 (bnat started + 2 * bnat exhausted + 65536 * gen)

/-- The leaves read from leaf n rightward: to one whose high key is not below `lo`, and on until one holds a key in [lo, bound] or the bound is passed
(R223). -/
def Table.scanFrom (tb : Table) (fuel n lo bound : Nat) : List Nat :=
  match fuel with
  | 0 => []
  | m + 1 =>
    let x := tb.node n
    if decide (lo ≤ x.high) && (x.ents.any (fun e => decide (lo ≤ e.1) && decide (e.1 ≤ bound)) || decide (bound ≤ x.high)) then [n]
    else match x.right with
      | some k => n :: tb.scanFrom m k lo bound
      | none => [n]

/-- The leaf of the table that a hint names, where the search may begin there: the first of its level, or its low key is below the last one. -/
def Table.hinted (tb : Table) (hint : W32) (last : Nat) : Option Nat :=
  (tb.nodes.find? (fun e => e.2.leaf && Config.leafHint e.1 == hint && (match e.2.low with | none => true | some l => decide (l < last)))).map (fun e => e.1)

/-- The nodes that a cursor's search reads: from the hinted leaf, else down from the root, and on rightward (R223). -/
def Table.searched (tb : Table) (hint : Option W32) (last lo bound : Nat) : List Nat :=
  match (match hint with | some h => tb.hinted h last | none => none) with
  | some n => tb.scanFrom (tb.nodes.length + 1) n lo bound
  | none => (tb.pathTo last).drop 1 ++ tb.scanFrom (tb.nodes.length + 1) ((tb.pathTo last).headD 0) lo bound

def nodePlaces (r : Rec) (ns : List Nat) : List (Nat × Nat) := ns.map (fun n => (unitAddr r n, r.unit))

/-- tseek_body of R238. -/
def spSeek (vf : Nat) (r : Rec) (s : State) (tb : Table) (gen last bound : Nat) : Eval :=
  s.evalReach vf tb false (nodePlaces r (tb.searched none last last bound)) (fun s =>
    { s := s, tb := tb, stop := none,
      res := { LaneRes.hit (tb.least last bound).isSome with
               cur := some (last, Config.leafHint ((tb.pathTo last).headD 0), curFlags gen false (decide (last > bound))) } })

/-- A cursor instruction in one lane (R222, R238). -/
def spCursor (op vf : Nat) (r : Rec) (o m : Nat) (s : State) (tb : Table) (x : BatchLane) : Eval :=
  let w := 2 ^ keyBits r.keyw
  let last := x.key % w
  let bound := x.bound % w
  let gen := x.flags.toNat / 65536
  let bad (c sub : Nat) : Eval := { s := s, tb := tb, stop := some (.fault c sub), res := LaneRes.none }
  if op = 0x145 then spSeek vf r s tb tb.gen last bound
  else if gen ≠ tb.gen then bad cTABLE 6
  else if x.flags.toNat / 4 % 2 ^ 14 ≠ 0 then bad cTABLE 7
  else if op = 0x147 then spSeek vf r s tb gen last bound
  else if x.flags.getLsbD 1 then { s := s, tb := tb, stop := none, res := LaneRes.none }
  else
    let lo := if x.flags.getLsbD 0 then last + 1 else last
    s.evalReach vf tb false (nodePlaces r (tb.searched (some x.hint) last lo bound)) (fun s =>
      match tb.least lo bound with
      | .none =>
        { s := s, tb := tb, stop := none,
          res := { LaneRes.none with cur := some (last, x.hint, curFlags gen (x.flags.getLsbD 0) true) } }
      | some e =>
        s.rowReach vf tb false (rowAddr r e.2 + o) (4 * m) (fun s =>
          { s := s, tb := tb, stop := none,
            res := { found := true, win := rowWords m (s.spBytes vf (rowAddr r e.2 + o) (4 * m)),
                     cur := some (e.1, Config.leafHint ((tb.pathTo e.1).headD 0), curFlags gen true false), val := .none } }))

/-- TCNT and TSTAT (R240, R241). DESIGN CHOICE: TCNT reads every node of an ordered table, and no line of a hashed or KV-paged one: R240 gives the count and
not which places are read for it, hence which page or POISON it meets (log entry 124; unsafe for the traps and parks). -/
def spWhole (op mod vf : Nat) (r : Rec) (s : State) (tb : Table) (x : BatchLane) : Eval :=
  let out (v : Nat) (s : State) : Eval := { s := s, tb := tb, stop := none, res := { LaneRes.none with val := some v } }
  let keys := tb.ents.length
  if op = 0x149 then
    let places := if tb.kind = 1 then tb.nodes.map (fun n => (unitAddr r n.1, r.unit)) else []
    s.evalReach vf tb false places (out (if mod ≥ 4 then (tb.ents.filter (fun e => decide (x.key ≤ e.1) && decide (e.1 ≤ x.bound))).length else keys))
  else
    out (match mod with
      | 0 => keys
      | 1 => tb.nextSlot - tb.freeSlots.length
      | 2 => 2 ^ tb.ilog2 - r.fixed - tb.alloc * r.unit
      | 3 => if tb.kind = 1 then tb.height else tb.overflow
      | 4 => tb.gen
      | _ => tb.splits.toNat) s

/-- One lane's operation. -/
def spLane (b : Batch) (r : Rec) (s : State) (tb : Table) (x : BatchLane) : Eval :=
  let m := tableWindow b.op b.f
  let o := ({ op := b.op, len := b.len, f := b.f } : Ins).offset
  let uniq := decide (b.f.mod.toNat ≥ 4) || r.uniq
  if b.op = 0x162 then
    let e := spPoint 0x140 true false b.vf r 0 1 s tb x
    { e with res := if e.res.found then { e.res with win := e.res.win ++ [BitVec.ofNat 32 (x.bound % 16 * (r.rowb / 16))] } else e.res }
  else if isCursor b.op then spCursor b.op b.vf r o m s tb x
  else if b.op = 0x149 ∨ b.op = 0x14A then spWhole b.op b.f.mod.toNat b.vf r s tb x
  else spPoint b.op (decide (b.f.mod.toNat ≥ 4)) uniq b.vf r o m s tb x

/-- Lane number n (from 1) of the inserts of a batch finds its reservation (R226). -/
def roomFor (op : Nat) (r : Rec) (tb : Table) (n : Nat) : Bool :=
  let slots := tb.freeSlots.length + (r.rowlim - tb.nextSlot)
  let units := unitRoom r - tb.alloc + (if r.kind = 1 then 0 else tb.freeLines.length)
  (op != 0x141 || decide (n ≤ slots)) && decide ((if r.kind = 1 then n * (tb.height + 1) else n) ≤ units)

/-- What the lanes of a batch found. -/
structure BatchEval where
  s : State
  tb : Table
  causes : List (Nat × Nat × Nat)
  pages : List (Nat × Nat × Nat × Bool)
  res : List (Nat × LaneRes)
  /-- A lane met an index line in POISON. -/
  line : Bool := false

/-! Reservations (R226). -/

/-- The n-th heap slot (from 0) that inserts would take. -/
def Table.nthSlot (tb : Table) (n : Nat) : Nat :=
  match tb.freeSlots[n]? with | some x => x | none => tb.nextSlot + (n - tb.freeSlots.length)

/-- What insert number n (from 0) of a batch may need: its slot, its nodes or its line. -/
def insertNeeds (op : Nat) (r : Rec) (tb : Table) (n : Nat) : List (Nat × Nat) :=
  let slot := if op = 0x141 then [(rowAddr r (tb.nthSlot n), r.rowb)] else []
  let units := if r.kind = 1 then (upTo (tb.height + 1)).map (fun j => (unitAddr r (tb.alloc + n * (tb.height + 1) + j), r.unit))
    else match tb.freeLines[n]? with
      | some l => [(unitAddr r l, 128)]
      | none => [(unitAddr r (tb.alloc + (n - tb.freeLines.length) + 1), 128)]
  slot ++ units

/-- Device addresses of the blocks of ranges that no write has turned to DATA, in frames not demoted or not. -/
def State.freshBlocks (s : State) (vf : Nat) (rs : List (Nat × Nat)) : List Nat :=
  rs.foldl (fun l e => (cutRange 4097 256 e.1 e.2).foldl (fun l x =>
    match (s.walk vf x.1 true true).2 with
    | .ok t => let a := t.addr / 256 * 256
      if t.sys || l.contains a || (s.blkOf a).st == .data || (s.blkOf a).st == .poison then l else l ++ [a]
    | _ => l) l) []

/-- What reserving finds: pages by lane, the lane that reaches the quota, the block that finds its pool short. -/
structure Reserve where
  pages : List (Nat × Nat × Nat × Bool)
  quota : Option Nat
  space : Option Nat

/-- The lowest of blocks to be turned to DATA whose die's pool has not room for all of them. -/
def State.shortOf (s : State) (blocks : List Nat) : Option Nat :=
  let short := s.shortDies blocks
  leastBy (fun a => a) (blocks.filter (fun a => short.contains (homeDie a)))

/-- What a TMOD or TDEL of a present key writes: its window words, or the zeroing of a row that no other key shares. -/
def rowWrite (b : Batch) (r : Rec) (tb : Table) (x : BatchLane) : Option (Nat × List Byte) :=
  match tb.findKey x.key with
  | none => none
  | some n =>
    if b.op = 0x143 then some (rowAddr r n + ({ op := b.op, len := b.len, f := b.f } : Ins).offset, wordBytes x.win)
    else if r.kind = 3 ∧ tb.ref n > 1 then none
    else some (rowAddr r n, List.replicate r.rowb 0)

/-- The ZERO and CONST blocks that writes would turn into DATA, each by itself, in frames not demoted. -/
def State.grownBlocks (s : State) (vf : Nat) (ws : List (Nat × List Byte)) : List Nat :=
  ws.foldl (fun l e => (cutRange 17 256 e.1 e.2.length).foldl (fun l x =>
    match (s.walk vf x.1 true true).2 with
    | .ok t =>
      if t.sys || l.contains (t.addr / 256 * 256) || !s.needsStorage t.addr ((e.2.drop (x.1 - e.1)).take x.2) t.cmp then l
      else l ++ [t.addr / 256 * 256]
    | _ => l) l) []

/-- The reservations of a batch, taken whole or not at all: of its inserts, and the storage that its TMODs and TDELs may need. -/
def State.reserve (s : State) (b : Batch) (r : Rec) (tb : Table) : Reserve :=
  if b.op == 0x142 || b.op == 0x143 then
    { pages := [], quota := none, space := s.shortOf (s.grownBlocks b.vf (b.lanes.filterMap (rowWrite b r tb))) }
  else if !(b.op == 0x141 || b.op == 0x144) then { pages := [], quota := none, space := none }
  else
    let needs := (b.lanes.zip (upTo b.lanes.length)).map (fun e => (e.1.lane, insertNeeds b.op r tb e.2))
    let pages := needs.flatMap (fun e => (e.2.flatMap (fun x => cutRange 4097 65536 x.1 x.2)).filterMap (fun x =>
      match (s.walk b.vf x.1 true true).2 with | .fault c => some (e.1, x.1, c, true) | _ => none))
    let q := needs.foldl (fun (a : List (Nat × Nat) × Option Nat) e =>
      let rs := a.1 ++ e.2
      let n := s.regN b.vf oQUSED + (s.freshBlocks b.vf rs).length
      (rs, if a.2.isNone && s.regN b.vf oPQUOTA != 0 && decide (n > s.regN b.vf oPQUOTA * 256) then some e.1 else a.2)) ([], none)
    let blocks := (s.freshBlocks b.vf q.1).filter (fun a => (s.frameOf a).slot.isNone)
    { pages := pages, quota := q.2, space := s.shortOf blocks }

/-- The lanes in ascending order; a lane that faults leaves the evaluation as it was (R218). -/
def spLanes (b : Batch) (r : Rec) (s0 : State) (tb0 : Table) : BatchEval :=
  let ins := b.op == 0x141 || b.op == 0x144
  (b.lanes.zip (upTo b.lanes.length)).foldl (fun (a : BatchEval) e =>
    let x := e.1
    if ins && !roomFor b.op r tb0 (e.2 + 1) then { a with causes := a.causes ++ [(x.lane, cTABLE, 8)] }
    else
      let v := spLane b r a.s a.tb x
      match v.stop with
      | some (.fault c sub) => { a with causes := a.causes ++ [(x.lane, c, sub)], line := a.line || (c == cECC && !v.row) }
      | some (.page va c w) => { a with pages := a.pages ++ [(x.lane, va, c, w)] }
      | .none =>
        { s := v.s, tb := v.tb, causes := a.causes, pages := a.pages,
          res := a.res ++ [(x.lane, v.res)], line := a.line })
    { s := s0, tb := tb0, causes := [], pages := [], res := [] }

/-- The lowest device address whose block a batch of an operation that may need storage (R226) turned to DATA on a die whose pool it finds below the
floor. -/
def spaceShort (op : Nat) (s0 s1 : State) : Option Nat :=
  if op < 0x141 ∨ op > 0x144 then none
  else ((s1.blk.filter (fun e =>
      e.2.st == .data && (SMap.get s0.blk e.1 Blk.fresh).st != .data && (s0.frameOf (e.1 * 256)).slot.isNone
        && (let d := homeDie (e.1 * 256)
            s0.poolLow d || decide (s1.pool d < (s0.watermarks d).1)))).map (fun e => e.1 * 256)).head?

/-- The value a register or predicate holds now, as a destination. -/
def Team.current (t : Team) (r : Ref) : Dst :=
  match r with
  | .v n l => .v n l (BitVec.ofNat 32 (t.vr n l))
  | .s n => .s n (BitVec.ofNat 64 (t.sr n))
  | .p n l => .p n l (t.pr n l)
  | .q n => .q n (t.qr n)

/-- A lane's reply: destinations that the effect leaves unchanged come back with their values (R235). -/
def laneReply (b : Batch) (t : Team) (keyw lane : Nat) (x : LaneRes) : List Dst :=
  let i : Ins := { op := b.op, len := b.len, f := b.f }
  let uni := b.f.uni
  let a := b.f.a.toNat
  let same := (i.dstRefs lane).map t.current
  let reg (n : Nat) (w : W32) : Dst := if uni then .s n (w.zeroExtend 64) else .v n lane w
  let base := if b.op = 0x162 then b.f.c.toNat else a + (tableKeyRegs b.op b.f).1
  let wins := (x.win.zip (upTo x.win.length)).map (fun e => reg (base + e.2) e.1)
  let cur := match x.cur with
    | .none => []
    | some c => [Dst.v a lane (BitVec.ofNat 32 c.1), .v (a + 1) lane (BitVec.ofNat 32 (c.1 / 2 ^ 32))]
        ++ (if keyw = 0 then [Dst.v (a + 3) lane 0] else []) ++ [.v (a + 4) lane c.2.1, .v (a + 5) lane c.2.2]
  match x.val with
  | some v => [.s b.f.d.toNat (BitVec.ofNat 64 v)]
  | .none => same ++ wins ++ cur ++ (pairDsts uni i.pd i.pe lane x.found (!x.found))

/-- The table of a function at an index region. -/
def tableKey (vf ibase : Nat) : Nat := vf * 2 ^ 57 + ibase
def State.tableAt (s : State) (vf ibase : Nat) : Table := SMap.get s.tables (tableKey vf ibase) Table.blank
def State.setTable (s : State) (vf ibase : Nat) (t : Table) : State :=
  { s with tables := SMap.put s.tables (tableKey vf ibase) t Table.blank }

/-- A mark in the index region, private to the Spire of a die: its page need only be readable. -/
def State.spMark (s : State) (vf die va : Nat) (bs : List Byte) : State :=
  let w := s.walk vf va true false
  match w.2 with
  | .ok t => ((w.1.touchEngine die t bs.length true).storeTr t bs true .queue va).1
  | _ => w.1

/-- A zero region is formatted at its first operation, whatever it does (REGION_FORMAT, R213). -/
def State.formatted (s : State) (vf : Nat) (r : Rec) : State :=
  if leNat (s.spBytes vf r.ibase 8) = 0 then
    let tb := Table.format r
    (((upTo tb.alloc).flatMap (fun j => unitMarks r (unitAddr r (j + (if r.kind = 1 then 0 else 1))))).foldl (fun s a => s.spMark vf r.home a (natLe 8 1))
      (s.spMark vf r.home r.ibase (natLe 8 1))).setTable vf r.ibase tb
  else s

/-- What a batch comes to: the machine after it, the Spire's answer, the reply's destinations. -/
structure SpEnd where
  s : State
  out : VOut
  dsts : List Dst

/-- Every lane with one cause. -/
def allLanes (b : Batch) (cls sub : Nat) : VOut := .fault (b.lanes.map (fun x => (x.lane, cls, sub)))

/-- The evaluation of a batch (R211, R212, R218, R226, R227). -/
def spBatch (b : Batch) (s : State) : SpEnd :=
  let q := s.record b.vf b.dir b.slot
  let stop (o : VOut) : SpEnd := { s := s, out := o, dsts := [] }
  match q.2 with
  | .bad => stop (allLanes b cBOUND 3)
  | .perm => stop (allLanes b cPERM 2)
  | .fault va c => stop (.pages (b.lanes.map (fun x => (x.lane, va, c, false))))
  | .ok r =>
    if !tableKind b.op b.f r.kind then stop (allLanes b cTABLE 1)
    else if !tablePerm b.op r then stop (allLanes b cPERM 1)
    else
      let h := q.1.spReach b.vf r.home r.ibase 4096 false
      match h.2 with
      | some (.fault c sub) => { stop (allLanes b c sub) with s := if c = cECC then s.lineErr b.vf r b.slot else s }
      | some (.page va c w) => stop (.pages (b.lanes.map (fun x => (x.lane, va, c, w))))
      | none =>
        let s1 := h.1.formatted b.vf r
        let tb := s1.tableAt b.vf r.ibase
        let stop1 (o : VOut) : SpEnd := { s := s1, out := o, dsts := [] }
        match spaceShort b.op h.1 s1 with
        | some a => stop (.space a)
        | none =>
        if !tb.agrees r then stop1 (allLanes b cTABLE 5)
        else if tb.gen ≠ r.gen ∧ b.op ≠ 0x14A then stop1 (allLanes b cTABLE 6)
        else
          let e := spLanes b r s1 tb
          if !e.causes.isEmpty then
            { stop1 (.fault e.causes) with
              s := if e.line then s1.lineErr b.vf r b.slot else s1 }
          else
            let v := s1.reserve b r tb
            let pages := sortBy (fun (a b : Nat × Nat × Nat × Bool) => decide (a.1 < b.1))
              (e.pages ++ v.pages.filter (fun x => !e.pages.any (fun y => y.1 == x.1 && y.2.1 / 65536 == x.2.1 / 65536)))
            if !pages.isEmpty then stop1 (.pages pages)
            else
            match v.quota, v.space, spaceShort b.op s1 e.s with
            | some l, _, _ => stop1 (.quota l)
            | none, some a, _ => stop1 (.space a)
            | none, none, some a => stop1 (.space a)
            | none, none, none =>
              let t := e.s.team b.team
              { s := e.s.setTable b.vf r.ibase e.tb, out := .accepted,
                dsts := e.res.flatMap (fun x => laneReply b t r.keyw x.1 x.2) }

/-- Bytes a batch moved (19 R316): 4m for each lane with a window. -/
def Batch.bytes (b : Batch) : Nat := 4 * tableWindow b.op b.f * b.lanes.length

/-- The index region and home that a batch names, by the record as it stands. -/
def Batch.target (b : Batch) (s : State) : Nat × Nat :=
  match (s.record b.vf b.dir b.slot).2 with
  | .ok r => (tableKey b.vf r.ibase, r.home)
  | _ => (2 ^ 128, 0)

/-- The die that the order of batches begins with which reach a Spire in a clock (R217). -/
def State.tieFirst (s : State) (home clock : Nat) : Nat :=
  let e := SMap.get s.spireRot home (0, 0, 0)
  if e.1 = clock then e.2.1 else e.2.2

/-- The place of a die in that order. -/
def State.tiePlace (s : State) (b : Batch) : Nat := (b.die + 8 - s.tieFirst (b.target s).2 b.arrive) % 4

/-- The order after batch b: where batches of its clock from several dies are in the queue of its Spire, the die of the first of them has won the
tie. -/
def State.tieWon (s : State) (b : Batch) : SMap (Nat × Nat × Nat) :=
  let home := (b.target s).2
  let tied := s.batches.filter (fun x => x.arrive == b.arrive && (x.target s).2 == home)
  if (SMap.get s.spireRot home (0, 0, 0)).1 = b.arrive || !tied.any (fun x => x.die != b.die) then s.spireRot
  else
    match leastBy s.tiePlace tied with
    | some w => SMap.put s.spireRot home (b.arrive, s.tieFirst home b.arrive, (w.die + 1) % 4) (0, 0, 0)
    | none => s.spireRot

/-- Batches of one table are performed in the order of their queue; those of one clock in rotating die order, then by core
and slot (R217). -/
def Batch.before (s : State) (x y : Batch) : Bool :=
  if x.arrive ≠ y.arrive then decide (x.arrive < y.arrive)
  else
    let k := s.tiePlace
    let slot (b : Batch) : Nat := 16 * (s.team b.team).part + (s.team b.team).slot
    if k x ≠ k y then decide (k x < k y) else if x.core ≠ y.core then decide (x.core < y.core) else decide (slot x < slot y)

/-- Batch number n may be performed: no batch of its table comes before it, and no copy owns rows of the table (04 R89). -/
def State.spireReady (s : State) (n : Nat) : Bool :=
  match s.batches[n]? with
  | none => false
  | some b => s.batches.all (fun x => (x.target s).1 != (b.target s).1 || !x.before s b)
      && (match (s.record b.vf b.dir b.slot).2 with | .ok r => !s.copiesInto b.vf r | _ => true)

/-- An engine of function f waits for room in the dirty log: one DLOG record for the wait (21 R343). -/
def State.waitLog (s : State) (f : Nat) : State :=
  if s.held.any (fun h => h.fn == f && h.log && h.parts.isEmpty) then s
  else (s.holdWrite f [] .l2 true 0 .put).dlogRecord f

/-- A trial of an engine's work, with the translations of agent a, starts without messages on their way: it asks for every grain that its L2 lacks. -/
def State.quiet (s : State) (a : Nat) : State := { s with who := a, coh := { s.coh with net := [], waiting := [], txns := [] } }

/-- The die of a request has one for its grain under way. -/
def State.askedFor (s : State) (i : Instr) : Bool :=
  match reqOf i with
  | some (_, m) => s.asked m.die m.grain m.sys
  | none => false

/-- Requests that a trial sent which are not under way yet. -/
def State.newAsks (s : State) (is : List Instr) : State := (is.filter (fun i => !s.askedFor i)).foldl State.sendMsg s

/-- What a trial came to, with the messages that were on their way and those it sends. -/
def State.unquiet (s e : State) : State :=
  State.newAsks { e with who := s.who, coh := { e.coh with net := s.coh.net, waiting := s.coh.waiting, txns := s.coh.txns } } e.coh.net

/-- A request to own a grain. -/
def ownAsk (i : Instr) : Bool := match reqOf i with | some (.rdx, _) => true | some (.upg, _) => true | some (.own, _) => true | _ => false

/-- What an engine's trial waits for (22 R354, R360; 21 R343, R349): grains that its L2 does not own, which are asked for; room in the dirty log;
a write held to a block of its own. -/
def State.trialWaits (s0 e : State) (f : Nat) : Option State :=
  let asks := e.coh.net.filter ownAsk
  if !asks.isEmpty then some (s0.newAsks asks)
  else
    let new := (e.held.drop s0.held.length).filter (fun h => h.writer == .queue)
    if new.any (fun h => h.log) then some (s0.waitLog f) else if new.isEmpty then none else some s0

/-- SPIRE_BATCH (R218): the verdict leaves for the core, and with it, when the batch is accepted, the reply. -/
def execSpireBatch (n : Nat) (s : State) : Host.Outcome State Fault Refusal :=
  match s.batches[n]? with
  | none => .next s
  | some b =>
    if !s.spireReady n then .next s
    else
      let e := spBatch b (s.quiet (Config.cores + 1 + (b.target s).2))
      match s.trialWaits e.s b.vf with
      | some w => .next w
      | none =>
        let e := { e with s := s.unquiet e.s }
        let s1 := { e.s with batches := dropAt e.s.batches n, verdicts := e.s.verdicts ++ [{ batch := b, out := e.out }],
                             spireRot := s.tieWon b }
        match e.out with
        | .accepted =>
          .next { s1 with replies := s1.replies ++ [{ team := b.team, dsts := e.dsts, entry := some (b.core, 1), completes := true,
                                                      bytes := b.bytes, set := if b.op = 0x162 then 6 else 3, trap := none }] }
        | _ => .next s1

end Sys2Proof.Machine
end

