-- ==== Sys2Proof/Machine/Matrix.lean ====
section
/-!
DEFINITION. Matrix and attention instructions (14 R254–R257, 15 R258–R272): block quantisation, MMA with its array, MFLUSH, QMC, CRED
and the Oculus.
-/
namespace Sys2Proof.Machine

/-! SBQ and SBDQ (R267, R268). -/

/-- The largest magnitude of a scaled format. -/
def scaledMax (enc : Nat) : FVal :=
  match enc with
  | 8 => .fin false 448 0 | 9 => .fin false 57344 0 | 10 => .fin false 6 0 | _ => .fin false 7 0

/-- The smallest scale code under which a magnitude fits. -/
def scaleFor (enc : Nat) (amax : FVal) : Nat :=
  match (upTo 511).find? (fun sc => decide (FVal.cmp amax (FVal.mul (scaledMax enc) (scaleVal sc)).1 ≤ 0)) with
  | some sc => sc
  | none => 510

/-- One element divided by the block's scale and rounded to its format: code and flags. -/
def quantElem (enc mod sc : Nat) (x : FVal) : Nat × Nat :=
  let q := match x with
    | .fin _ _ _ => (FVal.div x (scaleVal sc)).1
    | _ => x
  if enc = 11 then
    let r := FVal.toInt (rndOf mod) (-7) 7 q
    (wrapInt 4 r.1, r.2)
  else
    let r := (scaledFmt enc).put (rndOf mod) false q
    (r.1, x.nv ||| r.2)

/-- The scale of a word: from the largest finite magnitude of its lanes. -/
def wordScale (enc : Nat) (xs : List FVal) : Nat :=
  let m := xs.foldl (fun (a : FVal) x => match x with
    | .fin _ k e => if FVal.cmp a (.fin false k e) < 0 then .fin false k e else a
    | _ => a) (.fin false 0 0)
  if m.isZero then 0x0FE else scaleFor enc m

/-- SBQ (R267). -/
def execSbq (f : Form) (s : State) : Host.Outcome State Fault Refusal :=
  let i := insW 0x083 f
  let enc := encOfTy f.ty
  runIns i s (fun t ls =>
    if ls.isEmpty then s.finish i t
    else
      let val := fun l => fmtF32.read t.ftz (i.opa t false l)
      let os := (wordLanes t ls).flatMap (fun w =>
        let sc := wordScale enc (w.2.map val)
        w.2.map (fun l =>
          let r := quantElem enc f.mod.toNat sc (val l)
          ({ lane := l, val := 65536 * sc + r.1, fl := r.2 } : LaneOut)))
      s.withFlags i t os (fun t => s.produce i t (ls.flatMap i.dstRefs) (os.map (fun o => Dst.v f.d.toNat o.lane (BitVec.ofNat 32 o.val))) 5))

/-- SBDQ (R268). -/
def execSbdq (f : Form) (s : State) : Host.Outcome State Fault Refusal :=
  let i := insW 0x084 f
  let enc := encOfTy f.ty
  runIns i s (fun t ls =>
    if ls.isEmpty then s.finish i t
    else
      let code := fun (w k : Nat) =>
        let l := 32 * w + k
        if l < t.nlanes then i.opa t false l % 2 ^ scaledBits enc else 0
      let dsts := (wordLanes t ls).flatMap (fun w =>
        let vs := blockVals enc (i.opa t false (w.2.headD 0) / 65536) (code w.1)
        w.2.map (fun l => Dst.v f.d.toNat l (BitVec.ofNat 32 (toF32 (vs.getD (l % 32) (.fin false 0 0))))))
      s.produce i t (ls.flatMap i.dstRefs) dsts 5)

/-! MMA: the format block and the operands (R259, R260). -/

/-- One operand: its table, format, block length, scale slot and place in a row. -/
structure Opnd where
  slot : Nat
  fmt : Nat
  blk : Bool
  scl : Nat
  off : Nat
  rec_ : RecRead
  sc : RecRead

/-- The record encoding of a format code (R259). -/
def fmtEnc (c : Nat) : Nat := if c < 2 then c + 2 else c + 6
/-- Elements are f16 or bf16. -/
def fmtHalf (c : Nat) : Bool := decide (c < 2)
/-- Length of a k-step (R254). -/
def stepLen (a b : Nat) : Nat := if fmtHalf a || fmtHalf b then 16 else if a ≤ 3 ∨ b ≤ 3 then 32 else 64

/-- The format block read at issue. -/
structure Fmt4 where
  w0 : W64
  w1 : W64
  w2 : W64
  w3 : W64
  deriving DecidableEq, Repr

def Fmt4.of (ws : List W64) : Fmt4 := { w0 := ws.getD 0 0, w1 := ws.getD 1 0, w2 := ws.getD 2 0, w3 := ws.getD 3 0 }
def Fmt4.afmt (x : Fmt4) : Nat := fld x.w0 3 0
def Fmt4.bfmt (x : Fmt4) : Nat := fld x.w0 19 16
def Fmt4.k (x : Fmt4) : Nat := fld x.w0 47 32
def Fmt4.lk (x : Fmt4) : Nat := stepLen x.afmt x.bfmt
def Fmt4.steps (x : Fmt4) : Nat := x.k / x.lk
/-- Promotion interval. -/
def Fmt4.p (x : Fmt4) : Nat := if fld x.w0 55 48 = 0 then x.steps else fld x.w0 55 48

/-- Key of B column c, and its offset (R260). -/
def Fmt4.colKey (x : Fmt4) (c : Nat) : Nat := (x.w3.toNat + c / 2 ^ fld x.w2 8 6 * fld x.w1 63 32) % 2 ^ 64
def Fmt4.colOff (x : Fmt4) (c : Nat) : Nat := fld x.w2 27 16 + c % 2 ^ fld x.w2 8 6 * fld x.w2 43 32

/-- Order 5 of R261 on the format block itself. -/
def Fmt4.bad (x : Fmt4) : Bool :=
  fld x.w0 63 56 != 0 || fld x.w0 31 27 != 0 || fld x.w0 15 11 != 0 || fld x.w1 31 28 != 0 || fld x.w1 15 6 != 0
    || fld x.w2 63 44 != 0 || fld x.w2 31 28 != 0 || fld x.w2 15 9 != 0
    || decide (x.afmt > 5) || decide (x.bfmt > 5) || decide (fld x.w2 8 6 > 5)
    || (fmtHalf x.afmt && x.w0.getLsbD 4) || (fmtHalf x.bfmt && x.w0.getLsbD 20)
    || decide (x.k < x.lk) || decide (x.k > 8192) || x.k % x.lk != 0

/-- Bytes of K elements of an operand. -/
def opBytes (fmt k : Nat) : Nat := if fmtHalf fmt then 2 * k else (k + 31) / 32 * scaledBytes (fmtEnc fmt)

/-- The record of an operand where it is valid. -/
def Opnd.get (o : Opnd) : Option Rec := match o.rec_ with | .ok r => some r | _ => none

/-- A record whose ENC is 0 says nothing of the format of its elements: the format block's is used (R261, order 5). -/
def Rec.enc0 (r : Rec) (fmt : Nat) : Rec := if r.enc = 0 then { r with enc := fmtEnc fmt } else r

/-- Reads the records of both operands. -/
def State.operands (s : State) (t : Team) (x : Fmt4) : State × Opnd × Opnd :=
  let one (s : State) (slot fmt : Nat) (blk : Bool) (scl off : Nat) : State × Opnd :=
    let q := s.record t.vf (s.tdir t) slot
    let sc := match q.2 with
      | .ok r => if blk then q.1.scaleRecord t r else (q.1, .bad)
      | _ => (q.1, .bad)
    (sc.1, { slot := slot, fmt := fmt, blk := blk, scl := scl, off := off, sc := sc.2,
             rec_ := match q.2 with | .ok r => .ok (r.enc0 fmt) | e => e })
  let a := one s (fld x.w1 5 0) x.afmt (x.w0.getLsbD 4) (fld x.w0 10 5) (fld x.w1 27 16)
  let b := one a.1 (fld x.w2 5 0) x.bfmt (x.w0.getLsbD 20) (fld x.w0 26 21) (fld x.w2 27 16)
  (b.1, a.2, b.2)

/-- The offset of an operand must be such a multiple (order 8). -/
def opAlign (fmt : Nat) : Nat := if fmtHalf fmt then 4 else scaledBytes (fmtEnc fmt)

/-- The record of the scale table cannot be read yet: its page is not resident (R190). -/
def Opnd.scalePage (o : Opnd) : Option (Nat × Nat) := match o.sc with | .fault va c => some (va, c) | _ => none

/-- Orders 1 to 8 of R261 for one row or column: the order number with class and subcode. -/
def Opnd.check (o : Opnd) (k key off : Nat) (badBlock badAlign : Bool) : Option (Nat × Nat × Nat) :=
  match o.rec_ with
  | .bad => some (1, cBOUND, 3)
  | .perm => some (1, cPERM, 2)
  | .fault _ _ => none
  | .ok r =>
    let n := scaledBytes r.enc
    let sep := o.blk && r.slayout == 2
    let sc (g : Rec → Bool) : Bool := match o.sc.dense with | some y => g y | none => true
    let blocks := (k + 31) / 32
    let lastOff := off + (blocks - 1) * n
    if r.kind = 1 ∨ r.kind = 2 then some (2, cTABLE, 1)
    else if decide (key ≥ r.rowlim) || (sep && !sc (fun y => decide (key < y.rowlim))) then some (3, cBOUND, 1)
    else if !r.pr || (sep && !sc (fun y => y.pr)) then some (4, cPERM, 1)
    else if badBlock || r.enc != fmtEnc o.fmt then some (5, cTABLE, 2)
    else if sep && o.scl == r.sslot && o.sc == .perm then some (6, cPERM, 2)
    else if sep && o.scl == r.sslot && o.scalePage.isSome then none
    else if o.blk && (noScale r o.sc.dense n || (r.slayout == 1 && o.scl != o.slot) || (r.slayout == 2 && o.scl != r.sslot)) then
      some (6, cTABLE, 3)
    else if decide (off + opBytes o.fmt k > r.rowb)
        || (o.blk && r.slayout == 1 && decide (lastOff + n > (r.rowb / (n + 2)) * n))
        || (sep && !sc (fun y => decide (2 * (lastOff / n) + 2 ≤ y.rowb))) then some (7, cBOUND, 2)
    else if badAlign then some (8, cALIGN, 0)
    else none

/-- Ranges of a row that the load pipes read: the elements, and the scale words. -/
def Opnd.ranges (o : Opnd) (r : Rec) (k key off : Nat) : List (Nat × Nat) :=
  let n := scaledBytes r.enc
  (r.base + key * r.rowb + off, opBytes o.fmt k)
    :: (if o.blk then (upTo ((k + 31) / 32)).map (fun j => (scaleAddr r o.sc.dense key (off + j * n), 2)) else [])

/-- Check 9 on ranges: pages not resident, or PERM. -/
def State.pipeCheck (s : State) (vf l key off : Nat) (rs : List (Nat × Nat)) (p : Plan) : State × Plan :=
  (rs.flatMap (fun r => cutRange 4097 65536 r.1 r.2)).foldl (fun (a : State × Plan) e =>
    let q := a.1.walk vf e.1 true false
    match q.2 with
    | .ok _ => (q.1, a.2)
    | .fault c => (q.1, a.2.page l e.1 c false key off)
    | .perm => (q.1, if a.2.fails.any (fun x => x.lane == l) then a.2 else a.2.fail l cPERM 2 key off)) (s, p)

/-- A row or column as a candidate cause: (order, class, subcode, key, offset). -/
def earliest (cs : List (Nat × Nat × Nat × Nat × Nat)) : Option (Nat × Nat × Nat × Nat × Nat) :=
  leastBy (fun (c : Nat × Nat × Nat × Nat × Nat) => c.1) cs

/-- The key of a lane's A row: a vector key as n32, a scalar key whole. -/
def Ins.rowKey (i : Ins) (t : Team) (l : Nat) : Nat := if i.f.ka then t.sr i.f.a.toNat else t.vr i.f.a.toNat l

/-- The plan of an MMA: its causes and pages (R261). -/
def State.planMma (s : State) (i : Ins) (t : Team) (ls : List Nat) (x : Fmt4) : State × Plan :=
  let o := s.operands t x
  let a := o.2.1
  let b := o.2.2
  let k := x.k
  let recPages : List (Nat × Nat) := [a.rec_, b.rec_].filterMap (fun r => match r with | .fault va c => some (va, c) | _ => none)
  if !recPages.isEmpty then
    (o.1, ls.foldl (fun p l => recPages.foldl (fun p e => p.page l e.1 e.2 false (i.rowKey t l) a.off) p) Plan.empty)
  else
    let badAlign := a.off % opAlign a.fmt != 0 || b.off % opAlign b.fmt != 0 || fld x.w2 43 32 % opAlign b.fmt != 0
    let cols := (upTo 32).filterMap (fun c =>
      (b.check k (x.colKey c) (x.colOff c) x.bad badAlign).map (fun e => (e.1, e.2.1, e.2.2, x.colKey c, x.colOff c)))
    let p := ls.foldl (fun (p : Plan) l =>
      let own := (a.check k (i.rowKey t l) a.off x.bad badAlign).toList.map (fun e => (e.1, e.2.1, e.2.2, i.rowKey t l, a.off))
      match earliest (cols ++ own) with
      | some e => p.fail l e.2.1 e.2.2.1 e.2.2.2.1 e.2.2.2.2
      | none => p) Plan.empty
    let scPages := a.scalePage.toList ++ b.scalePage.toList
    match a.get, b.get with
    | some ra, some rb =>
      if !scPages.isEmpty then
        (o.1, ls.foldl (fun p l => if p.fails.any (fun (f : Fail) => f.lane == l) then p
          else scPages.foldl (fun p e => p.page l e.1 e.2 false (i.rowKey t l) a.off) p) p)
      else
      let bad := fun l => p.fails.any (fun (f : Fail) => f.lane == l)
      let r1 := (ls.filter (fun l => !bad l)).foldl (fun (q : State × Plan) l =>
        q.1.pipeCheck t.vf l (i.rowKey t l) a.off (a.ranges ra k (i.rowKey t l) a.off) q.2) (o.1, p)
      if !cols.isEmpty then r1
      else
        let col := (upTo 32).foldl (fun (q : State × Plan) c =>
          q.1.pipeCheck t.vf 0 (x.colKey c) (x.colOff c) (b.ranges rb k (x.colKey c) (x.colOff c)) q.2) (r1.1, Plan.empty)
        (col.1,
          { r1.2 with fails := r1.2.fails ++ (ls.filter (fun l => !r1.2.fails.any (fun f => f.lane == l))).flatMap
                        (fun l => (col.2.fails.take 1).map (fun f => { f with lane := l })),
                      pages := r1.2.pages ++ ls.flatMap (fun l => col.2.pages.map (fun f => { f with lane := l })) })
    | _, _ => (o.1, p)

/-- RPROG (R263). -/
def rprogWord (pend : Bool) (word kstep mpc : Nat) : W64 :=
  BitVec.ofNat 64 (2 ^ 63 * bnat pend + 2 ^ 58 * word + 2 ^ 48 * kstep + mpc % 2 ^ 32)

/-- MMA (R261–R265): checked at issue, then queued at the partition's array. -/
def execMma (f : Form) (s : State) : Host.Outcome State Fault Refusal :=
  let i := insW 0x160 f
  runIns i s (fun t ls =>
    if t.mma.isSome then s
    else if ls.isEmpty then s.finish i t
    else if (s.arrayOf t.partKey).length ≥ 2 then s
    else
      let ws := (upTo 4).map (fun j => BitVec.ofNat 64 (t.sr (f.b.toNat + j)))
      let q := s.planMma i t ls (Fmt4.of ws)
      let cs := q.1.causes t q.2 []
      if !cs.isEmpty then q.1.trapFails i cs
      else if !q.2.pages.isEmpty then q.1.pageFault i 1 (sortBy (fun a b => decide (a.lane < b.lane)) q.2.pages)
      else
        let o := q.1.operands t (Fmt4.of ws)
        let m : MmaJob := { f := f, pc := t.pc, lanes := ls, keys := ls.map (fun l => (l, i.rowKey t l)), fmt := ws,
                            ra := o.2.1.get.getD (recOf 0), rb := o.2.2.get.getD (recOf 0), sa := o.2.1.sc.dense, sb := o.2.2.sc.dense,
                            stopped := false, trapped := false, poison := [], step := 0, acc := [] }
        let t1 : Team := { t.markAll (ls.flatMap i.dstRefs) with
          mma := some m, rprog := rprogWord true (ls.headD 0 / 32) 0 t.pc.toNat }
        (q.1.issued i t1).setArray t.partKey (q.1.arrayOf t.partKey ++ [s.cur]))

/-! The array (R256, R262, R264). -/

/-- What the load pipes read: values, whether a poisoned element was met, or the page that is not resident (VA, cause; 0 for an
access that no longer has permission). -/
inductive PipeRead where
  | ok (vs : List FVal) (poison : Bool)
  | page (va cause : Nat)
  deriving DecidableEq, Repr

/-- Bytes for the load pipes of a core: on non-coherent pages what its L1 holds dirty comes first (04 R81, 22 R367). -/
def State.pipeBytes (s : State) (core vf va n : Nat) : (List Byte × Bool) ⊕ (Nat × Nat) :=
  match (s.vread vf va n).2 with
  | .ok bs p =>
    .inl (if s.coh.nc.isEmpty then bs
      else (cutRange 4097 65536 va n).flatMap (fun e =>
        let cs := (bs.drop (e.1 - va)).take e.2
        match (s.walk vf e.1 true false).2 with | .ok t => s.withDirty core t cs | _ => cs), p)
  | .fault a c => .inr (a, c)
  | .perm => .inr (va, 0)

/-- One block of an operand: group g of a row. -/
def State.pipeBlock (s : State) (core vf : Nat) (o : Opnd) (r : Rec) (key off g : Nat) : PipeRead :=
  let enc := fmtEnc o.fmt
  let n := scaledBytes enc
  match s.pipeBytes core vf (r.base + key * r.rowb + off + g * n) n with
  | .inr e => .page e.1 e.2
  | .inl b =>
    if o.blk then
      match s.pipeBytes core vf (scaleAddr r o.sc.dense key (off + g * n)) 2 with
      | .inr e => .page e.1 e.2
      | .inl c =>
        if b.2 || c.2 then .ok (List.replicate 32 (.nan false false)) true
        else .ok (blockVals enc (leNat c.1) (blockCode enc r.ilv (leNat b.1))) false
    else if b.2 then .ok (List.replicate 32 (.nan false false)) true
    else .ok (blockVals enc 0x00FE (blockCode enc r.ilv (leNat b.1))) false

/-- The elements of k-step `st` of an operand row. -/
def State.pipeStep (s : State) (core vf : Nat) (o : Opnd) (r : Rec) (key off lk st : Nat) : PipeRead :=
  if fmtHalf o.fmt then
    match s.pipeBytes core vf (r.base + key * r.rowb + off + 2 * lk * st) (2 * lk) with
    | .inr e => .page e.1 e.2
    | .inl b =>
      if b.2 then .ok (List.replicate lk (.nan false false)) true
      else
        let x := leNat b.1
        .ok ((upTo lk).map (fun j => (if o.fmt = 0 then fmtF16 else fmtBf16).value (x / 65536 ^ j % 65536))) false
  else if lk = 16 then
    -- an operand of scaled blocks beside f16 or bf16: half a block a step
    match s.pipeBlock core vf o r key off (st / 2) with
    | .ok vs p => .ok ((vs.drop (16 * (st % 2))).take 16) p
    | e => e
  else
    (upTo (lk / 32)).foldl (fun acc j =>
      match acc with
      | .ok vs p =>
        (match s.pipeBlock core vf o r key off (lk / 32 * st + j) with
         | .ok us q => .ok (vs ++ us) (p || q)
         | e => e)
      | e => e) (.ok [] false)

/-- The exact sum of a k-step's products. -/
def stepSum (a b : List FVal) : FVal :=
  let t := (a.zip b).foldl (fun acc e => (FVal.add .rne acc (FVal.mul e.1 e.2).1).1) (.fin false 0 0)
  if t.isZero then .fin false 0 0 else t

/-- acc + t in E8M15. -/
def accAdd (acc : Nat) (t : FVal) : Nat := (fmtE8m15.put .rne false (FVal.add .rne (fmtE8m15.value acc) t).1).1
/-- C + acc in f32. -/
def promote (c acc : Nat) : Nat := (fmtF32.put .rne false (FVal.add .rne (fmtF32.value c) (fmtE8m15.value acc)).1).1

/-- Reads of a list of rows, or the first page. -/
def pipeAll (rs : List (Nat × PipeRead)) : (List (Nat × List FVal) × List Nat) ⊕ (Nat × Nat × Nat) :=
  rs.foldl (fun acc e =>
    match acc, e.2 with
    | .inl x, .ok vs p => .inl (x.1 ++ [(e.1, vs)], if p then x.2 ++ [e.1] else x.2)
    | .inl _, .page va c => .inr (e.1, va, c)
    | .inr y, _ => .inr y) (.inl ([], []))

/-- A register written while it stays empty. -/
def Team.pokeV (t : Team) (r l x : Nat) : Team := { t with v := SMap.put t.v (vkey r l) (BitVec.ofNat 32 x) 0 }

/-- Ranges that the load pipes read for k-step `st` of an operand row: its elements, and their scale words. -/
def Opnd.stepRanges (o : Opnd) (r : Rec) (key off lk st : Nat) : List (Nat × Nat) :=
  let a := r.base + key * r.rowb + off
  let n := scaledBytes (fmtEnc o.fmt)
  if fmtHalf o.fmt then [(a + 2 * lk * st, 2 * lk)]
  else
    (if lk = 16 then [st / 2] else (upTo (lk / 32)).map (fun j => lk / 32 * st + j)).flatMap (fun g =>
      (a + g * n, n) :: (if o.blk then [(scaleAddr r o.sc.dense key (off + g * n), 2)] else []))

/-- The load pipes of a core reach ranges through their die's L2 (R16, 22 R354); the pages that are not resident are hits of the lanes
given, with cause 0 where permission is gone. -/
def State.pipeReach (s : State) (vf die : Nat) (ls : List Nat) (key off : Nat) (rs : List (Nat × Nat)) : State × List PageHit :=
  (rs.flatMap (fun r => cutRange 4097 65536 r.1 r.2)).foldl (fun (a : State × List PageHit) e =>
    let q := a.1.walk vf e.1 true false
    let hit := fun c => (q.1, a.2 ++ ls.map (fun l => ({ lane := l, va := e.1, cause := c, w := false, key := key, off := off } : PageHit)))
    match q.2 with
    | .ok t => (q.1.touchEngine die t e.2 false, a.2)
    | .fault c => hit c
    | .perm => hit 0) (s, [])

/-- The reads of k-step `st`: the A rows of the word's lanes, and every B column, a page of which concerns every contributing lane (R264). -/
def State.stepReach (s : State) (t : Team) (m : MmaJob) (x : Fmt4) (a b : Opnd) (ls : List Nat) (st : Nat) : State × List PageHit :=
  let die := dieOf t.core
  let rows := ls.foldl (fun (q : State × List PageHit) l =>
    let key := SMap.get m.keys l 0
    let r := q.1.pipeReach t.vf die [l] key a.off (a.stepRanges m.ra key a.off x.lk st)
    (r.1, q.2 ++ r.2)) (s, [])
  (upTo 32).foldl (fun (q : State × List PageHit) c =>
    let r := q.1.pipeReach t.vf die m.lanes (x.colKey c) (x.colOff c) (b.stepRanges m.rb (x.colKey c) (x.colOff c) x.lk st)
    (r.1, q.2 ++ r.2)) rows

/-- One k-step of a word whose reads are all resident (R256): the team with what a promotion wrote, and the array's state. -/
def wordStep (s : State) (m : MmaJob) (x : Fmt4) (a b : Opnd) (ls : List Nat) (t : Team) : Team × MmaJob :=
  let lk := x.lk
  let st := m.step
  let rows := pipeAll (ls.map (fun l => (l, s.pipeStep t.core t.vf a m.ra (SMap.get m.keys l 0) a.off lk st)))
  let cols := pipeAll ((upTo 32).map (fun c => (c, s.pipeStep t.core t.vf b m.rb (x.colKey c) (x.colOff c) lk st)))
  match rows, cols with
  | .inl ar, .inl bc =>
    let pairs := ar.1.flatMap (fun r => bc.1.map (fun c => (r.1, c.1, stepSum r.2 c.2)))
    let acc := pairs.foldl (fun (m : SMap Nat) e =>
      let k := 32 * e.1 + e.2.1
      SMap.put m k (accAdd (SMap.get m k 0) e.2.2) 0) m.acc
    let m1 : MmaJob := { m with poison := m.poison ++ (if bc.2.isEmpty then ar.2 else ls), step := st + 1 }
    if (st + 1) % x.p = 0 ∨ st + 1 = x.steps then
      let t1 := pairs.foldl (fun (t : Team) e =>
        let r := m.f.d.toNat + e.2.1
        t.pokeV r e.1 (promote (t.vr r e.1) (SMap.get acc (32 * e.1 + e.2.1) 0))) t
      ({ t1 with rprog := rprogWord true (fld t.rprog 62 58) (st + 1) m.pc.toNat }, { m1 with acc := [] })
    else (t, { m1 with acc := acc })
  | _, _ => (t, m)

/-- Registers v(D) to v(D + 31) of lanes marked full. -/
def Team.fillTile (t : Team) (d : Nat) (ls : List Nat) : Team :=
  { t with vE := ls.foldl (fun e l => (upTo 32).foldl (fun e c => SMap.drop e (vkey (d + c) l)) e) t.vE }

/-- What was recorded of poison against an MMA, to be taken at the boundary after it completes (R264). -/
def mmaPend (m : MmaJob) (pois : List Nat) : Option PendTrap :=
  match pois with
  | [] => none
  | l :: _ =>
    some { cls := cECC, sub := 1, pc := m.pc, ilen := 1, lanes := m.lanes.filter (fun k => pois.contains k),
           key := SMap.get m.keys l 0, off := fld (m.fmt.getD 1 0) 27 16 }

/-- The operands of an MMA under way, by the records it was checked against. -/
def MmaJob.operands (m : MmaJob) (x : Fmt4) : Opnd × Opnd :=
  ({ slot := fld x.w1 5 0, fmt := x.afmt, blk := x.w0.getLsbD 4, scl := fld x.w0 10 5, off := fld x.w1 27 16, rec_ := .ok m.ra, sc := m.sa.elim .bad .ok },
   { slot := fld x.w2 5 0, fmt := x.bfmt, blk := x.w0.getLsbD 20, scl := fld x.w0 26 21, off := fld x.w2 27 16, rec_ := .ok m.rb, sc := m.sb.elim .bad .ok })

/-- Pages of a k-step are not resident: the MMA stops, and the team parks at its next boundary with a record for each page (R264, 09 R190), or
takes XFAULT there where no record can be written (21 R341). -/
def State.mmaPages (s : State) (i : Nat) (m : MmaJob) (hits : List PageHit) : State :=
  let t := s.team i
  let hs := sortBy (fun (a b : PageHit) => decide (a.lane < b.lane)) hits
  match hs with
  | [] => s
  | h :: _ =>
    let s1 := s.stopMma i
    if s.fsqOn t.vf then
      (pageRecords hs).foldl (fun s r =>
        s.addFault { faultRec t.vf 1 r.cause false r.lane 0 t.ctxbase 0 r.va (.team i) with
          lanes := (hs.filter (fun x => x.va / 65536 == r.va / 65536)).map (fun x => x.lane), key := r.key, off := r.off, mma := true })
        (s1.setTeam i { s1.team i with parkNext := some (.page, BitVec.ofNat 64 h.va) })
    else
      let ls := m.lanes.filter (fun l => hs.any (fun x => x.lane == l))
      s1.setTeam i { (s1.team i).addPend (some { cls := cXFAULT, sub := 1, pc := m.pc, ilen := 1, lanes := ls, key := h.key, off := h.off })
                     with mma := some { m with stopped := true, trapped := true, acc := [] } }

/-- A mask word has had its last promotion: its tile is full, and the next contributing word follows, or the MMA is complete (R262). -/
def State.mmaWordDone (s : State) (i : Nat) (m : MmaJob) (w : Nat) : State :=
  let t := (s.team i).fillTile m.f.d.toNat (m.lanes.filter (fun l => l / 32 == w))
  match (m.lanes.filter (fun l => decide (l / 32 > w))) with
  | l :: _ => s.setTeam i { t with mma := some { m with step := 0, acc := [] }, rprog := rprogWord true (l / 32) 0 m.pc.toNat }
  | [] =>
    ((s.setTeam i ({ t with mma := none, rprog := rprogWord false w 0 m.pc.toNat }.addPend (mmaPend m m.poison))).setArray
      t.partKey ((s.arrayOf t.partKey).filter (· != i))).account i 1 0 0

/-- The team's MMA performs the next k-step of its mask word (R254, R256, R262). -/
def State.mmaWord (s : State) (i : Nat) : State :=
  let t := s.team i
  match t.mma with
  | none => s
  | some m =>
    let x := Fmt4.of m.fmt
    let o := m.operands x
    let w := fld t.rprog 62 58
    let ls := m.lanes.filter (fun l => l / 32 == w)
    if m.step ≥ x.steps then s.mmaWordDone i m w
    else
      let q := s.stepReach t m x o.1 o.2 ls m.step
      if !q.2.isEmpty then q.1.mmaPages i m q.2
      else
        let r := wordStep q.1 m x o.1 o.2 ls (q.1.team i)
        let s1 := (q.1.setTeam i { r.1 with mma := some r.2, ksteps := t.ksteps + 1 }).account i 0 1 0
        if r.2.step ≥ x.steps then s1.mmaWordDone i r.2 w else s1

/-- Team i's MMA waits with its reads: for a copy that owns rows of its tables (04 R89), or for the team's own atomics and writes that are not
performed yet (R272, 04 R81). -/
def State.mmaWaits (s : State) (i : Nat) : Bool :=
  match (s.team i).mma with
  | none => false
  | some m => ([m.ra, m.rb] ++ m.sa.toList ++ m.sb.toList).any (fun r => s.copiesInto (s.team i).vf r)
      || s.atoms.any (fun a => a.team == i && a.done.isNone)
      || s.held.any (fun h => match h.writer with | .team j _ _ => j == i | _ => false)

/-- MFLUSH (R266): its result is the k-steps since the last one. -/
def runMflush (i : Ins) (s : State) : Host.Outcome State Fault Refusal :=
  runUni i s (fun t =>
    if t.mma.isSome then s
    else s.produce i { t with ksteps := 0 } (i.dstRefs 0) [.s i.f.d.toNat t.ksteps] 5)

/-- MFLUSH, S-form. -/
def execMflushS (f : SForm) (s : State) : Host.Outcome State Fault Refusal := runMflush (insS 0x161 f) s
/-- MFLUSH, L-form. -/
def execMflushL (f : Form) (s : State) : Host.Outcome State Fault Refusal := runMflush (insW 0x161 f) s

/-- The checks of QMC (R270). -/
def qmcCheck (size sa sb : Nat) : Option (Nat × Nat) :=
  let len := sb % 2 ^ 32
  let a := sa % 2 ^ 32
  if len % 128 ≠ 0 ∨ len < 128 ∨ len > 786432 then some (cBOUND, 4)
  else if a + len > size then some (cBOUND, 4)
  else if sb / 2 ^ 36 ≠ 0 then some (cBOUND, 4)
  else if a % 128 ≠ 0 then some (cALIGN, 0)
  else none

/-- QMC (R270). -/
def execQmc (f : Form) (s : State) : Host.Outcome State Fault Refusal :=
  let i := insW 0x163 f
  runUni i s (fun t =>
    let sa := t.sr f.a.toNat
    let sb := t.sr f.b.toNat
    match qmcCheck (s.block t.block).size sa sb with
    | some c => s.trapAt i c.1 c.2 [(0, c.1)] (sa % 2 ^ 32) 0
    | none =>
      let cores := (upTo 4).filter (fun c => nbit sb (32 + c) && c != t.core % 4)
      if cores.isEmpty then s.produce i t (i.dstRefs 0) [.s f.d.toNat 0] 4
      else if !s.mayEnter t.core s.cur then s.reject s.cur
      else
        let s1 := s.entered s.cur
        let c : CopyReq := { id := s1.copies.foldl (fun n c => max n (c.id + 1)) 0, src := none, dest := none, core := t.core, team := s.cur, block := t.block, vf := t.vf, dir := s.tdir t,
                             words := [BitVec.ofNat 64 (sa % 2 ^ 32), BitVec.ofNat 64 (sb % 2 ^ 32)], qmc := true, dst := f.d.toNat,
                             todo := cores, waiting := [], bytes := 0 }
        { s1.issued i ((s1.team s.cur).markAll (i.dstRefs 0)) with copies := s1.copies ++ [c] })

/-- CRED (R271): a deposit in the team's next round, with no lanes when none contributes. -/
def runCred (i : Ins) (s : State) : Host.Outcome State Fault Refusal :=
  runIns i s (fun t ls =>
    let b := s.block t.block
    let d : CredDep := { team := s.cur, round := t.creds, a := i.f.a.toNat,
                         lanes := ls.map (fun l => (l, (upTo 34).map (fun j => BitVec.ofNat 32 (t.vr (i.f.a.toNat + j) l)))) }
    let s1 := s.setBlock t.block { b with cred := b.cred ++ [d] }
    let t1 : Team := { t.markAll (ls.flatMap i.dstRefs) with creds := t.creds + 1 }
    if ls.isEmpty then s1.finish i t1 else s1.issued i t1)

/-- CRED, S-form. -/
def execCredS (f : SForm) (s : State) : Host.Outcome State Fault Refusal := runCred (insS 0x164 f) s
/-- CRED, L-form. -/
def execCredL (f : Form) (s : State) : Host.Outcome State Fault Refusal := runCred (insW 0x164 f) s

/-! The Oculus (R271). -/

/-- 2^x rounded once to f32, for x ≤ 0 or NaN. -/
def credExp (x : FVal) : FVal :=
  match x with
  | .nan _ _ => .qnan
  | .inf neg => if neg then .fin false 0 0 else .inf false
  | .fin neg m e =>
    if FVal.cmp x (.fin true 150 0) ≤ 0 then .fin false 0 0
    else let r := exp2Val 120 neg m e; fmtF32.value (fmtF32.put .rne false (.fin false r.1 r.2)).1

/-- The exact log2 of a positive value, with 100 fraction bits below where it is no integer. -/
def credLog (x : FVal) : FVal :=
  match x with
  | .inf _ => .inf false
  | .nan _ _ => .qnan
  | .fin _ m e =>
    match powTwo m e with
    | some k => FVal.ofInt k
    | none => let r := 2 * log2Val 100 m e + 1; .fin (decide (r < 0)) r.natAbs (-101)

def f32Put (v : FVal) : FVal := fmtF32.value (fmtF32.put .rne false v).1

/-- The larger of two maxima; NaN if either is. -/
def credMax (m mt : FVal) : FVal := if m.isNan || mt.isNan then .qnan else if FVal.cmp mt m ≤ 0 then m else mt

/-- State of a lane's merge: m, s, o. -/
structure CredAcc where
  m : FVal
  s : FVal
  o : List FVal

/-- One team's values merged in. -/
def credMerge (x : CredAcc) (ws : List W32) : CredAcc :=
  let v (j : Nat) : FVal := fmtF32.value (ws.getD j 0).toNat
  let mn := credMax x.m (v 0)
  let negInf := mn == .inf true
  let a := if negInf then .fin false 0 0 else credExp (FVal.add .rne x.m mn.neg).1
  let b := if negInf then .fin false 0 0 else credExp (FVal.add .rne (v 0) mn.neg).1
  let mix (p q : FVal) : FVal := f32Put (FVal.add .rne (FVal.mul p a).1 (FVal.mul q b).1).1
  { m := mn, s := mix x.s (v 1), o := (x.o.zip (upTo 32)).map (fun e => mix e.1 (v (e.2 + 2))) }

/-- The values written back: lse, s, out(0..31). -/
def credOut (x : CredAcc) : List W32 :=
  let put (v : FVal) : W32 := BitVec.ofNat 32 (fmtF32.put .rne false v).1
  let zero := x.s.isZero
  let lse : FVal := if zero then .inf true
    else if x.s.isNan || x.s.isNeg then .qnan
    else (FVal.add .rne x.m (credLog x.s)).1
  put lse :: put x.s :: x.o.map (fun o => if zero then 0 else put (FVal.div o x.s).1)

/-- The merge of one lane over the deposits of a round in ascending TEAMID. -/
def credLane (ds : List CredDep) (l : Nat) : List W32 :=
  credOut (ds.foldl (fun acc d => match SMap.find d.lanes l with | some ws => credMerge acc ws | none => acc)
    { m := .inf true, s := .fin false 0 0, o := List.replicate 32 (.fin false 0 0) })

/-- The lowest round of a block's deposits, once every team has deposited in it or retired. -/
def State.credRound (s : State) (b : Nat) : Option Nat :=
  let k := s.block b
  match k.cred with
  | [] => none
  | d :: ds =>
    let r := ds.foldl (fun m (e : CredDep) => min m e.round) d.round
    if k.teams.all (fun i => k.cred.any (fun e => e.team == i && e.round == r) || (s.team i).st == .retired) then some r else none

/-- OCULUS_MERGE (R271). -/
def execOculusMerge (b : Nat) (s : State) : Host.Outcome State Fault Refusal :=
  match s.credRound b with
  | none => .next s
  | some r =>
    let k := s.block b
    let ds := sortBy (fun x y => decide ((s.team x.team).teamid < (s.team y.team).teamid)) (k.cred.filter (fun e => e.round == r))
    let s1 := s.setBlock b { k with cred := k.cred.filter (fun e => e.round != r) }
    .next { s1 with replies := s1.replies ++ (ds.filter (fun d => !d.lanes.isEmpty)).map (fun d =>
      { team := d.team, dsts := d.lanes.flatMap (fun l => ((credLane ds l.1).zip (upTo 34)).map (fun e => Dst.v (d.a + e.2) l.1 e.1)),
        entry := none, completes := true, bytes := 0, set := 4, trap := none }) }

end Sys2Proof.Machine
end

