-- ==== Sys2Proof/Machine/Groups.lean ====
section
/-!
DEFINITION. The Campanile's entries (19 R311–R316): a function's groups, the waste records, and the recording of a team's counts.
-/
namespace Sys2Proof.Machine

/-- Entries of a function (23 R377): GBASE + n, and GN. -/
def State.groupKey (s : State) (vf g : Nat) : Nat := nfld (s.regN vf oGRANGE) 11 0 + g
def State.groupCount (s : State) (vf : Nat) : Nat := nfld (s.regN vf oGRANGE) 28 16
def State.group (s : State) (k : Nat) : Group := SMap.get s.groups k Group.blank
def State.setGroup (s : State) (k : Nat) (g : Group) : State := { s with groups := SMap.put s.groups k g Group.blank }

/-- A team's own group, when SGID.VALID is 1 (R310). -/
def Team.grouped (t : Team) : Bool := t.sgid.getLsbD 63
def State.ownGroup (s : State) (t : Team) : Nat := s.groupKey t.vf (t.sgid.toNat % 4096)

/-- Sibling i posted the winning hash. -/
def Group.winnerOf (g : Group) (i : Nat) : Bool :=
  match g.winner with
  | some j => g.posted.getLsbD i && SMap.get g.tidx i 0 == j
  | none => false

/-- Word 7 of sibling i's record (R316). -/
def Group.word7 (g : Group) (i : Nat) : Nat :=
  bnat (g.posted.getLsbD i) + 2 * bnat (g.cancelled.getLsbD i) + 4 * bnat (g.released.getLsbD i) + 8 * bnat (g.winnerOf i)
    + 16 * bnat (g.relErr.getLsbD i) + 256 * SMap.get g.tidx i 0 + 2 ^ 32 * (SMap.get g.relKeys i 0 % 2 ^ 32)

/-- A record's words are written, and no cache keeps them (22 R354), or wait at their home for storage or the dirty log like any write (21 R343, R349; log entry 12). -/
def State.putWords (s : State) (f va : Nat) (bs : List Byte) (op : HeldOp) : State :=
  let r := s.partsAt f va bs
  match r.2 with
  | some ps =>
    let x := r.1.storeParts f ps false .l2 va op
    match x.2 with
    | .done => x.1.dropParts ps
    | .held => x.1.noteLogs r.1.held.length
    | .poison => x.1
  | none => r.1

/-- Words 6 and 7 of sibling i's record are written as its entry stands. -/
def State.putRecord (s : State) (k i : Nat) : State :=
  let g := s.group k
  s.putWords g.vf (g.wrec + 64 * i + 48) (natLe 8 (SMap.get g.hash i 0).toNat ++ natLe 8 (g.word7 i)) .put

/-- Every sibling's words. -/
def State.putRecords (s : State) (k : Nat) : State := (upTo (s.group k).n).foldl (fun s i => s.putRecord k i) s

/-- Counts are added into sibling i's record (R316). -/
def State.addWaste (s : State) (k i : Nat) (w : Waste) : State :=
  let g := s.group k
  if g.st = 0 then s
  else
    [w.instrPre, w.instrPost, w.kstepPre, w.kstepPost, w.bytesPre, w.bytesPost].zip (upTo 6) |>.foldl (fun s e =>
      if e.1 = 0 then s
      else
        let a := g.wrec + 64 * i + 8 * e.2
        s.putWords g.vf a (natLe 8 ((s.vword g.vf a).toNat + e.1)) (.add (BitVec.ofNat 64 e.1))) s

/-- WASTE_COUNT_RECORD: a team's counts go into its sibling's record. -/
def State.recordWaste (s : State) (i : Nat) : State :=
  let t := s.team i
  if !t.grouped then s
  else ((s.addWaste (s.ownGroup t) t.sgidx.toNat t.waste).setTeam i { t with waste := Waste.zero })

/-- A copy engine adds the bytes of a request that completes to the record of its team's sibling. -/
def State.copyWaste (s : State) (i bytes : Nat) : State :=
  let t := s.team i
  if !t.grouped then s
  else
    let g := s.group (s.ownGroup t)
    s.addWaste (s.ownGroup t) t.sgidx.toNat
      (if g.st = 2 ∧ s.clock.toNat > g.dclock then { Waste.zero with bytesPost := bytes } else { Waste.zero with bytesPre := bytes })

end Sys2Proof.Machine
end

