-- ==== Sys2Proof/Machine/CopyEngine.lean ====
section
/-!
DEFINITION. The copy engine (17 R275–R287): CPK, the barrier objects' instructions, and the event COPY_ROW.
-/
namespace Sys2Proof.Machine

/-! CPK (R278, R279). -/

/-- The first failing check of the list. -/
def cpkList (b : Block) (sa n : Nat) : Option (Nat × Nat) :=
  if n < 1 ∨ n > 32 then some (cBOUND, 4)
  else if sa % 64 ≠ 0 then some (cALIGN, 0)
  else if !b.holds sa (64 * n) then some (cBOUND, 4)
  else none

/-- The fields that must be zero for the request's kind, and the ranges (record check 2). -/
def Copy.fieldsOk (c : Copy) : Bool :=
  decide (c.kind ≤ 4) && c.clean && (c.dstTable || (c.tslot == 0 && c.toff == 0)) && (c.srcTable || (c.fslot == 0 && c.foff == 0))
    && ((c.kind == 4) == (c.cmask != 0)) && (c.kind != 3 || c.fstride == 0)
    && decide (1 ≤ c.nrows) && decide (c.nrows ≤ 65536) && decide (4 ≤ c.rlen) && decide (c.rlen ≤ 4096)

/-- A table that the engine addresses by row number. -/
def Rec.plain (r : Rec) : Bool := r.kind == 0 || r.kind == 3

/-- The property of an optional record. -/
def recAll (r : Option Rec) (p : Rec → Bool) : Bool := match r with | some x => p x | none => true

/-- The core-memory ranges of a request: rows, key list, barrier (record check 7). -/
def Copy.inAlloc (c : Copy) (b : Block) (src : Option Rec) : Bool :=
  (upTo c.nrows).all (fun r =>
      (c.srcTable || b.holds (c.from r) c.rlen) && (c.coreDests r).all (fun x => b.holds x c.rlen))
    && recAll src (fun s => c.kind != 3 || b.holds c.fkey (c.nrows * keyBytes s.keyw)) && b.holds c.bar 16

/-- Alignment (record check 8). -/
def Copy.aligned (c : Copy) (src : Option Rec) : Bool :=
  c.rlen % 4 == 0 && c.foff % 4 == 0 && c.toff % 4 == 0 && c.bar % 16 == 0
    && (c.srcTable || (c.fkey % 4 == 0 && c.fstride % 4 == 0)) && (c.dstTable || (c.tkey % 4 == 0 && c.tstride % 4 == 0))
    && recAll src (fun s => c.kind != 3 || c.fkey % keyBytes s.keyw == 0)

/-- Record checks 2 to 8. -/
def cpkRecord (b : Block) (c : Copy) (src dest : Option Rec) : Option (Nat × Nat) :=
  if !c.fieldsOk then some (cBOUND, 4)
  else if !recAll dest Rec.plain || !recAll src (fun r => c.kind != 3 || r.keyw != 2 || r.kind == 3) then some (cTABLE, 1)
  else if !recAll src (fun r => !r.plain || c.kind == 3 || decide (c.fkey + (c.nrows - 1) * c.fstride < r.rowlim))
       || !recAll dest (fun r => decide (c.tkey + (c.nrows - 1) * c.tstride < r.rowlim)) then some (cBOUND, 1)
  else if !recAll src (fun r => r.pr) || !recAll dest (fun r => r.pw) then some (cPERM, 1)
  else if !recAll src (fun r => decide (c.foff + c.rlen ≤ r.rowb)) || !recAll dest (fun r => decide (c.toff + c.rlen ≤ r.rowb)) then
    some (cBOUND, 2)
  else if !c.inAlloc b src then some (cBOUND, 4)
  else if !c.aligned src then some (cALIGN, 0)
  else none

/-- What the checks of one record answer. -/
inductive CpkEnd where
  | ok (src dest : Option Rec)
  | trap (cls sub : Nat)
  | page (va cause : Nat)
  deriving DecidableEq, Repr

/-- The record of a side that is a table (record check 1). -/
def State.cpkSide (s : State) (t : Team) (used : Bool) (slot : Nat) : State × CpkEnd :=
  if !used then (s, .ok none none)
  else
    let q := s.record t.vf (s.tdir t) slot
    match q.2 with
    | .ok r => (q.1, .ok (some r) none)
    | .bad => (q.1, .trap cBOUND 3)
    | .perm => (q.1, .trap cPERM 2)
    | .fault va c => (q.1, .page va c)

def State.cpkCheck (s : State) (t : Team) (c : Copy) : State × CpkEnd :=
  let x := s.cpkSide t c.srcTable c.fslot
  match x.2 with
  | .ok src _ =>
    let y := x.1.cpkSide t c.dstTable c.tslot
    (match y.2 with
     | .ok dest _ =>
       (y.1, match cpkRecord (s.block t.block) c src dest with
             | some e => .trap e.1 e.2
             | none => .ok src dest)
     | e => (y.1, e))
  | e => (x.1, e)

/-- The latency of a source (R279). -/
def copyLat (c : Copy) (src : Option Rec) : Nat :=
  match src with
  | none => 20
  | some r => if r.plain ∧ c.kind ≠ 3 then 240 else 240 + 4 * c.nrows

/-- The pieces of a request's destination rows by grain, with the bytes each takes: adjacent ones of a grain together. -/
def State.destGrains (s : State) (c : CopyReq) : State × List (Tr × Nat × Nat × Nat) :=
  c.todo.foldl (fun a r =>
    match c.destVa r with
    | none => a
    | some va =>
      (cutRange 4097 65536 va c.copy.rlen).foldl (fun (a : State × List (Tr × Nat × Nat × Nat)) e =>
        let w := a.1.walk c.vf e.1 false true
        match w.2 with
        | .ok t =>
          if t.cls = 0 then (w.1, a.2)
          else
            (cutRange 4097 32 t.addr e.2).foldl (fun (a : State × List (Tr × Nat × Nat × Nat)) x =>
              let g := a.1.grainAt t x.1
              match a.2 with
              | (u, b, h, n) :: l =>
                if u.sys = t.sys ∧ b = x.1 / g * g then (a.1, (u, b, h, n + x.2) :: l) else (a.1, (t, x.1 / g * g, g, x.2) :: a.2)
              | [] => (a.1, [(t, x.1 / g * g, g, x.2)])) (w.1, a.2)
        | _ => (w.1, a.2)) a) (s, [])

/-- Ownership of the destination grains of a request is asked for where the L2 lacks it (22 R361): OwnND for those written whole, RdX otherwise. -/
def State.ownDests (s : State) (die : Nat) (c : CopyReq) : State :=
  let q := s.destGrains c
  q.2.reverse.foldl (fun s x =>
    let m := cohRequest x.1.sys die (96 + die) x.2.1 x.2.2.1 x.1.fn
    if s.mayWrite die x.1.sys x.2.1 x.2.2.1 then s else s.sendMsg (if x.2.2.2 ≥ x.2.2.1 then .ownnd m else .rdxMsg m)) q.1

/-- The checked records of a list, in order; the first failure otherwise, with its number. -/
def State.cpkScan (s : State) (t : Team) (cs : List Copy) : State × ((List (Option Rec × Option Rec)) ⊕ (Nat × CpkEnd)) :=
  cs.foldl (fun (a : State × ((List (Option Rec × Option Rec)) ⊕ (Nat × CpkEnd))) c =>
    match a.2 with
    | .inr _ => a
    | .inl rs =>
      let q := a.1.cpkCheck t c
      (q.1, match q.2 with
            | .ok x y => .inl (rs ++ [(x, y)])
            | e => .inr (rs.length, e))) (s, .inl [])

/-- CPK (R279). -/
def execCpk (f : Form) (s : State) : Host.Outcome State Fault Refusal :=
  let i := insW 0x180 f
  runUni i s (fun t =>
    let sa := t.sr f.a.toNat
    let n := i.opbRaw t true 0 % 2 ^ 32
    let b := s.block t.block
    match cpkList b sa n with
    | some c => s.trapAt i c.1 c.2 [(0, c.1)] sa 0
    | none =>
      let k := b.at sa
      if s.placeOwned (.core k) (64 * n) || s.qmcMeets s.cur k (64 * n) false then s
      else if (s.loadPlace (.core k) (64 * n)).2 ≠ 0 then s.trapAt i cECC 3 [(0, cECC)] sa 0
      else
        let recs := (upTo n).map (fun j => leWords 8 (readMem s.cm (k + 64 * j) 64))
        let cs := recs.map (fun w => copyOf (leNat (wordsLe w)))
        if (cs.map Copy.bytes).sum > 4194304 then s.trapAt i cBOUND 4 [(0, cBOUND)] sa 0
        else
          let q := s.cpkScan t cs
          match q.2 with
          | .inr (j, .trap c sub) => q.1.trapAt i c sub [(0, c)] (sa + 64 * j) 0
          | .inr (j, .page va c) => q.1.pageFault i 1 [{ lane := 0, va := va, cause := c, w := false, key := sa + 64 * j, off := 0 }]
          | .inr (_, .ok _ _) => s
          | .inl rs =>
            if decide ((s.copies.filter (fun c => c.core == t.core)).length + n > 64) || !q.1.mayEnter t.core s.cur then q.1.reject s.cur
            else
              let s1 := q.1.entered s.cur
              let id := s1.copies.foldl (fun m c => max m (c.id + 1)) 0
              let reqs := ((recs.zip rs).zip (upTo n)).map (fun e =>
                let c := copyOf (leNat (wordsLe e.1.1))
                ({ id := id + e.2, core := t.core, team := s.cur, block := t.block, vf := t.vf, dir := s.tdir t, words := e.1.1,
                   qmc := false, src := e.1.2.1, dest := e.1.2.2, dst := 0, todo := upTo c.nrows, waiting := [], bytes := 0 } : CopyReq))
              let t0 := max s.clock.toNat (SMap.get s1.promise t.core 0)
              let p := t0 + 32 + ((cs.zip rs).map (fun e => (e.1.bytes + 127) / 128 + copyLat e.1 e.2.1)).sum
              let s2 := reqs.foldl (fun s c => s.ownDests (dieOf t.core) c)
                          { s1 with copies := s1.copies ++ reqs, promise := SMap.put s1.promise t.core p 0 }
              s2.produce i (s2.team s.cur) (i.dstRefs 0) [.s f.d.toNat (BitVec.ofNat 64 p)] 5)

/-! Barrier objects (R282–R286). -/

/-- The places of the objects that an instruction names, lane by lane, checked as 16-byte accesses. -/
def State.planBar (s : State) (i : Ins) (t : Team) (ls : List Nat) : Plan :=
  if i.f.b.toNat < 64 then
    ls.foldl (fun p l => p.fail l cTABLE 1 (i.memKey t l) i.offset) Plan.empty
  else
    let p := ls.foldl (fun p l => s.planCore i t 16 l p) Plan.empty
    p.accs.foldl (fun p a => if (s.loadPlace a.place 16).2 ≠ 0 then p.fail a.lane cECC 3 a.key a.off else p) p

/-- The byte of the core memories of a place. -/
def Place.byte (x : Place) : Nat := match x with | .core k => k | .tab _ _ => 0

/-- An instruction on barrier objects: the checks, a wait for bytes that a copy owns, then `k` on each lane's object. -/
def runBar (i : Ins) (s : State) (k : Team → List Acc → State) : Host.Outcome State Fault Refusal :=
  runIns i s (fun t ls =>
    if ls.isEmpty then s.finish i t
    else
      let p := s.planBar i t ls
      if !p.fails.isEmpty then s.trapFails i p.fails
      else if p.accs.any (fun a => s.placeOwned a.place 16 || s.qmcMeets s.cur a.place.byte 16 true) then s
      else k t p.accs)

/-- BINIT (R283). -/
def execBinit (f : Form) (s : State) : Host.Outcome State Fault Refusal :=
  let i := insW 0x181 f
  runBar i s (fun t as =>
    as.foldl (fun s a =>
      let k := a.place.byte
      let n := i.opd t true 0 % 2 ^ 32
      let w := s.barWord k 1
      (s.setBar k (n + 2 ^ 32 * n) (w % 256 + (nfld w 63 48 + 1) % 65536 * 2 ^ 48)).barRelease t.block k) (s.finish i t))

/-- BARR (R284). -/
def execBarr (f : Form) (s : State) : Host.Outcome State Fault Refusal :=
  let i := insW 0x182 f
  runBar i s (fun t as =>
    if s.busy s.cur then s
    else as.foldl (fun s a => s.barCount t.block a.place.byte (i.opd t false a.lane % 2 ^ 32) 0 0) (s.finish i t))

/-- The trap of an ERR value (R281, R285). -/
def barTrap (err : Nat) : Nat × Nat :=
  match err with
  | 1 => (cXFAULT, 1)
  | 2 => (cPERM, 2)
  | 3 => (cPERM, 3)
  | 4 => (cECC, 1)
  | 6 => (cXFAULT, 3)
  | _ => (cBOUND, 4)

/-- The end of a wait on an object whose COUNT is 0: completion, with the order of 04 R90 (log entry 99), or the trap of its failure. -/
def State.barDone (s : State) (i : Ins) (t : Team) (a : Acc) : State :=
  let e := nfld (s.barWord a.place.byte 1) 23 16
  if e = 0 then (s.finish i t).syncLt t.core
  else let c := barTrap e; s.trapAt i c.1 c.2 [(0, c.1)] (a.key + a.off) 0

/-- The offset of a place in `[cl:]` form. -/
def clOffset (b : Block) (k : Nat) : Nat := 2 ^ 20 * (k / 2 ^ 20 % 4) + (k % 2 ^ 20 - b.base)

/-- BWAIT (R285). -/
def execBwait (f : Form) (s : State) : Host.Outcome State Fault Refusal :=
  let i := insW 0x183 f
  runBar i s (fun t as =>
    as.foldl (fun s a =>
      let k := a.place.byte
      if s.barWord k 0 % 2 ^ 32 = 0 then s.barDone i t a
      else
        let w := s.barWord k 1
        let s1 := if nbit w t.teamid then s else s.setBar k (s.barWord k 0) (w + 2 ^ t.teamid)
        s1.parkHere .barrier (BitVec.ofNat 64 (clOffset (s.block t.block) k))) s)

/-- WAITT (R286): it sleeps until the promise, then looks at the object. -/
def execWaitt (f : Form) (s : State) : Host.Outcome State Fault Refusal :=
  let i := insW 0x184 f
  runBar i s (fun t as =>
    as.foldl (fun s a =>
      let p := i.opd t true 0
      if s.clock.toNat < p then s.parkHere .sleep (BitVec.ofNat 64 p)
      else if s.barWord a.place.byte 0 % 2 ^ 32 = 0 then s.barDone i t a
      else
        s.takeTrap s.cur { cls := cPROMISE, sub := 0, causes := [(0, cPROMISE)], pc := t.pc + BitVec.ofNat 64 (4 * (i.len + 1)), ipc := t.pc,
                           ilen := i.len, key := a.key + a.off, off := 0 }) s)

/-! The engine's rows (R277, R280, R281). -/

/-- Where a row comes from. -/
inductive CopySrc where
  | core (k : Nat)
  | tab (va : Nat)
  | absent
  | err (e : Nat)
  | page (va cause : Nat)
  deriving DecidableEq, Repr

/-- A key lookup raises TABLE: its row fails, with an ERR that the spec does not state (log entry 98). -/
def State.copyFails (s : State) : State × CopySrc := (s.useFresh, .err (1 + Config.copyTableErr s.fresh % 6))

/-- A reach of a copy's lookup that stops ends the lookup: an error ends the row, a page waits for its fault's resolution (R277, R282). -/
def lookStops (vf slot : Nat) (r : Rec) (q : State × Option SpStop) : Option (State × CopySrc) :=
  match q.2 with
  | some (.fault c _) => some (if c = cECC then q.1.lineErr vf r slot else q.1, .err (if c = cPERM then 2 else 4))
  | some (.page va c _) => some (q.1, .page va c)
  | none => none

/-- The lookup of a key at the home Spire, an operation of the table like any other (11 R212, R213, R216). -/
def State.copyLook (s : State) (vf slot : Nat) (r : Rec) (key off : Nat) : State × CopySrc :=
  let h := s.spReach vf r.home r.ibase 4096 false
  match lookStops vf slot r h with
  | some x => x
  | none =>
    let s1 := h.1.formatted vf r
    let tb := s1.tableAt vf r.ibase
    if !tb.agrees r || tb.gen != r.gen then s1.copyFails
    else
      let k := key % 2 ^ keyBits r.keyw
      let q := s1.spReachAll vf r.home false (indexPlaces r tb k)
      match lookStops vf slot r q with
      | some x => x
      | none =>
        match tb.findKey k with
        | some n => (q.1, .tab (rowAddr r n + off))
        | none => (q.1, .absent)

/-- The source of row r of a request. A lookup uses the record that the Spire holds then (11 R211). -/
def State.copySource (s : State) (c : CopyReq) (r : Nat) : State × CopySrc :=
  let x := c.copy
  let b := s.block c.block
  match c.src with
  | none => (s, .core (b.at (x.from r)))
  | some rc =>
    let kb := keyBytes rc.keyw
    let k := b.at (x.fkey + r * kb)
    if x.kind = 3 ∧ (s.loadPlace (.core k) kb).2 ≠ 0 then (s, .err 4)
    else
      let key := if x.kind = 3 then leNat (readMem s.cm k kb) else x.from r
      if rc.kind = 0 ∨ (rc.kind = 3 ∧ x.kind ≠ 3) then
        (s, if key ≥ rc.rowlim then .absent else .tab (rowAddr rc key + x.foff))
      else
        let q := s.record c.vf c.dir x.fslot
        match q.2 with
        | .ok r => if r.kind = 0 then q.1.copyFails else if !r.pr then (q.1, .err 2) else q.1.copyLook c.vf x.fslot r key x.foff
        | .fault va k => (q.1, .page va k)
        | .bad => q.1.copyFails
        | .perm => (q.1, .err 2)

/-- The request d still owns bytes at a VA range of function f. -/
def State.ownsVa (s : State) (d : CopyReq) (f va n : Nat) : Bool :=
  (cutRange 4097 65536 va n).any (fun e =>
    match s.peek f e.1 with
    | some p => s.ownsDev d p.1 p.2 e.2
    | none => false)

/-- Row r waits for other requests: its source for any whose transfer comes first, its destination for those issued earlier
(R280, 04 R89). -/
def State.rowBlocked (s : State) (c : CopyReq) (r : Nat) : Bool :=
  let x := c.copy
  let b := s.block c.block
  let first := s.copies.filter (fun d => d.id != c.id && (decide (d.id < c.id) || d.core != c.core))
  let before := s.copies.filter (fun d => decide (d.id < c.id))
  let kb := recAll c.src (fun rc => x.kind != 3 || !first.any (fun d => s.ownsCore d (b.at (x.fkey + r * keyBytes rc.keyw)) (keyBytes rc.keyw)))
  !kb
    || (match (s.copySource c r).2 with
        | .core k => first.any (fun d => s.ownsCore d k x.rlen)
        | .tab va => first.any (fun d => s.ownsVa d c.vf va x.rlen)
        | _ => false)
    || (x.coreDests r).any (fun o => before.any (fun d => s.ownsCore d (b.at o) x.rlen))
    || (match c.destVa r with
        | some va => before.any (fun d => s.ownsVa d c.vf va x.rlen)
        | none => false)

/-- A request has begun: the next of its engine may (R280). -/
def CopyReq.started (c : CopyReq) : Bool := if c.qmc then decide (c.bytes > 0) else decide (c.todo.length < c.copy.nrows)

def State.copyOfId (s : State) (id : Nat) : Option CopyReq := s.copies.find? (fun c => c.id == id)

/-- A QMC would read or overwrite bytes that a copy of any engine still owns (04 R89); one of its own engine comes first only where it is earlier, for a
later one has not begun (R280). -/
def State.qmcBlocked (s : State) (c : CopyReq) (target : Nat) : Bool :=
  let b := s.block c.block
  let a := (c.words.getD 0 0).toNat
  let n := (c.words.getD 1 0).toNat
  s.copies.any (fun d => (d.core != c.core || decide (d.id < c.id))
    && (s.ownsCore d (2 ^ 20 * c.core + b.base + a) n || s.ownsCore d (2 ^ 20 * (4 * b.cluster + target) + b.base + a) n))

/-- The engine may perform the next row of a request. A QMC follows every earlier request of its engine (15 R270). -/
def State.copyReady (s : State) (id : Nat) : Bool :=
  match s.copyOfId id with
  | none => false
  | some c =>
    let earlier := s.copies.filter (fun d => d.core == c.core && decide (d.id < c.id))
    match c.todo with
    | [] => false
    | r :: _ => if c.qmc then earlier.isEmpty && !s.qmcBlocked c r else earlier.all CopyReq.started && !s.rowBlocked c r

def State.putCopy (s : State) (c : CopyReq) : State :=
  { s with copies := s.copies.map (fun d => if d.id = c.id then c else d) }

/-- Row r of a request ends, written or not: its bytes are counted, MISS where its key was not found, and the request with the last. -/
def State.copyRowEnd (s : State) (c : CopyReq) (r err miss : Nat) : State :=
  let c1 := { c with todo := c.todo.filter (· != r), waiting := c.waiting.filter (fun w => w.1 != r), missed := c.missed.filter (· != r) }
  let s1 := (s.putCopy c1).barCount c.block ((s.block c.block).at c.copy.bar) c.copy.rowBytes err (if c.missed.contains r then 1 else miss)
  if c1.left.isEmpty then
    { s1.copyWaste c.team c.copy.bytes with copies := s1.copies.filter (fun d => d.id != c.id) }
  else s1

/-- What stops the engine at a range. -/
inductive CopyStop where
  | err (e : Nat)
  | page (va cause : Nat)
  deriving DecidableEq, Repr

/-- The translations of a range: each chunk with its length (R281). -/
def State.copyWalk (s : State) (vf va n : Nat) (wr : Bool) : State × ((List (Tr × Nat × Nat)) ⊕ CopyStop) :=
  (cutRange 4097 65536 va n).foldl (fun (a : State × ((List (Tr × Nat × Nat)) ⊕ CopyStop)) e =>
    match a.2 with
    | .inr _ => a
    | .inl ts =>
      let w := a.1.walk vf e.1 (!wr) wr
      (w.1, match w.2 with
            | .ok t =>
              if t.cls = 0 && !w.1.inNcwin vf (t.addr - w.1.regN vf oDABASE) then .inr (.err 3) else .inl (ts ++ [(t, e.2, e.1)])
            | .fault c => .inr (.page e.1 c)
            | .perm => .inr (.err 2))) (s, .inl [])

/-- A row waits; its key was not found where `miss` is 1. -/
def CopyReq.hold (c : CopyReq) (r what miss : Nat) : CopyReq :=
  { c with todo := c.todo.filter (· != r), waiting := c.waiting ++ [(r, what)],
           missed := if miss = 0 ∨ c.missed.contains r then c.missed else c.missed ++ [r] }

/-- A row waits on a page: one record for each page of an engine; none is written while the queue is off (R281, 21 R341). -/
def State.copyHold (s : State) (c : CopyReq) (r va cause : Nat) (wr : Bool) (miss : Nat) : State :=
  if !s.fsqOn c.vf then s.copyRowEnd c r 1 miss
  else
    let page := va / 65536
    let known := s.copies.any (fun d => d.core == c.core && d.vf == c.vf && d.waiting.any (fun w => w.2 == page))
    let s1 := s.putCopy (c.hold r page miss)
    if known then s1
    else s1.addFault (faultRec c.vf 4 cause wr 0 0 (BitVec.ofNat 64 (1 + 256 * c.core)) 0 va (.copy c.id r))

def State.copyStop (s : State) (c : CopyReq) (r : Nat) (wr : Bool) (x : CopyStop) (miss : Nat) : State :=
  match x with
  | .err e => s.copyRowEnd c r e miss
  | .page va cause => s.copyHold c r va cause wr miss

/-- The bytes of a row, or what stops it. -/
def State.copyRead (s : State) (c : CopyReq) (x : CopySrc) : State × (List Byte ⊕ CopyStop) :=
  let n := c.copy.rlen
  match x with
  | .absent => (s, .inl (List.replicate n 0))
  | .err e => (s, .inr (.err e))
  | .page va k => (s, .inr (.page va k))
  | .core k => let b := s.loadPlace (.core k) n; (s, if b.2 ≠ 0 then .inr (.err 4) else .inl b.1)
  | .tab va =>
    let w := s.copyWalk c.vf va n false
    match w.2 with
    | .inr e => (w.1, .inr e)
    | .inl ts =>
      let rs := ts.map (fun e => w.1.readTr e.1 e.2.1)
      if rs.any (fun e => e.2) then (w.1, .inr (.err 4))
      else (ts.foldl (fun s e => s.touchEngine (dieOf c.core) e.1 e.2.1 false) w.1, .inl (rs.flatMap (fun e => e.1)))

/-- A row's bytes are written at its destinations: those of a table all at once, through the die's L2, as a core's (R281, 22 R354). Grains that it does
not own yet, of pages that came after CPK, are asked for as at CPK (22 R361). No L1 of the die keeps a grain: a read after the engine has taken
ownership finds the copied bytes (04 R89). -/
def State.copyWrite (s : State) (c : CopyReq) (r : Nat) (bs : List Byte) (miss : Nat) : State :=
  match c.destVa r with
  | none =>
    let b := s.block c.block
    ((c.copy.coreDests r).foldl (fun s o => s.putCore (b.at o) bs) s).copyRowEnd c r 0 miss
  | some va =>
    let w := s.copyWalk c.vf va c.copy.rlen true
    match w.2 with
    | .inr e => w.1.copyStop c r true e miss
    | .inl ts =>
      let die := dieOf c.core
      if ts.any (fun e => (w.1.readTr e.1 e.2.1).2) then w.1.copyRowEnd c r 4 miss
      else
      let s0 := if ts.any (fun e => !(w.1.engineLacks die e.1 e.2.1).isEmpty) then w.1.ownDests die { c with todo := c.left } else w.1
      let s1 := ts.foldl (fun s e => (s.touchEngine die e.1 e.2.1 true).dropGrains die e.1 e.2.1) s0
      let ps := (ts.foldl (fun (a : List Part × List Byte) e => (a.1 ++ e.1.parts (a.2.take e.2.1), a.2.drop e.2.1)) ([], bs)).1
      let z := s1.storeParts c.vf ps false (.copy c.id r) va .put
      match z.2 with
      | .done => z.1.copyRowEnd c r 0 miss
      | .poison => z.1.copyRowEnd c r 4 miss
      | .held => (z.1.putCopy (c.hold r (2 ^ 41) miss)).noteLogs s1.held.length

/-- One target of a QMC (15 R270). -/
def State.qmcRow (s : State) (c : CopyReq) (target : Nat) : State :=
  let b := s.block c.block
  let a := (c.words.getD 0 0).toNat
  let n := (c.words.getD 1 0).toNat
  let src := 2 ^ 20 * c.core + b.base + a
  let s1 := s.putCore (2 ^ 20 * (4 * b.cluster + target) + b.base + a) (readMem s.cm src n)
  let c1 := { c with todo := c.todo.filter (· != target), bytes := c.bytes + n }
  if c1.todo.isEmpty then
    { s1 with copies := s1.copies.filter (fun d => d.id != c.id),
              replies := s1.replies ++ [{ team := c.team, dsts := [.s c.dst (BitVec.ofNat 64 c1.bytes)], entry := none, completes := true,
                                          bytes := 0, set := 4, trap := none }] }
  else s1.putCopy c1

/-- COPY_ROW (R280): the engine performs the request's next row, once its L2 owns the grains it writes (22 R360). -/
def execCopyRow (id : Nat) (s : State) : Host.Outcome State Fault Refusal :=
  match s.copyOfId id with
  | none => .next s
  | some c =>
    if !s.copyReady id then .next s
    else
      match c.todo with
      | [] => .next s
      | r :: _ =>
        if c.qmc then .next (s.qmcRow c r)
        else
          let x := (s.quiet (c.core + 1)).copySource c r
          let y := x.1.copyRead c x.2
          let e := match y.2 with
            | .inr e => y.1.copyStop c r false e 0
            | .inl bs => y.1.copyWrite c r bs (if x.2 = .absent then 1 else 0)
          .next (match s.trialWaits e c.vf with
                 | some w => w
                 | none => s.unquiet e)

/-- The rows of an engine that wait on a page try again, or fail with ERR 1 (R281, 21 R340). -/
def State.copyResolve (s : State) (core vf page : Nat) (ok : Bool) : State :=
  if ok then
    { s with copies := s.copies.map (fun d =>
        if d.core = core ∧ d.vf = vf then
          let back := (d.waiting.filter (fun w => w.2 == page)).map (fun w => w.1)
          { d with todo := sortBy (fun a b => decide (a < b)) (d.todo ++ back), waiting := d.waiting.filter (fun w => w.2 != page) }
        else d) }
  else
    ((s.copies.filter (fun d => d.core == core && d.vf == vf)).flatMap (fun d => (d.waiting.filter (fun w => w.2 == page)).map (fun w => (d.id, w.1)))).foldl
      (fun s e => match s.copyOfId e.1 with | some c => s.copyRowEnd c e.2 1 0 | none => s) s

end Sys2Proof.Machine
end

