-- ==== Sys2Proof/Machine/Queues.lean ====
section
/-!
DEFINITION. The queue engine (17 R288–R294) and the reorder unit (R295–R297): QPUSH, QPOP, QSTAT, RDX and their events.
-/
namespace Sys2Proof.Machine

/-! Parks for what a team has held elsewhere: writes, pushes, deposits, appends (21 R343, R349; 17 R291, R296; 19 R322). -/

/-- Something of team i is held. -/
def State.ownHolds (s : State) (i : Nat) : Bool :=
  s.held.any (fun h => match h.writer with | .team j _ _ => j == i | _ => false)
    || s.qreqs.any (fun r => r.team == i && r.hold != .none)
    || s.jobs.any (fun j => j.2.held.any (fun d => d.team == i)) || s.appends.any (fun a => a.team == i)

/-- A park that ends when nothing of the team is held any more. -/
def State.holdPark (s : State) (i : Nat) (c : Cause) (a : W64) : Bool :=
  c == .space || c == .queue || (c == .quota && a.getLsbD 63)
    || (c == .page && !s.faults.any (fun r => r.waiter == .team i) && (match (s.team i).mma with | some m => !m.stopped | none => true))

/-- Team i goes on once its last held write, push, deposit or append is performed. -/
def State.wakeHeld (s : State) (i : Nat) : State :=
  let t := s.team i
  if s.ownHolds i then s
  else
    let t1 := match t.parkNext with
      | some (c, a) => if s.holdPark i c a then { t with parkNext := none } else t
      | none => t
    let s1 := s.setTeam i t1
    if t.st = .parked ∧ s.holdPark i t.cause t.arg then s1.unpark i else s1

/-- A team is to park at its next boundary; the first such park stands. -/
def State.parkSoon (s : State) (i : Nat) (c : Cause) (a : W64) : State :=
  let t := s.team i
  match t.parkNext with
  | some _ => s
  | none => s.setTeam i { t with parkNext := some (c, a) }

/-! Queues. -/

def State.queue (s : State) (k : Nat) : Queue := SMap.get s.queues k Queue.blank
def State.setQueue (s : State) (k : Nat) (q : Queue) : State := { s with queues := SMap.put s.queues k q Queue.blank }

/-- First hardware queue of a function (23 R377). -/
def State.qbase (s : State) (vf : Nat) : Nat := nfld (s.regN vf oQRANGE) 9 0

/-- The hardware queue that a number names, if it is one of the function's and enabled (R288). -/
def State.queueOf (s : State) (vf n : Nat) : Option Nat :=
  let k := s.qbase vf + n
  if n < nfld (s.regN vf oQRANGE) 26 16 ∧ (s.queue k).en then some k else none

/-- Lanes that name no queue. -/
def State.badQueues (s : State) (i : Ins) (t : Team) (ls : List Nat) : List Nat :=
  ls.filter (fun l => (s.queueOf t.vf (i.opbRaw t false l % 2 ^ 32)).isNone)

/-- The requests of an instruction, one for each lane, with the fields of `g`. -/
def State.queueReqs (s : State) (i : Ins) (t : Team) (kind : Nat) (ls : List Nat) (val : Nat → Nat) (dst : Nat) : List QReq :=
  (ls.zip (upTo ls.length)).map (fun e =>
    { kind := kind, queue := (s.queueOf t.vf (i.opbRaw t false e.1 % 2 ^ 32)).getD 0, vf := t.vf, team := s.cur, die := dieOf t.core,
      ins := s.fresh + 1, lane := e.1, uni := i.f.uni, val := BitVec.ofNat 64 (val e.1), dst := dst, pd := i.pd, pe := i.pe, last := e.2 + 1 == ls.length,
      hold := .none, since := none })

/-- QPUSH (R292): complete with the acceptance of its last push (20 R326). -/
def execQpush (f : Form) (s : State) : Host.Outcome State Fault Refusal :=
  let i := insW 0x185 f
  runIns i s (fun t ls =>
    let bad := s.badQueues i t ls
    if !bad.isEmpty then s.trapLanes i cBOUND 4 bad
    else if ls.isEmpty then s.finish i t
    else { s.useFresh.issued i t with qreqs := s.qreqs ++ s.queueReqs i t 0 ls (i.opa t true) 0 })

/-- QPOP (R292). -/
def execQpop (f : Form) (s : State) : Host.Outcome State Fault Refusal :=
  let i := insW 0x186 f
  runIns i s (fun t ls =>
    if ls.isEmpty then s.finish i t
    else
      let bad := s.badQueues i t ls
      if !bad.isEmpty then s.trapLanes i cBOUND 4 bad
      else { s.useFresh.issued i (t.markAll (ls.flatMap i.dstRefs)) with
               qreqs := s.qreqs ++ s.queueReqs i t 1 ls (fun l => t.opnd f.uni true f.c.toNat l) f.c.toNat })

/-- QSTAT (R293). -/
def execQstat (f : Form) (s : State) : Host.Outcome State Fault Refusal :=
  let i := insW 0x188 f
  runUni i s (fun t =>
    if !(s.badQueues i t [0]).isEmpty then s.trapLanes i cBOUND 4 [0]
    else { s.useFresh.issued i (t.markAll (i.dstRefs 0)) with qreqs := s.qreqs ++ s.queueReqs i t 2 [0] (fun _ => f.mod.toNat) f.d.toNat })

/-! The head (R289–R291). -/

/-- Pushes held in the push segment of a die. -/
def State.segment (s : State) (k die : Nat) : Nat :=
  (s.qreqs.filter (fun r => r.kind == 0 && r.queue == k && r.die == die && r.hold != .none)).length

/-- Places of a die's push segment that pushes turned away four times have reserved, before push number n (R291, 05 R112). -/
def State.segReserved (s : State) (n : Nat) (r : QReq) : Nat :=
  ((if r.tries ≥ 4 then s.qreqs.take n else s.qreqs).filter (fun e =>
    e.kind == 0 && e.queue == r.queue && e.die == r.die && e.hold == .none && decide (e.tries ≥ 4))).length

/-- The push segment of its die has room for push number n. -/
def State.segRoom (s : State) (n : Nat) (r : QReq) : Bool := decide (s.segment r.queue r.die + s.segReserved n r < 64)

/-- A push that its die's full segment has turned away waits for its next try. -/
def State.turnedAway (s : State) (r : QReq) : Bool := r.kind == 0 && r.hold == .none && decide (s.clock.toNat < r.retry)

/-- Request number n is the next of its queue that the head may take; held pushes are passed by, and so are pushes of other teams
that are turned away. -/
def State.queueTurn (s : State) (n : Nat) : Bool :=
  match s.qreqs[n]? with
  | none => false
  | some r =>
    r.hold != .none || (s.qreqs.take n).all (fun e => e.queue != r.queue || e.hold != .none || (s.turnedAway e && e.team != r.team))

/-- What a push finds at the head: room in the segment, room in the ring at a translation, or a wait. -/
inductive PushTry where
  | head
  | ring (t : Tr) (va : Nat)
  | wait (c : Cause) (arg : Nat) (rec_ : Option FaultRec)
  deriving DecidableEq, Repr

/-- The ring's address of entry n (R289). -/
def Queue.entry (q : Queue) (n : Nat) : Nat := q.mbase + (n % q.mcap) * 8

/-- CTX of a record made for a queue (21 R339). -/
def Queue.ctx (q : Queue) : W64 := BitVec.ofNat 64 (3 + 256 * q.home)

/-- Entries of the ring move into the head segment while it has room and their pages can be read (R290),
through the L2 of the head's die (22 R354). -/
def State.refill (fuel : Nat) (s : State) (k : Nat) : State :=
  match fuel with
  | 0 => s
  | m + 1 =>
    let q := s.queue k
    if q.ringLen = 0 ∨ q.head.length ≥ 64 then s
    else
      let va := q.entry q.ringHead
      if s.vaOwned q.vf va 8 then s
      else
      let w := s.walk q.vf va true false
      match w.2 with
      | .ok t =>
        let r := w.1.readTr t 8
        let v : W64 := if r.2 then Config.poisonedEntry w.1.fresh else BitVec.ofNat 64 (leNat r.1)
        let s1 := (if r.2 then w.1.useFresh else w.1).touchEngine q.home t 8 false
        State.refill m (s1.setQueue k { q with head := q.head ++ [v], ringHead := (q.ringHead + 1) % q.mcap, ringLen := q.ringLen - 1 }) k
      | .fault c =>
        if q.stuck || !s.fsqOn q.vf then w.1
        else (w.1.setQueue k { q with stuck := true }).addFault (faultRec q.vf 4 c false 0 0 q.ctx 0 va .queue)
      | .perm => w.1

/-- A push at the head, without effect but on the accessed bits: a wait of cause page with no record of its own is one for the dirty log (21
R343). DESIGN CHOICE: where the ring's page is resident without write permission, or the ring's block is in POISON, the push is held with
cause queue until it can be written: the spec states no outcome for a push there (log entry 112; unsafe). -/
def State.pushTry (s : State) (r : QReq) : State × PushTry :=
  let q := s.queue r.queue
  let name := r.queue - s.qbase r.vf
  if q.ringLen = 0 ∧ q.head.length < 64 then (s, .head)
  else if q.ringLen ≥ q.mcap then (s, .wait .queue name none)
  else
    let va := q.entry (q.ringHead + q.ringLen)
    if s.vaOwned q.vf va 8 then (s, .wait .queue name none)
    else
    let w := s.walk q.vf va false true
    match w.2 with
    | .fault c => (w.1, .wait .page va (some (faultRec q.vf 4 c true 0 0 q.ctx 0 va .queue)))
    | .perm => (w.1, .wait .queue name none)
    | .ok t =>
      let bs := natLe 8 r.val.toNat
      let grows := !t.sys && blkMove (w.1.blkOf t.addr) t.addr bs t.cmp == .expand
      if t.sys then (w.1, .ring t va)
      else if w.1.poisoned t.addr then (w.1, .wait .queue name none)
      else if grows && w.1.regN q.vf oPQUOTA != 0 && decide (w.1.regN q.vf oQUSED + 1 > w.1.regN q.vf oPQUOTA * 256) then
        (w.1, .wait .quota (2 ^ 63 + name)
          (some (faultRec q.vf 5 4 true r.lane 0 (w.1.team r.team).ctxbase (BitVec.ofNat 64 name) va .queue)))
      else if w.1.blockHeld t.addr || (w.1.needsStorage t.addr bs t.cmp && w.1.poolLow (homeDie t.addr)) then
        (w.1, .wait .space t.addr none)
      else if w.1.dlNeeds t.fn t.addr && w.1.dlFull t.fn then (w.1, .wait .page va none)
      else
        let asks := w.1.storageAsks t.fn [{ sys := false, addr := t.addr, bytes := bs, cmp := t.cmp }]
        match asks.find? (fun a => (w.1.shortDies asks).contains (homeDie a)) with
        | some a => (w.1, .wait .space a none)
        | none => (w.1, .ring t va)

/-- The held push of its queue that a push waits behind: for a held one those held before it, for another any. -/
def State.pushAfter (s : State) (n : Nat) (r : QReq) : Option QReq :=
  (if r.hold = .none then s.qreqs else s.qreqs.take n).find? (fun e => e.kind == 0 && e.queue == r.queue && e.hold != .none)

/-- A wait. -/
def PushTry.waits (x : PushTry) : Bool := match x with | .wait _ _ _ => true | _ => false

/-- What push number n finds: behind a held push, what that one waits for. The head segment is refilled first (R290). -/
def State.pushFinds (s : State) (n : Nat) (r : QReq) : State × PushTry :=
  match s.pushAfter n r with
  | some e => (s, (s.pushTry e).2)
  | none => s.pushTry r

/-- The refill of a queue's head segment is not over though it has room: its oldest ring entry cannot move yet, and no push comes before it
(R290). -/
def Queue.refilling (q : Queue) : Bool := q.ringLen != 0 && decide (q.head.length < 64)

/-- PUSH_ACCEPT may take request n: it can be accepted, becomes held, is turned away, or is held for another reason than before; or the refill that
comes before it has something to do. -/
def State.pushReady (s : State) (n : Nat) : Bool :=
  match s.qreqs[n]? with
  | none => false
  | some r =>
    let q := s.queue r.queue
    let behind := (s.pushAfter n r).isSome
    let s1 := s.refill 64 r.queue
    r.kind == 0 && !s.turnedAway r && s.queueTurn n &&
      (if (s1.queue r.queue).refilling then s1.queue r.queue != q
       else match (s1.pushFinds n r).2 with
       | .wait c _ x =>
         if r.hold = .none then true
         else !behind && (r.hold != c || (c == .page && x.isSome && !q.pushStuck && s.fsqOn q.vf))
       | _ => !behind)

/-- A push becomes held, behind those held before it: the first one's record is written, a reclamation asked for; its team parks soon, but for a
page of the ring that is not resident. -/
def State.holdPush (s : State) (n : Nat) (r : QReq) (c : Cause) (arg : Nat) (rec_ : Option FaultRec) : State :=
  let own := (s.pushAfter n r).isNone
  let r1 := { r with hold := c, since := some s.time }
  let s1 := { s with qreqs := if r.hold = .none then dropAt s.qreqs n ++ [r1] else putAt s.qreqs n r1 }
  let s2 := if !own then s1
    else match rec_ with
    | some x =>
      if !s1.fsqOn x.fn then s1
      else
        let q := s1.queue r.queue
        (if x.kind = 4 then s1.setQueue r.queue { q with pushStuck := true } else s1).addFault x
    | none => if c = .page then s1.dlogRecord r.vf else s1
  let s3 := if own && c = .space then
      let d := homeDie arg
      { s2 with rounds := SMap.put s2.rounds d { SMap.get s2.rounds d Round.idle with active := true } Round.idle }
    else s2
  if c = .page && rec_.isSome then s3 else s3.parkSoon r.team c (BitVec.ofNat 64 arg)

/-- A push finds its die's push segment full: it is tried again 8 clocks later, and the fourth time has the next place reserved (R291, 05 R112). -/
def State.turnAway (s : State) (n : Nat) (r : QReq) : State :=
  { s with qreqs := putAt s.qreqs n { r with tries := r.tries + 1, retry := s.clock.toNat + 8 } }

/-- PUSH_ACCEPT (R290, R291): the ring is written through the L2 of the head's die (22 R354). -/
def execPushAccept (n : Nat) (s : State) : Host.Outcome State Fault Refusal :=
  match s.qreqs[n]? with
  | none => .next s
  | some r =>
    if !s.pushReady n then .next s
    else
      let s0 := (s.quiet 0).refill 64 r.queue
      let q := s0.queue r.queue
      if q.refilling then .next (s.unquiet s0)
      else
      let x := s0.pushFinds n r
      let gone (s : State) : State :=
        let s1 : State := { s with qreqs := dropAt s.qreqs n }
        (if s1.qreqs.any (fun e => e.kind == 0 && e.ins == r.ins) then s1 else s1.account r.team 1 0 0).wakeHeld r.team
      let e := match x.2 with
        | .head => gone (x.1.setQueue r.queue { q with head := q.head ++ [r.val], pushes := q.pushes + 1 })
        | .ring t va =>
          gone (((x.1.touchEngine q.home t 8 true).storeTr t (natLe 8 r.val.toNat) false .queue va).1.setQueue r.queue
                  { q with ringLen := q.ringLen + 1, pushes := q.pushes + 1 })
        | .wait c a rec_ => if r.hold = .none && !s.segRoom n r then s.turnAway n r else x.1.holdPush n r c a rec_
      .next (match s.trialWaits e r.vf with
             | some w => w
             | none => s.unquiet e)

/-- The head has an entry to give, or the queue is empty. -/
def State.headReady (s : State) (k : Nat) : Bool :=
  let q := s.queue k
  !q.head.isEmpty || q.ringLen == 0 || !(((s.refill 1 k).queue k).head.isEmpty)

/-- POP_SERVE may take request n. -/
def State.popReady (s : State) (n : Nat) : Bool :=
  match s.qreqs[n]? with
  | none => false
  | some r => r.kind != 0 && s.queueTurn n && (r.kind == 2 || s.headReady r.queue)

/-- The value of a QSTAT selector (R293). -/
def State.queueStat (s : State) (k sel : Nat) : Nat :=
  let q := s.queue k
  match sel with
  | 0 => q.head.length + q.ringLen
  | 1 => q.ringLen
  | 2 => (s.qreqs.filter (fun r => r.kind == 0 && r.queue == k && r.hold != .none)).length
  | 3 => 64 + q.mcap
  | _ => q.pushes.toNat

/-- A reply of the queue engine. -/
def QReq.reply (r : QReq) (dsts : List Dst) : Reply :=
  { team := r.team, dsts := dsts, entry := none, completes := true, bytes := 0, set := 4, trap := none, ins := r.ins }

/-- POP_SERVE (R290, R292, R293): a pop takes the oldest entry; a QSTAT reads. -/
def execPopServe (n : Nat) (s : State) : Host.Outcome State Fault Refusal :=
  match s.qreqs[n]? with
  | none => .next s
  | some r =>
    if !s.popReady n then .next s
    else if r.kind = 2 then
      .next { s with qreqs := dropAt s.qreqs n,
                     replies := s.replies ++ [r.reply [.s r.dst (BitVec.ofNat 64 (s.queueStat r.queue r.val.toNat))]] }
    else
      let s1 := (s.quiet 0).refill 64 r.queue
      let q := s1.queue r.queue
      let out (s : State) (got : Bool) (x : W64) : State :=
        { s with qreqs := dropAt s.qreqs n,
                 replies := s.replies ++ [r.reply (dstsOf r.uni .n64 r.dst r.lane x.toNat ++ pairDsts r.uni r.pd r.pe r.lane got (!got))] }
      .next (s.unquiet (match q.head with
             | [] => out s1 false r.val
             | x :: rest => (out (s1.setQueue r.queue { q with head := rest }) true x).refill 64 r.queue))

/-! The reorder unit (R295–R297). -/

/-- SHIFT, FLUSH and CAP of a stage k ≥ 1 (19 R305). -/
def Job.stageWord (j : Job) (k i : Nat) : W64 := (j.stages.getD (k - 1) []).getD i 0
def Job.shift (j : Job) (k : Nat) : Nat := fld (j.stageWord k 0) 4 0
def Job.flush (j : Job) (k : Nat) : Nat := fld (j.stageWord k 1) 31 0
def Job.cap (j : Job) (k : Nat) : Nat := fld (j.stageWord k 1) 63 32
/-- The declared lane count (19 R304). -/
def Job.lanes (j : Job) : Nat := fld (j.word 0) 26 17 + 1

/-- RDX (R296). -/
def execRdx (f : Form) (s : State) : Host.Outcome State Fault Refusal :=
  let i := insW 0x187 f
  runIns i s (fun t ls =>
    if ls.isEmpty then s.finish i t
    else if t.stage + 1 > (s.job t.job).stages.length then s.trapLanes i cBOUND 4 ls
    else if s.busy s.cur then s
    else
      let ds := ls.map (fun l =>
        ({ job := t.job, stage := t.stage + 1, key := BitVec.ofNat 32 (i.opa t false l), val := BitVec.ofNat 64 (i.opb t true l),
           team := s.cur, die := dieOf t.core, at_ := 0 } : Deposit))
      { s.finish i (t.removeLanes ls) with deposits := s.deposits ++ ds })

/-- The bucket of a deposit. -/
def Job.bucketOf (j : Job) (d : Deposit) : Nat := d.key.toNat / 2 ^ j.shift d.stage

/-- Entries of a stage's bucket, in arrival order. -/
def Job.bucket (j : Job) (k b : Nat) : List Deposit := j.buckets.filter (fun d => d.stage == k && j.bucketOf d == b)

/-- Open buckets of a stage, in the order of their oldest entries. -/
def Job.open_ (j : Job) (k : Nat) : List Nat :=
  (j.buckets.filter (fun d => d.stage == k)).foldl (fun bs d => if bs.contains (j.bucketOf d) then bs else bs ++ [j.bucketOf d]) []

/-- The list without the first occurrence of each of some elements. -/
def removeEach (l rs : List Deposit) : List Deposit := rs.foldl List.erase l

/-- BUCKET_LAUNCH: entries leave the store for a team of the stage, sorted by key with ties in arrival order. -/
def Job.launch (j : Job) (k : Nat) (es : List Deposit) : Job :=
  { j with buckets := removeEach j.buckets es,
           ready := j.ready ++ [(k, sortBy (fun a b => decide (a.key.toNat < b.key.toNat)) es)] }

/-- A deposit joins its bucket: conditions 1 and 3 of R297; buckets whose FLUSH has passed go before one that makes room. -/
def Job.enter (j : Job) (d : Deposit) : Job :=
  let k := d.stage
  let j1 := { j with buckets := j.buckets ++ [d] }
  let own := j1.bucket k (j1.bucketOf d)
  if own.length ≥ j1.lanes then j1.launch k (own.take j1.lanes)
  else if (j1.open_ k).length > 256 then
    let due := sortBy (fun a b => decide (a < b))
      ((j1.open_ k).filter (fun b => (j1.bucket k b).head?.any (fun e => decide (e.at_ + j1.flush k ≤ d.at_))))
    let j2 : Job := due.foldl (fun (j : Job) b => j.launch k (j.bucket k b)) j1
    if (j2.open_ k).length > 256 then j2.launch k (j2.bucket k ((j2.open_ k).headD 0)) else j2
  else j1

/-- The store of a stage is full. -/
def Job.storeFull (j : Job) (k : Nat) : Bool := decide ((j.buckets.filter (fun d => d.stage == k)).length ≥ j.cap k)

/-- Held deposits enter as the store has room. -/
def State.enterHeld (fuel : Nat) (s : State) (n : Nat) : State :=
  match fuel with
  | 0 => s
  | m + 1 =>
    let j := s.job n
    match j.held.find? (fun d => !j.storeFull d.stage) with
    | none => s
    | some d =>
      let d1 := { d with at_ := s.clock.toNat }
      State.enterHeld m ((s.setJob n ({ j with held := j.held.erase d }.enter d1)).wakeHeld d.team) n

/-- RDX_DEPOSIT_ARRIVAL may take deposit n: the first under way to its stage. -/
def State.depositReady (s : State) (n : Nat) : Bool :=
  match s.deposits[n]? with
  | none => false
  | some d => (s.deposits.take n).all (fun e => e.job != d.job || e.stage != d.stage)

/-- RDX_DEPOSIT_ARRIVAL (R297). -/
def execRdxDepositArrival (n : Nat) (s : State) : Host.Outcome State Fault Refusal :=
  match s.deposits[n]? with
  | none => .next s
  | some d =>
    if !s.depositReady n then .next s
    else
      let s1 := { s with deposits := dropAt s.deposits n }
      let j := s1.job d.job
      if j.storeFull d.stage || j.held.any (fun e => e.stage == d.stage) then
        .next ((s1.setJob d.job { j with held := j.held ++ [d] }).parkSoon d.team .queue (BitVec.ofNat 64 (1024 + d.stage)))
      else .next ((s1.setJob d.job (j.enter { d with at_ := s.clock.toNat })).enterHeld 8192 d.job)

/-- The clock at which a bucket's FLUSH limit passes. -/
def Job.flushAt (j : Job) (k b : Nat) : Option Nat := (j.bucket k b).head?.map (fun d => d.at_ + j.flush k)

/-- The FLUSH limit of a bucket has passed (condition 2), and no other bucket of the stage comes before it: one whose limit passed earlier, or in the same
clock with a lower number. -/
def State.flushDue (s : State) (n k b : Nat) : Bool :=
  let j := s.job n
  match j.flushAt k b with
  | none => false
  | some c =>
    decide (s.clock.toNat ≥ c) && !(j.open_ k).any (fun a =>
      match j.flushAt k a with | some e => decide (e < c) || (e == c && decide (a < b)) | none => false)

/-- BUCKET_FLUSH (R297). -/
def execBucketFlush (n k b : Nat) (s : State) : Host.Outcome State Fault Refusal :=
  if s.flushDue n k b then
    let j := s.job n
    .next ((s.setJob n (j.launch k (j.bucket k b))).enterHeld 8192 n)
  else .next s

/-- Stage k − 1 has no live team and no held or in-flight deposit (condition 4). DEDUCED: a block of stage k − 1 that waits to be placed counts as
a live team, since the worked example of R297 comes out the same whatever the order of its blocks (log entry 113). -/
def State.stageDrained (s : State) (n k : Nat) : Bool :=
  let j := s.job n
  let grid := fld (j.word 3) 30 0 * fld (j.word 3) 47 32 * fld (j.word 3) 63 48
  j.phase == .started && decide (k ≥ 1) && decide (k ≤ j.stages.length)
    && (decide (k ≥ 2) || j.cancelled || decide (j.nextBlock ≥ grid)) && !j.ready.any (fun e => e.1 + 1 == k)
    && !s.teams.any (fun t => t.2.job == n && t.2.stage + 1 == k && t.2.st != .retired)
    && !s.deposits.any (fun d => d.job == n && d.stage == k) && !j.held.any (fun d => d.stage == k)

/-- STAGE_DRAIN (R297): every open bucket launches, in ascending bucket. -/
def execStageDrain (n k : Nat) (s : State) : Host.Outcome State Fault Refusal :=
  if s.stageDrained n k then
    let j := s.job n
    let bs := sortBy (fun a b => decide (a < b)) (j.open_ k)
    .next (s.setJob n (bs.foldl (fun j b => j.launch k (j.bucket k b)) j))
  else .next s

end Sys2Proof.Machine
end

