-- ==== Sys2Proof/Machine/Teams.lean ====
section
/-!
DEFINITION. Teams as the scheduler sees them: context images (05 R99–R103, 09 R185, R186), fetch (03 R44, R47), the register cache
(R104–R106), slots and ready lists (R107–R110), resumption, cancellation (R108, 19 R314) and retirement (R94), with their events.
-/
namespace Sys2Proof.Machine

/-! The context region (R99). -/

/-- What live blocks and teams saved in a place: 0 the context region, 1 SAVEB, 2 SAVEC (09 R193, 23 R380). -/
def State.savedIn (s : State) (f place : Nat) : List (Nat × Nat) :=
  s.blocks.filterMap (fun b =>
    match b.2.saved, b.2.savedAt with
    | some x, some a => if b.2.vf = f ∧ x.1 = place ∧ b.2.teams.any (fun i => (s.team i).st != .retired) then some (a, 4 * b.2.size) else none
    | _, _ => none)
  ++ s.teams.filterMap (fun t =>
    match t.2.saveRec with
    | some x => if t.2.vf = f ∧ x.1 = place then some (x.2.1, t.2.imageBytes) else none
    | none => none)

/-- Ranges of a function's context region in use: images not freed, side-buffer records and saved allocations. -/
def State.ctxUsed (s : State) (f : Nat) : List (Nat × Nat) :=
  (s.teams.filter (fun t => t.2.vf == f && !t.2.freed)).flatMap (fun t =>
    (t.2.ctxbase.toNat, t.2.imageBytes) :: (if t.2.sideSave = 0 then [] else [(t.2.sideSave.toNat, 576)])) ++ s.savedIn f 0

/-- The lowest free place of n bytes at a multiple of u in a region: it starts the region or follows a range in use. -/
def gapIn (base size : Nat) (used : List (Nat × Nat)) (u n : Nat) : Option Nat :=
  let cands := (base :: used.map (fun r => r.1 + r.2)).map (fun a => (a + u - 1) / u * u)
  leastBy (fun a => a) (cands.filter (fun a =>
    decide (base ≤ a) && decide (a + n ≤ base + size) && !used.any (fun r => rangesMeet r.1 r.2 a n)))

/-- That place in the context region. -/
def State.ctxAlloc (s : State) (f u n : Nat) : Option Nat := gapIn (s.regN f oCTXBASE) (s.regN f oCTXSIZE) (s.ctxUsed f) u n

/-- The free place of n bytes in the SAVEB or SAVEC region (log entry 64). -/
def State.saveGap (s : State) (f cls n : Nat) : Option Nat :=
  gapIn (s.regN f (if cls = 1 then oSAVEB else oSAVEC)) (s.regN f oSAVESZ) (s.savedIn f cls) 256 n

/-- The region that a save of n bytes goes to while the device memory space is oversubscribed (23 R380): 1 SAVEB, 2 SAVEC, with its place. -/
def State.savedOut (s : State) (f die n : Nat) : Option (Nat × Nat) :=
  let total := ((upTo 64).map (fun g => s.regN g oDASIZE)).sum
  let cls := min 2 (fld (s.reg f oSHARE) 33 32)
  if total > 576 * 2 ^ 30 ∧ s.pool die < (s.watermarks die).2.1 ∧ cls ≠ 0 ∧ s.regN f oSAVESZ ≠ 0 then
    (s.saveGap f cls n).map (fun a => (cls, a))
  else none

/-! Fetch. -/

def Team.limits (s : State) (t : Team) : Limits := { vregs := t.vregs, sregs := t.sregs, textLen := s.klen t }

/-- What fetching answers. -/
inductive Fetch where
  | ok (w0 w1 w2 : W32)
  | page (va cause : Nat)
  | perm
  | poison
  deriving DecidableEq, Repr

/-- A word of the instruction at a team's PC lies in bytes that a copy owns (04 R89). -/
def State.fetchWaits (s : State) (i : Nat) : Bool :=
  !s.copies.isEmpty && (let t := s.team i; s.vaOwned t.vf (s.ktext t + t.pc.toNat) 12)

/-- One word of the text. -/
def State.fetchWord (s : State) (f va : Nat) : State × Fetch :=
  let q := s.walk f va true false
  match q.2 with
  | .fault c => (q.1, .page va c)
  | .perm => (q.1, .perm)
  | .ok t =>
    let r := q.1.readTr t 4
    (q.1, if r.2 then .poison else .ok (BitVec.ofNat 32 (leNat r.1)) 0 0)

/-- The words of the instruction at a team's PC, as many as its LEN asks for. -/
def State.fetch (s : State) (i : Nat) : State × Fetch :=
  let t := s.team i
  let a := s.ktext t + t.pc.toNat
  let x := s.fetchWord t.vf a
  match x.2 with
  | .ok w0 _ _ =>
    let len := w0.toNat % 4
    if len = 0 ∨ len = 3 then x
    else
      let y := x.1.fetchWord t.vf (a + 4)
      (match y.2 with
       | .ok w1 _ _ =>
         if len = 1 then (y.1, .ok w0 w1 0)
         else
           let z := y.1.fetchWord t.vf (a + 8)
           (z.1, match z.2 with | .ok w2 _ _ => .ok w0 w1 w2 | e => e)
       | e => (y.1, e))
  | e => (x.1, e)

/-- LEN of the instruction at a team's PC, as far as word 0 can be read (log entry 36). -/
def State.lenAt (s : State) (i : Nat) : Nat :=
  match (s.fetchWord (s.team i).vf (s.ktext (s.team i) + (s.team i).pc.toNat)).2 with
  | .ok w0 _ _ => if w0.toNat % 4 = 3 then 0 else w0.toNat % 4
  | _ => (Config.unfetchedLen s.fresh).toNat

/-- An instruction as issued, where it is one of a team. -/
def insOf (i : Instr) : Option Ins :=
  match rawOf i with
  | some (.w op f) => some (insW op f)
  | some (.s op f) => some (insS op f)
  | none => none

/-- The team's next instruction, as its text stands. -/
def State.nextIns (s : State) (i : Nat) : Option Ins :=
  match (s.fetch i).2 with
  | .ok w0 w1 w2 =>
    (match decodeWords ((s.team i).limits s) w0 w1 w2 with
     | .ok x => insOf x
     | .bad _ => none)
  | _ => none

/-- Vector registers an instruction names. -/
def Ins.vectors (i : Ins) (t : Team) : List Nat :=
  let shuffled := if i.op = 0x0C0 ∨ i.op = 0x0C1 then i.fieldRefs i.desc.a i.f.a i.f.wa i.f.ka 0 else []
  let refs := (shuffled ++ i.srcRefs t 0).map (fun r => r.1) ++ i.dstRefs 0
  refs.foldl (fun ns r => match r with | .v n _ => if ns.contains n then ns else ns ++ [n] | _ => ns) []

/-- The lines of an instruction's register window: registers by mask words (R110). -/
def Ins.window (i : Ins) (t : Team) : List (Nat × Nat) := (upTo t.words).flatMap (fun w => (i.vectors t).map (fun n => (n, w)))

/-- The lowest page among addresses that does not translate (R109), with its CAUSE. Permissions of context pages are not asked (log entry
18). -/
def State.absentPage (s : State) (f : Nat) (vas : List Nat) : State × Option (Nat × Nat) :=
  vas.foldl (fun (a : State × Option (Nat × Nat)) va =>
    let q := a.1.walk f va false false
    let e : Option (Nat × Nat) := match q.2 with
      | .ok _ => none
      | .fault c => some (va, c)
      | .perm => some (va, 1)
    (q.1, match a.2, e with
      | some x, some y => some (if y.1 < x.1 then y else x)
      | some x, none => some x
      | none, y => y)) (s, none)

/-- Addresses whose pages a team needs to run an instruction. -/
def Team.windowVas (t : Team) (i : Option Ins) : List Nat :=
  match i with
  | none => []
  | some x => (x.window t).flatMap (fun e => [t.lineAddr e.1 e.2, t.fullAddr e.1 e.2])

/-- A page of the image is not resident: the team parks, or cannot run where no record can be written (21 R341). -/
def State.parkContext (s : State) (i va cause : Nat) : State :=
  let t := s.team i
  if s.fsqOn t.vf then
    let s1 := s.parkNoted i .page (BitVec.ofNat 64 va)
    s1.addFault { faultRec t.vf 3 cause false 0 0 t.ctxbase 0 va (.team i) with lanes := [0] }
  else s.fatal i cXFAULT t.pc

/-! Issue (R111, R112). -/

/-- A halted sibling has issued all it may (09 R187). -/
def Team.skidOver (t : Team) : Bool := match t.skid with | some k => k.left == 0 | none => false

/-- Team i may be picked: ACTIVE in its slot, no verdict or retry awaited, and something to do at its boundary. -/
def State.mayIssue (s : State) (i : Nat) : Bool :=
  let t := s.team i
  t.inSlot && t.st == .active && !t.verdict && t.rest.isNone && t.retryAt.isNone && (t.mask != 0 || t.pend.isSome || t.cancelPend || t.parkNext.isSome || (s.block t.block).debug)

/-- An access of the sets of R61, which a read of the Campanile comes before (19 R321). -/
def Ins.accesses (i : Ins) : Bool :=
  (decide (0x100 ≤ i.op) && decide (i.op ≤ 0x109) && i.op != 0x107 && i.op != 0x108) || (decide (0x140 ≤ i.op) && decide (i.op ≤ 0x14A))
    || i.op == 0x160 || (decide (0x162 ≤ i.op) && decide (i.op ≤ 0x164)) || i.op == 0x180 || (decide (0x185 ≤ i.op) && decide (i.op ≤ 0x188))
    || i.op == 0x1C4 || i.op == 0x1C5

/-- A read of the Campanile by team i is not performed yet (19 R321). -/
def State.polls (s : State) (i : Nat) : Bool := s.posts.any (fun p => p.team == i && p.kind != 0)

/-- Its unit does not accept team i's instruction yet, whose registers are there (R111): MMA, MFLUSH and EXIT wait for the team's MMA, MMA for room
in the array too, SWR of RPROG while the MMA runs (15 R263, R265); FENCE, BAR, SLEEP and SGPOST, and EXIT of the last lane, for the
team's accesses (04 R86, 08 R174, 19 R318). -/
def State.unitWaits (s : State) (i : Nat) (x : Ins) : Bool :=
  let t := s.team i
  let ls := match prep x t with | .go ls => ls | _ => []
  if x.op == 0x160 then t.mma.isSome || (!ls.isEmpty && decide ((s.arrayOf t.partKey).length ≥ 2))
  else if ls.isEmpty then false
  else if x.op == 0x161 then t.mma.isSome
  else if x.op == 0x022 then x.f.d == 16 && (match t.mma with | some m => !m.stopped | none => false)
  else if x.op == 0x1A8 then t.mma.isSome || ((t.removeLanes (if x.f.uni then t.lanes else ls)).mask == 0 && s.busy i)
  else if x.op == 0x107 then s.fenceWaits i x.f
  else if x.op == 0x1A9 then s.busy i
  else if x.op == 0x1AA then (x.f.lit.isSome || t.sr x.f.a.toNat != 0) && x.f.lit != some 0 && s.busy i
  else x.op == 0x1C0 && t.grouped && s.pending i 31 true

/-- Its next instruction waits for a register, for its unit, or for a read of the Campanile. PREF waits for none of its registers (08 R175). -/
def State.waits (s : State) (i : Nat) : Bool :=
  let t := s.team i
  if t.cancelPend || t.pend.isSome || t.parkNext.isSome || t.skidOver || (s.block t.block).debug then false
  else s.fetchWaits i || match s.nextIns i with
    | some x => (prep x t == .stall && x.op != 0x108) || s.unitWaits i x || (x.accesses && s.polls i)
    | none => false

/-- Fault and report records whose writing an obstacle held up are tried again (21 R338, 19 R308). -/
def State.drainAll (s : State) : State :=
  let s1 := if s.faults.all (fun r => r.written) then s else (upTo 64).foldl (fun s f => s.drainFaults 1024 f) s
  if s1.reports.isEmpty then s1 else (upTo 64).foldl (fun s f => s.drainReports 1024 f) s1

/-- A clock passes. The age of an instruction is the clock at which it became ready (R111), so one that waits has none yet. -/
def State.passClock (s : State) : State :=
  let s1 := s.tick.drainAll
  { s1 with teams := s1.teams.map (fun e =>
      if e.2.inSlot && e.2.st == .active && s1.waits e.1 then (e.1, { e.2 with age := s1.clock.toNat }) else e) }

/-- Late replies of team i outstanding, in whatever unit they are. DESIGN CHOICE: one for each lane of AMO, ACAS and QPOP, whose results come back by
themselves, and one for any other instruction's lines or batch: R109 does not say what counts as one (log entry 118; unsafe for the argument). -/
def State.awaited (s : State) (i : Nat) : Nat :=
  s.outstanding i + (s.batches.filter (fun b => b.team == i)).length + (s.verdicts.filter (fun v => v.batch.team == i)).length
    + (s.qreqs.filter (fun r => r.team == i && r.kind != 0)).length + (s.copies.filter (fun c => c.team == i && c.qmc)).length
    + (s.atoms.filter (fun a => a.team == i && a.opc != 0x105)).length + (s.posts.filter (fun p => p.team == i)).length + (s.appends.filter (fun a => a.team == i)).length
    + ((s.block (s.team i).block).cred.filter (fun d => d.team == i)).length
    + (s.held.filter (fun h => match h.writer, h.amo with | .team j _ _, some a => j == i && a.opc != 0x105 && a.opc != 0x1C4 | _, _ => false)).length

/-! The register cache (R104–R106, 09 R189). A line present in it holds its register; of a line that is absent the image does. -/

def lineNo (t : Team) (n w : Nat) : Nat := n * t.words + w
def State.rlines (s : State) (k : Nat) : List (Nat × Nat × Bool) := SMap.get s.rcache k []
def State.setRlines (s : State) (k : Nat) (l : List (Nat × Nat × Bool)) : State := { s with rcache := SMap.put s.rcache k l [] }

/-- The 32 keys of a line. -/
def lineKeys (n w : Nat) : List Nat := (upTo 32).map (fun i => vkey n (32 * w + i))

/-- A line is present in the cache of its team's partition. -/
def State.lineThere (s : State) (i n w : Nat) : Bool :=
  let t := s.team i
  (s.rlines t.partKey).any (fun e => e.1 == i && e.2.1 == lineNo t n w)

/-- Context lines at VA [va, va + n) pass through the L1 of a core under their virtual tags (01 R9), with the requests that its die's L2 makes for
them (01 R17): the lines of the image move at once (log entry 14). -/
def State.ctxLines (s : State) (core f va n : Nat) (wr : Bool) : State :=
  let s1 := (cutRange 9 512 va n).foldl (fun s e => s.ctxTag core f (e.1 / 512)) s
  (cutRange 2 65536 va n).foldl (fun s e =>
    let q := s.walk f e.1 false false
    match q.2 with
    | .ok t => q.1.touchEngine (dieOf core) t e.2 wr
    | _ => q.1) s1

/-- A line is written to the image; where its page does not translate it stays in the write-back buffer. -/
def State.writeLine (s0 : State) (i n w : Nat) : State :=
  let t := s0.team i
  let s := s0.ctxLines t.core t.vf (t.lineAddr n w) 128 true
  let a := s.ctxPut i (4096 + 128 * lineNo t n w) (t.line n w)
  let b := a.1.ctxPut i (t.fullAt + 4 * lineNo t n w) (natLe 4 (t.fullWord n w))
  let rest := t.unsaved.filter (· != lineNo t n w)
  b.1.setTeam i { b.1.team i with unsaved := if a.2 && b.2 then rest else rest ++ [lineNo t n w] }

/-- A line leaves the cache: a dirty one is written back, a clean one takes its errors with it. -/
def State.leaveLine (s : State) (e : Nat × Nat × Bool) : State :=
  let t := s.team e.1
  let n := e.2.1 / t.words
  let w := e.2.1 % t.words
  if e.2.2 then s.writeLine e.1 n w
  else if t.vBad.isEmpty then s
  else s.setTeam e.1 { t with vBad := (lineKeys n w).foldl SMap.drop t.vBad }

/-- A line leaves for room: the least recently used clean one that is not locked, else the least recently used that is not. -/
def State.rvictim (s : State) (k : Nat) (locked : Nat × Nat × Bool → Bool) : State :=
  let l := s.rlines k
  let free := fun (e : Nat × Nat × Bool) => !locked e
  let j := (firstIdx (fun (e : Nat × Nat × Bool) => free e && !e.2.2) l).getD ((firstIdx free l).getD 0)
  match l[j]? with
  | some e => (s.leaveLine e).setRlines k (dropAt l j)
  | none => s

/-- A team's lines leave the cache without being written back: its image is dead. -/
def State.dropLines (s : State) (i : Nat) : State :=
  let k := (s.team i).partKey
  s.setRlines k ((s.rlines k).filter (fun e => e.1 != i))

/-- A team's lines leave the cache, the dirty ones written back with those that its write-back buffer still holds, and its control page is
written (R107). -/
def State.saveLines (s : State) (i : Nat) : State :=
  let mine := (s.rlines (s.team i).partKey).filter (fun e => e.1 == i)
  let kept := (s.team i).unsaved.filter (fun no => !mine.any (fun e => e.2.1 == no))
  (((mine ++ kept.map (fun no => (i, no, true))).foldl State.leaveLine s).dropLines i).writeControl i

/-- The control page and dirty lines of a team that is preempted while the device memory space is oversubscribed go to its save region, in the places that
they have in an image (09 R193, 23 R380; log entry 64). -/
def State.saveAway (s : State) (i : Nat) (x : Nat × Nat) : State :=
  let t := s.team i
  let mine := (s.rlines t.partKey).filter (fun e => e.1 == i)
  let dirty := t.unsaved ++ ((mine.filter (fun e => e.2.2 && !t.unsaved.contains e.2.1)).map (fun e => e.2.1))
  let s1 := s.setTeam i { t with saveRec := some (x.1, x.2, dirty), unsaved := [], unsavedCtl := false }
  ((mine.filter (fun e => !dirty.contains e.2.1) ++ dirty.map (fun no => (i, no, true))).foldl State.leaveLine s1).dropLines i |>.writeControl i

/-- What a preemption saved away is read back: the lines go to the image, or stay in the write-back buffer where they cannot. The control page has been
read. -/
def State.restoreAway (s : State) (i : Nat) : State :=
  let t := s.team i
  match t.saveRec with
  | none => s
  | some x =>
    x.2.2.foldl (fun s no =>
      let u := s.team i
      s.writeLine i (no / u.words) (no % u.words)) (s.setTeam i { t with saveRec := none })

/-- The team with a line as its image holds it. -/
def Team.loadLine (t : Team) (n w : Nat) (bs : List Byte) (full : Nat) : Team :=
  if t.line n w == bs && t.fullWord n w == full then t
  else (upTo 32).foldl (fun (t : Team) i =>
    let k := vkey n (32 * w + i)
    { t with v := SMap.put t.v k (BitVec.ofNat 32 (leNat ((bs.drop (4 * i)).take 4))) 0, vE := SMap.put t.vE k (nbit full i) false }) t

/-- A line is fetched from the image, unless the write-back buffer holds it. A POISON block marks it uncorrectable in every lane, but where
the pass writes the whole line (`whole`), which is then allocated without the fetch (R104). -/
def State.fetchLine (s : State) (i n w : Nat) (whole : Bool) : State :=
  let t := s.team i
  if t.unsaved.contains (lineNo t n w) then s
  else
    let a := (s.ctxLines t.core t.vf (t.lineAddr n w) 128 false).vread t.vf (t.lineAddr n w) 128
    let b := a.1.vread t.vf (t.fullAddr n w) 4
    match a.2, b.2 with
    | .ok bs p, .ok fs q =>
      let u := (b.1.team i).loadLine n w bs (leNat fs)
      let bad := (p || q) && !whole
      b.1.setTeam i { u with vBad := (lineKeys n w).foldl (fun m k => SMap.put m k bad false) u.vBad }
    | _, _ => b.1

/-- A line is present, dirty where it is written, and most recently used; on a miss another makes room and `fetch` brings it. The lines of its pass, of
the same word, are locked (R104). -/
def State.placeLine (s : State) (i n w : Nat) (wr : Bool) (ns : List Nat) (fetch : State → State) : State :=
  let t := s.team i
  let k := t.partKey
  let no := lineNo t n w
  let l := s.rlines k
  match l.find? (fun e => e.1 == i && e.2.1 == no) with
  | some e => s.setRlines k (l.filter (fun x => !(x.1 == i && x.2.1 == no)) ++ [(i, no, e.2.2 || wr)])
  | none =>
    let s1 := if l.length ≥ Config.rcacheLines then s.rvictim k (fun e => e.1 == i && ns.any (fun m => e.2.1 == lineNo t m w)) else s
    let s2 := fetch s1
    s2.setRlines k (s2.rlines k ++ [(i, no, wr || t.unsaved.contains no)])

/-- REGISTER_MISS_FILL's effect: a line is there, fetched on a miss; the lines of registers `ns` of its word are locked. -/
def State.fillLine (s : State) (i n w : Nat) (ns : List Nat) (whole : Bool) : State := s.placeLine i n w false ns (fun s => s.fetchLine i n w whole)

/-- REGISTER_MISS_FILL (R104): a missing line arrives. -/
def execRegisterMissFill (i n w : Nat) (s : State) : Host.Outcome State Fault Refusal :=
  let t := s.team i
  if t.inSlot && decide (n < t.vregs) && decide (w < t.words) then .next (s.fillLine i n w [n] false) else .next s

/-- The instruction writes the line in every lane of its word, and reads it in none. -/
def Ins.fills (x : Ins) (t : Team) (n w : Nat) : Bool :=
  match x.passLanes t with
  | none => false
  | some ls =>
    (upTo 32).all (fun i => ls.contains (32 * w + i)) && (x.dstRefs 0).contains (.v n 0)
      && !(x.srcRefs t 0).any (fun r => match r.1 with | .v m _ => m == n | _ => false)

/-- Marks of the lines of a pass. -/
def Team.passMarks (t : Team) (ns : List Nat) (w : Nat) : List Nat :=
  if t.vBad.isEmpty then [] else (ns.flatMap (fun n => lineKeys n w)).filter (fun k => SMap.get t.vBad k false)

/-- The lines of an instruction's passes are present before each executes, word by word: what an earlier pass found uncorrectable stays so for the
instruction though its line has left for a later pass (R104, 09 R189). -/
def State.fillWindow (s : State) (i : Nat) (x : Ins) : State :=
  let ns := x.vectors (s.team i)
  let r := (upTo (s.team i).words).foldl (fun (a : State × List Nat) w =>
    let s1 := ns.foldl (fun s n => s.fillLine i n w ns (x.fills (s.team i) n w)) a.1
    (s1, a.2 ++ (s1.team i).passMarks ns w)) (s, [])
  if r.2.isEmpty then r.1
  else
    let t := r.1.team i
    r.1.setTeam i { t with vBad := r.2.foldl (fun m k => SMap.put m k true false) t.vBad }

/-- The lines an instruction wrote are dirty: its passes come word by word, so each is there again when it is written (R104). -/
def State.dirtied (s : State) (i : Nat) (x : Instr) (t0 : Team) : State :=
  let t := s.team i
  if !t.inSlot || (t.icount == t0.icount && !t.verdict) then s
  else
    match insOf x with
    | none => s
    | some y =>
      let ws := (upTo t.words).filter (fun w => t0.lanes.any (fun l => l / 32 == w))
      let ns := (y.dstRefs 0).filterMap (fun r => match r with | .v n _ => some n | _ => none)
      (ws.flatMap (fun w => ns.map (fun n => (n, w)))).foldl (fun s e => s.placeLine i e.1 e.2 true ns id) s

/-- Lanes of an absent line are written to the image, value and full/empty bit (R106). -/
def State.writeLanes (s : State) (i n w : Nat) (ls : List Nat) : State :=
  let t := s.team i
  let a := ls.foldl (fun (a : State × Bool) l =>
    let q := a.1.ctxPut i (4096 + 128 * lineNo t n w + 4 * (l % 32)) (natLe 4 (t.vr n l))
    (q.1, a.2 && q.2)) (s, true)
  let old := match t.savedThere (4096 + 128 * lineNo t n w), (a.1.vread t.vf (t.fullAddr n w) 4).2 with
    | none, .ok bs _ => leNat bs
    | _, _ => t.fullWord n w
  let full := bitsOf 32 (fun k => if ls.contains (32 * w + k) then t.empty (.v n (32 * w + k)) else nbit old k)
  let b := a.1.ctxPut i (t.fullAt + 4 * lineNo t n w) (natLe 4 full)
  if a.2 && b.2 then b.1 else b.1.setTeam i { b.1.team i with unsaved := lineNo t n w :: t.unsaved.filter (· != lineNo t n w) }

/-- Registers of team i changed otherwise than by its own instruction, the team standing as `t0` before: a line that is present is dirty, an
absent one's lanes go to the image, and so do the words of the control page of a team without a slot (R106). -/
def State.landed (s : State) (i : Nat) (t0 : Team) (rs : List Ref) : State :=
  let t := s.team i
  if t.freed then s
  else
    let lines := rs.foldl (fun (ls : List (Nat × Nat)) r =>
      match r with
      | .v n l => if ls.contains (n, l / 32) then ls else ls ++ [(n, l / 32)]
      | _ => ls) []
    let s1 := lines.foldl (fun s e =>
      if s.lineThere i e.1 e.2 then
        s.setRlines t.partKey ((s.rlines t.partKey).map (fun x => if x.1 == i && x.2.1 == lineNo t e.1 e.2 then (x.1, x.2.1, true) else x))
      else if t.unsaved.contains (lineNo t e.1 e.2) then s
      else s.writeLanes i e.1 e.2 (rs.filterMap (fun r => match r with | .v n l => if n = e.1 ∧ l / 32 = e.2 then some l else none | _ => none))) s
    s1.noteTeam i t0

def Dst.ref (d : Dst) : Ref := match d with | .v r l _ => .v r l | .s r _ => .s r | .p n l _ => .p n l | .q n _ => .q n

/-- Words with an uncorrectable error that a reply overwrote unread are logged (09 R189). -/
def State.logLost (s : State) (i : Nat) (t0 : Team) (rs : List Ref) : State :=
  if t0.vBad.isEmpty then s
  else (rs.filter t0.bad).foldl (fun s r =>
    match r with
    | .v n l => s.logErr 1 (dieOf t0.core) t0.vf (some t0.ctxbase) (some t0.pc) [BitVec.ofNat 64 n, BitVec.ofNat 64 l]
    | _ => s) s

/-- A cancelled team's argument is the count of the late replies it still awaits (R109). -/
def State.recount (s : State) (i : Nat) : State :=
  let t := s.team i
  if t.st = .parked ∧ t.cause = .cancelledPending then
    (s.setTeam i { t with arg := BitVec.ofNat 64 (s.awaited i) }).noteTeam i t
  else s

/-- Registers among the given ones that changed between two states of a team. -/
def Team.changed (t0 t1 : Team) (rs : List Ref) : List Ref :=
  rs.filter (fun r => t0.empty r != t1.empty r || (match r with | .v n l => t0.vr n l != t1.vr n l | _ => false))

/-- MMA_ARRAY_EXECUTION (15 R262): the array's first MMA performs its next k-step; what it writes to the tile lands as a late reply does (R106, 14
R257). -/
def execMmaArrayExecution (core part : Nat) (s : State) : Host.Outcome State Fault Refusal :=
  match s.arrayOf (32 * core + part) with
  | [] => .next s
  | i :: _ =>
    if s.mmaWaits i then .next s
    else
      let t0 := s.team i
      let s1 := s.as (core + 1) (fun s => s.mmaWord i)
      let tile := match t0.mma with | some m => (upTo 32).flatMap (fun c => m.lanes.map (fun l => Ref.v (m.f.d.toNat + c) l)) | none => []
      .next (s1.landed i t0 (t0.changed (s1.team i) tile))

/-- Other results of a reply's instruction are still to come: it completes with the last (20 R326). -/
def State.unlanded (s : State) (r : Reply) : Bool :=
  r.ins != 0 && (s.replies.any (fun x => x.ins == r.ins) || s.qreqs.any (fun x => x.kind != 0 && x.ins == r.ins)
    || s.atoms.any (fun a => a.ins == r.ins && (a.done.isNone || (a.opc != 0x105 && a.opc != 0x1C4)))
    || (match (s.team r.team).rest with | some x => x.ins == r.ins | none => false))

/-- LATE_REPLY (R106): results land with their full bits; a trap recorded with them waits for the next boundary (08 R178). -/
def execLateReply (n : Nat) (s : State) : Host.Outcome State Fault Refusal :=
  match s.replies[n]? with
  | none => .next s
  | some r =>
    if s.clock.toNat < r.due then .next s
    else
    let s1 := { s with replies := dropAt s.replies n }
    let t0 := s1.team r.team
    let rs := r.dsts.map Dst.ref
    let s2 := ((s1.setTeam r.team ((r.dsts.foldl Team.land t0).addPend r.trap)).landed r.team t0 rs).logLost r.team t0 rs
    let s3 := s2.recount r.team
    .next (if r.completes && !s3.unlanded r then s3.account r.team 1 0 r.bytes else s3)

/-! Slots. -/

/-- Teams in the slots of a core, and in one partition of it. -/
def State.inCore (s : State) (core : Nat) : List (Nat × Team) := s.teams.filter (fun t => t.2.inSlot && t.2.core == core)
def State.inPart (s : State) (core part : Nat) : List (Nat × Team) := (s.inCore core).filter (fun t => t.2.part == part)

/-- The lowest free slot of a partition. -/
def State.freeSlot (s : State) (core part : Nat) : Option Nat :=
  (upTo Config.slots).find? (fun n => !(s.inPart core part).any (fun t => t.2.slot == n))
/-- The lowest-numbered partition with a free slot, and the slot. -/
def State.freePlace (s : State) (core : Nat) : Option (Nat × Nat) :=
  ((upTo Config.partitions).filterMap (fun p => (s.freeSlot core p).map (fun n => (p, n)))).head?

def State.clusterAt (s : State) (c : Nat) : Cluster := SMap.get s.clusters c Cluster.blank
def State.setCluster (s : State) (c : Nat) (x : Cluster) : State := { s with clusters := SMap.put s.clusters c x Cluster.blank }

/-- A front end may place and activate on a cluster: no other holds the turn there (23 R378). -/
def State.hasTurn (s : State) (f c : Nat) : Bool := (s.clusterAt c).holder == none || (s.clusterAt c).holder == some f

/-- A ready list's order: PRIO, then the clock of becoming READY, then image address (R110). -/
def readyBefore (a b : Nat × Team) : Bool :=
  if a.2.prio ≠ b.2.prio then decide (a.2.prio < b.2.prio)
  else if a.2.readyAt ≠ b.2.readyAt then decide (a.2.readyAt < b.2.readyAt)
  else decide (a.2.ctxbase.toNat < b.2.ctxbase.toNat)

/-- The ready list of a core: teams whose front end may run there. None while the die's reserve is low (21 R348). -/
def State.readyList (s : State) (core : Nat) : List (Nat × Team) :=
  if SMap.get s.rsvLow (dieOf core) false then []
  else sortBy readyBefore (s.teams.filter (fun t =>
    t.2.st == .ready && !t.2.inSlot && t.2.core == core && s.hasTurn t.2.vf (core / 4) && (s.block t.2.block).saved.isNone))

/-- A team in handler mode leaves its slot: its side-buffer entry goes to a save record in the context region (09 R186), or stays with the team while
none can be written (log entry 58). -/
def State.saveSide (s : State) (i : Nat) : State :=
  let t := s.team i
  if !t.hmode || t.sideSave != 0 then s
  else
    match s.ctxAlloc t.vf 64 576 with
    | none => s
    | some a =>
      let r := s.imagePut t.vf a ((upTo 72).flatMap (fun n => natLe 8 (SMap.get t.side n (0 : W64)).toNat))
      if r.2 then r.1.setTeam i { r.1.team i with sideSave := BitVec.ofNat 64 a } else r.1

/-- A team leaves its slot with its dirty lines and its control page written (R107, R192): ACTIVE becomes READY, PARKED stays so. It stays where a
write cannot be performed. A preemption (`out`) may save away from the image (09 R193). -/
def State.evictTeam (s : State) (i : Nat) (out : Bool) : State :=
  let s1 := (((s.recordWaste i).stopMma i).saveSide i)
  let t := s1.team i
  let s2 := s1.setTeam i { t with inSlot := false, st := if t.st = .active then .ready else t.st, readyAt := s.clock.toNat }
  let s3 := match (if out then s1.savedOut t.vf (t.core / 24) t.imageBytes else none) with
    | some x => s2.saveAway i x
    | none => s2.saveLines i
  let u := s3.team i
  if u.unsaved.isEmpty && !u.unsavedCtl then s3 else s

/-- Teams of front ends whose turn is another's leave first: parked ones longest parked first, then ACTIVE ones, least urgent and
most recently activated first (09 R194). -/
def evictBefore (a b : Nat × Team) : Bool :=
  let pa := a.2.st == .parked
  let pb := b.2.st == .parked
  if pa ≠ pb then pa
  else if pa then decide (a.2.parkedAt < b.2.parkedAt)
  else if a.2.prio ≠ b.2.prio then decide (a.2.prio > b.2.prio)
  else decide (a.2.activeAt > b.2.activeAt)

/-- An outgoing team stands at an instruction boundary with no trap or cancellation to take there first (09 R192, R196). -/
def State.outgoing (s : State) (core vf : Nat) (t : Team) : Bool :=
  t.vf != vf && !s.hasTurn t.vf (core / 4) && !t.verdict && t.rest.isNone && t.pend.isNone && !t.cancelPend

/-- PARTIAL_EVICTION (R194): outgoing teams of a partition are evicted until a slot and `need` register lines are free. -/
def State.partialEvict (fuel : Nat) (s : State) (core part vf need : Nat) : State :=
  match fuel with
  | 0 => s
  | m + 1 =>
    if (s.freeSlot core part).isSome && decide ((s.rlines (32 * core + part)).length + need ≤ Config.rcacheLines) then s
    else
      match (sortBy evictBefore ((s.inPart core part).filter (fun t => s.outgoing core vf t.2))).head? with
      | none => s
      | some o =>
        let s1 := s.evictTeam o.1 true
        if (s1.team o.1).inSlot then s else State.partialEvict m s1 core part vf need

/-- The place for an incoming team: a free slot, else one that an outgoing team gives up. -/
def State.placeFor (s : State) (core vf : Nat) : Option Nat :=
  match s.freePlace core with
  | some e => some e.1
  | none => (upTo Config.partitions).find? (fun p => (s.inPart core p).any (fun t => s.outgoing core vf t.2))

/-- Activation reads the control page into the slot's state store, unless the write-back buffer holds it (R102, R110), and a handler's
side-buffer entry from its save record (09 R186). -/
def State.readControl (s : State) (i : Nat) : State :=
  let t := s.team i
  let a := if t.unsavedCtl then (s, .ok t.controlPage false)
    else match t.saveRec with
      | some x => (s, .ok (readMem s.sysmem x.2.1 4096) false)
      | none => (s.ctxLines t.core t.vf t.ctxbase.toNat 4096 false).vread t.vf t.ctxbase.toNat 4096
  let t1 := match a.2 with | .ok bs _ => if bs.length = 4096 ∧ !t.unsavedCtl then t.loadControl bs else t | _ => t
  let b := if t.sideSave = 0 then (a.1, .perm) else a.1.vread t.vf t.sideSave.toNat 576
  let t2 : Team := match b.2 with
    | .ok bs _ => { t1 with side := (upTo 72).filterMap (fun n =>
        let x := BitVec.ofNat 64 (leNat ((bs.drop (8 * n)).take 8)); if x = 0 then none else some (n, x)) }
    | _ => t1
  (b.1.setTeam i { t2 with unsavedCtl := false }).restoreAway i

/-- At activation the instruction at MPC is decoded again, and the array reads its registers again; where no MMA stands there the array goes on
with the one it had (15 R264; log entry 51). -/
def State.redecodeMma (s : State) (i : Nat) : State :=
  let t := s.team i
  match t.mma with
  | none => s
  | some m =>
    let pc := BitVec.ofNat 64 (fld t.rprog 31 0)
    match (s.setTeam i { t with pc := pc }).nextIns i with
    | some x =>
      if !m.stopped || x.op != 0x160 then s
      else s.setTeam i { t with mma := some { m with f := x.f, pc := pc, keys := m.lanes.map (fun l => (l, x.rowKey t l)),
                                                     fmt := (upTo 4).map (fun j => BitVec.ofNat 64 (t.sr (x.f.b.toNat + j))) } }
    | none => s

/-- TEAM_ACTIVATION is due. -/
def State.activationReady (s : State) (core : Nat) : Bool :=
  match s.readyList core with
  | [] => false
  | h :: _ => (s.placeFor core h.2.vf).isSome

/-- TEAM_ACTIVATION (R108, R110): the head of the ready list takes a slot, or parks for a page of its image. -/
def execTeamActivation (core : Nat) (s : State) : Host.Outcome State Fault Refusal :=
  match s.readyList core with
  | [] => .next s
  | (i, t) :: _ =>
    match s.placeFor core t.vf with
    | none => .next s
    | some p =>
      let x := s.nextIns i
      let q := s.absentPage t.vf (t.ctxbase.toNat :: t.windowVas x)
      match q.2 with
      | some e => .next (q.1.parkContext i e.1 e.2)
      | none =>
        let need := match x with | some y => (y.window t).length | none => 0
        let s1 := q.1.partialEvict 16 core p t.vf need
        (match s1.freeSlot core p with
         | none => .next s1
         | some n =>
           let c := s1.clusterAt (core / 4)
           let s2 := if c.holder = none then s1.setCluster (core / 4) { c with holder := some t.vf, since := s.time } else s1
           let u := s2.readControl i
           let s3 := u.setTeam i { u.team i with st := .active, inSlot := true, part := p, slot := n, activeAt := s.clock.toNat, age := s.clock.toNat }
           .next (((s3.redecodeMma i).requeueMma i).syncLt core))

/-- The team of a core that has been PARKED longest in a slot. -/
def State.longestParked (s : State) (core : Nat) : Option (Nat × Team) :=
  leastBy (fun t => t.2.parkedAt * 512 + 16 * t.2.part + t.2.slot) ((s.inCore core).filter (fun t => t.2.st == .parked))

/-- TEAM_EVICTION is due. -/
def State.evictionReady (s : State) (core part : Nat) : Bool :=
  (s.freePlace core).isNone && !(s.readyList core).isEmpty &&
    (match s.longestParked core with | some t => t.2.part == part | none => false)

/-- TEAM_EVICTION (R110). -/
def execTeamEviction (core part : Nat) (s : State) : Host.Outcome State Fault Refusal :=
  if s.evictionReady core part then
    match s.longestParked core with
    | some t => .next (s.evictTeam t.1 false)
    | none => .next s
  else .next s

/-- The list that an idle core takes a team from: the first whose head has been READY for 4,096 clocks. -/
def State.stealFrom (s : State) (core : Nat) : Option Nat :=
  if (s.readyList core).isEmpty && (s.freePlace core).isSome then
    ((upTo 4).map (fun k => 4 * (core / 4) + k)).findSome? (fun c =>
      if c = core then none
      else match s.readyList c with
        | h :: _ => if s.clock.toNat ≥ h.2.readyAt + 4096 then some h.1 else none
        | [] => none)
  else none

/-- READY_LIST_STEAL (R110). -/
def execReadyListSteal (core : Nat) (s : State) : Host.Outcome State Fault Refusal :=
  match s.stealFrom core with
  | some i =>
    let t := s.team i
    -- what the team wrote to non-coherent pages stays before its eyes (04 R81)
    let s1 := (((s.flushNc t.core t.vf).flushNc core t.vf).dropNc core t.vf)
    .next (s1.setTeam i { s1.team i with core := core })
  | none => .next s

/-! Picks (R111, R112). -/

/-- Its instruction is ready (R111). -/
def State.readyToIssue (s : State) (i : Nat) : Bool := s.mayIssue i && !s.waits i

/-- The starved team of a partition, lower slot first. -/
def State.starved (s : State) (core part : Nat) : Option Nat :=
  (leastBy (fun t => t.2.slot) ((s.inPart core part).filter (fun t =>
    decide (s.clock.toNat ≥ t.2.age + 64) && s.readyToIssue t.1))).map (fun t => t.1)

/-- STARVATION_PICK (R111): the team issues next. -/
def execStarvationPick (core part : Nat) (s : State) : Host.Outcome State Fault Refusal :=
  match s.starved core part with
  | some i => .next { s with cur := i, picked := true }
  | none => .next s

/-- The 8 clocks of a rejected access are over: it is tried again. -/
def State.retried (s : State) (i : Nat) : State :=
  let t := s.team i
  match t.retryAt with
  | some c => if s.clock.toNat ≥ c then s.setTeam i { t with retryAt := none, age := s.clock.toNat } else s
  | none => s

/-- What is left of an instruction of team i goes on. -/
def State.goOn (s : State) (i : Nat) : State :=
  match (s.team i).rest with
  | some r => s.runRest i r
  | none => s

/-- REQUEST_RETRY (R112): a rejected access is tried again; what waits for its grains goes on where they have come (22 R359). -/
def execRequestRetry (i : Nat) (s : State) : Host.Outcome State Fault Refusal := .next ((s.retried i).goOn i)

/-! Resumption (R108, R109). -/

/-- SLEEP_WAKE (07 R159): as many clocks have passed as the count asked, modulo 2^64. -/
def State.sleepOver (s : State) (i : Nat) : Bool :=
  let t := s.team i
  t.st == .parked && t.cause == .sleep
    && decide ((t.arg - BitVec.ofNat 64 t.parkedAt).toNat ≤ (s.clock - BitVec.ofNat 64 t.parkedAt).toNat)
def execSleepWake (i : Nat) (s : State) : Host.Outcome State Fault Refusal :=
  .next (if s.sleepOver i then s.unpark i else s)

/-- A counter satisfies a target (19 R307, R323). -/
def reached (counter target : W64) : Bool := decide ((counter - target).toNat < 2 ^ 63)

/-- The cause of a parked team is resolved: page records gone, counter reached, QUSED fallen (21 R342), storage free. -/
def State.resolved (s : State) (i : Nat) : Bool :=
  let t := s.team i
  t.st == .parked &&
    (match t.cause with
     | .page => !s.faults.any (fun r => r.waiter == .team i) && !s.ownHolds i
     | .event => reached (s.vword t.vf t.arg.toNat) t.evTarget
     | .quota => !t.arg.getLsbD 63 && SMap.get s.falls t.vf 0 != t.quotaUsed
     | .space => !s.ownHolds i && !s.poolLow (homeDie t.arg.toNat)
     | _ => false)

/-- The records that a team waits for are no longer waited for (21 R340). -/
def State.forgetTeam (s : State) (i : Nat) : State :=
  { s with faults := s.faults.map (fun r => if r.waiter = .team i then { r with waiter := .nobody } else r) }

/-- TEAM_RESUME (R108): a record it still waits for, of a quota that has resolved itself, has no effect on it any more (21 R340). -/
def execTeamResume (i : Nat) (s : State) : Host.Outcome State Fault Refusal :=
  .next (if s.resolved i then ((s.forgetTeam i).unpark i).requeueMma i else s)

/-! Cancellation and retirement. -/

/-- The team retires: its counts are recorded, its slot, lines and save record are free, its block's barrier may complete (R94, 07 R158, 09
R186). A block whose teams have all retired holds no watch range any more (09 R203). -/
def State.retireTeam (s : State) (i : Nat) : State :=
  let s0 := (s.restoreAway i).recordWaste i
  let t := s0.team i
  let s1 := (s0.setArray t.partKey ((s0.arrayOf t.partKey).filter (· != i))).dropLines i
  let s2 := s1.setTeam i { t with st := .retired, sideSave := 0, cause := .none, arg := 0, inSlot := false, mma := none, skid := none, pend := none, pendMore := [],
                                  parkNext := none, cancelPend := false, retryAt := none, verdict := false, countOnWake := false }
  let s3 := ({ s2 with reserved := s2.reserved.filter (fun r => r.2 != i) }).barrierStep t.block
  let s4 := s3.writeControl i
  if (s4.block t.block).teams.all (fun j => (s4.team j).st == .retired) then
    { s4 with watches := s4.watches.filter (fun w => w.2.block != t.block) }
  else s4

/-- A team is cancelled at once: it retires, or waits for its late replies, which land in its image (R108, 01 R18). -/
def State.cancelNow (s : State) (i : Nat) : State :=
  let t := s.team i
  if t.st = .retired then s
  else if s.awaited i = 0 then s.retireTeam i
  else
    let s1 := ((s.recordWaste i).stopMma i).saveSide i
    let t1 := s1.team i
    let keep := t.st = .parked
    let s2 := s1.setTeam i { t1 with st := .parked, cause := .cancelledPending, arg := BitVec.ofNat 64 (s.awaited i), cancelPend := false,
                                     parkedAt := s.clock.toNat, inSlot := t1.inSlot && keep, pend := none, pendMore := [], parkNext := none, mma := none,
                                     skid := none, retryAt := none, countOnWake := false, verdict := false }
    if t1.inSlot then s2.saveLines i else s2.noteTeam i t

/-- A team is cancelled: at its next instruction boundary while it runs, at once when it is READY or PARKED (19 R314). -/
def State.cancelTeam (s : State) (i : Nat) : State :=
  let t := s.team i
  match t.st with
  | .retired => s
  | .active => s.setTeam i { t with cancelPend := true }
  | .ready => s.cancelNow i
  | .parked => if t.cause = .cancelledPending then s else s.cancelNow i

/-- TEAM_RETIREMENT is due: the mask is empty and every access is performed (R94, 04 R86). -/
def State.retirementReady (s : State) (i : Nat) : Bool :=
  let t := s.team i
  t.st == .active && t.mask == 0 && t.pend.isNone && !t.cancelPend && t.parkNext.isNone && !t.verdict && t.rest.isNone && !s.busy i && !s.ownHolds i

/-- TEAM_RETIREMENT. -/
def execTeamRetirement (i : Nat) (s : State) : Host.Outcome State Fault Refusal :=
  .next (if s.retirementReady i then s.retireTeam i else s)

/-- CONTEXT_IMAGE_FREE is due: a retired team has no late reply to come and no access unperformed (R86), and no write held. -/
def State.imageFreeReady (s : State) (i : Nat) : Bool :=
  let t := s.team i
  t.st == .retired && !t.freed && s.awaited i == 0 && !s.busy i && !s.ownHolds i

/-- CONTEXT_IMAGE_FREE (R108): what has been counted since the team retired is recorded first (19 R316). -/
def execContextImageFree (i : Nat) (s : State) : Host.Outcome State Fault Refusal :=
  .next (if s.imageFreeReady i then
      let s1 := s.recordWaste i
      s1.setTeam i { s1.team i with freed := true, sideSave := 0 }
    else s)

/-- CANCELLED_PENDING_RETIRE is due. -/
def State.pendingOver (s : State) (i : Nat) : Bool :=
  let t := s.team i
  t.st == .parked && t.cause == .cancelledPending && s.awaited i == 0

/-- CANCELLED_PENDING_RETIRE (R108). -/
def execCancelledPendingRetire (i : Nat) (s : State) : Host.Outcome State Fault Refusal :=
  .next (if s.pendingOver i then s.retireTeam i else s)

end Sys2Proof.Machine
end

