-- ==== Sys2Proof/Machine/Ballot.lean ====
section
/-!
DEFINITION. Sibling groups (19 R310–R321): SGPOST, SGPOLL, SGCHK, the posts at the Campanile, decisions, cancellation and the release
of KV rows; and event counters (R323): EVSIG, EVWAIT.
-/
namespace Sys2Proof.Machine

/-! Siblings of launches (R304, R310). -/

def Job.type (j : Job) : Nat := fld (j.word 0) 3 0
def Job.sgmode (j : Job) : Nat := fld (j.word 0) 15 14
def Job.gx (j : Job) : Nat := fld (j.word 3) 30 0
def Job.gy (j : Job) : Nat := fld (j.word 3) 47 32
def Job.gz (j : Job) : Nat := fld (j.word 3) 63 48
/-- Blocks of stage 0. -/
def Job.grid (j : Job) : Nat := j.gx * j.gy * j.gz
def Job.sib0 (j : Job) : Nat := fld (j.word 10) 37 32
def Job.groupNo (j : Job) : Nat := fld (j.word 10) 11 0

/-- The sibling of the block with coordinate x. -/
def Job.sibOf (j : Job) (x : Nat) : Option Nat :=
  if j.sgmode = 1 then some (j.sib0 + x) else if j.sgmode = 2 then some j.sib0 else none

/-- Siblings a launch carries. -/
def Job.carries (j : Job) (i : Nat) : Bool :=
  (j.sgmode == 1 && decide (j.sib0 ≤ i) && decide (i < j.sib0 + j.gx)) || (j.sgmode == 2 && j.sib0 == i)

/-- Some block of sibling i is not placed: blocks go in ascending index, so the last one with its x tells. -/
def Job.unplaced (j : Job) (i : Nat) : Bool :=
  j.type == 0 && j.phase != .complete && !j.cancelled && j.carries i && !j.dropped.contains i
    && (if j.sgmode = 1 then decide (j.nextBlock ≤ j.grid - j.gx + (i - j.sib0)) else decide (j.nextBlock < j.grid))

/-- A launch belongs to the group with entry k. -/
def State.jobOf (s : State) (k : Nat) (j : Job) : Bool := j.type == 0 && j.sgmode != 0 && s.groupKey j.fn j.groupNo == k

/-- Some block of sibling i of group k is not placed. -/
def State.sibUnplaced (s : State) (k i : Nat) : Bool := s.jobs.any (fun j => s.jobOf k j.2 && j.2.unplaced i)

/-- Teams of sibling i of group k. -/
def State.sibTeams (s : State) (k i : Nat) : List (Nat × Team) :=
  s.teams.filter (fun t => t.2.grouped && s.ownGroup t.2 == k && t.2.sgidx.toNat == i)

/-- A sibling is finished (R310). -/
def State.sibFinished (s : State) (k i : Nat) : Bool :=
  let g := s.group k
  g.posted.getLsbD i
    || (g.launched.getLsbD i && !s.sibUnplaced k i && (s.sibTeams k i).all (fun t => t.2.st == .retired))

/-! Decisions (R312–R314). -/

/-- TEAM_CANCELLATION: unplaced blocks of sibling i are dropped and its teams cancelled. -/
def State.cancelSibling (s : State) (k i : Nat) : State :=
  let g := s.group k
  let s1 := s.setGroup k { g with cancelled := g.cancelled ||| ((1 : BitVec 64) <<< i) }
  let js := s1.jobs.filter (fun j => s1.jobOf k j.2 && j.2.carries i)
  let s2 := js.foldl (fun s e => s.setJob e.1 { s.job e.1 with dropped := (s.job e.1).dropped ++ [i] }) s1
  (s2.sibTeams k i).foldl (fun s t => s.cancelTeam t.1) s2

/-- GROUP_DECISION (R313): every sibling that has not posted is cancelled. -/
def State.decideGroup (s : State) (k cause : Nat) (winner : Option Nat) : State :=
  let g := s.group k
  let s1 := s.setGroup k { g with st := 2, cause := cause, winner := winner, dclock := s.clock.toNat }
  let s2 := ((upTo g.n).filter (fun i => !g.posted.getLsbD i)).foldl (fun s i => s.cancelSibling k i) s1
  s2.putRecords k

/-- The tracked hash with the largest count, the first posted among equals (tracking follows first posts). -/
def Group.plurality (g : Group) : Option Nat :=
  leastBy (fun j => 2 ^ 16 - SMap.get g.count j 0) (upTo g.track.length)

/-- FINISHED_SIBLING_CHECK is due: an OPEN group with every sibling finished and no post on its way. -/
def State.allFinished (s : State) (k : Nat) : Bool :=
  let g := s.group k
  g.st == 1 && (upTo g.n).all (s.sibFinished k) && !s.posts.any (fun p => p.kind == 0 && s.groupKey p.vf p.group == k)

/-- FINISHED_SIBLING_CHECK (R313). -/
def execFinishedSiblingCheck (k : Nat) (s : State) : Host.Outcome State Fault Refusal :=
  if s.allFinished k then
    match (s.group k).plurality with
    | none => .next (s.decideGroup k 3 none)
    | some j => .next (s.decideGroup k 2 (some j))
  else .next s

/-- The status word of SGPOST (R318). -/
def postStatus (count idx cause res : Nat) : W64 := BitVec.ofNat 64 (res + 4 * cause + 256 * idx + 65536 * count)

/-- post(i, h) of R313, with its status. -/
def State.postHash (s : State) (k i : Nat) (h : W64) : State × W64 :=
  let g := s.group k
  if g.st = 0 then (s, postStatus 0 15 3 2)
  else if g.st = 2 then (s, postStatus 0 15 g.cause 2)
  else if g.posted.getLsbD i then (s, postStatus 0 15 0 3)
  else
    let j := match firstIdx (· == h) g.track with
      | some j => j
      | none => if g.track.length < 8 then g.track.length else 8
    let c := SMap.get g.count j 0 + 1
    let g1 := { g with posted := g.posted ||| ((1 : BitVec 64) <<< i), hash := SMap.put g.hash i h 0, tidx := SMap.put g.tidx i j 0,
                       track := if j < 8 ∧ j = g.track.length then g.track ++ [h] else g.track, count := SMap.put g.count j c 0,
                       posts := g.posts + 1 }
    let s1 := (s.setGroup k g1).putRecord k i
    if j < 8 ∧ c = g.q then (s1.decideGroup k 1 (some j), postStatus c j 1 1) else (s1, postStatus c j 0 0)

/-- The value SGPOLL reads (R319). -/
def State.pollGroup (s : State) (k sel : Nat) (word : W64) : W64 :=
  let g := s.group k
  let idx := fld word 21 16
  if g.st = 0 then 0
  else match sel with
    | 0 => BitVec.ofNat 64 (g.st + 4 * g.cause + 16 * g.track.length + 256 * (g.n - 1) + 65536 * (g.q - 1)
             + 2 ^ 24 * (match g.winner with | some j => j | none => 15) + 2 ^ 40 * g.posts + 2 ^ 48 * SMap.get g.count 8 0)
    | 1 => match g.winner with | some j => g.track.getD j 0 | none => 0
    | 2 => g.posted
    | 3 => g.cancelled
    | 4 => g.track.getD idx 0
    | 5 => if idx ≤ 8 then BitVec.ofNat 64 (SMap.get g.count idx 0) else 0
    | 6 => s.vword g.vf (g.wrec + 64 * idx + 8 * fld word 26 24)
    | _ => g.released

/-- What SGCHK tests (R320). -/
def Group.check (g : Group) (i sel : Nat) : Bool :=
  match sel with
  | 0 => g.st == 2
  | 1 => g.st == 2 && g.winnerOf i
  | _ => g.cancelled.getLsbD i

/-- CAMPANILE_POST may take post n: the first of its group, and a read after every earlier post of its team (R321). -/
def State.postReady (s : State) (n : Nat) : Bool :=
  match s.posts[n]? with
  | none => false
  | some p => (s.posts.take n).all (fun q =>
      s.groupKey q.vf q.group != s.groupKey p.vf p.group && (p.kind == 0 || q.kind != 0 || q.team != p.team))

/-- CAMPANILE_POST (R313, R319, R320): a post is counted, a poll or a check is read, followed by its fence (R321). The answer lands at least 80 clocks
later (R318). -/
def execCampanilePost (n : Nat) (s : State) : Host.Outcome State Fault Refusal :=
  match s.posts[n]? with
  | none => .next s
  | some p =>
    if !s.postReady n then .next s
    else
      let k := s.groupKey p.vf p.group
      let s0 := { s with posts := dropAt s.posts n }
      let r := if p.kind = 0 then s0.postHash k p.sib p.word else (s0, s0.pollGroup k p.sel p.word)
      let b := p.valid && (s0.group k).check p.sib p.sel
      let dsts := if p.kind = 2 then pairDsts true p.pd p.pe 0 b (!b) else [.s p.dst r.2]
      let core := (s.team p.team).core
      let s1 := if p.kind = 0 then r.1 else (r.1.dropNc core p.vf).syncLt core
      .next { s1 with replies := s1.replies ++ [{ team := p.team, dsts := dsts, entry := none, completes := true, bytes := 0, set := 5, trap := none,
                                                  due := s.clock.toNat + 80 }] }

/-- A request of the executing team to the Campanile. -/
def State.sendPost (s : State) (i : Ins) (t : Team) (kind group : Nat) (word : W64) : State :=
  let p : Post := { kind := kind, team := s.cur, vf := t.vf, group := group, sib := t.sgidx.toNat, valid := t.grouped, word := word,
                    sel := i.f.mod.toNat, dst := i.f.d.toNat, pd := i.pd, pe := i.pe }
  { s.issued i (t.markAll (i.dstRefs 0)) with posts := s.posts ++ [p] }

/-- SGPOST (R318). -/
def execSgpost (f : Form) (s : State) : Host.Outcome State Fault Refusal :=
  let i := insW 0x1C0 f
  runUni i s (fun t =>
    if !t.grouped then s.trapLanes i cBOUND 4 [0]
    else if s.pending s.cur 31 true then s
    else s.sendPost i t 0 (t.sgid.toNat % 4096) (BitVec.ofNat 64 (t.sr f.a.toNat)))

/-- SGPOLL (R319). -/
def execSgpoll (f : Form) (s : State) : Host.Outcome State Fault Refusal :=
  let i := insW 0x1C1 f
  runUni i s (fun t =>
    let a := BitVec.ofNat 64 (t.sr f.a.toNat)
    if fld a 11 0 ≥ s.groupCount t.vf then s.trapLanes i cBOUND 4 [0] else s.sendPost i t 1 (fld a 11 0) a)

/-- SGCHK (R320). -/
def execSgchk (f : Form) (s : State) : Host.Outcome State Fault Refusal :=
  let i := insW 0x1C2 f
  runUni i s (fun t => s.sendPost i t 2 (t.sgid.toNat % 4096) 0)

/-! Release of KV rows (R315). -/

/-- KV_RELEASE is due. -/
def State.releaseReady (s : State) (k i : Nat) : Bool :=
  let g := s.group k
  g.st == 2 && decide (i < g.n) && g.cancelled.getLsbD i && !g.released.getLsbD i && !g.relWait.getLsbD i && !s.sibUnplaced k i
    && (s.sibTeams k i).all (fun t => t.2.st == .retired && s.awaited t.1 == 0)

/-- The bit of sibling i. -/
def sibBit (i : Nat) : BitVec 64 := (1 : BitVec 64) <<< i

/-- The release of a slot ends, skipped with ERR, which the record shows at once, or not. -/
def State.slotDone (s : State) (k i : Nat) (err : Bool) : State :=
  let g := s.group k
  let s1 := s.setGroup k { g with relSlot := SMap.put g.relSlot i (SMap.get g.relSlot i 0 + 1) 0, relNext := SMap.drop g.relNext i,
                                  relErr := if err then g.relErr ||| sibBit i else g.relErr }
  if err then s1.putRecord k i else s1

/-- The keys of a sequence, in ascending block half. -/
def Table.keysOf (tb : Table) (seq : Nat) : List Nat :=
  sortBy (fun a b => decide (a < b)) ((tb.ents.filter (fun e => e.1 / 2 ^ 64 == seq)).map (fun e => e.1))

/-- A page stops a release: a record is written and it waits, or the rest of the slot is skipped. -/
def State.releasePage (s : State) (k i die va cause : Nat) (w : Bool) : State :=
  let g := s.group k
  if s.fsqOn g.vf then
    (s.setGroup k { g with relWait := g.relWait ||| sibBit i }).addFault
      (faultRec g.vf 4 cause w 0 0 (BitVec.ofNat 64 (2 + 256 * die)) 0 va (.release k i))
  else s.slotDone k i true

/-- The table slot a release has come to. -/
def Group.relTable (g : Group) (i : Nat) : Nat := if SMap.get g.relSlot i 0 = 0 then g.kv0 else g.kv1

/-- Removal of keys one by one; a lane's fault skips the rest of the slot. -/
def State.removeKeys (s : State) (k i : Nat) (r : Rec) (keys : List Nat) : State :=
  match keys with
  | [] => s.slotDone k i false
  | x :: rest =>
    let g := s.group k
    let tb := s.tableAt g.vf r.ibase
    let e := spPoint 0x142 false false g.vf r 0 0 s tb { lane := 0, key := x, win := [], bound := 0, hint := 0, flags := 0 }
    match e.stop with
    | none =>
      let s1 := e.s.setTable g.vf r.ibase e.tb
      let g1 := s1.group k
      (s1.setGroup k { g1 with relKeys := SMap.put g1.relKeys i (SMap.get g1.relKeys i 0 + 1) 0, relNext := SMap.put g1.relNext i (x + 1) 0 }).removeKeys
        k i r rest
    | some (.page va c w) => e.s.releasePage k i r.home va c w
    | some (.fault c _) => (if c = cECC ∧ !e.row then e.s.lineErr g.vf r (g.relTable i) else e.s).slotDone k i true

/-- One slot of a release. -/
def State.releaseSlot (s : State) (k i : Nat) : State :=
  let g := s.group k
  let n := SMap.get g.relSlot i 0
  if !nbit g.kven n then s.slotDone k i false
  else
    let slot := g.relTable i
    let q := s.record g.vf g.kvdir slot
    match q.2 with
    | .fault va c => q.1.releasePage k i 0 va c false
    | .ok r =>
      if r.kind ≠ 3 ∨ !r.pd then q.1.slotDone k i true
      else
        let h := State.spReach { q.1 with who := Config.cores + 1 + r.home } g.vf r.home r.ibase 4096 false
        (match h.2 with
         | some (.page va c w) => h.1.releasePage k i r.home va c w
         | some (.fault c _) => (if c = cECC then h.1.lineErr g.vf r slot else h.1).slotDone k i true
         | none =>
           let s1 := h.1.formatted g.vf r
           let tb := s1.tableAt g.vf r.ibase
           if !tb.agrees r || tb.gen != r.gen then s1.slotDone k i true
           else
             let next := SMap.get g.relNext i 0
             s1.removeKeys k i r ((tb.keysOf ((g.seqbase.toNat + i) % 2 ^ 64)).filter (fun x => decide (next ≤ x))))
    | _ => q.1.slotDone k i true

/-- The slots of a release in order, until one waits. -/
def State.releaseSlots (fuel : Nat) (s : State) (k i : Nat) : State :=
  match fuel with
  | 0 => s
  | m + 1 =>
    let g := s.group k
    if g.relWait.getLsbD i then s
    else if SMap.get g.relSlot i 0 ≥ 2 then (s.setGroup k { g with released := g.released ||| sibBit i }).putRecord k i
    else State.releaseSlots m (s.releaseSlot k i) k i

/-- KV_RELEASE (R315), once the Spire's L2 owns what it writes (22 R354). -/
def execKvRelease (k i : Nat) (s : State) : Host.Outcome State Fault Refusal :=
  .next (if s.releaseReady k i then
      let e := (s.quiet 0).releaseSlots 4 k i
      match s.trialWaits e (s.group k).vf with
      | some w => w
      | none => s.unquiet e
    else s)

/-- A release's fault record is resolved: it goes on from its slot, or skips the rest of it. -/
def State.releaseResolve (s : State) (k i : Nat) (ok : Bool) : State :=
  let g := s.group k
  let s1 := s.setGroup k { g with relWait := g.relWait &&& ~~~(sibBit i) }
  if ok then s1 else s1.slotDone k i true

/-! Event counters (R323). -/

/-- The accesses of an event instruction: 8 bytes of a dense or KV-paged row. -/
def State.planEvent (s : State) (i : Ins) (t : Team) (wr : Bool) : State × Plan :=
  if i.f.b.toNat ≥ 64 then (s, Plan.empty.fail 0 cTABLE 1 (i.memKey t 0) i.offset)
  else
    let q := s.plan i t [0] { rd := true, wr := wr, width := fun _ => some 8, cls := amoClass .n64, both := wr }
    (q.1, q.2.1)

/-- EVSIG (R323): after every earlier access of the team, the addition is sent to the counter's home. -/
def execEvsig (f : Form) (s : State) : Host.Outcome State Fault Refusal :=
  let i := insW 0x1C4 f
  runUni i s (fun t =>
    let q := s.planEvent i t true
    q.1.settle i t q.2 [] 8 true true (fun s1 =>
      if s1.pending s1.cur 31 true then s
      else
        s1.runUnits { i with f := { f with ty := .n64 } } t 0 0 8 (accUnits q.2.accs (fun _ => []) (fun _ => i.opd t true 0) (fun _ => 0))))

/-- EVWAIT (R323) reads the counter at its home: it completes once the counter reaches its target; else the team parks and executes it again. -/
def execEvwait (f : Form) (s : State) : Host.Outcome State Fault Refusal :=
  let i := insW 0x1C5 f
  runUni i s (fun t =>
    let q := s.planEvent i t false
    q.1.settle i t q.2 [] 8 true false (fun s1 =>
      let v := BitVec.ofNat 64 (i.opd t true 0)
      q.2.accs.foldl (fun s2 c =>
        let r := s2.loadPlace c.place 8
        let va := match c.place with | .tab _ va => va | .core _ => 0
        if r.2 ≠ 0 then s2.trapFails i [{ lane := 0, cls := cECC, sub := r.2, key := c.key, off := c.off }]
        else if reached (BitVec.ofNat 64 (leNat r.1)) v then ((s2.entered s.cur).syncLt t.core).finish i t
        else if s.busy s.cur then s
        else (s2.setTeam s.cur { t with evTarget := v }).parkHere .event (BitVec.ofNat 64 va)) s1))

end Sys2Proof.Machine
end

