-- ==== Sys2Proof/Machine/FrontEnd.lean ====
section
/-!
DEFINITION. The front ends (19 R300–R308, R311, R322): LAUNCH and its appends, reading and checking descriptors, starting and
performing them, and completing them.
-/
namespace Sys2Proof.Machine

/-! The memory a front end reads and writes (R306). -/

/-- What a front end's access finds: bytes, a page that is not resident, or a place it cannot reach at all (log entry 19); a write may have to
wait at its home, for storage or the dirty log or behind another (21 R343, R349); either waits for a copy that owns the bytes (04 R89). -/
inductive FeRead where
  | ok (bytes : List Byte)
  | wait
  | page (va cause : Nat)
  | dead
  deriving DecidableEq, Repr

def State.feRead (s : State) (f va n : Nat) : State × FeRead :=
  if s.vaOwned f va n then (s, .wait)
  else
  let r := s.vread f va n
  (r.1, match r.2 with
        | .ok bs p => if p then .dead else .ok bs
        | .fault va c => .page va c
        | .perm => .dead)

/-- The pages of a range can be read and written. -/
def State.feReach (s : State) (f va n : Nat) : State × FeRead :=
  (cutRange 4097 65536 va n).foldl (fun (a : State × FeRead) e =>
    match a.2 with
    | .ok _ =>
      let w := a.1.walk f e.1 true true
      (w.1, match w.2 with
            | .ok t => if (w.1.readTr t e.2).2 then .dead else .ok []
            | .fault c => .page e.1 c
            | .perm => .dead)
    | _ => a) (s, .ok [])

/-- Bytes written where all their pages can be: cached copies of their lines are gone then. -/
def State.feWrite (s : State) (f va : Nat) (bs : List Byte) : State × FeRead :=
  let r := s.feReach f va bs.length
  match r.2 with
  | .ok _ =>
    if s.vaOwned f va bs.length then (r.1, .wait)
    else
    let w := r.1.tryPut f va bs
    (w.1, if w.2 then .ok [] else .wait)
  | x => (r.1, x)

/-- The front end holds the line of a word (R302): as one of the agents of its home's die (22 R354), under CXL.cache through the hub as one of
those of die 0 (log entry 125). -/
def State.holdLine (s : State) (f va k : Nat) : State :=
  let w := s.walk f va true false
  match w.2 with
  | .ok t =>
    let s1 := w.1.touchEngine (if t.sys then 0 else homeDie t.addr) t 8 false
    { s1 with feLines := s1.feLines.filter (fun e => e.1 != k) ++ [(k, t.sys, t.addr / 64)] }
  | _ => w.1

/-- It holds the line that a word lies in now. -/
def State.holdsLine (s : State) (f va k : Nat) : Bool :=
  match (s.walk f va true false).2 with
  | .ok t => s.feLines.contains (k, t.sys, t.addr / 64)
  | _ => false

def feKey (f q : Nat) : Nat := 8 * f + q
def State.lqOn (s : State) (f q : Nat) : Bool := nbit (s.regN f (oLQCFG q)) 31
def State.lqSlots (s : State) (f q : Nat) : Nat := 2 ^ (s.regN f (oLQCFG q) % 32)
def State.lqSlot (s : State) (f q n : Nat) : Nat := s.regN f (oLQBASE q) + (n % s.lqSlots f q) * 256

/-- The reading of the queue waits on a fault record of its front end. -/
def State.feWaits (s : State) (f q : Nat) : Bool :=
  s.faults.any (fun r => match r.waiter with | .fe g p w _ => g == f && p == q && decide (w < 2) | _ => false)

/-- A record of one of the reads that R306 names is to be resolved: the queue's descriptors are not consumed meanwhile. -/
def State.feStops (s : State) (f q : Nat) : Bool :=
  s.faults.any (fun r => match r.waiter with | .fe g p w _ => g == f && p == q && decide (w < 3) | _ => false)

/-- A consumed descriptor waits on a fault record of its own. -/
def State.jobWaits (s : State) (n : Nat) : Bool :=
  s.faults.any (fun r => match r.waiter with | .fe _ _ w m => decide (2 ≤ w) && m == n | _ => false)

/-- What an unresolvable record, or one that R341 drops, comes to (R306). -/
def State.feUnresolved (s : State) (f q what n : Nat) : State :=
  match what with
  | 0 =>
    if s.lqOn f q then (s.setReg f (oLQCFG q) (setFld (s.reg f (oLQCFG q)) 31 31 0)).report f 2 q 6 0 (s.regN f (oLQHEAD q)) 0 else s
  | 1 => { s with feFail := SMap.put s.feFail (feKey f q) true false }
  | 2 => s.setJob n { s.job n with phase := .started, status := 6, ended := true }
  | _ => s.setJob n { s.job n with noDone := true }

/-- A front end's access that did not succeed: its record of KIND ENGINE, engine 5, or its outcome at once. -/
def State.feBlock (s : State) (f q what n : Nat) (wr : Bool) (x : FeRead) : State :=
  match x with
  | .ok _ => s
  | .wait => s
  | .dead => s.feUnresolved f q what n
  | .page va c =>
    if s.fsqOn f then s.addFault (faultRec f 4 c wr 0 0 (BitVec.ofNat 64 (5 + 256 * f)) 0 va (.fe f q what n)) else s.feUnresolved f q what n

/-! Appends (R302, R322). -/

/-- The first append to a queue advances as far as it can: a number is reserved, room awaited, the slot written, the number
returned. -/
def State.tryAppends (fuel : Nat) (s : State) (f q : Nat) : State :=
  match fuel with
  | 0 => s
  | m + 1 =>
    if !s.lqOn f q || s.feWaits f q then s
    else
      match firstIdx (fun (a : Append) => a.fn == f && a.level == q) s.appends with
      | none => s
      | some k =>
        match s.appends[k]? with
        | none => s
        | some a =>
          match a.num with
          | none =>
            let va := s.regN f (oLQTAILA q)
            let r := s.feRead f va 8
            (match r.2 with
             | .ok bs =>
               let n := leNat bs
               let w := r.1.feWrite f va (natLe 8 (n + 1))
               (match w.2 with
                | .ok _ => State.tryAppends m { w.1 with appends := putAt w.1.appends k { a with num := some n } } f q
                | x => w.1.feBlock f q 0 0 true x)
             | x => r.1.feBlock f q 0 0 true x)
          | some n =>
            if n ≥ s.regN f (oLQHEAD q) + s.lqSlots f q then s
            else
              let w := s.feWrite f (s.lqSlot f q n) a.bytes
              (match w.2 with
               | .ok _ =>
                 let r : Reply := { team := a.team, dsts := [.s a.dst (BitVec.ofNat 64 n)], entry := none, completes := true, bytes := 0,
                                    set := 5, trap := none, due := s.clock.toNat + 80 }
                 let s1 : State := { w.1 with appends := dropAt w.1.appends k, replies := w.1.replies ++ [r] }
                 State.tryAppends m (s1.wakeHeld a.team) f q
               | x => w.1.feBlock f q 0 0 true x)

/-- LAUNCH (R322). -/
def execLaunch (f : Form) (s : State) : Host.Outcome State Fault Refusal :=
  let i := insW 0x1C3 f
  runUni i s (fun t =>
    let sa := t.sr f.a.toNat % 2 ^ 32
    let q := i.opbRaw t true 0
    if sa % 64 ≠ 0 then s.trapAt i cALIGN 0 [(0, cALIGN)] sa 0
    else
      match s.coreByte t false sa 0 256 with
      | none => s.trapAt i cBOUND 4 [(0, cBOUND)] sa 0
      | some k =>
        if q ≥ 8 ∨ !s.lqOn t.vf q then s.trapAt i cBOUND 4 [(0, cBOUND)] sa 0
        else if s.pending s.cur 31 true || s.placeOwned (.core k) 256 then s
        else
          let r := s.loadPlace (.core k) 256
          let b0 := (r.1.headD 0).toNat
          if r.2 ≠ 0 then s.trapAt i cECC 3 [(0, cECC)] sa 0
          else if b0 % 16 ≠ 0 ∧ b0 % 16 ≠ 4 then s.trapAt i cBOUND 4 [(0, cBOUND)] sa 0
          else
            let bs := BitVec.ofNat 8 (b0 % 128 + 128) :: r.1.drop 1
            let a : Append := { team := s.cur, fn := t.vf, level := q, num := none, bytes := bs, dst := f.d.toNat }
            let s1 : State := { s.issued i (t.markAll (i.dstRefs 0)) with appends := s.appends ++ [a] }
            let s2 := s1.tryAppends 4096 t.vf q
            if s2.appends.any (fun a => a.team == s.cur) then s2.parkSoon s.cur .queue (BitVec.ofNat 64 (2048 + q)) else s2)

/-! Descriptors (R303–R306). -/

/-- The front end of function f translates. -/
def State.ptOn (s : State) (f : Nat) : Bool := nbit (s.regN f oPTROOT) 0

/-- The front end may look at a queue's memory, once bring-up is READY (24 R395). -/
def State.feFree (s : State) (f q : Nat) : Bool := s.bel.stage == 9 && s.ptOn f && s.lqOn f q && !s.feStops f q

/-- The front end does not hold the tail word's line, or an append of LAUNCH that waited can go on. -/
def State.tailMoved (s : State) (f q : Nat) : Bool :=
  s.feFree f q && (!s.holdsLine f (s.regN f (oLQTAILA q)) (2 * feKey f q)
    || (s.appends.any (fun a => a.fn == f && a.level == q) && (s.tryAppends 1 f q).appends != s.appends))

/-- TAIL_LINE_INVALIDATION (R302): the front end has lost the line of the tail word and reads it again. -/
def execTailLineInvalidation (f q : Nat) (s : State) : Host.Outcome State Fault Refusal :=
  if !s.feFree f q then .next s
  else
    let va := s.regN f (oLQTAILA q)
    let r := s.feRead f va 8
    match r.2 with
    | .ok bs => .next (({ r.1 with tails := SMap.put r.1.tails (feKey f q) (leNat bs) 0 }.holdLine f va (2 * feKey f q)).tryAppends 4096 f q)
    | x => .next (r.1.feBlock f q 0 0 false x)

/-- A mask of the bits below n. -/
def low (n : Nat) : Nat := 2 ^ n - 1

/-- Bits of word i that a descriptor of a type names (R303, R304, R311). -/
def namedBits (ty nwait i : Nat) : Nat :=
  if i = 0 then (if ty = 0 then low 56 - 0x770 else 0x388F)
  else if i = 8 then (if ty = 0 then low 57 else low 64)
  else if i = 9 ∨ i = 11 then low 64
  else if i ≥ 20 then 0
  else if i ≥ 12 then (if i < 12 + 2 * min nwait 4 then low 64 else 0)
  else
    match ty, i with
    | 0, 1 => low 57
    | 0, 2 => low 64
    | 0, 3 => low 64 - 2 ^ 31
    | 0, 4 => low 57
    | 0, 5 => low 64 - low 32 + low 13
    | 0, 6 => low 57
    | 0, 7 => low 57
    | 0, 10 => 0x3F * 2 ^ 32 + low 12
    | 1, 1 => low 57
    | 1, 2 => low 6
    | 1, 3 => low 64
    | 1, 4 => low 64
    | 1, 5 => low 64
    | 1, 6 => low 64
    | 1, 7 => low 64
    | 2, 1 => low 10
    | 2, 2 => low 64
    | 2, 3 => low 64
    | 2, 4 => low 64
    | 2, 5 => low 64
    | 3, 10 => low 64
    | 5, 1 => 0x3F3F033F3F
    | 5, 2 => low 64
    | 5, 3 => low 57
    | 5, 4 => low 57
    | 5, 10 => low 12
    | 6, 10 => low 12
    | _, _ => 0

/-- Word i of a descriptor. -/
def dw (w : List W64) (i : Nat) : W64 := w.getD i 0

/-- Check 1. -/
def descReserved (w : List W64) : Bool :=
  let ty := fld (dw w 0) 3 0
  decide (ty ≥ 7) || (upTo 32).any (fun i => (dw w i).toNat &&& (low 64 - namedBits ty (fld (dw w 0) 13 11) i) != 0)

/-- Check 2 for the fields common to every type. -/
def descCommon (w : List W64) : Bool :=
  let n := fld (dw w 0) 13 11
  decide (n ≤ 4) && (dw w 8).toNat % 8 == 0 && decide ((dw w 8).toNat < 2 ^ 57)
    && (upTo (min n 4)).all (fun i => (dw w (12 + 2 * i)).toNat % 8 == 0 && decide ((dw w (12 + 2 * i)).toNat < 2 ^ 57))

/-- Check 2 for the fields of a type; `qn` queues belong to the function. -/
def descRanges (qn : Nat) (w : List W64) : Bool :=
  match fld (dw w 0) 3 0 with
  | 0 =>
    let klen := fld (dw w 2) 31 0
    decide (fld (dw w 0) 55 43 ≤ 6144) && (dw w 1).toNat % 256 == 0 && klen % 4 == 0 && decide (klen ≥ 4)
      && decide (fld (dw w 3) 30 0 ≥ 1) && decide (fld (dw w 3) 47 32 ≥ 1) && decide (fld (dw w 3) 63 48 ≥ 1)
      && (dw w 4).toNat % 8 == 0 && decide (fld (dw w 5) 12 0 ≤ 4096) && (dw w 6).toNat % 64 == 0 && (dw w 7).toNat % 32 == 0
      && (fld (dw w 0) 42 39 != 0 || dw w 7 == 0) && fld (dw w 0) 15 14 != 3
  | 1 => (dw w 1).toNat % 64 == 0
  | 2 => decide ((dw w 1).toNat < qn) && decide (fld (dw w 3) 63 32 ≤ 2 ^ 28) && fld (dw w 2) 56 0 % 256 == 0
  | 5 => (dw w 4).toNat % 256 == 0
  | _ => true

/-- Checks 1 to 5 of R306: the status, 0 for none. -/
def State.descStatus (s : State) (f : Nat) (w : List W64) : Nat :=
  let ty := fld (dw w 0) 3 0
  let mode := fld (dw w 0) 15 14
  let g := fld (dw w 10) 11 0
  let top := fld (dw w 10) 37 32 + (if mode = 1 then fld (dw w 3) 30 0 - 1 else 0)
  let gr := s.group (s.groupKey f g)
  if descReserved w then 1
  else if !descCommon w || !descRanges (nfld (s.regN f oQRANGE) 26 16) w then 2
  else if ty ≠ 0 then 0
  else if (fld (dw w 0) 26 17 + 1) * (fld (dw w 0) 29 27 + 1) > 8192 then 3
  else if mode ≠ 0 ∧ fld (dw w 0) 42 39 ≠ 0 then 4
  else if mode ≠ 0 ∧ (g ≥ s.groupCount f ∨ gr.st ≠ 1 ∨ top ≥ gr.n) then 5
  else 0

/-- Checks 1 and 2 of a stage record (R305). -/
def stageStatus (w d : List W64) : Nat :=
  if fld (dw d 0) 31 5 ≠ 0 ∨ fld (dw d 2) 63 57 ≠ 0 ∨ dw d 3 ≠ 0 then 1
  else if fld (dw d 0) 63 32 % 4 ≠ 0 ∨ fld (dw d 0) 63 32 ≥ fld (dw w 2) 31 0 ∨ fld (dw d 1) 63 32 < fld (dw w 0) 26 17 + 1
      ∨ fld (dw d 1) 31 0 < 64 ∨ fld (dw d 2) 56 0 % 256 ≠ 0 then 2
  else 0

/-- Words four by four. -/
def quads (fuel : Nat) (w : List W64) : List (List W64) :=
  match fuel with
  | 0 => []
  | k + 1 => if w.isEmpty then [] else w.take 4 :: quads k (w.drop 4)

/-- The tables of a descriptor (check 6): the stage records read with it and the status so far, or what stops the reading. -/
def State.descTables (s : State) (f q : Nat) (w : List W64) : State × ((List (List W64) × Nat) ⊕ FeRead) :=
  if SMap.get s.feFail (feKey f q) false then (s, .inl ([], 6))
  else
    match fld (dw w 0) 3 0 with
    | 0 =>
      let n := fld (dw w 0) 42 39
      let r := s.feRead f (dw w 7).toNat (32 * n)
      (match r.2 with
       | .ok bs =>
         let ds := quads n (leWords (4 * n) bs)
         let x := r.1.feRead f (dw w 6).toNat 2560
         let st := (ds.map (stageStatus w)).find? (· ≠ 0)
         (match st, x.2 with
          | some k, _ => (r.1, .inl (ds, k))
          | none, .ok _ => (x.1, .inl (ds, 0))
          | none, e => (x.1, .inr e))
       | e => (r.1, .inr e))
    | 1 =>
      let r := s.feReach f ((dw w 1).toNat + 40 * (dw w 2).toNat) 40
      (match r.2 with
       | .ok _ => (r.1, .inl ([], 0))
       | e => (r.1, .inr e))
    | _ => (s, .inl ([], 0))

/-! Completion (R307, R308). -/

/-- A completed descriptor leaves, with its blocks and teams. -/
def State.dropJob (s : State) (n : Nat) : State :=
  let mine := fun i => (s.team i).job == n
  { s with jobs := SMap.drop s.jobs n, blocks := s.blocks.filter (fun b => b.2.job != n), feLines := s.feLines.filter (fun e => e.1 / 4 != 512 + n),
           faults := s.faults.map (fun r => match r.waiter with | .team i => if mine i then { r with waiter := .nobody } else r | _ => r),
           teams := s.teams.filter (fun t => t.2.job != n) }

/-- The report of a completed descriptor. -/
def State.reportDone (s : State) (n : Nat) : State :=
  let j := s.job n
  (s.report j.fn (if j.status ≠ 0 then 2 else if j.cancelled then 3 else 1) j.level j.status (j.word 11) j.num 0).dropJob n

/-- The completion event of a descriptor: the addition to DONE, then the report. It waits for a DONE page that is not resident,
and goes without an addition that cannot be made (log entry 20). -/
def State.completeJob (s : State) (n : Nat) : State :=
  let j := s.job n
  let va := fld (j.word 8) 56 0
  if va = 0 ∨ j.noDone then s.reportDone n
  else
    let r := s.feRead j.fn va 8
    match r.2 with
    | .ok bs =>
      let w := r.1.feWrite j.fn va (natLe 8 (leNat bs + (j.word 9).toNat))
      (match w.2 with
       | .ok _ => w.1.reportDone n
       | x => w.1.feBlock j.fn j.level 3 n true x)
    | x => r.1.feBlock j.fn j.level 3 n true x

/-- A descriptor whose effect has been performed, or that is rejected with a status, completes. -/
def State.finishJob (s : State) (n status : Nat) : State :=
  (s.setJob n { s.job n with phase := .started, status := status, ended := true }).completeJob n

/-! Consumption. -/

/-- DESCRIPTOR_CONSUME has something to read: a descriptor is reserved whose word 0 the front end does not hold, waiting for OWN. -/
def State.consumeReady (s : State) (f q : Nat) : Bool :=
  let h := s.regN f (oLQHEAD q)
  s.feFree f q && decide (SMap.get s.tails (feKey f q) 0 > h)
    && !s.holdsLine f (s.lqSlot f q h) (2 * feKey f q + 1)

/-- The descriptor has been read whole: OWN is cleared, LQHEAD advances, and a rejected one completes at once. A write of OWN that must wait is
tried again with the whole. -/
def State.takeDescriptor (s : State) (f q : Nat) (w : List W64) (ds : List (List W64)) (status : Nat) : State :=
  let h := s.regN f (oLQHEAD q)
  let n := SMap.freshKey s.jobs
  let own := s.feWrite f (s.lqSlot f q h) (natLe 8 (setFld (dw w 0) 7 7 0).toNat)
  let s1 := own.1
  if own.2 = .wait then s1
  else
  let s2 := { s1.addReg f (oLQHEAD q) 1 with feFail := SMap.put s1.feFail (feKey f q) false false }
  let j : Job := { Job.blank with fn := f, level := q, num := h, words := w, stages := ds, met := fld (dw w 0) 13 11 == 0 }
  let s3 := s2.setJob n j
  (if status = 0 then s3 else s3.finishJob n status).tryAppends 4096 f q

/-- DESCRIPTOR_CONSUME (R302, R306): with OWN clear the front end holds the line of word 0 until it is written. -/
def execDescriptorConsume (f q : Nat) (s : State) : Host.Outcome State Fault Refusal :=
  if !s.consumeReady f q then .next s
  else
    let va := s.lqSlot f q (s.regN f (oLQHEAD q))
    let r := s.feRead f va 256
    match r.2 with
    | .ok bs =>
      if !nbit (leNat (bs.take 8)) 7 then .next (r.1.holdLine f va (2 * feKey f q + 1))
      else
      let w := leWords 32 bs
      let st := r.1.descStatus f w
      if st ≠ 0 then .next (r.1.takeDescriptor f q w [] st)
      else
        let x := r.1.descTables f q w
        (match x.2 with
         | .inl e => .next (x.1.takeDescriptor f q w e.1 e.2)
         | .inr e => .next (x.1.feBlock f q 1 0 false e))
    | x => .next (r.1.feBlock f q 0 0 false x)

/-! Starting (R307, R308). -/

/-- The report ring has room (R308). -/
def State.reportRoom (s : State) (f : Nat) : Bool :=
  let cfg := s.regN f oRRCFG
  !(nbit cfg 31 && decide ((s.reg f oRRTAIL - s.reg f oRRHEAD).toNat ≥ 2 ^ (cfg % 32)))

/-- A descriptor whose turn it is to start, of a function whose interface is not in ERROR (23 R381): every earlier one of its queue has started, and with SERIAL the previous one has
completed. -/
def State.headOfQueue (s : State) (n : Nat) : Bool :=
  let j := s.job n
  let earlier := s.jobs.filter (fun e => e.2.fn == j.fn && e.2.level == j.level && decide (e.1 < n))
  (SMap.find s.jobs n).isSome && j.phase == .waiting && s.bel.stage == 9 && s.ptOn j.fn && s.ifst j.fn != 3 && earlier.all (fun e => e.2.phase != .waiting)
    && !(nbit (j.word 0).toNat 16 && earlier.any (fun e => !e.2.old && e.2.num + 1 == j.num))

/-- What the counters of a descriptor say: met or not, or what stops the reading. -/
def State.waitCheck (s : State) (j : Job) : State × (Bool ⊕ FeRead) :=
  (upTo (fld (j.word 0) 13 11)).foldl (fun (a : State × (Bool ⊕ FeRead)) i =>
    match a.2 with
    | .inr _ => a
    | .inl b =>
      let r := a.1.feRead j.fn (fld (j.word (12 + 2 * i)) 56 0) 8
      (r.1, match r.2 with
            | .ok bs => .inl (b && reached (BitVec.ofNat 64 (leNat bs)) (j.word (13 + 2 * i)))
            | x => .inr x)) (s, .inl true)

/-- The line of a descriptor's wait counter i among those that front ends hold, and the addresses of its counters. -/
def waitKey (n i : Nat) : Nat := 2048 + 4 * n + i
def Job.counters (j : Job) : List Nat := (upTo (fld (j.word 0) 13 11)).map (fun i => fld (j.word (12 + 2 * i)) 56 0)

/-- The front end does not hold the lines of a waiting descriptor's counters: they are still to be read, or a write has taken one. -/
def State.waitMoved (s : State) (n : Nat) : Bool :=
  let j := s.job n
  s.headOfQueue n && !s.jobWaits n
    && (j.counters.zip (upTo j.counters.length)).any (fun e => !s.holdsLine j.fn e.1 (waitKey n e.2))

/-- It holds them. -/
def State.holdWaits (s : State) (n : Nat) : State :=
  let j := s.job n
  (j.counters.zip (upTo j.counters.length)).foldl (fun s e => s.holdLine j.fn e.1 (waitKey n e.2)) s

/-- WAIT_COUNTER_WRITE (R307): a new check, after which the front end holds the counters' lines. A counter that cannot be reached rejects the
descriptor with status 6. -/
def execWaitCounterWrite (n : Nat) (s : State) : Host.Outcome State Fault Refusal :=
  let j := s.job n
  if !s.headOfQueue n || s.jobWaits n then .next s
  else
    let r := s.waitCheck j
    match r.2 with
    | .inl b => .next ((r.1.setJob n { j with met := b }).holdWaits n)
    | .inr x => .next (r.1.feBlock j.fn j.level 2 n false x)

/-- A descriptor of a type may start. -/
def State.startReady (s : State) (n ty : Nat) : Bool :=
  let j := s.job n
  s.headOfQueue n && j.type == ty && j.met && s.reportRoom j.fn && !s.jobWaits n

/-- LAUNCH_DESCRIPTOR (R304, R307): the launch starts. -/
def execLaunchDescriptor (n : Nat) (s : State) : Host.Outcome State Fault Refusal :=
  if !s.startReady n 0 then .next s
  else
    let j := s.job n
    let s1 := { s.setJob n { j with phase := .started, order := s.orders } with orders := s.orders + 1 }
    let k := s1.groupKey j.fn j.groupNo
    let g := s1.group k
    .next (if j.sgmode = 0 then s1
           else s1.setGroup k { g with launched := g.launched ||| BitVec.ofNat 64 (bitsOf 64 j.carries) })

/-- The header takes the GEN of a record that agrees with it in every other field (11 R212). DESIGN CHOICE: a header whose page is not resident keeps its
GEN, and the command completes: R212 does not say what happens then (log entry 123; unsafe). -/
def State.applyGen (s : State) (f : Nat) (r : Rec) : State :=
  let tb := s.tableAt f r.ibase
  if r.kind ≠ 0 ∧ leNat (s.spBytes f r.ibase 8) ≠ 0 ∧ tb.agrees r ∧ tb.gen ≠ r.gen then s.setTable f r.ibase { tb with gen := r.gen } else s

/-- DIRECTORY_UPDATE (R303, 11 R211). -/
def execDirectoryUpdate (n : Nat) (s : State) : Host.Outcome State Fault Refusal :=
  if !s.startReady n 1 then .next s
  else
    let j := s.job n
    let dir := (j.word 1).toNat
    let slot := (j.word 2).toNat
    let w := s.feWrite j.fn (dir + 40 * slot) (wordsLe ((j.words.drop 3).take 5))
    match w.2 with
    | .ok _ =>
      let r := w.1.record j.fn dir slot
      .next ((match r.2 with | .ok x => r.1.applyGen j.fn x | _ => r.1).finishJob n 0)
    | x => .next (w.1.feBlock j.fn j.level 2 n true x)

/-- The k oldest entries of a spill ring, in order. -/
def State.ringEntries (k : Nat) (s : State) (vf : Nat) (q : Queue) : State × FeRead :=
  match k with
  | 0 => (s, .ok [])
  | m + 1 =>
    let r := State.ringEntries m s vf q
    match r.2 with
    | .ok bs =>
      let x := r.1.feRead vf (q.entry (q.ringHead + m)) 8
      (match x.2 with
       | .ok cs => (x.1, .ok (bs ++ cs))
       | e => (x.1, e))
    | _ => r

/-- The k entries of a spill ring move to another ring, all read before any is written, so that the rings may overlap (17 R293); a MiB at a time, the
whole again where one of them cannot be written yet. -/
def State.moveRing (k : Nat) (s : State) (vf : Nat) (old new : Queue) : State × FeRead :=
  let r := s.ringEntries k vf old
  match r.2 with
  | .ok bs =>
    (upTo ((bs.length + 2 ^ 20 - 1) / 2 ^ 20)).foldl (fun (a : State × FeRead) j =>
      match a.2 with
      | .ok _ => a.1.feWrite vf (new.mbase + 2 ^ 20 * j) ((bs.drop (2 ^ 20 * j)).take (2 ^ 20))
      | _ => a) (r.1, .ok [])
  | _ => r

/-- QUEUE_DESCRIPTOR (R303, 17 R288, R293): a rewrite waits until the queue holds no held push and its entries fit the new ring. -/
def execQueueDescriptor (n : Nat) (s : State) : Host.Outcome State Fault Refusal :=
  if !s.startReady n 2 then .next s
  else
    let j := s.job n
    let k := s.qbase j.fn + (j.word 1).toNat
    let q := s.queue k
    let en := nbit (j.word 2).toNat 63
    let new : Queue := { q with vf := j.fn, en := en, home := fld (j.word 2) 58 57, mbase := fld (j.word 2) 56 0, mcap := fld (j.word 3) 63 32,
                                pushes := if en && !q.en then 0 else q.pushes }
    if s.qreqs.any (fun r => r.kind == 0 && r.queue == k && r.hold != .none) || decide (q.ringLen > new.mcap) then .next s
    else if q.ringLen = 0 ∨ (new.mbase = q.mbase ∧ new.mcap = q.mcap) then .next ((s.setQueue k new).finishJob n 0)
    else
      let r := s.moveRing q.ringLen q.vf q new
      match r.2 with
      | .ok _ => .next ((r.1.setQueue k { new with ringHead := 0 }).finishJob n 0)
      | .wait => .next (if q.ringLen ≤ 2 ^ 17 then r.1 else s)
      | x => .next (s.feBlock j.fn j.level 2 n true x)

/-- A launch is cancelled: what is not placed is dropped, and its teams are cancelled (R307). -/
def State.cancelJob (s : State) (n : Nat) : State :=
  let j := s.job n
  let s1 := { s.setJob n { j with cancelled := true, ready := [], buckets := [], held := [] } with
                deposits := s.deposits.filter (fun d => d.job != n) }
  (s1.teams.filter (fun t => t.2.job == n)).foldl (fun s t => s.cancelTeam t.1) s1

/-- Started launches of a function with a TAG. -/
def State.tagged (s : State) (f : Nat) (tag : W64) : List Nat :=
  (s.jobs.filter (fun e => e.2.fn == f && e.2.type == 0 && e.2.phase == .started && !e.2.ended && e.2.word 11 == tag)).map (fun e => e.1)

/-- CANCEL (R303, R307). -/
def execCancel (n : Nat) (s : State) : Host.Outcome State Fault Refusal :=
  if !s.startReady n 3 then .next s
  else
    let j := s.job n
    .next (((s.tagged j.fn (j.word 10)).foldl State.cancelJob s).finishJob n 0)

/-- SIGNAL (R303). -/
def execSignal (n : Nat) (s : State) : Host.Outcome State Fault Refusal :=
  if s.startReady n 4 then .next (s.finishJob n 0) else .next s

/-- The records of a group's siblings, all zero (R311, R316). -/
def blankRecords : List Byte := List.replicate 4096 0

/-- GROUP_OPEN (R311, R312). -/
def execGroupOpen (n : Nat) (s : State) : Host.Outcome State Fault Refusal :=
  if !s.startReady n 5 then .next s
  else
    let j := s.job n
    let k := s.groupKey j.fn j.groupNo
    let w1 := j.word 1
    if j.groupNo ≥ s.groupCount j.fn ∨ (s.group k).st ≠ 0 then .next (s.finishJob n 5)
    else
      let w := s.feWrite j.fn (j.word 4).toNat blankRecords
      match w.2 with
      | .ok _ =>
        let g : Group := { Group.blank with
          vf := j.fn, st := 1, n := fld w1 5 0 + 1, q := fld w1 13 8 + 1, kven := fld w1 17 16, kv0 := fld w1 29 24, kv1 := fld w1 37 32,
          seqbase := j.word 2, kvdir := (j.word 3).toNat, wrec := (j.word 4).toNat }
        .next ((w.1.setGroup k g).finishJob n 0)
      | x => .next (w.1.feBlock j.fn j.level 2 n true x)

/-- GROUP_FREE (R311): an OPEN group is first decided with cause NONE. -/
def execGroupFree (n : Nat) (s : State) : Host.Outcome State Fault Refusal :=
  if !s.startReady n 6 then .next s
  else
    let j := s.job n
    let k := s.groupKey j.fn j.groupNo
    let g := s.group k
    if j.groupNo ≥ s.groupCount j.fn ∨ g.st = 0 then .next (s.finishJob n 5)
    else
      let s1 := s.setJob n { j with phase := .started }
      .next (if g.st = 1 then s1.decideGroup k 3 none else s1)

/-- Nothing of a group is left: no live team, no unplaced block, every release performed. -/
def State.groupQuiet (s : State) (k : Nat) : Bool :=
  let g := s.group k
  (s.teams.all (fun t => !(t.2.grouped && s.ownGroup t.2 == k) || t.2.st == .retired))
    && (upTo 64).all (fun i => !s.sibUnplaced k i) && (upTo g.n).all (fun i => !g.cancelled.getLsbD i || g.released.getLsbD i)

/-- GROUP_FREE_COMPLETION is due for a group free that has started. -/
def State.freeReady (s : State) (n : Nat) : Bool :=
  let j := s.job n
  j.type == 6 && j.phase == .started && !j.ended && s.groupQuiet (s.groupKey j.fn j.groupNo)

/-- Sum over the siblings of a counter of their records. -/
def State.wasteSum (s : State) (g : Group) (word : Nat) : W64 :=
  (upTo g.n).foldl (fun a i => a + s.vword g.vf (g.wrec + 64 * i + 8 * word)) 0

/-- GROUP_FREE_COMPLETION (R311, 24 R391). -/
def execGroupFreeCompletion (n : Nat) (s : State) : Host.Outcome State Fault Refusal :=
  if !s.freeReady n then .next s
  else
    let j := s.job n
    let k := s.groupKey j.fn j.groupNo
    let g := s.group k
    let s1 := if g.st = 0 then s
      else (s.setGroup k Group.blank).logErr 6 4 j.fn none none [BitVec.ofNat 64 j.groupNo, s.wasteSum g 0, s.wasteSum g 1, s.wasteSum g 5]
    .next (s1.finishJob n 0)

/-! The end of a launch (R307). -/

/-- The first block of stage 0 at or after number k whose sibling is not dropped. -/
def Job.skip (j : Job) (fuel k : Nat) : Nat :=
  match fuel with
  | 0 => k
  | m + 1 =>
    match j.sibOf (k % j.gx) with
    | some i => if j.dropped.contains i && decide (k < j.grid) then Job.skip j m (k + 1) else k
    | none => k

/-- The next block of stage 0 to be placed; the grid's size when none is left. -/
def Job.nextUnplaced (j : Job) : Nat :=
  if j.cancelled then j.grid
  else if j.sgmode ≠ 0 ∧ (upTo 64).all (fun i => !j.carries i || j.dropped.contains i) then j.grid
  else j.skip 64 j.nextBlock

/-- Nothing of team i is left anywhere. -/
def State.teamGone (s : State) (i : Nat) : Bool :=
  (s.team i).st == .retired && (s.team i).freed && s.awaited i == 0 && !s.ownHolds i && !s.qreqs.any (fun r => r.team == i)
    && !s.copies.any (fun c => c.team == i)

/-- Every block of every stage has retired, every deposit been taken, every write performed, every copy completed. -/
def State.launchOver (s : State) (n : Nat) : Bool :=
  let j := s.job n
  j.type == 0 && j.phase == .started && decide (j.nextUnplaced ≥ j.grid) && j.ready.isEmpty && j.buckets.isEmpty && j.held.isEmpty
    && s.deposits.all (fun d => d.job != n) && (s.teams.filter (fun t => t.2.job == n)).all (fun t => s.teamGone t.1)

/-- LAUNCH_COMPLETION is due: a launch has ended, or a completion event is still to be performed. -/
def State.completionReady (s : State) (n : Nat) : Bool :=
  let j := s.job n
  (SMap.find s.jobs n).isSome && (j.ended || s.launchOver n) && !s.jobWaits n

/-- LAUNCH_COMPLETION (R307). -/
def execLaunchCompletion (n : Nat) (s : State) : Host.Outcome State Fault Refusal :=
  .next (if s.completionReady n then s.completeJob n else s)

end Sys2Proof.Machine
end

