-- ==== Sys2Proof/Machine/Placement.lean ====
section
/-!
DEFINITION. The distributor (19 R309) and the turns on clusters (23 R378, R380): where a block fits, the creation of its teams (05 R103,
17 R297), blocks that leave their cluster whole (04 R75, 09 R193), BLOCK_PLACEMENT and TURN_END.
-/
namespace Sys2Proof.Machine

/-! Core memory of a cluster (04 R74). -/

/-- A block holds its allocations: it has a team not retired, or a request of its copies is outstanding (17 R287). -/
def State.blockLive (s : State) (i : Nat) : Bool :=
  (s.block i).teams.any (fun t => (s.team t).st != .retired) || s.copies.any (fun c => c.block == i)

/-- Blocks on a cluster that hold allocations. -/
def State.onCluster (s : State) (c : Nat) : List (Nat × Block) :=
  s.blocks.filter (fun b => b.2.cluster == c && b.2.saved.isNone && s.blockLive b.1)

/-- The lowest offset at which n bytes meet none of the blocks. -/
def lowestGap (bs : List (Nat × Block)) (n : Nat) : Option Nat :=
  let cands := 0 :: bs.map (fun b => b.2.base + b.2.size)
  leastBy (fun a => a) (cands.filter (fun a =>
    decide (a + n ≤ Config.coreMemBytes) && !bs.any (fun b => rangesMeet b.2.base b.2.size a n)))

/-- A block can leave its cluster whole for function f: its copies have ended and its teams stand at boundaries (17 R287, 09 R192). -/
def State.leaves (s : State) (f : Nat) (b : Nat × Block) : Bool :=
  b.2.vf != f && !s.copies.any (fun c => c.block == b.1)
    && b.2.teams.all (fun i => let t := s.team i; !t.inSlot || (!t.verdict && t.rest.isNone && t.pend.isNone && !t.cancelPend))

/-- Where n bytes fit on a cluster for function f holding its turn: the offset, and the outgoing blocks that must leave. A free range is
taken before one that another front end's blocks give up. -/
def State.clusterFit (s : State) (f c n : Nat) : Option (Nat × List Nat) :=
  let bs := s.onCluster c
  match lowestGap bs n with
  | some o => some (o, [])
  | none =>
    match lowestGap (bs.filter (fun b => !s.leaves f b)) n with
    | some o => some (o, (bs.filter (fun b => s.leaves f b && rangesMeet b.2.base b.2.size o n)).map (fun b => b.1))
    | none => none

/-! What comes next of a launch. -/

/-- The next block of a launch: one that left its cluster, one of stage 0, or one of a later stage. -/
inductive NextBlock where
  | back (b : Nat)
  | grid (k : Nat)
  | later (stage : Nat) (es : List Deposit)
  deriving DecidableEq, Repr

def Job.scratch (j : Job) : Nat := fld (j.word 0) 55 43 * 128
def Job.teamCount (j : Job) : Nat := fld (j.word 0) 29 27 + 1
def Job.vregs (j : Job) : Nat := 8 * (fld (j.word 0) 34 30 + 1)
def Job.sregs (j : Job) : Nat := 8 * (fld (j.word 0) 38 35 + 1)
/-- PC of a stage's entry (R305). -/
def Job.entry (j : Job) (k : Nat) : W64 := if k = 0 then 0 else BitVec.ofNat 64 (fld (j.stageWord k 0) 63 32)

/-- Blocks of a launch that left their cluster. -/
def State.away (s : State) (n : Nat) : List (Nat × Block) := s.blocks.filter (fun b => b.2.job == n && b.2.saved.isSome && s.blockLive b.1)

/-- The candidates for the next placement of launch n: its blocks that left, before any not yet placed. -/
def State.nextBlocks (s : State) (n : Nat) : List NextBlock :=
  let j := s.job n
  let back := (s.away n).map (fun b => NextBlock.back b.1)
  if j.type ≠ 0 ∨ j.phase ≠ .started ∨ !s.ptOn j.fn then []
  else if !back.isEmpty then back
  else if j.nextUnplaced < j.grid then [.grid j.nextUnplaced]
  else match j.ready with
    | e :: _ => [.later e.1 e.2]
    | [] => []

/-- Teams of a block, its lanes and its core-memory bytes. -/
def Job.teamsOf (j : Job) (x : NextBlock) : Nat := match x with | .grid _ => j.teamCount | .later _ _ => 1 | .back _ => 0
def Job.lanesOf (j : Job) (x : NextBlock) : Nat := match x with | .later _ es => es.length | _ => j.lanes

/-- Bytes of an image (05 R99), rounded up to its alignment. -/
def Job.imageSize (j : Job) (lanes : Nat) : Nat :=
  let t : Team := { Team.blank with nlanes := lanes, vregs := j.vregs }
  (t.imageBytes + 4095) / 4096 * 4096

/-- Places of k images of n bytes one after another in the context region, each the lowest that is free. -/
def State.imagePlaces (k : Nat) (s : State) (f n : Nat) (used : List (Nat × Nat)) : Option (List Nat) :=
  match k with
  | 0 => some []
  | m + 1 =>
    let base := s.regN f oCTXBASE
    let cands := base :: used.map (fun r => (r.1 + r.2 + 4095) / 4096 * 4096)
    match leastBy (fun a => a) (cands.filter (fun a =>
      decide (base ≤ a) && decide (a + n ≤ base + s.regN f oCTXSIZE) && !used.any (fun r => rangesMeet r.1 r.2 a n))) with
    | none => none
    | some a => (State.imagePlaces m s f n ((a, n) :: used)).map (fun as => a :: as)

/-- Places of a block's images: the lowest free ones, or one after another from an address the scheduler chose (log entry 21). -/
def State.images (s : State) (n : Nat) (x : NextBlock) (choice : Option Nat) : Option (List Nat) :=
  let j := s.job n
  let k := j.teamsOf x
  let size := j.imageSize (j.lanesOf x)
  let used := s.ctxUsed j.fn
  match choice with
  | none => s.imagePlaces k j.fn size used
  | some a =>
    let base := s.regN j.fn oCTXBASE
    if a % 4096 = 0 ∧ base ≤ a ∧ a + k * size ≤ base + s.regN j.fn oCTXSIZE ∧ !used.any (fun r => rangesMeet r.1 r.2 a (k * size)) then
      some ((upTo k).map (fun i => a + i * size))
    else none

/-- CBASE and CLIMIT. -/
def State.clRange (s : State) (f : Nat) : Nat × Nat := (nfld (s.regN f oCLRANGE) 4 0, nfld (s.regN f oCLRANGE) 12 8)

/-- The clusters of a front end's range in the order they are tried: from the one after its previous placement, wrapping. -/
def State.clOrder (s : State) (f : Nat) : List Nat :=
  let r := s.clRange f
  let n := r.2 + 1 - r.1
  let p := SMap.get s.fePrev f r.2
  let start := if r.1 ≤ p ∧ p < r.2 then p + 1 - r.1 else 0
  (upTo n).map (fun i => r.1 + (start + i) % n)

/-- Clusters where a block may go. -/
def State.clChoices (s : State) (n : Nat) (x : NextBlock) : List Nat :=
  match x with
  | .back b => [(s.block b).cluster]
  | _ => s.clOrder (s.job n).fn

def State.scratchOf (s : State) (n : Nat) (x : NextBlock) : Nat := match x with | .back b => (s.block b).size | _ => (s.job n).scratch

/-- A placement: what, where, and what leaves for it. -/
structure Spot where
  what : NextBlock
  cluster : Nat
  base : Nat
  out : List Nat
  images : List Nat
  deriving DecidableEq, Repr

/-- The placement of a block on one cluster, were its front end's turn there. -/
def State.spotAt (s : State) (n : Nat) (x : NextBlock) (choice : Option Nat) (c : Nat) : Option Spot :=
  if SMap.get s.rsvLow (c / 6) false then none
  else
    match s.clusterFit (s.job n).fn c (s.scratchOf n x), s.images n x choice with
    | some p, some as => some { what := x, cluster := c, base := p.1, out := p.2, images := as }
    | _, _ => none

/-- The next placement of launch n. -/
def State.spot (s : State) (n : Nat) (choice : Option Nat) : Option Spot :=
  (s.nextBlocks n).findSome? (fun x =>
    (s.clChoices n x).findSome? (fun c => if s.hasTurn (s.job n).fn c then s.spotAt n x choice c else none))

/-- Launches in the order the distributor takes them: priority level, then start order. -/
def State.launches (s : State) : List Nat :=
  (sortBy (fun (a b : Nat × Job) => if a.2.level ≠ b.2.level then decide (a.2.level < b.2.level) else decide (a.2.order < b.2.order))
    (s.jobs.filter (fun e => e.2.type == 0 && e.2.phase == .started && !e.2.ended))).map (fun e => e.1)

/-- The launch whose block is placed next. -/
def State.placesNext (s : State) : Option Nat := s.launches.find? (fun n => (s.spot n none).isSome)

/-! Blocks that leave (04 R75, 09 R193, 23 R380). -/

/-- Where a save of n bytes goes: 0 device memory, 1 the SAVEB region, 2 the SAVEC region; and its address, if it has room there. -/
def State.savePlace (s : State) (f die n : Nat) : Nat × Option Nat :=
  match s.savedOut f die n with
  | some x => (x.1, some x.2)
  | none => (0, s.ctxAlloc f 256 n)

/-- The byte of the core memories for byte x of a block's four allocations, keyed 2^20 × core of the cluster + offset. -/
def Block.coreKey (b : Block) (x : Nat) : Nat := 2 ^ 20 * (4 * b.cluster + x / 2 ^ 20) + b.base + x % 2 ^ 20

/-- A core-memory byte lies in the block's allocations. -/
def Block.owns (b : Block) (k : Nat) : Bool :=
  k / 2 ^ 20 / 4 == b.cluster && decide (b.base ≤ k % 2 ^ 20) && decide (k % 2 ^ 20 < b.base + b.size)

/-- The bytes of a save, the four allocations one after another, and back. -/
def saveBytes (size : Nat) (m : SMap Byte) : List Byte :=
  (upTo 4).flatMap (fun c => (upTo size).map (fun x => SMap.get m (2 ^ 20 * c + x) memDefault))
def savedMap (size : Nat) (bs : List Byte) : SMap Byte :=
  (bs.zip (upTo (4 * size))).filterMap (fun e => if e.1 = memDefault then none else some (2 ^ 20 * (e.2 / size) + e.2 % size, e.1))

/-- A save is written to its place; whether all of it is. It is no write of a context image, and does not draw on the reserve (R348). -/
def State.writeSave (s : State) (f place a : Nat) (bs : List Byte) : State × Bool :=
  if place = 0 then s.tryPut f a bs
  else ((s.storeParts f [{ sys := true, addr := a, bytes := bs, cmp := false }] true .queue 0 .put).1, true)

/-- A save as its place holds it; none where it cannot be read there. -/
def State.readSave (s : State) (f place a n : Nat) : State × Option (List Byte) :=
  if place = 0 then
    (let r := s.vread f a n
     (r.1, match r.2 with | .ok bs false => some bs | _ => none))
  else (s, some (readMem s.sysmem a n))

/-- A block leaves its cluster: its teams leave their slots, its four allocations are saved together (R193, R380; log entry 64). It stays where a team
cannot leave. -/
def State.saveBlock (s : State) (i : Nat) : State :=
  let s1 := (s.block i).teams.foldl (fun s t => if (s.team t).inSlot then s.evictTeam t true else s) s
  if (s.block i).teams.any (fun t => (s1.team t).inSlot) then s
  else
  let b := s1.block i
  let key := fun k => 2 ^ 20 * (k / 2 ^ 20 % 4) + (k % 2 ^ 20 - b.base)
  let bytes : SMap Byte := (s1.cm.filter (fun e => b.owns e.1)).map (fun (e : Nat × Byte) => (key e.1, e.2))
  let bad := (s1.cmBad.filter (fun e => b.owns e.1)).map (fun (e : Nat × Bool) => key e.1)
  let p := s1.savePlace b.vf (b.cluster / 6) (4 * b.size)
  let r := match p.2 with | some a => s1.writeSave b.vf p.1 a (saveBytes b.size bytes) | none => (s1, false)
  let s2 := r.1.setBlock i { b with saved := some (p.1, bytes, bad), savedAt := if r.2 then p.2 else none }
  { s2 with cm := s2.cm.filter (fun e => !b.owns e.1), cmBad := s2.cmBad.filter (fun e => !b.owns e.1) }

/-- A block returns to its cluster at an offset: its allocations are restored to the same cores, its READY teams to the ready lists of
the cores they left. -/
def State.restoreBlock (s : State) (i base : Nat) : State :=
  let b := s.block i
  let b1 := { b with base := base, saved := none, savedAt := none }
  let q := match b.saved, b.savedAt with | some x, some a => s.readSave b.vf x.1 a (4 * b.size) | _, _ => (s, none)
  let cm0 := q.1.cm.filter (fun e => !b1.owns e.1)
  let bad0 := q.1.cmBad.filter (fun e => !b1.owns e.1)
  let s1 := match b.saved with
    | some x =>
      let got := q.2.elim x.2.1 (savedMap b.size)
      let s1 := q.1
      { s1 with cm := got.foldl (fun m (e : Nat × Byte) => SMap.put m (b1.coreKey e.1) e.2 memDefault) cm0,
                cmBad := x.2.2.foldl (fun m k => SMap.put m (b1.coreKey k) true false) bad0 }
    | none => q.1
  b.teams.foldl (fun s t => let x := s.team t; if x.st = .ready then s.setTeam t { x with readyAt := s.clock.toNat } else s) (s1.setBlock i b1)

/-! Creation (05 R92, R103; 17 R297). -/

/-- Coordinates of block k of the grid. -/
def Job.coords (j : Job) (k : Nat) : Nat × Nat × Nat := (k % j.gx, k / j.gx % j.gy, k / (j.gx * j.gy))

/-- Payload and key of each lane in v0, v1 and v2. -/
def depositRegs (es : List Deposit) : SMap W32 :=
  (es.zip (upTo es.length)).foldl (fun m e =>
    let put (m : SMap W32) (n : Nat) (x : Nat) : SMap W32 := SMap.put m (vkey n e.2) (BitVec.ofNat 32 x) 0
    put (put (put m 0 e.1.val.toNat) 1 (e.1.val.toNat / 2 ^ 32)) 2 e.1.key.toNat) []

/-- Team t of a new block at an image address on a core. -/
def Job.newTeam (j : Job) (n b t image core clock : Nat) (x : NextBlock) (seqNo : Nat) : Team :=
  let lanes := j.lanesOf x
  let at_ := match x with | .grid k => j.coords k | _ => (seqNo, 0, 0)
  let stage := match x with | .later k _ => k | _ => 0
  let sib := match x with | .grid k => j.sibOf (k % j.gx) | _ => none
  { Team.blank with
    vf := j.fn, job := n, block := b, nlanes := lanes, vregs := j.vregs, sregs := j.sregs, stage := stage, prio := j.level, teamid := t,
    ctxbase := BitVec.ofNat 64 image, blockx := BitVec.ofNat 32 at_.1, blocky := BitVec.ofNat 32 at_.2.1, blockz := BitVec.ofNat 32 at_.2.2,
    sgid := if sib.isSome then BitVec.ofNat 64 (2 ^ 63 + j.groupNo) else 0, sgidx := BitVec.ofNat 32 (sib.getD 0),
    pc := j.entry stage, seed := BitVec.ofNat 32 (fld (j.word 5) 63 32), mask := BitVec.ofNat 1024 (2 ^ lanes - 1),
    v := match x with | .later _ es => depositRegs es | _ => [],
    trapbase := BitVec.ofNat 64 (fld (j.word 2) 63 32), core := core, age := clock, readyAt := clock }

/-- Blocks of a range become ZERO, their storage freed. -/
def State.zeroRange (s : State) (lo hi : Nat) : State :=
  let bs := s.blk.filter (fun b => decide (lo ≤ 256 * b.1) && decide (256 * b.1 < hi))
  let s1 := bs.foldl (fun s0 b =>
    let s := s0.touchFrame (256 * b.1)
    if b.2.st = .data then
      (if (s.frameOf (256 * b.1)).slot.isSome then s else s.freeStorage (homeDie (256 * b.1))).addUsed (256 * b.1) false
    else s) s
  ({ s1 with blk := s1.blk.filter (fun b => !(decide (lo ≤ 256 * b.1) && decide (256 * b.1 < hi))), mem := clearMem s1.mem lo hi }).clearLate lo hi

/-- Lines of an image with bytes in [lo, hi) of its virtual addresses. -/
def Team.linesIn (t : Team) (lo hi : Nat) : List Nat :=
  let meets := fun (a n : Nat) => decide (a < hi) && decide (lo < a + n)
  (upTo (t.vregs * t.words)).filter (fun no => meets (t.ctxbase.toNat + 4096 + 128 * no) 128 || meets (t.ctxbase.toNat + t.fullAt + 4 * no) 4)

/-- Lines of a new image whose place cannot be cleared stay in the write-back buffer (log entry 92). -/
def State.keepLines (s : State) (i lo hi : Nat) : State :=
  let t := s.team i
  s.setTeam i { t with unsaved := t.unsaved ++ (t.linesIn lo hi).filter (fun no => !t.unsaved.contains no) }

/-- The vector and full/empty areas of a new image are ZERO blocks, whatever an earlier image left in their place (R100, R103; log entry 91). The change
is logged like any write (21 R343). -/
def State.clearImage (s : State) (i : Nat) : State :=
  let t := s.team i
  let put := fun (s : State) (va n : Nat) => let r := s.imagePut t.vf va (List.replicate n 0); if r.2 then r.1 else r.1.keepLines i va (va + n)
  (cutRange 20 65536 (t.ctxbase.toNat + 4096) (t.imageBytes - 4096)).foldl (fun s e =>
    match s.peek t.vf e.1 with
    | some (false, a) =>
      let hi := (a + e.2) / 256 * 256
      if !s.blk.any (fun b => decide (a ≤ 256 * b.1) && decide (256 * b.1 < a + e.2)) then s
      else if s.logWaits t.vf a then s.keepLines i e.1 (e.1 + e.2)
      else
        let s1 := ((s.dlAppend t.vf a).dropLinesIn a hi).zeroRange a hi
        if e.2 % 256 = 0 ∨ (s1.blkOf hi).st = .zero then s1 else put s1 (e.1 + (hi - a)) (e.2 % 256)
    | some (true, _) => put s e.1 e.2
    | none => s) s

/-- Lines of a new team that hold its deposits are in its image. -/
def State.writeFirst (s : State) (i : Nat) : State :=
  let t := s.team i
  if t.v.isEmpty then s
  else ((upTo 3).flatMap (fun n => (upTo t.words).map (fun w => (n, w)))).foldl (fun s e => s.writeLine i e.1 e.2) s

/-- IMAGE_CREATION: a new block of launch n is placed. -/
def State.createBlock (s : State) (n : Nat) (p : Spot) : State :=
  let j := s.job n
  let b := SMap.freshKey s.blocks
  let t0 := SMap.freshKey s.teams
  let ids := (upTo p.images.length).map (fun i => t0 + i)
  let c := s.clusterAt p.cluster
  let sib := match p.what with | .grid k => j.sibOf (k % j.gx) | _ => none
  let stage := match p.what with | .later k _ => k | _ => 0
  let seqNo := SMap.get j.seq stage 0
  let j1 := match p.what with
    | .grid k => { j with nextBlock := k + 1 }
    | .later k _ => { j with ready := j.ready.drop 1, seq := SMap.put j.seq k (seqNo + 1) 0 }
    | .back _ => j
  let s1 := ((s.setJob n j1).setBlock b { Block.blank with vf := j.fn, job := n, cluster := p.cluster, base := p.base, size := j.scratch,
                                                           teams := ids, sibling := sib }).setCluster p.cluster { c with placed := (c.placed + 1) % 4 }
  (p.images.zip (upTo p.images.length)).foldl (fun s e =>
    let i := t0 + e.2
    let t := j.newTeam n b e.2 e.1 (4 * p.cluster + (c.placed + e.2) % 4) s.clock.toNat p.what seqNo
    (((s.setTeam i t).clearImage i).writeControl i).writeFirst i) s1

/-- A front end begins its turn on a cluster that nobody holds. -/
def State.takeTurn (s : State) (f c : Nat) : State :=
  let x := s.clusterAt c
  if x.holder = none then s.setCluster c { x with holder := some f, since := s.time } else s

/-- BLOCK_PLACEMENT (R309): the next block of launch n is placed when no launch before it has one that fits. -/
def execBlockPlacement (n : Nat) (choice : Option Nat) (s : State) : Host.Outcome State Fault Refusal :=
  if s.placesNext ≠ some n then .next s
  else
    match s.spot n choice with
    | none => .next s
    | some p =>
      let f := (s.job n).fn
      let s0 := p.out.foldl State.saveBlock s
      if p.out.any (fun b => (s0.block b).saved.isNone) then .next s0
      else
      let s1 := s0.takeTurn f p.cluster
      match p.what with
      | .back b => .next (s1.restoreBlock b p.base)
      | _ => .next (let s2 := s1.createBlock n p; { s2 with fePrev := SMap.put s2.fePrev f p.cluster 24 })

/-! Turns (23 R378). -/

/-- A front end wants a cluster of its range: it has a live team there, or its distributor would place a launch's next block there. -/
def State.wantsCluster (s : State) (f c : Nat) : Bool :=
  let r := s.clRange f
  decide (r.1 ≤ c) && decide (c ≤ r.2) &&
    ((s.blocks.any (fun b => b.2.vf == f && b.2.cluster == c && b.2.saved.isNone && b.2.teams.any (fun i => (s.team i).st != .retired)))
      || s.launches.any (fun n => (s.job n).fn == f &&
           (s.nextBlocks n).any (fun x => (s.clChoices n x).contains c && (s.spotAt n x none c).isSome)))

/-- The next wanting front end after function f, in ascending number. -/
def State.nextWanting (s : State) (f c : Nat) : Option Nat :=
  ((upTo 63).map (fun i => (f + 1 + i) % 64)).find? (fun g => s.wantsCluster g c)

/-- SLICE in force, in the model's units of time (23 R377). -/
def State.slice (s : State) (f : Nat) : Nat := min 10000000 (max 50 (fld (s.reg f oSHARE) 31 0)) * usUnits

/-- TURN_END is due: the holder's slice has passed. -/
def State.turnOver (s : State) (c : Nat) : Bool :=
  let x := s.clusterAt c
  match x.holder with
  | some h => decide (s.time ≥ x.since + s.slice h)
  | none => false

/-- TURN_END (R378): the turn passes to the next wanting front end, or renews. -/
def execTurnEnd (c : Nat) (s : State) : Host.Outcome State Fault Refusal :=
  let x := s.clusterAt c
  match x.holder with
  | none => .next s
  | some h =>
    if !s.turnOver c then .next s
    else
      match s.nextWanting h c with
      | some g => .next (s.setCluster c { x with holder := some g, since := s.time })
      | none => .next (s.setCluster c { x with since := s.time })

end Sys2Proof.Machine
end

