-- ==== Sys2Proof/Machine/FabricEvents.lean ====
section
/-!
DEFINITION. Events of the memory fabric (21 R335–R353): invalidation, resolution of fault records, quotas, the dirty log, block
accesses, discards, held writes, and the ballooning engine.
-/
namespace Sys2Proof.Machine

/-! Invalidation (R335). -/

/-- INVCMD (R335): a command is issued for bits 31:0 pages from INVADDR; none covers everything. -/
def execInvcmd (s : State) : Host.Outcome State Fault Refusal :=
  let f := s.inp.fn
  .next { s.addReg f oINVREQ 1 with invs := s.invs ++ [(f, s.reg f oINVADDR, BitVec.ofNat 64 (fld s.inp.value 31 0))] }

/-- A VA lies in the range of a command. -/
def inRange (first n : W64) (va : Nat) : Bool :=
  n == 0 || (decide (first.toNat ≤ va) && decide (va < first.toNat + n.toNat * 65536))

/-- Addresses of the pages an ACTIVE team pins (05 R110). -/
def State.pinned (s : State) (i : Nat) : List Nat :=
  let t := s.team i
  if t.inSlot && t.st == .active then t.ctxbase.toNat :: t.windowVas (s.nextIns i) else []

/-- Teams of a function that pin a page of a range. -/
def State.pinners (s : State) (f : Nat) (first n : W64) : List Nat :=
  ((s.teams.filter (fun t => t.2.vf == f && (s.pinned t.1).any (inRange first n))).map (fun t => t.1))

/-- A page of n bytes at a VA lies in the range of a command. -/
def meetsRange (first n : W64) (va m : Nat) : Bool := (cutRange 9 65536 va m).any (fun e => inRange first n e.1)

/-- A held write used a translation of a range; where its address is not kept, of a scale word and of what a cache writes back, any range counts. -/
def Held.through (h : Held) (f : Nat) (first n : W64) : Bool :=
  h.fn == f && !h.parts.isEmpty &&
    ((match h.op with | .stb _ _ _ => true | .wb => true | .flush _ _ => true | .put => h.writer == .l2 | _ => false) || meetsRange first n h.va ((h.parts.map (fun p => p.bytes.length)).sum))

/-- An access of a team to be performed yet used a translation of a range. -/
def AUnit.through (u : AUnit) (n : Nat) (f : Nat) (first m : W64) : Bool :=
  u.tr.fn == f && (meetsRange first m u.va n || (match u.sc with | some c => meetsRange first m c.2 2 | none => false))

/-- Accesses that translated in a range before now are still to be performed. -/
def State.translated (s : State) (f : Nat) (first n : W64) : Bool :=
  s.held.any (fun h => h.through f first n)
    || s.atoms.any (fun a => a.done.isNone && a.u.through a.n f first n)
    || s.teams.any (fun t => match t.2.rest with | some r => (r.inside ++ r.out).any (fun u => u.through r.n f first n) | none => false)

/-- The first invalidation of a function may complete: the teams it evicts stand at boundaries, and every access that translated before it is
performed. -/
def State.invReady (s : State) (f : Nat) : Bool :=
  match s.invs.find? (fun e => e.1 == f) with
  | none => false
  | some e =>
    (s.pinners f e.2.1 e.2.2).all (fun i => let t := s.team i; !t.verdict && t.pend.isNone && !t.cancelPend && t.rest.isNone)
      && !s.translated f e.2.1 e.2.2

/-- A function's lines, and those of host and peer memory, leave the L1s, dirty sectors written to their home L2. -/
def State.dropL1 (s : State) (f : Nat) : State :=
  let mine := fun (k : Nat) => decide (k % 2 ^ 52 ≥ 2 ^ 50) || s.ownerOf ((k % 2 ^ 50) * 32) == some f
  let s1 := ((s.coh.nc.filter (fun e => mine e.1)).map (fun e => e.1)).foldl (fun s k => s.flushSector (k / 2 ^ 52) (k % 2 ^ 52)) s
  { s1 with coh := { s1.coh with l1 := s1.coh.l1.filter (fun e => !mine e.1), nc := s1.coh.nc.filter (fun e => !mine e.1 || e.2.dirty != 0),
                                 ctx := (s1.coh.ctx.map (fun e => (e.1, e.2.filter (fun x => x.1 != f)))).filter (fun e => !e.2.isEmpty) } }

/-- Cached translations of a range are gone. -/
def State.dropTlb (s : State) (f : Nat) (first n : W64) : State :=
  { s with tlb := s.tlb.filter (fun e => !(e.1 % 2 ^ 47 / 2 ^ 41 == f && inRange first n (e.1 % 2 ^ 41 * 65536))) }

/-- INVALIDATION_COMPLETE (R335): ACTIVE teams that pin a page of the range leave their slots, and INVDONE advances once what the caches write back of
the range is performed. -/
def execInvalidationComplete (f : Nat) (s : State) : Host.Outcome State Fault Refusal :=
  match firstIdx (fun (e : Nat × W64 × W64) => e.1 == f) s.invs with
  | none => .next s
  | some k =>
    if !s.invReady f then .next s
    else
      match s.invs[k]? with
      | none => .next s
      | some e =>
        let s1 := ((s.pinners f e.2.1 e.2.2).foldl (fun s i => s.evictTeam i false) s).dropL1 f |>.dropTlb f e.2.1 e.2.2
        .next (if s1.translated f e.2.1 e.2.2 then s1 else { s1 with invs := dropAt s1.invs k }.addReg f oINVDONE 1)

/-! Resolution of fault records (R340, R341). -/

/-- A team's record proves unresolvable: XFAULT with a subcode at its instruction, or at the next boundary for a page its MMA stopped
at (15 R264). -/
def State.teamXfault (s : State) (r : FaultRec) (i sub : Nat) : State :=
  let t := s.team i
  let lanes := if r.lanes.isEmpty then [r.lane] else r.lanes
  if r.mma then
    match t.mma with
    | none => s
    | some m =>
      let t1 := t.addPend (some { cls := cXFAULT, sub := sub, pc := m.pc, ilen := 1, lanes := lanes, key := r.key, off := r.off })
      let stop := t.parkNext == some (.page, t.arg) || (match t.parkNext with | some (.page, _) => true | _ => false)
      let s1 := (s.setTeam i { t1 with mma := some { m with trapped := true }, parkNext := if stop then none else t.parkNext }).forgetTeam i
      if t.st = .parked ∧ t.cause = .page then s1.unpark i else s1
  else if t.st = .parked ∧ (t.cause = .page ∨ t.cause = .quota ∨ t.cause = .space) then
    let len := s.lenAt i
    (s.forgetTeam i).useFresh.takeTrap i
      { cls := cXFAULT, sub := sub, causes := lanes.map (fun l => (l, cXFAULT)), pc := t.pc, ipc := t.pc, ilen := len, key := r.key,
        off := r.off }
  else s

/-- The refills and pushes of a function that wait for a page of its rings try again. -/
def State.retryRings (s : State) (f : Nat) : State :=
  { s with queues := s.queues.map (fun q => if q.2.vf = f then (q.1, { q.2 with stuck := false, pushStuck := false }) else q) }

/-- A record that has left the list takes an outcome: 0 resolved, 1 and 2 unresolvable with the XFAULT subcode; `dropped` when R341
drops it. -/
def State.faultOutcome (s : State) (r : FaultRec) (out : Nat) (dropped : Bool) : State :=
  let ok := out == 0
  match r.waiter with
  | .nobody => s
  | .team i =>
    let t := s.team i
    if t.st = .retired ∨ t.cause = .cancelledPending then s
    else if ok then (if r.kind = 5 ∧ t.st = .parked ∧ t.cause = .quota then s.unpark i else s)
    else if r.kind = 3 ∧ dropped then (s.forgetTeam i).fatal i cXFAULT t.pc
    else s.teamXfault r i out
  | .copy _ _ => s.copyResolve (fld r.ctx 14 8) r.fn (r.va / 65536) ok
  | .release k i => s.releaseResolve k i ok
  | .fe f q what n => (if ok then s else s.feUnresolved f q what n).tryAppends 4096 f q
  | .queue => s.retryRings r.fn

/-- FSRESOLVE (R340). -/
def execFsresolve (s : State) : Host.Outcome State Fault Refusal :=
  let f := s.inp.fn
  let seq := fld s.inp.value 31 0
  let out := fld s.inp.value 35 32
  match firstIdx (fun r => r.fn == f && r.written && r.seq == seq) s.faults with
  | none => .next s
  | some k =>
    if out > 2 then .next s
    else
      match s.faults[k]? with
      | none => .next s
      | some r => .next (({ s with faults := dropAt s.faults k }).faultOutcome r out false)

/-- Records of a function that wait for room are dropped, each with the outcome of the table of R341. -/
def State.dropFaults (fuel : Nat) (s : State) (f : Nat) : State :=
  match fuel with
  | 0 => s
  | m + 1 =>
    match firstIdx (fun r => r.fn == f && !r.written) s.faults with
    | none => s
    | some k =>
      match s.faults[k]? with
      | none => s
      | some r => State.dropFaults m (({ s with faults := dropAt s.faults k }).faultOutcome r (if r.kind = 5 then 2 else 1) true) f

/-! Quotas (R342). -/

/-- The quota of a function changes, and every operation parked for it tries again. -/
def State.setQuota (s : State) (f : Nat) (v : W64) : State :=
  let s1 := s.setReg f oPQUOTA v
  ((s1.teams.filter (fun t => t.2.vf == f && t.2.st == .parked && t.2.cause == .quota && !t.2.arg.getLsbD 63)).foldl
      (fun s t => (s.forgetTeam t.1).unpark t.1) s1)

/-- QUOTA_LIMIT_EXPIRY is due: a Spire insert has waited QLIMIT microseconds, and its quota is not resolved by now (R353). -/
def State.quotaExpired (s : State) (i : Nat) : Bool :=
  let t := s.team i
  t.st == .parked && t.cause == .quota && !t.arg.getLsbD 63 && !s.resolved i && decide (s.time ≥ t.quotaAt + s.regN t.vf oQLIMIT * usUnits)

/-- QUOTA_LIMIT_EXPIRY (R342): XFAULT QUOTA, precise. -/
def execQuotaLimitExpiry (i : Nat) (s : State) : Host.Outcome State Fault Refusal :=
  if !s.quotaExpired i then .next s
  else
    match s.faults.find? (fun r => r.waiter == .team i) with
    | some r => .next (s.teamXfault r i 2)
    | none => .next (s.teamXfault (faultRec (s.team i).vf 5 0 true 0 0 0 0 0 (.team i)) i 2)

/-! Held writes (R343, R349, R350). -/

/-- A store of team i of which nothing is held any more counts as completed (20 R326). -/
def State.storePaid (s : State) (i : Nat) : State :=
  let t := s.team i
  match t.owes with
  | some b => if s.storeHeld i then s else (s.setTeam i { t with owes := none }).account i 1 0 b
  | none => s

/-- What follows the performance or the end of a held write: its team's store counts and the team goes on, its copy row counts. -/
def State.afterHeld (s : State) (h : Held) (err : Nat) : State :=
  match h.writer with
  | .team i _ _ => (s.storePaid i).wakeHeld i
  | .copy id row => (match s.copyOfId id with | some c => s.copyRowEnd c row err 0 | none => s)
  | _ => s

/-- An atomic has been performed at its home, or cannot be: old value and flag, or the subcode of ECC. The answer goes back (22 R357). AMN and
EVSIG, which mark no destination, are complete with the last of their adds (20 R326). -/
def State.atomDone (s : State) (tag old : Nat) (flag : Bool) (sub : Nat) : State :=
  match s.atoms.find? (fun a => a.tag == tag) with
  | none => s
  | some a =>
    let s1 := { s with atoms := s.atoms.map (fun (b : Atom) => if b.tag = tag then { b with done := some (old, flag, sub) } else b) }
    let m := { s.atomMsg a with x := BitVec.ofNat 64 old, y := BitVec.ofNat 64 (bnat flag) }
    let ended := (a.opc == 0x105 || a.opc == 0x1C4) && a.done.isNone && s1.atoms.all (fun b => b.ins != a.ins || b.done.isSome)
      && !(s1.team a.team).rest.any (fun r => r.ins == a.ins) && !s1.replies.any (fun r => r.ins == a.ins)
    (if ended then s1.account a.team 1 0 a.moved else s1).sendMsg (if sub = 0 then .atomicrsp m else .poison m)

/-- ECC recorded against the instruction of a held write whose block is in POISON by now (08 R178). -/
def Held.ecc (h : Held) : Option PendTrap :=
  match h.writer with
  | .team _ pc len =>
    some { cls := cECC, sub := 1, pc := pc, ilen := len, lanes := [match h.amo with | some a => a.lane | none => 0], key := 0, off := 0 }
  | _ => none

/-- The parts with other bytes, in order. -/
def withBytes (ps : List Part) (bs : List Byte) : List Part :=
  match ps with
  | [] => []
  | p :: r => { p with bytes := bs.take p.bytes.length } :: withBytes r (bs.drop p.bytes.length)

/-- The bytes where parts lie. -/
def State.partBytes (s : State) (ps : List Part) : List Byte := ps.flatMap (fun p => s.imageBytes p.sys p.addr p.bytes.length)

/-- The parts that a held write stores when it is performed on the memory of now; none where a compare fails. -/
def State.heldParts (s : State) (h : Held) : List Part :=
  let old := s.partBytes h.parts
  let n := old.length
  match h.op with
  | .put => h.parts
  | .wb => withBytes h.parts old
  | .flush core k => (s.nc core k).parts (32 * k)
  | .add x => withBytes h.parts (natLe n (leNat old + x.toNat))
  | .acc => withBytes h.parts (natLe n (leNat old ||| 2 ^ 10))
  | .amo a =>
    if a.op = 8 ∧ leNat old ≠ a.x.toNat then [] else withBytes h.parts (natLe n (amoNew a.op a.f.ty (leNat old) a.x.toNat a.y.toNat))
  | .stb enc ilv elems =>
    (match h.parts with
     | b :: r => { b with bytes := mergeElems enc ilv (s.partBytes [b]) elems } :: r
     | [] => [])

/-- The caches after a write at the home: through the writer's L2 where that may still write the grain; else every copy is gone (22 R359). -/
def State.wrote (s : State) (w : Writer) (f : Nat) (ps : List Part) : State :=
  ps.foldl (fun s p =>
    let n := p.bytes.length
    let t : Tr := { sys := p.sys, addr := p.addr, cls := 1, grain := 0, cmp := p.cmp, fn := f }
    let all := s.dropLinesIn (if p.sys then 0 else p.addr) (if p.sys then 0 else p.addr + n)
    match w with
    | .team i _ _ => if (s.unowned (s.team i).core t n).isEmpty then s.coreWrote (s.team i).core t n else all
    | .copy id _ =>
      (match s.copyOfId id with
       | some c => if (s.engineLacks (dieOf c.core) t n).isEmpty then (s.touchEngine (dieOf c.core) t n true).dropGrains (dieOf c.core) t n else all
       | none => all)
    | _ => all) s

/-- What a held write-back wrote is dirty no more. -/
def State.cleaned (s : State) (h : Held) : State :=
  match h.op with
  | .wb => h.parts.foldl (fun s p => s.clearLate p.addr (p.addr + p.bytes.length)) s
  | .flush core k => let x := s.nc core k; if x.bytes.isEmpty then s else s.setNc core k { x with dirty := 0 }
  | _ => s

/-- Held write number k is performed, all its parts together. -/
def State.performHeld (s : State) (k : Nat) : State :=
  match s.held[k]? with
  | none => s
  | some h =>
    let s0 := { s with held := dropAt s.held k }
    if (devParts h.parts).any (fun p => s0.poisoned p.addr) then
      let s1 := match h.amo with
        | some a => s0.atomDone a.tag 0 false 1
        | none => (match h.writer with | .team i _ _ => s0.setTeam i ((s0.team i).addPend h.ecc) | _ => s0)
      (s1.cleaned h).afterHeld h 4
    else
      let ps := s0.heldParts h
      let s1 := ((s0.putParts h.fn ps).cleaned h).wrote h.writer h.fn ps
      let s2 := match h.amo with
        | some a => let old := leNat (s0.partBytes h.parts); s1.atomDone a.tag old (old == a.x.toNat) 0
        | none => s1
      s2.afterHeld h 0

/-- No write held before number k meets its blocks. -/
def State.firstHeld (s : State) (k : Nat) (h : Held) : Bool :=
  !(s.held.take k).any (fun e => (devParts e.parts).any (fun q => (devParts h.parts).any (fun p => p.addr / 256 == q.addr / 256)))

/-- A held write has a block homed on a die. -/
def Held.onDie (h : Held) (d : Nat) : Bool := (devParts h.parts).any (fun p => homeDie p.addr == d)

/-- The dies that a held write lacks storage on. -/
def State.heldLacks (s : State) (h : Held) : List Nat := s.shortDies (s.storageAsks h.fn (s.heldParts h))

/-- The first write held for space that the home of a die could perform next, if it has room for it (R349: in the order in which they were
held). -/
def State.heldNext (s : State) (d : Nat) : Option Nat :=
  match (upTo s.held.length).find? (fun k =>
    match s.held[k]? with
    | some h => !h.log && h.onDie d && s.firstHeld k h
    | none => false) with
  | none => none
  | some k => (match s.held[k]? with | some h => if (s.heldLacks h).isEmpty then some k else none | none => none)

/-- HELD_WRITE_RELEASE (R349): the first held write of a die that has room is performed; one that now needs an entry of a full dirty log
waits for that instead. -/
def execHeldWriteRelease (d : Nat) (s : State) : Host.Outcome State Fault Refusal :=
  match s.heldNext d with
  | none => .next s
  | some k =>
    match s.held[k]? with
    | none => .next s
    | some h =>
      if s.logShort h.fn (s.heldParts h) then
        .next ({ s with held := putAt s.held k { h with log := true } }.dlogRecord h.fn)
      else .next (s.performHeld k)

/-- Writes held for the dirty log of function f are performed while it has room; one that needs storage is then held for that. -/
def State.releaseLog (fuel : Nat) (s : State) (f : Nat) : State :=
  match fuel with
  | 0 => s
  | m + 1 =>
    match (upTo s.held.length).find? (fun k =>
        match s.held[k]? with
        | some h => h.log && h.fn == f && s.firstHeld k h
            && !(if h.parts.isEmpty then s.dlOn f && s.dlFull f else s.logShort f (s.heldParts h))
        | none => false) with
    | none => s
    | some k =>
      match s.held[k]? with
      | none => s
      | some h =>
        let short := s.heldLacks h
        if !short.isEmpty then
          State.releaseLog m (short.foldl State.askRound { s with held := putAt s.held k { h with log := false, since := s.time } }) f
        else State.releaseLog m (s.performHeld k) f

/-- A register of the dirty log changes, and held writes go on. -/
def State.setLog (s : State) (f off : Nat) (v : W64) : State :=
  let s1 := s.setReg f off v
  s1.releaseLog (s1.held.length + 1) f

/-- RECLIM of a die in the model's units. -/
def State.reclim (s : State) (d : Nat) : Nat := s.regN 0 (oRECLIM d) * usUnits

/-- A held write of a die whose limit has passed: its number. -/
def State.heldLate (s : State) (d : Nat) : Option Nat :=
  firstIdx (fun h => !h.log && h.onDie d && decide (s.time ≥ h.since + s.reclim d)) s.held

/-- A team parked for the storage of a Spire batch whose limit has passed. -/
def State.batchLate (s : State) (d : Nat) : Option Nat :=
  (s.teams.find? (fun t => t.2.st == .parked && t.2.cause == .space && !s.ownHolds t.1 && homeDie t.2.arg.toNat == d
    && decide (s.time ≥ t.2.quotaAt + s.reclim d))).map (fun t => t.1)

/-- A push held for space whose expiry has not been logged: its number. -/
def State.pushLate (s : State) (d : Nat) : Option Nat :=
  firstIdx (fun r => r.kind == 0 && r.hold == .space && (match r.since with | some c => decide (s.time ≥ c + s.reclim d) | none => false)
    && (match (s.pushTry { r with hold := .none }).2 with | .wait .space a _ => homeDie a == d | _ => false)) s.qreqs

/-- XFAULT SPACE for a discarded store or atomic, at the boundary where its team parked; one trap for all the team's discarded writes, once
nothing of it is held any more. -/
def State.spaceTrap (s : State) (h : Held) (i : Nat) (pc : W64) (len : Nat) : State :=
  let t := s.team i
  let lane := match h.amo with | some a => a.lane | none => 0
  if t.st = .retired ∨ t.cause = .cancelledPending then s
  else
    let p : PendTrap := { cls := cXFAULT, sub := 3, pc := pc, ilen := len, lanes := [lane], key := h.addr / 256 * 256, off := 0 }
    (s.setTeam i { t.addPend (some p) with owes := none }).wakeHeld i

/-- A held write is discarded (R350). One of an L2 or of a record is logged, and stays held (22 R358; log entry 12). -/
def State.expireHeld (s : State) (k : Nat) : State :=
  match s.held[k]? with
  | none => s
  | some h =>
    let s0 := { s with held := dropAt s.held k }
    match h.writer with
    | .team i pc len =>
      let s1 := match h.amo with
        | some a =>
          let x := (Config.discardedAtomic s0.fresh).toNat
          (s0.useFresh).atomDone a.tag x (x == a.x.toNat) 0
        | none => s0
      s1.spaceTrap h i pc len
    | .copy _ _ => s0.afterHeld h 6
    | _ =>
      let a := BitVec.ofNat 64 (h.addr / 256 * 256)
      { s with held := putAt s.held k { h with since := s.time } }.logErr 4 (homeDie h.addr) h.fn (some a) none [a]

/-- HELD_WRITE_EXPIRY (R350): the first of a die whose limit has passed: a held write, a Spire batch's wait, a push, which stays held. -/
def execHeldWriteExpiry (d : Nat) (s : State) : Host.Outcome State Fault Refusal :=
  match s.heldLate d, s.batchLate d, s.pushLate d with
  | some k, _, _ => .next (s.expireHeld k)
  | none, some i, _ => .next (s.teamXfault (faultRec (s.team i).vf 1 0 true 0 0 0 0 0 (.team i)) i 3)
  | none, none, some k =>
    (match s.qreqs[k]? with
     | some r =>
       let a := match (s.pushTry { r with hold := .none }).2 with | .wait _ a _ => a | _ => 0
       .next ({ s with qreqs := putAt s.qreqs k { r with since := none } }.logErr 4 d r.vf (some (BitVec.ofNat 64 (a / 256 * 256))) none [BitVec.ofNat 64 (a / 256 * 256)])
     | none => .next s)
  | none, none, none => .next s

/-! Accesses by block, and discards (R345, R346). -/

/-- Bytes of the device memory space (R337). -/
def State.dmBytes (s : State) : Nat := fld (s.reg 0 oDMSPACE) 10 0 * 2 ^ 30

/-- The block's metadata entry becomes POISON, as its ECC finds an uncorrectable error; the event is logged, with the entry as read, which is
free (R344; log entry 74). It is DATA no more for QUSED (R342). -/
def State.poisonBlock (s : State) (f a : Nat) : State :=
  let s0 := { s with blk := SMap.put s.blk (a / 256) { st := .poison, value := 0, nc := false } Blk.fresh }
  let s1 := (if (s.blkOf a).st = .data then s0.addUsed a false else s0).clearLate (a / 256 * 256) (a / 256 * 256 + 256)
  (s1.dropLinesIn (a / 256 * 256) (a / 256 * 256 + 256)).logErr 2 (homeDie a) f (some (BitVec.ofNat 64 (a / 256 * 256))) none []

/-- BLOCK_ACCESS (R345): an access that reaches the home controller of a block. A device address outside the space does not exist; a
frame outside every window is never accessed. -/
def execBlockAccess (a : BlockAcc) (s : State) : Host.Outcome State Fault Refusal :=
  if a.addr ≥ s.dmBytes then .fault (.noSuchAddress a.addr)
  else if s.ownerOf a.addr ≠ some a.fn then .next s
  else
    let s0 := s.touchFrame a.addr
    if a.ecc then .next (s0.poisonBlock a.fn a.addr)
    else
      match a.bytes with
      | none => .next s0
      | some bs =>
        let ps : List Part := [{ sys := false, addr := a.addr, bytes := bs.take (256 - a.addr % 256), cmp := a.cmp }]
        let x := s0.storeParts a.fn ps false .l2 0 .put
        .next (match x.2 with
          | .done => x.1.wrote .l2 a.fn ps
          | .poison => x.1
          | .held => x.1.noteLogs s0.held.length)

/-- The device addresses of a discard, cut at the end of the window. -/
def State.discardRange (s : State) (f : Nat) (v : W64) : Nat × Nat :=
  let lo := fld v 51 16 * 65536
  let hi := min (lo + (fld v 15 0 + 1) * 65536) (s.regN f oDASIZE)
  (s.regN f oDABASE + lo, s.regN f oDABASE + max lo hi)

/-- A write already waiting on a block of a range goes before its discard. -/
def State.heldIn (s : State) (lo hi : Nat) : Bool :=
  s.held.any (fun h => (devParts h.parts).any (fun p => decide (lo ≤ p.addr) && decide (p.addr < hi)))

/-- Dies whose pools lack the storage that the dirty log takes for a frame (R349). -/
def State.frameLacks (s : State) (f a : Nat) : List Nat := if s.dlNeeds f a then s.shortDies (s.logBlocks f [a]) else []

/-- The discard of the frame at `a` waits: for a write before it, or for room in the dirty log or storage for that (R343, R349). -/
def State.frameWaits (s : State) (f a : Nat) : Bool := s.heldIn a (a + 65536) || s.logWaits f a

/-- Frames of a range are discarded in ascending address as far as they can be: the state and the first frame not done. -/
def State.discardFrames (fuel : Nat) (s : State) (f lo hi : Nat) : State × Nat :=
  if !s.dlOn f && !s.heldIn lo hi then (((s.clearLate lo hi).dropLinesIn lo hi).zeroRange lo hi, hi)
  else
    match fuel with
    | 0 => (s, lo)
    | m + 1 =>
      if lo ≥ hi ∨ s.frameWaits f lo then (s, lo)
      else State.discardFrames m ((((s.dlAppend f lo).clearLate lo (lo + 65536)).dropLinesIn lo (lo + 65536)).zeroRange lo (lo + 65536)) f (lo + 65536) hi

/-- A DLOG record tells of a discard that waits for the dirty log; for storage the engine reclaims at once (R347). -/
def State.noteDiscard (s : State) (f a hi : Nat) : State :=
  if a ≥ hi ∨ s.heldIn a (a + 65536) then s
  else
    let s1 := (s.frameLacks f a).foldl State.askRound s
    if s.dlNeeds f a && s.dlFull f then s1.dlogRecord f else s1

/-- DISCARD (R346). -/
def execDiscard (s : State) : Host.Outcome State Fault Refusal :=
  let f := s.inp.fn
  let r := s.discardRange f s.inp.value
  .next ({ s with discards := s.discards ++ [(f, s.inp.value)] }.noteDiscard f r.1 r.2)

/-- DISCARD_COMPLETE is due: the first frame left of the function's first discard need not wait. -/
def State.discardReady (s : State) (f : Nat) : Bool :=
  match s.discards.find? (fun d => d.1 == f) with
  | none => false
  | some d => let r := s.discardRange f d.2; decide (r.1 ≥ r.2) || !s.frameWaits f r.1

/-- DISCARD_COMPLETE (R346): the frames are discarded, and DISDONE advances with the last of them. -/
def execDiscardComplete (f : Nat) (s : State) : Host.Outcome State Fault Refusal :=
  match firstIdx (fun (d : Nat × W64) => d.1 == f) s.discards with
  | none => .next s
  | some k =>
    if !s.discardReady f then .next s
    else
      match s.discards[k]? with
      | none => .next s
      | some d =>
        let r := s.discardRange f d.2
        let x := s.discardFrames 65537 f r.1 r.2
        if x.2 ≥ r.2 then .next ({ x.1 with discards := dropAt x.1.discards k }.addReg f oDISDONE 1)
        else
          let rest := BitVec.ofNat 64 ((x.2 - s.regN f oDABASE) / 65536 * 65536 + ((r.2 - x.2) / 65536 - 1))
          .next ({ x.1 with discards := putAt x.1.discards k (f, rest) }.noteDiscard f x.2 r.2)

/-! The ballooning engine (R347, R351, R352). -/

/-- DATA blocks of a die, in ascending storage block number. -/
def State.dataBlocks (s : State) (d : Nat) : List (Nat × Blk) :=
  sortBy (fun a b => decide (a.2.value.toNat < b.2.value.toNat))
    (s.blk.filter (fun b => b.2.st == .data && homeDie (256 * b.1) == d && (s.frameOf (256 * b.1)).slot.isNone))

def State.poolHigh (s : State) (d : Nat) : Nat := (s.watermarks d).2.2
def State.poolShort (s : State) (d : Nat) : Bool := decide (s.pool d < s.poolHigh d)

/-- Frames that pages pinned by ACTIVE teams lie in. -/
def State.pinnedFrames (s : State) : List Nat :=
  s.teams.flatMap (fun t => (s.pinned t.1).filterMap (fun va =>
    match s.peek t.2.vf va with | some (false, a) => some (a / 65536) | _ => none))

/-- The engine of a die reads a block through the die's L2 (22 R354), with lines of the grain that the block's entry in the filter has, else of 128
bytes. -/
def State.engineRead (s : State) (d a : Nat) : State :=
  match s.ownerOf a with
  | some f => s.touchEngine d { sys := false, addr := a, cls := 1, grain := 1, cmp := true, fn := f } 256 false
  | none => s

/-- Step 1: blocks with NC = 0 whose words are all equal become ZERO or CONST, those of pinned pages apart (05 R110). The conversion is a write of the
home, logged like any (R343): one whose entry the dirty log has no room for is left. -/
def State.recompact (s : State) (d : Nat) : State :=
  let pins := s.pinnedFrames
  (s.dataBlocks d).foldl (fun s0 b =>
    let a := 256 * b.1
    let f := (s0.ownerOf a).getD 0
    if !s0.poolShort d || b.2.nc || s0.blockHeld a || pins.contains (b.1 / 256) then s0
    else
      let s := s0.engineRead d a
      match uniformWord (readMem s.mem a 256) with
      | none => s
      | some w =>
        if s.dlNeeds f a && s.dlFull f then s
        else
        let s := s.dlAppend f a
        let nb : Blk := if w = 0 then { st := .zero, value := 0, nc := false } else { st := .const, value := w, nc := false }
        ({ s with blk := SMap.put s.blk b.1 nb Blk.fresh }.freeStorage d).addUsed (256 * b.1) false) s

/-- Step 2: BALLOON records go to the functions with frames on the die, one in each round. -/
def State.askBalloons (s : State) (d : Nat) : State :=
  let want := (s.poolHigh d - s.pool d + 255) / 256
  let fs := (upTo 64).filter (fun f => decide (s.regN f oDASIZE > 0))
  let used := (fs.map (fun f => s.regN f oQUSED)).sum
  let other := (upTo 4).any (fun e => e != d && (SMap.get s.rounds e Round.idle).waiting)
  fs.foldl (fun s f =>
    if other || !s.fsqOn f then s
    else s.addFault (faultRec f 6 0 false 0 0 0 (BitVec.ofNat 64 (if used = 0 then 0 else want * s.regN f oQUSED / used)) 0 .nobody)) s

/-- RECLAMATION_ROUND is due. -/
def State.roundDue (s : State) (d : Nat) : Bool :=
  let r := SMap.get s.rounds d Round.idle
  s.bel.stage == 9 && !r.waiting && s.poolShort d && (r.since == 0 || decide (s.time > r.since)) && (r.active || decide (s.pool d < (s.watermarks d).2.1))

/-- RECLAMATION_ROUND (R351): recompaction, then balloon requests. -/
def execReclamationRound (d : Nat) (s : State) : Host.Outcome State Fault Refusal :=
  if !s.roundDue d then .next s
  else
    let s1 := s.recompact d
    if !s1.poolShort d then .next { s1 with rounds := SMap.drop s1.rounds d }
    else
      let s2 := s1.askBalloons d
      .next { s2 with rounds := SMap.put s2.rounds d { active := true, waiting := true, since := s2.time } Round.idle }

/-- The wait on balloon drivers ends: BALWAIT has passed, or the pool is high enough. -/
def State.balwaitOver (s : State) (d : Nat) : Bool :=
  let r := SMap.get s.rounds d Round.idle
  r.waiting && (decide (s.time ≥ r.since + s.regN 0 (oBALWAIT d) * usUnits) || !s.poolShort d)

/-- The lowest free slot of the demotion region. -/
def State.demotionSlot (s : State) : Option Nat :=
  let used := s.frames.filterMap (fun e => e.2.slot)
  (upTo (used.length + 1)).find? (fun n => !used.contains n && decide ((n + 1) * 65536 ≤ s.regN 0 oDEMSIZE))

/-- Frame n is demoted to a slot: its DATA blocks are copied there and their storage freed. Its blocks are served from there since. -/
def State.demote (s : State) (n slot : Nat) : State :=
  let s1 := (s.blk.filter (fun b => b.2.st == .data && b.1 / 256 == n)).foldl (fun s0 b =>
    let s := s0.engineRead (n % 4) (256 * b.1)
    ({ s with sysmem := writeMem s.sysmem (s.regN 0 oDEMBASE + slot * 65536 + b.1 % 256 * 256) (readMem s.mem (256 * b.1) 256) }).freeStorage
      (homeDie (256 * b.1))) s
  { s1 with frames := SMap.put s1.frames n { s1.frameOf (65536 * n) with slot := some slot } Frame.fresh }

/-- Frames of a die with a DATA block or a set reference bit, in ascending number. -/
def State.sweepFrames (s : State) (d : Nat) : List Nat :=
  let ns := (s.blk.filter (fun b => b.2.st == .data)).map (fun b => b.1 / 256) ++ (s.frames.filter (fun e => e.2.ref)).map (fun e => e.1)
  sortBy (fun a b => decide (a < b)) ((ns.foldl (fun l n => if l.contains n then l else l ++ [n]) []).filter (fun n => n % 4 == d))

/-- Step 3: the sweep (R352). A frame without a DATA block has nothing to demote (log entry 23). -/
def State.sweep (s : State) (d : Nat) : State :=
  let pins := s.pinnedFrames
  (s.sweepFrames d).foldl (fun s n =>
    let f := s.frameOf (65536 * n)
    if !s.poolShort d then s
    else if f.ref then { s with frames := SMap.put s.frames n { f with ref := false } Frame.fresh }
    else if f.slot.isSome || pins.contains n || !s.blk.any (fun b => b.2.st == .data && b.1 / 256 == n) then s
    else match s.demotionSlot with
      | some k => s.demote n k
      | none => s) s

/-- BALWAIT_EXPIRY (R351, R352): demotion. -/
def execBalwaitExpiry (d : Nat) (s : State) : Host.Outcome State Fault Refusal :=
  if !s.balwaitOver d then .next s
  else
    let s1 := s.sweep d
    .next { s1 with rounds := SMap.put s1.rounds d { active := s1.poolShort d, waiting := false, since := s1.time } Round.idle }

/-- DATA blocks of a frame. -/
def State.frameData (s : State) (n : Nat) : List (Nat × Blk) := s.blk.filter (fun b => b.2.st == .data && b.1 / 256 == n)

/-- PROMOTION is due: the frame is demoted and referenced, the pool high, and no block of it would find the pool at its floor (R349; the frame's
blocks go together). -/
def State.promotionDue (s : State) (n : Nat) : Bool :=
  let f := s.frameOf (65536 * n)
  let d := n % 4
  f.slot.isSome && f.ref && !s.poolShort d && decide (s.pool d ≥ (s.watermarks d).1 + (s.frameData n).length)

/-- PROMOTION (R352): a storage block for each DATA block of the frame, with its bytes from the slot. -/
def execPromotion (n : Nat) (s : State) : Host.Outcome State Fault Refusal :=
  if !s.promotionDue n then .next s
  else
    let s1 := (s.frameData n).foldl (fun s0 b =>
      let s' := s0.engineRead (n % 4) (256 * b.1)
      ({ s' with mem := writeMem s'.mem (256 * b.1) (s.readDev (256 * b.1) 256),
                 blk := SMap.put s'.blk b.1 { b.2 with value := Config.freeStorage s'.fresh } Blk.fresh }.useFresh).takeStorage (n % 4)) s
    .next { s1 with frames := SMap.put s1.frames n { s1.frameOf (65536 * n) with slot := none } Frame.fresh }

end Sys2Proof.Machine
end

