-- ==== Sys2Proof/Machine/Coherence.lean ====
section
/-!
DEFINITION. Coherence among the dies and the host (22 R354–R369): the messages between L2s and home directories, the snoop filter, the
hub's CXL.cache agent and the host's side of shared device memory. What is modelled is the state of lines and the order of accesses; L2s and
homes share one image of memory (log entry 14), so a message carries no data of a grain but the fact that it does.
-/
namespace Sys2Proof.Machine

/-! Logical time (R359). -/

/-- LOGICAL_TIME_TICK is due: another 32 core clocks have passed. -/
def State.tickDue (s : State) : Bool := decide (s.clock.toNat ≥ 32 * (s.coh.ticks + 1))

/-- LOGICAL_TIME_TICK (R359): every LT advances by 1. -/
def execLogicalTimeTick (s : State) : Host.Outcome State Fault Refusal :=
  let s1 := (upTo Config.cores).foldl (fun s c => s.setLt c (s.lt c + 1)) s
  .next { s1 with coh := { s1.coh with ticks := s1.coh.ticks + 1 } }

/-! Lines. -/

/-- The key of a message's grain. -/
def msgKey (m : CohMsg) : Nat := lineKey m.sys m.grain
/-- The home of a grain: a die, or 4 for the hub (R368). -/
def msgHome (m : CohMsg) : Nat := if m.sys then 4 else homeDie m.grain

def State.dirAt (s : State) (k : Nat) : DirLine := SMap.get s.coh.dir k DirLine.absent
def State.setDir (s : State) (k : Nat) (x : DirLine) : State :=
  { s with coh := { s.coh with dir := SMap.put s.coh.dir k x DirLine.absent } }

/-- A die as a bit of a sharer set. -/
def dieBit (d : Nat) : BitVec 4 := (1 : BitVec 4) <<< d
def diesOf (b : BitVec 4) : List Nat := (upTo 4).filter (fun d => b.getLsbD d)

/-- The grain is PEND in the L2 of a die: the L2 has obtained it for a copy of one of its engines, which still owns bytes of it (R361). -/
def State.grainPend (s : State) (die : Nat) (sys : Bool) (grain size : Nat) : Bool :=
  let x := s.l2 die (lineKey sys grain)
  (x.st == .m || x.st == .e) && x.size == size && s.copies.any (fun c => dieOf c.core == die && s.ownsDev c sys grain size)

def State.hubLine (s : State) (a : Nat) : HubLine := SMap.get s.coh.hub (a / 64) HubLine.absent
def State.setHub (s : State) (a : Nat) (h : HubLine) : State :=
  { s with coh := { s.coh with hub := SMap.put s.coh.hub (a / 64) h HubLine.absent } }

/-! Lines of device memory that the host and peers hold (R369, 23 R374). The host bit of a grain is that one of its lines is held. -/

/-- The partner of a port: the host has two. -/
def hostPort (p : Nat) : Nat := if p < 2 then 0 else p
def State.hostsAt (s : State) (a : Nat) : List (Nat × Bool) := SMap.get s.coh.hosts (a / 64) []
/-- A partner holds the line at an address, or no more. -/
def State.setHost (s : State) (a p : Nat) (h : Option Bool) : State :=
  let rest := (s.hostsAt a).filter (fun e => e.1 != p)
  { s with coh := { s.coh with hosts := SMap.put s.coh.hosts (a / 64) (match h with | some x => rest ++ [(p, x)] | none => rest) [] } }
/-- Partners that hold a line of [a, a + n); with `excl`, only exclusively. -/
def State.hostPorts (s : State) (a n : Nat) (excl : Bool) : List Nat :=
  (upTo 8).filter (fun p => (cutRange 9 64 a n).any (fun e => (s.hostsAt e.1).any (fun h => h.1 == p && (!excl || h.2))))

/-! The network. -/

/-- A message that has been taken leaves the network. -/
def State.takeMsg (s : State) (i : Instr) : State := { s with coh := { s.coh with net := s.coh.net.erase i } }

/-- A Retry names the rejected request by its granted-state field (log entry 24). -/
def retryMark (k : ReqKind) : L2St := match k with | .rds => .i | .upg => .s | .rdx => .e | .own => .o | .amo => .m
def retryKind (x : L2St) : ReqKind := match x with | .i => .rds | .s => .upg | .e => .rdx | .o => .own | .m => .amo

/-- The rejection of a request, which is sent again 8 clocks later (R363, 05 R112). -/
def State.retryOf (s : State) (k : ReqKind) (m : CohMsg) : Instr :=
  .retry { m with grant := retryMark k, tries := m.tries + 1, again := s.clock.toNat + 8 }

/-- An earlier atomic of the same team on the grain is about to be sent again, and goes before this one (04 R81). -/
def State.behindOwn (s : State) (m : CohMsg) : Bool :=
  m.tag != 0 && s.coh.net.any (fun i =>
    match i with
    | .retry n => n.tag != 0 && decide (n.tag < m.tag) && n.core == m.core && n.slot == m.slot && msgKey n == msgKey m
    | _ => false)

/-- The requests of the network for a grain. -/
def State.contenders (s : State) (key : Nat) : List (ReqKind × CohMsg) :=
  s.coh.net.filterMap (fun i => match reqOf i with | some r => if msgKey r.2 = key ∧ !s.behindOwn r.2 then some r else none | none => none)

/-- The request for a grain whose fourth rejection has reserved the next service, on its way or about to be sent again (R363). -/
def State.reservedReq (s : State) (key : Nat) : Option Instr :=
  s.coh.net.find? (fun i =>
    match reqOf i, i with
    | some r, _ => msgKey r.2 == key && decide (r.2.tries ≥ 4)
    | none, .retry m => msgKey m == key && decide (m.tries ≥ 4)
    | _, _ => false)

/-- Among requests that meet at a home, the one it takes (R363): one with a reservation, else dies in rotation, then ascending core and slot, then
as they were sent. None while the reservation's request is still to come. -/
def State.winner (s : State) (m : CohMsg) : Option (ReqKind × CohMsg) :=
  match s.reservedReq (msgKey m) with
  | some i => reqOf i
  | none =>
    let rot := SMap.get s.coh.rot (msgHome m) 0
    leastBy (fun (r : ReqKind × CohMsg) => (((r.2.die + 4 - rot) % 4) * 1024 + r.2.core) * 1024 + r.2.slot) (s.contenders (msgKey m))

/-- A request for a grain is in progress at its home, or one for its super-line waits for an entry of the filter. -/
def State.inProgress (s : State) (m : CohMsg) : Bool :=
  s.coh.txns.any (fun t =>
    match reqOf t.req, t.next.bind reqOf with
    | some r, _ => t.grain == m.grain && r.2.sys == m.sys
    | none, some r => !m.sys && r.2.grain / 512 == m.grain / 512
    | none, none => t.req == .memrd && !m.sys && decide (t.grain < m.grain + m.size) && decide (m.grain < t.grain + 64))
/-- The back-invalidation of its super-line is in progress. -/
def State.biInProgress (s : State) (m : CohMsg) : Bool :=
  !m.sys && s.coh.txns.any (fun t => (match t.req with | .bi _ => true | _ => false) && t.grain == m.grain / 512 * 512)

/-! The snoop filter (R362). -/

/-- The set of a super-line (log entry 25). -/
def sfSet (line : Nat) : Nat := line % (Config.sfEntries / Config.sfWays)

/-- Keys of a super-line's grains in the directory. -/
def inLine (line k : Nat) : Bool := decide (k < 2 ^ 50) && k / 16 == line

/-- Dies that an entry names. -/
def State.lineDies (s : State) (line : Nat) : List Nat :=
  let ds := (s.coh.dir.filter (fun e => inLine line e.1)).flatMap (fun e =>
    (match e.2.st with | .em => [e.2.owner] | .os => [e.2.owner] | _ => []) ++ diesOf e.2.sharers)
  (upTo 4).filter (fun d => ds.contains d)

/-- The super-line's entry is the most recent; a new one keeps the grain of the request. -/
def State.sfTouch (s : State) (line home size : Nat) : State :=
  let e : SfEnt := { line := line, home := home,
                     size := match s.coh.sf.find? (fun e => e.line == line && e.home == home) with | some e => e.size | none => size }
  { s with coh := { s.coh with sf := s.coh.sf.filter (fun e => !(e.line == line && e.home == home)) ++ [e] } }

/-- What a request finds in the filter: its entry or a free one, an entry to evict, or a set whose entries are all in transactions. -/
inductive SfRoom where
  | ok
  | evict (e : SfEnt)
  | busy
  deriving DecidableEq, Repr

/-- The entry an allocation evicts is the least recent of a full set; one with a transaction in progress is passed over, and with none left the
request is rejected (log entry 25). -/
def State.sfRoom (s : State) (line home : Nat) : SfRoom :=
  if s.coh.sf.any (fun e => e.line == line && e.home == home) then .ok
  else
    let es := s.coh.sf.filter (fun e => e.home == home && sfSet e.line == sfSet line)
    if es.length < Config.sfWays then .ok
    else
      match es.find? (fun e => !s.coh.txns.any (fun t => t.grain / 512 == e.line)) with
      | some e => .evict e
      | none => .busy

/-- An entry is freed with the directory states of its grains. -/
def State.sfFree (s : State) (line home : Nat) : State :=
  let ks := (s.coh.dir.filter (fun d => inLine line d.1)).map (fun d => d.1)
  let s1 := { s with coh := { s.coh with sf := s.coh.sf.filter (fun e => !(e.line == line && e.home == home)) } }
  ks.foldl (fun s k => s.setDir k DirLine.absent) s1

/-! The tags of an L2 (R355, 23 R379). -/

/-- Grains of a super-line that a die's L2 holds. -/
def State.l2Grains (s : State) (die line : Nat) : List (Nat × L2Line) :=
  s.coh.l2.filter (fun e => e.1 / 2 ^ 52 == die && e.1 % 2 ^ 52 / 16 == line)

/-- A super-line is evicted: dirty grains go to their home with WB, clean ones go silently; no L1 of the die keeps them (R357, R359). -/
def State.evictLine (s : State) (die line : Nat) : State :=
  (s.l2Grains die line).foldl (fun s e =>
    let k := e.1 % 2 ^ 52
    let m := { cohRequest (decide (k ≥ 2 ^ 50)) die (96 + die) (k % 2 ^ 50 * 32) e.2.size e.2.colour with dirty := true }
    (if e.2.st = .m ∨ e.2.st = .o then s.sendMsg (.wb m) else s).loseGrain die k) s

/-- A grain of the super-line is PEND. -/
def State.linePend (s : State) (die line : Nat) : Bool :=
  (s.l2Grains die line).any (fun e => let k := e.1 % 2 ^ 52; s.grainPend die (decide (k ≥ 2 ^ 50)) (k % 2 ^ 50 * 32) e.2.size)

/-- Dirty grains of a super-line of device memory: (address, bytes). -/
def State.lineDirty (s : State) (die line : Nat) : List (Nat × Nat) :=
  ((s.l2Grains die line).filter (fun e => (e.2.st == .m || e.2.st == .o) && decide (e.1 % 2 ^ 52 < 2 ^ 50))).map (fun e => (e.1 % 2 ^ 52 * 32, e.2.size))

/-- A write-back of the super-line would be held: its grains stay dirty in the L2 (R358). -/
def State.lineLate (s : State) (die line : Nat) : Bool := (s.lineDirty die line).any (fun g => s.wbWaits g.1 g.2)
def State.writeLate (s : State) (die line : Nat) : State := (s.lineDirty die line).foldl (fun s g => s.writeBack g.1 g.2) s

/-- A tag for a super-line of function f in a die's L2: its own, a free way of those that f fills, or that of the least recently used line there,
which is evicted; one whose write-back is held, or with a grain in PEND, only where there is no other. -/
def State.tagRoom (s : State) (die line f : Nat) : State :=
  let n := s.l2Set die line f
  let l := (s.tagsAt n).filter (fun e => !(s.l2Grains die e.1).isEmpty)
  match l.find? (fun e => e.1 == line) with
  | some e => s.setTags n (l.filter (· != e) ++ [e])
  | none =>
    match (s.waysOf f).find? (fun w => !l.any (fun e => e.2 == w)) with
    | some w => s.setTags n (l ++ [(line, w)])
    | none =>
      let mine := l.filter (fun e => (s.waysOf f).contains e.2)
      let still := mine.filter (fun e => !s.linePend die e.1)
      let s1 := match still.head? with
        | some v => if s.lineLate die v.1 then s.writeLate die v.1 else s
        | none => s
      match (still.filter (fun e => !s.lineLate die e.1) ++ still ++ mine).head? with
      | some v => (s1.evictLine die v.1).setTags n (l.filter (· != v) ++ [(line, v.2)])
      | none => s

/-- A die's L2 takes a grain in a state, under the colour of its function. -/
def State.fillL2 (s : State) (die : Nat) (m : CohMsg) (st : L2St) : State :=
  let k := msgKey m
  let s1 := s.tagRoom die (k / 16) m.colour
  s1.setL2 die k { s1.l2 die k with st := st, size := m.size, colour := m.colour }

/-! The directory (R358). -/

/-- Snoops that a request causes: the owner, then the other sharers. -/
def snoopsFor (k : ReqKind) (m : CohMsg) (d : DirLine) : List Instr :=
  let self := if k = .amo then (msgHome m) else m.die
  let at_ := fun die => { m with die := die, grant := .i, dirty := false }
  let owner := match d.st with | .em => [d.owner] | .os => [d.owner] | _ => []
  let owners := owner.filter (· != self)
  let shares := (diesOf d.sharers).filter (fun x => x != self && !owner.contains x)
  match k with
  | .rds => owners.map (fun x => .snps (at_ x))
  | _ => owners.map (fun x => .snpx (at_ x)) ++ shares.map (fun x => .inv (at_ x))

/-- An event of the link that the device itself brings about, about the line at an address. -/
def linkEvent (i : Instr) (port die addr : Nat) : Instr × Input :=
  (i, { Input.none with link := { Input.none.link with port := port, die := die, addr := addr } })

/-- A line of a peer's memory (23 R373). -/
def peerLine (a : Nat) : Bool := nbit a 51

/-- The event that brings a line of system memory to a die: of host memory by CXL.cache (R368), of a peer's by CXL.mem (23 R375). -/
def lineEvent (excl : Bool) (die a : Nat) : Instr × Input :=
  if peerLine a then (.memrd, { Input.none with link := { Input.none.link with die := die, addr := a, excl := excl } })
  else linkEvent (if excl then .rdown else .rdshared) 0 die a

/-- The line of system memory that an event brings. -/
def lineBrought (e : Instr × Input) : Option Nat :=
  match e.1 with
  | .rdshared => some e.2.link.addr
  | .rdown => some e.2.link.addr
  | .memrd => if peerLine e.2.link.addr then some e.2.link.addr else none
  | _ => none

/-- Messages to the host and peers that a request causes: for device memory to those that hold its lines (R369), for system lines the lines that the hub
does not hold, or not owned (R368, 23 R375). -/
def State.hostNeeds (s : State) (k : ReqKind) (m : CohMsg) : List (Instr × Input) :=
  if m.sys then
    ((cutRange 9 64 m.grain m.size).filterMap (fun e =>
      let h := SMap.get s.coh.hub (e.1 / 64) HubLine.absent
      if k = .rds then (if h.dies = 0 ∧ !h.owned then some (lineEvent false m.die (e.1 / 64 * 64)) else none)
      else if h.owned then none else some (lineEvent true m.die (e.1 / 64 * 64))))
  else
    (s.hostPorts m.grain m.size (k == .rds)).map (fun p => linkEvent (if k = .rds then .bisnpdata else .bisnpinv) p m.die m.grain)

/-- A message from a home to an L2. -/
def State.sendData (s : State) (m : CohMsg) (g : L2St) : State := s.sendMsg (.data { m with grant := g })

/-- The read-modify-write of a request that belongs to no instruction under way: old value and flag. -/
def State.plainAtomic (s : State) (m : CohMsg) : State × Nat × Bool :=
  let n := if tyWide m.ty then 8 else 4
  let t : Tr := { sys := m.sys, addr := m.addr, cls := 1, grain := 0, cmp := m.sys || !(s.blkOf m.addr).nc, fn := m.colour }
  let old := leNat (s.readTr t n).1
  if m.op = 8 ∧ old ≠ m.x.toNat then (s, old, false)
  else ((s.storeTr t (natLe n (amoNew m.op m.ty old m.x.toNat m.y.toNat)) false .l2 0).1, old, true)

/-- An instruction's atomic is performed at its home once every other copy is gone (R358); one that is held answers later (21 R349). -/
def State.homeAtomic (s : State) (a : Atom) : State :=
  let h : HeldAmo := { opc := a.opc, op := a.op, f := a.f, lane := a.u.lane, x := a.u.x, y := a.u.y, tag := a.tag }
  let n := s.held.length
  let r := s.amoAt (.tab a.u.tr a.u.va) a.n h (.team a.team a.pc a.len)
  match r.2 with
  | .old x => r.1.atomDone a.tag x (x == a.u.x.toNat) 0
  | .bad sub => r.1.atomDone a.tag 0 false sub
  | .held => (r.1.noteLogs n).noteHeld a.team

/-- An AtomicReq is granted: the grain is M in its home's L2, or owned by the hub, and the atomic is performed there. A core of the home's die sees
the write in logical time (R359). -/
def State.grantAtomic (s : State) (m : CohMsg) : State :=
  let key := msgKey m
  let d := s.dirAt key
  let h := homeDie m.grain
  let s1 := if m.sys then s.setDir key { d with st := .i, owner := 0, sharers := 0 }
    else ((s.setDir key { d with st := .em, owner := h, sharers := 0, size := m.size }).fillL2 h m .m).engineWrite h false m.grain
  match s1.atoms.find? (fun a => a.tag == m.tag) with
  | some a =>
    s1.homeAtomic a |> (fun s => if !m.sys && dieOf a.core == h then s.setLt a.core (maxW (s.lt a.core) (s.l2 h key).wts) else s)
  | none =>
    let r := s1.plainAtomic m
    r.1.sendMsg (.atomicrsp { m with x := BitVec.ofNat 64 r.2.1, y := BitVec.ofNat 64 (bnat r.2.2) })

/-- The hub's filter names the die for the lines of a system grain (R368). -/
def State.nameDie (s : State) (m : CohMsg) : State :=
  if !m.sys then s
  else (cutRange 9 64 m.grain m.size).foldl (fun s e => let h := s.hubLine e.1; s.setHub e.1 { h with dies := h.dies ||| dieBit m.die }) s

/-- The grant of a request whose snoops are answered: the new directory state and the answer (R358). -/
def State.grantReq (s0 : State) (k : ReqKind) (m : CohMsg) : State :=
  let s := if k = .amo then s0 else s0.nameDie m
  let key := (msgKey m)
  let d := s.dirAt key
  match k with
  | .rds =>
    (match d.st with
     | .i => if !m.sys && !(s.hostPorts m.grain m.size false).isEmpty then (s.setDir key { d with st := .s, sharers := dieBit m.die, size := m.size }).sendData m .s
             else (s.setDir key { d with st := .em, owner := m.die, sharers := 0, size := m.size }).sendData m .e
     | .s => (s.setDir key { d with sharers := d.sharers ||| dieBit m.die }).sendData m .s
     | .os => (s.setDir key { d with sharers := d.sharers ||| dieBit m.die }).sendData m .s
     | .em => (s.setDir key { d with owner := m.die }).sendData m .e)
  | .amo => s.grantAtomic m
  | _ => (s.setDir key { d with st := .em, owner := m.die, sharers := 0, size := m.size }).sendData m .m

/-- The grains that a request is served as: where its super-line has an entry with another grain, the whole entry grains that it covers (R355). -/
def State.entryGrains (s : State) (k : ReqKind) (m : CohMsg) : List CohMsg :=
  match s.coh.sf.find? (fun e => !m.sys && e.line == m.grain / 512) with
  | none => [m]
  | some e =>
    if e.size = m.size then [m]
    else if k = .amo then [{ m with grain := m.addr / e.size * e.size, size := e.size }]
    else if e.size > m.size then [{ m with grain := m.grain / e.size * e.size, size := e.size }]
    else (upTo (m.size / e.size)).map (fun i => { m with grain := m.grain + i * e.size, size := e.size })

/-- The home takes a request for one of its grains: it answers, or sends the snoops that the request waits for. -/
def State.serveOne (s : State) (k : ReqKind) (m : CohMsg) : State :=
  if s.grainBad m.sys m.grain m.size then
    (match s.atoms.find? (fun a => a.tag == m.tag) with
     | some a => s.atomDone a.tag 0 false 1
     | none => s.sendMsg (.poison m))
  else if s.biInProgress m then s.sendMsg (s.retryOf k m)
  else if s.inProgress m then { s with coh := { s.coh with waiting := s.coh.waiting ++ [reqMsg k m] } }
  else
    let line := m.grain / 512
    match (if m.sys then .ok else s.sfRoom line (msgHome m)) with
    | .busy => s.sendMsg (s.retryOf k m)
    | .evict v =>
      let ds := s.lineDies v.line
      let colour := (s.ownerOf (v.line * 512)).getD 0
      let bi := fun die => { m with die := die, grain := v.line * 512, size := 512, sys := false, colour := colour, grant := .i, dirty := false, tag := 0 }
      let s0 := if ds.isEmpty then s.sfFree v.line v.home else s
      if ds.isEmpty then s0.sendMsg (reqMsg k m)
      else
        let s1 := ds.foldl (fun s d => s.sendMsg (.bi (bi d))) s0
        { s1 with coh := { s1.coh with txns := s1.coh.txns ++ [{ req := .bi (bi 0), grain := v.line * 512, waits := ds.length, next := some (reqMsg k m) }] } }
    | .ok =>
      let s0 := if m.sys then s else s.sfTouch line (msgHome m) m.size
      let snoops := snoopsFor k m (s0.dirAt (msgKey m))
      let host := s0.hostNeeds k m
      if snoops.isEmpty && host.isEmpty then s0.grantReq k m
      else
        let s1 := snoops.foldl State.sendMsg s0
        { s1 with agenda := host ++ s1.agenda,
                  coh := { s1.coh with txns := s1.coh.txns ++ [{ req := reqMsg k m, grain := m.grain, waits := snoops.length + host.length }] } }

/-- The home takes a request. -/
def State.serveReq (s : State) (k : ReqKind) (m : CohMsg) : State := (s.entryGrains k m).foldl (fun s m => s.serveOne k m) s

/-- Requests that waited for a transaction go on, in arrival order. -/
def State.wakeReqs (fuel : Nat) (s : State) : State :=
  match fuel with
  | 0 => s
  | n + 1 =>
    match firstIdx (fun i => match reqOf i with | some r => !s.inProgress r.2 && !s.biInProgress r.2 | none => false) s.coh.waiting with
    | none => s
    | some j =>
      match s.coh.waiting[j]? with
      | none => s
      | some i =>
        match reqOf i with
        | none => s
        | some r => State.wakeReqs n ({ s with coh := { s.coh with waiting := dropAt s.coh.waiting j } }.serveReq r.1 r.2)

/-- One answer of a transaction has come; with the last the request is granted, or the filter's entry freed. -/
def State.answered (s : State) (bi sys : Bool) (grain : Nat) : State :=
  let is := fun (t : Txn) => t.grain == grain &&
    (match t.req with | .bi _ => bi | i => !bi && (match reqOf i with | some r => r.2.sys == sys | none => false))
  match firstIdx is s.coh.txns with
  | none => s
  | some j =>
    match s.coh.txns[j]? with
    | none => s
    | some t =>
      if t.waits > 1 then { s with coh := { s.coh with txns := putAt s.coh.txns j { t with waits := t.waits - 1 } } }
      else
        let s1 := { s with coh := { s.coh with txns := dropAt s.coh.txns j } }
        let s2 := match reqOf t.req, t.next.bind reqOf with
          | some r, _ => s1.grantReq r.1 r.2
          | none, some r => (s1.sfFree (grain / 512) (homeDie grain)).serveReq r.1 r.2
          | none, none => s1.sfFree (grain / 512) (homeDie grain)
        s2.wakeReqs (s2.coh.waiting.length + 1)

/-- A request reaches its home (R358, R363). One of the network is taken when it wins among those for its grain; the others are rejected, but for
those of the same core and slot, which come after it. -/
def State.arrive (s : State) (k : ReqKind) (m : CohMsg) : State :=
  let i := reqMsg k m
  if !s.coh.net.contains i then s.serveReq k m
  else if s.behindOwn m then s
  else
    match s.winner m with
    | none => (s.takeMsg i).sendMsg (s.retryOf k m)
    | some w =>
      if reqMsg w.1 w.2 ≠ i then s
      else
        let rest := (s.takeMsg i).coh.net
        let own := fun (r : CohMsg) => r.die == m.die && r.core == m.core && r.slot == m.slot
        let net := rest.map (fun j =>
          match reqOf j with
          | some r => if msgKey r.2 = msgKey m ∧ !own r.2 ∧ !s.behindOwn r.2 then s.retryOf r.1 r.2 else j
          | none => j)
        let tie := (s.contenders (msgKey m)).any (fun r => r.2.die != m.die)
        ({ s with coh := { s.coh with net := net,
                                      rot := if tie then SMap.put s.coh.rot (msgHome m) ((m.die + 1) % 4) 0 else s.coh.rot } }).serveReq k m

/-- RDS (R358). -/
def execRds (m : CohMsg) (s : State) : Host.Outcome State Fault Refusal := .next (s.arrive .rds m)
/-- RDX_MSG (R358). -/
def execRdxMsg (m : CohMsg) (s : State) : Host.Outcome State Fault Refusal := .next (s.arrive .rdx m)
/-- OWNND (R358, R361). -/
def execOwnnd (m : CohMsg) (s : State) : Host.Outcome State Fault Refusal := .next (s.arrive .own m)
/-- UPG (R358, R364). -/
def execUpg (m : CohMsg) (s : State) : Host.Outcome State Fault Refusal := .next (s.arrive .upg m)
/-- ATOMICREQ (R358). -/
def execAtomicreq (m : CohMsg) (s : State) : Host.Outcome State Fault Refusal := .next (s.arrive .amo m)

/-- WB (R358, R359, R364): an M or O grain is evicted; the home takes it whatever it has in progress, and writes its dirty sectors to memory, or holds
them for storage. The bytes are in the image already (log entry 14). -/
def execWb (m : CohMsg) (s : State) : Host.Outcome State Fault Refusal :=
  let s0 := s.takeMsg (.wb m)
  let x := s0.l2 m.die (msgKey m)
  let d := s0.dirAt (msgKey m)
  let own := (d.st == .em || d.st == .os) && d.owner == m.die
  let held := x.st == .m || x.st == .o
  let s1 := if held then s0.loseGrain m.die (msgKey m) else s0
  let s1 := if own && !m.sys then s1.writeBack m.grain m.size else s1
  .next (if own && (held || s.coh.net.contains (.wb m)) then s1.setDir (msgKey m) { d with st := if d.sharers = 0 then .i else .s, owner := 0 } else s1)

/-! Answers of an L2 (R357, R361, R365). -/

/-- The L2 of a die holds the grain under the colour of a probe. -/
def State.probed (s : State) (m : CohMsg) : Bool :=
  let x := s.l2 m.die (msgKey m)
  x.st != .i && x.colour == m.colour

/-- A snoop is answered with the state the grain had, or as absent. -/
def State.respond (s : State) (m : CohMsg) (old : L2St) : State :=
  s.sendMsg (.rsp { m with grant := old, dirty := old == .m || old == .o })

/-- A grant of bytes of the range is on its way to the die, ahead of a snoop. -/
def State.dataComing (s : State) (m : CohMsg) : Bool :=
  s.coh.net.any (fun i => match i with
    | .data d => d.die == m.die && d.sys == m.sys && decide (d.grain < m.grain + m.size) && decide (m.grain < d.grain + d.size)
    | _ => false)

/-- A snoop waits while its grain is PEND, a back-invalidation while one of the super-line is (R361, R364). -/
def State.snoopWaits (s : State) (m : CohMsg) : Bool := s.grainPend m.die m.sys m.grain m.size || s.dataComing m
def State.biWaits (s : State) (m : CohMsg) : Bool := s.linePend m.die (m.grain / 512) || s.dataComing m

/-- What SnpS leaves of a state (R357). -/
def snooped (x : L2St) : L2St := match x with | .m => .o | .e => .s | y => y

/-- SNPS (R357): M goes to O, E to S. -/
def execSnps (m : CohMsg) (s : State) : Host.Outcome State Fault Refusal :=
  if s.snoopWaits m then .next s
  else
    let s0 := s.takeMsg (.snps m)
    let x := s0.l2 m.die (msgKey m)
    if !s0.probed m then .next (s0.respond m .i)
    else .next ((s0.setL2 m.die (msgKey m) { x with st := snooped x.st }).respond m x.st)

/-- SNPX (R357): the owner goes to I. -/
def execSnpx (m : CohMsg) (s : State) : Host.Outcome State Fault Refusal :=
  if s.snoopWaits m then .next s
  else
    let s0 := s.takeMsg (.snpx m)
    let x := s0.l2 m.die (msgKey m)
    if !s0.probed m then .next (s0.respond m .i) else .next ((s0.loseGrain m.die (msgKey m)).respond m x.st)

/-- INV (R357): a sharer goes to I. -/
def execInv (m : CohMsg) (s : State) : Host.Outcome State Fault Refusal :=
  if s.snoopWaits m then .next s
  else
    let s0 := s.takeMsg (.inv m)
    let x := s0.l2 m.die (msgKey m)
    if !s0.probed m then .next (s0.respond m .i) else .next ((s0.loseGrain m.die (msgKey m)).respond m x.st)

/-- BI (R362): every grain of the super-line goes to I. -/
def execBi (m : CohMsg) (s : State) : Host.Outcome State Fault Refusal :=
  if s.biWaits m then .next s
  else
    let s0 := s.takeMsg (.bi m)
    let gs := s0.coh.l2.filter (fun e => e.1 / 2 ^ 52 == m.die && inLine (m.grain / 512) (e.1 % 2 ^ 52) && e.2.colour == m.colour)
    let dirty := gs.any (fun e => e.2.st == .m || e.2.st == .o)
    .next ((gs.foldl (fun s e => s.loseGrain m.die (e.1 % 2 ^ 52)) s0).respond m (if dirty then .m else .i))

/-- A read of the grain is in progress at its home. -/
def State.readsGrain (s : State) (m : CohMsg) : Bool :=
  s.coh.txns.any (fun t => t.grain == m.grain && (match t.req with | .rds r => r.sys == m.sys | _ => false))

/-- RSP (R357, R358): what a SnpS found decides between OS and S; the dirty data of a back-invalidation go to memory (R362). -/
def execRsp (m : CohMsg) (s : State) : Host.Outcome State Fault Refusal :=
  let s0 := s.takeMsg (.rsp m)
  if s0.biInProgress m ∧ m.size = 512 then
    .next ((if m.dirty then s0.writeBack (m.grain / 512 * 512) 512 else s0).answered true false (m.grain / 512 * 512))
  else
    let d := s0.dirAt (msgKey m)
    let reads := s0.readsGrain m
    let owner := (d.st == .em || d.st == .os) && d.owner == m.die
    let s1 :=
      if reads && owner then
        (match m.grant with
         | .m => s0.setDir (msgKey m) { d with st := .os }
         | .o => s0.setDir (msgKey m) { d with st := .os }
         | .i => s0.setDir (msgKey m) { d with st := .s, owner := 0 }
         | _ => s0.setDir (msgKey m) { d with st := .s, owner := 0, sharers := d.sharers ||| dieBit m.die })
      else s0
    .next (s1.answered false m.sys m.grain)

/-- The stores that wait for grains at a die's L2 go on (R359). -/
def State.goDie (s : State) (die : Nat) : State :=
  ((s.teams.filter (fun t => t.2.rest.isSome && dieOf t.2.core == die)).map (fun t => t.1)).foldl State.goOn s

/-- A directory entry that does not name a die any more. -/
def DirLine.without (d : DirLine) (die : Nat) : DirLine :=
  if (d.st == .em || d.st == .os) && d.owner == die then { d with st := if d.sharers = 0 then .i else .s, owner := 0 }
  else
    let left := d.sharers &&& ~~~(dieBit die)
    { d with sharers := left, st := if d.st = .s ∧ left = 0 then .i else d.st }

/-- The cores whose reads joined the die's request for a grain. -/
def State.joined (s : State) (k : Nat) : List Nat := (s.coh.merged.filter (fun e => e.1 == k)).map (fun e => e.2)
/-- The request for a grain has come to its end. -/
def State.endFill (s : State) (k : Nat) : State :=
  { s with coh := { s.coh with merged := s.coh.merged.filter (fun e => e.1 != k), voided := s.coh.voided.filter (· != k) } }

/-- DATA (R357, R359): the L2 holds the grain as granted; a read of the requesting core goes on under its lease, those of cores that joined it, and
stores that waited. A fill that a change of SLICEMASK met is dropped (23 R385). -/
def execData (m : CohMsg) (s : State) : Host.Outcome State Fault Refusal :=
  let k := dieKey m.die (msgKey m)
  let s0 := (s.takeMsg (.data m)).endFill k
  if s.coh.voided.contains k then .next ((s0.setDir (msgKey m) ((s0.dirAt (msgKey m)).without m.die)).goDie m.die)
  else
    let cores := (if m.core < Config.cores ∧ m.grant ≠ .m then [m.core] else []) ++ s.joined k
    .next ((cores.foldl (fun s c => s.leaseRead c m.die m.sys m.grain m.size) (s0.fillL2 m.die m m.grant)).goDie m.die)

/-- ECC recorded for the lanes of atomics of one instruction (08 R178). -/
def atomEcc (as : List Atom) : Option PendTrap :=
  match as with
  | [] => none
  | a :: _ =>
    some { cls := cECC, sub := match a.done with | some (_, _, n) => max n 1 | none => 1, pc := a.pc, ilen := a.len,
           lanes := if a.f.uni then [0] else as.map (fun b => b.u.lane), key := a.u.key, off := a.u.off }

/-- The registers that an atomic's result fills. -/
def Atom.dsts (a : Atom) : List Dst :=
  match a.done with
  | some (old, flag, _) => amoDsts a.opc a.f a.u.lane old flag
  | none => []

/-- The late reply of an instruction's atomics. -/
def State.atomReply (s : State) (a : Atom) (as : List Atom) : Reply :=
  { team := a.team, dsts := as.flatMap Atom.dsts, entry := some (a.core, (as.map (fun b => b.entries)).sum), completes := true,
    bytes := a.moved, set := 2, ins := a.ins,
    trap := atomEcc (as.filter (fun b => match b.done with | some (_, _, n) => n != 0 | none => false)),
    link := (upTo 8).filterMap (fun p => (atomEcc (as.filter (fun b => b.u.tr.sys && s.sysPort b.u.tr.addr == p))).map (fun x => (p, x))) }

/-- The result of an atomic has come back to its core. With the last of its instruction they are its late reply, or the end of one that answers
nothing (R357, 08 R172). -/
def State.atomBack (s : State) (tag : Nat) : State :=
  match s.atoms.find? (fun a => a.tag == tag && a.done.isSome) with
  | none => s
  | some a =>
    let s0 := { s with atoms := s.atoms.map (fun (b : Atom) => if b.tag = tag then { b with back := true } else b) }
    let own := s0.atoms.filter (fun b => b.ins == a.ins)
    if own.any (fun b => !b.back) then s0
    else
      let s1 := { s0 with atoms := s0.atoms.filter (fun b => b.ins != a.ins) }
      let r := s0.atomReply a own
      if a.opc = 0x105 ∨ a.opc = 0x1C4 then
        s1.setTeam a.team ((s1.team a.team).addPend r.trap)
      else { s1 with replies := s1.replies ++ [r] }

/-- ATOMICRSP (R357): the result has come; the old value reaches registers as the instruction's late reply. -/
def execAtomicrsp (m : CohMsg) (s : State) : Host.Outcome State Fault Refusal := .next ((s.takeMsg (.atomicrsp m)).atomBack m.tag)

/-- RETRY (R363): the request is sent again. -/
def execRetry (m : CohMsg) (s : State) : Host.Outcome State Fault Refusal :=
  .next ((s.takeMsg (.retry m)).sendMsg (reqMsg (retryKind m.grant) { m with grant := .i, again := 0 }))

/-- POISON (R356): the grain is not cached; an atomic on it takes ECC. -/
def execPoison (m : CohMsg) (s : State) : Host.Outcome State Fault Refusal :=
  let s0 := (s.takeMsg (.poison m)).endFill (dieKey m.die (msgKey m))
  .next (((if (s0.l2 m.die (msgKey m)).st = .i then s0 else s0.loseGrain m.die (msgKey m)).atomBack m.tag).goDie m.die)

/-! System lines (R368). -/

/-- System grains that hold a line: of 32, 128 and 512 bytes. -/
def sysGrains (a : Nat) : List (Nat × Nat) := [(a / 64 * 64, 32), (a / 64 * 64 + 32, 32), (a / 128 * 128, 128), (a / 512 * 512, 512)]

/-- The answer to every transaction that waits for a line of the host. -/
def State.lineCame (s : State) (a : Nat) : State :=
  match s.coh.txns.find? (fun t => match reqOf t.req with
      | some r => r.2.sys && decide (r.2.grain ≤ a / 64 * 64 + 63) && decide (a / 64 * 64 < r.2.grain + r.2.size) | none => false) with
  | some t => s.answered false true t.grain
  | none => s

/-- The hub holds a system line for a die: owned, or for a read. -/
def State.takeLine (s : State) (die a : Nat) (excl : Bool) : State :=
  let h := s.hubLine a
  (s.setHub a (if excl then { dies := h.dies ||| dieBit die, owned := true } else { h with dies := h.dies ||| dieBit die })).lineCame a

/-- RDSHARED (R368): the hub holds a host line for a die's read. -/
def execRdshared (s : State) : Host.Outcome State Fault Refusal := .next (s.takeLine s.inp.link.die s.inp.link.addr false)

/-- RDOWN (R368): the hub holds a host line owned. -/
def execRdown (s : State) : Host.Outcome State Fault Refusal := .next (s.takeLine s.inp.link.die s.inp.link.addr true)

/-- What the dies that hold a system line do with it: to S, to I, or only their L1s drop it. -/
def State.probeLine (s : State) (a : Nat) (f : Option L2St) : State :=
  (sysGrains a).foldl (fun s g =>
    let k := lineKey true g.1
    let held := (upTo 4).filter (fun d => (s.l2 d k).st != .i && (s.l2 d k).size == g.2)
    let s1 := held.foldl (fun s d =>
      let s1 := s.dropHolders d k
      match f with
      | some .i => s1.setL2 d k L2Line.absent
      | some x => s1.setL2 d k { s1.l2 d k with st := x, holders := 0 }
      | none => s1.setL2 d k { s1.l2 d k with holders := 0 }) s
    if held.isEmpty && (s1.dirAt k).size != g.2 then s1
    else match f with
      | some .i => s1.setDir k DirLine.absent
      | some _ => s1.setDir k (if held.isEmpty then DirLine.absent
          else { s1.dirAt k with st := .s, owner := 0, sharers := held.foldl (fun b d => b ||| dieBit d) 0 })
      | none => s1) s

/-- A message about a grain that holds a system line. -/
def aboutLine (a : Nat) (m : CohMsg) : Bool := m.sys && (sysGrains a).any (fun g => g.1 == m.grain && g.2 == m.size)

/-- Requests of the device for a system line that a host snoop meets are sent again after it (R364): those on their way, those that wait, and those
in progress, whose snoops and messages to the host are void; with `data`, those whose grants are on their way too. -/
def State.retryLine (s : State) (a : Nat) (data : Bool) : State :=
  let mine := fun (i : Instr) => match reqOf i with | some r => aboutLine a r.2 | none => false
  let void := fun (i : Instr) => match i with | .snps m => aboutLine a m | .snpx m => aboutLine a m | .inv m => aboutLine a m | .rsp m => aboutLine a m | _ => false
  let again := fun (i : Instr) => match reqOf i, i with
    | some r, _ => s.retryOf r.1 r.2
    | none, .data m => s.retryOf (if m.grant = .m then .rdx else .rds) m
    | none, _ => i
  let granted := fun (i : Instr) => match i with | .data m => data && aboutLine a m | _ => false
  let run := s.coh.txns.filter (fun t => mine t.req)
  let lost := fun (e : Instr × Input) => match lineBrought e with
    | some a => run.any (fun t => match reqOf t.req with | some r => decide (r.2.grain ≤ a) && decide (a < r.2.grain + max r.2.size 64) | none => false)
    | none => false
  { s with
    agenda := if run.isEmpty then s.agenda else s.agenda.filter (fun e => !lost e),
    coh := { s.coh with
      net := (s.coh.net.filter (fun i => run.isEmpty || !void i)).map (fun i => if mine i || granted i then again i else i)
        ++ (run.map (fun t => t.req) ++ s.coh.waiting.filter mine).map again,
      txns := s.coh.txns.filter (fun t => !mine t.req), waiting := s.coh.waiting.filter (fun i => !mine i) } }

/-- The hub gives a system line up. -/
def State.giveLine (s : State) (a : Nat) : State := (s.probeLine a (some .i)).setHub a HubLine.absent

/-- DIRTYEVICT (R368): the hub returns a host line with data. -/
def execDirtyevict (s : State) : Host.Outcome State Fault Refusal :=
  let a := s.inp.link.addr
  .next (if (s.hubLine a).owned then s.giveLine a else s)

/-- CLEANEVICT (R368). -/
def execCleanevict (s : State) : Host.Outcome State Fault Refusal :=
  let a := s.inp.link.addr
  .next (if (s.hubLine a).owned then s else s.giveLine a)

/-- An event about a line that a copy still owns waits for it (R361). -/
def State.hostWaits (s : State) (sys : Bool) (a : Nat) : Bool :=
  (upTo 4).any (fun d => (sysGrains a).any (fun g => s.grainPend d sys g.1 g.2))

/-- The current event from outside waits. -/
def State.defer (s : State) (i : Instr) : State := { s with deferred := s.deferred ++ [(i, s.inp)] }

/-- A snoop for data, which ownership does not survive. -/
def State.shareLine (s : State) (a : Nat) : State := ((s.probeLine a (some .s)).setHub a { s.hubLine a with owned := false }).retryLine a true

/-- A snoop that takes the line; its partner then writes bytes (log entry 26). -/
def State.loseLine (s : State) (a : Nat) (bs : List Byte) : State :=
  let s1 := (s.giveLine a).retryLine a true
  let bs := bs.take (64 - a % 64)
  { s1.loseLines true a bs.length with sysmem := writeMem s1.sysmem a bs }

/-- SNPDATA (R368): holders go to S and return dirty data. -/
def execSnpdata (s : State) : Host.Outcome State Fault Refusal :=
  let a := s.inp.link.addr
  if s.hostWaits true a then .next (s.defer .snpdata) else .next (s.shareLine a)

/-- SNPINV (R368): holders go to I; bytes that the host then writes come with the event (log entry 26). -/
def execSnpinv (s : State) : Host.Outcome State Fault Refusal :=
  let a := s.inp.link.addr
  if s.hostWaits true a then .next (s.defer .snpinv) else .next (s.loseLine a s.inp.link.bytes)

/-- SNPCUR (R368): data, with no change of state but the drop of L1 sectors. -/
def execSnpcur (s : State) : Host.Outcome State Fault Refusal :=
  let a := s.inp.link.addr
  if s.hostWaits true a then .next (s.defer .snpcur) else .next ((s.probeLine a none).retryLine a false)

/-! Device lines that the host holds (R369). -/

/-- The directory's keys of the grains that it knows of a device line. -/
def State.hostKeys (s : State) (a : Nat) : List Nat :=
  let l := a / 64 * 64
  let ks := [l, l + 32, a / 128 * 128, a / 512 * 512]
  let ks := ks.foldl (fun r k => if r.contains k then r else r ++ [k]) []
  let known := (ks.filter (fun g => (SMap.find s.coh.dir (lineKey false g)).isSome
    && decide (g + (s.dirAt (lineKey false g)).size > l))).map (lineKey false)
  known

/-- A transaction for the grain of a device line, or for a request of the host or a peer for it. -/
def txnOfLine (a : Nat) (t : Txn) : Bool :=
  match reqOf t.req with
  | some r => !r.2.sys && decide (r.2.grain ≤ a) && decide (a < r.2.grain + r.2.size)
  | none => t.req == .memrd && decide (t.grain ≤ a) && decide (a < t.grain + 64)

/-- What a back-invalidation of a line covers: the grain it is sent for. -/
def State.snoopRange (s : State) (a : Nat) : Nat × Nat :=
  match s.coh.txns.find? (txnOfLine a) with
  | some t => (match reqOf t.req with | some r => (r.2.grain, r.2.size) | none => (t.grain, 64))
  | none => (a / 64 * 64, 64)

/-- The partner of a port gives up the lines of a range, or only its sole ownership of them. -/
def State.giveHosts (s : State) (p a : Nat) (all : Bool) : State :=
  let r := s.snoopRange a
  (cutRange 9 64 r.1 r.2).foldl (fun s e => if (s.hostsAt e.1).any (fun h => h.1 == p) then s.setHost e.1 p (if all then none else some false) else s) s

/-- BISNPINV: of device memory, the port's partner is asked to give up a grain's lines, and holds none from then on (R369); of a line of a peer's memory,
its exporter's snoop in place of SNPINV (23 R375). -/
def execBisnpinv (s : State) : Host.Outcome State Fault Refusal :=
  let a := s.inp.link.addr
  if peerLine a then (if s.hostWaits true a then .next (s.defer .bisnpinv) else .next (s.loseLine a s.inp.link.bytes))
  else .next (s.giveHosts (hostPort s.inp.link.port) a true)

/-- BISNPDATA: of device memory, the port's partner is asked for the data of lines it holds exclusive (R369); of a line of a peer's memory, its
exporter's snoop in place of SNPDATA (23 R375). -/
def execBisnpdata (s : State) : Host.Outcome State Fault Refusal :=
  let a := s.inp.link.addr
  if peerLine a then (if s.hostWaits true a then .next (s.defer .bisnpdata) else .next (s.shareLine a))
  else .next (s.giveHosts (hostPort s.inp.link.port) a false)

/-- A write of the host or a peer to device memory, through the home (23 R375): block by block, with no copy left in the caches. -/
def State.linkStore (s : State) (da : Nat) (bs : List Byte) : State :=
  let m := s.held.length
  ((cutBytes 3 256 da bs).foldl (fun s e =>
    match s.ownerOf e.1 with
    | some f =>
      let x := s.storeBlock f e.1 e.2 (!(s.blkOf e.1).nc) false .l2 0
      if x.2 = .done then x.1.dropLinesIn e.1 (e.1 + e.2.length) else x.1
    | none => s) s).noteLogs m

/-- A partner has answered for a line that another one asks for; with the last answer the request can go on. -/
def State.hostAnswered (s : State) (line : Nat) : State :=
  match firstIdx (fun (t : Txn) => t.req == .memrd && t.grain == line) s.coh.txns with
  | none => s
  | some j =>
    match s.coh.txns[j]? with
    | none => s
    | some t =>
      if t.waits > 1 then { s with coh := { s.coh with txns := putAt s.coh.txns j { t with waits := t.waits - 1 } } }
      else { s with coh := { s.coh with txns := dropAt s.coh.txns j } }.wakeReqs (s.coh.waiting.length + 1)

/-- BIRSP (R369): the answer to a back-invalidation, with dirty data or none. -/
def execBirsp (s : State) : Host.Outcome State Fault Refusal :=
  let l := s.inp.link
  let s1 := if l.dirty then s.linkStore l.addr (l.bytes.take (64 - l.addr % 64)) else s
  match s1.coh.txns.find? (txnOfLine l.addr) with
  | some t => .next (if (reqOf t.req).isSome then s1.answered false false t.grain else s1.hostAnswered t.grain)
  | none => .next s1

end Sys2Proof.Machine
end

