-- ==== Sys2Proof/Machine/Link.lean ====
section
/-!
DEFINITION. The Springor link, peers and virtual devices (23 R370–R383): CXL.mem requests, flits and ports, TDISP, SPDM and peer
sessions. What the device answers is kept per partner (`State.doe`); the codes of its answers are the model's (log entry 28).
-/
namespace Sys2Proof.Machine

/-- The device's answer to a partner: 0 done, 1 refused or poison, with what it returns. -/
def State.answer (s : State) (k : Nat) (ws : List W64) : State := { s with doe := SMap.put s.doe k ws [] }

def State.setPort (s : State) (p : Nat) (x : Port) : State := { s with ports := SMap.put s.ports p x Port.down }
def State.setPeer (s : State) (p : Nat) (x : Peer) : State := { s with peers := SMap.put s.peers p x Peer.none }
def State.setTdisp (s : State) (f x : Nat) : State := { s with tdisp := SMap.put s.tdisp f x 0 }

/-! CXL.mem requests (R369, R374, R375). -/

/-- The function that the export of a port names, while the export is active (R374). -/
def State.exportOf (s : State) (p : Nat) : Option Nat :=
  let cfg := s.regN 0 (oEXPCFG p)
  let f := nfld cfg 5 0
  let lo := s.regN 0 (oEXPBASE p)
  let n := s.regN 0 (oEXPSIZE p)
  if nbit cfg 63 && decide (n > 0) && decide (s.regN f oDABASE ≤ lo) && decide (lo + n ≤ s.regN f oDABASE + s.regN f oDASIZE) then some f else none

/-- Flits of a port are sealed: a session is open in either direction (R383). -/
def State.sealedPort (s : State) (p : Nat) : Bool := (s.peer p).st == 2 || (s.peer p).export_.isSome

/-- The device address that a request of a port reaches, or poison. -/
def State.linkAddr (s : State) (l : LinkMsg) : Option Nat :=
  if l.port < 2 then (if (s.ownerOf l.addr).isSome then some l.addr else none)
  else
    match s.exportOf l.port with
    | none => none
    | some f =>
      if l.addr ≥ s.regN 0 (oEXPSIZE l.port) ∨ s.ifst f = 3
          ∨ (nbit (s.regN 0 (oEXPCFG l.port)) 8 ∧ !(l.sealed && s.sealedPort l.port)) then none
      else some (s.regN 0 (oEXPBASE l.port) + l.addr)

/-- A request to a line waits: a copy owns it, its home is at work on it, or a grant of it is on its way (22 R361, R369). -/
def State.homeBusy (s : State) (a : Nat) : Bool :=
  s.hostWaits false a
    || s.coh.txns.any (fun t => match t.req with | .bi _ => decide (t.grain ≤ a) && decide (a < t.grain + 512) | _ => txnOfLine a t)
    || (upTo 4).any (fun d => s.dataComing (cohRequest false d 0 (a / 64 * 64) 64 0))

/-- The home serves partner p as a fifth die (22 R369): dies that hold the line give it up, its dirty data written to memory, or, for a shared read,
their sole ownership. -/
def State.hostTakes (s : State) (a p : Nat) (excl : Bool) : State :=
  ((s.hostKeys a).foldl (fun s k =>
    let d := s.dirAt k
    if excl then
      ((upTo 4).foldl (fun s die => if (s.l2 die k).st = .i then s else s.loseGrain die k) (s.writeBack (k * 32) d.size)).setDir k
        { DirLine.absent with size := d.size }
    else
      let x := s.l2 d.owner k
      let owned := d.st == .em || d.st == .os
      let s1 := if owned then s.setL2 d.owner k { x with st := match x.st with | .m => .o | .e => .s | y => y } else s
      let d1 : DirLine :=
        if !owned then d
        else match x.st with
          | .m => { d with st := .os }
          | .o => { d with st := .os }
          | .i => { d with st := if d.sharers = 0 then .i else .s, owner := 0 }
          | _ => { d with st := .s, owner := 0, sharers := d.sharers ||| dieBit d.owner }
      s1.setDir k d1) s).setHost a p (some excl)

/-- Other partners that hold a line a request of partner p meets: any for a write or a read for ownership, else an exclusive one. -/
def State.otherHosts (s : State) (a p : Nat) (excl : Bool) : List Nat := (s.hostPorts (a / 64 * 64) 64 (!excl)).filter (fun q => q != p)

/-- The current request waits until the other partners have answered for its line (22 R369, 23 R374). -/
def State.askHosts (s : State) (i : Instr) (a : Nat) (ps : List Nat) (excl : Bool) : State :=
  let line := a / 64 * 64
  State.defer { s with agenda := ps.map (fun p => linkEvent (if excl then .bisnpinv else .bisnpdata) p 0 line) ++ s.agenda,
                       coh := { s.coh with txns := s.coh.txns ++ [{ req := .memrd, grain := line, waits := ps.length }] } } i

/-- MEMRD (R375): a read of a line by the host or a peer; of a peer's line, the hub's own read of it (log entry 114). -/
def execMemrd (s : State) : Host.Outcome State Fault Refusal :=
  let l := s.inp.link
  if peerLine l.addr then .next (s.takeLine l.die l.addr l.excl)
  else if !(s.port l.port).up then .next s
  else
    match s.linkAddr l with
    | none => .next (s.answer (256 + l.port) [1])
    | some a =>
      let p := hostPort l.port
      let others := s.otherHosts a p l.excl
      if s.homeBusy a then .next (s.defer .memrd)
      else if s.poisoned a then .next (s.answer (256 + l.port) [1])
      else if !others.isEmpty then .next (s.askHosts .memrd a others l.excl)
      else .next (((s.touchFrame a).hostTakes a p l.excl).answer (256 + l.port) (0 :: leWords 8 (s.readDev (a / 64 * 64) 64)))

/-- MEMWR (R375): a write to a line by the host or a peer; it keeps the line only as the message says (log entry 29). Of a peer's line,
the hub's return of it. -/
def execMemwr (s : State) : Host.Outcome State Fault Refusal :=
  let l := s.inp.link
  if peerLine l.addr then .next (if (s.hubLine l.addr).owned == l.dirty then s.giveLine l.addr else s)
  else if !(s.port l.port).up then .next s
  else
    match s.linkAddr l with
    | none => .next (s.answer (256 + l.port) [1])
    | some a =>
      let p := hostPort l.port
      let others := s.otherHosts a p true
      if s.homeBusy a then .next (s.defer .memwr)
      else if !others.isEmpty then .next (s.askHosts .memwr a others true)
      else
        .next ((((s.hostTakes a p true).setHost a p (if l.excl then some true else none)).linkStore a (l.bytes.take (64 - a % 64))).answer (256 + l.port) [0])

/-! Ports (R371–R373). -/

/-- A peer session closes: import and export of the link are unsealed again, and no session of the port is left to bind (R383). -/
def State.closeSession (s : State) (p : Nat) : State :=
  State.setPeer { s with sess := s.sess.filter (fun e => !(decide (2 ≤ p) && decide (e.1 < 32) && e.2.port == p)) } p
    { Peer.none with epoch := (s.peer p).epoch }

/-- A lane's destination takes 0 (08 R178). -/
def Dst.zeroed (d : Dst) (ls : List Nat) : Dst :=
  match d with
  | .v r l x => .v r l (if ls.contains l then 0 else x)
  | .s r _ => .s r 0
  | .p n l x => .p n l (x && !ls.contains l)
  | .q n _ => .q n false

/-- A reply whose data come through a port that goes down: a response of poison (R373). -/
def Reply.poisonedBy (r : Reply) (p : Nat) : Reply :=
  match r.link.find? (fun e => e.1 == p) with
  | none => r
  | some e => { r with dsts := r.dsts.map (fun d => d.zeroed e.2.lanes), trap := match r.trap with | some x => some x | none => some e.2,
                       link := [] }

/-- Requests for lines of a port end in poison: those in progress, those that wait, those on their way. -/
def State.dropLink (s : State) (p : Nat) : State :=
  let mine := fun (i : Instr) => match reqOf i with | some r => r.2.sys && s.sysPort r.2.grain == p | none => false
  let is := (s.coh.txns.map (fun t => t.req)).filter mine ++ s.coh.waiting.filter mine ++ s.coh.net.filter mine
  let s1 : State := { s with
    coh := { s.coh with txns := s.coh.txns.filter (fun t => !mine t.req), waiting := s.coh.waiting.filter (fun i => !mine i),
                        net := s.coh.net.filter (fun i => !mine i) },
    agenda := s.agenda.filter (fun e => match lineBrought e with | some a => s.sysPort a != p | none => true) }
  let s2 := is.foldl (fun s i =>
    match reqOf i with
    | some r => if r.2.tag = 0 then s.sendMsg (.poison r.2) else s.atomDone r.2.tag 0 false 1
    | none => s) s1
  s2.wakeReqs (s2.coh.waiting.length + 1)

/-- A unit goes through a port. -/
def State.unitAt (s : State) (p : Nat) (u : AUnit) : Bool :=
  (u.tr.sys && s.sysPort u.tr.addr == p) || (match u.sc with | some c => c.1.sys && s.sysPort c.1.addr == p | none => false)

/-- What of team i's instruction still waits at a port that goes down: its stores are discarded and logged, its reads end in poison (R373). -/
def State.cutRest (s : State) (p i : Nat) : State :=
  match (s.team i).rest with
  | none => s
  | some r =>
    let gone := (r.inside ++ r.out).filter (s.unitAt p)
    if gone.isEmpty then s
    else
      let t := s.team i
      let keep := fun (us : List AUnit) => us.filter (fun u => !s.unitAt p u)
      let s1 := s.setTeam i { t with rest := some { r with inside := keep r.inside, out := keep r.out } }
      let atomic := decide (0x104 ≤ r.opc) && decide (r.opc ≤ 0x106)
      let dsts := gone.flatMap (fun u => if atomic then amoDsts r.opc r.f u.lane 0 false else r.dsts (u, [], [], true))
      let s2 := if r.stores then gone.foldl (fun s _ => s.logErr 5 (dieOf t.core) t.vf none none [BitVec.ofNat 64 p]) s1
        else { s1 with replies := s1.replies ++ [{ team := i, dsts := dsts, entry := none, completes := true, bytes := r.moved,
                                                   set := if atomic then 2 else if r.opc = 0x109 then 5 else 0, trap := r.ecc gone, ins := r.ins }] }
      s2.goOn i

/-- A port goes down. -/
def State.portDown (s : State) (p : Nat) : State :=
  if !(s.port p).up then s.setPort p { s.port p with lanes := 0 }
  else
    let is := (s.teams.filter (fun t => t.2.rest.isSome)).map (fun t => t.1)
    let s1 := (is.foldl (fun s i => s.cutRest p i) (s.dropLink p)).closeSession p
    let s2 : State := { s1 with replies := s1.replies.map (fun r => r.poisonedBy p) }
    s2.setPort p { s2.port p with lanes := 0, up := false, fails := 0 }

/-- PORT_DOWN (R373). -/
def execPortDown (s : State) : Host.Outcome State Fault Refusal :=
  .next (if s.inp.num < 8 then s.portDown s.inp.num else s)

/-- Lanes that a port trains to, from the lanes that pass (R371). -/
def trainedLanes (pass : Nat) : Nat :=
  let group := fun (k : Nat) => pass / 2 ^ (8 * k) % 256 == 255
  if pass % 2 ^ 32 = 2 ^ 32 - 1 then 32
  else if (group 0 && group 1) || (group 2 && group 3) then 16
  else if group 0 || group 1 || group 2 || group 3 then 8
  else 0

/-- A port trains with the lanes that pass. -/
def State.train (s : State) (p pass : Nat) : State :=
  if trainedLanes pass = 0 then let s1 := s.portDown p; s1.setPort p { s1.port p with replays := 0 }
  else s.setPort p { lanes := trainedLanes pass, up := true, replays := 0, fails := 0 }

/-- PORT_TRAINING (R371): bits 31:0 of the input's value are the lanes that pass. -/
def execPortTraining (s : State) : Host.Outcome State Fault Refusal :=
  .next (if s.inp.num < 8 then s.train s.inp.num (fld s.inp.value 31 0) else s)

/-- The saturating count of replayed flits (R372). -/
def satInc (x : W32) : W32 := if x = 0xFFFFFFFF then x else x + 1

/-- FLIT (R371, R383). `fails` counts the failures of the present flit in a row: the first, then its failed replays, of which the
eighth takes the port down. -/
def execFlit (s : State) : Host.Outcome State Fault Refusal :=
  let p := s.inp.link.port
  let x := s.port p
  if !x.up then .next s
  else if !s.inp.ok then
    (if x.fails ≥ 8 then .next (s.portDown p) else .next (s.setPort p { x with fails := x.fails + 1, replays := satInc x.replays }))
  else
    let s1 := s.setPort p { x with fails := 0 }
    .next (if s.inp.link.sealed && s.sealedPort p && !s.inp.tag then s1.closeSession p else s1)

/-! TDISP (R381). -/

/-- A team of function f is live. -/
def State.fnLive (s : State) (f : Nat) : Bool := s.teams.any (fun t => t.2.vf == f && t.2.st != .retired)

/-- A descriptor of function f is started and incomplete. -/
def State.fnStarted (s : State) (f : Nat) : Bool := s.jobs.any (fun j => j.2.fn == f && j.2.phase == .started)

/-- The interface answers TDISP messages: a virtual function's, with the responder ready (24 R395). -/
def State.tdispOn (s : State) (f : Nat) : Bool := decide (1 ≤ f) && decide (f < 64) && decide (s.bel.stage ≥ 8)

/-- LOCK_INTERFACE_REQUEST. -/
def execLockInterfaceRequest (s : State) : Host.Outcome State Fault Refusal :=
  let f := s.inp.fn
  if !s.tdispOn f then .next s
  else if s.ifst f = 0 ∧ !s.fnLive f ∧ !s.fnStarted f then .next ((s.setTdisp f 1).answer f [0])
  else .next (s.answer f [1])

/-- START_INTERFACE_REQUEST. -/
def execStartInterfaceRequest (s : State) : Host.Outcome State Fault Refusal :=
  let f := s.inp.fn
  if !s.tdispOn f then .next s
  else if s.ifst f = 1 then .next ((s.setTdisp f 2).answer f [0])
  else .next (s.answer f [1])

/-- A function's started launches are cancelled, their teams under 19 R314 (log entry 30). -/
def State.cancelFunction (s : State) (f : Nat) : State :=
  (s.jobs.filter (fun j => j.2.fn == f && j.2.type == 0 && j.2.phase == .started && !j.2.ended)).foldl (fun s j => s.cancelJob j.1) s

/-- A write of a locked field moves the interface to ERROR. -/
def State.lockError (s : State) (f : Nat) : State := (s.setTdisp f 3).cancelFunction f

/-- Sessions bound to a function close (R385). -/
def State.closeBound (s : State) (f : Nat) : State :=
  (upTo 8).foldl (fun s p =>
    if ((s.peer p).st = 2 ∧ (s.peer p).fn = f) ∨ (s.peer p).export_ = some f then s.closeSession p else s) s

/-- Nothing of a function's teams is still to come. -/
def State.fnQuiet (s : State) (f : Nat) : Bool :=
  s.teams.all (fun t => t.2.vf != f || (t.2.st == .retired && s.awaited t.1 == 0 && !s.ownHolds t.1))

/-- INTERFACE_SCRUB: sessions close, the teams are cancelled, their late replies awaited, and the frames of the window from offset `o` on
discarded. Answers where to go on while it must wait. -/
def State.scrub (s : State) (f o : Nat) : State × Option Nat :=
  let s1 := (s.closeBound f).cancelFunction f
  if !s1.fnQuiet f then (s1, some o)
  else
    let hi := s1.regN f oDABASE + s1.regN f oDASIZE
    let x := s1.discardFrames (s1.regN f oDASIZE / 65536 + 1) f (s1.regN f oDABASE + o) hi
    if x.2 ≥ hi then (x.1, none) else (x.1.noteDiscard f x.2 hi, some (x.2 - s1.regN f oDABASE))

/-- The scrub of a function may go on. -/
def State.scrubReady (s : State) (f o : Nat) : Bool :=
  s.fnQuiet f && (decide (o ≥ s.regN f oDASIZE) || !s.frameWaits f (s.regN f oDABASE + o))

/-- The current event waits, to go on from `o`. -/
def State.deferAt (s : State) (i : Instr) (o : Nat) : State :=
  { s with deferred := s.deferred ++ [(i, { s.inp with low := BitVec.ofNat 64 o })] }

/-- STOP_INTERFACE_REQUEST. -/
def execStopInterfaceRequest (s : State) : Host.Outcome State Fault Refusal :=
  let f := s.inp.fn
  if !s.tdispOn f then .next s
  else
    let x := s.scrub f s.inp.low.toNat
    match x.2 with
    | some o => .next (x.1.deferAt .stopInterfaceRequest o)
    | none => .next ((x.1.setTdisp f 0).answer f [0])

/-- HV registers of every function's window, of the physical function's alone, and all locked fields of function f (R381). -/
def hvOffsets : List Nat :=
  [oCLRANGE, oDABASE, oDASIZE, oPQUOTA, oQLIMIT, oDLBASE, oDLHEAD, oDBMAP, oQRANGE, oGRANGE, oL2CFG, oSHARE, oSAVEB, oSAVEC, oSAVESZ]
def hvOffsets0 : List Nat :=
  (upTo 4).flatMap (fun d => [oPOOLHIGH d, oPOOLLOW d, oPOOLFLOOR d, oRECLIM d, oBALWAIT d]) ++ [oDEMBASE, oDEMSIZE, oDMSPACE, oVFSEL]
    ++ (upTo 6).flatMap (fun i => [oEXPBASE (i + 2), oEXPSIZE (i + 2), oEXPCFG (i + 2), oEXPCFG (i + 2) + 8])
def State.exportsOf (s : State) (f : Nat) : List Nat := ((upTo 6).map (fun i => i + 2)).filter (fun p => nfld (s.regN 0 (oEXPCFG p)) 5 0 == f)

/-- GET_DEVICE_INTERFACE_REPORT: the locked fields' values. -/
def execGetDeviceInterfaceReport (s : State) : Host.Outcome State Fault Refusal :=
  let f := s.inp.fn
  .next (if s.tdispOn f then s.answer f (0 :: (hvOffsets.map (s.reg f) ++ (s.exportsOf f).map (fun p => s.reg 0 (oEXPCFG p)))) else s)

/-- IFST (R377): the state, and the session bound to the function. -/
def State.ifstWord (s : State) (f : Nat) : W64 :=
  match (upTo 8).find? (fun p => (s.peer p).st == 2 && (s.peer p).fn == f) with
  | some p => BitVec.ofNat 64 (s.ifst f + 256 * (s.peer p).idx + 32768)
  | none => BitVec.ofNat 64 (s.ifst f)

/-- GET_DEVICE_INTERFACE_STATE: IFST. -/
def execGetDeviceInterfaceState (s : State) : Host.Outcome State Fault Refusal :=
  let f := s.inp.fn
  .next (if s.tdispOn f then s.answer f [0, s.ifstWord f] else s)

/-! The SPDM responder (R382, 24 R394). Sessions 0 to 31; negotiation with a port at 64 + port. -/

def State.session (s : State) (n : Nat) : Sess := SMap.get s.sess n Sess.none
def State.setSession (s : State) (n : Nat) (x : Sess) : State := { s with sess := SMap.put s.sess n x Sess.none }

/-- The responder hears a port's DOE mailbox. -/
def State.spdmOn (s : State) (p : Nat) : Bool := decide (p < 8) && (s.port p).up && decide (s.bel.stage ≥ 8)

/-- A requester is refused when it offers none of the four algorithms (log entry 31). -/
def offersAny (o : SpdmOffers) : Bool := o.sm2Sign || o.sm3 || o.sm2Dhe || o.sm4Gcm

/-- The lowest free session index, of 32. -/
def State.freeSession (s : State) : Option Nat :=
  (upTo 32).find? (fun n => (s.session n).st == 0 && !(upTo 8).any (fun p => (s.peer p).st == 2 && (s.peer p).idx == n))

/-- The certificate chain that the responder presents: of the device key, then of the alias key (24 R394). -/
def State.chain (s : State) : List W64 := Config.deviceCert ++ Config.aliasCert (Config.aliasKey s.bel.identity)

/-- ALGORITHM_NEGOTIATION: the answer presents the chain. -/
def execAlgorithmNegotiation (s : State) : Host.Outcome State Fault Refusal :=
  let p := s.inp.link.port
  if !s.spdmOn p then .next s
  else if offersAny s.inp.partner.offers then .next ((s.setSession (64 + p) { Sess.none with port := p, st := 1 }).answer (64 + p) (0 :: s.chain))
  else .next ((s.setSession (64 + p) Sess.none).answer (64 + p) [1])

/-- KEY_EXCHANGE: a session of a negotiated requester, while one of 32 is free. -/
def execKeyExchange (s : State) : Host.Outcome State Fault Refusal :=
  let p := s.inp.link.port
  if !s.spdmOn p then .next s
  else
    match (if (s.session (64 + p)).st = 1 then s.freeSession else none) with
    | none => .next (s.answer (64 + p) [1])
    | some n =>
      let share := Config.keyShare s.fresh
      .next (((s.setSession n { port := p, st := 2, share := s.inp.value ^^^ share, epoch := 0 }).answer (64 + p)
        [0, BitVec.ofNat 64 n, share]).useFresh)

/-- A message of session `num` arrives: it exists at one of the states given. -/
def State.sessionIn (s : State) (st : Nat) : Bool :=
  let x := s.session s.inp.num
  decide (s.inp.num < 32) && x.st == st && s.spdmOn x.port

/-- FINISH. -/
def execFinish (s : State) : Host.Outcome State Fault Refusal :=
  let n := s.inp.num
  let x := s.session n
  if !s.sessionIn 2 then .next (s.answer (128 + n % 32) [1])
  else if s.inp.value = Config.finishMac x.share then .next ((s.setSession n { x with st := 3 }).answer (128 + n) [0])
  else .next ((s.setSession n Sess.none).answer (128 + n) [1])

/-- HEARTBEAT. -/
def execHeartbeat (s : State) : Host.Outcome State Fault Refusal :=
  .next (s.answer (128 + s.inp.num % 32) [if s.sessionIn 3 then 0 else 1])

/-- KEY_UPDATE. -/
def execKeyUpdate (s : State) : Host.Outcome State Fault Refusal :=
  let n := s.inp.num
  let x := s.session n
  if s.sessionIn 3 then .next ((s.setSession n { x with epoch := x.epoch + 1 }).answer (128 + n) [0])
  else .next (s.answer (128 + n % 32) [1])

/-- END_SESSION: with the session that an export is bound to the peer session closes (R383). -/
def execEndSession (s : State) : Host.Outcome State Fault Refusal :=
  let n := s.inp.num
  let p := (s.session n).port
  if s.sessionIn 3 then
    let s1 := if (s.peer p).export_.isSome ∧ (s.peer p).exportIdx = n then s.closeSession p else s
    .next ((s1.setSession n Sess.none).answer (128 + n) [0])
  else .next (s.answer (128 + n % 32) [1])

/-- The 64-bit words of a digest. -/
def digestWords (x : Nat) : List W64 := (upTo 4).map (fun i => BitVec.ofNat 64 (x / 2 ^ (64 * i)))

/-- What a read of SESS returns. -/
def State.sessWord (s : State) (p : Nat) : W64 :=
  let x := s.peer p
  BitVec.ofNat 64 (x.st + 256 * x.fn + 65536 * x.idx)

/-- Every HV register with its place: function windows, then the Lantern assignments. -/
def State.hvRegisters (s : State) : List (Nat × W64) :=
  (upTo 64).flatMap (fun f => (hvOffsets ++ (if f = 0 then hvOffsets0 else [])).map (fun o =>
      (65536 * f + o, match (upTo 6).find? (fun p => f == 0 && o == oEXPCFG (p + 2) + 8) with | some p => s.sessWord (p + 2) | none => s.reg f o)))
    ++ (upTo 64).map (fun i => (2 ^ 23 + i, (SMap.get s.bel.lantasg i 0 : W64)))

/-- GET_MEASUREMENTS (24 R394): the four blocks. -/
def execGetMeasurements (s : State) : Host.Outcome State Fault Refusal :=
  let p := s.inp.link.port
  if !s.spdmOn p then .next s
  else .next (s.answer (64 + p) (0 :: (digestWords Config.romDigest ++ digestWords s.bel.running.digest.toNat
    ++ [BitVec.ofNat 64 s.bel.fuses] ++ digestWords (Config.hvDigest s.hvRegisters s.bel.fuses))))

/-! Peer sessions (R383). -/

/-- BIND: the partner's session is accepted by a sealed export whose function is RUN. -/
def execBind (s : State) : Host.Outcome State Fault Refusal :=
  let p := s.inp.link.port
  if !s.spdmOn p then .next s
  else
    match s.exportOf p with
    | some f =>
      (match (if nbit (s.regN 0 (oEXPCFG p)) 8 && s.ifst f == 2 then (upTo 32).find? (fun n => (s.session n).st == 3 && (s.session n).port == p) else none) with
       | some n => .next ((s.setPeer p { s.peer p with export_ := some f, exportIdx := n }).answer (64 + p) [0])
       | none => .next (s.answer (64 + p) [1]))
    | none => .next (s.answer (64 + p) [1])

/-- The requester's opening of a session of peer port p bound to function f comes to its end. -/
def State.openSession (s : State) (p f : Nat) : State :=
  let x := s.inp.partner
  let ok := s.ifst f == 2 && s.spdmOn p && offersAny x.offers && Config.chainValid x.chain && x.finished && x.bound
  match (if ok then s.freeSession else none) with
  | some n => s.setPeer p { s.peer p with st := 2, fn := f, idx := n }
  | none => s.setPeer p { s.peer p with st := 3, fn := f, idx := 0 }

/-- The requester begins to open a session: SESS reads 1 until its negotiation, which is the next thing that can happen, is over (log entry 80). -/
def State.beginSession (s : State) (p f : Nat) : State :=
  let s1 := s.setPeer p { s.peer p with st := 1, fn := f, idx := 0 }
  { s1 with deferred := s1.deferred ++ [(.sessionOpen, { s.inp with num := p, value := BitVec.ofNat 64 (256 * f + 1), low := 1, hv := true })] }

/-- A command written to SESS of peer port p: 1 open, 2 close, 3 key update. -/
def State.sessCommand (s : State) (p : Nat) (v : W64) : State :=
  if p < 2 ∨ p ≥ 8 then s
  else
    match fld v 1 0 with
    | 1 => s.beginSession p (fld v 13 8)
    | 2 => s.closeSession p
    | 3 => if (s.peer p).st = 2 then s.setPeer p { s.peer p with epoch := (s.peer p).epoch + 1 } else s
    | _ => s

/-- The current event carries hypervisor authority and names command `op` of SESS. -/
def State.sessEvent (s : State) (op : Nat) : State := if s.inp.hv then s.sessCommand s.inp.num (setFld s.inp.value 1 0 op) else s

/-- SESSION_OPEN: the opening begins, or, where it has begun, ends. -/
def execSessionOpen (s : State) : Host.Outcome State Fault Refusal :=
  .next (if s.inp.hv && s.inp.low == 1 then (if (s.peer s.inp.num).st = 1 then s.openSession s.inp.num (fld s.inp.value 13 8) else s) else s.sessEvent 1)
/-- SESSION_CLOSE. -/
def execSessionClose (s : State) : Host.Outcome State Fault Refusal := .next (s.sessEvent 2)
/-- SESSION_KEY_UPDATE. -/
def execSessionKeyUpdate (s : State) : Host.Outcome State Fault Refusal := .next (s.sessEvent 3)

end Sys2Proof.Machine
end

