-- ==== Sys2Proof/Machine/Belfry.lean ====
section
/-!
DEFINITION. The Belfry (24 R386–R396): firmware update, resets and bring-up, power states, sensors and the clock step, and the
host's side of the Lantern.
-/
namespace Sys2Proof.Machine

def State.setBel (s : State) (b : Belfry) : State := { s with bel := b }

/-! Bring-up (R395). -/

/-- The slot that the ROM boots: the pending image, else the running slot. -/
def Belfry.bootSlot (b : Belfry) : Nat := bnat (b.slot != b.pending)

/-- The last step completed by a bring-up from step `n`, if the outside lets it: an input that is not `ok` names the step that fails.
Step 2 needs a firmware image to boot. -/
def State.lastStep (s : State) (n : Nat) : Nat :=
  let k := if !s.inp.ok && decide (n ≤ s.inp.num) && decide (s.inp.num ≤ 9) then s.inp.num - 1 else 9
  if n ≤ 2 ∧ !(SMap.get s.bel.flash s.bel.bootSlot FwSlot.erased).valid then min k 1 else k

/-- Step 4: the pools and the reserves are full (log entry 32), every block ZERO. -/
def State.fillPools (s : State) : State :=
  { s with poolFree := (upTo 4).map (fun d => (d, Config.poolBlocks)), rsvFree := (upTo 4).map (fun d => (d, Config.reserveBlocks)) }

/-- All lanes of ports m to n − 1 pass (log entry 33). -/
def State.trainAll (s : State) (m n : Nat) : State := (upTo n).foldl (fun s p => if m ≤ p then s.train p (2 ^ 32 - 1) else s) s

/-- The ROM has booted a slot's firmware, and derives the device identity for it (R394). -/
def Belfry.boots (b : Belfry) (x : FwSlot) : Belfry :=
  { b with running := x, identity := Config.sm3 (natLe 32 Config.deviceSecret ++ natLe 32 x.digest.toNat) }

/-- What the boot of a pending image comes to (R393). -/
def Belfry.booted (b : Belfry) (ready : Bool) : Belfry :=
  if !b.pending then { b with newBoot := false }
  else if ready then { b with newBoot := true, bootFails := 0 }
  else if b.bootFails ≥ 2 then { b with newBoot := false, pending := false, bootFails := 0 }
  else { b with newBoot := false, bootFails := b.bootFails + 1 }

/-- KIND 7 details: old and new step of a clock that keeps its step. -/
def Belfry.sameStep (b : Belfry) : List W64 := [BitVec.ofNat 64 b.step, BitVec.ofNat 64 b.step]

/-- Bring-up from step n; a step that fails stops it and is logged. A ROM that has come to a slot counts as a boot (R393). -/
def State.bringUp (s : State) (n : Nat) : State :=
  let k := s.lastStep n
  let s1 := if n ≤ 4 ∧ 4 ≤ k then s.fillPools else s
  let s2 := if 6 ≤ k then s1.trainAll 0 2 else s1
  let s3 := if 7 ≤ k then s2.trainAll 2 8 else s2
  let b0 := if n ≤ 2 ∧ 2 ≤ k then s3.bel.boots (SMap.get s.bel.flash s.bel.bootSlot FwSlot.erased) else s3.bel
  let b := if n ≤ 2 ∧ 1 ≤ k then b0.booted (k == 9) else b0
  let s4 := s3.setBel { b with stage := k, failed := decide (k < 9), power := .d0, idleAt := s3.time }
  if k < 9 then s4.logErr 7 4 0 none none b.sameStep else s4

/-- What the flash keeps (R396): log, firmware, fuses. -/
def Belfry.flashOnly (b : Belfry) : Belfry :=
  { Belfry.reset with log := b.log, logtail := b.logtail, flash := b.flash, fuses := b.fuses, slot := b.slot, pending := b.pending,
                      bootFails := b.bootFails }

/-- The machine with all content lost but the Belfry's given, and what stands outside it; requests that wait are lost with it. -/
def State.lost (s : State) (b : Belfry) : State :=
  { State.reset with sysmem := s.sysmem, agenda := s.agenda, inp := s.inp, order := s.order, fresh := s.fresh, bel := b }

/-- COLD_RESET (R395). -/
def execColdReset (s : State) : Host.Outcome State Fault Refusal := .next ((s.lost s.bel.flashOnly).bringUp 1)

/-- The first bring-up after power-on is due. -/
def State.coldReady (s : State) : Bool := s.bel.stage == 0 && !s.bel.failed && !s.bel.busy && s.bel.power == .d0

/-- A command is turned away while another is in progress (R393). -/
def State.bcmdBusy (s : State) : State := s.setBel { s.bel with result := 1 }

/-- Every started launch is cancelled. -/
def State.cancelAll (s : State) : State :=
  (s.jobs.filter (fun j => j.2.type == 0 && j.2.phase == .started && !j.2.ended)).foldl (fun s j => s.cancelJob j.1) s

/-- A launch is to complete yet, with its DONE and its report (19 R307); one whose own access waits for a page is not waited for. -/
def State.launching (s : State) : Bool := s.jobs.any (fun j => j.2.type == 0 && j.2.phase == .started && !s.jobWaits j.1)

/-- A warm reset has cancelled the launches and waits for their teams to retire and for them to complete. -/
def State.warming (s : State) : Bool := s.bel.busy && s.bel.stage == 0 && s.inp.low == 1

/-- What a warm reset keeps: the flash, the Lantern assignments, and the readings of the sensors. -/
def Belfry.warmOnly (b : Belfry) : Belfry :=
  { b.flashOnly with
    lantasg := b.lantasg, sensor := b.sensor, warn := b.warn, powerAt := b.powerAt.map (fun _ => 0), crit := b.crit.map (fun e => (e.1, 0)) }

/-- WARM_RESET (R395): the launches are cancelled first; log and Lantern assignments stay. -/
def execWarmReset (s : State) : Host.Outcome State Fault Refusal :=
  if s.bel.busy && !s.warming then .next s.bcmdBusy
  else
    let s1 := if s.warming then s else s.cancelAll.setBel { s.bel with busy := true, stage := 0 }
    if s1.anyLive || s1.launching then .next (s1.deferAt .warmReset 1)
    else .next ((s1.lost s1.bel.warmOnly).bringUp 1)

/-- Front end and fabric registers of a function take their reset values. -/
def State.clearRegs (s : State) (f : Nat) : State :=
  { s with regs := s.regs.filter (fun r => let o := r.1 % 65536; !(r.1 / 65536 == f && (decide (o < 0x200) || (decide (0x800 ≤ o) && decide (o < 0x8A8))))) }

/-- FUNCTION_LEVEL_RESET (R395): the work of STOP_INTERFACE_REQUEST, then the registers. Records that wait for room go as R341 gives. -/
def execFunctionLevelReset (s : State) : Host.Outcome State Fault Refusal :=
  let f := s.inp.fn
  if f ≥ 64 then .next s
  else
    let x := s.scrub f s.inp.low.toNat
    match x.2 with
    | some o => .next (x.1.deferAt .functionLevelReset o)
    | none =>
      let s1 := (x.1.setTdisp f 0).clearRegs f
      .next (({ s1 with tails := s1.tails.filter (fun e => e.1 / 8 != f), feFail := s1.feFail.filter (fun e => e.1 / 8 != f),
                        feLines := s1.feLines.filter (fun e => e.1 / 16 != f) }).dropFaults s1.faults.length f)

/-! Firmware (R392, R393). -/

/-- The inactive slot's number, and what it holds. -/
def Belfry.spare (b : Belfry) : Nat := bnat (!b.slot)

/-- UPDATE (R393): the image at BARG is being read into the inactive slot, whose old content is gone. -/
def execUpdate (s : State) : Host.Outcome State Fault Refusal :=
  let b := s.bel
  if b.busy then .next s.bcmdBusy
  else .next (s.setBel { b with busy := true, pending := false, newBoot := false, bootFails := 0,
                                source := b.barg, flash := SMap.put b.flash b.spare FwSlot.erased FwSlot.erased })

/-! Fields of an image's header of 256 bytes: magic value, version, SVN, body length, digest (R392; their places: log entry 78). -/

def headerField (h : List Byte) (o n : Nat) : Nat := leNat ((h.drop o).take n)
def FwImage.magic (x : FwImage) : W32 := BitVec.ofNat 32 (headerField x.header 0 4)
def FwImage.version (x : FwImage) : W32 := BitVec.ofNat 32 (headerField x.header 4 4)
def FwImage.svn (x : FwImage) : Nat := headerField x.header 8 4
def FwImage.length (x : FwImage) : Nat := headerField x.header 12 4
def FwImage.digest (x : FwImage) : BitVec 256 := BitVec.ofNat 256 (headerField x.header 16 32)

/-- The bytes of an image that its signature covers. -/
def FwImage.bytes (x : FwImage) : List Byte := x.header ++ x.body

/-- Bytes of an image of n body bytes: header, signature of 64 bytes, body; a slot holds 16 MiB. -/
def imageSize (n : Nat) : Nat := 256 + 64 + n

/-- The image at a system address of host memory (R393): none where no host port takes it, the read fails, or the slot has no room for it. -/
def State.imageAt (s : State) (a : Nat) : Option FwImage :=
  let h := readMem s.sysmem a 256
  let n := headerField h 12 4
  if !s.inp.ok || decide (a ≥ 2 ^ 51) || !s.sysReach 0 a || decide (imageSize n > 2 ^ 24) then none
  else some { header := h, signature := leNat (readMem s.sysmem (a + 256) 64), body := readMem s.sysmem (a + 320) n }

/-- RESULT of verifying an image against the fuse counter (R392): 0, or 2 bad signature, 3 rollback, 4 read failed. -/
def verifyImage (x : Option FwImage) (fuses : Nat) : Nat :=
  match x with
  | none => 4
  | some i =>
    if i.magic ≠ 0x42465259 ∨ i.svn > 64 ∨ i.length ≠ i.body.length ∨ i.digest ≠ Config.sm3 i.body ∨ !Config.sm2Verify (Config.sm3 (FwImage.bytes i)) i.signature then 2
    else if i.svn < fuses then 3
    else 0

/-- UPDATE_READ_COMPLETE (R393): the image that BARG gave, if it could be read, is verified. -/
def execUpdateReadComplete (s : State) : Host.Outcome State Fault Refusal :=
  let b := s.bel
  if !b.busy || b.stage == 0 then .next s
  else
    let image := s.imageAt b.source.toNat
    let r := verifyImage image b.fuses
    let ver := match image with | some i => [BitVec.ofNat 64 i.version.toNat, BitVec.ofNat 64 i.svn] | none => []
    let s1 := s.logErr 8 4 0 none none (BitVec.ofNat 64 r :: ver)
    match image with
    | some i =>
      if r = 0 then
        .next (s1.setBel { s1.bel with busy := false, result := 0, pending := true,
                                       flash := SMap.put b.flash b.spare { valid := true, version := i.version, svn := i.svn, digest := i.digest } FwSlot.erased })
      else .next (s1.setBel { s1.bel with busy := false, result := r })
    | none => .next (s1.setBel { s1.bel with busy := false, result := r })

/-- COMMIT (R393): the newly booted slot becomes the running slot, and fuses are blown up to its SVN. -/
def execCommit (s : State) : Host.Outcome State Fault Refusal :=
  let b := s.bel
  if b.busy then .next s.bcmdBusy
  else if !b.newBoot || b.stage != 9 then .next (s.setBel { b with result := 5 })
  else
    let x := SMap.get b.flash b.spare FwSlot.erased
    let s1 := s.setBel { b with slot := !b.slot, newBoot := false, pending := false, result := 0, fuses := max b.fuses x.svn }
    .next (s1.logErr 8 4 0 none none [0, BitVec.ofNat 64 x.version.toNat, BitVec.ofNat 64 x.svn])

/-- A value written to BCMD: the command it issues. -/
def State.bcmd (v : W64) : Option Instr :=
  match v.toNat with
  | 1 => some .update
  | 2 => some .commit
  | 3 => some .warmReset
  | _ => none

/-! Power states (R396). -/

/-- What the L1s and L2s hold dirty is written to HBM. -/
def State.cleanCaches (s : State) : State :=
  let s1 := (s.coh.nc.map (fun e => e.1)).foldl (fun s k => s.flushSector (k / 2 ^ 52) (k % 2 ^ 52)) s
  (s1.coh.late.map (fun e => e.1)).foldl (fun s k => s.writeBack (32 * k) 32) s1

/-- D3HOT_ENTRY: once no launch is started; HBM contents stay, the tables' index regions among them, and the Belfry runs. -/
def execD3hotEntry (s : State) : Host.Outcome State Fault Refusal :=
  if (s.bel.power != .d0 && s.bel.power != .d0idle) || s.jobs.any (fun j => j.2.type == 0 && j.2.phase == .started) then .next s
  else
    let x := s.cleanCaches
    .next { x.lost { x.bel with power := .d3hot } with
                time := x.time, mem := x.mem, blk := x.blk, poolFree := x.poolFree, rsvFree := x.rsvFree, rsvLow := x.rsvLow,
                frames := x.frames, tables := x.tables, sess := x.sess, doe := x.doe }

/-- D3HOT_EXIT: bring-up from STAGE 5; a command in progress goes on. -/
def execD3hotExit (s : State) : Host.Outcome State Fault Refusal := .next (if s.bel.power = .d3hot then s.bringUp 5 else s)

/-- D3COLD: power is removed; only the flash stays. -/
def execD3cold (s : State) : Host.Outcome State Fault Refusal := .next (s.lost { s.bel.flashOnly with power := .d3cold })

def msUnits : Nat := 1000 * usUnits

/-- D0_IDLE_ENTRY is due: no live team for 1 ms. -/
def State.idleReady (s : State) : Bool := s.bel.power == .d0 && s.bel.stage == 9 && !s.anyLive && decide (s.time ≥ s.bel.idleAt + msUnits)

/-- D0_IDLE_ENTRY: the core clocks are gated. -/
def execD0IdleEntry (s : State) : Host.Outcome State Fault Refusal :=
  .next (if s.idleReady then s.setBel { s.bel with power := .d0idle } else s)

/-- D0_IDLE_EXIT is due: a team has become live. -/
def State.idleOver (s : State) : Bool := s.bel.power == .d0idle && s.anyLive

/-- D0_IDLE_EXIT. -/
def execD0IdleExit (s : State) : Host.Outcome State Fault Refusal := .next (if s.idleOver then s.setBel { s.bel with power := .d0 } else s)

/-! Sensors and the clock step (R390). -/

/-- A warning of sensor n holds at a reading; temperatures are signed. -/
def sensorWarns (n : Nat) (x : W32) : Bool :=
  if n ≤ 3 then decide (x.toInt ≥ 1050)
  else if n = 4 then decide (x.toInt ≥ 1000)
  else if n ≤ 16 then decide (x.toInt ≥ 950)
  else if n = 17 then decide (x.toNat < 48000) || decide (x.toNat > 60000)
  else if n = 18 then decide (x.toNat > 2700)
  else n == 19 && decide (x.toInt ≥ 400)

/-- Sensors whose warning steps the clock down; the others' warnings are logged. -/
def stepSensor (n : Nat) : Bool := decide (n ≤ 3) || n == 18

/-- The warning of a sensor holds; that of the input power once it has been above its bound for 1 ms. DEDUCED: "over 1 ms" and "over 100 µs" are read as
readings that stay above the bound for that time, since R390 defines no average (log entry 127; unsafe). -/
def State.warns (s : State) (n : Nat) : Bool :=
  if n = 18 then (match s.bel.powerAt with | some t => decide (s.time ≥ t + msUnits) | none => false) else SMap.get s.bel.warn n false
/-- A warning that steps down holds: the lowest sensor's. -/
def State.stepWarning (s : State) : Option Nat := [0, 1, 2, 3, 18].find? s.warns

/-- A reading of sensor n is critical; temperatures are signed. -/
def sensorCritical (n : Nat) (x : W32) : Bool :=
  if n ≤ 3 then decide (x.toInt ≥ 1150)
  else if n = 4 then decide (x.toInt ≥ 1100)
  else if n ≤ 16 then decide (x.toInt ≥ 1050)
  else if n = 17 then decide (x.toNat < 44000)
  else if n = 18 then decide (x.toNat > 3000)
  else n == 19 && decide (x.toInt ≥ 500)

/-- A reading of a sensor: it warns, or is critical, from now on where it did not before. -/
def State.setSensor (s : State) (n : Nat) (x : W32) : State :=
  let b := s.bel
  let w := sensorWarns n x
  s.setBel { b with
    sensor := SMap.put b.sensor n x 0, warn := if n = 18 then b.warn else SMap.put b.warn n w false,
    powerAt := if n = 18 then (if w then some (b.powerAt.getD s.time) else none) else b.powerAt,
    crit := if !sensorCritical n x then b.crit.filter (fun e => e.1 != n)
            else if b.crit.any (fun e => e.1 == n) then b.crit else b.crit ++ [(n, s.time)] }

/-- A sensor whose reading has been critical long enough: the input power for 100 µs. -/
def State.shutdownDue (s : State) : Option Nat :=
  (s.bel.crit.find? (fun e => decide (s.time ≥ e.2 + (if e.1 = 18 then 100 * usUnits else 0)))).map (fun e => e.1)

/-- SENSOR_WARNING: the reading crosses the threshold; the warning is logged where that is its action. The clock step has its own event. -/
def execSensorWarning (s : State) : Host.Outcome State Fault Refusal :=
  let n := s.inp.num
  let x := s.inp.value.setWidth 32
  if n ≥ 20 then .next s
  else
    let w := sensorWarns n x
    let s1 := s.setSensor n x
    .next (if w && !s.warns n && !stepSensor n then s1.logErr 7 4 0 (some (BitVec.ofNat 64 n)) (some (x.setWidth 64)) s.bel.sameStep else s1)

/-- SENSOR_WARNING_END: the reading is inside the threshold again. -/
def execSensorWarningEnd (s : State) : Host.Outcome State Fault Refusal :=
  let n := s.inp.num
  let x := s.inp.value.setWidth 32
  if n ≥ 20 then .next s
  else
    let s1 := s.setSensor n x
    .next (if s.stepWarning.isSome && s1.stepWarning.isNone then s1.setBel { s1.bel with warnAt := s1.time } else s1)

/-- The critical reading that shuts the device down: one that the event brings, or that has stood long enough. -/
def State.critical (s : State) : Option (Nat × W32) :=
  let x := s.inp.value.setWidth 32
  if sensorCritical s.inp.num x then some (s.inp.num, x) else s.shutdownDue.map (fun n => (n, SMap.get s.bel.sensor n 0))

/-- SHUTDOWN, at a critical reading: the cause is logged, every clock stops, the power stages turn off. -/
def execShutdown (s : State) : Host.Outcome State Fault Refusal :=
  match s.critical with
  | none => .next s
  | some (n, x) =>
    let s1 := (s.setSensor n x).logErr 7 4 0 (some (BitVec.ofNat 64 n)) (some (x.setWidth 64)) s.bel.sameStep
    .next (s1.setBel { s1.bel with power := .off })

/-- The clock takes a step, and the change is logged with the sensor that caused it, if one did. -/
def State.clockStep (s : State) (k : Nat) (n : Option Nat) (b : Belfry) : State :=
  (s.setBel { b with step := k }).logErr 7 4 0 (n.map (BitVec.ofNat 64)) (n.map (fun n => (SMap.get s.bel.sensor n (0 : W32)).setWidth 64))
    [BitVec.ofNat 64 s.bel.step, BitVec.ofNat 64 k]

/-- CLOCK_STEP_DOWN is due: a stepping warning holds and the last step down is a millisecond ago. -/
def State.stepDownReady (s : State) : Bool :=
  s.stepWarning.isSome && decide (s.bel.step < 4) && (s.bel.stepAt == 0 || decide (s.time ≥ s.bel.stepAt + msUnits))

/-- CLOCK_STEP_DOWN. -/
def execClockStepDown (s : State) : Host.Outcome State Fault Refusal :=
  .next (if s.stepDownReady then s.clockStep (s.bel.step + 1) s.stepWarning { s.bel with stepAt := s.time } else s)

/-- CLOCK_STEP_UP is due: no stepping warning for 10 ms, and input power below 2,550 W. -/
def State.stepUpReady (s : State) : Bool :=
  s.stepWarning.isNone && decide (s.bel.step > 0) && decide (s.time ≥ s.bel.warnAt + 10 * msUnits)
    && decide ((SMap.get s.bel.sensor 18 (0 : W32)).toNat < 2550)

/-- CLOCK_STEP_UP; the next step up is 10 ms later (log entry 34). -/
def execClockStepUp (s : State) : Host.Outcome State Fault Refusal :=
  .next (if s.stepUpReady then s.clockStep (s.bel.step - 1) none { s.bel with warnAt := s.time } else s)

/-! The Lantern, from the host's side (R389). -/

/-- LANTENT_HIGH_WRITE: both words are stored with FULL set while the entry is empty. -/
def execLantentHighWrite (s : State) : Host.Outcome State Fault Refusal :=
  .next (if s.inp.num < 64 then (s.lanternPut s.inp.num s.inp.low s.inp.value).1 else s)

/-- LANTENT_HIGH_READ: the high word is answered, and FULL is clear. -/
def execLantentHighRead (s : State) : Host.Outcome State Fault Refusal :=
  let n := s.inp.num
  if n ≥ 64 then .next s
  else
    let hi := s.lantern (2 * n + 1)
    .next ((s.setLantern (2 * n + 1) (hi &&& ~~~((1 : W64) <<< 63))).answer (320 + n) [hi])

/-- A Lantern entry is assigned, with hypervisor authority and no bit but EN and the function (R387). -/
def State.lantasg (s : State) (n : Nat) (v : W64) (hv : Bool) : State :=
  if n ≥ 64 ∨ !hv ∨ fld v 62 6 ≠ 0 then s
  else
    let hi := s.lantern (2 * n + 1)
    (s.setLantern (2 * n + 1) (hi &&& ~~~((1 : W64) <<< 63))).setBel
      { (s.setLantern (2 * n + 1) (hi &&& ~~~((1 : W64) <<< 63))).bel with lantasg := SMap.put s.bel.lantasg n v 0 }

/-- LANTASG_WRITE: FULL is cleared. -/
def execLantasgWrite (s : State) : Host.Outcome State Fault Refusal := .next (s.lantasg s.inp.num s.inp.value s.inp.hv)

/-! The Belfry window (R387, R388). -/

/-- BSTATUS. -/
def State.bstatus (s : State) : W64 :=
  let b := s.bel
  let ver := if b.stage < 2 then 0 else s.bel.running.version.toNat
  BitVec.ofNat 64 (ver * 2 ^ 32 + b.fuses * 2 ^ 24 + b.result * 2 ^ 12 + bnat b.busy * 2 ^ 11 + bnat b.pending * 2 ^ 10 + bnat b.slot * 2 ^ 9 + b.stage)

/-- Word i of the record LOGRD (R391). -/
def State.logData (s : State) (i : Nat) : W64 :=
  let n := s.bel.logrd.toNat
  if n < s.bel.logtail ∧ s.bel.logtail - n ≤ 65536 then (SMap.get s.bel.log (n % 65536) []).getD i 0 else 0

/-- What a read of the Belfry window returns. -/
def State.belRead (s : State) (o : Nat) : W64 :=
  if o % 8 ≠ 0 then 0
  else if o = 0x000 then s.bstatus
  else if o = 0x010 then s.bel.barg
  else if o = 0x018 then BitVec.ofNat 64 s.bel.logtail
  else if o = 0x020 then s.bel.logrd
  else if o = 0x028 then BitVec.ofNat 64 (s.bel.step + 65536 * ((SMap.get s.bel.sensor 18 (0 : W32)).toNat % 65536))
  else if 0x040 ≤ o ∧ o < 0x080 then s.logData ((o - 0x040) / 8)
  else if 0x100 ≤ o ∧ o < 0x300 then SMap.get s.bel.lantasg ((o - 0x100) / 8) 0
  else if 0x300 ≤ o ∧ o < 0x700 then s.lantern ((o - 0x300) / 8)
  else if 0x800 ≤ o ∧ o < 0x8A0 then
    BitVec.ofNat 64 ((SMap.get s.bel.sensor ((o - 0x800) / 8) (0 : W32)).toNat + 2 ^ 63 * bnat (s.warns ((o - 0x800) / 8)))
  else 0

end Sys2Proof.Machine
end

