-- ==== Sys2Proof/Machine/RegWrites.lean ====
section
/-!
DEFINITION. Writes and reads of the register windows by software (19 R300, R301, 21 R336, R337, R341, R347, 22 R366, 23 R372–R377, R379,
R381, R397, 24 R387). A write that a rule ignores changes nothing.
-/
namespace Sys2Proof.Machine

/-- An event performed by a write of a value to a register. -/
def State.via (s : State) (f n : Nat) (v : W64) (e : State → Host.Outcome State Fault Refusal) : State :=
  match e { s with inp := { s.inp with fn := f, num := n, value := v } } with
  | .next t => { t with inp := s.inp }
  | _ => s

/-- A multiple of u that fits in n bits (R397, 21 R328). -/
def okAddr (v : W64) (u n : Nat) : Bool := v.toNat % u == 0 && decide (v.toNat < 2 ^ n)

/-- The register takes the value where it may. -/
def State.setIf (s : State) (c : Bool) (f off : Nat) (v : W64) : State := if c then s.setReg f off v else s

/-- Only the bits of a mask. -/
def masked (v : W64) (m : Nat) : W64 := v &&& BitVec.ofNat 64 m

/-- What SHARE takes of a written value (R377, R397): SLICE as the nearer limit, an RLCLASS of 3 as C. -/
def shareTaken (v : W64) : W64 := BitVec.ofNat 64 (min 10000000 (max 50 (fld v 31 0)) + 2 ^ 32 * min 2 (fld v 33 32))

/-! Caches that a write must see empty first. -/

/-- Lines that satisfy a test leave every L1 and L2, written back; a dirty sector whose write-back is held stays. -/
def State.flushLines (s : State) (p : Nat → Bool) : State :=
  let out := fun (k : Nat) => !p (k % 2 ^ 52)
  let ks := (s.coh.dir.filter (fun e => p e.1)).map (fun e => e.1)
  let sf := ((s.coh.nc.filter (fun e => !out e.1)).map (fun e => e.1)).foldl (fun s k => s.flushSector (k / 2 ^ 52) (k % 2 ^ 52)) s
  let gs := (sf.coh.l2.filter (fun e => !out e.1 && decide (e.1 % 2 ^ 52 < 2 ^ 50))).map (fun e => (e.1 % 2 ^ 52 * 32, e.2.size))
  let s0 := gs.foldl (fun s g => s.writeBack g.1 g.2) sf
  let s1 := { s0 with coh := { s0.coh with l1 := s0.coh.l1.filter (fun e => out e.1), l2 := s0.coh.l2.filter (fun e => out e.1),
                                           nc := s0.coh.nc.filter (fun e => out e.1 || e.2.dirty != 0) } }
  ks.foldl (fun s k => let d := s.dirAt k; s.setDir k { d with st := .i, owner := 0, sharers := 0 }) s1

/-! Registers of the function's window. -/

/-- CLRANGE (R300): the clusters of placed and of saved blocks stay inside. -/
def State.writeClrange (s : State) (f : Nat) (v : W64) : State :=
  let lo := fld v 4 0
  let hi := fld v 12 8
  s.setIf (decide (lo ≤ hi) && decide (hi ≤ 23) && s.blocks.all (fun b =>
    b.2.vf != f || !s.blockLive b.1 || (decide (lo ≤ b.2.cluster) && decide (b.2.cluster ≤ hi)))) f oCLRANGE (masked v 0x1F1F)

/-- DABASE and DASIZE (R336, R337): frames that leave the window have no metadata any more, those that enter are ZERO (R344). -/
def State.writeWindow (s : State) (f : Nat) (lo n : Nat) : State :=
  let clash := (upTo 64).any (fun g => g != f && rangesMeet lo n (s.regN g oDABASE) (s.regN g oDASIZE))
  if lo % 2 ^ 30 ≠ 0 ∨ n % 2 ^ 30 ≠ 0 ∨ (n > 0 ∧ lo + n > s.dmBytes) ∨ clash then s
  else
    let a := s.regN f oDABASE
    let b := a + s.regN f oDASIZE
    let s1 := (s.zeroRange a (min b (max a lo))).zeroRange (max a (min b (lo + n))) b
    let s2 := (s1.zeroRange lo (min (lo + n) (max lo a))).zeroRange (max lo (min (lo + n) b)) (lo + n)
    (s2.setReg f oDABASE (BitVec.ofNat 64 lo)).setReg f oDASIZE (BitVec.ofNat 64 n)

/-- An operation of the function is outstanding (R341). -/
def State.fnBusy (s : State) (f : Nat) : Bool :=
  s.fnLive f || s.fnStarted f || s.copies.any (fun c => c.vf == f) || s.qreqs.any (fun r => r.vf == f) || s.batches.any (fun b => b.vf == f)
    || s.verdicts.any (fun v => v.batch.vf == f) || s.appends.any (fun a => a.fn == f) || s.faults.any (fun r => r.fn == f && r.waiter != .nobody)
    || s.groups.any (fun g => g.2.vf == f && (upTo 64).any (fun i => g.2.cancelled.getLsbD i && !g.2.released.getLsbD i))

/-- PTROOT (R336, R341). -/
def State.writePtroot (s : State) (f : Nat) (v : W64) : State :=
  let bad := fld v 63 52 ≠ 0 ∨ fld v 20 1 ≠ 0
  if bad ∨ (s.ptOn f && !v.getLsbD 0 && s.fnBusy f) then s else s.setReg f oPTROOT v

/-- LQCFG(q) (R300, R301). Enabling clears LQHEAD; descriptors consumed before count as of the old queue, and appends that wait are numbered
anew (log entry 35). -/
def State.writeLqcfg (s : State) (f q : Nat) (v : W64) : State :=
  let off := oLQCFG q
  if s.lqOn f q then (if v.getLsbD 31 then s else s.setReg f off (setFld (s.reg f off) 31 31 0))
  else if fld v 63 32 ≠ 0 ∨ fld v 30 5 ≠ 0 ∨ fld v 4 0 < 4 ∨ fld v 4 0 > 16 then s
  else
    let s1 := s.setReg f off v
    if !v.getLsbD 31 then s1
    else
      let s2 := s1.setReg f (oLQHEAD q) 0
      let s3 : State := { s2 with
        tails := SMap.drop s2.tails (feKey f q),
        jobs := s2.jobs.map (fun j => if j.2.fn = f ∧ j.2.level = q then (j.1, { j.2 with old := true }) else j),
        appends := s2.appends.map (fun a => if a.fn = f ∧ a.level = q then { a with num := none } else a) }
      s3.tryAppends 4096 f q

/-- RRCFG and RRHEAD (R308): held records are written while there is room. -/
def State.writeRr (s : State) (f off : Nat) (v : W64) : State :=
  let s1 := s.setReg f off v
  s1.drainReports (s1.reports.length + 1) f

/-- FSQCFG (R336, R341): clearing EN drops the records that wait for room. -/
def State.writeFsqcfg (s : State) (f : Nat) (v : W64) : State :=
  if fld v 4 0 < 6 ∨ fld v 4 0 > 16 then s
  else
    let s1 := s.setReg f oFSQCFG (masked v 0x8000001F)
    if v.getLsbD 31 then s1.drainFaults (s1.faults.length + 1) f
    else if s.fsqOn f then s1.dropFaults s1.faults.length f else s1

/-- FSQHEAD (R338). -/
def State.writeFsqhead (s : State) (f : Nat) (v : W64) : State :=
  let s1 := s.setReg f oFSQHEAD v
  s1.drainFaults (s1.faults.length + 1) f

/-- The device addresses of window n of a function, if it is enabled. -/
def State.ncwinAt (s : State) (f n : Nat) : Nat × Nat :=
  let w := s.regN f (oNCWIN n)
  let lo := s.regN f oDABASE + nfld w 51 21 * 2 ^ 21
  if nbit w 0 then (lo, lo + 2 ^ nfld w 6 1) else (0, 0)

/-- A write-back of the window's range is held. -/
def State.ncwinHeld (s : State) (f n : Nat) : Bool :=
  let r := s.ncwinAt f n
  s.held.any (fun h => (match h.op with | .wb => true | .flush _ _ => true | _ => false)
    && h.parts.any (fun p => !p.sys && decide (r.1 ≤ p.addr) && decide (p.addr < r.2)))

/-- Dirty bytes of a range are still to be written back. -/
def State.dirtyIn (s : State) (lo hi : Nat) : Bool :=
  !(s.lateIn lo hi).isEmpty || s.coh.nc.any (fun e => e.2.dirty != 0 && decide (lo ≤ e.1 % 2 ^ 52 * 32) && decide (e.1 % 2 ^ 52 * 32 < hi))

/-- A register write that waits for write-backs goes on as an event later. -/
def State.deferReg (s : State) (i : Instr) (f n : Nat) (v : W64) : State :=
  { s with deferred := s.deferred ++ [(i, { Input.none with fn := f, num := n, value := v, hv := true })] }

/-- NCWINn (R366): the old window's lines are written back and dropped first. A value out of its range is ignored (23 R397). -/
def State.writeNcwin (s : State) (f n : Nat) (v : W64) : State :=
  if fld v 63 52 ≠ 0 ∨ fld v 20 7 ≠ 0 ∨ fld v 6 1 < 21 ∨ fld v 6 1 > 40 ∨ (fld v 51 21 * 2 ^ 21) % 2 ^ fld v 6 1 ≠ 0 then s
  else
    let r := s.ncwinAt f n
    let s1 := s.flushLines (fun k => decide (r.1 ≤ 32 * k) && decide (32 * k < r.2))
    if s1.dirtyIn r.1 r.2 then s1.deferReg .ncwinWrite f n v else s1.setReg f (oNCWIN n) v

/-- A range of QRANGE or GRANGE (R377): within the device's and disjoint from the other functions'. -/
def State.rangeOk (s : State) (f off lo n top : Nat) (of : Nat → Nat × Nat) : Bool :=
  decide (n ≤ top) && decide (lo + n ≤ top) && (upTo 64).all (fun g => g == f || (let r := of (s.regN g off); !rangesMeet lo n r.1 r.2))

/-- QRANGE and GRANGE. -/
def State.writeQrange (s : State) (f : Nat) (v : W64) : State :=
  s.setIf (fld v 63 27 == 0 && fld v 15 10 == 0
    && s.rangeOk f oQRANGE (fld v 9 0) (fld v 26 16) 1024 (fun x => (nfld x 9 0, nfld x 26 16))) f oQRANGE v
def State.writeGrange (s : State) (f : Nat) (v : W64) : State :=
  s.setIf (fld v 63 29 == 0 && fld v 15 12 == 0
    && s.rangeOk f oGRANGE (fld v 11 0) (fld v 28 16) 4096 (fun x => (nfld x 11 0, nfld x 28 16))) f oGRANGE v

/-- Fills of a function that are in flight: keys of their grains. -/
def State.fillsOf (s : State) (f : Nat) : List Nat :=
  let fill := fun (i : Instr) => match i with
    | .rds m => some m | .rdxMsg m => some m | .ownnd m => some m | .upg m => some m | .data m => some m
    | .retry m => some m | _ => none
  (s.coh.net ++ s.coh.waiting ++ s.coh.txns.map (fun t => t.req) ++ s.coh.txns.filterMap (fun t => t.next)).filterMap (fun i =>
    match fill i with | some m => if m.colour = f ∧ m.tag = 0 then some (dieKey m.die (msgKey m)) else none | none => none)

/-- L2CFG (R379): a new SLICEMASK waits for every line of the function's colour to be written back and dropped; fills in flight are dropped as they
come (R385). -/
def State.writeL2cfg (s : State) (f : Nat) (v : W64) : State :=
  if fld v 31 16 ≠ 0 then s
  else if fld v 63 32 = fld (s.reg f oL2CFG) 63 32 then s.setReg f oL2CFG v
  else
    let ks := (s.coh.l2.filter (fun e => e.2.colour == f)).map (fun e => e.1 % 2 ^ 52)
    let s1 := s.flushLines (fun k => ks.contains k)
    let s2 := { s1 with coh := { s1.coh with voided := s1.fillsOf f ++ s1.coh.voided.filter (fun k => !(s1.fillsOf f).contains k) } }
    if s2.held.any (fun h => h.op == .wb && h.fn == f) then s2.deferReg .l2cfgWrite f 0 v else s2.setReg f oL2CFG v

/-- DMSPACE (R337). -/
def State.writeDmspace (s : State) (v : W64) : State :=
  let n := v.toNat
  s.setIf (decide (576 ≤ n) && decide (n ≤ 1152) && (upTo 64).all (fun f =>
    s.regN f oDASIZE == 0 || decide (s.regN f oDABASE + s.regN f oDASIZE ≤ n * 2 ^ 30))) 0 oDMSPACE v

/-- The peer port whose block holds an offset (R374), and the register of the block. -/
def peerReg (off : Nat) : Option (Nat × Nat) :=
  if 0xE40 ≤ off ∧ off < 0xF00 then some (2 + (off - 0xE40) / 32, (off - 0xE40) % 32) else none

/-- An engine whose pool stands at POOLHIGH by now has reclaimed enough, unless it waits for balloon drivers (21 R347). -/
def State.checkPools (s : State) : State :=
  { s with rounds := s.rounds.map (fun e => if e.2.active && !e.2.waiting && !s.poolShort e.1 then (e.1, { e.2 with active := false }) else e) }

/-- An HV register takes a value. -/
def State.writeHv (s : State) (f off : Nat) (v : W64) : State :=
  if off = oCLRANGE then s.writeClrange f v
  else if off = oDABASE then s.writeWindow f v.toNat (s.regN f oDASIZE)
  else if off = oDASIZE then s.writeWindow f (s.regN f oDABASE) v.toNat
  else if off = oPQUOTA then s.setQuota f v
  else if off = oDLHEAD then s.setLog f off v
  else if off = oDLBASE then (if fld v 14 1 = 0 ∧ v.toNat < 2 ^ 52 then s.setLog f off v else s)
  else if off = oDBMAP then s.setIf (okAddr v 256 52) f off v
  else if off = oQRANGE then s.writeQrange f v
  else if off = oGRANGE then s.writeGrange f v
  else if off = oL2CFG then s.writeL2cfg f v
  else if off = oSHARE then s.setIf (fld v 63 34 == 0) f off (shareTaken v)
  else if off = oSAVEB ∨ off = oSAVEC then s.setIf (okAddr v 65536 52) f off v
  else if off = oSAVESZ ∨ off = oDEMSIZE then s.setIf (okAddr v 65536 64) f off v
  else if off = oDEMBASE then s.setIf (okAddr v 65536 52) f off v
  else if off = oDMSPACE then s.writeDmspace v
  else if off = oVFSEL then s.setIf (decide (v.toNat < 64)) f off v
  else
    match peerReg off with
    | some (p, o) =>
      if o = 0 then s.setIf (okAddr v (2 ^ 30) 52) f off v
      else if o = 8 then s.setIf (okAddr v (2 ^ 30) 64) f off v
      else if o = 16 then s.setReg f off (masked v (2 ^ 63 + 0x13F))
      else s.sessCommand p v
    | none => (s.setReg f off v).checkPools

/-- A register that any software may write takes a value. -/
def State.writeRw (s : State) (f off : Nat) (v : W64) : State :=
  let q := (off - 0x100) / 0x20
  if off = oCTXBASE then s.setIf (okAddr v 65536 57 && !s.fnLive f) f off v
  else if off = oCTXSIZE then s.setIf (okAddr v 65536 64 && !s.fnLive f) f off v
  else if off = oRRBASE then s.setIf (okAddr v 256 57) f off v
  else if off = oRRCFG then (if 4 ≤ fld v 4 0 ∧ fld v 4 0 ≤ 16 then s.writeRr f off (masked v 0x8000001F) else s)
  else if off = oRRHEAD then s.writeRr f off v
  else if 0x100 ≤ off ∧ off < 0x200 then
    (match (off - 0x100) % 0x20 with
     | 0x00 => s.setIf (okAddr v 256 57 && !s.lqOn f q) f off v
     | 0x08 => s.setIf (okAddr v 8 57 && !s.lqOn f q) f off v
     | 0x10 => s.writeLqcfg f q v
     | _ => s)
  else if off = oPTROOT then s.writePtroot f v
  else if off = oINVADDR then s.setReg f off (masked v (2 ^ 57 - 2 ^ 16))
  else if off = 0x820 then s.via f 0 v execInvcmd
  else if off = oFSQBASE then s.setIf (okAddr v 4096 57) f off v
  else if off = oFSQCFG then s.writeFsqcfg f v
  else if off = oFSQHEAD then s.writeFsqhead f v
  else if off = 0x858 then s.via f 0 v execFsresolve
  else if off = 0x878 then s.via f 0 v execDiscard
  else if 0x900 ≤ off ∧ off < 0x980 then s.writeNcwin f ((off - 0x900) / 8) v
  else s

/-- The function whose locked interface a register belongs to (R381): its own window's, or the one that an EXPCFG names. -/
def State.lockOf (s : State) (f off : Nat) : Nat :=
  match peerReg off with
  | some (_, 16) => nfld (s.regN f off) 5 0
  | _ => f

/-- A write of offset `off` of function f's window below the alias, with or without hypervisor authority (R376, R381). -/
def State.writeOwn (s : State) (f off : Nat) (v : W64) (hv : Bool) : State :=
  if off % 8 ≠ 0 then s
  else if hvOffsets.contains off || (f == 0 && hvOffsets0.contains off) then
    (if !hv then s
     else
       match s.ifst (s.lockOf f off) with
       | 0 => s.writeHv f off v
       | 3 => s
       | _ => s.lockError (s.lockOf f off))
  else s.writeRw f off v

/-- A write of function f's window: the physical function's holds the alias (R376). No write through a virtual function's own window has
hypervisor authority (21 R336). -/
def State.writeWin (s : State) (f off : Nat) (v : W64) (hv : Bool) : State :=
  if 0x1000 ≤ off then (if f = 0 ∧ off < 0x2000 then s.writeOwn (s.regN 0 oVFSEL) (off - 0x1000) v true else s)
  else s.writeOwn f off v (hv && f == 0)

/-- What a read of function f's window below the alias returns: 0 where no register stands (R376). -/
def State.readOwn (s : State) (f off : Nat) : W64 :=
  if off % 8 ≠ 0 then 0
  else if off < 0x200 then (if off < 0x040 ∨ 0x100 ≤ off then s.reg f off else 0)
  else if 0x800 ≤ off ∧ off < 0x8A8 then (if off = 0x820 ∨ off = 0x858 ∨ off = 0x878 then 0 else s.reg f off)
  else if 0x900 ≤ off ∧ off < 0x980 then s.reg f off
  else if 0xA00 ≤ off ∧ off < 0xA38 then s.reg f off
  else if off = oIFST then s.ifstWord f
  else if f ≠ 0 then 0
  else if 0xC00 ≤ off ∧ off < 0xD00 then
    (match (off - 0xC00) % 0x40 with
     | 0x00 => BitVec.ofNat 64 (s.pool ((off - 0xC00) / 0x40))
     | 0x08 => BitVec.ofNat 64 (s.rsv ((off - 0xC00) / 0x40))
     | 0x38 => 0
     | _ => s.reg 0 off)
  else if 0xD00 ≤ off ∧ off < 0xD18 then s.reg 0 off
  else if 0xE00 ≤ off ∧ off < 0xE40 then
    let p := s.port ((off - 0xE00) / 8)
    BitVec.ofNat 64 (p.lanes + 2 ^ 8 * bnat p.up + 2 ^ 9 * bnat (decide (2 ≤ (off - 0xE00) / 8)) + 2 ^ 16 * p.replays.toNat)
  else if off = oVFSEL then s.reg 0 off
  else
    match peerReg off with
    | some (p, 24) => s.sessWord p
    | some _ => s.reg 0 off
    | none => 0

/-- What a read of function f's window returns. -/
def State.readWin (s : State) (f off : Nat) : W64 :=
  if 0x1000 ≤ off then (if f = 0 ∧ off < 0x2000 then s.readOwn (s.regN 0 oVFSEL) (off - 0x1000) else 0) else s.readOwn f off

/-- A write of the Belfry window (24 R387). The low word of a Lantern entry has no effect of its own (R389). -/
def State.writeBel (s : State) (off : Nat) (v low : W64) (hv : Bool) : State :=
  if off % 8 ≠ 0 then s
  else if off = 0x008 then
    (match State.bcmd v with
     | some .update => s.via 0 0 v execUpdate
     | some .commit => s.via 0 0 v execCommit
     | some .warmReset => s.via 0 0 v execWarmReset
     | _ => if s.bel.busy then s.bcmdBusy else s)
  else if off = 0x010 then s.setBel { s.bel with barg := v }
  else if off = 0x020 then s.setBel { s.bel with logrd := v }
  else if 0x100 ≤ off ∧ off < 0x300 then s.lantasg ((off - 0x100) / 8) v hv
  else if 0x300 ≤ off ∧ off < 0x700 ∧ off % 16 = 8 then (s.lanternPut ((off - 0x300) / 16) low v).1
  else s

/-! The events. -/

/-- A write of a register of the function the input names; one with hypervisor authority comes through the alias, or is the physical function's
own (R376). -/
def State.inputWrite (s : State) (off : Nat) : State := if s.inp.fn < 64 then s.writeOwn s.inp.fn off s.inp.value s.inp.hv else s

/-- PQUOTA_WRITE (21 R342). -/
def execPquotaWrite (s : State) : Host.Outcome State Fault Refusal := .next (s.inputWrite oPQUOTA)
/-- DLHEAD_WRITE (21 R343). -/
def execDlheadWrite (s : State) : Host.Outcome State Fault Refusal := .next (s.inputWrite oDLHEAD)
/-- LQCFG_WRITE (19 R300, R301). -/
def execLqcfgWrite (s : State) : Host.Outcome State Fault Refusal := .next (if s.inp.num < 8 then s.inputWrite (oLQCFG s.inp.num) else s)
/-- FSQCFG_WRITE (21 R341). -/
def execFsqcfgWrite (s : State) : Host.Outcome State Fault Refusal := .next (s.inputWrite oFSQCFG)
/-- FSQHEAD_WRITE (21 R338). -/
def execFsqheadWrite (s : State) : Host.Outcome State Fault Refusal := .next (s.inputWrite oFSQHEAD)
/-- RRHEAD_WRITE (19 R308). -/
def execRrheadWrite (s : State) : Host.Outcome State Fault Refusal := .next (s.inputWrite oRRHEAD)
/-- PTROOT_WRITE (21 R341). -/
def execPtrootWrite (s : State) : Host.Outcome State Fault Refusal := .next (s.inputWrite oPTROOT)
/-- NCWIN_WRITE (22 R366). -/
def execNcwinWrite (s : State) : Host.Outcome State Fault Refusal := .next (if s.inp.num < 16 then s.inputWrite (oNCWIN s.inp.num) else s)
/-- L2CFG_WRITE (23 R379). -/
def execL2cfgWrite (s : State) : Host.Outcome State Fault Refusal := .next (s.inputWrite oL2CFG)

/-- ALIAS_WRITE (23 R376): offset `offset` of the window of function VFSEL, with hypervisor authority. -/
def execAliasWrite (s : State) : Host.Outcome State Fault Refusal :=
  .next (if s.inp.offset < 0x1000 then s.writeWin 0 (0x1000 + s.inp.offset) s.inp.value true else s)

/-- REGISTER_WRITE (23 R376, R397, 24 R387). -/
def execRegisterWrite (s : State) : Host.Outcome State Fault Refusal :=
  match s.inp.window with
  | .fn f => .next (if f < 64 then s.writeWin f s.inp.offset s.inp.value s.inp.hv else s)
  | .belfry => .next (s.writeBel s.inp.offset s.inp.value s.inp.low s.inp.hv)

end Sys2Proof.Machine
end

