-- ==== Sys2Proof/Machine/Issue.lean ====
section
/-!
DEFINITION. Instruction boundaries (09 R192, R196): what is taken before an instruction, its fetch and register window (03 R47, 05 R105,
R110), what follows its completion (09 R187, R189, R201), and the Spire's verdict on a table instruction (12 R235).
-/
namespace Sys2Proof.Machine

/-! Before the instruction. -/

/-- Of the traps recorded for one boundary the one that is taken: the lowest class, of the lowest lane (R181). -/
def pendFirst (p : PendTrap) (ps : List PendTrap) : PendTrap :=
  let lane := fun (x : PendTrap) => x.lanes.foldl min 1024
  ps.foldl (fun a x => if x.cls < a.cls ∨ (x.cls = a.cls ∧ lane x < lane a) then x else a) p

/-- The class that each lane records: its lowest. -/
def pendCauses (ps : List PendTrap) : List (Nat × Nat) :=
  (ps.flatMap (fun p => p.lanes.map (fun l => (l, p.cls)))).foldl (fun cs e =>
    if cs.any (fun c => c.1 == e.1) then cs.map (fun c => if c.1 = e.1 then (c.1, min c.2 e.2) else c) else cs ++ [e]) []

/-- A recorded trap is taken at the boundary: TRAPPC is the next instruction, the entry's PC the one it concerns (R181). A step's
clears ARM and counts (R201). Several recorded traps are one (log entry 116). -/
def State.takePend (s : State) (i : Nat) (p0 : PendTrap) : State :=
  let t := s.team i
  let ps := p0 :: t.pendMore
  let p := pendFirst p0 t.pendMore
  let ctl := if p.steps then setFld (setFld t.stepctl 0 0 0) 63 32 (fld t.stepctl 63 32 + 1) else t.stepctl
  (s.setTeam i { t with pend := none, pendMore := [], stepctl := ctl }).takeTrap i
    { cls := p.cls, sub := p.sub, causes := pendCauses ps, pc := t.pc, ipc := p.pc, ilen := p.ilen, key := p.key, off := p.off }

/-- What team i does at its boundary instead of issuing, in the order of R196: cancellation, a recorded trap, a park, a debugger's halt of
its block (R202), the end of its skid; with an empty mask it waits for its retirement. -/
def State.boundary (s : State) (i : Nat) : Option State :=
  let t := s.team i
  if t.cancelPend then some (s.cancelNow i)
  else
    match t.pend, t.parkNext with
    | some p, _ => some (s.takePend i p)
    | none, some (c, a) => some ((s.setTeam i { t with parkNext := none }).park i c a)
    | none, none =>
      if (s.block t.block).debug then some (s.park i .debug 0)
      else
        match t.skid with
        | some k => if k.left = 0 then some (s.parkHalted i k.used) else if t.mask = 0 then some s else none
        | none => if t.mask = 0 then some s else none

/-- A page of the text is not resident: the executing team parks with a TEXT record, or takes XFAULT where no queue is enabled (R47, 21
R341). -/
def State.textPage (s : State) (va cause : Nat) : State :=
  let i := s.cur
  let t := s.team i
  if s.fsqOn t.vf then
    (s.park i .page (BitVec.ofNat 64 va)).addFault { faultRec t.vf 2 cause false 0 0 t.ctxbase 0 va (.team i) with lanes := [0] }
  else
    s.useFresh.takeTrap i { cls := cXFAULT, sub := 1, causes := [(0, cXFAULT)], pc := t.pc, ipc := t.pc, ilen := s.lenAt i, key := 0, off := 0 }

/-- A word of the text cannot be read: no permission, or POISON (log entry 38). -/
def State.textTrap (s : State) (cls sub : Nat) : State :=
  let t := s.team s.cur
  s.useFresh.takeTrap s.cur { cls := cls, sub := sub, causes := [(0, cls)], pc := t.pc, ipc := t.pc, ilen := s.lenAt s.cur, key := 0, off := 0 }

/-- A line of the window must be fetched: a register miss, which takes a miss-status entry (05 R112). -/
def State.missing (s : State) (i : Nat) (x : Ins) : Bool :=
  let t := s.team i
  (x.window t).any (fun e => !s.lineThere i e.1 e.2 && !x.fills t e.1 e.2)

/-- The executing team's next instruction, with its register window present; or what happens instead (R47, R66, R105). -/
def State.ready (s : State) : State × Option Instr :=
  let i := s.cur
  let t := s.team i
  if s.fetchWaits i then (s, none)
  else
  let x := s.fetch i
  match x.2 with
  | .page va c => (x.1.textPage va c, none)
  | .perm => (x.1.textTrap cPERM 2, none)
  | .poison => (x.1.textTrap cECC 1, none)
  | .ok w0 w1 w2 =>
    match decodeWords (t.limits x.1) w0 w1 w2 with
    | .bad e => (x.1.illegal (w0.toNat % 4) (illCode e), none)
    | .ok ins =>
      match insOf ins with
      | none => (x.1, some ins)
      | some y =>
        if y.accesses && x.1.polls i then (x.1, none)
        else
        let q := x.1.absentPage t.vf (t.windowVas (some y))
        match q.2 with
        | some e => (q.1.parkContext i e.1 e.2, none)
        | none =>
          if !q.1.missing i y then (q.1.fillWindow i y, some ins)
          else if q.1.mayEnter t.core i then ((q.1.entered i).fillWindow i y, some ins)
          else (q.1.reject i, none)

/-! After it. -/

/-- Register-cache errors that an instruction did not consume: in the lines its passes read, or overwritten unread (R189). -/
def Ins.unread (i : Ins) (t0 t1 : Team) : List Nat :=
  let ns := (i.srcRefs t0 0).filterMap (fun r => match r.1 with | .v n _ => some n | _ => none)
  let ws := (t0.lanes.map (fun l => l / 32))
  (t0.vBad.filter (fun e => e.2 && (SMap.find t1.vBad e.1 != some true || (ns.contains (e.1 / 1024) && ws.contains (e.1 % 1024 / 32))))).map
    (fun e => e.1)

/-- Each is logged with the team, the PC, the register and the lane. -/
def State.logUnread (s : State) (i : Nat) (x : Instr) (t0 : Team) : State :=
  match insOf x with
  | none => s
  | some y =>
    (y.unread t0 (s.team i)).foldl (fun s k =>
      s.logErr 1 (dieOf t0.core) t0.vf (some t0.ctxbase) (some t0.pc) [BitVec.ofNat 64 (k / 1024), BitVec.ofNat 64 (k % 1024)]) s

/-- One more instruction within the skid of a halted sibling, but for one issued before the decision (R187). With the last it parks, unless
its boundary has a trap or a park to take first (R196). -/
def State.countSkid (s : State) (i : Nat) : State :=
  let t := s.team i
  match t.skid with
  | none => s
  | some k =>
    let k' : Skid := if k.early then { k with early := false } else { k with left := k.left - 1, used := k.used + 1 }
    let s1 := s.setTeam i { t with skid := some k' }
    if k'.left = 0 ∧ t.st = .active ∧ t.pend.isNone ∧ t.parkNext.isNone ∧ t.rest.isNone ∧ !t.cancelPend then s1.parkHalted i k'.used else s1

/-- DEBUG STEP after the stepped instruction: at once, or at the boundary after a park (R201). -/
def State.stepTrap (s : State) (i : Nat) (t0 : Team) (len : Nat) : State :=
  let t := s.team i
  let p : PendTrap := { cls := cDEBUG, sub := 2, pc := t0.pc, ilen := len, lanes := [0], key := 0, off := 0 }
  let s1 := s.setTeam i { t with stepping := false }
  if t.st = .active ∧ t.pend.isNone ∧ t.rest.isNone ∧ !t.cancelPend then s1.takePend i p else s1.setTeam i ({ t with stepping := false }.addPend (some p))

/-- What follows an instruction of team i, which stood as `t0` before it: its destination lines are dirty; nothing else yet when it waits,
traps or parks unexecuted. A step's trap comes before the end of a skid (R196). DESIGN CHOICE: an instruction that traps is not one executed after RTE, so
that the freedom from watch ranges of the first (R198) outlives it and covers the handler's first (log entry 120; unsafe). -/
def State.completed (s : State) (i : Nat) (x : Instr) (t0 : Team) : State :=
  let s0 := (s.setTeam i { s.team i with age := max s.clock.toNat (s.team i).age }).dirtied i x t0
  let t1 := s0.team i
  if t1.icount = t0.icount then s0
  else
    let s1 := s0.logUnread i x t0
    let rte := match x with | .rte _ => t0.hmode && !t1.hmode | _ => false
    let s2 := s1.setTeam i { s1.team i with noWatch := rte }
    (if t0.stepping && !rte then s2.stepTrap i t0 (match insOf x with | some y => y.len | none => 0) else s2).countSkid i

/-! The Spire's verdict (12 R235, 11 R226). -/

/-- A withdrawn batch leaves its destinations as they were. -/
def Team.unmark (t : Team) (rs : List Ref) : Team :=
  rs.foldl (fun t r =>
    match r with
    | .v n l => { t with vE := SMap.drop t.vE (vkey n l) }
    | .s n => { t with sE := SMap.drop t.sE n }
    | .p n l => { t with pE := SMap.drop t.pE (vkey n l) }
    | .q n => { t with qE := SMap.drop t.qE n }) t

def Batch.ins (b : Batch) : Ins := { op := b.op, len := b.len, f := b.f }
/-- The key of a lane of the batch. -/
def Batch.keyOf (b : Batch) (l : Nat) : Nat := match b.lanes.find? (fun x => x.lane == l) with | some x => x.key | none => 0
def Batch.offOf (b : Batch) : Nat := if b.op = 0x162 then 0 else b.ins.offset

/-- A quota park of the executing team for lane l of a batch, or XFAULT QUOTA where no record can be written (21 R341, R342). -/
def State.quotaPark (s : State) (b : Batch) (l : Nat) : State :=
  let t := s.team s.cur
  let k := b.keyOf l
  if !s.fsqOn b.vf then s.trapFails b.ins [{ lane := l, cls := cXFAULT, sub := 2, key := k, off := b.offOf }]
  else
    let s1 := s.parkHere .quota (BitVec.ofNat 64 (b.slot * 2 ^ 57 + k % 2 ^ 57))
    let s2 := s1.setTeam s.cur { s1.team s.cur with quotaAt := s.time, quotaUsed := SMap.get s.falls b.vf 0 }
    s2.useFresh.addFault { faultRec b.vf 5 0 true l b.slot t.ctxbase (BitVec.ofNat 64 k) (Config.quotaVa s.fresh) (.team s.cur) with
      lanes := [l], key := k, off := b.offOf }

/-- A space park: the ballooning engine of the block's die is asked (21 R347, R349). -/
def State.spacePark (s : State) (a : Nat) : State :=
  let s1 := s.parkHere .space (BitVec.ofNat 64 a)
  let d := homeDie a
  let r := SMap.get s1.rounds d Round.idle
  { s1.setTeam s.cur { s1.team s.cur with quotaAt := s.time } with rounds := SMap.put s1.rounds d { r with active := true } Round.idle }

/-- The verdict of a batch acts on the executing team. -/
def State.verdictActs (s : State) (v : Verdict) : State :=
  let b := v.batch
  let t := s.team s.cur
  match v.out with
  | .accepted => s.setTeam s.cur ({ t with verdict := false }.advance b.ins)
  | out =>
    let refs := b.lanes.flatMap (fun x : BatchLane => b.ins.dstRefs x.lane)
    let s1 := (s.setTeam s.cur ({ t with verdict := false }.unmark refs)).landed s.cur t refs
    if t.cancelPend then s1
    else
      match out with
      | .fault cs => s1.trapFails b.ins (cs.map (fun c => { lane := c.1, cls := c.2.1, sub := c.2.2, key := b.keyOf c.1, off := b.offOf }))
      | .pages ps => s1.pageFault b.ins 1 (ps.map (fun p => { lane := p.1, va := p.2.1, cause := p.2.2.1, w := p.2.2.2, key := b.keyOf p.1, off := b.offOf }))
      | .quota l => s1.quotaPark b l
      | .space a => s1.spacePark a
      | .accepted => s1

/-- The instruction of a batch. -/
def Batch.instr (b : Batch) : Instr :=
  match (if b.len = 0 then (rowOf shortRows b.op).map (fun mk => mk { uni := b.f.uni, gp := b.f.gp, gn := b.f.gn, d := b.f.d, a := b.f.a })
         else (rowOf wideRows b.op).map (fun mk => mk b.f)) with
  | some i => i
  | none => .ill 0

/-- SPIRE_VERDICT (R235): accepted, the instruction is past; withdrawn, the team takes the trap or the park at it. -/
def execSpireVerdict (n : Nat) (s : State) : Host.Outcome State Fault Refusal :=
  match s.verdicts[n]? with
  | none => .next s
  | some v =>
    let i := v.batch.team
    let t0 := s.team i
    let s1 := ({ s with verdicts := dropAt s.verdicts n, cur := i }.verdictActs v).completed i v.batch.instr t0
    .next { s1 with cur := s.cur }

end Sys2Proof.Machine
end

