-- ==== Sys2Proof/Machine/Dispatch.lean ====
section
/-!
DEFINITION. The dispatch: one arm for each constructor of `Instr`, each one direct call of that step's meaning.
-/
namespace Sys2Proof.Machine

def exec (i : Instr) (s : State) : Host.Outcome State Fault Refusal :=
  match i with
  | .iadd f => Sys2Proof.Machine.execIadd f s
  | .isub f => Sys2Proof.Machine.execIsub f s
  | .imul f => Sys2Proof.Machine.execImul f s
  | .imulh f => Sys2Proof.Machine.execImulh f s
  | .imad f => Sys2Proof.Machine.execImad f s
  | .idiv f => Sys2Proof.Machine.execIdiv f s
  | .irem f => Sys2Proof.Machine.execIrem f s
  | .imin f => Sys2Proof.Machine.execImin f s
  | .imax f => Sys2Proof.Machine.execImax f s
  | .iabsS f => Sys2Proof.Machine.execIabsS f s
  | .iabsL f => Sys2Proof.Machine.execIabsL f s
  | .inegS f => Sys2Proof.Machine.execInegS f s
  | .inegL f => Sys2Proof.Machine.execInegL f s
  | .iadds f => Sys2Proof.Machine.execIadds f s
  | .isubs f => Sys2Proof.Machine.execIsubs f s
  | .and f => Sys2Proof.Machine.execAnd f s
  | .or f => Sys2Proof.Machine.execOr f s
  | .xor f => Sys2Proof.Machine.execXor f s
  | .andn f => Sys2Proof.Machine.execAndn f s
  | .notS f => Sys2Proof.Machine.execNotS f s
  | .notL f => Sys2Proof.Machine.execNotL f s
  | .shl f => Sys2Proof.Machine.execShl f s
  | .shr f => Sys2Proof.Machine.execShr f s
  | .sar f => Sys2Proof.Machine.execSar f s
  | .rol f => Sys2Proof.Machine.execRol f s
  | .bfx f => Sys2Proof.Machine.execBfx f s
  | .bfi f => Sys2Proof.Machine.execBfi f s
  | .popcS f => Sys2Proof.Machine.execPopcS f s
  | .popcL f => Sys2Proof.Machine.execPopcL f s
  | .clzS f => Sys2Proof.Machine.execClzS f s
  | .clzL f => Sys2Proof.Machine.execClzL f s
  | .ctzS f => Sys2Proof.Machine.execCtzS f s
  | .ctzL f => Sys2Proof.Machine.execCtzL f s
  | .brevS f => Sys2Proof.Machine.execBrevS f s
  | .brevL f => Sys2Proof.Machine.execBrevL f s
  | .sel f => Sys2Proof.Machine.execSel f s
  | .movS f => Sys2Proof.Machine.execMovS f s
  | .movL f => Sys2Proof.Machine.execMovL f s
  | .movi f => Sys2Proof.Machine.execMovi f s
  | .prmt f => Sys2Proof.Machine.execPrmt f s
  | .srd f => Sys2Proof.Machine.execSrd f s
  | .swr f => Sys2Proof.Machine.execSwr f s
  | .iaddc f => Sys2Proof.Machine.execIaddc f s
  | .fadd f => Sys2Proof.Machine.execFadd f s
  | .fsub f => Sys2Proof.Machine.execFsub f s
  | .fmul f => Sys2Proof.Machine.execFmul f s
  | .ffma f => Sys2Proof.Machine.execFfma f s
  | .fmin f => Sys2Proof.Machine.execFmin f s
  | .fmax f => Sys2Proof.Machine.execFmax f s
  | .fabsS f => Sys2Proof.Machine.execFabsS f s
  | .fabsL f => Sys2Proof.Machine.execFabsL f s
  | .fnegS f => Sys2Proof.Machine.execFnegS f s
  | .fnegL f => Sys2Proof.Machine.execFnegL f s
  | .fdiv f => Sys2Proof.Machine.execFdiv f s
  | .fsqrtS f => Sys2Proof.Machine.execFsqrtS f s
  | .fsqrtL f => Sys2Proof.Machine.execFsqrtL f s
  | .frcpS f => Sys2Proof.Machine.execFrcpS f s
  | .frcpL f => Sys2Proof.Machine.execFrcpL f s
  | .frintS f => Sys2Proof.Machine.execFrintS f s
  | .frintL f => Sys2Proof.Machine.execFrintL f s
  | .fclassS f => Sys2Proof.Machine.execFclassS f s
  | .fclassL f => Sys2Proof.Machine.execFclassL f s
  | .fscale f => Sys2Proof.Machine.execFscale f s
  | .fdot2 f => Sys2Proof.Machine.execFdot2 f s
  | .cvt f => Sys2Proof.Machine.execCvt f s
  | .pack f => Sys2Proof.Machine.execPack f s
  | .unpk f => Sys2Proof.Machine.execUnpk f s
  | .sbq f => Sys2Proof.Machine.execSbq f s
  | .sbdq f => Sys2Proof.Machine.execSbdq f s
  | .icmp f => Sys2Proof.Machine.execIcmp f s
  | .fcmp f => Sys2Proof.Machine.execFcmp f s
  | .plop f => Sys2Proof.Machine.execPlop f s
  | .pmov f => Sys2Proof.Machine.execPmov f s
  | .shfl f => Sys2Proof.Machine.execShfl f s
  | .bcst f => Sys2Proof.Machine.execBcst f s
  | .vote f => Sys2Proof.Machine.execVote f s
  | .mbalS f => Sys2Proof.Machine.execMbalS f s
  | .mbalL f => Sys2Proof.Machine.execMbalL f s
  | .scanS f => Sys2Proof.Machine.execScanS f s
  | .scanL f => Sys2Proof.Machine.execScanL f s
  | .redS f => Sys2Proof.Machine.execRedS f s
  | .redL f => Sys2Proof.Machine.execRedL f s
  | .tsort f => Sys2Proof.Machine.execTsort f s
  | .tselk f => Sys2Proof.Machine.execTselk f s
  | .cexp2 f => Sys2Proof.Machine.execCexp2 f s
  | .clog2 f => Sys2Proof.Machine.execClog2 f s
  | .csin f => Sys2Proof.Machine.execCsin f s
  | .ccos f => Sys2Proof.Machine.execCcos f s
  | .csincos f => Sys2Proof.Machine.execCsincos f s
  | .catan2 f => Sys2Proof.Machine.execCatan2 f s
  | .ctanh f => Sys2Proof.Machine.execCtanh f s
  | .csigm f => Sys2Proof.Machine.execCsigm f s
  | .crsq f => Sys2Proof.Machine.execCrsq f s
  | .csqrt f => Sys2Proof.Machine.execCsqrt f s
  | .ld f => Sys2Proof.Machine.execLd f s
  | .st f => Sys2Proof.Machine.execSt f s
  | .ldb f => Sys2Proof.Machine.execLdb f s
  | .stb f => Sys2Proof.Machine.execStb f s
  | .amo f => Sys2Proof.Machine.execAmo f s
  | .amn f => Sys2Proof.Machine.execAmn f s
  | .acas f => Sys2Proof.Machine.execAcas f s
  | .fence f => Sys2Proof.Machine.execFence f s
  | .pref f => Sys2Proof.Machine.execPref f s
  | .ldc f => Sys2Proof.Machine.execLdc f s
  | .tlook f => Sys2Proof.Machine.execTlook f s
  | .tins f => Sys2Proof.Machine.execTins f s
  | .tdel f => Sys2Proof.Machine.execTdel f s
  | .tmod f => Sys2Proof.Machine.execTmod f s
  | .tset f => Sys2Proof.Machine.execTset f s
  | .topen f => Sys2Proof.Machine.execTopen f s
  | .tnext f => Sys2Proof.Machine.execTnext f s
  | .tseek f => Sys2Proof.Machine.execTseek f s
  | .tclose f => Sys2Proof.Machine.execTclose f s
  | .tcnt f => Sys2Proof.Machine.execTcnt f s
  | .tstat f => Sys2Proof.Machine.execTstat f s
  | .mma f => Sys2Proof.Machine.execMma f s
  | .mflushS f => Sys2Proof.Machine.execMflushS f s
  | .mflushL f => Sys2Proof.Machine.execMflushL f s
  | .kvx f => Sys2Proof.Machine.execKvx f s
  | .qmc f => Sys2Proof.Machine.execQmc f s
  | .credS f => Sys2Proof.Machine.execCredS f s
  | .credL f => Sys2Proof.Machine.execCredL f s
  | .cpk f => Sys2Proof.Machine.execCpk f s
  | .binit f => Sys2Proof.Machine.execBinit f s
  | .barr f => Sys2Proof.Machine.execBarr f s
  | .bwait f => Sys2Proof.Machine.execBwait f s
  | .waitt f => Sys2Proof.Machine.execWaitt f s
  | .qpush f => Sys2Proof.Machine.execQpush f s
  | .qpop f => Sys2Proof.Machine.execQpop f s
  | .rdx f => Sys2Proof.Machine.execRdx f s
  | .qstat f => Sys2Proof.Machine.execQstat f s
  | .bra f => Sys2Proof.Machine.execBra f s
  | .brv f => Sys2Proof.Machine.execBrv f s
  | .bany f => Sys2Proof.Machine.execBany f s
  | .ball f => Sys2Proof.Machine.execBall f s
  | .call f => Sys2Proof.Machine.execCall f s
  | .retS f => Sys2Proof.Machine.execRetS f s
  | .retL f => Sys2Proof.Machine.execRetL f s
  | .jmpi f => Sys2Proof.Machine.execJmpi f s
  | .loop f => Sys2Proof.Machine.execLoop f s
  | .exitS f => Sys2Proof.Machine.execExitS f s
  | .exitL f => Sys2Proof.Machine.execExitL f s
  | .bar f => Sys2Proof.Machine.execBar f s
  | .sleepS f => Sys2Proof.Machine.execSleepS f s
  | .sleepL f => Sys2Proof.Machine.execSleepL f s
  | .yield f => Sys2Proof.Machine.execYield f s
  | .trap f => Sys2Proof.Machine.execTrap f s
  | .sgpost f => Sys2Proof.Machine.execSgpost f s
  | .sgpoll f => Sys2Proof.Machine.execSgpoll f s
  | .sgchk f => Sys2Proof.Machine.execSgchk f s
  | .launch f => Sys2Proof.Machine.execLaunch f s
  | .evsig f => Sys2Proof.Machine.execEvsig f s
  | .evwait f => Sys2Proof.Machine.execEvwait f s
  | .rte f => Sys2Proof.Machine.execRte f s
  | .tsbS f => Sys2Proof.Machine.execTsbS f s
  | .tsbL f => Sys2Proof.Machine.execTsbL f s
  | .haltb f => Sys2Proof.Machine.execHaltb f s
  | .step f => Sys2Proof.Machine.execStep f s
  | .bkpt f => Sys2Proof.Machine.execBkpt f s
  | .watch f => Sys2Proof.Machine.execWatch f s
  | .mbxw f => Sys2Proof.Machine.execMbxw f s
  | .mbxr f => Sys2Proof.Machine.execMbxr f s
  | .ill word => Sys2Proof.Machine.execIll word s
  | .lateReply reply => Sys2Proof.Machine.execLateReply reply s
  | .registerMissFill team reg word => Sys2Proof.Machine.execRegisterMissFill team reg word s
  | .teamActivation core => Sys2Proof.Machine.execTeamActivation core s
  | .teamEviction core part => Sys2Proof.Machine.execTeamEviction core part s
  | .readyListSteal core => Sys2Proof.Machine.execReadyListSteal core s
  | .starvationPick core part => Sys2Proof.Machine.execStarvationPick core part s
  | .requestRetry team => Sys2Proof.Machine.execRequestRetry team s
  | .teamResume team => Sys2Proof.Machine.execTeamResume team s
  | .sleepWake team => Sys2Proof.Machine.execSleepWake team s
  | .teamRetirement team => Sys2Proof.Machine.execTeamRetirement team s
  | .contextImageFree team => Sys2Proof.Machine.execContextImageFree team s
  | .cancelledPendingRetire team => Sys2Proof.Machine.execCancelledPendingRetire team s
  | .blockPlacement job images => Sys2Proof.Machine.execBlockPlacement job images s
  | .turnEnd cluster => Sys2Proof.Machine.execTurnEnd cluster s
  | .mmaArrayExecution core part => Sys2Proof.Machine.execMmaArrayExecution core part s
  | .oculusMerge block => Sys2Proof.Machine.execOculusMerge block s
  | .copyRow request => Sys2Proof.Machine.execCopyRow request s
  | .pushAccept request => Sys2Proof.Machine.execPushAccept request s
  | .popServe request => Sys2Proof.Machine.execPopServe request s
  | .rdxDepositArrival deposit => Sys2Proof.Machine.execRdxDepositArrival deposit s
  | .bucketFlush job stage bucket => Sys2Proof.Machine.execBucketFlush job stage bucket s
  | .stageDrain job stage => Sys2Proof.Machine.execStageDrain job stage s
  | .spireBatch batch => Sys2Proof.Machine.execSpireBatch batch s
  | .spireVerdict verdict => Sys2Proof.Machine.execSpireVerdict verdict s
  | .kvRelease group sibling => Sys2Proof.Machine.execKvRelease group sibling s
  | .campanilePost post => Sys2Proof.Machine.execCampanilePost post s
  | .finishedSiblingCheck group => Sys2Proof.Machine.execFinishedSiblingCheck group s
  | .tailLineInvalidation fe queue => Sys2Proof.Machine.execTailLineInvalidation fe queue s
  | .descriptorConsume fe queue => Sys2Proof.Machine.execDescriptorConsume fe queue s
  | .launchDescriptor job => Sys2Proof.Machine.execLaunchDescriptor job s
  | .directoryUpdate job => Sys2Proof.Machine.execDirectoryUpdate job s
  | .queueDescriptor job => Sys2Proof.Machine.execQueueDescriptor job s
  | .cancel job => Sys2Proof.Machine.execCancel job s
  | .signal job => Sys2Proof.Machine.execSignal job s
  | .groupOpen job => Sys2Proof.Machine.execGroupOpen job s
  | .groupFree job => Sys2Proof.Machine.execGroupFree job s
  | .groupFreeCompletion job => Sys2Proof.Machine.execGroupFreeCompletion job s
  | .waitCounterWrite job => Sys2Proof.Machine.execWaitCounterWrite job s
  | .launchCompletion job => Sys2Proof.Machine.execLaunchCompletion job s
  | .invalidationComplete fn => Sys2Proof.Machine.execInvalidationComplete fn s
  | .quotaLimitExpiry team => Sys2Proof.Machine.execQuotaLimitExpiry team s
  | .blockAccess acc => Sys2Proof.Machine.execBlockAccess acc s
  | .discardComplete fn => Sys2Proof.Machine.execDiscardComplete fn s
  | .heldWriteRelease die => Sys2Proof.Machine.execHeldWriteRelease die s
  | .heldWriteExpiry die => Sys2Proof.Machine.execHeldWriteExpiry die s
  | .reclamationRound die => Sys2Proof.Machine.execReclamationRound die s
  | .balwaitExpiry die => Sys2Proof.Machine.execBalwaitExpiry die s
  | .promotion frame => Sys2Proof.Machine.execPromotion frame s
  | .rds msg => Sys2Proof.Machine.execRds msg s
  | .rdxMsg msg => Sys2Proof.Machine.execRdxMsg msg s
  | .ownnd msg => Sys2Proof.Machine.execOwnnd msg s
  | .upg msg => Sys2Proof.Machine.execUpg msg s
  | .atomicreq msg => Sys2Proof.Machine.execAtomicreq msg s
  | .wb msg => Sys2Proof.Machine.execWb msg s
  | .snps msg => Sys2Proof.Machine.execSnps msg s
  | .snpx msg => Sys2Proof.Machine.execSnpx msg s
  | .inv msg => Sys2Proof.Machine.execInv msg s
  | .bi msg => Sys2Proof.Machine.execBi msg s
  | .data msg => Sys2Proof.Machine.execData msg s
  | .rsp msg => Sys2Proof.Machine.execRsp msg s
  | .atomicrsp msg => Sys2Proof.Machine.execAtomicrsp msg s
  | .retry msg => Sys2Proof.Machine.execRetry msg s
  | .poison msg => Sys2Proof.Machine.execPoison msg s
  | .reservedOpcode word => Sys2Proof.Machine.execReservedOpcode word s
  | .invcmd => Sys2Proof.Machine.execInvcmd s
  | .fsresolve => Sys2Proof.Machine.execFsresolve s
  | .pquotaWrite => Sys2Proof.Machine.execPquotaWrite s
  | .dlheadWrite => Sys2Proof.Machine.execDlheadWrite s
  | .discard => Sys2Proof.Machine.execDiscard s
  | .logicalTimeTick => Sys2Proof.Machine.execLogicalTimeTick s
  | .rdshared => Sys2Proof.Machine.execRdshared s
  | .rdown => Sys2Proof.Machine.execRdown s
  | .dirtyevict => Sys2Proof.Machine.execDirtyevict s
  | .cleanevict => Sys2Proof.Machine.execCleanevict s
  | .snpdata => Sys2Proof.Machine.execSnpdata s
  | .snpinv => Sys2Proof.Machine.execSnpinv s
  | .snpcur => Sys2Proof.Machine.execSnpcur s
  | .bisnpinv => Sys2Proof.Machine.execBisnpinv s
  | .bisnpdata => Sys2Proof.Machine.execBisnpdata s
  | .birsp => Sys2Proof.Machine.execBirsp s
  | .memrd => Sys2Proof.Machine.execMemrd s
  | .memwr => Sys2Proof.Machine.execMemwr s
  | .flit => Sys2Proof.Machine.execFlit s
  | .portTraining => Sys2Proof.Machine.execPortTraining s
  | .portDown => Sys2Proof.Machine.execPortDown s
  | .lockInterfaceRequest => Sys2Proof.Machine.execLockInterfaceRequest s
  | .startInterfaceRequest => Sys2Proof.Machine.execStartInterfaceRequest s
  | .stopInterfaceRequest => Sys2Proof.Machine.execStopInterfaceRequest s
  | .getDeviceInterfaceReport => Sys2Proof.Machine.execGetDeviceInterfaceReport s
  | .getDeviceInterfaceState => Sys2Proof.Machine.execGetDeviceInterfaceState s
  | .algorithmNegotiation => Sys2Proof.Machine.execAlgorithmNegotiation s
  | .keyExchange => Sys2Proof.Machine.execKeyExchange s
  | .finish => Sys2Proof.Machine.execFinish s
  | .heartbeat => Sys2Proof.Machine.execHeartbeat s
  | .keyUpdate => Sys2Proof.Machine.execKeyUpdate s
  | .endSession => Sys2Proof.Machine.execEndSession s
  | .getMeasurements => Sys2Proof.Machine.execGetMeasurements s
  | .bind => Sys2Proof.Machine.execBind s
  | .sessionOpen => Sys2Proof.Machine.execSessionOpen s
  | .sessionClose => Sys2Proof.Machine.execSessionClose s
  | .sessionKeyUpdate => Sys2Proof.Machine.execSessionKeyUpdate s
  | .update => Sys2Proof.Machine.execUpdate s
  | .updateReadComplete => Sys2Proof.Machine.execUpdateReadComplete s
  | .commit => Sys2Proof.Machine.execCommit s
  | .warmReset => Sys2Proof.Machine.execWarmReset s
  | .coldReset => Sys2Proof.Machine.execColdReset s
  | .functionLevelReset => Sys2Proof.Machine.execFunctionLevelReset s
  | .d3hotEntry => Sys2Proof.Machine.execD3hotEntry s
  | .d3hotExit => Sys2Proof.Machine.execD3hotExit s
  | .d3cold => Sys2Proof.Machine.execD3cold s
  | .d0IdleEntry => Sys2Proof.Machine.execD0IdleEntry s
  | .d0IdleExit => Sys2Proof.Machine.execD0IdleExit s
  | .sensorWarning => Sys2Proof.Machine.execSensorWarning s
  | .shutdown => Sys2Proof.Machine.execShutdown s
  | .clockStepDown => Sys2Proof.Machine.execClockStepDown s
  | .clockStepUp => Sys2Proof.Machine.execClockStepUp s
  | .lantentHighWrite => Sys2Proof.Machine.execLantentHighWrite s
  | .lantentHighRead => Sys2Proof.Machine.execLantentHighRead s
  | .lantasgWrite => Sys2Proof.Machine.execLantasgWrite s
  | .lqcfgWrite => Sys2Proof.Machine.execLqcfgWrite s
  | .fsqcfgWrite => Sys2Proof.Machine.execFsqcfgWrite s
  | .fsqheadWrite => Sys2Proof.Machine.execFsqheadWrite s
  | .rrheadWrite => Sys2Proof.Machine.execRrheadWrite s
  | .ptrootWrite => Sys2Proof.Machine.execPtrootWrite s
  | .ncwinWrite => Sys2Proof.Machine.execNcwinWrite s
  | .l2cfgWrite => Sys2Proof.Machine.execL2cfgWrite s
  | .aliasWrite => Sys2Proof.Machine.execAliasWrite s
  | .registerWrite => Sys2Proof.Machine.execRegisterWrite s
  | .debuggerHalt => Sys2Proof.Machine.execDebuggerHalt s
  | .debuggerResume => Sys2Proof.Machine.execDebuggerResume s
  | .sensorWarningEnd => Sys2Proof.Machine.execSensorWarningEnd s

end Sys2Proof.Machine
end

