-- ==== Sys2Proof/Machine/Due.lean ====
section
/-!
DEFINITION. What a step does: the issue of one instruction, the machine's own events that are due, in a fixed order (log entry 39), and the
choice of the team that issues next (05 R111).
-/
namespace Sys2Proof.Machine

/-- What a unit's event becomes once it is performed. -/
abbrev Ran : Type := Host.Outcome State Fault Refusal

/-! Issue. -/

/-- The picked team has had its clock. -/
def State.clocked (s : State) : State := { s with picked := false }.passClock

/-- What follows an instruction that executed as `x` from state `s`. -/
def afterExec (x : Instr) (s : State) (r : Ran) : Ran :=
  match r with
  | .next t => .next (t.completed s.cur x (s.team s.cur)).clocked
  | .fault e => .fault e
  | .refused e => .refused e

/-- The picked team's clock: what its boundary takes first, else its next instruction (09 R196, 03 R47, 05 R105). -/
def State.issue (s : State) : Ran :=
  if !s.mayIssue s.cur then .next { s with picked := false }
  else
    match s.boundary s.cur with
    | some t => .next t.clocked
    | none =>
      let r := s.ready
      match r.2 with
      | none => .next r.1.clocked
      | some x => afterExec x r.1 (exec x r.1)

/-! The events that are due. -/

/-- The first number below the length of a list that a unit may take, and all of them. -/
def firstReady {α : Type} (l : List α) (p : Nat → Bool) (mk : Nat → Instr) : List Instr :=
  (((upTo l.length).find? p).map mk).toList
def allReady {α : Type} (l : List α) (p : Nat → Bool) (mk : Nat → Instr) : List Instr := ((upTo l.length).filter p).map mk

/-- Messages of the coherence network that their receiver can take now: snoops wait for a copy, requests for the winner of their grain or for one
with a reservation that rejects them, rejected ones for their 8 clocks (22 R363). -/
def State.messageDue (s : State) (i : Instr) : Bool :=
  match i with
  | .snps m => !s.snoopWaits m
  | .snpx m => !s.snoopWaits m
  | .inv m => !s.snoopWaits m
  | .bi m => !s.biWaits m
  | .retry m => decide (s.clock.toNat ≥ m.again)
  | _ =>
    match reqOf i with
    | some r => !s.behindOwn r.2 && (match s.winner r.2 with | some w => reqMsg w.1 w.2 == i | none => true)
    | none => true

/-- A directory update of a function is due: it goes before a batch of the same clock (11 R229). -/
def State.updateDue (s : State) (f : Nat) : Bool := s.jobs.any (fun j => j.2.fn == f && s.startReady j.1 1)

/-- A batch of the Spire may be performed, and does not wait for the dirty log already. -/
def State.batchDue (s : State) (n : Nat) : Bool :=
  s.spireReady n && (match s.batches[n]? with
    | some b => !s.held.any (fun h => h.fn == b.vf && h.log && h.parts.isEmpty) && !s.updateDue b.vf
    | none => false)

/-- An event that is due on a condition. -/
def on (b : Bool) (i : Instr) : List Instr := if b then [i] else []

/-- An event for each entry of a map that is due. -/
def onEach {α : Type} (m : SMap α) (p : Nat → Bool) (mk : Nat → Instr) : List Instr := (m.filter (fun e => p e.1)).map (fun e => mk e.1)

/-- An MMA at the head of an array has a word to perform. -/
def State.arrayDue (s : State) (k : Nat) : Bool :=
  match s.arrayOf k with
  | i :: _ => (s.team i).mma.isSome && !s.mmaWaits i
  | [] => false

/-- A late reply may land. -/
def State.replyDue (s : State) (n : Nat) : Bool := match s.replies[n]? with | some r => decide (r.due ≤ s.clock.toNat) | none => false

/-- Late replies under way, and the matrix arrays' work (01 R18, 15 R264). -/
def State.lateEvents (s : State) : List Instr :=
  firstReady s.replies s.replyDue .lateReply ++ onEach s.arrays s.arrayDue (fun k => .mmaArrayExecution (k / 32) (k % 32))

/-- Every 128th clock what is late comes before the teams, so that no running team holds it off (log entry 44). -/
def State.lateNow (s : State) : List Instr := if s.clock.toNat % 128 = 0 then s.lateEvents else []

/-- Events of the units that answer instructions. -/
def State.unitEvents (s : State) : List Instr :=
  List.flatten [
    on s.coldReady .coldReset,
    on s.tickDue .logicalTimeTick,
    (s.coh.net.find? s.messageDue).toList,
    on (!s.verdicts.isEmpty) (.spireVerdict 0),
    allReady s.batches s.batchDue .spireBatch,
    s.lateNow,
    allReady s.qreqs s.pushReady .pushAccept,
    allReady s.qreqs s.popReady .popServe,
    firstReady s.deposits s.depositReady .rdxDepositArrival,
    (s.copies.filter (fun c => s.copyReady c.id)).map (fun c => Instr.copyRow c.id),
    firstReady s.posts s.postReady .campanilePost,
    onEach s.groups s.allFinished .finishedSiblingCheck,
    s.groups.flatMap (fun g => ((upTo 64).filter (s.releaseReady g.1)).map (Instr.kvRelease g.1)),
    onEach s.blocks (fun b => (s.credRound b).isSome) .oculusMerge]

/-- The descriptor's own event, once it may start. -/
def State.startEvents (s : State) (n : Nat) : List Instr :=
  List.flatten [
    on (s.startReady n 0) (.launchDescriptor n), on (s.startReady n 1) (.directoryUpdate n), on (s.startReady n 2) (.queueDescriptor n),
    on (s.startReady n 3) (.cancel n), on (s.startReady n 4) (.signal n), on (s.startReady n 5) (.groupOpen n),
    on (s.startReady n 6) (.groupFree n)]

/-- Events of one descriptor. -/
def State.jobEvents (s : State) (n : Nat) : List Instr :=
  let j := s.job n
  List.flatten [
    on (s.waitMoved n) (.waitCounterWrite n), s.startEvents n, on (s.completionReady n) (.launchCompletion n),
    on (s.freeReady n) (.groupFreeCompletion n),
    (j.buckets.filter (fun d => s.flushDue n d.stage (j.bucketOf d))).map (fun d => Instr.bucketFlush n d.stage (j.bucketOf d)),
    ((upTo (j.stages.length + 1)).filter (s.stageDrained n)).map (Instr.stageDrain n)]

/-- Events of one queue of a front end. -/
def State.queueEvents (s : State) (f q : Nat) : List Instr :=
  List.flatten [on (s.tailMoved f q) (.tailLineInvalidation f q), on (s.consumeReady f q) (.descriptorConsume f q)]

/-- Events of the front ends and the distributor. -/
def State.feEvents (s : State) : List Instr :=
  List.flatten [
    ((upTo 64).filter s.ptOn).flatMap (fun f => (upTo 8).flatMap (s.queueEvents f)),
    s.jobs.flatMap (fun j => s.jobEvents j.1),
    (s.placesNext.map (fun n => Instr.blockPlacement n none)).toList]

/-- A rejected request's 8 clocks are over, or something of an instruction waits for its grains. -/
def State.retryDue (s : State) (i : Nat) : Bool :=
  (s.team i).rest.isSome || (match (s.team i).retryAt with | some c => decide (s.clock.toNat ≥ c) | none => false)

/-- Events of a team that neither issues nor is being placed. -/
def State.teamEvents (s : State) (i : Nat) : List Instr :=
  List.flatten [
    on (s.sleepOver i) (.sleepWake i), on (s.retryDue i) (.requestRetry i), on (s.resolved i) (.teamResume i),
    on (s.retirementReady i) (.teamRetirement i), on (s.imageFreeReady i) (.contextImageFree i),
    on (s.pendingOver i) (.cancelledPendingRetire i), on (s.quotaExpired i) (.quotaLimitExpiry i)]

/-- The longest-parked team of a core leaves its slot. -/
def State.evictions (s : State) (c : Nat) : List Instr :=
  match s.longestParked c with
  | some t => on (s.evictionReady c t.2.part) (.teamEviction c t.2.part)
  | none => []

/-- Events of the slots. -/
def State.slotEvents (s : State) : List Instr :=
  List.flatten [
    ((upTo Config.cores).filter s.activationReady).map Instr.teamActivation,
    (upTo Config.cores).flatMap s.evictions,
    ((upTo Config.cores).filter (fun c => (s.stealFrom c).isSome)).map Instr.readyListSteal]

/-- Events of a die's memory controller and ballooning engine. -/
def State.dieEvents (s : State) (d : Nat) : List Instr :=
  List.flatten [
    on (s.heldNext d).isSome (.heldWriteRelease d),
    on ((s.heldLate d).isSome || (s.batchLate d).isSome || (s.pushLate d).isSome) (.heldWriteExpiry d),
    on (s.roundDue d) (.reclamationRound d), on (s.balwaitOver d) (.balwaitExpiry d)]

/-- Events of the memory fabric, and the clusters' turns. -/
def State.fabricDue (s : State) : List Instr :=
  List.flatten [
    (upTo 4).flatMap s.dieEvents,
    onEach s.frames s.promotionDue .promotion,
    (s.invs.filter (fun e => s.invReady e.1)).map (fun e => Instr.invalidationComplete e.1),
    (s.discards.filter (fun e => s.discardReady e.1)).map (fun e => Instr.discardComplete e.1),
    onEach s.clusters s.turnOver .turnEnd]

/-- Events of the Belfry. -/
def State.belfryEvents (s : State) : List Instr :=
  List.flatten [
    on s.shutdownDue.isSome .shutdown, on s.idleReady .d0IdleEntry, on s.idleOver .d0IdleExit, on s.stepDownReady .clockStepDown, on s.stepUpReady .clockStepUp]

/-- A team that has waited its 64 clocks is picked before all others (R111). -/
def State.starvedPicks (s : State) : List Instr :=
  (s.teams.filter (fun t => s.starved t.2.core t.2.part == some t.1)).map (fun t => Instr.starvationPick t.2.core t.2.part)

/-- The events that are due, in the order they are tried. -/
def State.candidates (s : State) : List Instr :=
  List.flatten [s.unitEvents, s.feEvents, s.teams.flatMap (fun t => s.teamEvents t.1), s.slotEvents, s.fabricDue, s.belfryEvents, s.starvedPicks]

/-- A waiting event from outside can go on (22 R361, 23 R381, 24 R395). -/
def State.goesOn (s : State) (e : Instr × Input) : Bool :=
  let l := e.2.link
  match e.1 with
  | .snpdata => !s.hostWaits true l.addr
  | .snpinv => !s.hostWaits true l.addr
  | .snpcur => !s.hostWaits true l.addr
  | .bisnpinv => !s.hostWaits true l.addr
  | .bisnpdata => !s.hostWaits true l.addr
  | .memrd => (match s.linkAddr l with | some a => !s.homeBusy a | none => true)
  | .memwr => (match s.linkAddr l with | some a => !s.homeBusy a | none => true)
  | .stopInterfaceRequest => s.scrubReady e.2.fn e.2.low.toNat
  | .functionLevelReset => s.scrubReady e.2.fn e.2.low.toNat
  | .warmReset => !(s.anyLive || s.launching)
  | .ncwinWrite => !s.ncwinHeld e.2.fn e.2.num
  | .l2cfgWrite => !s.held.any (fun h => h.op == .wb && h.fn == e.2.fn)
  | _ => true

/-- With the power off, only its return and its removal reach the machine (log entry 87). -/
def State.hears (s : State) (i : Instr) : Bool :=
  match s.bel.power with
  | .d3cold => i == .coldReset || i == .d3cold
  | .off => i == .coldReset || i == .d3cold
  | _ => true

/-- An event from outside is performed with its input. An instruction of a team is none (log entry 40). -/
def State.outside (s : State) (e : Instr × Input) : Ran :=
  match insOf e.1 with
  | some _ => .next s
  | none =>
    if !s.hears e.1 then .next s
    else
      match exec e.1 { s with inp := e.2 } with
      | .next t => .next { t with inp := Input.none }
      | r => r

/-- The Lantern entry that a host's access reaches (24 R389). -/
def lanternOf (e : Instr × Input) : Option Nat :=
  match e.1 with
  | .lantentHighWrite => some e.2.num
  | .lantentHighRead => some e.2.num
  | .registerWrite => if e.2.window = .belfry ∧ 0x300 ≤ e.2.offset ∧ e.2.offset < 0x700 then some ((e.2.offset - 0x300) / 16) else none
  | _ => none

/-- The picked team's MBXW or MBXR goes before a host's access to its entry in the same clock (24 R389). -/
def State.teamFirst (s : State) (e : Instr × Input) : Bool :=
  s.picked && (match s.nextIns s.cur, lanternOf e with
    | some i, some n => (i.op == 0x1E6 || i.op == 0x1E7) && (s.team s.cur).sr i.f.a.toNat == n
    | _, _ => false)

/-- What the machine may do in a turn. -/
inductive Move where
  /-- A waiting event from outside goes on. -/
  | resume (k : Nat)
  | event (i : Instr)
  /-- A team is picked to issue next. -/
  | pick (team : Nat)
  /-- A clock in which nothing else happens. -/
  | clock
  deriving DecidableEq, Repr

/-- A team's place in the order of picks: the one that has waited longest, then the lowest core, partition and slot (R111, log entry
41). -/
def Team.pickKey (t : Team) : Nat := ((t.age * Config.cores + t.core) * Config.partitions + t.part) * Config.slots + t.slot

/-- Of teams with a ready instruction, one is the oldest of its partition, and none there has waited its 64 clocks (R111). -/
def State.oldest (s : State) (ready : List (Nat × Team)) (t : Team) : Bool :=
  !ready.any (fun u => u.2.core == t.core && u.2.part == t.part
    && (decide (u.2.pickKey < t.pickKey) || decide (s.clock.toNat ≥ u.2.age + 64)))

/-- The pick of each partition: the team whose instruction has been ready longest, in the order of picks. -/
def State.picks (s : State) : List Nat :=
  let ready := s.teams.filter (fun t => s.readyToIssue t.1)
  (sortBy (fun (a b : Nat × Team) => decide (a.2.pickKey < b.2.pickKey)) (ready.filter (fun t => s.oldest ready t.2))).map (fun t => t.1)

/-- The moves of a turn: what waits from outside, the events that are due, the teams that may issue, what is late, a clock. -/
def State.moves (s : State) : List Move :=
  List.flatten [
    ((upTo s.deferred.length).filter (fun k => match s.deferred[k]? with | some e => s.goesOn e | none => false)).map Move.resume,
    s.candidates.map Move.event, s.picks.map Move.pick, s.lateEvents.map Move.event, [Move.clock]]

/-- A move, if it changes anything. -/
def State.make (s : State) (m : Move) : Option Ran :=
  match m with
  | .resume k =>
    (match s.deferred[k]? with
     | some e => some ({ s with deferred := dropAt s.deferred k }.outside e)
     | none => none)
  | .event i =>
    (match exec i s with
     | .next t => if t = s then none else some (.next t)
     | r => some r)
  | .pick i => some (.next { s with cur := i, picked := true })
  | .clock => some (.next s.passClock)

/-- With nothing from outside to take: the picked team's clock, else a move of the machine's own, by `order` or the first there is. -/
def State.turn (s : State) : Ran :=
  if s.bel.power ≠ .d0 ∧ s.bel.power ≠ .d0idle then
    (if s.bel.power = .d3hot ∧ s.shutdownDue.isSome then exec .shutdown s else .next s.tick)
  else if s.picked then s.issue
  else
    match s.order with
    | [] => (s.moves.findSome? s.make).getD (.next s.passClock)
    | k :: rest =>
      let s1 := { s with order := rest }
      (s1.make (s1.moves.getD k .clock)).getD (.next s1)

end Sys2Proof.Machine
end

