-- ==== Sys2Proof/Machine/Bench.lean ====
section
/-!
DEFINITION. One instruction placed where the next step fetches it (log entry 42): a launch, its one block and its one team stand as the
front end, the distributor and the scheduler would have made them (19 R307, R309, 05 R92, R110), in function 0's memory.
-/
namespace Sys2Proof.Machine

/-- Bytes put at a device address of one block in DATA. -/
def State.seed (s : State) (da : Nat) (bs : List Byte) : State :=
  { s with blk := SMap.put s.blk (da / 256) { st := .data, value := 0, nc := false } Blk.fresh, mem := writeMem s.mem da bs }

/-- Where the root of the page table, its one node below, the text and the context image stand; VA and device address agree. -/
def benchNode : Nat := 0x200000
def benchText : Nat := 0x400000
def benchImage : Nat := 0x10000000

/-- Function 0's memory: 1 GiB from device address 0, mapped readable and writable by one leaf (21 R329–R331). -/
def State.benchMemory (s : State) : State :=
  (((((s.setReg 0 oDABASE 0).setReg 0 oDASIZE 0x40000000).setReg 0 oPTROOT 1).setReg 0 oCTXBASE 0x10000000).setReg 0 oCTXSIZE 0x10000000).seed 0
      (natLe 8 (benchNode + 1))
    |>.seed benchNode (natLe 8 0x6AF)

/-- The launch: its text reaches as far as KLEN can. -/
def benchJob : Job :=
  { Job.blank with words := [0, BitVec.ofNat 64 benchText, 0xFFFFFFFC, 0x0001000100000001], phase := .started, nextBlock := 1 }

/-- Its block, with the largest core-memory allocation. -/
def benchBlock : Block := { Block.blank with size := 786432, teams := [0] }

/-- Its team: one lane, every register declared, ACTIVE in slot 0 of partition 0 of core 0. -/
def benchTeam (clock : Nat) : Team :=
  { Team.blank with vregs := 256, sregs := 128, ctxbase := BitVec.ofNat 64 benchImage, mask := 1, st := .active, inSlot := true, age := clock }

/-- Bring-up is READY, the pools are full (24 R395). -/
def State.benchUp (s : State) : State :=
  s.fillPools.setBel { s.bel with stage := 9, busy := false, failed := false, power := .d0 }

/-- The bytes of an instruction's three words, those above `nbits` zero. -/
def instrBytes (nbits w : Nat) : List Byte := natLe 12 (w % 2 ^ nbits)

/-- The instruction with these bits is what the next step fetches. -/
def State.bench (s : State) (nbits w : Nat) : State :=
  let s1 := (s.benchUp.benchMemory.seed benchText (instrBytes nbits w)).setJob 0 benchJob
  { (s1.setBlock 0 benchBlock).setTeam 0 (benchTeam s.clock.toNat) with cur := 0, picked := true, agenda := [] }

end Sys2Proof.Machine
end

