-- ==== Sys2Proof/Machine/Step.lean ====
section
/-!
DEFINITION. The step: an event from outside, or what the machine does by itself.
-/
namespace Sys2Proof.Machine

/-- One step. Events of the agenda come first, in order, but for one that the picked team's instruction goes before; without one the machine takes its
turn. -/
def step (s : State) : Host.Outcome State Fault Refusal :=
  match s.agenda with
  | e :: rest => if s.teamFirst e then s.turn else { s with agenda := rest }.outside e
  | [] => s.turn

/-- The instruction with bits `w` stands where the next step fetches it. -/
def State.withFetchWord (s : State) (nbits w : Nat) : State := s.bench nbits w

end Sys2Proof.Machine
end

