-- ==== Sys2Proof/Safety.lean ====
section
/-!
DEFINITION. What the claims speak of: safe runs, an instruction that its checks let act, what an arithmetic instruction writes, the
invariants, and what two states have in common.
-/
namespace Sys2Proof.Machine

/-- The first `n` steps from a state end in no fault and no refusal. -/
def State.safeFor (n : Nat) (s : State) : Prop := ∃ t, Host.Core.run Sys2Proof.core n s = .next t

/-- The registers an instruction writes in lanes: those that act, of a load every active lane of the words it sweeps (08 R167). -/
def Ins.laneDsts (i : Ins) (t : Team) (ls : List Nat) : List Ref :=
  (if i.isLoad && !i.f.uni then t.sweep ls else ls).flatMap i.dstRefs

/-- The registers that must be full before an instruction issues: those, and a scalar or uniform destination where no lane acts too (05 R98). -/
def Ins.written (i : Ins) (t : Team) (ls : List Nat) : List Ref := i.laneDsts t ls ++ (i.dstRefs 0).filter Ref.scalar

/-- Nothing keeps the instruction from acting on lanes `ls` of team `t`: its mode, its guard, full and sound sources, full destinations
that no MMA under way still needs (03 R56, R57, R69, R70; 05 R98; 09 R189; 15 R263). -/
def Clear (i : Ins) (t : Team) (ls : List Nat) : Prop :=
  (i.reserved = true → t.hmode = true) ∧ i.passLanes t = some ls
    ∧ (∀ l ∈ ls, ∀ r ∈ i.srcRefs t l, t.empty r.1 = false ∧ t.bad r.1 = false)
    ∧ (∀ r ∈ i.written t ls, t.empty r = false) ∧ (∀ r ∈ i.laneDsts t ls, r ∉ t.mmaHolds)

/-- The team with one value of the instruction's type written to field D in each lane. -/
def laneWrites (i : Ins) (t : Team) (ls : List Nat) (v : Nat → Nat) : Team := ls.foldl (fun u l => i.writeD u l (v l)) t

/-- An operand value made of elements, each an integer wrapped to the type's element width (03 R58, R59; 06 R113). -/
def ofElems (ty : Ty) (g : Nat → Int) : Nat := ((upTo (tyCount ty)).map (fun j => wrapInt (tyWidth ty) (g j) * 2 ^ (tyWidth ty * j))).sum

/-- The shared checks of a memory access let it be performed: no lane has a cause or a page that is not resident, no watch range fires, no
copy owns its bytes and no earlier access of the team to them is still to be performed, its core has a miss-status entry where it needs
one, and no earlier read of the team is still to bind its value where it is a store (05 R112; 08 R163; 09 R203; 04 R81, R82, R89). -/
def Settled (s : State) (i : Ins) (t : Team) (p : Plan) (n : Nat) (rd wr : Bool) : Prop :=
  p.fails = [] ∧ p.pages = [] ∧ s.watchTrap i t i.f.b.toNat n rd wr p.accs = none
    ∧ (∀ a ∈ p.accs, s.placeOwned a.place n = false ∧ s.ownLater s.cur a.place n wr = false)
    ∧ (lineCount p.accs = 0 ∨ s.mayEnter t.core s.cur = true)
    ∧ (i.op = 0x101 ∨ i.op = 0x103 → s.unbound s.cur = false)

/-- Every line of the units finds a miss-status entry at once (05 R112; 08 R177), in a core and for a team as the issue leaves them. -/
def Roomy (s : State) (us : List AUnit) : Prop :=
  (s.team s.cur).retryAt = none ∧ (unitLines us).length ≤ s.entriesFor (s.team s.cur).core s.cur

/-- The core's L2 may write every grain of the units, of `n` bytes each and a scale word where they have one (22 R359, R360). -/
def Owned (s : State) (n : Nat) (us : List AUnit) : Prop :=
  ∀ u ∈ us, s.unowned (s.team s.cur).core u.tr n = [] ∧ ∀ c, u.sc = some c → s.unowned (s.team s.cur).core c.1 2 = []

/-- A long-latency instruction has gone on past itself: its destinations are empty, and the last late reply under way is its own, of the given set,
with these values and no trap (05 R97, R106; 08 R167). -/
def Left (i : Ins) (s u : State) (ls : List Nat) (set : Nat) (dsts : List Dst) : Prop :=
  (u.team s.cur).pc = (s.team s.cur).pc + BitVec.ofNat 64 (4 * (i.len + 1))
    ∧ (∀ l ∈ ls, ∀ r ∈ i.dstRefs l, (∀ k, r ≠ .p 7 k) → r ≠ .q 7 → (u.team s.cur).empty r = true)
    ∧ ∃ r, u.replies.getLast? = some r ∧ r.team = s.cur ∧ r.set = set ∧ r.trap = none ∧ r.dsts = dsts

/-- Every destination of the instruction in these lanes is empty in the team; p7 and q7 never are (05 R96, R97). -/
def Awaits (i : Ins) (u : Team) (ls : List Nat) : Prop :=
  ∀ l ∈ ls, ∀ r ∈ i.dstRefs l, (∀ k, r ≠ .p 7 k) → r ≠ .q 7 → u.empty r = true

/-- The bytes of a block in ZERO or CONST are its repeated word's (21 R344). -/
def State.uniformHolds (s : State) (da : Nat) : Prop :=
  (s.blkOf da).st ≠ .data → ∀ b, b / 256 = da / 256 → SMap.get s.mem b memDefault = wordByte (s.blkOf da).word b

/-- The anti-rollback counter has reached `n` (24 R392). -/
def State.fusesAtLeast (n : Nat) (s : State) : Prop := n ≤ s.bel.fuses

/-- Device memory, host memory and the core memories are in their canonical form. -/
def State.memoryCanonical (s : State) : Prop := Memory.wf s.mem = true ∧ Memory.wf s.sysmem = true ∧ Memory.wf s.cm = true

/-- Nothing but team `i` differs: every other team, and every other field of the machine. -/
def State.sameBeyond (s t : State) (i : Nat) : Prop :=
  (∀ j, j ≠ i → t.team j = s.team j) ∧ ({ s with teams := t.teams } : State) = t

/-- The trap, exception and control registers of two teams agree: TRAPCAUSE, TRAPPC, TRAPSKID, TRAPBASE, STEPCTL, HALTCTL, RPROG, FPCTL,
SEED, the saved uniform predicates and FPCTL, the side buffer, handler mode, the mask. -/
def Team.sameControl (t u : Team) : Prop :=
  u.trapcause = t.trapcause ∧ u.trappc = t.trappc ∧ u.trapskid = t.trapskid ∧ u.trapbase = t.trapbase ∧ u.stepctl = t.stepctl
    ∧ u.haltctl = t.haltctl ∧ u.rprog = t.rprog ∧ u.fpctl = t.fpctl ∧ u.seed = t.seed ∧ u.savedQ = t.savedQ ∧ u.savedQE = t.savedQE
    ∧ u.savedFpctl = t.savedFpctl ∧ u.side = t.side ∧ u.sideSave = t.sideSave ∧ u.hmode = t.hmode ∧ u.mask = t.mask ∧ u.ksteps = t.ksteps
    ∧ u.st = t.st ∧ u.cause = t.cause

/-- The registers that hold one value of the instruction's type in field D of lane `l` (03 R54). -/
def Ins.valueRegs (i : Ins) (l : Nat) : List Ref := refSpan (!i.f.uni) i.f.d.toNat l (if !i.f.uni && tyWide i.f.ty then 2 else 1)

/-- Every register outside a list, of the 1,024 lanes, reads as before. -/
def Team.sameRegs (t u : Team) (rs : List Ref) : Prop :=
  (∀ r l, l < 1024 → Ref.v r l ∉ rs → u.vr r l = t.vr r l) ∧ (∀ r, Ref.s r ∉ rs → u.sr r = t.sr r)
    ∧ (∀ n l, l < 1024 → Ref.p n l ∉ rs → u.pr n l = t.pr n l) ∧ (∀ n, Ref.q n ∉ rs → u.qr n = t.qr n)

end Sys2Proof.Machine
end

