-- ==== Sys2Proof/Certificates/Slice0/Obligations.lean ====
section
/-!
DEFINITION. The statements for the provers: what the rules of the spec say of the machine, and what the model's completeness needs.
-/
open Sys2Proof Sys2Proof.Machine

/-! Encoding. -/

/-- 03 R44–R51, R66: encoding a well-formed instruction and decoding its words, at any limits, gives the instruction back. -/
def Obligations.DecodeOfEncode : Prop :=
  ∀ (lim : Limits) (x : Instr), x.wellFormedAt lim = true → encode x ≠ [] → decodeList lim (encode x) = .ok x

/-- 03 R48–R53, R67: words written out bit by bit from the encoding tables decode to the instructions they stand for: an IADD of three registers, an
IMUL with a literal operand, MOVI, LD, an ICMP that writes predicates, EXIT, the all-zero word and two words of reserved opcodes. -/
def Obligations.DecodeSampleWords : Prop :=
  let lim := Limits.widest
  decodeWords lim 0x060500B9 0x00430007 0 = .ok (.iadd 
    { uni := false, gp := 7, gn := false, d := 5, a := 6, b := 7, c := 0, wa := true, wb := true, wc := false, ka := false, kb := false, kc := false, ty := .n32, mod := 0, xl := 0, lit := none })
  ∧ decodeWords lim 0x00050FBA 0x00400000 0x12345678 = .ok (.movi 
    { uni := false, gp := 7, gn := false, d := 5, a := 0, b := 0, c := 0, wa := false, wb := false, wc := false, ka := false, kb := false, kc := false, ty := .n32, mod := 0, xl := 0, lit := some 0x12345678 })
  ∧ decodeWords lim 0x104001BA 0x01490000 0x1234567A = .ok (.imul 
    { uni := false, gp := 7, gn := false, d := 64, a := 16, b := 0, c := 0, wa := true, wb := false, wc := false, ka := true, kb := false, kc := false, ty := .n16x2, mod := 0, xl := 0, lit := some 0x1234567A })
  ∧ decodeWords lim 0x00018039 0x02010000 0 = .ok (.ld 
    { uni := false, gp := 7, gn := false, d := 1, a := 0, b := 0, c := 0, wa := true, wb := false, wc := false, ka := false, kb := false, kc := false, ty := .f32, mod := 0, xl := 0, lit := none })
  ∧ decodeWords lim 0x03115039 0x08030004 0 = .ok (.icmp 
    { uni := false, gp := 7, gn := false, d := 0x11, a := 3, b := 4, c := 0, wa := true, wb := true, wc := false, ka := false, kb := false, kc := false, ty := .s32, mod := 2, xl := 0, lit := none })
  ∧ decodeWords lim 0x0000D438 0 0 = .ok (.exitS { uni := false, gp := 7, gn := false, d := 0, a := 0 })
  ∧ decodeWords lim 0 0 0 = .ok (.ill 0)
  ∧ decodeWords lim 3 0 0 = .ok (.reservedOpcode 3)
  ∧ decodeWords lim 0x1238 0 0 = .ok (.reservedOpcode 0x1238)

/-! The step. -/

/-- 01 R17; 03 R44–R47; 05 R105, R111: with nothing from outside to take, a picked team that may issue, has nothing to take at its boundary and whose
words no copy owns runs the instruction its words at the PC decode to: the step is what exec answers for it once its register window is present,
followed by what comes after a completed instruction and one clock (that every instruction takes one clock is the model's choice, log entry 44). Where a
line of its window is missing it takes a miss-status entry of its core (05 R104, R112), and no access goes before a read of the Campanile (19 R321).
Events from outside are the model's agenda, taken in order before the turn (log entries 39, 40): one that reaches the machine (log entry 87) runs with its
input, one that nothing hears is dropped, and a host's access to a Lantern entry comes after the picked team's MBXW or MBXR of it (24 R389). -/
def Obligations.StepRunsDecoded : Prop :=
  (∀ (s f : State) (w0 w1 w2 : W32) (x : Instr) (i : Ins), s.agenda = [] → (s.bel.power = .d0 ∨ s.bel.power = .d0idle) → s.picked = true →
    s.mayIssue s.cur = true → s.boundary s.cur = none → s.fetchWaits s.cur = false → s.fetch s.cur = (f, .ok w0 w1 w2) →
    decodeWords ((s.team s.cur).limits f) w0 w1 w2 = .ok x → insOf x = some i →
    let q := f.absentPage (s.team s.cur).vf ((s.team s.cur).windowVas (some i))
    let s1 := (if q.1.missing s.cur i then q.1.entered s.cur else q.1).fillWindow s.cur i
    q.2 = none → (q.1.missing s.cur i = true → q.1.mayEnter (s.team s.cur).core s.cur = true) → (i.accesses = false ∨ f.polls s.cur = false) →
    step s = match exec x s1 with
      | .next t => .next ({ t.completed s1.cur x (s1.team s1.cur) with picked := false }).passClock
      | .fault e => .fault e
      | .refused e => .refused e)
  ∧ (∀ (s : State) (e : Instr) (inp : Input) (rest : List (Instr × Input)), s.agenda = (e, inp) :: rest → s.teamFirst (e, inp) = false → insOf e = none → s.hears e = true →
    step s = match exec e { s with agenda := rest, inp := inp } with
      | .next t => .next { t with inp := Input.none }
      | .fault r => .fault r
      | .refused r => .refused r)
  ∧ (∀ (s : State) (e : Instr) (inp : Input) (rest : List (Instr × Input)), s.agenda = (e, inp) :: rest → s.teamFirst (e, inp) = false → s.hears e = false →
    step s = .next { s with agenda := rest })
  ∧ (∀ (s : State) (e : Instr) (inp : Input) (rest : List (Instr × Input)), s.agenda = (e, inp) :: rest → s.teamFirst (e, inp) = true →
    s.picked = true ∧ (∃ i n, s.nextIns s.cur = some i ∧ (i.op = 0x1E6 ∨ i.op = 0x1E7) ∧ lanternOf (e, inp) = some n ∧ (s.team s.cur).sr i.f.a.toNat = n)
      ∧ ((s.bel.power = .d0 ∨ s.bel.power = .d0idle) → step s = s.issue))
  ∧ (∀ (s : State) (i : Nat) (t : Tr), let a := s.ktext (s.team i) + (s.team i).pc.toNat
    (s.walk (s.team i).vf a true false).2 = .ok t → ((s.walk (s.team i).vf a true false).1.readTr t 4).2 = false →
    let w := BitVec.ofNat 32 (leNat ((s.walk (s.team i).vf a true false).1.readTr t 4).1)
    w.toNat % 4 = 0 → (s.fetch i).2 = .ok w 0 0)

/-! What an instruction waits on, and what stops it. -/

/-- An instruction reserved to handler mode, or SRD or SWR of a register marked H (03 R69; 06 R132, R133). -/
def reservedToHandler (i : Ins) : Bool := i.reserved

/-- 03 R69: outside handler mode an instruction reserved to it takes PRIV in every active lane and has none of its effect, whatever its guard and
registers hold; words that fail decoding take ILLENC in either mode. The rule's own words, decoded at the widest limits, have the fates it gives
them, and its legal uniform IADD decodes. -/
def Obligations.PrivilegeTraps : Prop :=
  (∀ (x : Instr) (i : Ins) (s : State), insOf x = some i → reservedToHandler i = true → (s.team s.cur).hmode = false →
    exec x s = .next (s.trapLanes i cPRIV 0 (s.team s.cur).lanes))
  ∧ (∀ (s f : State) (w0 w1 w2 : W32) (e : IllSub), s.fetchWaits s.cur = false → s.fetch s.cur = (f, .ok w0 w1 w2) →
    decodeWords ((s.team s.cur).limits f) w0 w1 w2 = .bad e → s.ready = (f.illegal (w0.toNat % 4) (illCode e), none))
  ∧ (∀ (s : State) (w : W32), exec (.ill w) s = .next (s.illegal (w.toNat % 4) 2)
      ∧ (w.toNat % 4 ≠ 3 → exec (.reservedOpcode w) s = .next (s.illegal (w.toNat % 4) 2))
      ∧ (w.toNat % 4 = 3 → exec (.reservedOpcode w) s = .next (s.illegal 0 1)))
  ∧ (let lim := Limits.widest
    decodeWords lim 0 0 0 = .ok (.ill 0) ∧ decodeWords lim 3 0 0 = .ok (.reservedOpcode 3)
      ∧ decodeWords lim 0x1238 0 0 = .ok (.reservedOpcode 0x1238)
      ∧ decodeWords lim 0x060500B9 0x03030007 0 = .bad .type ∧ decodeWords lim 0x060500B9 0x200B0007 0 = .bad .xl
      ∧ decodeWords lim 0x0302008D 0x00C30004 0 = .ok (.iadd
        { uni := true, gp := 1, gn := false, d := 2, a := 3, b := 4, c := 0, wa := true, wb := true, wc := false, ka := false, kb := false, kc := false, ty := .n64, mod := 0, xl := 0, lit := none }))

/-- 03 R56, R57, R70; 05 R98: an instruction (PREF apart) with an empty guard waits; so does one with an empty destination in a lane of its passes,
whatever its wait bits; else one with an empty source whose wait bit is clear takes EMPTY in the lanes that have one, and one that only has empty
sources with their wait bits set waits. A wait leaves the machine as it is. That the wait for a destination comes before the trap for a source
is a reading (log entry 43). -/
def Obligations.EmptyRegisters : Prop :=
  ∀ (x : Instr) (i : Ins) (s : State), insOf x = some i → i.op ≠ 0x108 → let t := s.team s.cur
    (reservedToHandler i = true → t.hmode = true) →
    (i.passLanes t = none → exec x s = .next s)
    ∧ (∀ ls, i.passLanes t = some ls →
      let hurt := ls.filter (fun l => (i.srcRefs t l).any (fun r => t.empty r.1 && !r.2))
      let waits := ls.any (fun l => (i.srcRefs t l).any (fun r => t.empty r.1))
      ((∃ r ∈ i.written t ls, t.empty r = true) → exec x s = .next s)
      ∧ ((∀ r ∈ i.written t ls, t.empty r = false) →
        (hurt ≠ [] → exec x s = .next (s.trapLanes i cEMPTY 0 hurt))
        ∧ (hurt = [] → waits = true → exec x s = .next s)))

/-! Arithmetic: results. -/

/-- The integer instructions of two operands with their results on one element (06 R126, R114). -/
def intBinary (x : Instr) : Option (Nat × Form × (Int → Int → Int)) :=
  match x with
  | .iadd f => some (0x001, f, fun a b => a + b)
  | .isub f => some (0x002, f, fun a b => a - b)
  | .imul f => some (0x003, f, fun a b => a * b)
  | .imulh f => some (0x004, f, fun a b => a * b / (2 : Int) ^ tyWidth f.ty)
  | .idiv f => some (0x006, f, fun a b => if b = 0 then -1 else Int.tdiv a b)
  | .irem f => some (0x007, f, fun a b => if b = 0 then a else Int.tmod a b)
  | .imin f => some (0x008, f, fun a b => min a b)
  | .imax f => some (0x009, f, fun a b => max a b)
  | .iadds f => some (0x00C, f, fun a b => max (tyLo f.ty) (min (tyHi f.ty) (a + b)))
  | .isubs f => some (0x00D, f, fun a b => max (tyLo f.ty) (min (tyHi f.ty) (a - b)))
  | _ => none

/-- 06 R113: an element of width w holds −2^(w−1) to 2^(w−1) − 1, or 0 to 2^w − 1, by the name of its type; a value made of wrapped elements holds
each of them at its place, so nothing crosses from one element into the next. -/
def Obligations.ElementsStayApart : Prop :=
  ∀ (ty : Ty), let w := tyWidth ty
    (tySigned ty = true → tyLo ty = -(2 : Int) ^ (w - 1) ∧ tyHi ty = (2 : Int) ^ (w - 1) - 1)
    ∧ (tySigned ty = false → tyLo ty = 0 ∧ tyHi ty = (2 : Int) ^ w - 1)
    ∧ (∀ x j, tyLo ty ≤ elemInt ty x j ∧ elemInt ty x j ≤ tyHi ty)
    ∧ (∀ (g : Nat → Int) j, j < tyCount ty →
      (tyLo ty ≤ g j ∧ g j ≤ tyHi ty → elemInt ty (ofElems ty g) j = g j) ∧ (elemInt ty (ofElems ty g) j - g j) % (2 : Int) ^ w = 0)

/-- 06 R114, R126: where an integer instruction of two operands is clear it completes: in each lane of its guard D takes the result of each
element, wrapped to the element's width; IADDS and ISUBS saturate, a division by 0 gives all ones and leaves the dividend as remainder. -/
def Obligations.IntegerBinaryResults : Prop :=
  ∀ (x : Instr) (op : Nat) (f : Form) (g : Int → Int → Int) (s : State) (ls : List Nat), intBinary x = some (op, f, g) →
    Clear (insW op f) (s.team s.cur) ls →
    let i := insW op f
    let t := s.team s.cur
    exec x s = .next (s.finish i (laneWrites i t ls (fun l =>
      ofElems f.ty (fun j => g (elemInt f.ty (i.opa t i.wide l) j) (elemInt f.ty (i.opb t i.wide l) j)))))

/-- The bitwise instructions and shifts with their results on whole operand values of width w (06 R114, R126, R128). -/
def bitwise (x : Instr) : Option (Ins × (Nat → Nat → Nat → Nat)) :=
  match x with
  | .and f => some (insW 0x00E f, fun _ a b => a &&& b)
  | .or f => some (insW 0x00F f, fun _ a b => a ||| b)
  | .xor f => some (insW 0x010 f, fun _ a b => a ^^^ b)
  | .andn f => some (insW 0x011 f, fun w a b => a &&& (2 ^ w - 1 - b))
  | .notS f => some (insS 0x012 f, fun w a _ => 2 ^ w - 1 - a)
  | .notL f => some (insW 0x012 f, fun w a _ => 2 ^ w - 1 - a)
  | .shl f => some (insW 0x013 f, fun w a b => if w ≤ b then 0 else a <<< b)
  | .shr f => some (insW 0x014 f, fun w a b => if w ≤ b then 0 else a >>> b)
  | .sar f => some (insW 0x015 f, fun w a b => wrapInt w (toSigned w a / (2 : Int) ^ min b w))
  | .rol f => some (insW 0x016 f, rolNat)
  | .bfx f => some (insW 0x017 f, bfxNat (tySigned f.ty))
  | .popcS f => some (insS 0x019 f, fun w a _ => ((upTo w).filter (Nat.testBit a)).length)
  | .popcL f => some (insW 0x019 f, fun w a _ => ((upTo w).filter (Nat.testBit a)).length)
  | .clzS f => some (insS 0x01A f, fun w a _ => if a = 0 then w else w - 1 - Nat.log2 a)
  | .clzL f => some (insW 0x01A f, fun w a _ => if a = 0 then w else w - 1 - Nat.log2 a)
  | .ctzS f => some (insS 0x01B f, fun w a _ => ctzNat w a)
  | .ctzL f => some (insW 0x01B f, fun w a _ => ctzNat w a)
  | .brevS f => some (insS 0x01C f, fun w a _ => brevNat w a)
  | .brevL f => some (insW 0x01C f, fun w a _ => brevNat w a)
  | _ => none

/-- 06 R114, R126, R128: where a bitwise instruction, shift or bit count is clear it completes: in each lane D takes the function's value of the
whole operands, cut to the width of the type; a shift by the width or more leaves 0, or the sign in every bit for SAR. -/
def Obligations.BitwiseResults : Prop :=
  ∀ (x : Instr) (i : Ins) (g : Nat → Nat → Nat → Nat) (s : State) (ls : List Nat), bitwise x = some (i, g) →
    Clear i (s.team s.cur) ls →
    let t := s.team s.cur
    let w := tyWidth i.f.ty
    exec x s = .next (s.finish i (laneWrites i t ls (fun l => g w (i.opa t i.wide l) (i.opb t i.wide l) % 2 ^ w)))

/-- The other instructions that compute one value of their type in each lane, with its flags (06 R126–R130, R134–R136, R139). -/
def laneValue (x : Instr) : Option (Ins × (Team → Nat → Nat × Nat)) :=
  match x with
  | .imad f => let i := insW 0x005 f
    some (i, fun t l => (wrapInt (tyWidth f.ty) (elemInt f.ty (i.opa t i.wide l) 0 * elemInt f.ty (i.opb t i.wide l) 0 + elemInt f.ty (i.opc t i.wide l) 0), 0))
  | .iabsS f => let i := insS 0x00A f
    some (i, fun t l => (ofElems i.f.ty (fun j => ((elemInt i.f.ty (i.opa t i.wide l) j).natAbs : Int)), 0))
  | .iabsL f => let i := insW 0x00A f
    some (i, fun t l => (ofElems i.f.ty (fun j => ((elemInt i.f.ty (i.opa t i.wide l) j).natAbs : Int)), 0))
  | .inegS f => let i := insS 0x00B f
    some (i, fun t l => (ofElems i.f.ty (fun j => -elemInt i.f.ty (i.opa t i.wide l) j), 0))
  | .inegL f => let i := insW 0x00B f
    some (i, fun t l => (ofElems i.f.ty (fun j => -elemInt i.f.ty (i.opa t i.wide l) j), 0))
  | .bfi f => let i := insW 0x018 f
    some (i, fun t l => (bfiNat (tyWidth f.ty) (i.opa t i.wide l) (i.opb t i.wide l) (i.opc t i.wide l), 0))
  | .sel f => let i := insW 0x01D f
    some (i, fun t l => (if t.predOf f.uni f.c.toNat l then i.opa t i.wide l else i.opb t i.wide l, 0))
  | .movS f => let i := insS 0x01E f; some (i, fun t l => (i.opa t i.wide l, 0))
  | .movL f => let i := insW 0x01E f; some (i, fun t l => (i.opa t i.wide l, 0))
  | .movi f => some (insW 0x01F f, fun _ _ => (widenLit f.ty (f.lit.getD 0), 0))
  | .prmt f => let i := insW 0x020 f; some (i, fun t l => (prmtNat (i.opa t false l) (i.opb t false l) (i.opc t false l), 0))
  | .fadd f => let i := insW 0x040 f; some (i, flt2 i (FVal.add i.rnd))
  | .fsub f => let i := insW 0x041 f; some (i, flt2 i (fun a b => FVal.add i.rnd a b.neg))
  | .fmul f => let i := insW 0x042 f; some (i, flt2 i FVal.mul)
  | .ffma f => let i := insW 0x043 f; some (i, flt3 i (FVal.fma i.rnd))
  | .fmin f => let i := insW 0x044 f; some (i, flt2 i (FVal.minmax false))
  | .fmax f => let i := insW 0x045 f; some (i, flt2 i (FVal.minmax true))
  | .fabsS f => let i := insS 0x046 f; some (i, signOp i (fun _ => false))
  | .fabsL f => let i := insW 0x046 f; some (i, signOp i (fun _ => false))
  | .fnegS f => let i := insS 0x047 f; some (i, signOp i (fun b => !b))
  | .fnegL f => let i := insW 0x047 f; some (i, signOp i (fun b => !b))
  | .fdiv f => let i := insW 0x048 f; some (i, flt2 i FVal.div)
  | .fsqrtS f => let i := insS 0x049 f; some (i, flt1 i FVal.sqrt)
  | .fsqrtL f => let i := insW 0x049 f; some (i, flt1 i FVal.sqrt)
  | .frcpS f => let i := insS 0x04A f; some (i, flt1 i (FVal.div FVal.one))
  | .frcpL f => let i := insW 0x04A f; some (i, flt1 i (FVal.div FVal.one))
  | .frintS f => let i := insS 0x04B f; some (i, flt1 i (FVal.rint i.rnd))
  | .frintL f => let i := insW 0x04B f; some (i, flt1 i (FVal.rint i.rnd))
  | .fscale f => let i := insW 0x04D f; some (i, fun t l => flt1 i (fun a => FVal.scale a (toSigned 32 (i.opbRaw t false l))) t l)
  | .fdot2 f => let i := insW 0x04E f; some (i, dotOp i)
  | .unpk f => let i := insW 0x082 f
    some (i, fun t l => mapElems f.ty (fun j =>
      unpkElem f.ty (tyOfCode f.c.toNat) t.ftz (elem (tyOfCode f.c.toNat) (i.opa t false l) (f.mod.toNat * tyCount f.ty + j))))
  | _ => none

/-- Values and flags of the lanes of an instruction. -/
def laneOuts (g : Team → Nat → Nat × Nat) (t : Team) (ls : List Nat) : List LaneOut :=
  ls.map (fun l => { lane := l, val := (g t l).1, fl := (g t l).2 })

/-- 06 R122, R123, R126–R130, R134–R136, R139: where such an instruction is clear and raises no enabled flag it completes: D takes the value in
each lane and the flags of all lanes are ORed into FPFLAGS. Where it raises an enabled flag it traps with class FPX and the enabled flags raised as
subcode, the lanes that raised one recorded; what it would have written and its flags are not. -/
def Obligations.LaneValueResults : Prop :=
  (
    ∀ (x : Instr) (i : Ins) (g : Team → Nat → Nat × Nat) (s : State) (ls : List Nat), laneValue x = some (i, g) →
      Clear i (s.team s.cur) ls → (s.team s.cur).fpx (flagsOf (laneOuts g (s.team s.cur) ls)) = 0 →
      let t := s.team s.cur
      exec x s = .next (s.finish i (laneWrites i (t.addFlags (flagsOf (laneOuts g t ls))) ls (fun l => (g t l).1))))
  ∧ (
    ∀ (x : Instr) (i : Ins) (g : Team → Nat → Nat × Nat) (s : State) (ls : List Nat), laneValue x = some (i, g) →
      Clear i (s.team s.cur) ls →
      let t := s.team s.cur
      let fl := flagsOf (laneOuts g t ls)
      t.fpx fl ≠ 0 → exec x s = .next (s.trapLanes i cFPX (t.fpx fl) (ls.filter (fun l => t.fpx (g t l).2 ≠ 0))))

/-- Instructions whose whole effect is one value of their type in each lane. -/
def valueIns (x : Instr) : Option Ins :=
  match intBinary x, bitwise x, laneValue x with
  | some (op, f, _), _, _ => some (insW op f)
  | none, some (i, _), _ => some i
  | none, none, some (i, _) => some i
  | none, none, none => none

/-- 03 R54, R55; 05 R97; 06 R114, R122: the frame of the instructions that write one value in each lane, where no flag is enabled: they complete past
themselves; every register outside field D in the lanes of their passes, every trap and control register and everything beyond the team keep their
values, FPFLAGS keeps what it held. A value written reads back from D: a pair in a lane form of a 64-bit type. -/
def Obligations.RegisterFrame : Prop :=
  (∀ (x : Instr) (i : Ins) (s : State) (ls : List Nat), valueIns x = some i → Clear i (s.team s.cur) ls → (∀ n, (s.team s.cur).fpx n = 0) →
    let t := s.team s.cur
    ∃ u, exec x s = .next u ∧ (u.team s.cur).pc = t.pc + BitVec.ofNat 64 (4 * (i.len + 1))
      ∧ t.sameRegs (u.team s.cur) (ls.flatMap i.valueRegs) ∧ t.sameControl (u.team s.cur) ∧ s.sameBeyond u s.cur
      ∧ (u.team s.cur).fpflags &&& t.fpflags = t.fpflags ∧ (laneValue x = none → (u.team s.cur).fpflags = t.fpflags))
  ∧ (∀ (i : Ins) (t : Team) (ls : List Nat) (v : Nat → Nat) (l : Nat), i.f.uni = false → ls.Nodup → (∀ k ∈ ls, k < 1024) → l ∈ ls →
    (laneWrites i t ls v).opnd false (tyWide i.f.ty) i.f.d.toNat l = v l % 2 ^ (if tyWide i.f.ty then 64 else 32))
  ∧ (∀ (i : Ins) (t : Team) (v : Nat → Nat), i.f.uni = true → (laneWrites i t [0] v).sr i.f.d.toNat = scalarOf i.f.ty (v 0))

/-- 06 R119, R131–R133, R136–R138: IADDC, SRD, FCLASS, CVT and PACK where they are clear: IADDC writes the sum with the carry in and the carry
out, SRD the special register, FCLASS one n32 value, CVT and PACK advance SEED under rounding code 4. -/
def Obligations.CarryConversionResults : Prop :=
  (∀ (f : Form) (s : State) (ls : List Nat), Clear (insW 0x023 f) (s.team s.cur) ls →
    let i := insW 0x023 f
    let t := s.team s.cur
    let sum := fun l => i.opa t false l + i.opb t false l + bnat (t.predOf f.uni f.c.toNat l)
    exec (.iaddc f) s = .next (s.finish i (ls.foldl (fun u l =>
      let u1 := i.writeD u l (sum l % 2 ^ 32)
      if f.uni then u1.setQ f.c.toNat (decide (2 ^ 32 ≤ sum l)) else u1.setP f.c.toNat l (decide (2 ^ 32 ≤ sum l))) t)))
  ∧ (∀ (f : Form) (s : State) (ls : List Nat), Clear (insW 0x021 f) (s.team s.cur) ls →
    ((srHandler f.a.toNat = true) → (s.team s.cur).hmode = true) →
    let i := insW 0x021 f
    exec (.srd f) s = .next (s.finish i (ls.foldl (fun u l =>
      if f.uni then u.setS f.d.toNat (s.special s.cur f.a.toNat l) else i.writeD u l (s.special s.cur f.a.toNat l)) (s.team s.cur))))
  ∧ (∀ (f : SForm) (s : State) (ls : List Nat), Clear (insS 0x04C f) (s.team s.cur) ls →
    let i := insS 0x04C f
    let t := s.team s.cur
    exec (.fclassS f) s = .next (s.finish i (ls.foldl (fun u l => u.writeReg f.uni .n32 f.d.toNat l (classOp i t l).1) t)))
  ∧ (∀ (f : Form) (s : State) (ls : List Nat), Clear (insW 0x04C f) (s.team s.cur) ls →
    let i := insW 0x04C f
    let t := s.team s.cur
    exec (.fclassL f) s = .next (s.finish i (ls.foldl (fun u l => u.writeReg f.uni .n32 f.d.toNat l (classOp i t l).1) t)))
  ∧ (∀ (x : Instr) (f : Form) (i : Ins) (g : Team → Nat → Nat × Nat) (s : State) (ls : List Nat),
    (x = .cvt f ∧ i = insW 0x080 f ∧ g = (fun t l => cvtVal f.ty (tyOfCode f.c.toNat) f.mod.toNat t.ftz (srAdvance 1 (srStart t.seed l))
        (elem (tyOfCode f.c.toNat) (i.opa t (tyWide (tyOfCode f.c.toNat)) l) 0)))
      ∨ (x = .pack f ∧ i = insW 0x081 f ∧ g = (fun t l => mapElems f.ty (fun j =>
        packElem f.ty (tyOfCode f.c.toNat) f.mod.toNat t.ftz (srAdvance (j + 1) (srStart t.seed l))
          (if j < tyCount (tyOfCode f.c.toNat) then elem (tyOfCode f.c.toNat) (i.opa t false l) j
           else elem (tyOfCode f.c.toNat) (i.opb t false l) (j - tyCount (tyOfCode f.c.toNat)))))) →
    Clear i (s.team s.cur) ls → (s.team s.cur).fpx (flagsOf (laneOuts g (s.team s.cur) ls)) = 0 →
    let t := s.team s.cur
    let u := laneWrites i (t.addFlags (flagsOf (laneOuts g t ls))) ls (fun l => (g t l).1)
    exec x s = .next (s.finish i { u with seed := if f.mod.toNat = 4 then srNext t.seed else t.seed }))

/-- 06 R133; 15 R263: a clear SWR with a true guard writes the special register that D names, its reserved bits ignored, where its mode may; a
write of RPROG waits while an MMA of the team runs, and completes where none is under way, or where the one under way has stopped (that it does not
wait for a stopped one is a reading, log entry 51). -/
def Obligations.SpecialRegisterWrites : Prop :=
  ∀ (f : Form) (s : State), Clear (insW 0x022 f) (s.team s.cur) [0] → (srHandler f.d.toNat = true → (s.team s.cur).hmode = true) →
    let i := insW 0x022 f
    let t := s.team s.cur
    let x := BitVec.ofNat 64 (t.sr f.a.toNat)
    (f.d.toNat ≠ 16 → exec (.swr f) s = .next (s.finish i (t.setSpecial f.d.toNat x)))
    ∧ (f.d.toNat = 16 → t.mma = none → exec (.swr f) s = .next (s.finish i { t with rprog := x &&& 0xFFFF0000FFFFFFFF }))
    ∧ (∀ m, f.d.toNat = 16 → t.mma = some m → m.stopped = false → exec (.swr f) s = .next s)
    ∧ (∀ m, f.d.toNat = 16 → t.mma = some m → m.stopped = true → exec (.swr f) s = .next (s.finish i (t.setRprog x)))

/-- Compares and predicate functions with their results and flags (07 R141–R144). -/
def tested (x : Instr) : Option (Ins × (Team → Nat → Bool × Nat)) :=
  match x with
  | .icmp f => let i := insW 0x0A0 f
    some (i, fun t l => (icmpTest f.mod.toNat (elemInt f.ty (i.opa t i.wide l) 0) (elemInt f.ty (i.opb t i.wide l) 0), 0))
  | .fcmp f => let i := insW 0x0A1 f
    some (i, fun t l => fcmpTest f.mod.toNat ((tyFmt f.ty).read t.ftz (elem f.ty (i.opa t i.wide l) 0))
      ((tyFmt f.ty).read t.ftz (elem f.ty (i.opb t i.wide l) 0)))
  | .plop f => some (insW 0x0A2 f, fun t l => (plopTest f.mod.toNat (t.predOf f.uni f.a.toNat l) (t.predOf f.uni f.b.toNat l), 0))
  | .pmov f => if f.mod.toNat = 0 then some (insW 0x0A3 f, fun t l => (t.predOf f.uni f.a.toNat l, 0)) else none
  | _ => none

/-- 07 R141–R144: where a compare or predicate function is clear and raises no enabled flag, pD takes its result and pE the complement in each
lane; PMOV's modes 1 and 2 move all predicates of a lane to and from a register. PLOP's test is the function that MOD names (R143); p7 and q7 read
as 1 and a write to them is discarded, so that exclusive or with p7 negates and a pD of p7 leaves pE alone. -/
def Obligations.PredicateResults : Prop :=
  (∀ (x : Instr) (i : Ins) (g : Team → Nat → Bool × Nat) (s : State) (ls : List Nat), tested x = some (i, g) →
    Clear i (s.team s.cur) ls →
    let t := s.team s.cur
    let fl := flagsOf (laneOuts (fun t l => (0, (g t l).2)) t ls)
    t.fpx fl = 0 → exec x s = .next (s.finish i (ls.foldl (fun u l => u.setPair i.f.uni i.pd i.pe l (g t l).1) (t.addFlags fl))))
  ∧ (∀ (f : Form) (s : State) (ls : List Nat), Clear (insW 0x0A3 f) (s.team s.cur) ls →
    let i := insW 0x0A3 f
    let t := s.team s.cur
    (f.mod.toNat = 1 → exec (.pmov f) s = .next (s.finish i (ls.foldl (fun u l => u.writeReg f.uni .n32 f.d.toNat l (predWord t f.uni l)) t)))
    ∧ (f.mod.toNat = 2 → exec (.pmov f) s = .next (s.finish i (ls.foldl (fun u l => (upTo 7).foldl (fun u n =>
        if f.uni then u.setQ n (nbit (i.opa t false l) n) else u.setP n l (nbit (i.opa t false l) n)) u) t))))
  ∧ (∀ (a b : Bool), plopTest 0 a b = (a && b) ∧ plopTest 1 a b = (a || b) ∧ plopTest 2 a b = (a ^^ b) ∧ plopTest 3 a b = (a && !b)
      ∧ plopTest 4 a b = (a || !b) ∧ plopTest 5 a b = !(a && b) ∧ plopTest 6 a b = !(a || b) ∧ plopTest 7 a b = !(a ^^ b)
      ∧ plopTest 2 a true = !a)
  ∧ (∀ (t : Team) (uni : Bool) (e l : Nat) (c : Bool), t.predOf uni 7 l = true
      ∧ t.setPair uni 7 e l c = (if uni then t.setQ e (!c) else t.setP e l (!c)))

/-! Long-latency producers. -/

/-- The producers whose values raise no flag, with the values on their way (07 R147, R148, R150; 15 R268). -/
def producer (x : Instr) : Option (Ins × (Team → List Nat → List Dst)) :=
  match x with
  | .shfl f => let i := insW 0x0C0 f; some (i, fun t ls => laneDsts i ls (fun l => t.opnd f.ka i.wide f.a.toNat (i.shuffleLane t l)))
  | .bcst f => let i := insW 0x0C1 f; some (i, fun t ls => laneDsts i ls (fun l => t.opnd f.ka i.wide f.a.toNat (i.shuffleLane t l)))
  | .mbalS f => some (insS 0x0C3 f, matchBallot (insS 0x0C3 f))
  | .mbalL f => some (insW 0x0C3 f, matchBallot (insW 0x0C3 f))
  | .vote f => let i := insW 0x0C2 f
    some (i, fun t ls =>
      let pa := fun l => t.pr f.a.toNat l
      if f.mod.toNat = 0 then ls.flatMap (fun l => pairDsts false i.pd i.pe l (ls.any pa) (!(ls.any pa)))
      else if f.mod.toNat = 1 then ls.flatMap (fun l => pairDsts false i.pd i.pe l (ls.all pa) (!(ls.all pa)))
      else if f.mod.toNat = 2 then ls.map (fun l => Dst.v f.d.toNat l (BitVec.ofNat 32 (ballot ls (l / 32) pa)))
      else ls.map (fun l => Dst.v f.d.toNat l (BitVec.ofNat 32 (ls.filter pa).length)))
  | .tsort f => let i := insW 0x0C6 f
    some (i, fun t ls => (ls.zip (ranked i t ls)).flatMap (fun e => pair32 f.d.toNat e.1 (i.opa t false e.2) (i.opbRaw t false e.2)))
  | .tselk f => let i := insW 0x0C7 f
    some (i, fun t ls =>
      let l := (ranked i t ls).getD (max 1 (min (i.opbRaw t false 0) (ranked i t ls).length) - 1) 0
      ls.flatMap (fun m => pair32 f.d.toNat m (i.opa t false l) l))
  | _ => none

/-- The producers whose values may raise flags: the flags by lane and the values on their way (07 R149, R151–R153; 15 R267). -/
def flaggedProducer (x : Instr) : Option (Ins × (Team → List Nat → List LaneOut × List Dst)) :=
  let scan (i : Ins) : Option (Ins × (Team → List Nat → List LaneOut × List Dst)) :=
    some (i, fun t ls =>
      let r := scanResults i t ls
      (ls.map (fun l => { lane := l, val := 0, fl := r.2 }), r.1.flatMap (fun e => dstsOf false i.f.ty i.f.d.toNat e.1 e.2)))
  let fu (i : Ins) (g : Bool → Nat → Nat → Nat → Nat × Nat) : Option (Ins × (Team → List Nat → List LaneOut × List Dst)) :=
    some (i, fun t ls =>
      let r := fun l => g t.ftz i.f.c.toNat (i.opa t false l) (t.opnd i.f.kb false i.f.b.toNat l)
      (ls.map (fun l => { lane := l, val := (r l).1, fl := (r l).2 }), ls.map (fun l => Dst.v i.f.d.toNat l (BitVec.ofNat 32 (r l).1))))
  match x with
  | .scanS f => scan (insS 0x0C4 f)
  | .scanL f => scan (insW 0x0C4 f)
  | .redS f => scan (insS 0x0C5 f)
  | .redL f => scan (insW 0x0C5 f)
  | .cexp2 f => fu (insW 0x0E0 f) (fun z n a _ => fuExp2 z n a)
  | .clog2 f => fu (insW 0x0E1 f) (fun z n a _ => fuLog2 z n a)
  | .csin f => fu (insW 0x0E2 f) (fun z n a _ => fuSinCos true (Config.cordic 0x0E2 (BitVec.ofNat 32 (flushCode z a)) 0 n) z n a)
  | .ccos f => fu (insW 0x0E3 f) (fun z n a _ => fuSinCos false (Config.cordic 0x0E3 (BitVec.ofNat 32 (flushCode z a)) 0 n) z n a)
  | .csincos f => let i := insW 0x0E4 f
    some (i, fun t ls =>
      let c := fun l => BitVec.ofNat 32 (flushCode t.ftz (i.opa t false l))
      let sn := fun l => fuSinCos true (Config.cordic 0x0E4 (c l) 0 f.c.toNat) t.ftz f.c.toNat (i.opa t false l)
      let cs := fun l => fuSinCos false (Config.cordicCos (c l) f.c.toNat) t.ftz f.c.toNat (i.opa t false l)
      (ls.map (fun l => { lane := l, val := 0, fl := (sn l).2 ||| (cs l).2 }), ls.flatMap (fun l => pair32 f.d.toNat l (sn l).1 (cs l).1)))
  | .catan2 f => fu (insW 0x0E5 f) fuAtan2
  | .ctanh f => fu (insW 0x0E6 f) (fun z n a _ => fuTanh z n a)
  | .csigm f => fu (insW 0x0E7 f) (fun z n a _ => fuSigm z n a)
  | .crsq f => fu (insW 0x0E8 f) (fun z n a _ => fuRoot true z n a)
  | .csqrt f => fu (insW 0x0E9 f) (fun z n a _ => fuRoot false z n a)
  | .sbq f => let i := insW 0x083 f
    some (i, fun t ls =>
      let val := fun l => fmtF32.read t.ftz (i.opa t false l)
      let os := (wordLanes t ls).flatMap (fun w => w.2.map (fun l =>
        let sc := wordScale (encOfTy f.ty) (w.2.map val)
        let r := quantElem (encOfTy f.ty) f.mod.toNat sc (val l)
        ({ lane := l, val := 65536 * sc + r.1, fl := r.2 } : LaneOut)))
      (os, os.map (fun o => Dst.v f.d.toNat o.lane (BitVec.ofNat 32 o.val))))
  | .sbdq f => let i := insW 0x084 f
    some (i, fun t ls => ([], (wordLanes t ls).flatMap (fun w =>
      let vs := blockVals (encOfTy f.ty) (i.opa t false (w.2.headD 0) / 65536)
        (fun k => if 32 * w.1 + k < t.nlanes then i.opa t false (32 * w.1 + k) % 2 ^ scaledBits (encOfTy f.ty) else 0)
      w.2.map (fun l => Dst.v f.d.toNat l (BitVec.ofNat 32 (toF32 (vs.getD (l % 32) (.fin false 0 0))))))))
  | _ => none

/-- 05 R97, R98; 06 R122, R123; 07 R147–R153; 15 R267, R268: where a producer without flags is clear it goes on past itself with its destinations
empty and one late reply under way that carries its values (one for all its lanes: log entry 46); with no contributing lane it has no effect. One that may raise flags does so where it has a
contributing lane and raises no enabled flag, its flags ORed into FPFLAGS. The values of the function unit between its exact cases are the model's free
ones (log entry 4). -/
def Obligations.ProducersSend : Prop :=
  (
    ∀ (x : Instr) (i : Ins) (g : Team → List Nat → List Dst) (s : State) (ls : List Nat), producer x = some (i, g) →
      Clear i (s.team s.cur) ls →
      let t := s.team s.cur
      exec x s = .next (if ls = [] then s.finish i t
        else { (s.setTeam s.cur ((t.markAll (ls.flatMap i.dstRefs)).advance i)) with
                 replies := s.replies ++ [{ team := s.cur, dsts := g t ls, entry := none, completes := true, bytes := 0, set := 5, trap := none }] }))
  ∧ (
    ∀ (x : Instr) (i : Ins) (g : Team → List Nat → List LaneOut × List Dst) (s : State) (ls : List Nat), flaggedProducer x = some (i, g) →
      Clear i (s.team s.cur) ls → ls ≠ [] →
      let t := s.team s.cur
      let fl := flagsOf (g t ls).1
      t.fpx fl = 0 → exec x s = .next (s.produce i (t.addFlags fl) (ls.flatMap i.dstRefs) (g t ls).2 5))

/-! Control flow. -/

/-- 07 R154, R155: where a branch, call or return is clear with a true guard it completes at its target: LIT for BRA and CALL, sa for RET, sa + B
for JMPI where that is a multiple of 4 within the text; LOOP counts sd down and falls through at 0; CALL leaves PC + 12 in sd. BRV, BANY and BALL
look at the predicate p of the contributing lanes: BRV goes to its target where p holds in all of them, past itself where it holds in none, and
takes NUB where they differ; BANY goes where p holds in some, BALL where there is a lane and p holds in all. -/
def Obligations.BranchTargets : Prop :=
  (
    ∀ (s : State), let t := s.team s.cur
      (∀ f : Form, Clear (insW 0x1A0 f) t [0] → exec (.bra f) s = .next (s.jump t (litTarget f)))
      ∧ (∀ f : Form, Clear (insW 0x1A4 f) t [0] → exec (.call f) s = .next (s.jump (t.setS f.d.toNat (t.pc + 12).toNat) (litTarget f)))
      ∧ (∀ f : SForm, Clear (insS 0x1A5 f) t [0] → t.sr f.a.toNat % 4 = 0 → t.sr f.a.toNat < s.klen t →
          exec (.retS f) s = .next (s.jump t (BitVec.ofNat 64 (t.sr f.a.toNat))))
      ∧ (∀ f : Form, Clear (insW 0x1A5 f) t [0] → t.sr f.a.toNat % 4 = 0 → t.sr f.a.toNat < s.klen t →
          exec (.retL f) s = .next (s.jump t (BitVec.ofNat 64 (t.sr f.a.toNat))))
      ∧ (∀ f : Form, Clear (insW 0x1A6 f) t [0] →
          let x := BitVec.ofNat 64 (t.sr f.a.toNat) + (match f.lit with | some l => l.signExtend 64 | none => BitVec.ofNat 64 (t.sr f.b.toNat))
          (x.toNat % 4 = 0 ∧ x.toNat < s.klen t → exec (.jmpi f) s = .next (s.jump t x))
          ∧ (¬(x.toNat % 4 = 0 ∧ x.toNat < s.klen t) → exec (.jmpi f) s = .next (s.illegal (insW 0x1A6 f).len 4)))
      ∧ (∀ f : Form, Clear (insW 0x1A7 f) t [0] →
          let x := BitVec.ofNat 64 (t.sr f.d.toNat) - 1
          (x ≠ 0 → exec (.loop f) s = .next (s.jump (t.setS f.d.toNat x.toNat) (litTarget f)))
          ∧ (x = 0 → exec (.loop f) s = .next (s.finish (insW 0x1A7 f) (t.setS f.d.toNat x.toNat)))))
  ∧ (
    ∀ (f : Form) (s : State) (ls : List Nat), let t := s.team s.cur
      let p := fun l => t.pr f.a.toNat l
      (Clear (insW 0x1A1 f) t ls →
        (ls ≠ [] → (∀ l ∈ ls, p l = true) → exec (.brv f) s = .next (s.jump t (litTarget f)))
        ∧ ((∀ l ∈ ls, p l = false) → exec (.brv f) s = .next (s.finish (insW 0x1A1 f) t))
        ∧ (∀ l k, l ∈ ls → k ∈ ls → p l ≠ p k → ∃ bad, bad ≠ [] ∧ (∀ x ∈ bad, x ∈ ls) ∧ exec (.brv f) s = .next (s.trapLanes (insW 0x1A1 f) cNUB 0 bad)))
      ∧ (Clear (insW 0x1A2 f) t ls →
        ((∃ l ∈ ls, p l = true) → exec (.bany f) s = .next (s.jump t (litTarget f)))
        ∧ ((∀ l ∈ ls, p l = false) → exec (.bany f) s = .next (s.finish (insW 0x1A2 f) t)))
      ∧ (Clear (insW 0x1A3 f) t ls →
        (ls ≠ [] → (∀ l ∈ ls, p l = true) → exec (.ball f) s = .next (s.jump t (litTarget f)))
        ∧ ((ls = [] ∨ ∃ l ∈ ls, p l = false) → exec (.ball f) s = .next (s.finish (insW 0x1A3 f) t))))

/-- 03 R44, 07 R154: a finished instruction's team goes on at PC + 4 × its words, one that jumps at its target; of the team nothing else changes but
its count of instructions, its waste of a sibling group and the rejections of its access, and nothing beyond the team does. So its registers, their
full and empty bits, FPFLAGS and its control registers are as they were. -/
def Obligations.CompletionFrame : Prop :=
  ∀ (s : State) (i : Ins) (t : Team) (target : W64),
    let a := s.finish i t
    let b := s.jump t target
    let kept := fun u : Team => t.sameRegs u [] ∧ t.sameControl u ∧ u.fpflags = t.fpflags ∧ u.vE = t.vE ∧ u.sE = t.sE ∧ u.pE = t.pE ∧ u.qE = t.qE
    (∃ w, a.team s.cur = { t with pc := t.pc + BitVec.ofNat 64 (4 * (i.len + 1)), icount := t.icount + 1, waste := w, rejects := 0 })
    ∧ (∃ w, b.team s.cur = { t with pc := target, icount := t.icount + 1, waste := w })
    ∧ kept (a.team s.cur) ∧ kept (b.team s.cur)
    ∧ s.sameBeyond a s.cur ∧ s.sameBeyond b s.cur

/-- 04 R86; 07 R157–R159: where EXIT, SLEEP, YIELD or BAR is clear it completes: EXIT removes its lanes from the mask (every lane in its uniform
form), once no MMA is under way and, where it takes the last lane, no access is pending; SLEEP of 0 and YIELD go past; once no access of the team is
pending SLEEP parks until CLOCK + n, and BAR completes its block's barrier, or parks until the block's other teams have arrived, each going on past
itself. -/
def Obligations.ExitSleepYieldBar : Prop :=
  ∀ (s : State), let t := s.team s.cur
    (∀ (f : SForm) (ls : List Nat), Clear (insS 0x1A8 f) t ls → ls ≠ [] → t.mma = none →
        ((t.removeLanes (if f.uni then t.lanes else ls)).mask ≠ 0 ∨ s.busy s.cur = false) →
        exec (.exitS f) s = .next (s.finish (insS 0x1A8 f) (t.removeLanes (if f.uni then t.lanes else ls))))
    ∧ (∀ (f : Form) (ls : List Nat), Clear (insW 0x1A8 f) t ls → ls ≠ [] → t.mma = none →
        ((t.removeLanes (if f.uni then t.lanes else ls)).mask ≠ 0 ∨ s.busy s.cur = false) →
        exec (.exitL f) s = .next (s.finish (insW 0x1A8 f) (t.removeLanes (if f.uni then t.lanes else ls))))
    ∧ (∀ f : SForm, Clear (insS 0x1AA f) t [0] → s.busy s.cur = false →
        let n := BitVec.ofNat 64 (t.sr f.a.toNat)
        exec (.sleepS f) s = .next (if n = 0 then s.finish (insS 0x1AA f) t
          else (s.setTeam s.cur { t.advance (insS 0x1AA f) with countOnWake := true }).park s.cur .sleep (s.clock + n)))
    ∧ (∀ f : Form, Clear (insW 0x1AA f) t [0] → s.busy s.cur = false →
        let n : W64 := match f.lit with | some l => l.zeroExtend 64 | none => BitVec.ofNat 64 (t.sr f.a.toNat)
        exec (.sleepL f) s = .next (if n = 0 then s.finish (insW 0x1AA f) t
          else (s.setTeam s.cur { t.advance (insW 0x1AA f) with countOnWake := true }).park s.cur .sleep (s.clock + n)))
    ∧ (∀ f : SForm, Clear (insS 0x1AB f) t [0] → exec (.yield f) s = .next (s.finish (insS 0x1AB f) { t with age := s.clock.toNat + 1 }))
    ∧ (∀ f : SForm, Clear (insS 0x1A9 f) t [0] → s.busy s.cur = false →
        let b := s.block t.block
        let s1 := s.setBlock t.block { b with arrived := b.arrived ++ [s.cur] }
        (s1.barrierMet t.block = true → exec (.bar f) s = .next ((s1.finish (insS 0x1A9 f) t).barrierStep t.block))
        ∧ (s1.barrierMet t.block = false → exec (.bar f) s =
            .next ((s1.setTeam s.cur { t.advance (insS 0x1A9 f) with countOnWake := true }).park s.cur .barrier (BitVec.ofNat 64 b.gen))))

/-! Traps. -/

/-- 03 R66, R67; 07 R154; 09 R202: the instructions whose effect is a trap: TRAP takes SOFT with LIT as subcode, BKPT DEBUG with subcode 1, ILL
and a reserved opcode ILLENC with subcode 2 in every active lane, LEN = 11 ILLENC with subcode 1. -/
def Obligations.TrapInstructions : Prop :=
  ∀ (s : State), let t := s.team s.cur
    (∀ f : Form, Clear (insW 0x1AC f) t [0] → exec (.trap f) s = .next (s.trapLanes (insW 0x1AC f) cSOFT (f.lit.getD 0).toNat [0]))
    ∧ (∀ f : SForm, Clear (insS 0x1E4 f) t [0] → exec (.bkpt f) s = .next (s.trapLanes (insS 0x1E4 f) cDEBUG 1 [0]))
    ∧ (∀ w : W32, exec (.ill w) s = .next (s.illegal (w.toNat % 4) 2))
    ∧ (∀ w : W32, w.toNat % 4 ≠ 3 → exec (.reservedOpcode w) s = .next (s.illegal (w.toNat % 4) 2))
    ∧ (∀ w : W32, w.toNat % 4 = 3 → exec (.reservedOpcode w) s = .next (s.illegal 0 1))

/-- 09 R182–R184: a team outside handler mode with a handler for the class enters it: TRAPPC and TRAPCAUSE, the uniform predicates and FPCTL are
saved, FPCTL's enables cleared, handler mode set, and the PC is TRAPBASE + class × 0x40; its other registers stay. A trap with no handler, or in
handler mode, halts the team for good: it parks with cause halted, its block is dead, and its PC and registers stay. -/
def Obligations.TrapEntry : Prop :=
  (
    ∀ (s : State) (i : Nat) (x : TrapInfo), (s.team i).hmode = false → s.noHandler (s.team i) x.cls = false →
      let t := s.team i
      let u := (s.takeTrap i x).team i
      u.hmode = true ∧ u.pc = t.trapbase + BitVec.ofNat 64 (x.cls * 0x40) ∧ u.trappc = x.pc
      ∧ u.trapcause = trapWord x.cls x.sub x.ilen t.slot (multiCause x.causes) false
      ∧ u.savedQ = t.q ∧ u.savedQE = t.qE ∧ u.savedFpctl = t.fpctl ∧ u.fpctl = t.fpctl &&& 0xFFFFFE0F
      ∧ t.sameRegs u [] ∧ u.mask = t.mask ∧ u.trapbase = t.trapbase ∧ u.fpflags = t.fpflags ∧ u.icount = t.icount)
  ∧ (
    ∀ (s : State) (i : Nat) (x : TrapInfo), ((s.team i).hmode = true ∨ s.noHandler (s.team i) x.cls = true) →
      let t := s.team i
      let r := s.takeTrap i x
      (r.team i).st = .parked ∧ (r.team i).cause = .halted ∧ (r.team i).pc = t.pc ∧ t.sameRegs (r.team i) []
      ∧ (r.team i).hmode = t.hmode ∧ (r.block t.block).dead = true)

/-- 09 R184: TRAPCAUSE as a trap leaves it: SUBCODE, DOUBLE in handler mode, MULTI where its lanes recorded more than one class, SLOT, ILEN and CLASS
at their bits, the reserved bits 0; SWR of it writes those fields alone; it resets to 0. A precise trap's ILEN is the LEN of the instruction at its PC,
0 for LEN = 11. Outside handler mode SRD and SWR of it take PRIV. -/
def Obligations.TrapCauseFields : Prop :=
  (∀ (s : State) (i : Nat) (x : TrapInfo), x.cls < 16 → x.ilen < 4 → (s.team i).slot < 16 →
    let t := s.team i
    let w := ((s.takeTrap i x).team i).trapcause
    fld w 63 32 = x.sub % 2 ^ 32 ∧ w.getLsbD 17 = t.hmode ∧ (w.getLsbD 16 = true ↔ ∃ a ∈ x.causes, ∃ b ∈ x.causes, a.2 ≠ b.2)
      ∧ fld w 11 8 = t.slot ∧ fld w 5 4 = x.ilen ∧ fld w 3 0 = x.cls ∧ fld w 31 18 = 0 ∧ fld w 15 12 = 0 ∧ fld w 7 6 = 0)
  ∧ (∀ (t : Team) (y : W64), let w := (t.setSpecial 21 y).trapcause
    fld w 63 32 = fld y 63 32 ∧ w.getLsbD 17 = y.getLsbD 17 ∧ w.getLsbD 16 = y.getLsbD 16 ∧ fld w 11 8 = fld y 11 8 ∧ fld w 5 4 = fld y 5 4
      ∧ fld w 3 0 = fld y 3 0 ∧ fld w 31 18 = 0 ∧ fld w 15 12 = 0 ∧ fld w 7 6 = 0)
  ∧ (∀ (s : State) (l : Nat), s.special s.cur 21 l = (s.team s.cur).trapcause.toNat)
  ∧ (∀ (s : State) (i : Ins) (cls sub : Nat) (ls : List Nat), ∃ x, s.trapLanes i cls sub ls = s.takeTrap s.cur x ∧ x.cls = cls ∧ x.sub = sub
      ∧ x.ilen = i.len ∧ x.pc = (s.team s.cur).pc)
  ∧ (∀ (s : State) (w : W32), w.toNat % 4 = 3 → ∃ x, exec (.reservedOpcode w) s = .next (s.takeTrap s.cur x) ∧ x.cls = cILLENC ∧ x.ilen = 0)
  ∧ (∀ (s : State) (f : Form), (s.team s.cur).hmode = false →
      (f.a.toNat = 21 → exec (.srd f) s = .next (s.trapLanes (insW 0x021 f) cPRIV 0 (s.team s.cur).lanes))
      ∧ (f.d.toNat = 21 → exec (.swr f) s = .next (s.trapLanes (insW 0x022 f) cPRIV 0 (s.team s.cur).lanes)))
  ∧ Team.blank.trapcause = 0

/-- 09 R198: RTE in handler mode restores the uniform predicates and FPCTL that the entry saved, leaves handler mode, empties the side buffer and
goes on at TRAPPC with bits 1:0 clear (log entry 13); its vector and scalar registers stay. -/
def Obligations.ReturnFromTrap : Prop :=
  ∀ (f : SForm) (s : State), Clear (insS 0x1E0 f) (s.team s.cur) [0] → (s.team s.cur).mma = none → (s.team s.cur).st ≠ .parked →
    ∃ u, exec (.rte f) s = .next u ∧
      let t := s.team s.cur
      let v := u.team s.cur
      v.q = t.savedQ ∧ v.qE = t.savedQE ∧ v.fpctl = t.savedFpctl ∧ v.hmode = false ∧ v.side = [] ∧ v.pc = t.trappc &&& ~~~(3 : W64)
      ∧ v.v = t.v ∧ v.s = t.s ∧ v.p = t.p ∧ v.icount = t.icount + 1 ∧ v.mask = t.mask

/-- 09 R182, R198: a trap and its handler's RTE undo each other: a team of a block that runs, that enters a handler at a word-aligned PC and whose handler is one RTE,
goes on at that PC with its vector, scalar, lane and uniform predicate registers and its FPCTL as they were. -/
def Obligations.TrapThenReturn : Prop :=
  ∀ (f : SForm) (s : State) (x : TrapInfo), (s.team s.cur).hmode = false → s.noHandler (s.team s.cur) x.cls = false →
    x.pc = (s.team s.cur).pc → (s.team s.cur).pc &&& 3 = 0 → (s.team s.cur).mma = none → (s.team s.cur).st = .active →
    (s.block (s.team s.cur).block).dead = false →
    Clear (insS 0x1E0 f) ((s.takeTrap s.cur x).team s.cur) [0] →
    ∃ u, exec (.rte f) (s.takeTrap s.cur x) = .next u ∧
      let t := s.team s.cur
      let v := u.team s.cur
      v.pc = t.pc ∧ v.hmode = false ∧ v.fpctl = t.fpctl ∧ v.v = t.v ∧ v.s = t.s ∧ v.p = t.p ∧ v.q = t.q

/-- 09 R199–R204; 24 R389: where the handler and mailbox instructions are clear with a true guard they complete: TSB reads the side buffer,
HALTB halts the block, STEP arms the step, WATCH sets or turns away a range, MBXW and MBXR reach the entry of their function once every
earlier access is done. -/
def Obligations.HandlerInstructions : Prop :=
  ∀ (s : State), let t := s.team s.cur
    (∀ f : SForm, Clear (insS 0x1E1 f) t [0] →
      let n := t.sr f.a.toNat
      exec (.tsbS f) s = .next (s.finish (insS 0x1E1 f) (t.setS f.d.toNat (if n < 72 then (SMap.get t.side n (0 : W64)).toNat else 0))))
    ∧ (∀ f : Form, Clear (insW 0x1E1 f) t [0] →
      let n := match f.lit with | some l => l.toNat | none => t.sr f.a.toNat
      exec (.tsbL f) s = .next (s.finish (insW 0x1E1 f) (t.setS f.d.toNat (if n < 72 then (SMap.get t.side n (0 : W64)).toNat else 0))))
    ∧ (∀ f : SForm, Clear (insS 0x1E2 f) t [0] → exec (.haltb f) s =
        .next ((s.finish (insS 0x1E2 f) { t with skid := none, trapskid := s.originSkid s.cur t.trappc }).haltBlock s.cur))
    ∧ (∀ f : SForm, Clear (insS 0x1E3 f) t [0] → exec (.step f) s = .next (s.finish (insS 0x1E3 f) { t with stepctl := t.stepctl ||| 1 }))
    ∧ (∀ f : Form, Clear (insW 0x1E5 f) t [0] →
      let a := t.sr f.a.toNat
      let old := s.watchOf t.core (a % 4)
      let w : Watch := if a.testBit 11 then
          { core := a.testBit 2, slot := nfld a 8 3, rd := a.testBit 9, wr := a.testBit 10, en := true, lo := t.sr f.b.toNat, hi := t.sr f.c.toNat, block := t.block }
        else Watch.blank
      (old.en = true ∧ old.block ≠ t.block → exec (.watch f) s = .next (s.finish (insW 0x1E5 f) (t.setS f.d.toNat 0)))
      ∧ (¬(old.en = true ∧ old.block ≠ t.block) → exec (.watch f) s = .next
          (({ s with watches := SMap.put s.watches (4 * t.core + a % 4) w Watch.blank }).finish (insW 0x1E5 f) (t.setS f.d.toNat 1))))
    ∧ (∀ f : Form, Clear (insW 0x1E6 f) t [0] → t.sr f.a.toNat < 64 → s.lanternOwned t.vf (t.sr f.a.toNat) = true → s.pending s.cur 31 true = false →
      let n := t.sr f.a.toNat
      let full := (s.lantern (2 * n + 1)).getLsbD 63
      let s1 := if full then s
        else (s.setLantern (2 * n) (BitVec.ofNat 64 (t.sr f.b.toNat))).setLantern (2 * n + 1) (BitVec.ofNat 64 (t.sr f.c.toNat) ||| ((1 : W64) <<< 63))
      exec (.mbxw f) s = .next (s1.produce (insW 0x1E6 f) t ((insW 0x1E6 f).dstRefs 0) [.s f.d.toNat (if full then 0 else 1)] 5))
    ∧ (∀ f : Form, Clear (insW 0x1E7 f) t [0] → t.sr f.a.toNat < 64 → s.lanternOwned t.vf (t.sr f.a.toNat) = true → s.pending s.cur 31 true = false →
      let n := t.sr f.a.toNat
      let hi := s.lantern (2 * n + 1)
      exec (.mbxr f) s = .next ((s.setLantern (2 * n + 1) (hi &&& ~~~((1 : W64) <<< 63))).produce (insW 0x1E7 f) t ((insW 0x1E7 f).dstRefs 0)
        [.s f.d.toNat (s.lantern (2 * n)), .s (f.d.toNat + 1) hi] 5))

/-! Memory. -/

/-- 08 R164–R167, R176, R178: where LD is clear with a contributing lane and its access is settled, it goes on past itself with its destinations
empty and one late reply of set R under way with the converted value of each lane's bytes, where all of them are good: from core or cluster memory
the bytes there, from a table what its core reads (its L1 and its L2 answer before memory), every line having found its entry. Core memory stays, and where no write is held by the way device memory
is as these reads leave it. That one reply answers all lanes and passes, and that memory is one image beneath the caches, is the model's (log entries 46, 14).
The same of LDC, whose accesses lie in the launch's parameter block and whose values are the bytes as they stand. -/
def Obligations.LoadsComplete : Prop :=
  (
    ∀ (f : Form) (s : State) (ls : List Nat), Clear (insW 0x100 f) (s.team s.cur) ls → ls ≠ [] →
      let i := insW 0x100 f
      let t := s.team s.cur
      let core := decide (64 ≤ f.b.toNat)
      let q := s.plan i t ls { rd := true, wr := false, width := plainWidth core f.ty, cls := fun _ => true, both := false }
      let n := (plainWidth core f.ty q.2.2).getD 4
      let us := accUnits q.2.1.accs (fun _ => []) (fun _ => 0) (fun _ => 0)
      let s0 := q.1.useFresh.issued i (t.markAll (ls.flatMap i.dstRefs))
      let v := s0.readUnits t.core (16 * t.part + t.slot) n us
      Settled q.1 i t q.2.1 n true false →
      (64 ≤ f.b.toNat → (∀ a ∈ q.2.1.accs, (s.loadPlace a.place n).2 = 0) →
        ∃ u, exec (.ld f) s = .next u ∧ u.mem = s.mem ∧ u.cm = s.cm
          ∧ Left i s u ls 0 (q.2.1.accs.flatMap (fun a => i.laneDst a.lane (loadConv f.ty q.2.2 (leNat (s.loadPlace a.place n).1)))))
      ∧ (f.b.toNat < 64 → us ≠ [] → Roomy s0 us → (∀ x ∈ v.2, x.2.2.2 = false) →
        ∃ u, exec (.ld f) s = .next u ∧ (v.1.held.length = s0.held.length → u.mem = v.1.mem) ∧ u.cm = s.cm
          ∧ Left i s u ls 0 (v.2.flatMap (fun x => i.laneDst x.1.lane (loadConv f.ty q.2.2 (leNat x.2.1))))))
  ∧ (
    ∀ (f : Form) (s : State) (ls : List Nat), Clear (insW 0x109 f) (s.team s.cur) ls → ls ≠ [] →
      let i := insW 0x109 f
      let t := s.team s.cur
      let n := if tyWide f.ty then 8 else 4
      let q := s.planParam i t ls n
      let us := accUnits q.2.accs (fun _ => []) (fun _ => 0) (fun _ => 0)
      let s0 := q.1.useFresh.issued i (t.markAll (ls.flatMap i.dstRefs))
      let v := s0.readUnits t.core (16 * t.part + t.slot) n us
      Settled q.1 i t q.2 n true false → us ≠ [] → Roomy s0 us → (∀ x ∈ v.2, x.2.2.2 = false) →
      ∃ u, exec (.ldc f) s = .next u ∧ (v.1.held.length = s0.held.length → u.mem = v.1.mem)
        ∧ Left i s u ls 5 (v.2.flatMap (fun x => i.laneDst x.1.lane (leNat x.2.1))))

/-- 08 R165–R167, R178; 22 R359, R360: where ST is clear with a contributing lane, its access is settled and it raises no enabled flag, it completes past
itself, its registers as they were. In core memory the bytes of each lane's converted value stand at its place in lane order, and device memory
stays. At a table whose grains its core's L2 may write and whose lines all find their entries, its core writes them lane after lane, with none left
over; where no write is held, memory is as these writes leave it (in the one image of memory the model has, log entry 14). -/
def Obligations.StoresComplete : Prop :=
  ∀ (f : Form) (s : State) (ls : List Nat), Clear (insW 0x101 f) (s.team s.cur) ls → ls ≠ [] →
    let i := insW 0x101 f
    let t := s.team s.cur
    let core := decide (64 ≤ f.b.toNat)
    let q := s.plan i t ls { rd := false, wr := true, width := plainWidth core f.ty, cls := fun _ => true, both := false }
    let n := (plainWidth core f.ty q.2.2).getD 4
    let val := fun l => storeConv f.ty q.2.2 f.mod.toNat t.ftz (i.opd t i.wide l)
    let us := accUnits q.2.1.accs (fun l => natLe n (val l).1) (fun _ => 0) (fun _ => 0)
    let s0 := q.1.useFresh.issued i (t.addFlags (ls.foldl (fun x l => x ||| (val l).2) 0))
    let z := us.foldl (fun u x => (u.coreStore t.core x.tr x.bytes (.team s.cur t.pc i.len) x.va).1) s0
    Settled q.1 i t q.2.1 n false true → (∀ l ∈ ls, t.fpx (val l).2 = 0) →
    (64 ≤ f.b.toNat → ∃ u, exec (.st f) s = .next u ∧ (u.team s.cur).pc = t.pc + BitVec.ofNat 64 (4 * (i.len + 1)) ∧ t.sameRegs (u.team s.cur) []
        ∧ u.mem = s.mem
        ∧ u.cm = q.2.1.accs.foldl (fun m a => match a.place with | .core k => writeMem m k (natLe n (val a.lane).1) | .tab _ _ => m) s.cm)
    ∧ (f.b.toNat < 64 → us ≠ [] → Roomy s0 us → Owned s0 n us →
        ∃ u, exec (.st f) s = .next u ∧ (u.team s.cur).pc = t.pc + BitVec.ofNat 64 (4 * (i.len + 1)) ∧ t.sameRegs (u.team s.cur) []
          ∧ (u.team s.cur).rest = none ∧ (z.held.length = s0.held.length → u.mem = z.mem ∧ u.sysmem = z.sysmem))

/-- 04 R74; 08 R166: a settled store to core or cluster memory changes no byte outside the stored bytes of its lanes: n bytes from the place that
the block's allocation gives the lane's address. -/
def Obligations.CoreStoreFrame : Prop :=
  ∀ (f : Form) (s : State) (ls : List Nat) (u : State), Clear (insW 0x101 f) (s.team s.cur) ls → 64 ≤ f.b.toNat →
    let i := insW 0x101 f
    let t := s.team s.cur
    let n := (plainWidth true f.ty 0).getD 4
    let p := (s.plan i t ls { rd := false, wr := true, width := plainWidth true f.ty, cls := fun _ => true, both := false }).2.1
    Settled s i t p n false true → exec (.st f) s = .next u → (∀ l ∈ ls, t.fpx (storeConv f.ty 0 f.mod.toNat t.ftz (i.opd t i.wide l)).2 = 0) →
    ∀ b, (∀ l ∈ ls, ∀ k, s.coreByte t (f.b == 0x41) (i.memKey t l % 2 ^ 32) i.offset n = some k → b < k ∨ k + n ≤ b) →
      SMap.get u.cm b memDefault = SMap.get s.cm b memDefault

/-- 21 R345, R349, R352: the home controller's write within one block, where nothing makes it wait (the block is not POISON, no earlier write to it
is held, its die's pool is above the floor, the function's dirty log is off; and a block without storage reads as its repeated word), is performed:
its bytes read back, in the demotion region where the block's frame is demoted, and in a frame that is not every other byte reads as before. -/
def Obligations.BlockWriteReadsBack : Prop :=
  ∀ (s : State) (fn da va : Nat) (bs : List Byte) (cmp : Bool) (w : Writer), da % 256 + bs.length ≤ 256 →
    s.poisoned da = false → s.blockHeld da = false → s.poolLow (homeDie da) = false → s.dlOn fn = false →
    s.uniformHolds da →
    let r := s.storeBlock fn da bs cmp false w va
    r.2 = .done ∧ r.1.readDev da bs.length = bs
      ∧ ((s.frameOf da).slot = none → ∀ b, (b < da ∨ da + bs.length ≤ b) → SMap.get r.1.mem b memDefault = SMap.get s.mem b memDefault)
      ∧ r.1.teams = s.teams ∧ r.1.held = s.held ∧ r.1.cm = s.cm

/-- 08 R168–R170; 04 R87: where LDB or STB is clear with a contributing lane, names a table and is settled (STB's scale words well formed), its lines
have found their entries, and for STB its L2 may write its grains, it completes past itself: LDB with its destinations empty and a late reply of set R
under way with each lane's element of the block and scale word that its core reads, STB with its registers as they were and none of it left over:
its core stores each block with its lanes' elements merged in and its scale word together, all or neither, and where no write is held memory is as
these stores leave it. That one reply answers all lanes, and that memory is one image beneath the caches, is the model's (log entries 46, 14). -/
def Obligations.BlockAccessesComplete : Prop :=
  (
    ∀ (f : Form) (s : State) (ls : List Nat) (r : Rec), Clear (insW 0x102 f) (s.team s.cur) ls → ls ≠ [] → f.b.toNat < 64 →
      let i := insW 0x102 f
      let t := s.team s.cur
      let q := s.planBlocks i t ls false
      let n := scaledBytes r.enc
      let us := blockUnits (pairAccs q.2.1.accs (wordLanes t ls)) (fun _ => []) (fun _ => 0)
      let s0 := q.1.useFresh.issued i (t.markAll (ls.flatMap i.dstRefs))
      let v := s0.readUnits t.core (16 * t.part + t.slot) n us
      q.2.2 = some r → Settled q.1 i t q.2.1 n true false → us ≠ [] → Roomy s0 us → (∀ x ∈ v.2, x.2.2.2 = false) →
      ∃ u, exec (.ldb f) s = .next u ∧ (v.1.held.length = s0.held.length → u.mem = v.1.mem)
        ∧ Left i s u ls 0 (v.2.flatMap (fun x => x.1.lanes.flatMap (fun l =>
            i.laneDst l (blockLane f.ty r.enc (leNat x.2.2.1) (blockCode r.enc r.ilv (leNat x.2.1)) (l % 32))))))
  ∧ (
    ∀ (f : Form) (s : State) (ls : List Nat) (r : Rec), Clear (insW 0x103 f) (s.team s.cur) ls → ls ≠ [] → f.b.toNat < 64 →
      let i := insW 0x103 f
      let t := s.team s.cur
      let q := s.planBlocks i t ls true
      let n := scaledBytes r.enc
      let us := blockUnits (pairAccs q.2.1.accs (wordLanes t ls)) (fun l => natLe 2 (i.opd t false l / 65536)) (i.opd t false)
      let s0 := q.1.useFresh.issued i t
      let k : Rest := { opc := i.op, f := f, len := i.len, pc := t.pc, enc := r.enc, ilv := r.ilv, n := n, ins := q.1.fresh + 1, moved := 0,
                        inside := [], out := us }
      let z := us.foldl (fun u x => (u.storeUnit t.core k (.team s.cur t.pc i.len) x).1) s0
      q.2.2 = some r → Settled q.1 i t q.2.1 n false true → (∀ l ∈ ls, badScaleWord r.enc (i.opd t false l / 65536) = false) →
      us ≠ [] → Roomy s0 us → Owned s0 n us →
      ∃ u, exec (.stb f) s = .next u ∧ (u.team s.cur).pc = t.pc + BitVec.ofNat 64 (4 * (i.len + 1)) ∧ t.sameRegs (u.team s.cur) []
        ∧ (u.team s.cur).rest = none ∧ (z.held.length = s0.held.length → u.mem = z.mem ∧ u.sysmem = z.sysmem))
  ∧ (
    ∀ (s : State) (core : Nat) (r : Rest) (w : Writer) (u : AUnit) (c : Tr × Nat), u.sc = some c → u.tr.cls ≠ 0 → c.1.cls ≠ 0 →
      let old := s.readTr u.tr r.n
      let x := s.storeUnit core r w u
      (old.2 = true ∨ (s.readTr c.1 2).2 = true → x = (s, .poison))
      ∧ (old.2 = false → (s.readTr c.1 2).2 = false →
          let q := s.storeDirty u.tr.fn (u.tr.parts (mergeElems r.enc r.ilv old.1 u.elems) ++ c.1.parts u.bytes) w u.va (.stb r.enc r.ilv u.elems)
          x.2 = q.2 ∧ (q.2 = .done → x.1 = q.1.coreWroteBoth core u.tr r.n c.1 2) ∧ (q.2 ≠ .done → x.1 = q.1)))

/-- 08 R171–R173; 22 R357: where an atomic is clear with a contributing lane and settled it completes past itself. In core memory AMO and ACAS have
their destinations empty and a late reply of set A under way, AMN its registers as they were. At a table whose lines have found their entries one
atomic of each lane, in lane order, is on its way to the home of its grain, AMO's and ACAS's destinations empty. -/
def Obligations.AtomicsComplete : Prop :=
  ∀ (x : Instr) (i : Ins) (f : Form) (s : State) (ls : List Nat),
    ((x = .amo f ∧ i = insW 0x104 f) ∨ (x = .amn f ∧ i = insW 0x105 f) ∨ (x = .acas f ∧ i = insW 0x106 f)) →
    Clear i (s.team s.cur) ls → ls ≠ [] →
    let t := s.team s.cur
    let n := if tyWide f.ty then 8 else 4
    let q := s.plan i t ls { rd := i.op != 0x105, wr := true, width := amoWidth f.ty, cls := amoClass f.ty, both := true }
    let us := accUnits q.2.1.accs (fun _ => []) (fun l => (i.amoOperands t l).1) (fun l => (i.amoOperands t l).2)
    let s0 := q.1.useFresh.issued i (if i.op = 0x105 then t else t.markAll (ls.flatMap i.dstRefs))
    Settled q.1 i t q.2.1 n (i.op != 0x105) true →
    (64 ≤ f.b.toNat → ∃ u, exec x s = .next u ∧ (u.team s.cur).pc = t.pc + BitVec.ofNat 64 (4 * (i.len + 1)) ∧ u.mem = s.mem
      ∧ (i.op ≠ 0x105 → Awaits i (u.team s.cur) ls ∧ ∃ r, u.replies.getLast? = some r ∧ r.team = s.cur ∧ r.set = 2)
      ∧ (i.op = 0x105 → t.sameRegs (u.team s.cur) []))
    ∧ (f.b.toNat < 64 → us ≠ [] → Roomy s0 us →
      ∃ u as, exec x s = .next u ∧ (u.team s.cur).pc = t.pc + BitVec.ofNat 64 (4 * (i.len + 1))
        ∧ u.atoms = s0.atoms ++ as ∧ as.map Atom.u = us ∧ (∀ a ∈ as, a.team = s.cur ∧ a.opc = i.op ∧ a.f = f ∧ a.done = none)
        ∧ u.mem = q.1.mem
        ∧ (i.op ≠ 0x105 → Awaits i (u.team s.cur) ls) ∧ (i.op = 0x105 → t.sameRegs (u.team s.cur) []))

/-- 08 R171, R173: one read-modify-write at a good place of core memory answers the old value and leaves the new one there; a compare that fails
writes nothing. -/
def Obligations.AtomicAtCoreMemory : Prop :=
  ∀ (s : State) (k n : Nat) (a : HeldAmo) (w : Writer), (s.loadPlace (.core k) n).2 = 0 →
    let old := leNat (readMem s.cm k n)
    let r := s.amoAt (.core k) n a w
    r.2 = .old old
      ∧ (a.op = 8 ∧ old ≠ a.x.toNat → r.1 = s)
      ∧ (¬(a.op = 8 ∧ old ≠ a.x.toNat) → readMem r.1.cm k n = natLe n (amoNew a.op a.f.ty old a.x.toNat a.y.toNat))

/-- 04 R86; 08 R174, R175; 22 R360, R367: a clear FENCE with a true guard waits, its state unchanged, while an access of its set P is pending or a
write-back of P is held, and else performs the cache maintenance of its sets and scope; it completes past itself where its own write-backs are
performed, and else waits for them. That it takes its core's time to its die's is a reading (log entry 99). A PREF completes past itself whatever its
guard, its registers and its checks find, its registers and core memory as they were. -/
def Obligations.FencesAndPrefetches : Prop :=
  (∀ (f : Form) (s : State), Clear (insW 0x107 f) (s.team s.cur) [0] →
    let i := insW 0x107 f
    let t := s.team s.cur
    let p := f.a.toNat % 32
    let q := f.b.toNat % 32
    let none_ := p = 0 ∨ q = 0
    let u := if 1 ≤ f.mod.toNat then
        ((if nbit q 0 then (if nbit p 1 then s.flushNc t.core t.vf else s).dropNc t.core t.vf
          else (if nbit p 1 then s.flushNc t.core t.vf else s))).syncLt t.core else s
    (none_ → exec (.fence f) s = .next (s.finish i t))
    ∧ (¬none_ → s.pending s.cur p (nbit p 4) = true → exec (.fence f) s = .next s)
    ∧ (¬none_ → s.fenceWaits s.cur f = true → exec (.fence f) s = .next s)
    ∧ (¬none_ → s.fenceWaits s.cur f = false → u.fenceWaits s.cur f = true → exec (.fence f) s = .next u)
    ∧ (¬none_ → s.fenceWaits s.cur f = false → u.fenceWaits s.cur f = false → exec (.fence f) s = .next (u.finish i t)))
  ∧ (∀ (f : Form) (s : State),
    ∃ u, exec (.pref f) s = .next u ∧ (u.team s.cur).pc = (s.team s.cur).pc + BitVec.ofNat 64 (4 * ((insW 0x108 f).len + 1))
      ∧ (s.team s.cur).sameRegs (u.team s.cur) [] ∧ u.cm = s.cm)

/-! Tables, matrices, engines. -/

/-- Instructions that send one batch to a Spire (12 R233; 15 R269). -/
def batched (x : Instr) : Option Ins :=
  match x with
  | .tlook f => some (insW 0x140 f) | .tins f => some (insW 0x141 f) | .tdel f => some (insW 0x142 f) | .tmod f => some (insW 0x143 f)
  | .tset f => some (insW 0x144 f) | .topen f => some (insW 0x145 f) | .tnext f => some (insW 0x146 f) | .tseek f => some (insW 0x147 f)
  | .tcnt f => some (insW 0x149 f) | .tstat f => some (insW 0x14A f) | .kvx f => some (insW 0x162 f)
  | _ => none

/-- 11 R217; 12 R233, R235, R238: where a table instruction is clear with a contributing lane, its checks find no cause, no watch range fires, its
core has a miss-status entry and its Spire has room, it sends one batch with every contributing lane and waits for the verdict at its own PC with its destinations empty; an
accepted verdict takes it past itself, where nothing is left to act at the boundary. TCLOSE completes in the core: in each lane the cursor's page is
cleared and its flags say closed. -/
def Obligations.TableInstructions : Prop :=
  (
    ∀ (x : Instr) (i : Ins) (s : State) (ls : List Nat), batched x = some i → Clear i (s.team s.cur) ls → ls ≠ [] →
      let t := s.team s.cur
      let q := s.planTable i t ls
      q.2.fails = [] → q.2.pages = [] → q.1.tableWatch i t ls = none → q.1.mayEnter t.core s.cur = true →
      q.1.spireRoom (q.1.spireOf i t) = true →
      ∃ u b, exec x s = .next u ∧ u.batches = q.1.batches ++ [b] ∧ b.team = s.cur ∧ b.op = i.op ∧ b.slot = i.slot
        ∧ b.lanes = ls.map (i.batchLane t (s.tableWidth i t)) ∧ (u.team s.cur).verdict = true ∧ (u.team s.cur).pc = t.pc ∧ Awaits i (u.team s.cur) ls)
  ∧ (
    ∀ (s : State) (n : Nat) (v : Verdict), s.verdicts[n]? = some v → v.out = .accepted →
      let t := s.team v.batch.team
      t.skid = none → t.stepping = false → t.vBad = [] →
      ∃ u, exec (.spireVerdict n) s = .next u ∧ (u.team v.batch.team).pc = t.pc + BitVec.ofNat 64 (4 * (v.batch.len + 1))
        ∧ (u.team v.batch.team).verdict = false ∧ u.verdicts = dropAt s.verdicts n ∧ u.cur = s.cur)
  ∧ (
    ∀ (f : Form) (s : State) (ls : List Nat), Clear (insW 0x148 f) (s.team s.cur) ls → ls ≠ [] →
      let i := insW 0x148 f
      let t := s.team s.cur
      let q := s.planTable i t ls
      q.2.fails = [] → q.2.pages = [] →
      exec (.tclose f) s = .next (q.1.finish i (ls.foldl (fun u l =>
        (u.setV (f.a.toNat + 4) l 0).setV (f.a.toNat + 5) l (closedFlags (BitVec.ofNat 32 (u.vr (f.a.toNat + 5) l))).toNat) t)))

/-- 15 R256–R263: MMA where it is clear with a contributing lane, no MMA of its team is under way, its array has room and its checks find no
cause goes on past itself with its tiles empty, its job at the array's end and RPROG.PEND set; MFLUSH with none under way answers the k-steps
since the last one and restarts the count. -/
def Obligations.MatrixInstructions : Prop :=
  (∀ (f : Form) (s : State) (ls : List Nat), Clear (insW 0x160 f) (s.team s.cur) ls → ls ≠ [] → (s.team s.cur).mma = none →
    let i := insW 0x160 f
    let t := s.team s.cur
    let q := s.planMma i t ls (Fmt4.of ((upTo 4).map (fun j => BitVec.ofNat 64 (t.sr (f.b.toNat + j)))))
    (s.arrayOf t.partKey).length < 2 → q.2.fails = [] → q.2.pages = [] →
    ∃ u m, exec (.mma f) s = .next u ∧ (u.team s.cur).mma = some m ∧ m.f = f ∧ m.lanes = ls ∧ m.pc = t.pc ∧ m.stopped = false
      ∧ (u.team s.cur).rprog.getLsbD 63 = true ∧ (u.team s.cur).pc = t.pc + BitVec.ofNat 64 (4 * (i.len + 1)) ∧ Awaits i (u.team s.cur) ls
      ∧ u.arrayOf t.partKey = q.1.arrayOf t.partKey ++ [s.cur])
  ∧ (∀ (f : SForm) (s : State), Clear (insS 0x161 f) (s.team s.cur) [0] → (s.team s.cur).mma = none →
    exec (.mflushS f) s = .next (s.produce (insS 0x161 f) { s.team s.cur with ksteps := 0 } ((insS 0x161 f).dstRefs 0) [.s f.d.toNat (s.team s.cur).ksteps] 5))
  ∧ (∀ (f : Form) (s : State), Clear (insW 0x161 f) (s.team s.cur) [0] → (s.team s.cur).mma = none →
    exec (.mflushL f) s = .next (s.produce (insW 0x161 f) { s.team s.cur with ksteps := 0 } ((insW 0x161 f).dstRefs 0) [.s f.d.toNat (s.team s.cur).ksteps] 5))

/-- 15 R270, R271: QMC where it is clear and its list is in order goes on past itself with its destination empty and one request of its core's
engine, and with no other core named answers 0; CRED deposits its 34 registers of each contributing lane in its team's next round, empty until the
merge. -/
def Obligations.CreditInstructions : Prop :=
  (∀ (f : Form) (s : State), Clear (insW 0x163 f) (s.team s.cur) [0] →
    let i := insW 0x163 f
    let t := s.team s.cur
    let sa := t.sr f.a.toNat
    let sb := t.sr f.b.toNat
    let cores := (upTo 4).filter (fun c => nbit sb (32 + c) && c != t.core % 4)
    qmcCheck (s.block t.block).size sa sb = none →
    (cores = [] → exec (.qmc f) s = .next (s.produce i t (i.dstRefs 0) [.s f.d.toNat 0] 4))
    ∧ (cores ≠ [] → s.mayEnter t.core s.cur = true → ∃ u c, exec (.qmc f) s = .next u ∧ u.copies = s.copies ++ [c] ∧ c.qmc = true ∧ c.team = s.cur
        ∧ c.todo = cores ∧ (u.team s.cur).pc = t.pc + BitVec.ofNat 64 (4 * (i.len + 1)) ∧ Awaits i (u.team s.cur) [0]))
  ∧ (∀ (x : Instr) (i : Ins) (s : State) (ls : List Nat), ((∃ f, x = .credS f ∧ i = insS 0x164 f) ∨ (∃ f, x = .credL f ∧ i = insW 0x164 f)) →
    Clear i (s.team s.cur) ls →
    let t := s.team s.cur
    let d : CredDep := { team := s.cur, round := t.creds, a := i.f.a.toNat,
                         lanes := ls.map (fun l => (l, (upTo 34).map (fun j => BitVec.ofNat 32 (t.vr (i.f.a.toNat + j) l)))) }
    ∃ u, exec x s = .next u ∧ u.block t.block = { s.block t.block with cred := (s.block t.block).cred ++ [d] }
      ∧ (u.team s.cur).creds = t.creds + 1 ∧ (u.team s.cur).pc = t.pc + BitVec.ofNat 64 (4 * (i.len + 1)) ∧ Awaits i (u.team s.cur) ls)

/-- 17 R276, R279: CPK where it is clear, its list is in order, good, not owned by a copy and not to be written by a QMC under way, its records pass their checks and its engine has
room goes on past itself with the promise on its way to its empty destination and one request of its engine for each record. -/
def Obligations.CopyListsStart : Prop :=
  ∀ (f : Form) (s : State) (rs : List (Option Rec × Option Rec)), Clear (insW 0x180 f) (s.team s.cur) [0] →
    let i := insW 0x180 f
    let t := s.team s.cur
    let sa := t.sr f.a.toNat
    let n := i.opbRaw t true 0 % 2 ^ 32
    let k := (s.block t.block).at sa
    let cs := (upTo n).map (fun j => copyOf (leNat (wordsLe (leWords 8 (readMem s.cm (k + 64 * j) 64)))))
    let q := s.cpkScan t cs
    cpkList (s.block t.block) sa n = none → s.placeOwned (.core k) (64 * n) = false → s.qmcMeets s.cur k (64 * n) false = false →
    (s.loadPlace (.core k) (64 * n)).2 = 0 →
    (cs.map Copy.bytes).sum ≤ 4194304 → q.2 = .inl rs → (s.copies.filter (fun c => c.core == t.core)).length + n ≤ 64 →
    q.1.mayEnter t.core s.cur = true →
    ∃ u reqs, exec (.cpk f) s = .next u ∧ u.copies = q.1.copies ++ reqs ∧ reqs.length = n ∧ (∀ c ∈ reqs, c.team = s.cur ∧ c.core = t.core)
      ∧ (u.team s.cur).pc = t.pc + BitVec.ofNat 64 (4 * (i.len + 1)) ∧ Awaits i (u.team s.cur) [0]

/-- 17 R282–R286: the barrier-object instructions where they are clear, name core or cluster memory, their objects pass the checks and no copy owns them
nor is a QMC of the team to read or write them: BINIT sets COUNT and starts a generation, BARR counts down once no access of its team is pending, BWAIT completes at COUNT 0 with no
error and else parks with cause barrier, WAITT sleeps until its promise and completes at COUNT 0. Where BWAIT and WAITT complete the core's time follows
its die's, for the order of 04 R90 (a reading, log entry 99). -/
def Obligations.BarrierObjects : Prop :=
  ∀ (f : Form) (s : State), let t := s.team s.cur
    (∀ a, Clear (insW 0x181 f) t [0] → (s.planBar (insW 0x181 f) t [0]).fails = [] → (s.planBar (insW 0x181 f) t [0]).accs = [a] →
      s.placeOwned a.place 16 = false → s.qmcMeets s.cur a.place.byte 16 true = false →
      let n := (insW 0x181 f).opd t true 0 % 2 ^ 32
      let w := (s.finish (insW 0x181 f) t).barWord a.place.byte 1
      exec (.binit f) s = .next (((s.finish (insW 0x181 f) t).setBar a.place.byte (n + 2 ^ 32 * n)
        (w % 256 + (nfld w 63 48 + 1) % 65536 * 2 ^ 48)).barRelease t.block a.place.byte))
    ∧ (∀ ls, Clear (insW 0x182 f) t ls → ls ≠ [] → let p := s.planBar (insW 0x182 f) t ls
      p.fails = [] → (∀ a ∈ p.accs, s.placeOwned a.place 16 = false ∧ s.qmcMeets s.cur a.place.byte 16 true = false) → s.busy s.cur = false →
      exec (.barr f) s = .next (p.accs.foldl (fun u a => u.barCount t.block a.place.byte ((insW 0x182 f).opd t false a.lane % 2 ^ 32) 0 0)
        (s.finish (insW 0x182 f) t)))
    ∧ (∀ a, Clear (insW 0x183 f) t [0] → (s.planBar (insW 0x183 f) t [0]).fails = [] → (s.planBar (insW 0x183 f) t [0]).accs = [a] →
      s.placeOwned a.place 16 = false → s.qmcMeets s.cur a.place.byte 16 true = false →
      (s.barWord a.place.byte 0 % 2 ^ 32 = 0 → nfld (s.barWord a.place.byte 1) 23 16 = 0 → exec (.bwait f) s =
          .next ((s.finish (insW 0x183 f) t).syncLt t.core))
      ∧ (s.barWord a.place.byte 0 % 2 ^ 32 ≠ 0 → ∃ u, exec (.bwait f) s = .next u ∧ (u.team s.cur).st = .parked ∧ (u.team s.cur).cause = .barrier
          ∧ (u.team s.cur).pc = t.pc))
    ∧ (∀ a, Clear (insW 0x184 f) t [0] → (s.planBar (insW 0x184 f) t [0]).fails = [] → (s.planBar (insW 0x184 f) t [0]).accs = [a] →
      s.placeOwned a.place 16 = false → s.qmcMeets s.cur a.place.byte 16 true = false →
      let p := (insW 0x184 f).opd t true 0
      (s.clock.toNat < p → exec (.waitt f) s = .next (s.parkHere .sleep (BitVec.ofNat 64 p)))
      ∧ (p ≤ s.clock.toNat → s.barWord a.place.byte 0 % 2 ^ 32 = 0 → nfld (s.barWord a.place.byte 1) 23 16 = 0 →
          exec (.waitt f) s = .next ((s.finish (insW 0x184 f) t).syncLt t.core)))

/-- 17 R290–R296: the queue instructions where they are clear and name queues of their function: QPUSH goes past itself with one push per
lane, counted once the last is accepted (19 R326), QPOP and QSTAT with their destinations empty and one request per lane; RDX with a next stage and no access pending deposits its lanes'
keys and values and takes the lanes from the mask. -/
def Obligations.QueueInstructions : Prop :=
  ∀ (f : Form) (s : State) (ls : List Nat), let t := s.team s.cur
    (Clear (insW 0x185 f) t ls → ls ≠ [] → s.badQueues (insW 0x185 f) t ls = [] → exec (.qpush f) s =
      .next { s.useFresh.issued (insW 0x185 f) t with qreqs := s.qreqs ++ s.queueReqs (insW 0x185 f) t 0 ls ((insW 0x185 f).opa t true) 0 })
    ∧ (Clear (insW 0x186 f) t ls → ls ≠ [] → s.badQueues (insW 0x186 f) t ls = [] → exec (.qpop f) s =
      .next { s.useFresh.issued (insW 0x186 f) (t.markAll (ls.flatMap (insW 0x186 f).dstRefs)) with
                qreqs := s.qreqs ++ s.queueReqs (insW 0x186 f) t 1 ls (fun l => t.opnd f.uni true f.c.toNat l) f.c.toNat })
    ∧ (Clear (insW 0x188 f) t [0] → s.badQueues (insW 0x188 f) t [0] = [] → exec (.qstat f) s =
      .next { s.useFresh.issued (insW 0x188 f) (t.markAll ((insW 0x188 f).dstRefs 0)) with
                qreqs := s.qreqs ++ s.queueReqs (insW 0x188 f) t 2 [0] (fun _ => f.mod.toNat) f.d.toNat })
    ∧ (Clear (insW 0x187 f) t ls → ls ≠ [] → t.stage < (s.job t.job).stages.length → s.busy s.cur = false → exec (.rdx f) s =
      .next { s.finish (insW 0x187 f) (t.removeLanes ls) with
                deposits := s.deposits ++ ls.map (fun l => { job := t.job, stage := t.stage + 1, key := BitVec.ofNat 32 ((insW 0x187 f).opa t false l),
                                                              val := BitVec.ofNat 64 ((insW 0x187 f).opb t true l), team := s.cur,
                                                              die := dieOf t.core, at_ := 0 }) })

/-- 19 R318–R323; 22 R357: the scheduler's instructions where they are clear with a true guard: SGPOST of a grouped team with no access pending, SGPOLL
of a group within its function's range and SGCHK send one request and go past themselves with their destinations empty; EVSIG with a settled
counter, its entry found and no other access pending goes past itself with one addition of its operand on its way to the counter's home; EVWAIT goes
past where its counter has reached its value, its core's time following its die's (a reading, log entry 99), and else parks with cause event at its
own PC. -/
def Obligations.GroupAndEventInstructions : Prop :=
  ∀ (f : Form) (s : State), let t := s.team s.cur
    (Clear (insW 0x1C0 f) t [0] → t.grouped = true → s.pending s.cur 31 true = false →
      exec (.sgpost f) s = .next (s.sendPost (insW 0x1C0 f) t 0 (t.sgid.toNat % 4096) (BitVec.ofNat 64 (t.sr f.a.toNat))))
    ∧ (Clear (insW 0x1C1 f) t [0] → fld (BitVec.ofNat 64 (t.sr f.a.toNat)) 11 0 < s.groupCount t.vf →
      exec (.sgpoll f) s = .next (s.sendPost (insW 0x1C1 f) t 1 (fld (BitVec.ofNat 64 (t.sr f.a.toNat)) 11 0) (BitVec.ofNat 64 (t.sr f.a.toNat))))
    ∧ (Clear (insW 0x1C2 f) t [0] → exec (.sgchk f) s = .next (s.sendPost (insW 0x1C2 f) t 2 (t.sgid.toNat % 4096) 0))
    ∧ (Clear (insW 0x1C4 f) t [0] →
      let i := insW 0x1C4 f
      let q := s.planEvent i t true
      let us := accUnits q.2.accs (fun _ => []) (fun _ => i.opd t true 0) (fun _ => 0)
      let s0 := q.1.useFresh.issued i t
      Settled q.1 i t q.2 8 true true → q.1.pending s.cur 31 true = false → us ≠ [] → Roomy s0 us →
      ∃ u as, exec (.evsig f) s = .next u ∧ (u.team s.cur).pc = t.pc + BitVec.ofNat 64 (4 * (i.len + 1)) ∧ t.sameRegs (u.team s.cur) []
        ∧ u.atoms = s0.atoms ++ as ∧ as.map Atom.u = us ∧ (∀ a ∈ as, a.team = s.cur ∧ a.op = 0 ∧ a.n = 8 ∧ a.done = none) ∧ u.mem = q.1.mem)
    ∧ (∀ a, Clear (insW 0x1C5 f) t [0] → let q := s.planEvent (insW 0x1C5 f) t false
      q.2.accs = [a] → Settled q.1 (insW 0x1C5 f) t q.2 8 true false → (q.1.loadPlace a.place 8).2 = 0 →
      let v := BitVec.ofNat 64 ((insW 0x1C5 f).opd t true 0)
      let now := BitVec.ofNat 64 (leNat (q.1.loadPlace a.place 8).1)
      (reached now v = true → exec (.evwait f) s = .next (((q.1.entered s.cur).syncLt t.core).finish (insW 0x1C5 f) t))
      ∧ (reached now v = false → s.busy s.cur = false → ∃ u, exec (.evwait f) s = .next u
          ∧ (u.team s.cur).st = .parked ∧ (u.team s.cur).cause = .event ∧ (u.team s.cur).evTarget = v ∧ (u.team s.cur).pc = t.pc))

/-- 19 R318, R320, R321: what SGCHK finds of its team's own group, in qD with the complement in qE: DECIDED, DECIDED with this sibling a winner, this
sibling CANCELLED, by MOD; 0 where SGID is not valid; the answer lands 80 clocks later or more, after the device-scope fence of the read (its effect on the core's time is a reading, log entry 99). Words that
only their MOD of 3 to 7 keeps from decoding fail with subcode MOD. -/
def Obligations.SgchkAnswers : Prop :=
  (∀ (f : Form) (s : State), Clear (insW 0x1C2 f) (s.team s.cur) [0] →
    let t := s.team s.cur
    ∃ u p, exec (.sgchk f) s = .next u ∧ u.posts = s.posts ++ [p] ∧ p.kind = 2 ∧ p.team = s.cur ∧ p.vf = t.vf ∧ p.group = t.sgid.toNat % 4096
      ∧ p.sib = t.sgidx.toNat ∧ p.valid = t.grouped ∧ p.sel = f.mod.toNat ∧ p.pd = (insW 0x1C2 f).pd ∧ p.pe = (insW 0x1C2 f).pe)
  ∧ (∀ (s : State) (n : Nat) (p : Post), s.posts[n]? = some p → s.postReady n = true → p.kind = 2 →
    let g := s.group (s.groupKey p.vf p.group)
    let b := p.valid && (if p.sel = 0 then g.st == 2 else if p.sel = 1 then g.st == 2 && g.winnerOf p.sib else g.cancelled.getLsbD p.sib)
    let r : Reply := { team := p.team, dsts := pairDsts true p.pd p.pe 0 b (!b), entry := none, completes := true, bytes := 0, set := 5, trap := none,
                       due := s.clock.toNat + 80 }
    let u := (({ s with posts := dropAt s.posts n } : State).dropNc (s.team p.team).core p.vf).syncLt (s.team p.team).core
    exec (.campanilePost n) s = .next { u with replies := u.replies ++ [r] })
  ∧ (∀ (lim : Limits) (w0 w1 w2 : W32), let f := parseWide w0 w1 none
      opOf w0 = 0x1C2 → w0.toNat % 4 = 1 → 3 ≤ f.mod.toNat → checkForm 0x1C2 lim false { f with mod := 0 } = none →
      decodeWords lim w0 w1 w2 = .bad .mod ∧ illCode .mod = 6)

/-- 19 R322: LAUNCH where it is clear with a true guard, its descriptor lies aligned in its core's allocation, is good, is a launch or a type 4
command, no access is pending and its queue is enabled: it goes past itself with its destination empty, its append with the OWN bit set at the end
of the front end's list, and the queue's appends advance. -/
def Obligations.LaunchAppends : Prop :=
  ∀ (f : Form) (s : State) (k : Nat), Clear (insW 0x1C3 f) (s.team s.cur) [0] →
    let i := insW 0x1C3 f
    let t := s.team s.cur
    let sa := t.sr f.a.toNat % 2 ^ 32
    let q := i.opbRaw t true 0
    let bytes := (s.loadPlace (.core k) 256).1
    let b0 := (bytes.headD 0).toNat
    sa % 64 = 0 → s.coreByte t false sa 0 256 = some k → q < 8 → s.lqOn t.vf q = true → s.pending s.cur 31 true = false →
    s.placeOwned (.core k) 256 = false → (s.loadPlace (.core k) 256).2 = 0 → (b0 % 16 = 0 ∨ b0 % 16 = 4) →
    let a : Append := { team := s.cur, fn := t.vf, level := q, num := none, bytes := BitVec.ofNat 8 (b0 % 128 + 128) :: bytes.drop 1, dst := f.d.toNat }
    let r : State := { s.issued i (t.markAll (i.dstRefs 0)) with appends := s.appends ++ [a] }
    let r := r.tryAppends 4096 t.vf q
    exec (.launch f) s = .next (if r.appends.any (fun a => a.team == s.cur) then r.parkSoon s.cur .queue (BitVec.ofNat 64 (2048 + q)) else r)

/-! Events of teams and slots. -/

/-- 01 R18; 05 R97, R106; 19 R318: a late reply that lands, once its time has come, writes each value it carries and marks its register full, and leaves the list. -/
def Obligations.LateRepliesLand : Prop :=
  ∀ (s : State) (n : Nat) (r : Reply), s.replies[n]? = some r → r.trap = none → r.due ≤ s.clock.toNat →
    ∃ u, exec (.lateReply n) s = .next u ∧ u.replies = dropAt s.replies n ∧
      let t := r.dsts.foldl Team.land (s.team r.team)
      let v := u.team r.team
      v.v = t.v ∧ v.vE = t.vE ∧ v.s = t.s ∧ v.sE = t.sE ∧ v.p = t.p ∧ v.pE = t.pE ∧ v.q = t.q ∧ v.qE = t.qE ∧ v.pc = t.pc

/-- Team i of `s` out of its slot: its counts recorded, its MMA stopped, its side buffer saved, ACTIVE become READY, its dirty lines and control page
written where they can be (05 R107; 09 R186). -/
def leftSlot (s : State) (i : Nat) : State :=
  let s1 := ((s.recordWaste i).stopMma i).saveSide i
  let t := s1.team i
  (s1.setTeam i { t with inSlot := false, st := if t.st = .active then .ready else t.st, readyAt := s.clock.toNat }).saveLines i

/-- 05 R102–R112: the events of slots and ready lists where each is due: a fill brings its line, an activation gives the head of the ready list a
slot, an eviction takes the longest parked team's once its lines and control page are written and else waits, an idle core takes a team of its cluster, a starved team issues next, a rejected access may be
tried again. -/
def Obligations.SlotEvents : Prop :=
  ∀ (s : State),
    (∀ i n w, (s.team i).inSlot = true → n < (s.team i).vregs → w < (s.team i).words →
      ∃ u d, exec (.registerMissFill i n w) s = .next u ∧ (i, lineNo (s.team i) n w, d) ∈ u.rlines (s.team i).partKey)
    ∧ (∀ core i t r p n, s.readyList core = (i, t) :: r → s.placeFor core t.vf = some p →
      let q := s.absentPage t.vf (t.ctxbase.toNat :: t.windowVas (s.nextIns i))
      q.2 = none →
      (q.1.partialEvict 16 core p t.vf (match s.nextIns i with | some y => (y.window t).length | none => 0)).freeSlot core p = some n →
      ∃ u, exec (.teamActivation core) s = .next u ∧ (u.team i).st = .active ∧ (u.team i).inSlot = true ∧ (u.team i).part = p ∧ (u.team i).slot = n)
    ∧ (∀ core part t, s.evictionReady core part = true → s.longestParked core = some t →
      let u := leftSlot s t.1
      ((u.team t.1).unsaved = [] → (u.team t.1).unsavedCtl = false → exec (.teamEviction core part) s = .next u ∧ (u.team t.1).inSlot = false)
      ∧ ((u.team t.1).unsaved ≠ [] ∨ (u.team t.1).unsavedCtl = true → exec (.teamEviction core part) s = .next s))
    ∧ (∀ core i, s.stealFrom core = some i → let t := s.team i
      let u := ((s.flushNc t.core t.vf).flushNc core t.vf).dropNc core t.vf
      exec (.readyListSteal core) s = .next (u.setTeam i { u.team i with core := core }))
    ∧ (∀ core part i, s.starved core part = some i → exec (.starvationPick core part) s = .next { s with cur := i, picked := true })
    ∧ (∀ i c, (s.team i).retryAt = some c → c ≤ s.clock.toNat → (s.team i).rest = none →
      exec (.requestRetry i) s = .next (s.setTeam i { s.team i with retryAt := none, age := s.clock.toNat }))
    ∧ (∀ i c r, (s.team i).retryAt = some c → c ≤ s.clock.toNat → (s.team i).rest = some r →
      exec (.requestRetry i) s = .next ((s.setTeam i { s.team i with retryAt := none, age := s.clock.toNat }).runRest i r))

/-- Team i of `s` goes on in `u`: ACTIVE in its slot or else READY, with no cause or argument, its PC, mask and registers as they were; every other
team stays. -/
def goesOn (s u : State) (i : Nat) : Prop :=
  let t := s.team i
  let v := u.team i
  v.st = (if t.inSlot then .active else .ready) ∧ v.cause = .none ∧ v.arg = 0 ∧ v.inSlot = t.inSlot ∧ v.pc = t.pc ∧ v.mask = t.mask
    ∧ t.sameRegs v [] ∧ ∀ j, j ≠ i → u.team j = s.team j

/-- 05 R102, R108, R109; 07 R159; 09 R186, R202: in a block that no halt holds, a sleeper goes on once as many clocks have passed as its count asked,
and a parked team once its cause is resolved: no record of a page that it waits for and no write of its own held, its event counter at its target, a fall
of its function's QUSED since it parked, storage above the floor. A team with an empty mask, nothing to take at its boundary and no access left, and one
cancelled whose last reply has landed, are RETIRED: no slot, cause, MMA or save record is theirs any more, and their registers stay. A retired team's
image is freed once nothing comes to it and no access of it is left. The debugger's halt parks with cause debug every team of the block that is READY or ACTIVE with no verdict to come, no access
left and nothing to take at its boundary, and leaves the others; its resume lets those so parked go on. -/
def Obligations.TeamsResumeAndRetire : Prop :=
  (
    ∀ (s : State) (i : Nat), let t := s.team i
      let b := s.block t.block
      b.dead = false → b.halted = false → b.debug = false → t.st = .parked →
      (t.cause = .sleep → (t.arg - BitVec.ofNat 64 t.parkedAt).toNat ≤ (s.clock - BitVec.ofNat 64 t.parkedAt).toNat →
        ∃ u, exec (.sleepWake i) s = .next u ∧ goesOn s u i)
      ∧ ((t.cause = .page ∧ (∀ r ∈ s.faults, r.waiter ≠ .team i) ∧ s.ownHolds i = false)
          ∨ (t.cause = .event ∧ reached (s.vword t.vf t.arg.toNat) t.evTarget = true)
          ∨ (t.cause = .quota ∧ t.arg.getLsbD 63 = false ∧ SMap.get s.falls t.vf 0 ≠ t.quotaUsed)
          ∨ (t.cause = .space ∧ s.ownHolds i = false ∧ s.poolLow (homeDie t.arg.toNat) = false) →
        ∃ u, exec (.teamResume i) s = .next u ∧ goesOn s u i))
  ∧ (
    ∀ (s : State) (i : Nat), let t := s.team i
      let left := fun (v : Team) => v.st = .retired ∧ v.inSlot = false ∧ v.cause = .none ∧ v.arg = 0 ∧ v.mma = none ∧ v.sideSave = 0 ∧ v.pc = t.pc
        ∧ t.sameRegs v []
      (t.st = .active → t.mask = 0 → t.pend = none → t.cancelPend = false → t.parkNext = none → t.verdict = false → t.rest = none →
        s.busy i = false → s.ownHolds i = false → ∃ u, exec (.teamRetirement i) s = .next u ∧ left (u.team i))
      ∧ (t.st = .parked → t.cause = .cancelledPending → s.awaited i = 0 → ∃ u, exec (.cancelledPendingRetire i) s = .next u ∧ left (u.team i))
      ∧ (t.st = .retired → t.freed = false → s.awaited i = 0 → s.busy i = false → s.ownHolds i = false →
          let s1 := s.recordWaste i
          exec (.contextImageFree i) s = .next (s1.setTeam i { s1.team i with freed := true, sideSave := 0 })))
  ∧ (
    ∀ (s : State), let b := s.inp.num
      (∃ u, exec .debuggerHalt s = .next u ∧ (u.block b).debug = true
        ∧ (∀ i, let t := s.team i
          let stops := t.verdict = false ∧ t.rest = none ∧ t.pend = none ∧ t.parkNext = none ∧ t.cancelPend = false
          (i ∈ (s.block b).teams → (t.st = .active ∧ stops ∨ t.st = .ready) →
            (u.team i).st = .parked ∧ (u.team i).cause = .debug ∧ (u.team i).pc = t.pc ∧ t.sameRegs (u.team i) [])
          ∧ (i ∉ (s.block b).teams ∨ (t.st = .active ∧ ¬stops) ∨ t.st = .parked ∨ t.st = .retired → u.team i = t)))
      ∧ ((s.block b).dead = false → (s.block b).halted = false → (∀ i ∈ (s.block b).teams, (s.team i).block = b) →
          ∃ u, exec .debuggerResume s = .next u ∧ (u.block b).debug = false
            ∧ (∀ i ∈ (s.block b).teams, (s.team i).st = .parked → (s.team i).cause = .debug →
                (u.team i).st = (if (s.team i).inSlot then .active else .ready) ∧ (u.team i).cause = .none ∧ (u.team i).pc = (s.team i).pc
                  ∧ (s.team i).sameRegs (u.team i) [])))

/-- 04 R75; 05 R92, R103; 17 R297; 19 R309; 23 R378, R380: the launch whose turn it is places its next block where the distributor finds a spot: a block that
had left its cluster comes back; a block of the grid is new, on the spot's cluster and at its offset, with as many teams as the descriptor says, each
READY at its entry in an image of its own, every lane in its mask, and the next block of the grid comes after it; a bucket's block has one lane for each
of its entries, at its stage's entry, with payloads and keys in v0 to v2. Blocks that must leave
the cluster first are saved, and where one cannot be yet nothing is placed. A cluster's turn that has lasted its slice passes to the next front end that
wants the cluster, and else renews. -/
def Obligations.BlocksArePlaced : Prop :=
  (
    ∀ (s : State) (n : Nat) (c : Option Nat) (p : Spot), s.placesNext = some n → s.spot n c = some p →
      let f := (s.job n).fn
      let s0 := p.out.foldl State.saveBlock s
      let s1 := s0.takeTurn f p.cluster
      if p.out.any (fun b => (s0.block b).saved.isNone) = true then exec (.blockPlacement n c) s = .next s0
      else (∀ b, p.what = .back b → exec (.blockPlacement n c) s = .next (s1.restoreBlock b p.base))
      ∧ (let j := s1.job n
         let b := SMap.freshKey s1.blocks
         let t0 := SMap.freshKey s1.teams
         let fresh := fun (u : State) (stage lanes : Nat) (pc : W64) => SMap.get u.fePrev f 24 = p.cluster
           ∧ (u.block b).job = n ∧ (u.block b).cluster = p.cluster ∧ (u.block b).base = p.base ∧ (u.block b).size = j.scratch
           ∧ (u.block b).teams = (upTo p.images.length).map (fun i => t0 + i)
           ∧ (∀ i a, p.images[i]? = some a → let t := u.team (t0 + i)
               t.st = .ready ∧ t.inSlot = false ∧ t.job = n ∧ t.block = b ∧ t.teamid = i ∧ t.ctxbase = BitVec.ofNat 64 a ∧ t.core / 4 = p.cluster
                 ∧ t.stage = stage ∧ t.nlanes = lanes ∧ t.mask = BitVec.ofNat 1024 (2 ^ lanes - 1) ∧ t.vregs = j.vregs ∧ t.pc = pc)
         (∀ k, p.what = .grid k → ∃ u, exec (.blockPlacement n c) s = .next u ∧ (u.job n).nextBlock = k + 1 ∧ fresh u 0 j.lanes 0)
         ∧ (∀ k es, p.what = .later k es → ∃ u, exec (.blockPlacement n c) s = .next u ∧ (u.job n).ready = j.ready.drop 1
             ∧ fresh u k es.length (j.entry k)
             ∧ ∀ i a l e, p.images[i]? = some a → es[l]? = some e → l < 1024 → let t := u.team (t0 + i)
                 t.vr 0 l = e.val.toNat % 2 ^ 32 ∧ t.vr 1 l = e.val.toNat / 2 ^ 32 ∧ t.vr 2 l = e.key.toNat)))
  ∧ (
    ∀ (s : State) (c h : Nat), let x := s.clusterAt c
      x.holder = some h → x.since + s.slice h ≤ s.time →
      (∀ g, s.nextWanting h c = some g → exec (.turnEnd c) s = .next (s.setCluster c { x with holder := some g, since := s.time }))
      ∧ (s.nextWanting h c = none → exec (.turnEnd c) s = .next (s.setCluster c { x with since := s.time })))

/-- 19 R302–R308: a front end where each of its events is due: it reads its queue's tail and holds it; it reads its next descriptor, holds the line of
one without OWN, takes one with OWN into its queue, rejected where a check gives a status, else waiting with its words and stage records; it checks the
waits; it starts a launch, in the order of starts, its siblings launched; it completes a descriptor, which leaves with its blocks and teams. -/
def Obligations.FrontEndEvents : Prop :=
  ∀ (s : State),
    (∀ f q bs t, s.feFree f q = true → s.feRead f (s.regN f (oLQTAILA q)) 8 = (t, .ok bs) → (∀ a ∈ s.appends, a.fn = f → a.level ≠ q) →
      ∃ u, exec (.tailLineInvalidation f q) s = .next u ∧ SMap.get u.tails (feKey f q) 0 = leNat bs ∧ u.jobs = s.jobs ∧ u.teams = s.teams)
    ∧ (∀ f q bs t, s.consumeReady f q = true → s.feRead f (s.lqSlot f q (s.regN f (oLQHEAD q))) 256 = (t, .ok bs) →
      let w := leWords 32 bs
      (nbit (leNat (bs.take 8)) 7 = false → ∃ u, exec (.descriptorConsume f q) s = .next u ∧ u.jobs = s.jobs ∧ u.tails = s.tails ∧ u.teams = s.teams)
      ∧ (nbit (leNat (bs.take 8)) 7 = true → t.descStatus f w ≠ 0 →
          exec (.descriptorConsume f q) s = .next (t.takeDescriptor f q w [] (t.descStatus f w)))
      ∧ (∀ x ds, nbit (leNat (bs.take 8)) 7 = true → t.descStatus f w = 0 → t.descTables f q w = (x, .inl (ds, 0)) →
          (∀ a ∈ s.appends, a.fn = f → a.level ≠ q) →
          (x.feWrite f (x.lqSlot f q (x.regN f (oLQHEAD q))) (natLe 8 (setFld (dw w 0) 7 7 0).toNat)).2 ≠ .wait →
          ∃ u, exec (.descriptorConsume f q) s = .next u
            ∧ u.job (SMap.freshKey s.jobs) = { Job.blank with fn := f, level := q, num := x.regN f (oLQHEAD q), words := w, stages := ds,
                                                              met := fld (dw w 0) 13 11 == 0 }
            ∧ u.teams = s.teams))
    ∧ (∀ n t b, s.headOfQueue n = true → s.jobWaits n = false → s.waitCheck (s.job n) = (t, .inl b) →
      ∃ u, exec (.waitCounterWrite n) s = .next u ∧ u.job n = { s.job n with met := b } ∧ u.teams = s.teams)
    ∧ (∀ n, s.startReady n 0 = true → ∃ u, exec (.launchDescriptor n) s = .next u
        ∧ u.job n = { s.job n with phase := .started, order := s.orders } ∧ u.orders = s.orders + 1
        ∧ ((s.job n).sgmode ≠ 0 → ∀ i, i < 64 → (s.job n).carries i = true →
            (u.group (s.groupKey (s.job n).fn (s.job n).groupNo)).launched.getLsbD i = true))
    ∧ (∀ n, s.completionReady n = true → exec (.launchCompletion n) s = .next (s.completeJob n)
        ∧ (fld ((s.job n).word 8) 56 0 = 0 ∨ (s.job n).noDone = true →
            SMap.find (s.completeJob n).jobs n = none ∧ (∀ t ∈ (s.completeJob n).teams, t.2.job ≠ n) ∧ (∀ b ∈ (s.completeJob n).blocks, b.2.job ≠ n)))

/-! Events of the engines. -/

/-- 15 R256, R264, R271; 17 R277, R280, R291–R296; 22 R354: the array performs a k-step of its first MMA, whose results land in the
register cache or the image, the Oculus merges a complete round and answers every
team that gave lanes, a copy engine performs the next row of a request, all where each may; an engine whose L2 does not own what it writes asks for it and waits. Queues
and stages where their request may be served: a push goes to the head buffer while it has room after its refill and the refill
has nothing left to move, a pop answers the oldest entry with success or its default with failure, QSTAT answers its count; a deposit
enters its stage's store or waits for room, a full or flushed bucket and a drained stage launch their entries. -/
def Obligations.EngineEvents : Prop :=
  (
    ∀ (s : State),
      (∀ core part i r, s.arrayOf (32 * core + part) = i :: r → s.mmaWaits i = false → let t0 := s.team i
        let s1 := s.as (core + 1) (fun s => s.mmaWord i)
        let tile := match t0.mma with | some m => (upTo 32).flatMap (fun c => m.lanes.map (fun l => Ref.v (m.f.d.toNat + c) l)) | none => []
        exec (.mmaArrayExecution core part) s = .next (s1.landed i t0 (t0.changed (s1.team i) tile)))
      ∧ (∀ b r, s.credRound b = some r → ∃ u, exec (.oculusMerge b) s = .next u
          ∧ (u.block b).cred = (s.block b).cred.filter (fun e => e.round != r)
          ∧ ∀ d ∈ (s.block b).cred, d.round = r → d.lanes ≠ [] → ∃ p ∈ u.replies, p.team = d.team ∧ p.set = 4)
      ∧ (∀ id c r rest, s.copyOfId id = some c → s.copyReady id = true → c.todo = r :: rest →
          (c.qmc = true → exec (.copyRow id) s = .next (s.qmcRow c r))
          ∧ (∀ x y bs, c.qmc = false → (s.quiet (c.core + 1)).copySource c r = x → x.1.copyRead c x.2 = (y, .inl bs) →
              let e := y.copyWrite c r bs (if x.2 = .absent then 1 else 0)
              (s.trialWaits e c.vf = none → exec (.copyRow id) s = .next (s.unquiet e))
              ∧ (∀ w, s.trialWaits e c.vf = some w → exec (.copyRow id) s = .next w))))
  ∧ (
    ∀ (s : State),
      (∀ n r, s.qreqs[n]? = some r → s.pushReady n = true → let s0 := (s.quiet 0).refill 64 r.queue
        let q := s0.queue r.queue
        let x := s0.pushFinds n r
        let y : State := { x.1.setQueue r.queue { q with head := q.head ++ [r.val], pushes := q.pushes + 1 } with qreqs := dropAt x.1.qreqs n }
        let e := (if y.qreqs.any (fun e => e.kind == 0 && e.ins == r.ins) then y else y.account r.team 1 0 0).wakeHeld r.team
        q.refilling = false → x.2 = .head → s.trialWaits e r.vf = none →
        ∃ u, exec (.pushAccept n) s = .next u ∧ u = s.unquiet e ∧ (u.queue r.queue).head = q.head ++ [r.val]
          ∧ (u.queue r.queue).pushes = q.pushes + 1 ∧ (u.queue r.queue).ringLen = q.ringLen)
      ∧ (∀ n r, s.qreqs[n]? = some r → s.popReady n = true → r.kind = 2 → ∃ u, exec (.popServe n) s = .next u ∧ u.qreqs = dropAt s.qreqs n
          ∧ u.replies = s.replies ++ [r.reply [.s r.dst (BitVec.ofNat 64 (s.queueStat r.queue r.val.toNat))]])
      ∧ (∀ n r, s.qreqs[n]? = some r → s.popReady n = true → r.kind ≠ 2 → (((s.quiet 0).refill 64 r.queue).queue r.queue).head = [] →
          ∃ u, exec (.popServe n) s = .next u ∧ u.replies = ((s.quiet 0).refill 64 r.queue).replies ++
            [r.reply (dstsOf r.uni .n64 r.dst r.lane r.val.toNat ++ pairDsts r.uni r.pd r.pe r.lane false true)])
      ∧ (∀ n r x rest, s.qreqs[n]? = some r → s.popReady n = true → r.kind ≠ 2 → (((s.quiet 0).refill 64 r.queue).queue r.queue).head = x :: rest →
          ∃ u, exec (.popServe n) s = .next u ∧
            r.reply (dstsOf r.uni .n64 r.dst r.lane x.toNat ++ pairDsts r.uni r.pd r.pe r.lane true false) ∈ u.replies)
      ∧ (∀ n d, s.deposits[n]? = some d → s.depositReady n = true →
          let s1 := { s with deposits := dropAt s.deposits n }
          let j := s.job d.job
          exec (.rdxDepositArrival n) s = .next (if j.storeFull d.stage || j.held.any (fun e => e.stage == d.stage)
            then (s1.setJob d.job { j with held := j.held ++ [d] }).parkSoon d.team .queue (BitVec.ofNat 64 (1024 + d.stage))
            else (s1.setJob d.job (j.enter { d with at_ := s.clock.toNat })).enterHeld 8192 d.job))
      ∧ (∀ n k b, s.flushDue n k b = true →
          exec (.bucketFlush n k b) s = .next ((s.setJob n ((s.job n).launch k ((s.job n).bucket k b))).enterHeld 8192 n))
      ∧ (∀ n k, s.stageDrained n k = true → exec (.stageDrain n k) s =
          .next (s.setJob n ((sortBy (fun a b => decide (a < b)) ((s.job n).open_ k)).foldl (fun j b => j.launch k (j.bucket k b)) (s.job n)))))

/-- 11 R217, R226; 12 R235, R236; 19 R310–R321; 22 R354: a Spire performs a batch that may go, once its L2 owns what the batch writes, and sends its
verdict, with a reply where it accepts it; until then it asks and waits. A request of the Campanile is answered, at least 80 clocks later; a release
and the decision of a group whose siblings have all finished take place. -/
def Obligations.SpireAndCampanileEvents : Prop :=
  ∀ (s : State),
    (∀ n b, s.batches[n]? = some b → s.spireReady n = true → let e := spBatch b (s.quiet (Config.cores + 1 + (b.target s).2))
      let w := s.unquiet e.s
      (s.trialWaits e.s b.vf = none → ∃ u, exec (.spireBatch n) s = .next u ∧ u.batches = dropAt w.batches n
        ∧ u.verdicts = w.verdicts ++ [{ batch := b, out := e.out }]
        ∧ (e.out = .accepted → ∃ r, u.replies.getLast? = some r ∧ r.team = b.team ∧ r.dsts = e.dsts))
      ∧ (∀ x, s.trialWaits e.s b.vf = some x → exec (.spireBatch n) s = .next x))
    ∧ (∀ n p, s.posts[n]? = some p → s.postReady n = true →
      ∃ u r, exec (.campanilePost n) s = .next u ∧ u.replies.getLast? = some r ∧ r.team = p.team ∧ r.set = 5 ∧ r.due = s.clock.toNat + 80
        ∧ (p.kind = 1 → r.dsts = [.s p.dst (s.pollGroup (s.groupKey p.vf p.group) p.sel p.word)]))
    ∧ (∀ k i, s.releaseReady k i = true → let e := (s.quiet 0).releaseSlots 4 k i
      (s.trialWaits e (s.group k).vf = none → exec (.kvRelease k i) s = .next (s.unquiet e))
      ∧ (∀ w, s.trialWaits e (s.group k).vf = some w → exec (.kvRelease k i) s = .next w))
    ∧ (∀ k, s.allFinished k = true → exec (.finishedSiblingCheck k) s = .next (match (s.group k).plurality with
        | none => s.decideGroup k 3 none
        | some j => s.decideGroup k 2 (some j)))

/-- 19 R303, R311–R315; 17 R289: the commands of a front end where each may start: a directory record is written, a queue's description is
replaced where it holds nothing outside its head buffer, launches of a tag are cancelled, an event is signalled, a group is opened, freed or refused
with status 5. -/
def Obligations.CommandEvents : Prop :=
  ∀ (s : State) (n : Nat), let j := s.job n
    (∀ w bs r x, s.startReady n 1 = true → s.feWrite j.fn ((j.word 1).toNat + 40 * (j.word 2).toNat) (wordsLe ((j.words.drop 3).take 5)) = (w, .ok bs) →
      w.record j.fn (j.word 1).toNat (j.word 2).toNat = (r, .ok x) → exec (.directoryUpdate n) s = .next ((r.applyGen j.fn x).finishJob n 0))
    ∧ (s.startReady n 2 = true → (∀ r ∈ s.qreqs, r.kind ≠ 0) → (s.queue (s.qbase j.fn + (j.word 1).toNat)).ringLen = 0 →
      ∃ q u, exec (.queueDescriptor n) s = .next u ∧ u = (s.setQueue (s.qbase j.fn + (j.word 1).toNat) q).finishJob n 0 ∧ q.vf = j.fn
        ∧ q.en = (j.word 2).getLsbD 63 ∧ q.mbase = fld (j.word 2) 56 0 ∧ q.mcap = fld (j.word 3) 63 32)
    ∧ (s.startReady n 3 = true → exec (.cancel n) s = .next (((s.tagged j.fn (j.word 10)).foldl State.cancelJob s).finishJob n 0))
    ∧ (s.startReady n 4 = true → exec (.signal n) s = .next (s.finishJob n 0))
    ∧ (s.startReady n 5 = true → (s.groupCount j.fn ≤ j.groupNo ∨ (s.group (s.groupKey j.fn j.groupNo)).st ≠ 0) →
        exec (.groupOpen n) s = .next (s.finishJob n 5))
    ∧ (∀ w bs, s.startReady n 5 = true → j.groupNo < s.groupCount j.fn → (s.group (s.groupKey j.fn j.groupNo)).st = 0 →
        s.feWrite j.fn (j.word 4).toNat blankRecords = (w, .ok bs) →
        ∃ g, exec (.groupOpen n) s = .next ((w.setGroup (s.groupKey j.fn j.groupNo) g).finishJob n 0) ∧ g.st = 1 ∧ g.vf = j.fn
          ∧ g.n = fld (j.word 1) 5 0 + 1 ∧ g.q = fld (j.word 1) 13 8 + 1 ∧ g.posted = 0)
    ∧ (s.startReady n 6 = true → j.groupNo < s.groupCount j.fn → (s.group (s.groupKey j.fn j.groupNo)).st = 1 →
        exec (.groupFree n) s = .next ((s.setJob n { j with phase := .started }).decideGroup (s.groupKey j.fn j.groupNo) 3 none))
    ∧ (s.freeReady n = true → (s.group (s.groupKey j.fn j.groupNo)).st = 0 → exec (.groupFreeCompletion n) s = .next (s.finishJob n 0))

/-! Events of the memory fabric. -/

/-- 21 R335, R341, R346: the commands of a function's window: INVCMD counts a request and queues its range, DISCARD queues its range, FSRESOLVE with
an outcome of 0 to 2 takes the named record away and delivers the outcome; an invalidation that is ready drops the L1s of the function and its cached
translations of the range, and is counted done once no write-back of the range is held. -/
def Obligations.WindowCommands : Prop :=
  ∀ (s : State), let f := s.inp.fn
    (∃ u, exec .invcmd s = .next u ∧ u = { s.addReg f oINVREQ 1 with invs := s.invs ++ [(f, s.reg f oINVADDR, BitVec.ofNat 64 (fld s.inp.value 31 0))] })
    ∧ (exec .discard s = .next ({ s with discards := s.discards ++ [(f, s.inp.value)] }.noteDiscard f (s.discardRange f s.inp.value).1
        (s.discardRange f s.inp.value).2))
    ∧ (∀ k r, firstIdx (fun r => r.fn == f && r.written && r.seq == fld s.inp.value 31 0) s.faults = some k → s.faults[k]? = some r →
        fld s.inp.value 35 32 ≤ 2 →
        exec .fsresolve s = .next (({ s with faults := dropAt s.faults k }).faultOutcome r (fld s.inp.value 35 32) false))
    ∧ (∀ g k e, firstIdx (fun (e : Nat × W64 × W64) => e.1 == g) s.invs = some k → s.invs[k]? = some e → s.invReady g = true →
        exec (.invalidationComplete g) s =
          let w := (((s.pinners g e.2.1 e.2.2).foldl (fun s i => s.evictTeam i false) s).dropL1 g).dropTlb g e.2.1 e.2.2
          .next (if w.translated g e.2.1 e.2.2 then w else { w with invs := dropAt w.invs k }.addReg g oINVDONE 1))

/-- 21 R342–R353: the memory controller's events where each is due: an access of a block within a function's window touches its frame, one that finds
an uncorrectable error in the block's entry makes it POISON, a held write
is performed or expires, a quota park ends with XFAULT QUOTA, a discard frees its frames, a round recompacts and asks or sweeps, a demoted frame
comes back; an access outside the device memory space is a fault. -/
def Obligations.MemoryControllerEvents : Prop :=
  ∀ (s : State),
    (∀ a : BlockAcc, s.dmBytes ≤ a.addr → exec (.blockAccess a) s = .fault (.noSuchAddress a.addr))
    ∧ (∀ a : BlockAcc, a.addr < s.dmBytes → s.ownerOf a.addr = some a.fn → a.bytes = none → a.ecc = false →
        exec (.blockAccess a) s = .next (s.touchFrame a.addr))
    ∧ (∀ a : BlockAcc, a.addr < s.dmBytes → s.ownerOf a.addr = some a.fn → a.ecc = true →
        exec (.blockAccess a) s = .next ((s.touchFrame a.addr).poisonBlock a.fn a.addr))
    ∧ (∀ d k h, s.heldNext d = some k → s.held[k]? = some h → s.logShort h.fn (s.heldParts h) = false →
        exec (.heldWriteRelease d) s = .next (s.performHeld k))
    ∧ (∀ d k, s.heldLate d = some k → exec (.heldWriteExpiry d) s = .next (s.expireHeld k))
    ∧ (∀ i r, s.quotaExpired i = true → s.faults.find? (fun r => r.waiter == .team i) = some r → exec (.quotaLimitExpiry i) s = .next (s.teamXfault r i 2))
    ∧ (∀ f k d, firstIdx (fun (d : Nat × W64) => d.1 == f) s.discards = some k → s.discards[k]? = some d → s.discardReady f = true →
        let r := s.discardRange f d.2
        let x := s.discardFrames 65537 f r.1 r.2
        r.2 ≤ x.2 → exec (.discardComplete f) s = .next ({ x.1 with discards := dropAt x.1.discards k }.addReg f oDISDONE 1))
    ∧ (∀ d, s.roundDue d = true → ((s.recompact d).poolShort d = false →
          exec (.reclamationRound d) s = .next { s.recompact d with rounds := SMap.drop (s.recompact d).rounds d })
        ∧ ((s.recompact d).poolShort d = true → let t := (s.recompact d).askBalloons d
          exec (.reclamationRound d) s = .next { t with rounds := SMap.put t.rounds d { active := true, waiting := true, since := t.time } Round.idle }))
    ∧ (∀ d, s.balwaitOver d = true → ∃ u, exec (.balwaitExpiry d) s = .next u
        ∧ u = { s.sweep d with rounds := SMap.put (s.sweep d).rounds d { active := (s.sweep d).poolShort d, waiting := false, since := (s.sweep d).time } Round.idle })
    ∧ (∀ n, s.promotionDue n = true → ∃ u, exec (.promotion n) s = .next u ∧ (u.frameOf (65536 * n)).slot = none)

/-! Coherence and the link. -/

/-- 22 R354–R360: messages of the coherence network and the tick: a request goes to its directory, a snoop that need not wait leaves the network
and is answered with the grain's state, its line downgraded or lost, or as absent; what a SnpS found decides between OS and S; data fills its line
and leases it to the reads that asked, or is dropped where a change of SLICEMASK met it, and the stores that waited for it go on; an evicted line's
dirty sectors are written back; the answer to an atomic reaches its
instruction; a rejected request is sent again; the tick advances every core's logical time. -/
def Obligations.CoherenceMessages : Prop :=
  ∀ (s : State) (m : CohMsg),
    (exec (.rds m) s = .next (s.arrive .rds m) ∧ exec (.rdxMsg m) s = .next (s.arrive .rdx m) ∧ exec (.ownnd m) s = .next (s.arrive .own m)
      ∧ exec (.upg m) s = .next (s.arrive .upg m) ∧ exec (.atomicreq m) s = .next (s.arrive .amo m))
    ∧ (let s0 := s.takeMsg (.wb m)
       let d := s0.dirAt (msgKey m)
       let held := (s0.l2 m.die (msgKey m)).st = .m ∨ (s0.l2 m.die (msgKey m)).st = .o
       let own := (d.st = .em ∨ d.st = .os) ∧ d.owner = m.die
       let left := { d with st := if d.sharers = 0 then .i else .s, owner := 0 }
       let stored := fun (u : State) => if m.sys then u else u.writeBack m.grain m.size
       (held → own → exec (.wb m) s = .next ((stored (s0.loseGrain m.die (msgKey m))).setDir (msgKey m) left))
       ∧ (held → ¬own → exec (.wb m) s = .next (s0.loseGrain m.die (msgKey m)))
       ∧ (¬held → own → s.coh.net.contains (.wb m) = true → exec (.wb m) s = .next ((stored s0).setDir (msgKey m) left))
       ∧ (¬held → own → s.coh.net.contains (.wb m) = false → exec (.wb m) s = .next (stored s0))
       ∧ (¬held → ¬own → exec (.wb m) s = .next s0))
    ∧ (s.snoopWaits m = true → exec (.snps m) s = .next s ∧ exec (.snpx m) s = .next s ∧ exec (.inv m) s = .next s)
    ∧ (s.biWaits m = true → exec (.bi m) s = .next s)
    ∧ (s.biWaits m = false →
         let s0 := s.takeMsg (.bi m)
         let gs := s0.coh.l2.filter (fun e => e.1 / 2 ^ 52 == m.die && inLine (m.grain / 512) (e.1 % 2 ^ 52) && e.2.colour == m.colour)
         exec (.bi m) s = .next ((gs.foldl (fun s e => s.loseGrain m.die (e.1 % 2 ^ 52)) s0).respond m
           (if gs.any (fun e => e.2.st == .m || e.2.st == .o) then .m else .i)))
    ∧ (s.snoopWaits m = false →
        (let s0 := s.takeMsg (.snps m); let x := s0.l2 m.die (msgKey m)
         (s0.probed m = true → exec (.snps m) s =
           .next ((s0.setL2 m.die (msgKey m) { x with st := snooped x.st }).respond m x.st))
         ∧ (s0.probed m = false → exec (.snps m) s = .next (s0.respond m .i)))
        ∧ (let s0 := s.takeMsg (.snpx m)
           (s0.probed m = true → exec (.snpx m) s = .next ((s0.loseGrain m.die (msgKey m)).respond m (s0.l2 m.die (msgKey m)).st))
           ∧ (s0.probed m = false → exec (.snpx m) s = .next (s0.respond m .i)))
        ∧ (let s0 := s.takeMsg (.inv m)
           (s0.probed m = true → exec (.inv m) s = .next ((s0.loseGrain m.die (msgKey m)).respond m (s0.l2 m.die (msgKey m)).st))
           ∧ (s0.probed m = false → exec (.inv m) s = .next (s0.respond m .i))))
    ∧ (let k := dieKey m.die (msgKey m)
       let s0 := (s.takeMsg (.data m)).endFill k
       let s1 := s0.fillL2 m.die m m.grant
       let lease := fun (u : State) (c : Nat) => u.leaseRead c m.die m.sys m.grain m.size
       (s.coh.voided.contains k = true →
          exec (.data m) s = .next ((s0.setDir (msgKey m) ((s0.dirAt (msgKey m)).without m.die)).goDie m.die))
       ∧ (s.coh.voided.contains k = false → (Config.cores ≤ m.core ∨ m.grant = .m) →
          exec (.data m) s = .next (((s.joined k).foldl lease s1).goDie m.die))
       ∧ (s.coh.voided.contains k = false → m.core < Config.cores → m.grant ≠ .m →
          exec (.data m) s = .next (((s.joined k).foldl lease (lease s1 m.core)).goDie m.die)))
    ∧ (let s0 := s.takeMsg (.rsp m)
       let d := s0.dirAt (msgKey m)
       let reads := s0.readsGrain m
       let owner := (d.st = .em ∨ d.st = .os) ∧ d.owner = m.die
       let leaves := fun (x : DirLine) => Host.Outcome.next ((s0.setDir (msgKey m) x).answered false m.sys m.grain)
       (s0.biInProgress m = true ∧ m.size = 512 → exec (.rsp m) s =
         .next ((if m.dirty then s0.writeBack (m.grain / 512 * 512) 512 else s0).answered true false (m.grain / 512 * 512)))
       ∧ (¬(s0.biInProgress m = true ∧ m.size = 512) →
         (¬(reads = true ∧ owner) → exec (.rsp m) s = .next (s0.answered false m.sys m.grain))
         ∧ (reads = true → owner → (m.grant = .m ∨ m.grant = .o → exec (.rsp m) s = leaves { d with st := .os })
             ∧ (m.grant = .i → exec (.rsp m) s = leaves { d with st := .s, owner := 0 })
             ∧ (m.grant = .e ∨ m.grant = .s → exec (.rsp m) s = leaves { d with st := .s, owner := 0, sharers := d.sharers ||| dieBit m.die }))))
    ∧ exec (.atomicrsp m) s = .next ((s.takeMsg (.atomicrsp m)).atomBack m.tag)
    ∧ exec (.retry m) s = .next ((s.takeMsg (.retry m)).sendMsg (reqMsg (retryKind m.grant) { m with grant := .i, again := 0 }))
    ∧ (let s0 := (s.takeMsg (.poison m)).endFill (dieKey m.die (msgKey m))
       ((s0.l2 m.die (msgKey m)).st = .i → exec (.poison m) s = .next ((s0.atomBack m.tag).goDie m.die))
       ∧ ((s0.l2 m.die (msgKey m)).st ≠ .i → exec (.poison m) s = .next (((s0.loseGrain m.die (msgKey m)).atomBack m.tag).goDie m.die)))
    ∧ (∃ u, exec .logicalTimeTick s = .next u ∧ (∀ c, c < Config.cores → u.lt c = s.lt c + 1) ∧ u.coh.ticks = s.coh.ticks + 1)

/-- 22 R361, R368, R369; 23 R374, R375: the device's lines of system memory: a shared line comes for its die, an owned one comes owned, evictions
and snoops give it up or share it once no copy needs it, a snoop that must wait is kept for later. Lines of a peer's memory do so by MEMRD, MEMWR,
BISNPINV and BISNPDATA (log entry 114); for lines of device memory these two end what the
port's partner holds of a grain's lines, or its sole ownership, and an answer brings its dirty bytes and lets the request that asked go on. -/
def Obligations.HostLineEvents : Prop :=
  ∀ (s : State), let l := s.inp.link
    let brought := (s.setHub l.addr { s.hubLine l.addr with dies := (s.hubLine l.addr).dies ||| dieBit l.die }).lineCame l.addr
    let owned := (s.setHub l.addr { dies := (s.hubLine l.addr).dies ||| dieBit l.die, owned := true }).lineCame l.addr
    let gone := (s.probeLine l.addr (some .i)).setHub l.addr HubLine.absent
    let shared := ((s.probeLine l.addr (some .s)).setHub l.addr { s.hubLine l.addr with owned := false }).retryLine l.addr true
    let taken := let bs := l.bytes.take (64 - l.addr % 64)
      { (gone.retryLine l.addr true).loseLines true l.addr bs.length with sysmem := writeMem (gone.retryLine l.addr true).sysmem l.addr bs }
    exec .rdshared s = .next brought
    ∧ exec .rdown s = .next owned
    ∧ ((s.hubLine l.addr).owned = true → exec .dirtyevict s = .next gone)
    ∧ ((s.hubLine l.addr).owned = false → exec .cleanevict s = .next gone)
    ∧ (s.hostWaits true l.addr = true → exec .snpdata s = .next (s.defer .snpdata) ∧ exec .snpinv s = .next (s.defer .snpinv)
        ∧ exec .snpcur s = .next (s.defer .snpcur))
    ∧ (s.hostWaits true l.addr = false → exec .snpdata s = .next shared ∧ exec .snpinv s = .next taken
        ∧ exec .snpcur s = .next ((s.probeLine l.addr none).retryLine l.addr false))
    ∧ (nbit l.addr 51 = true →
        (l.excl = false → exec .memrd s = .next brought) ∧ (l.excl = true → exec .memrd s = .next owned)
        ∧ ((s.hubLine l.addr).owned = l.dirty → exec .memwr s = .next gone)
        ∧ (s.hostWaits true l.addr = true → exec .bisnpinv s = .next (s.defer .bisnpinv) ∧ exec .bisnpdata s = .next (s.defer .bisnpdata))
        ∧ (s.hostWaits true l.addr = false → exec .bisnpinv s = .next taken ∧ exec .bisnpdata s = .next shared))
    ∧ (nbit l.addr 51 = false →
        let p := hostPort l.port
        let g := s.snoopRange l.addr
        let less := fun (h : Option Bool) => (cutRange 9 64 g.1 g.2).foldl
          (fun u e => if (u.hostsAt e.1).any (fun x => x.1 == p) then u.setHost e.1 p h else u) s
        exec .bisnpinv s = .next (less none) ∧ exec .bisnpdata s = .next (less (some false)))
    ∧ (let s1 := if l.dirty then s.linkStore l.addr (l.bytes.take (64 - l.addr % 64)) else s
       (s1.coh.txns.find? (txnOfLine l.addr) = none → exec .birsp s = .next s1)
       ∧ (∀ t, s1.coh.txns.find? (txnOfLine l.addr) = some t →
           ((reqOf t.req).isSome = true → exec .birsp s = .next (s1.answered false false t.grain))
           ∧ (reqOf t.req = none → exec .birsp s = .next (s1.hostAnswered t.grain))))

/-- 22 R369; 23 R371, R372, R374, R375: MEMRD of a line of HBM that nothing at its home holds back answers its 64 bytes and MEMWR stores its bytes, each
with its status, once no other partner holds the line against it; until then it waits and asks them; POISON or an address outside the functions' windows answers poison (a peer's own lines: HostLineEvents). The layout of the answers is the model's (log entry 28). A good flit on an
up port ends its run of failures, a bad one counts a replay, the ninth in a row takes the port down; training and the loss of a port act on the port
named. -/
def Obligations.LinkAccessesAndPorts : Prop :=
  (
    ∀ (s : State) (a : Nat), let l := s.inp.link
      nbit l.addr 51 = false → (s.port l.port).up = true →
      (s.linkAddr l = none → exec .memrd s = .next (s.answer (256 + l.port) [1]) ∧ exec .memwr s = .next (s.answer (256 + l.port) [1]))
      ∧ (s.linkAddr l = some a → s.homeBusy a = false → s.poisoned a = true → exec .memrd s = .next (s.answer (256 + l.port) [1]))
      ∧ (s.linkAddr l = some a → s.homeBusy a = true → exec .memrd s = .next (s.defer .memrd) ∧ exec .memwr s = .next (s.defer .memwr))
      ∧ (s.linkAddr l = some a → s.homeBusy a = false → s.poisoned a = false →
          let p := hostPort l.port
          let others := (s.hostPorts (a / 64 * 64) 64 (!l.excl)).filter (fun q => q != p)
          (others = [] → exec .memrd s =
            .next (((s.touchFrame a).hostTakes a p l.excl).answer (256 + l.port) (0 :: leWords 8 (s.readDev (a / 64 * 64) 64))))
          ∧ (others ≠ [] → exec .memrd s = .next (s.askHosts .memrd a others l.excl)))
      ∧ (s.linkAddr l = some a → s.homeBusy a = false →
          let p := hostPort l.port
          let others := (s.hostPorts (a / 64 * 64) 64 false).filter (fun q => q != p)
          let taken := (s.hostTakes a p true).setHost a p (if l.excl then some true else none)
          (others = [] → exec .memwr s = .next ((taken.linkStore a (l.bytes.take (64 - a % 64))).answer (256 + l.port) [0]))
          ∧ (others ≠ [] → exec .memwr s = .next (s.askHosts .memwr a others true))))
  ∧ (
    ∀ (s : State), let p := s.inp.link.port
      ((s.port p).up = true → s.inp.ok = true → s.inp.link.sealed = false → exec .flit s = .next (s.setPort p { s.port p with fails := 0 }))
      ∧ ((s.port p).up = true → s.inp.ok = false → (s.port p).fails < 8 →
          exec .flit s = .next (s.setPort p { s.port p with fails := (s.port p).fails + 1, replays := satInc (s.port p).replays }))
      ∧ ((s.port p).up = true → s.inp.ok = false → 8 ≤ (s.port p).fails → exec .flit s = .next (s.portDown p))
      ∧ (s.inp.num < 8 → exec .portTraining s = .next (s.train s.inp.num (fld s.inp.value 31 0)) ∧ exec .portDown s = .next (s.portDown s.inp.num)))

/-- 23 R381–R383: TDISP where it reaches the function: lock, start and stop take an idle interface to LOCKED, RUN and UNLOCKED, each answered; the
report and state requests are answered. SPDM on a port that carries it: a requester that offers an algorithm negotiates and is shown the certificate chain, its key exchange opens a
session whose share is the model's free value, the right FINISH establishes it, and an established session answers heartbeats, updates its keys and
ends, with the peer session that an export is bound to by it; measurements are answered, an export may be bound, and session events of a peer act. The answers' codes are the model's (log entry 28). -/
def Obligations.TdispAndSpdmRequests : Prop :=
  (
    ∀ (s : State), let f := s.inp.fn
      s.tdispOn f = true →
      (s.ifst f = 0 → s.fnLive f = false → s.fnStarted f = false → exec .lockInterfaceRequest s = .next ((s.setTdisp f 1).answer f [0]))
      ∧ (s.ifst f = 1 → exec .startInterfaceRequest s = .next ((s.setTdisp f 2).answer f [0]))
      ∧ (∀ t, s.scrub f s.inp.low.toNat = (t, none) → exec .stopInterfaceRequest s = .next ((t.setTdisp f 0).answer f [0]))
      ∧ exec .getDeviceInterfaceReport s = .next (s.answer f (0 :: (hvOffsets.map (s.reg f) ++ (s.exportsOf f).map (fun p => s.reg 0 (oEXPCFG p)))))
      ∧ exec .getDeviceInterfaceState s = .next (s.answer f [0, s.ifstWord f]))
  ∧ (
    ∀ (s : State), let p := s.inp.link.port
      let n := s.inp.num
      (s.spdmOn p = true → offersAny s.inp.partner.offers = true → exec .algorithmNegotiation s =
          .next ((s.setSession (64 + p) { Sess.none with port := p, st := 1 }).answer (64 + p) (0 :: s.chain)))
      ∧ (∀ k, s.spdmOn p = true → (s.session (64 + p)).st = 1 → s.freeSession = some k → exec .keyExchange s =
          .next (((s.setSession k { port := p, st := 2, share := s.inp.value ^^^ Config.keyShare s.fresh, epoch := 0 }).answer (64 + p)
            [0, BitVec.ofNat 64 k, Config.keyShare s.fresh]).useFresh))
      ∧ (s.sessionIn 2 = true → s.inp.value = Config.finishMac (s.session n).share →
          exec .finish s = .next ((s.setSession n { s.session n with st := 3 }).answer (128 + n) [0]))
      ∧ (s.sessionIn 3 = true →
          exec .heartbeat s = .next (s.answer (128 + n % 32) [0])
          ∧ exec .keyUpdate s = .next ((s.setSession n { s.session n with epoch := (s.session n).epoch + 1 }).answer (128 + n) [0])
          ∧ exec .endSession s = .next (((if (s.peer (s.session n).port).export_.isSome ∧ (s.peer (s.session n).port).exportIdx = n
              then s.closeSession (s.session n).port else s).setSession n Sess.none).answer (128 + n) [0]))
      ∧ (s.spdmOn p = true → exec .getMeasurements s = .next (s.answer (64 + p) (0 :: (digestWords Config.romDigest
          ++ digestWords s.bel.running.digest.toNat ++ [BitVec.ofNat 64 s.bel.fuses] ++ digestWords (Config.hvDigest s.hvRegisters s.bel.fuses)))))
      ∧ (∀ f, s.spdmOn p = true → s.exportOf p = some f → nbit (s.regN 0 (oEXPCFG p)) 8 = true → s.ifst f = 2 →
          (∃ k, k < 32 ∧ (s.session k).st = 3 ∧ (s.session k).port = p) →
          ∃ k, k < 32 ∧ (s.session k).st = 3 ∧ (s.session k).port = p
            ∧ exec .bind s = .next ((s.setPeer p { s.peer p with export_ := some f, exportIdx := k }).answer (64 + p) [0]))
      ∧ (exec .sessionOpen s = .next (s.sessEvent 1) ∧ exec .sessionClose s = .next (s.sessEvent 2) ∧ exec .sessionKeyUpdate s = .next (s.sessEvent 3)))

/-! The Belfry. -/

/-- 24 R388, R392–R395: firmware and resets: UPDATE with BCMD free erases the spare slot, drops PENDING and keeps BARG, the image read from there answers
what its verification finds (the places of its header's fields are the model's, log entry 78), a good one filling the slot and setting PENDING, COMMIT of an image that booted takes the spare slot and raises the counter to its SVN; a cold reset keeps the flash alone and
brings the device up, a warm reset waits for the teams and the launches' completions and keeps the log, the flash, the Lantern's owners and the sensors. -/
def Obligations.FirmwareAndResets : Prop :=
  ∀ (s : State),
    (s.bel.busy = false → ∃ u, exec .update s = .next u ∧ u.bel.busy = true ∧ u.bel.pending = false ∧ u.bel.fuses = s.bel.fuses
        ∧ u.bel.source = s.bel.barg ∧ SMap.get u.bel.flash s.bel.spare FwSlot.erased = FwSlot.erased)
    ∧ (∀ i, s.bel.busy = true → s.bel.stage ≠ 0 → s.imageAt s.bel.source.toNat = some i →
        ∃ u, exec .updateReadComplete s = .next u ∧ u.bel.busy = false ∧ u.bel.result = verifyImage (some i) s.bel.fuses ∧ u.bel.fuses = s.bel.fuses
          ∧ (u.bel.result = 0 → u.bel.pending = true
              ∧ SMap.get u.bel.flash s.bel.spare FwSlot.erased = { valid := true, version := i.version, svn := i.svn, digest := i.digest }))
    ∧ (s.bel.busy = false → s.bel.newBoot = true → s.bel.stage = 9 →
        ∃ u, exec .commit s = .next u ∧ u.bel.slot = (!s.bel.slot) ∧ u.bel.pending = false ∧ u.bel.result = 0
          ∧ u.bel.fuses = max s.bel.fuses (SMap.get s.bel.flash s.bel.spare FwSlot.erased).svn)
    ∧ exec .coldReset s = .next ((s.lost s.bel.flashOnly).bringUp 1)
    ∧ (s.warming = true → s.anyLive = false → s.launching = false → exec .warmReset s = .next ((s.lost s.bel.warmOnly).bringUp 1))
    ∧ (s.bel.warmOnly.log = s.bel.log ∧ s.bel.warmOnly.logtail = s.bel.logtail ∧ s.bel.warmOnly.flash = s.bel.flash ∧ s.bel.warmOnly.fuses = s.bel.fuses
        ∧ s.bel.warmOnly.lantasg = s.bel.lantasg ∧ s.bel.warmOnly.sensor = s.bel.sensor)
    ∧ (∀ t, s.inp.fn < 64 → s.scrub s.inp.fn s.inp.low.toNat = (t, none) → ∃ u, exec .functionLevelReset s = .next u ∧ u.ifst s.inp.fn = 0)

/-- 24 R390, R396: power and clocks: D3hot, entered with what the caches hold dirty written, keeps HBM, the tables, time and
sessions, and its exit brings the device up from step 5; D3cold and a shutdown, which a critical
reading brings about, leave the device off; D0 idle is entered and left when due; the clock steps down and up when due; a sensor's warning and its end are recorded, that of the
input power holding once it has lasted a millisecond (a reading, log entry 127). -/
def Obligations.PowerAndSensors : Prop :=
  ∀ (s : State), let n := s.inp.num
    let x := s.inp.value.setWidth 32
    ((s.bel.power = .d0 ∨ s.bel.power = .d0idle) → (∀ j ∈ s.jobs, j.2.type = 0 → j.2.phase ≠ .started) →
        let x := s.cleanCaches
        ∃ u, exec .d3hotEntry s = .next u ∧ u.bel.power = .d3hot ∧ u.mem = x.mem ∧ u.blk = x.blk ∧ u.tables = x.tables ∧ u.sess = x.sess
          ∧ u.time = x.time ∧ u.teams = [] ∧ u.coh = State.reset.coh)
    ∧ (s.bel.power = .d3hot → exec .d3hotExit s = .next (s.bringUp 5))
    ∧ (exec .d3cold s = .next (s.lost { s.bel.flashOnly with power := .d3cold }))
    ∧ (s.idleReady = true → exec .d0IdleEntry s = .next (s.setBel { s.bel with power := .d0idle }))
    ∧ (s.idleOver = true → exec .d0IdleExit s = .next (s.setBel { s.bel with power := .d0 }))
    ∧ (s.stepDownReady = true → exec .clockStepDown s = .next (s.clockStep (s.bel.step + 1) s.stepWarning { s.bel with stepAt := s.time }))
    ∧ (s.stepUpReady = true → exec .clockStepUp s = .next (s.clockStep (s.bel.step - 1) none { s.bel with warnAt := s.time }))
    ∧ (n < 20 → ∃ u, exec .sensorWarning s = .next u ∧ SMap.get u.bel.sensor n 0 = x ∧ (n ≠ 18 → u.warns n = sensorWarns n x)
        ∧ (n = 18 → u.bel.powerAt = if sensorWarns 18 x then some (s.bel.powerAt.getD s.time) else none))
    ∧ (n < 20 → ∃ u, exec .sensorWarningEnd s = .next u ∧ SMap.get u.bel.sensor n 0 = x ∧ (n ≠ 18 → u.warns n = sensorWarns n x)
        ∧ (n = 18 → u.bel.powerAt = if sensorWarns 18 x then some (s.bel.powerAt.getD s.time) else none))
    ∧ (s.warns 18 = true ↔ ∃ t, s.bel.powerAt = some t ∧ t + msUnits ≤ s.time)
    ∧ ((sensorCritical n x = true ∨ s.shutdownDue.isSome = true) → ∃ u, exec .shutdown s = .next u ∧ u.bel.power = .off
        ∧ u.bel.logtail = s.bel.logtail + 1)
    ∧ (sensorCritical n x = false → s.shutdownDue = none → exec .shutdown s = .next s)

/-- 09 R204; 19 R300; 21 R336, R338, R343; 22 R366; 23 R376, R377; 24 R389: the host's side of the Lantern: a write of an entry's high word
stores both words with FULL set while the entry is empty and changes nothing while it is full; a read of the high word clears FULL and is answered
with the word as it was. A write of a register of a function's window, by whichever name the opcode table gives it, is the write of that register; the
alias window is function 0's, with the hypervisor's authority. -/
def Obligations.RegisterWrites : Prop :=
  (
    ∀ (s : State), let n := s.inp.num
      n < 64 →
      ((s.lantern (2 * n + 1)).getLsbD 63 = false → ∃ u, exec .lantentHighWrite s = .next u ∧ u.lantern (2 * n) = s.inp.low
          ∧ u.lantern (2 * n + 1) = (s.inp.value ||| ((1 : W64) <<< 63)))
      ∧ ((s.lantern (2 * n + 1)).getLsbD 63 = true → exec .lantentHighWrite s = .next s)
      ∧ (exec .lantentHighRead s = .next ((s.setLantern (2 * n + 1) (s.lantern (2 * n + 1) &&& ~~~((1 : W64) <<< 63))).answer (320 + n)
          [s.lantern (2 * n + 1)]))
      ∧ exec .lantasgWrite s = .next (s.lantasg n s.inp.value s.inp.hv))
  ∧ (
    ∀ (s : State),
      exec .pquotaWrite s = .next (s.inputWrite oPQUOTA) ∧ exec .dlheadWrite s = .next (s.inputWrite oDLHEAD)
      ∧ exec .fsqcfgWrite s = .next (s.inputWrite oFSQCFG) ∧ exec .fsqheadWrite s = .next (s.inputWrite oFSQHEAD)
      ∧ exec .rrheadWrite s = .next (s.inputWrite oRRHEAD) ∧ exec .ptrootWrite s = .next (s.inputWrite oPTROOT)
      ∧ exec .l2cfgWrite s = .next (s.inputWrite oL2CFG)
      ∧ (s.inp.num < 8 → exec .lqcfgWrite s = .next (s.inputWrite (oLQCFG s.inp.num)))
      ∧ (s.inp.num < 16 → exec .ncwinWrite s = .next (s.inputWrite (oNCWIN s.inp.num)))
      ∧ (s.inp.offset < 0x1000 → exec .aliasWrite s = .next (s.writeWin 0 (0x1000 + s.inp.offset) s.inp.value true))
      ∧ (∀ f, s.inp.window = .fn f → f < 64 → exec .registerWrite s = .next (s.writeWin f s.inp.offset s.inp.value s.inp.hv))
      ∧ (s.inp.window = .belfry → exec .registerWrite s = .next (s.writeBel s.inp.offset s.inp.value s.inp.low s.inp.hv)))

/-! Whole-machine rules. -/

/-- 24 R392: no step lowers the anti-rollback counter: whatever instruction, event, request from outside or reset it performs, as many fuses stay
blown. -/
def Obligations.FusesNeverFall : Prop :=
  ∀ (n : Nat) (s t : State), s.fusesAtLeast n → step s = .next t → t.fusesAtLeast n

/-- The model's own invariant, no rule of the spec (log entry 1): whatever a step performs, device memory, host memory and the core memories keep
their canonical form: addresses rise strictly and no listed byte equals what an unlisted one reads as. Equal memories are equal lists in every state
that meets it, whether a run reaches that state or not. -/
def Obligations.MemoryStaysCanonical : Prop :=
  ∀ (s t : State), s.memoryCanonical → step s = .next t → t.memoryCanonical

/-- 24 R388, R395: after reset nothing runs: no team, no table, no engine holds work, the memories are in canonical form, and the first
step, the cold reset, brings the device up to READY in D0 with memory and teams as they were. -/
def Obligations.ResetState : Prop :=
  let s := State.reset
  s.memoryCanonical ∧ s.fusesAtLeast 0 ∧ s.bel.stage = 0 ∧ s.clock = 0 ∧ s.teams = [] ∧ s.tables = [] ∧ s.copies = [] ∧ s.jobs = [] ∧ s.regs = []
    ∧ ∃ t, step s = .next t ∧ t.bel.stage = 9 ∧ t.bel.power = .d0 ∧ t.bel.fuses = s.bel.fuses ∧ t.teams = [] ∧ t.memoryCanonical
end

