-- ==== Sys2Proof/Laws/Maps.lean ====
section
/-!
SUPPORT. The laws of sparse maps: reading after a write, and the canonical form that every operation keeps.
-/
namespace Sys2Proof.Machine

variable {α : Type}

/-! Reading after an operation. -/

theorem SMap.get_drop (m : SMap α) (k j : Nat) (d : α) : SMap.get (SMap.drop m k) j d = if j = k then d else SMap.get m j d := by
  induction m with
  | nil => simp [SMap.drop, SMap.get]
  | cons e r ih =>
    obtain ⟨k', v⟩ := e
    simp only [SMap.drop, SMap.get]
    split_ifs <;> simp_all [SMap.get]

theorem SMap.get_ins (m : SMap α) (k j : Nat) (v d : α) (h : ∀ e ∈ m, e.1 ≠ k) :
    SMap.get (SMap.ins m k v) j d = if j = k then v else SMap.get m j d := by
  induction m with
  | nil => simp [SMap.ins, SMap.get, eq_comm]
  | cons e r ih =>
    obtain ⟨k', w⟩ := e
    have hk : k' ≠ k := h (k', w) (List.mem_cons_self)
    have hr := ih (fun e he => h e (List.mem_cons_of_mem _ he))
    simp only [SMap.ins]
    split_ifs with hlt hj hj
    · simp [SMap.get, hj]
    · simp [SMap.get, Ne.symm hj]
    · subst hj; simp [SMap.get, hk, hr]
    · simp [SMap.get, hr, hj]

theorem SMap.mem_drop {m : SMap α} {k : Nat} {e : Nat × α} : e ∈ SMap.drop m k ↔ e ∈ m ∧ e.1 ≠ k := by
  induction m with
  | nil => simp [SMap.drop]
  | cons x r ih =>
    obtain ⟨k', v⟩ := x
    simp only [SMap.drop]
    split_ifs with hk
    · subst hk; rw [ih]; constructor
      · rintro ⟨a, b⟩; exact ⟨List.mem_cons_of_mem _ a, b⟩
      · rintro ⟨a, b⟩
        rcases List.mem_cons.1 a with rfl | a
        · exact absurd rfl b
        · exact ⟨a, b⟩
    · simp only [List.mem_cons, ih]
      constructor
      · rintro (rfl | ⟨a, b⟩)
        · exact ⟨.inl rfl, hk⟩
        · exact ⟨.inr a, b⟩
      · rintro ⟨rfl | a, b⟩
        · exact .inl rfl
        · exact .inr ⟨a, b⟩

/-- A put value reads back at its key; every other key reads as before. -/
theorem SMap.get_put [DecidableEq α] (m : SMap α) (k j : Nat) (v d : α) :
    SMap.get (SMap.put m k v d) j d = if j = k then v else SMap.get m j d := by
  unfold SMap.put
  split_ifs with h1 h2 h2
  · subst h1; subst h2; simp [SMap.get_drop]
  · simp [SMap.get_drop, h2]
  · rw [SMap.get_ins _ _ _ _ _ (fun e he => (SMap.mem_drop.1 he).2)]; simp [h2]
  · rw [SMap.get_ins _ _ _ _ _ (fun e he => (SMap.mem_drop.1 he).2)]; simp [h2, SMap.get_drop]

@[simp] theorem SMap.get_put_same [DecidableEq α] (m : SMap α) (k : Nat) (v d : α) : SMap.get (SMap.put m k v d) k d = v := by
  simp [SMap.get_put]

theorem SMap.get_put_ne [DecidableEq α] (m : SMap α) {k j : Nat} (v d : α) (h : j ≠ k) :
    SMap.get (SMap.put m k v d) j d = SMap.get m j d := by
  simp [SMap.get_put, h]

@[simp] theorem SMap.get_drop_same (m : SMap α) (k : Nat) (d : α) : SMap.get (SMap.drop m k) k d = d := by simp [SMap.get_drop]

theorem SMap.get_drop_ne (m : SMap α) {k j : Nat} (d : α) (h : j ≠ k) : SMap.get (SMap.drop m k) j d = SMap.get m j d := by
  simp [SMap.get_drop, h]

@[simp] theorem SMap.get_nil (k : Nat) (d : α) : SMap.get ([] : SMap α) k d = d := rfl

/-! The canonical form. -/

theorem SMap.wfFrom_drop [DecidableEq α] (d : Nat → α) (m : SMap α) (k : Nat) (lo : Option Nat) (h : SMap.wfFrom d lo m = true) :
    SMap.wfFrom d lo (SMap.drop m k) = true := by
  induction m generalizing lo with
  | nil => simp [SMap.drop, SMap.wfFrom]
  | cons e r ih =>
    obtain ⟨k', v⟩ := e
    simp only [SMap.wfFrom, Bool.and_eq_true] at h
    simp only [SMap.drop]
    split_ifs with hk
    · have := ih (some k') h.2
      clear ih
      revert this
      cases hd : SMap.drop r k with
      | nil => simp [SMap.wfFrom]
      | cons x q =>
        obtain ⟨kx, vx⟩ := x
        simp only [SMap.wfFrom, Bool.and_eq_true]
        rintro ⟨⟨a, b⟩, c⟩
        refine ⟨⟨?_, b⟩, c⟩
        cases lo with
        | none => rfl
        | some l => simp at a h ⊢; omega
    · simp only [SMap.wfFrom, Bool.and_eq_true]
      exact ⟨h.1, ih _ h.2⟩

theorem SMap.wfFrom_ins [DecidableEq α] (d : Nat → α) (m : SMap α) (k : Nat) (v : α) (lo : Option Nat) (h : SMap.wfFrom d lo m = true)
    (hk : ∀ e ∈ m, e.1 ≠ k) (hv : v ≠ d k) (hl : ∀ l, lo = some l → l < k) : SMap.wfFrom d lo (SMap.ins m k v) = true := by
  induction m generalizing lo with
  | nil =>
    simp only [SMap.ins, SMap.wfFrom, Bool.and_eq_true, decide_eq_true_eq]
    refine ⟨⟨?_, hv⟩, trivial⟩
    cases lo with
    | none => rfl
    | some l => simpa using hl l rfl
  | cons e r ih =>
    obtain ⟨k', w⟩ := e
    have hne : k' ≠ k := hk (k', w) List.mem_cons_self
    have h0 := h
    simp only [SMap.wfFrom, Bool.and_eq_true, decide_eq_true_eq] at h
    simp only [SMap.ins]
    split_ifs with hlt
    · simp only [SMap.wfFrom, Bool.and_eq_true, decide_eq_true_eq]
      refine ⟨⟨?_, hv⟩, ⟨hlt, h.1.2⟩, h.2⟩
      cases lo with
      | none => rfl
      | some l => simpa using hl l rfl
    · simp only [SMap.wfFrom, Bool.and_eq_true, decide_eq_true_eq]
      refine ⟨h.1, ih _ h.2 (fun e he => hk e (List.mem_cons_of_mem _ he)) ?_⟩
      intro l hl; cases hl; omega

/-- A put keeps the canonical form under the default it was given. -/
theorem SMap.wf_put [DecidableEq α] (d : Nat → α) (m : SMap α) (k : Nat) (v : α) (h : SMap.wf d m = true) :
    SMap.wf d (SMap.put m k v (d k)) = true := by
  unfold SMap.put SMap.wf
  split_ifs with hv
  · exact SMap.wfFrom_drop _ _ _ _ h
  · exact SMap.wfFrom_ins _ _ _ _ _ (SMap.wfFrom_drop _ _ _ _ h) (fun e he => (SMap.mem_drop.1 he).2) hv (by simp)

theorem SMap.wf_drop [DecidableEq α] (d : Nat → α) (m : SMap α) (k : Nat) (h : SMap.wf d m = true) : SMap.wf d (SMap.drop m k) = true :=
  SMap.wfFrom_drop _ _ _ _ h

@[simp] theorem SMap.wf_nil [DecidableEq α] (d : Nat → α) : SMap.wf d ([] : SMap α) = true := rfl

theorem SMap.get_below [DecidableEq α] (d : Nat → α) (m : SMap α) (lo k : Nat) (dk : α) (h : SMap.wfFrom d (some lo) m = true) (hk : k ≤ lo) :
    SMap.get m k dk = dk := by
  induction m generalizing lo with
  | nil => rfl
  | cons e r ih =>
    obtain ⟨k', v⟩ := e
    simp only [SMap.wfFrom, Bool.and_eq_true, decide_eq_true_eq] at h
    simp only [SMap.get]
    rw [if_neg (by omega)]
    exact ih k' h.2 (by omega)

/-- Two maps in canonical form that read alike are the same list. -/
theorem SMap.ext_of_wf [DecidableEq α] (d : α) (m n : SMap α) (hm : SMap.wf (fun _ => d) m = true) (hn : SMap.wf (fun _ => d) n = true)
    (h : ∀ k, SMap.get m k d = SMap.get n k d) : m = n := by
  suffices ∀ lo, SMap.wfFrom (fun _ => d) lo m = true → SMap.wfFrom (fun _ => d) lo n = true → (∀ k, SMap.get m k d = SMap.get n k d) → m = n from
    this none hm hn h
  clear hm hn h
  induction m generalizing n with
  | nil =>
    intro lo _ hn h
    cases n with
    | nil => rfl
    | cons e r =>
      obtain ⟨k, v⟩ := e
      have := h k
      simp only [SMap.wfFrom, Bool.and_eq_true, decide_eq_true_eq] at hn
      simp [SMap.get] at this
      exact absurd this.symm hn.1.2
  | cons e r ih =>
    intro lo hm hn h
    obtain ⟨k, v⟩ := e
    cases n with
    | nil =>
      have := h k
      simp only [SMap.wfFrom, Bool.and_eq_true, decide_eq_true_eq] at hm
      simp [SMap.get] at this
      exact absurd this hm.1.2
    | cons e' r' =>
      obtain ⟨k', v'⟩ := e'
      have hm0 := hm; have hn0 := hn
      simp only [SMap.wfFrom, Bool.and_eq_true, decide_eq_true_eq] at hm hn
      have hkk : k = k' := by
        rcases Nat.lt_trichotomy k k' with hlt | heq | hgt
        · exfalso
          have := h k
          rw [SMap.get, if_pos rfl, SMap.get, if_neg (by omega), SMap.get_below _ _ _ _ _ hn.2 (by omega)] at this
          exact hm.1.2 this
        · exact heq
        · exfalso
          have := h k'
          rw [SMap.get, if_neg (by omega), SMap.get, if_pos rfl, SMap.get_below _ _ _ _ _ hm.2 (by omega)] at this
          exact hn.1.2 this.symm
      subst hkk
      have hv : v = v' := by simpa [SMap.get] using h k
      subst hv
      congr 1
      refine ih r' (some k) hm.2 hn.2 ?_
      intro j
      by_cases hj : k = j
      · subst hj
        rw [SMap.get_below _ _ _ _ _ hm.2 (le_refl _), SMap.get_below _ _ _ _ _ hn.2 (le_refl _)]
      · have := h j
        simpa [SMap.get, hj] using this

end Sys2Proof.Machine
end

