-- ==== Sys2Proof/Laws/State.lean ====
section
/-!
SUPPORT. One lemma for each field of a state or a team and each update of it, true by computation; and what the updated entry reads as.
-/
namespace Sys2Proof.Machine

/-! State.setTeam -/

@[simp] theorem State.setTeam_clock (s : State) (i : Nat) (t : Team) : (s.setTeam i t).clock = s.clock := by dsimp only [State.setTeam]
@[simp] theorem State.setTeam_time (s : State) (i : Nat) (t : Team) : (s.setTeam i t).time = s.time := by dsimp only [State.setTeam]
@[simp] theorem State.setTeam_cur (s : State) (i : Nat) (t : Team) : (s.setTeam i t).cur = s.cur := by dsimp only [State.setTeam]
@[simp] theorem State.setTeam_picked (s : State) (i : Nat) (t : Team) : (s.setTeam i t).picked = s.picked := by dsimp only [State.setTeam]
@[simp] theorem State.setTeam_agenda (s : State) (i : Nat) (t : Team) : (s.setTeam i t).agenda = s.agenda := by dsimp only [State.setTeam]
@[simp] theorem State.setTeam_deferred (s : State) (i : Nat) (t : Team) : (s.setTeam i t).deferred = s.deferred := by dsimp only [State.setTeam]
@[simp] theorem State.setTeam_inp (s : State) (i : Nat) (t : Team) : (s.setTeam i t).inp = s.inp := by dsimp only [State.setTeam]
@[simp] theorem State.setTeam_order (s : State) (i : Nat) (t : Team) : (s.setTeam i t).order = s.order := by dsimp only [State.setTeam]
@[simp] theorem State.setTeam_fresh (s : State) (i : Nat) (t : Team) : (s.setTeam i t).fresh = s.fresh := by dsimp only [State.setTeam]
@[simp] theorem State.setTeam_blocks (s : State) (i : Nat) (t : Team) : (s.setTeam i t).blocks = s.blocks := by dsimp only [State.setTeam]
@[simp] theorem State.setTeam_jobs (s : State) (i : Nat) (t : Team) : (s.setTeam i t).jobs = s.jobs := by dsimp only [State.setTeam]
@[simp] theorem State.setTeam_orders (s : State) (i : Nat) (t : Team) : (s.setTeam i t).orders = s.orders := by dsimp only [State.setTeam]
@[simp] theorem State.setTeam_cm (s : State) (i : Nat) (t : Team) : (s.setTeam i t).cm = s.cm := by dsimp only [State.setTeam]
@[simp] theorem State.setTeam_cmBad (s : State) (i : Nat) (t : Team) : (s.setTeam i t).cmBad = s.cmBad := by dsimp only [State.setTeam]
@[simp] theorem State.setTeam_mem (s : State) (i : Nat) (t : Team) : (s.setTeam i t).mem = s.mem := by dsimp only [State.setTeam]
@[simp] theorem State.setTeam_blk (s : State) (i : Nat) (t : Team) : (s.setTeam i t).blk = s.blk := by dsimp only [State.setTeam]
@[simp] theorem State.setTeam_sysmem (s : State) (i : Nat) (t : Team) : (s.setTeam i t).sysmem = s.sysmem := by dsimp only [State.setTeam]
@[simp] theorem State.setTeam_regs (s : State) (i : Nat) (t : Team) : (s.setTeam i t).regs = s.regs := by dsimp only [State.setTeam]
@[simp] theorem State.setTeam_tails (s : State) (i : Nat) (t : Team) : (s.setTeam i t).tails = s.tails := by dsimp only [State.setTeam]
@[simp] theorem State.setTeam_feLines (s : State) (i : Nat) (t : Team) : (s.setTeam i t).feLines = s.feLines := by dsimp only [State.setTeam]
@[simp] theorem State.setTeam_feFail (s : State) (i : Nat) (t : Team) : (s.setTeam i t).feFail = s.feFail := by dsimp only [State.setTeam]
@[simp] theorem State.setTeam_reports (s : State) (i : Nat) (t : Team) : (s.setTeam i t).reports = s.reports := by dsimp only [State.setTeam]
@[simp] theorem State.setTeam_faults (s : State) (i : Nat) (t : Team) : (s.setTeam i t).faults = s.faults := by dsimp only [State.setTeam]
@[simp] theorem State.setTeam_replies (s : State) (i : Nat) (t : Team) : (s.setTeam i t).replies = s.replies := by dsimp only [State.setTeam]
@[simp] theorem State.setTeam_reserved (s : State) (i : Nat) (t : Team) : (s.setTeam i t).reserved = s.reserved := by dsimp only [State.setTeam]
@[simp] theorem State.setTeam_rcache (s : State) (i : Nat) (t : Team) : (s.setTeam i t).rcache = s.rcache := by dsimp only [State.setTeam]
@[simp] theorem State.setTeam_batches (s : State) (i : Nat) (t : Team) : (s.setTeam i t).batches = s.batches := by dsimp only [State.setTeam]
@[simp] theorem State.setTeam_verdicts (s : State) (i : Nat) (t : Team) : (s.setTeam i t).verdicts = s.verdicts := by dsimp only [State.setTeam]
@[simp] theorem State.setTeam_tables (s : State) (i : Nat) (t : Team) : (s.setTeam i t).tables = s.tables := by dsimp only [State.setTeam]
@[simp] theorem State.setTeam_spireRot (s : State) (i : Nat) (t : Team) : (s.setTeam i t).spireRot = s.spireRot := by dsimp only [State.setTeam]
@[simp] theorem State.setTeam_copies (s : State) (i : Nat) (t : Team) : (s.setTeam i t).copies = s.copies := by dsimp only [State.setTeam]
@[simp] theorem State.setTeam_promise (s : State) (i : Nat) (t : Team) : (s.setTeam i t).promise = s.promise := by dsimp only [State.setTeam]
@[simp] theorem State.setTeam_queues (s : State) (i : Nat) (t : Team) : (s.setTeam i t).queues = s.queues := by dsimp only [State.setTeam]
@[simp] theorem State.setTeam_qreqs (s : State) (i : Nat) (t : Team) : (s.setTeam i t).qreqs = s.qreqs := by dsimp only [State.setTeam]
@[simp] theorem State.setTeam_deposits (s : State) (i : Nat) (t : Team) : (s.setTeam i t).deposits = s.deposits := by dsimp only [State.setTeam]
@[simp] theorem State.setTeam_groups (s : State) (i : Nat) (t : Team) : (s.setTeam i t).groups = s.groups := by dsimp only [State.setTeam]
@[simp] theorem State.setTeam_posts (s : State) (i : Nat) (t : Team) : (s.setTeam i t).posts = s.posts := by dsimp only [State.setTeam]
@[simp] theorem State.setTeam_appends (s : State) (i : Nat) (t : Team) : (s.setTeam i t).appends = s.appends := by dsimp only [State.setTeam]
@[simp] theorem State.setTeam_watches (s : State) (i : Nat) (t : Team) : (s.setTeam i t).watches = s.watches := by dsimp only [State.setTeam]
@[simp] theorem State.setTeam_arrays (s : State) (i : Nat) (t : Team) : (s.setTeam i t).arrays = s.arrays := by dsimp only [State.setTeam]
@[simp] theorem State.setTeam_clusters (s : State) (i : Nat) (t : Team) : (s.setTeam i t).clusters = s.clusters := by dsimp only [State.setTeam]
@[simp] theorem State.setTeam_fePrev (s : State) (i : Nat) (t : Team) : (s.setTeam i t).fePrev = s.fePrev := by dsimp only [State.setTeam]
@[simp] theorem State.setTeam_held (s : State) (i : Nat) (t : Team) : (s.setTeam i t).held = s.held := by dsimp only [State.setTeam]
@[simp] theorem State.setTeam_atoms (s : State) (i : Nat) (t : Team) : (s.setTeam i t).atoms = s.atoms := by dsimp only [State.setTeam]
@[simp] theorem State.setTeam_atomTag (s : State) (i : Nat) (t : Team) : (s.setTeam i t).atomTag = s.atomTag := by dsimp only [State.setTeam]
@[simp] theorem State.setTeam_falls (s : State) (i : Nat) (t : Team) : (s.setTeam i t).falls = s.falls := by dsimp only [State.setTeam]
@[simp] theorem State.setTeam_poolFree (s : State) (i : Nat) (t : Team) : (s.setTeam i t).poolFree = s.poolFree := by dsimp only [State.setTeam]
@[simp] theorem State.setTeam_rsvFree (s : State) (i : Nat) (t : Team) : (s.setTeam i t).rsvFree = s.rsvFree := by dsimp only [State.setTeam]
@[simp] theorem State.setTeam_rsvLow (s : State) (i : Nat) (t : Team) : (s.setTeam i t).rsvLow = s.rsvLow := by dsimp only [State.setTeam]
@[simp] theorem State.setTeam_rounds (s : State) (i : Nat) (t : Team) : (s.setTeam i t).rounds = s.rounds := by dsimp only [State.setTeam]
@[simp] theorem State.setTeam_frames (s : State) (i : Nat) (t : Team) : (s.setTeam i t).frames = s.frames := by dsimp only [State.setTeam]
@[simp] theorem State.setTeam_tlb (s : State) (i : Nat) (t : Team) : (s.setTeam i t).tlb = s.tlb := by dsimp only [State.setTeam]
@[simp] theorem State.setTeam_who (s : State) (i : Nat) (t : Team) : (s.setTeam i t).who = s.who := by dsimp only [State.setTeam]
@[simp] theorem State.setTeam_invs (s : State) (i : Nat) (t : Team) : (s.setTeam i t).invs = s.invs := by dsimp only [State.setTeam]
@[simp] theorem State.setTeam_discards (s : State) (i : Nat) (t : Team) : (s.setTeam i t).discards = s.discards := by dsimp only [State.setTeam]
@[simp] theorem State.setTeam_coh (s : State) (i : Nat) (t : Team) : (s.setTeam i t).coh = s.coh := by dsimp only [State.setTeam]
@[simp] theorem State.setTeam_ports (s : State) (i : Nat) (t : Team) : (s.setTeam i t).ports = s.ports := by dsimp only [State.setTeam]
@[simp] theorem State.setTeam_sess (s : State) (i : Nat) (t : Team) : (s.setTeam i t).sess = s.sess := by dsimp only [State.setTeam]
@[simp] theorem State.setTeam_peers (s : State) (i : Nat) (t : Team) : (s.setTeam i t).peers = s.peers := by dsimp only [State.setTeam]
@[simp] theorem State.setTeam_tdisp (s : State) (i : Nat) (t : Team) : (s.setTeam i t).tdisp = s.tdisp := by dsimp only [State.setTeam]
@[simp] theorem State.setTeam_doe (s : State) (i : Nat) (t : Team) : (s.setTeam i t).doe = s.doe := by dsimp only [State.setTeam]
@[simp] theorem State.setTeam_bel (s : State) (i : Nat) (t : Team) : (s.setTeam i t).bel = s.bel := by dsimp only [State.setTeam]

/-! State.setBlock -/

@[simp] theorem State.setBlock_clock (s : State) (i : Nat) (b : Block) : (s.setBlock i b).clock = s.clock := by dsimp only [State.setBlock]
@[simp] theorem State.setBlock_time (s : State) (i : Nat) (b : Block) : (s.setBlock i b).time = s.time := by dsimp only [State.setBlock]
@[simp] theorem State.setBlock_cur (s : State) (i : Nat) (b : Block) : (s.setBlock i b).cur = s.cur := by dsimp only [State.setBlock]
@[simp] theorem State.setBlock_picked (s : State) (i : Nat) (b : Block) : (s.setBlock i b).picked = s.picked := by dsimp only [State.setBlock]
@[simp] theorem State.setBlock_agenda (s : State) (i : Nat) (b : Block) : (s.setBlock i b).agenda = s.agenda := by dsimp only [State.setBlock]
@[simp] theorem State.setBlock_deferred (s : State) (i : Nat) (b : Block) : (s.setBlock i b).deferred = s.deferred := by dsimp only [State.setBlock]
@[simp] theorem State.setBlock_inp (s : State) (i : Nat) (b : Block) : (s.setBlock i b).inp = s.inp := by dsimp only [State.setBlock]
@[simp] theorem State.setBlock_order (s : State) (i : Nat) (b : Block) : (s.setBlock i b).order = s.order := by dsimp only [State.setBlock]
@[simp] theorem State.setBlock_fresh (s : State) (i : Nat) (b : Block) : (s.setBlock i b).fresh = s.fresh := by dsimp only [State.setBlock]
@[simp] theorem State.setBlock_teams (s : State) (i : Nat) (b : Block) : (s.setBlock i b).teams = s.teams := by dsimp only [State.setBlock]
@[simp] theorem State.setBlock_jobs (s : State) (i : Nat) (b : Block) : (s.setBlock i b).jobs = s.jobs := by dsimp only [State.setBlock]
@[simp] theorem State.setBlock_orders (s : State) (i : Nat) (b : Block) : (s.setBlock i b).orders = s.orders := by dsimp only [State.setBlock]
@[simp] theorem State.setBlock_cm (s : State) (i : Nat) (b : Block) : (s.setBlock i b).cm = s.cm := by dsimp only [State.setBlock]
@[simp] theorem State.setBlock_cmBad (s : State) (i : Nat) (b : Block) : (s.setBlock i b).cmBad = s.cmBad := by dsimp only [State.setBlock]
@[simp] theorem State.setBlock_mem (s : State) (i : Nat) (b : Block) : (s.setBlock i b).mem = s.mem := by dsimp only [State.setBlock]
@[simp] theorem State.setBlock_blk (s : State) (i : Nat) (b : Block) : (s.setBlock i b).blk = s.blk := by dsimp only [State.setBlock]
@[simp] theorem State.setBlock_sysmem (s : State) (i : Nat) (b : Block) : (s.setBlock i b).sysmem = s.sysmem := by dsimp only [State.setBlock]
@[simp] theorem State.setBlock_regs (s : State) (i : Nat) (b : Block) : (s.setBlock i b).regs = s.regs := by dsimp only [State.setBlock]
@[simp] theorem State.setBlock_tails (s : State) (i : Nat) (b : Block) : (s.setBlock i b).tails = s.tails := by dsimp only [State.setBlock]
@[simp] theorem State.setBlock_feLines (s : State) (i : Nat) (b : Block) : (s.setBlock i b).feLines = s.feLines := by dsimp only [State.setBlock]
@[simp] theorem State.setBlock_feFail (s : State) (i : Nat) (b : Block) : (s.setBlock i b).feFail = s.feFail := by dsimp only [State.setBlock]
@[simp] theorem State.setBlock_reports (s : State) (i : Nat) (b : Block) : (s.setBlock i b).reports = s.reports := by dsimp only [State.setBlock]
@[simp] theorem State.setBlock_faults (s : State) (i : Nat) (b : Block) : (s.setBlock i b).faults = s.faults := by dsimp only [State.setBlock]
@[simp] theorem State.setBlock_replies (s : State) (i : Nat) (b : Block) : (s.setBlock i b).replies = s.replies := by dsimp only [State.setBlock]
@[simp] theorem State.setBlock_reserved (s : State) (i : Nat) (b : Block) : (s.setBlock i b).reserved = s.reserved := by dsimp only [State.setBlock]
@[simp] theorem State.setBlock_rcache (s : State) (i : Nat) (b : Block) : (s.setBlock i b).rcache = s.rcache := by dsimp only [State.setBlock]
@[simp] theorem State.setBlock_batches (s : State) (i : Nat) (b : Block) : (s.setBlock i b).batches = s.batches := by dsimp only [State.setBlock]
@[simp] theorem State.setBlock_verdicts (s : State) (i : Nat) (b : Block) : (s.setBlock i b).verdicts = s.verdicts := by dsimp only [State.setBlock]
@[simp] theorem State.setBlock_tables (s : State) (i : Nat) (b : Block) : (s.setBlock i b).tables = s.tables := by dsimp only [State.setBlock]
@[simp] theorem State.setBlock_spireRot (s : State) (i : Nat) (b : Block) : (s.setBlock i b).spireRot = s.spireRot := by dsimp only [State.setBlock]
@[simp] theorem State.setBlock_copies (s : State) (i : Nat) (b : Block) : (s.setBlock i b).copies = s.copies := by dsimp only [State.setBlock]
@[simp] theorem State.setBlock_promise (s : State) (i : Nat) (b : Block) : (s.setBlock i b).promise = s.promise := by dsimp only [State.setBlock]
@[simp] theorem State.setBlock_queues (s : State) (i : Nat) (b : Block) : (s.setBlock i b).queues = s.queues := by dsimp only [State.setBlock]
@[simp] theorem State.setBlock_qreqs (s : State) (i : Nat) (b : Block) : (s.setBlock i b).qreqs = s.qreqs := by dsimp only [State.setBlock]
@[simp] theorem State.setBlock_deposits (s : State) (i : Nat) (b : Block) : (s.setBlock i b).deposits = s.deposits := by dsimp only [State.setBlock]
@[simp] theorem State.setBlock_groups (s : State) (i : Nat) (b : Block) : (s.setBlock i b).groups = s.groups := by dsimp only [State.setBlock]
@[simp] theorem State.setBlock_posts (s : State) (i : Nat) (b : Block) : (s.setBlock i b).posts = s.posts := by dsimp only [State.setBlock]
@[simp] theorem State.setBlock_appends (s : State) (i : Nat) (b : Block) : (s.setBlock i b).appends = s.appends := by dsimp only [State.setBlock]
@[simp] theorem State.setBlock_watches (s : State) (i : Nat) (b : Block) : (s.setBlock i b).watches = s.watches := by dsimp only [State.setBlock]
@[simp] theorem State.setBlock_arrays (s : State) (i : Nat) (b : Block) : (s.setBlock i b).arrays = s.arrays := by dsimp only [State.setBlock]
@[simp] theorem State.setBlock_clusters (s : State) (i : Nat) (b : Block) : (s.setBlock i b).clusters = s.clusters := by dsimp only [State.setBlock]
@[simp] theorem State.setBlock_fePrev (s : State) (i : Nat) (b : Block) : (s.setBlock i b).fePrev = s.fePrev := by dsimp only [State.setBlock]
@[simp] theorem State.setBlock_held (s : State) (i : Nat) (b : Block) : (s.setBlock i b).held = s.held := by dsimp only [State.setBlock]
@[simp] theorem State.setBlock_atoms (s : State) (i : Nat) (b : Block) : (s.setBlock i b).atoms = s.atoms := by dsimp only [State.setBlock]
@[simp] theorem State.setBlock_atomTag (s : State) (i : Nat) (b : Block) : (s.setBlock i b).atomTag = s.atomTag := by dsimp only [State.setBlock]
@[simp] theorem State.setBlock_falls (s : State) (i : Nat) (b : Block) : (s.setBlock i b).falls = s.falls := by dsimp only [State.setBlock]
@[simp] theorem State.setBlock_poolFree (s : State) (i : Nat) (b : Block) : (s.setBlock i b).poolFree = s.poolFree := by dsimp only [State.setBlock]
@[simp] theorem State.setBlock_rsvFree (s : State) (i : Nat) (b : Block) : (s.setBlock i b).rsvFree = s.rsvFree := by dsimp only [State.setBlock]
@[simp] theorem State.setBlock_rsvLow (s : State) (i : Nat) (b : Block) : (s.setBlock i b).rsvLow = s.rsvLow := by dsimp only [State.setBlock]
@[simp] theorem State.setBlock_rounds (s : State) (i : Nat) (b : Block) : (s.setBlock i b).rounds = s.rounds := by dsimp only [State.setBlock]
@[simp] theorem State.setBlock_frames (s : State) (i : Nat) (b : Block) : (s.setBlock i b).frames = s.frames := by dsimp only [State.setBlock]
@[simp] theorem State.setBlock_tlb (s : State) (i : Nat) (b : Block) : (s.setBlock i b).tlb = s.tlb := by dsimp only [State.setBlock]
@[simp] theorem State.setBlock_who (s : State) (i : Nat) (b : Block) : (s.setBlock i b).who = s.who := by dsimp only [State.setBlock]
@[simp] theorem State.setBlock_invs (s : State) (i : Nat) (b : Block) : (s.setBlock i b).invs = s.invs := by dsimp only [State.setBlock]
@[simp] theorem State.setBlock_discards (s : State) (i : Nat) (b : Block) : (s.setBlock i b).discards = s.discards := by dsimp only [State.setBlock]
@[simp] theorem State.setBlock_coh (s : State) (i : Nat) (b : Block) : (s.setBlock i b).coh = s.coh := by dsimp only [State.setBlock]
@[simp] theorem State.setBlock_ports (s : State) (i : Nat) (b : Block) : (s.setBlock i b).ports = s.ports := by dsimp only [State.setBlock]
@[simp] theorem State.setBlock_sess (s : State) (i : Nat) (b : Block) : (s.setBlock i b).sess = s.sess := by dsimp only [State.setBlock]
@[simp] theorem State.setBlock_peers (s : State) (i : Nat) (b : Block) : (s.setBlock i b).peers = s.peers := by dsimp only [State.setBlock]
@[simp] theorem State.setBlock_tdisp (s : State) (i : Nat) (b : Block) : (s.setBlock i b).tdisp = s.tdisp := by dsimp only [State.setBlock]
@[simp] theorem State.setBlock_doe (s : State) (i : Nat) (b : Block) : (s.setBlock i b).doe = s.doe := by dsimp only [State.setBlock]
@[simp] theorem State.setBlock_bel (s : State) (i : Nat) (b : Block) : (s.setBlock i b).bel = s.bel := by dsimp only [State.setBlock]

/-! State.setJob -/

@[simp] theorem State.setJob_clock (s : State) (i : Nat) (j : Job) : (s.setJob i j).clock = s.clock := by dsimp only [State.setJob]
@[simp] theorem State.setJob_time (s : State) (i : Nat) (j : Job) : (s.setJob i j).time = s.time := by dsimp only [State.setJob]
@[simp] theorem State.setJob_cur (s : State) (i : Nat) (j : Job) : (s.setJob i j).cur = s.cur := by dsimp only [State.setJob]
@[simp] theorem State.setJob_picked (s : State) (i : Nat) (j : Job) : (s.setJob i j).picked = s.picked := by dsimp only [State.setJob]
@[simp] theorem State.setJob_agenda (s : State) (i : Nat) (j : Job) : (s.setJob i j).agenda = s.agenda := by dsimp only [State.setJob]
@[simp] theorem State.setJob_deferred (s : State) (i : Nat) (j : Job) : (s.setJob i j).deferred = s.deferred := by dsimp only [State.setJob]
@[simp] theorem State.setJob_inp (s : State) (i : Nat) (j : Job) : (s.setJob i j).inp = s.inp := by dsimp only [State.setJob]
@[simp] theorem State.setJob_order (s : State) (i : Nat) (j : Job) : (s.setJob i j).order = s.order := by dsimp only [State.setJob]
@[simp] theorem State.setJob_fresh (s : State) (i : Nat) (j : Job) : (s.setJob i j).fresh = s.fresh := by dsimp only [State.setJob]
@[simp] theorem State.setJob_teams (s : State) (i : Nat) (j : Job) : (s.setJob i j).teams = s.teams := by dsimp only [State.setJob]
@[simp] theorem State.setJob_blocks (s : State) (i : Nat) (j : Job) : (s.setJob i j).blocks = s.blocks := by dsimp only [State.setJob]
@[simp] theorem State.setJob_orders (s : State) (i : Nat) (j : Job) : (s.setJob i j).orders = s.orders := by dsimp only [State.setJob]
@[simp] theorem State.setJob_cm (s : State) (i : Nat) (j : Job) : (s.setJob i j).cm = s.cm := by dsimp only [State.setJob]
@[simp] theorem State.setJob_cmBad (s : State) (i : Nat) (j : Job) : (s.setJob i j).cmBad = s.cmBad := by dsimp only [State.setJob]
@[simp] theorem State.setJob_mem (s : State) (i : Nat) (j : Job) : (s.setJob i j).mem = s.mem := by dsimp only [State.setJob]
@[simp] theorem State.setJob_blk (s : State) (i : Nat) (j : Job) : (s.setJob i j).blk = s.blk := by dsimp only [State.setJob]
@[simp] theorem State.setJob_sysmem (s : State) (i : Nat) (j : Job) : (s.setJob i j).sysmem = s.sysmem := by dsimp only [State.setJob]
@[simp] theorem State.setJob_regs (s : State) (i : Nat) (j : Job) : (s.setJob i j).regs = s.regs := by dsimp only [State.setJob]
@[simp] theorem State.setJob_tails (s : State) (i : Nat) (j : Job) : (s.setJob i j).tails = s.tails := by dsimp only [State.setJob]
@[simp] theorem State.setJob_feLines (s : State) (i : Nat) (j : Job) : (s.setJob i j).feLines = s.feLines := by dsimp only [State.setJob]
@[simp] theorem State.setJob_feFail (s : State) (i : Nat) (j : Job) : (s.setJob i j).feFail = s.feFail := by dsimp only [State.setJob]
@[simp] theorem State.setJob_reports (s : State) (i : Nat) (j : Job) : (s.setJob i j).reports = s.reports := by dsimp only [State.setJob]
@[simp] theorem State.setJob_faults (s : State) (i : Nat) (j : Job) : (s.setJob i j).faults = s.faults := by dsimp only [State.setJob]
@[simp] theorem State.setJob_replies (s : State) (i : Nat) (j : Job) : (s.setJob i j).replies = s.replies := by dsimp only [State.setJob]
@[simp] theorem State.setJob_reserved (s : State) (i : Nat) (j : Job) : (s.setJob i j).reserved = s.reserved := by dsimp only [State.setJob]
@[simp] theorem State.setJob_rcache (s : State) (i : Nat) (j : Job) : (s.setJob i j).rcache = s.rcache := by dsimp only [State.setJob]
@[simp] theorem State.setJob_batches (s : State) (i : Nat) (j : Job) : (s.setJob i j).batches = s.batches := by dsimp only [State.setJob]
@[simp] theorem State.setJob_verdicts (s : State) (i : Nat) (j : Job) : (s.setJob i j).verdicts = s.verdicts := by dsimp only [State.setJob]
@[simp] theorem State.setJob_tables (s : State) (i : Nat) (j : Job) : (s.setJob i j).tables = s.tables := by dsimp only [State.setJob]
@[simp] theorem State.setJob_spireRot (s : State) (i : Nat) (j : Job) : (s.setJob i j).spireRot = s.spireRot := by dsimp only [State.setJob]
@[simp] theorem State.setJob_copies (s : State) (i : Nat) (j : Job) : (s.setJob i j).copies = s.copies := by dsimp only [State.setJob]
@[simp] theorem State.setJob_promise (s : State) (i : Nat) (j : Job) : (s.setJob i j).promise = s.promise := by dsimp only [State.setJob]
@[simp] theorem State.setJob_queues (s : State) (i : Nat) (j : Job) : (s.setJob i j).queues = s.queues := by dsimp only [State.setJob]
@[simp] theorem State.setJob_qreqs (s : State) (i : Nat) (j : Job) : (s.setJob i j).qreqs = s.qreqs := by dsimp only [State.setJob]
@[simp] theorem State.setJob_deposits (s : State) (i : Nat) (j : Job) : (s.setJob i j).deposits = s.deposits := by dsimp only [State.setJob]
@[simp] theorem State.setJob_groups (s : State) (i : Nat) (j : Job) : (s.setJob i j).groups = s.groups := by dsimp only [State.setJob]
@[simp] theorem State.setJob_posts (s : State) (i : Nat) (j : Job) : (s.setJob i j).posts = s.posts := by dsimp only [State.setJob]
@[simp] theorem State.setJob_appends (s : State) (i : Nat) (j : Job) : (s.setJob i j).appends = s.appends := by dsimp only [State.setJob]
@[simp] theorem State.setJob_watches (s : State) (i : Nat) (j : Job) : (s.setJob i j).watches = s.watches := by dsimp only [State.setJob]
@[simp] theorem State.setJob_arrays (s : State) (i : Nat) (j : Job) : (s.setJob i j).arrays = s.arrays := by dsimp only [State.setJob]
@[simp] theorem State.setJob_clusters (s : State) (i : Nat) (j : Job) : (s.setJob i j).clusters = s.clusters := by dsimp only [State.setJob]
@[simp] theorem State.setJob_fePrev (s : State) (i : Nat) (j : Job) : (s.setJob i j).fePrev = s.fePrev := by dsimp only [State.setJob]
@[simp] theorem State.setJob_held (s : State) (i : Nat) (j : Job) : (s.setJob i j).held = s.held := by dsimp only [State.setJob]
@[simp] theorem State.setJob_atoms (s : State) (i : Nat) (j : Job) : (s.setJob i j).atoms = s.atoms := by dsimp only [State.setJob]
@[simp] theorem State.setJob_atomTag (s : State) (i : Nat) (j : Job) : (s.setJob i j).atomTag = s.atomTag := by dsimp only [State.setJob]
@[simp] theorem State.setJob_falls (s : State) (i : Nat) (j : Job) : (s.setJob i j).falls = s.falls := by dsimp only [State.setJob]
@[simp] theorem State.setJob_poolFree (s : State) (i : Nat) (j : Job) : (s.setJob i j).poolFree = s.poolFree := by dsimp only [State.setJob]
@[simp] theorem State.setJob_rsvFree (s : State) (i : Nat) (j : Job) : (s.setJob i j).rsvFree = s.rsvFree := by dsimp only [State.setJob]
@[simp] theorem State.setJob_rsvLow (s : State) (i : Nat) (j : Job) : (s.setJob i j).rsvLow = s.rsvLow := by dsimp only [State.setJob]
@[simp] theorem State.setJob_rounds (s : State) (i : Nat) (j : Job) : (s.setJob i j).rounds = s.rounds := by dsimp only [State.setJob]
@[simp] theorem State.setJob_frames (s : State) (i : Nat) (j : Job) : (s.setJob i j).frames = s.frames := by dsimp only [State.setJob]
@[simp] theorem State.setJob_tlb (s : State) (i : Nat) (j : Job) : (s.setJob i j).tlb = s.tlb := by dsimp only [State.setJob]
@[simp] theorem State.setJob_who (s : State) (i : Nat) (j : Job) : (s.setJob i j).who = s.who := by dsimp only [State.setJob]
@[simp] theorem State.setJob_invs (s : State) (i : Nat) (j : Job) : (s.setJob i j).invs = s.invs := by dsimp only [State.setJob]
@[simp] theorem State.setJob_discards (s : State) (i : Nat) (j : Job) : (s.setJob i j).discards = s.discards := by dsimp only [State.setJob]
@[simp] theorem State.setJob_coh (s : State) (i : Nat) (j : Job) : (s.setJob i j).coh = s.coh := by dsimp only [State.setJob]
@[simp] theorem State.setJob_ports (s : State) (i : Nat) (j : Job) : (s.setJob i j).ports = s.ports := by dsimp only [State.setJob]
@[simp] theorem State.setJob_sess (s : State) (i : Nat) (j : Job) : (s.setJob i j).sess = s.sess := by dsimp only [State.setJob]
@[simp] theorem State.setJob_peers (s : State) (i : Nat) (j : Job) : (s.setJob i j).peers = s.peers := by dsimp only [State.setJob]
@[simp] theorem State.setJob_tdisp (s : State) (i : Nat) (j : Job) : (s.setJob i j).tdisp = s.tdisp := by dsimp only [State.setJob]
@[simp] theorem State.setJob_doe (s : State) (i : Nat) (j : Job) : (s.setJob i j).doe = s.doe := by dsimp only [State.setJob]
@[simp] theorem State.setJob_bel (s : State) (i : Nat) (j : Job) : (s.setJob i j).bel = s.bel := by dsimp only [State.setJob]

/-! State.setGroup -/

@[simp] theorem State.setGroup_clock (s : State) (k : Nat) (g : Group) : (s.setGroup k g).clock = s.clock := by dsimp only [State.setGroup]
@[simp] theorem State.setGroup_time (s : State) (k : Nat) (g : Group) : (s.setGroup k g).time = s.time := by dsimp only [State.setGroup]
@[simp] theorem State.setGroup_cur (s : State) (k : Nat) (g : Group) : (s.setGroup k g).cur = s.cur := by dsimp only [State.setGroup]
@[simp] theorem State.setGroup_picked (s : State) (k : Nat) (g : Group) : (s.setGroup k g).picked = s.picked := by dsimp only [State.setGroup]
@[simp] theorem State.setGroup_agenda (s : State) (k : Nat) (g : Group) : (s.setGroup k g).agenda = s.agenda := by dsimp only [State.setGroup]
@[simp] theorem State.setGroup_deferred (s : State) (k : Nat) (g : Group) : (s.setGroup k g).deferred = s.deferred := by dsimp only [State.setGroup]
@[simp] theorem State.setGroup_inp (s : State) (k : Nat) (g : Group) : (s.setGroup k g).inp = s.inp := by dsimp only [State.setGroup]
@[simp] theorem State.setGroup_order (s : State) (k : Nat) (g : Group) : (s.setGroup k g).order = s.order := by dsimp only [State.setGroup]
@[simp] theorem State.setGroup_fresh (s : State) (k : Nat) (g : Group) : (s.setGroup k g).fresh = s.fresh := by dsimp only [State.setGroup]
@[simp] theorem State.setGroup_teams (s : State) (k : Nat) (g : Group) : (s.setGroup k g).teams = s.teams := by dsimp only [State.setGroup]
@[simp] theorem State.setGroup_blocks (s : State) (k : Nat) (g : Group) : (s.setGroup k g).blocks = s.blocks := by dsimp only [State.setGroup]
@[simp] theorem State.setGroup_jobs (s : State) (k : Nat) (g : Group) : (s.setGroup k g).jobs = s.jobs := by dsimp only [State.setGroup]
@[simp] theorem State.setGroup_orders (s : State) (k : Nat) (g : Group) : (s.setGroup k g).orders = s.orders := by dsimp only [State.setGroup]
@[simp] theorem State.setGroup_cm (s : State) (k : Nat) (g : Group) : (s.setGroup k g).cm = s.cm := by dsimp only [State.setGroup]
@[simp] theorem State.setGroup_cmBad (s : State) (k : Nat) (g : Group) : (s.setGroup k g).cmBad = s.cmBad := by dsimp only [State.setGroup]
@[simp] theorem State.setGroup_mem (s : State) (k : Nat) (g : Group) : (s.setGroup k g).mem = s.mem := by dsimp only [State.setGroup]
@[simp] theorem State.setGroup_blk (s : State) (k : Nat) (g : Group) : (s.setGroup k g).blk = s.blk := by dsimp only [State.setGroup]
@[simp] theorem State.setGroup_sysmem (s : State) (k : Nat) (g : Group) : (s.setGroup k g).sysmem = s.sysmem := by dsimp only [State.setGroup]
@[simp] theorem State.setGroup_regs (s : State) (k : Nat) (g : Group) : (s.setGroup k g).regs = s.regs := by dsimp only [State.setGroup]
@[simp] theorem State.setGroup_tails (s : State) (k : Nat) (g : Group) : (s.setGroup k g).tails = s.tails := by dsimp only [State.setGroup]
@[simp] theorem State.setGroup_feLines (s : State) (k : Nat) (g : Group) : (s.setGroup k g).feLines = s.feLines := by dsimp only [State.setGroup]
@[simp] theorem State.setGroup_feFail (s : State) (k : Nat) (g : Group) : (s.setGroup k g).feFail = s.feFail := by dsimp only [State.setGroup]
@[simp] theorem State.setGroup_reports (s : State) (k : Nat) (g : Group) : (s.setGroup k g).reports = s.reports := by dsimp only [State.setGroup]
@[simp] theorem State.setGroup_faults (s : State) (k : Nat) (g : Group) : (s.setGroup k g).faults = s.faults := by dsimp only [State.setGroup]
@[simp] theorem State.setGroup_replies (s : State) (k : Nat) (g : Group) : (s.setGroup k g).replies = s.replies := by dsimp only [State.setGroup]
@[simp] theorem State.setGroup_reserved (s : State) (k : Nat) (g : Group) : (s.setGroup k g).reserved = s.reserved := by dsimp only [State.setGroup]
@[simp] theorem State.setGroup_rcache (s : State) (k : Nat) (g : Group) : (s.setGroup k g).rcache = s.rcache := by dsimp only [State.setGroup]
@[simp] theorem State.setGroup_batches (s : State) (k : Nat) (g : Group) : (s.setGroup k g).batches = s.batches := by dsimp only [State.setGroup]
@[simp] theorem State.setGroup_verdicts (s : State) (k : Nat) (g : Group) : (s.setGroup k g).verdicts = s.verdicts := by dsimp only [State.setGroup]
@[simp] theorem State.setGroup_tables (s : State) (k : Nat) (g : Group) : (s.setGroup k g).tables = s.tables := by dsimp only [State.setGroup]
@[simp] theorem State.setGroup_spireRot (s : State) (k : Nat) (g : Group) : (s.setGroup k g).spireRot = s.spireRot := by dsimp only [State.setGroup]
@[simp] theorem State.setGroup_copies (s : State) (k : Nat) (g : Group) : (s.setGroup k g).copies = s.copies := by dsimp only [State.setGroup]
@[simp] theorem State.setGroup_promise (s : State) (k : Nat) (g : Group) : (s.setGroup k g).promise = s.promise := by dsimp only [State.setGroup]
@[simp] theorem State.setGroup_queues (s : State) (k : Nat) (g : Group) : (s.setGroup k g).queues = s.queues := by dsimp only [State.setGroup]
@[simp] theorem State.setGroup_qreqs (s : State) (k : Nat) (g : Group) : (s.setGroup k g).qreqs = s.qreqs := by dsimp only [State.setGroup]
@[simp] theorem State.setGroup_deposits (s : State) (k : Nat) (g : Group) : (s.setGroup k g).deposits = s.deposits := by dsimp only [State.setGroup]
@[simp] theorem State.setGroup_posts (s : State) (k : Nat) (g : Group) : (s.setGroup k g).posts = s.posts := by dsimp only [State.setGroup]
@[simp] theorem State.setGroup_appends (s : State) (k : Nat) (g : Group) : (s.setGroup k g).appends = s.appends := by dsimp only [State.setGroup]
@[simp] theorem State.setGroup_watches (s : State) (k : Nat) (g : Group) : (s.setGroup k g).watches = s.watches := by dsimp only [State.setGroup]
@[simp] theorem State.setGroup_arrays (s : State) (k : Nat) (g : Group) : (s.setGroup k g).arrays = s.arrays := by dsimp only [State.setGroup]
@[simp] theorem State.setGroup_clusters (s : State) (k : Nat) (g : Group) : (s.setGroup k g).clusters = s.clusters := by dsimp only [State.setGroup]
@[simp] theorem State.setGroup_fePrev (s : State) (k : Nat) (g : Group) : (s.setGroup k g).fePrev = s.fePrev := by dsimp only [State.setGroup]
@[simp] theorem State.setGroup_held (s : State) (k : Nat) (g : Group) : (s.setGroup k g).held = s.held := by dsimp only [State.setGroup]
@[simp] theorem State.setGroup_atoms (s : State) (k : Nat) (g : Group) : (s.setGroup k g).atoms = s.atoms := by dsimp only [State.setGroup]
@[simp] theorem State.setGroup_atomTag (s : State) (k : Nat) (g : Group) : (s.setGroup k g).atomTag = s.atomTag := by dsimp only [State.setGroup]
@[simp] theorem State.setGroup_falls (s : State) (k : Nat) (g : Group) : (s.setGroup k g).falls = s.falls := by dsimp only [State.setGroup]
@[simp] theorem State.setGroup_poolFree (s : State) (k : Nat) (g : Group) : (s.setGroup k g).poolFree = s.poolFree := by dsimp only [State.setGroup]
@[simp] theorem State.setGroup_rsvFree (s : State) (k : Nat) (g : Group) : (s.setGroup k g).rsvFree = s.rsvFree := by dsimp only [State.setGroup]
@[simp] theorem State.setGroup_rsvLow (s : State) (k : Nat) (g : Group) : (s.setGroup k g).rsvLow = s.rsvLow := by dsimp only [State.setGroup]
@[simp] theorem State.setGroup_rounds (s : State) (k : Nat) (g : Group) : (s.setGroup k g).rounds = s.rounds := by dsimp only [State.setGroup]
@[simp] theorem State.setGroup_frames (s : State) (k : Nat) (g : Group) : (s.setGroup k g).frames = s.frames := by dsimp only [State.setGroup]
@[simp] theorem State.setGroup_tlb (s : State) (k : Nat) (g : Group) : (s.setGroup k g).tlb = s.tlb := by dsimp only [State.setGroup]
@[simp] theorem State.setGroup_who (s : State) (k : Nat) (g : Group) : (s.setGroup k g).who = s.who := by dsimp only [State.setGroup]
@[simp] theorem State.setGroup_invs (s : State) (k : Nat) (g : Group) : (s.setGroup k g).invs = s.invs := by dsimp only [State.setGroup]
@[simp] theorem State.setGroup_discards (s : State) (k : Nat) (g : Group) : (s.setGroup k g).discards = s.discards := by dsimp only [State.setGroup]
@[simp] theorem State.setGroup_coh (s : State) (k : Nat) (g : Group) : (s.setGroup k g).coh = s.coh := by dsimp only [State.setGroup]
@[simp] theorem State.setGroup_ports (s : State) (k : Nat) (g : Group) : (s.setGroup k g).ports = s.ports := by dsimp only [State.setGroup]
@[simp] theorem State.setGroup_sess (s : State) (k : Nat) (g : Group) : (s.setGroup k g).sess = s.sess := by dsimp only [State.setGroup]
@[simp] theorem State.setGroup_peers (s : State) (k : Nat) (g : Group) : (s.setGroup k g).peers = s.peers := by dsimp only [State.setGroup]
@[simp] theorem State.setGroup_tdisp (s : State) (k : Nat) (g : Group) : (s.setGroup k g).tdisp = s.tdisp := by dsimp only [State.setGroup]
@[simp] theorem State.setGroup_doe (s : State) (k : Nat) (g : Group) : (s.setGroup k g).doe = s.doe := by dsimp only [State.setGroup]
@[simp] theorem State.setGroup_bel (s : State) (k : Nat) (g : Group) : (s.setGroup k g).bel = s.bel := by dsimp only [State.setGroup]

/-! State.setQueue -/

@[simp] theorem State.setQueue_clock (s : State) (k : Nat) (q : Queue) : (s.setQueue k q).clock = s.clock := by dsimp only [State.setQueue]
@[simp] theorem State.setQueue_time (s : State) (k : Nat) (q : Queue) : (s.setQueue k q).time = s.time := by dsimp only [State.setQueue]
@[simp] theorem State.setQueue_cur (s : State) (k : Nat) (q : Queue) : (s.setQueue k q).cur = s.cur := by dsimp only [State.setQueue]
@[simp] theorem State.setQueue_picked (s : State) (k : Nat) (q : Queue) : (s.setQueue k q).picked = s.picked := by dsimp only [State.setQueue]
@[simp] theorem State.setQueue_agenda (s : State) (k : Nat) (q : Queue) : (s.setQueue k q).agenda = s.agenda := by dsimp only [State.setQueue]
@[simp] theorem State.setQueue_deferred (s : State) (k : Nat) (q : Queue) : (s.setQueue k q).deferred = s.deferred := by dsimp only [State.setQueue]
@[simp] theorem State.setQueue_inp (s : State) (k : Nat) (q : Queue) : (s.setQueue k q).inp = s.inp := by dsimp only [State.setQueue]
@[simp] theorem State.setQueue_order (s : State) (k : Nat) (q : Queue) : (s.setQueue k q).order = s.order := by dsimp only [State.setQueue]
@[simp] theorem State.setQueue_fresh (s : State) (k : Nat) (q : Queue) : (s.setQueue k q).fresh = s.fresh := by dsimp only [State.setQueue]
@[simp] theorem State.setQueue_teams (s : State) (k : Nat) (q : Queue) : (s.setQueue k q).teams = s.teams := by dsimp only [State.setQueue]
@[simp] theorem State.setQueue_blocks (s : State) (k : Nat) (q : Queue) : (s.setQueue k q).blocks = s.blocks := by dsimp only [State.setQueue]
@[simp] theorem State.setQueue_jobs (s : State) (k : Nat) (q : Queue) : (s.setQueue k q).jobs = s.jobs := by dsimp only [State.setQueue]
@[simp] theorem State.setQueue_orders (s : State) (k : Nat) (q : Queue) : (s.setQueue k q).orders = s.orders := by dsimp only [State.setQueue]
@[simp] theorem State.setQueue_cm (s : State) (k : Nat) (q : Queue) : (s.setQueue k q).cm = s.cm := by dsimp only [State.setQueue]
@[simp] theorem State.setQueue_cmBad (s : State) (k : Nat) (q : Queue) : (s.setQueue k q).cmBad = s.cmBad := by dsimp only [State.setQueue]
@[simp] theorem State.setQueue_mem (s : State) (k : Nat) (q : Queue) : (s.setQueue k q).mem = s.mem := by dsimp only [State.setQueue]
@[simp] theorem State.setQueue_blk (s : State) (k : Nat) (q : Queue) : (s.setQueue k q).blk = s.blk := by dsimp only [State.setQueue]
@[simp] theorem State.setQueue_sysmem (s : State) (k : Nat) (q : Queue) : (s.setQueue k q).sysmem = s.sysmem := by dsimp only [State.setQueue]
@[simp] theorem State.setQueue_regs (s : State) (k : Nat) (q : Queue) : (s.setQueue k q).regs = s.regs := by dsimp only [State.setQueue]
@[simp] theorem State.setQueue_tails (s : State) (k : Nat) (q : Queue) : (s.setQueue k q).tails = s.tails := by dsimp only [State.setQueue]
@[simp] theorem State.setQueue_feLines (s : State) (k : Nat) (q : Queue) : (s.setQueue k q).feLines = s.feLines := by dsimp only [State.setQueue]
@[simp] theorem State.setQueue_feFail (s : State) (k : Nat) (q : Queue) : (s.setQueue k q).feFail = s.feFail := by dsimp only [State.setQueue]
@[simp] theorem State.setQueue_reports (s : State) (k : Nat) (q : Queue) : (s.setQueue k q).reports = s.reports := by dsimp only [State.setQueue]
@[simp] theorem State.setQueue_faults (s : State) (k : Nat) (q : Queue) : (s.setQueue k q).faults = s.faults := by dsimp only [State.setQueue]
@[simp] theorem State.setQueue_replies (s : State) (k : Nat) (q : Queue) : (s.setQueue k q).replies = s.replies := by dsimp only [State.setQueue]
@[simp] theorem State.setQueue_reserved (s : State) (k : Nat) (q : Queue) : (s.setQueue k q).reserved = s.reserved := by dsimp only [State.setQueue]
@[simp] theorem State.setQueue_rcache (s : State) (k : Nat) (q : Queue) : (s.setQueue k q).rcache = s.rcache := by dsimp only [State.setQueue]
@[simp] theorem State.setQueue_batches (s : State) (k : Nat) (q : Queue) : (s.setQueue k q).batches = s.batches := by dsimp only [State.setQueue]
@[simp] theorem State.setQueue_verdicts (s : State) (k : Nat) (q : Queue) : (s.setQueue k q).verdicts = s.verdicts := by dsimp only [State.setQueue]
@[simp] theorem State.setQueue_tables (s : State) (k : Nat) (q : Queue) : (s.setQueue k q).tables = s.tables := by dsimp only [State.setQueue]
@[simp] theorem State.setQueue_spireRot (s : State) (k : Nat) (q : Queue) : (s.setQueue k q).spireRot = s.spireRot := by dsimp only [State.setQueue]
@[simp] theorem State.setQueue_copies (s : State) (k : Nat) (q : Queue) : (s.setQueue k q).copies = s.copies := by dsimp only [State.setQueue]
@[simp] theorem State.setQueue_promise (s : State) (k : Nat) (q : Queue) : (s.setQueue k q).promise = s.promise := by dsimp only [State.setQueue]
@[simp] theorem State.setQueue_qreqs (s : State) (k : Nat) (q : Queue) : (s.setQueue k q).qreqs = s.qreqs := by dsimp only [State.setQueue]
@[simp] theorem State.setQueue_deposits (s : State) (k : Nat) (q : Queue) : (s.setQueue k q).deposits = s.deposits := by dsimp only [State.setQueue]
@[simp] theorem State.setQueue_groups (s : State) (k : Nat) (q : Queue) : (s.setQueue k q).groups = s.groups := by dsimp only [State.setQueue]
@[simp] theorem State.setQueue_posts (s : State) (k : Nat) (q : Queue) : (s.setQueue k q).posts = s.posts := by dsimp only [State.setQueue]
@[simp] theorem State.setQueue_appends (s : State) (k : Nat) (q : Queue) : (s.setQueue k q).appends = s.appends := by dsimp only [State.setQueue]
@[simp] theorem State.setQueue_watches (s : State) (k : Nat) (q : Queue) : (s.setQueue k q).watches = s.watches := by dsimp only [State.setQueue]
@[simp] theorem State.setQueue_arrays (s : State) (k : Nat) (q : Queue) : (s.setQueue k q).arrays = s.arrays := by dsimp only [State.setQueue]
@[simp] theorem State.setQueue_clusters (s : State) (k : Nat) (q : Queue) : (s.setQueue k q).clusters = s.clusters := by dsimp only [State.setQueue]
@[simp] theorem State.setQueue_fePrev (s : State) (k : Nat) (q : Queue) : (s.setQueue k q).fePrev = s.fePrev := by dsimp only [State.setQueue]
@[simp] theorem State.setQueue_held (s : State) (k : Nat) (q : Queue) : (s.setQueue k q).held = s.held := by dsimp only [State.setQueue]
@[simp] theorem State.setQueue_atoms (s : State) (k : Nat) (q : Queue) : (s.setQueue k q).atoms = s.atoms := by dsimp only [State.setQueue]
@[simp] theorem State.setQueue_atomTag (s : State) (k : Nat) (q : Queue) : (s.setQueue k q).atomTag = s.atomTag := by dsimp only [State.setQueue]
@[simp] theorem State.setQueue_falls (s : State) (k : Nat) (q : Queue) : (s.setQueue k q).falls = s.falls := by dsimp only [State.setQueue]
@[simp] theorem State.setQueue_poolFree (s : State) (k : Nat) (q : Queue) : (s.setQueue k q).poolFree = s.poolFree := by dsimp only [State.setQueue]
@[simp] theorem State.setQueue_rsvFree (s : State) (k : Nat) (q : Queue) : (s.setQueue k q).rsvFree = s.rsvFree := by dsimp only [State.setQueue]
@[simp] theorem State.setQueue_rsvLow (s : State) (k : Nat) (q : Queue) : (s.setQueue k q).rsvLow = s.rsvLow := by dsimp only [State.setQueue]
@[simp] theorem State.setQueue_rounds (s : State) (k : Nat) (q : Queue) : (s.setQueue k q).rounds = s.rounds := by dsimp only [State.setQueue]
@[simp] theorem State.setQueue_frames (s : State) (k : Nat) (q : Queue) : (s.setQueue k q).frames = s.frames := by dsimp only [State.setQueue]
@[simp] theorem State.setQueue_tlb (s : State) (k : Nat) (q : Queue) : (s.setQueue k q).tlb = s.tlb := by dsimp only [State.setQueue]
@[simp] theorem State.setQueue_who (s : State) (k : Nat) (q : Queue) : (s.setQueue k q).who = s.who := by dsimp only [State.setQueue]
@[simp] theorem State.setQueue_invs (s : State) (k : Nat) (q : Queue) : (s.setQueue k q).invs = s.invs := by dsimp only [State.setQueue]
@[simp] theorem State.setQueue_discards (s : State) (k : Nat) (q : Queue) : (s.setQueue k q).discards = s.discards := by dsimp only [State.setQueue]
@[simp] theorem State.setQueue_coh (s : State) (k : Nat) (q : Queue) : (s.setQueue k q).coh = s.coh := by dsimp only [State.setQueue]
@[simp] theorem State.setQueue_ports (s : State) (k : Nat) (q : Queue) : (s.setQueue k q).ports = s.ports := by dsimp only [State.setQueue]
@[simp] theorem State.setQueue_sess (s : State) (k : Nat) (q : Queue) : (s.setQueue k q).sess = s.sess := by dsimp only [State.setQueue]
@[simp] theorem State.setQueue_peers (s : State) (k : Nat) (q : Queue) : (s.setQueue k q).peers = s.peers := by dsimp only [State.setQueue]
@[simp] theorem State.setQueue_tdisp (s : State) (k : Nat) (q : Queue) : (s.setQueue k q).tdisp = s.tdisp := by dsimp only [State.setQueue]
@[simp] theorem State.setQueue_doe (s : State) (k : Nat) (q : Queue) : (s.setQueue k q).doe = s.doe := by dsimp only [State.setQueue]
@[simp] theorem State.setQueue_bel (s : State) (k : Nat) (q : Queue) : (s.setQueue k q).bel = s.bel := by dsimp only [State.setQueue]

/-! State.setBel -/

@[simp] theorem State.setBel_clock (s : State) (b : Belfry) : (s.setBel b).clock = s.clock := by dsimp only [State.setBel]
@[simp] theorem State.setBel_time (s : State) (b : Belfry) : (s.setBel b).time = s.time := by dsimp only [State.setBel]
@[simp] theorem State.setBel_cur (s : State) (b : Belfry) : (s.setBel b).cur = s.cur := by dsimp only [State.setBel]
@[simp] theorem State.setBel_picked (s : State) (b : Belfry) : (s.setBel b).picked = s.picked := by dsimp only [State.setBel]
@[simp] theorem State.setBel_agenda (s : State) (b : Belfry) : (s.setBel b).agenda = s.agenda := by dsimp only [State.setBel]
@[simp] theorem State.setBel_deferred (s : State) (b : Belfry) : (s.setBel b).deferred = s.deferred := by dsimp only [State.setBel]
@[simp] theorem State.setBel_inp (s : State) (b : Belfry) : (s.setBel b).inp = s.inp := by dsimp only [State.setBel]
@[simp] theorem State.setBel_order (s : State) (b : Belfry) : (s.setBel b).order = s.order := by dsimp only [State.setBel]
@[simp] theorem State.setBel_fresh (s : State) (b : Belfry) : (s.setBel b).fresh = s.fresh := by dsimp only [State.setBel]
@[simp] theorem State.setBel_teams (s : State) (b : Belfry) : (s.setBel b).teams = s.teams := by dsimp only [State.setBel]
@[simp] theorem State.setBel_blocks (s : State) (b : Belfry) : (s.setBel b).blocks = s.blocks := by dsimp only [State.setBel]
@[simp] theorem State.setBel_jobs (s : State) (b : Belfry) : (s.setBel b).jobs = s.jobs := by dsimp only [State.setBel]
@[simp] theorem State.setBel_orders (s : State) (b : Belfry) : (s.setBel b).orders = s.orders := by dsimp only [State.setBel]
@[simp] theorem State.setBel_cm (s : State) (b : Belfry) : (s.setBel b).cm = s.cm := by dsimp only [State.setBel]
@[simp] theorem State.setBel_cmBad (s : State) (b : Belfry) : (s.setBel b).cmBad = s.cmBad := by dsimp only [State.setBel]
@[simp] theorem State.setBel_mem (s : State) (b : Belfry) : (s.setBel b).mem = s.mem := by dsimp only [State.setBel]
@[simp] theorem State.setBel_blk (s : State) (b : Belfry) : (s.setBel b).blk = s.blk := by dsimp only [State.setBel]
@[simp] theorem State.setBel_sysmem (s : State) (b : Belfry) : (s.setBel b).sysmem = s.sysmem := by dsimp only [State.setBel]
@[simp] theorem State.setBel_regs (s : State) (b : Belfry) : (s.setBel b).regs = s.regs := by dsimp only [State.setBel]
@[simp] theorem State.setBel_tails (s : State) (b : Belfry) : (s.setBel b).tails = s.tails := by dsimp only [State.setBel]
@[simp] theorem State.setBel_feLines (s : State) (b : Belfry) : (s.setBel b).feLines = s.feLines := by dsimp only [State.setBel]
@[simp] theorem State.setBel_feFail (s : State) (b : Belfry) : (s.setBel b).feFail = s.feFail := by dsimp only [State.setBel]
@[simp] theorem State.setBel_reports (s : State) (b : Belfry) : (s.setBel b).reports = s.reports := by dsimp only [State.setBel]
@[simp] theorem State.setBel_faults (s : State) (b : Belfry) : (s.setBel b).faults = s.faults := by dsimp only [State.setBel]
@[simp] theorem State.setBel_replies (s : State) (b : Belfry) : (s.setBel b).replies = s.replies := by dsimp only [State.setBel]
@[simp] theorem State.setBel_reserved (s : State) (b : Belfry) : (s.setBel b).reserved = s.reserved := by dsimp only [State.setBel]
@[simp] theorem State.setBel_rcache (s : State) (b : Belfry) : (s.setBel b).rcache = s.rcache := by dsimp only [State.setBel]
@[simp] theorem State.setBel_batches (s : State) (b : Belfry) : (s.setBel b).batches = s.batches := by dsimp only [State.setBel]
@[simp] theorem State.setBel_verdicts (s : State) (b : Belfry) : (s.setBel b).verdicts = s.verdicts := by dsimp only [State.setBel]
@[simp] theorem State.setBel_tables (s : State) (b : Belfry) : (s.setBel b).tables = s.tables := by dsimp only [State.setBel]
@[simp] theorem State.setBel_spireRot (s : State) (b : Belfry) : (s.setBel b).spireRot = s.spireRot := by dsimp only [State.setBel]
@[simp] theorem State.setBel_copies (s : State) (b : Belfry) : (s.setBel b).copies = s.copies := by dsimp only [State.setBel]
@[simp] theorem State.setBel_promise (s : State) (b : Belfry) : (s.setBel b).promise = s.promise := by dsimp only [State.setBel]
@[simp] theorem State.setBel_queues (s : State) (b : Belfry) : (s.setBel b).queues = s.queues := by dsimp only [State.setBel]
@[simp] theorem State.setBel_qreqs (s : State) (b : Belfry) : (s.setBel b).qreqs = s.qreqs := by dsimp only [State.setBel]
@[simp] theorem State.setBel_deposits (s : State) (b : Belfry) : (s.setBel b).deposits = s.deposits := by dsimp only [State.setBel]
@[simp] theorem State.setBel_groups (s : State) (b : Belfry) : (s.setBel b).groups = s.groups := by dsimp only [State.setBel]
@[simp] theorem State.setBel_posts (s : State) (b : Belfry) : (s.setBel b).posts = s.posts := by dsimp only [State.setBel]
@[simp] theorem State.setBel_appends (s : State) (b : Belfry) : (s.setBel b).appends = s.appends := by dsimp only [State.setBel]
@[simp] theorem State.setBel_watches (s : State) (b : Belfry) : (s.setBel b).watches = s.watches := by dsimp only [State.setBel]
@[simp] theorem State.setBel_arrays (s : State) (b : Belfry) : (s.setBel b).arrays = s.arrays := by dsimp only [State.setBel]
@[simp] theorem State.setBel_clusters (s : State) (b : Belfry) : (s.setBel b).clusters = s.clusters := by dsimp only [State.setBel]
@[simp] theorem State.setBel_fePrev (s : State) (b : Belfry) : (s.setBel b).fePrev = s.fePrev := by dsimp only [State.setBel]
@[simp] theorem State.setBel_held (s : State) (b : Belfry) : (s.setBel b).held = s.held := by dsimp only [State.setBel]
@[simp] theorem State.setBel_atoms (s : State) (b : Belfry) : (s.setBel b).atoms = s.atoms := by dsimp only [State.setBel]
@[simp] theorem State.setBel_atomTag (s : State) (b : Belfry) : (s.setBel b).atomTag = s.atomTag := by dsimp only [State.setBel]
@[simp] theorem State.setBel_falls (s : State) (b : Belfry) : (s.setBel b).falls = s.falls := by dsimp only [State.setBel]
@[simp] theorem State.setBel_poolFree (s : State) (b : Belfry) : (s.setBel b).poolFree = s.poolFree := by dsimp only [State.setBel]
@[simp] theorem State.setBel_rsvFree (s : State) (b : Belfry) : (s.setBel b).rsvFree = s.rsvFree := by dsimp only [State.setBel]
@[simp] theorem State.setBel_rsvLow (s : State) (b : Belfry) : (s.setBel b).rsvLow = s.rsvLow := by dsimp only [State.setBel]
@[simp] theorem State.setBel_rounds (s : State) (b : Belfry) : (s.setBel b).rounds = s.rounds := by dsimp only [State.setBel]
@[simp] theorem State.setBel_frames (s : State) (b : Belfry) : (s.setBel b).frames = s.frames := by dsimp only [State.setBel]
@[simp] theorem State.setBel_tlb (s : State) (b : Belfry) : (s.setBel b).tlb = s.tlb := by dsimp only [State.setBel]
@[simp] theorem State.setBel_who (s : State) (b : Belfry) : (s.setBel b).who = s.who := by dsimp only [State.setBel]
@[simp] theorem State.setBel_invs (s : State) (b : Belfry) : (s.setBel b).invs = s.invs := by dsimp only [State.setBel]
@[simp] theorem State.setBel_discards (s : State) (b : Belfry) : (s.setBel b).discards = s.discards := by dsimp only [State.setBel]
@[simp] theorem State.setBel_coh (s : State) (b : Belfry) : (s.setBel b).coh = s.coh := by dsimp only [State.setBel]
@[simp] theorem State.setBel_ports (s : State) (b : Belfry) : (s.setBel b).ports = s.ports := by dsimp only [State.setBel]
@[simp] theorem State.setBel_sess (s : State) (b : Belfry) : (s.setBel b).sess = s.sess := by dsimp only [State.setBel]
@[simp] theorem State.setBel_peers (s : State) (b : Belfry) : (s.setBel b).peers = s.peers := by dsimp only [State.setBel]
@[simp] theorem State.setBel_tdisp (s : State) (b : Belfry) : (s.setBel b).tdisp = s.tdisp := by dsimp only [State.setBel]
@[simp] theorem State.setBel_doe (s : State) (b : Belfry) : (s.setBel b).doe = s.doe := by dsimp only [State.setBel]

/-! State.setReg -/

@[simp] theorem State.setReg_clock (s : State) (f o : Nat) (v : W64) : (s.setReg f o v).clock = s.clock := by dsimp only [State.setReg]
@[simp] theorem State.setReg_time (s : State) (f o : Nat) (v : W64) : (s.setReg f o v).time = s.time := by dsimp only [State.setReg]
@[simp] theorem State.setReg_cur (s : State) (f o : Nat) (v : W64) : (s.setReg f o v).cur = s.cur := by dsimp only [State.setReg]
@[simp] theorem State.setReg_picked (s : State) (f o : Nat) (v : W64) : (s.setReg f o v).picked = s.picked := by dsimp only [State.setReg]
@[simp] theorem State.setReg_agenda (s : State) (f o : Nat) (v : W64) : (s.setReg f o v).agenda = s.agenda := by dsimp only [State.setReg]
@[simp] theorem State.setReg_deferred (s : State) (f o : Nat) (v : W64) : (s.setReg f o v).deferred = s.deferred := by dsimp only [State.setReg]
@[simp] theorem State.setReg_inp (s : State) (f o : Nat) (v : W64) : (s.setReg f o v).inp = s.inp := by dsimp only [State.setReg]
@[simp] theorem State.setReg_order (s : State) (f o : Nat) (v : W64) : (s.setReg f o v).order = s.order := by dsimp only [State.setReg]
@[simp] theorem State.setReg_fresh (s : State) (f o : Nat) (v : W64) : (s.setReg f o v).fresh = s.fresh := by dsimp only [State.setReg]
@[simp] theorem State.setReg_teams (s : State) (f o : Nat) (v : W64) : (s.setReg f o v).teams = s.teams := by dsimp only [State.setReg]
@[simp] theorem State.setReg_blocks (s : State) (f o : Nat) (v : W64) : (s.setReg f o v).blocks = s.blocks := by dsimp only [State.setReg]
@[simp] theorem State.setReg_jobs (s : State) (f o : Nat) (v : W64) : (s.setReg f o v).jobs = s.jobs := by dsimp only [State.setReg]
@[simp] theorem State.setReg_orders (s : State) (f o : Nat) (v : W64) : (s.setReg f o v).orders = s.orders := by dsimp only [State.setReg]
@[simp] theorem State.setReg_cm (s : State) (f o : Nat) (v : W64) : (s.setReg f o v).cm = s.cm := by dsimp only [State.setReg]
@[simp] theorem State.setReg_cmBad (s : State) (f o : Nat) (v : W64) : (s.setReg f o v).cmBad = s.cmBad := by dsimp only [State.setReg]
@[simp] theorem State.setReg_mem (s : State) (f o : Nat) (v : W64) : (s.setReg f o v).mem = s.mem := by dsimp only [State.setReg]
@[simp] theorem State.setReg_blk (s : State) (f o : Nat) (v : W64) : (s.setReg f o v).blk = s.blk := by dsimp only [State.setReg]
@[simp] theorem State.setReg_sysmem (s : State) (f o : Nat) (v : W64) : (s.setReg f o v).sysmem = s.sysmem := by dsimp only [State.setReg]
@[simp] theorem State.setReg_tails (s : State) (f o : Nat) (v : W64) : (s.setReg f o v).tails = s.tails := by dsimp only [State.setReg]
@[simp] theorem State.setReg_feLines (s : State) (f o : Nat) (v : W64) : (s.setReg f o v).feLines = s.feLines := by dsimp only [State.setReg]
@[simp] theorem State.setReg_feFail (s : State) (f o : Nat) (v : W64) : (s.setReg f o v).feFail = s.feFail := by dsimp only [State.setReg]
@[simp] theorem State.setReg_reports (s : State) (f o : Nat) (v : W64) : (s.setReg f o v).reports = s.reports := by dsimp only [State.setReg]
@[simp] theorem State.setReg_faults (s : State) (f o : Nat) (v : W64) : (s.setReg f o v).faults = s.faults := by dsimp only [State.setReg]
@[simp] theorem State.setReg_replies (s : State) (f o : Nat) (v : W64) : (s.setReg f o v).replies = s.replies := by dsimp only [State.setReg]
@[simp] theorem State.setReg_reserved (s : State) (f o : Nat) (v : W64) : (s.setReg f o v).reserved = s.reserved := by dsimp only [State.setReg]
@[simp] theorem State.setReg_rcache (s : State) (f o : Nat) (v : W64) : (s.setReg f o v).rcache = s.rcache := by dsimp only [State.setReg]
@[simp] theorem State.setReg_batches (s : State) (f o : Nat) (v : W64) : (s.setReg f o v).batches = s.batches := by dsimp only [State.setReg]
@[simp] theorem State.setReg_verdicts (s : State) (f o : Nat) (v : W64) : (s.setReg f o v).verdicts = s.verdicts := by dsimp only [State.setReg]
@[simp] theorem State.setReg_tables (s : State) (f o : Nat) (v : W64) : (s.setReg f o v).tables = s.tables := by dsimp only [State.setReg]
@[simp] theorem State.setReg_spireRot (s : State) (f o : Nat) (v : W64) : (s.setReg f o v).spireRot = s.spireRot := by dsimp only [State.setReg]
@[simp] theorem State.setReg_copies (s : State) (f o : Nat) (v : W64) : (s.setReg f o v).copies = s.copies := by dsimp only [State.setReg]
@[simp] theorem State.setReg_promise (s : State) (f o : Nat) (v : W64) : (s.setReg f o v).promise = s.promise := by dsimp only [State.setReg]
@[simp] theorem State.setReg_queues (s : State) (f o : Nat) (v : W64) : (s.setReg f o v).queues = s.queues := by dsimp only [State.setReg]
@[simp] theorem State.setReg_qreqs (s : State) (f o : Nat) (v : W64) : (s.setReg f o v).qreqs = s.qreqs := by dsimp only [State.setReg]
@[simp] theorem State.setReg_deposits (s : State) (f o : Nat) (v : W64) : (s.setReg f o v).deposits = s.deposits := by dsimp only [State.setReg]
@[simp] theorem State.setReg_groups (s : State) (f o : Nat) (v : W64) : (s.setReg f o v).groups = s.groups := by dsimp only [State.setReg]
@[simp] theorem State.setReg_posts (s : State) (f o : Nat) (v : W64) : (s.setReg f o v).posts = s.posts := by dsimp only [State.setReg]
@[simp] theorem State.setReg_appends (s : State) (f o : Nat) (v : W64) : (s.setReg f o v).appends = s.appends := by dsimp only [State.setReg]
@[simp] theorem State.setReg_watches (s : State) (f o : Nat) (v : W64) : (s.setReg f o v).watches = s.watches := by dsimp only [State.setReg]
@[simp] theorem State.setReg_arrays (s : State) (f o : Nat) (v : W64) : (s.setReg f o v).arrays = s.arrays := by dsimp only [State.setReg]
@[simp] theorem State.setReg_clusters (s : State) (f o : Nat) (v : W64) : (s.setReg f o v).clusters = s.clusters := by dsimp only [State.setReg]
@[simp] theorem State.setReg_fePrev (s : State) (f o : Nat) (v : W64) : (s.setReg f o v).fePrev = s.fePrev := by dsimp only [State.setReg]
@[simp] theorem State.setReg_held (s : State) (f o : Nat) (v : W64) : (s.setReg f o v).held = s.held := by dsimp only [State.setReg]
@[simp] theorem State.setReg_atoms (s : State) (f o : Nat) (v : W64) : (s.setReg f o v).atoms = s.atoms := by dsimp only [State.setReg]
@[simp] theorem State.setReg_atomTag (s : State) (f o : Nat) (v : W64) : (s.setReg f o v).atomTag = s.atomTag := by dsimp only [State.setReg]
@[simp] theorem State.setReg_falls (s : State) (f o : Nat) (v : W64) : (s.setReg f o v).falls = s.falls := by dsimp only [State.setReg]
@[simp] theorem State.setReg_poolFree (s : State) (f o : Nat) (v : W64) : (s.setReg f o v).poolFree = s.poolFree := by dsimp only [State.setReg]
@[simp] theorem State.setReg_rsvFree (s : State) (f o : Nat) (v : W64) : (s.setReg f o v).rsvFree = s.rsvFree := by dsimp only [State.setReg]
@[simp] theorem State.setReg_rsvLow (s : State) (f o : Nat) (v : W64) : (s.setReg f o v).rsvLow = s.rsvLow := by dsimp only [State.setReg]
@[simp] theorem State.setReg_rounds (s : State) (f o : Nat) (v : W64) : (s.setReg f o v).rounds = s.rounds := by dsimp only [State.setReg]
@[simp] theorem State.setReg_frames (s : State) (f o : Nat) (v : W64) : (s.setReg f o v).frames = s.frames := by dsimp only [State.setReg]
@[simp] theorem State.setReg_tlb (s : State) (f o : Nat) (v : W64) : (s.setReg f o v).tlb = s.tlb := by dsimp only [State.setReg]
@[simp] theorem State.setReg_who (s : State) (f o : Nat) (v : W64) : (s.setReg f o v).who = s.who := by dsimp only [State.setReg]
@[simp] theorem State.setReg_invs (s : State) (f o : Nat) (v : W64) : (s.setReg f o v).invs = s.invs := by dsimp only [State.setReg]
@[simp] theorem State.setReg_discards (s : State) (f o : Nat) (v : W64) : (s.setReg f o v).discards = s.discards := by dsimp only [State.setReg]
@[simp] theorem State.setReg_coh (s : State) (f o : Nat) (v : W64) : (s.setReg f o v).coh = s.coh := by dsimp only [State.setReg]
@[simp] theorem State.setReg_ports (s : State) (f o : Nat) (v : W64) : (s.setReg f o v).ports = s.ports := by dsimp only [State.setReg]
@[simp] theorem State.setReg_sess (s : State) (f o : Nat) (v : W64) : (s.setReg f o v).sess = s.sess := by dsimp only [State.setReg]
@[simp] theorem State.setReg_peers (s : State) (f o : Nat) (v : W64) : (s.setReg f o v).peers = s.peers := by dsimp only [State.setReg]
@[simp] theorem State.setReg_tdisp (s : State) (f o : Nat) (v : W64) : (s.setReg f o v).tdisp = s.tdisp := by dsimp only [State.setReg]
@[simp] theorem State.setReg_doe (s : State) (f o : Nat) (v : W64) : (s.setReg f o v).doe = s.doe := by dsimp only [State.setReg]
@[simp] theorem State.setReg_bel (s : State) (f o : Nat) (v : W64) : (s.setReg f o v).bel = s.bel := by dsimp only [State.setReg]

/-! State.setArray -/

@[simp] theorem State.setArray_clock (s : State) (k : Nat) (l : List Nat) : (s.setArray k l).clock = s.clock := by dsimp only [State.setArray]
@[simp] theorem State.setArray_time (s : State) (k : Nat) (l : List Nat) : (s.setArray k l).time = s.time := by dsimp only [State.setArray]
@[simp] theorem State.setArray_cur (s : State) (k : Nat) (l : List Nat) : (s.setArray k l).cur = s.cur := by dsimp only [State.setArray]
@[simp] theorem State.setArray_picked (s : State) (k : Nat) (l : List Nat) : (s.setArray k l).picked = s.picked := by dsimp only [State.setArray]
@[simp] theorem State.setArray_agenda (s : State) (k : Nat) (l : List Nat) : (s.setArray k l).agenda = s.agenda := by dsimp only [State.setArray]
@[simp] theorem State.setArray_deferred (s : State) (k : Nat) (l : List Nat) : (s.setArray k l).deferred = s.deferred := by dsimp only [State.setArray]
@[simp] theorem State.setArray_inp (s : State) (k : Nat) (l : List Nat) : (s.setArray k l).inp = s.inp := by dsimp only [State.setArray]
@[simp] theorem State.setArray_order (s : State) (k : Nat) (l : List Nat) : (s.setArray k l).order = s.order := by dsimp only [State.setArray]
@[simp] theorem State.setArray_fresh (s : State) (k : Nat) (l : List Nat) : (s.setArray k l).fresh = s.fresh := by dsimp only [State.setArray]
@[simp] theorem State.setArray_teams (s : State) (k : Nat) (l : List Nat) : (s.setArray k l).teams = s.teams := by dsimp only [State.setArray]
@[simp] theorem State.setArray_blocks (s : State) (k : Nat) (l : List Nat) : (s.setArray k l).blocks = s.blocks := by dsimp only [State.setArray]
@[simp] theorem State.setArray_jobs (s : State) (k : Nat) (l : List Nat) : (s.setArray k l).jobs = s.jobs := by dsimp only [State.setArray]
@[simp] theorem State.setArray_orders (s : State) (k : Nat) (l : List Nat) : (s.setArray k l).orders = s.orders := by dsimp only [State.setArray]
@[simp] theorem State.setArray_cm (s : State) (k : Nat) (l : List Nat) : (s.setArray k l).cm = s.cm := by dsimp only [State.setArray]
@[simp] theorem State.setArray_cmBad (s : State) (k : Nat) (l : List Nat) : (s.setArray k l).cmBad = s.cmBad := by dsimp only [State.setArray]
@[simp] theorem State.setArray_mem (s : State) (k : Nat) (l : List Nat) : (s.setArray k l).mem = s.mem := by dsimp only [State.setArray]
@[simp] theorem State.setArray_blk (s : State) (k : Nat) (l : List Nat) : (s.setArray k l).blk = s.blk := by dsimp only [State.setArray]
@[simp] theorem State.setArray_sysmem (s : State) (k : Nat) (l : List Nat) : (s.setArray k l).sysmem = s.sysmem := by dsimp only [State.setArray]
@[simp] theorem State.setArray_regs (s : State) (k : Nat) (l : List Nat) : (s.setArray k l).regs = s.regs := by dsimp only [State.setArray]
@[simp] theorem State.setArray_tails (s : State) (k : Nat) (l : List Nat) : (s.setArray k l).tails = s.tails := by dsimp only [State.setArray]
@[simp] theorem State.setArray_feLines (s : State) (k : Nat) (l : List Nat) : (s.setArray k l).feLines = s.feLines := by dsimp only [State.setArray]
@[simp] theorem State.setArray_feFail (s : State) (k : Nat) (l : List Nat) : (s.setArray k l).feFail = s.feFail := by dsimp only [State.setArray]
@[simp] theorem State.setArray_reports (s : State) (k : Nat) (l : List Nat) : (s.setArray k l).reports = s.reports := by dsimp only [State.setArray]
@[simp] theorem State.setArray_faults (s : State) (k : Nat) (l : List Nat) : (s.setArray k l).faults = s.faults := by dsimp only [State.setArray]
@[simp] theorem State.setArray_replies (s : State) (k : Nat) (l : List Nat) : (s.setArray k l).replies = s.replies := by dsimp only [State.setArray]
@[simp] theorem State.setArray_reserved (s : State) (k : Nat) (l : List Nat) : (s.setArray k l).reserved = s.reserved := by dsimp only [State.setArray]
@[simp] theorem State.setArray_rcache (s : State) (k : Nat) (l : List Nat) : (s.setArray k l).rcache = s.rcache := by dsimp only [State.setArray]
@[simp] theorem State.setArray_batches (s : State) (k : Nat) (l : List Nat) : (s.setArray k l).batches = s.batches := by dsimp only [State.setArray]
@[simp] theorem State.setArray_verdicts (s : State) (k : Nat) (l : List Nat) : (s.setArray k l).verdicts = s.verdicts := by dsimp only [State.setArray]
@[simp] theorem State.setArray_tables (s : State) (k : Nat) (l : List Nat) : (s.setArray k l).tables = s.tables := by dsimp only [State.setArray]
@[simp] theorem State.setArray_spireRot (s : State) (k : Nat) (l : List Nat) : (s.setArray k l).spireRot = s.spireRot := by dsimp only [State.setArray]
@[simp] theorem State.setArray_copies (s : State) (k : Nat) (l : List Nat) : (s.setArray k l).copies = s.copies := by dsimp only [State.setArray]
@[simp] theorem State.setArray_promise (s : State) (k : Nat) (l : List Nat) : (s.setArray k l).promise = s.promise := by dsimp only [State.setArray]
@[simp] theorem State.setArray_queues (s : State) (k : Nat) (l : List Nat) : (s.setArray k l).queues = s.queues := by dsimp only [State.setArray]
@[simp] theorem State.setArray_qreqs (s : State) (k : Nat) (l : List Nat) : (s.setArray k l).qreqs = s.qreqs := by dsimp only [State.setArray]
@[simp] theorem State.setArray_deposits (s : State) (k : Nat) (l : List Nat) : (s.setArray k l).deposits = s.deposits := by dsimp only [State.setArray]
@[simp] theorem State.setArray_groups (s : State) (k : Nat) (l : List Nat) : (s.setArray k l).groups = s.groups := by dsimp only [State.setArray]
@[simp] theorem State.setArray_posts (s : State) (k : Nat) (l : List Nat) : (s.setArray k l).posts = s.posts := by dsimp only [State.setArray]
@[simp] theorem State.setArray_appends (s : State) (k : Nat) (l : List Nat) : (s.setArray k l).appends = s.appends := by dsimp only [State.setArray]
@[simp] theorem State.setArray_watches (s : State) (k : Nat) (l : List Nat) : (s.setArray k l).watches = s.watches := by dsimp only [State.setArray]
@[simp] theorem State.setArray_clusters (s : State) (k : Nat) (l : List Nat) : (s.setArray k l).clusters = s.clusters := by dsimp only [State.setArray]
@[simp] theorem State.setArray_fePrev (s : State) (k : Nat) (l : List Nat) : (s.setArray k l).fePrev = s.fePrev := by dsimp only [State.setArray]
@[simp] theorem State.setArray_held (s : State) (k : Nat) (l : List Nat) : (s.setArray k l).held = s.held := by dsimp only [State.setArray]
@[simp] theorem State.setArray_atoms (s : State) (k : Nat) (l : List Nat) : (s.setArray k l).atoms = s.atoms := by dsimp only [State.setArray]
@[simp] theorem State.setArray_atomTag (s : State) (k : Nat) (l : List Nat) : (s.setArray k l).atomTag = s.atomTag := by dsimp only [State.setArray]
@[simp] theorem State.setArray_falls (s : State) (k : Nat) (l : List Nat) : (s.setArray k l).falls = s.falls := by dsimp only [State.setArray]
@[simp] theorem State.setArray_poolFree (s : State) (k : Nat) (l : List Nat) : (s.setArray k l).poolFree = s.poolFree := by dsimp only [State.setArray]
@[simp] theorem State.setArray_rsvFree (s : State) (k : Nat) (l : List Nat) : (s.setArray k l).rsvFree = s.rsvFree := by dsimp only [State.setArray]
@[simp] theorem State.setArray_rsvLow (s : State) (k : Nat) (l : List Nat) : (s.setArray k l).rsvLow = s.rsvLow := by dsimp only [State.setArray]
@[simp] theorem State.setArray_rounds (s : State) (k : Nat) (l : List Nat) : (s.setArray k l).rounds = s.rounds := by dsimp only [State.setArray]
@[simp] theorem State.setArray_frames (s : State) (k : Nat) (l : List Nat) : (s.setArray k l).frames = s.frames := by dsimp only [State.setArray]
@[simp] theorem State.setArray_tlb (s : State) (k : Nat) (l : List Nat) : (s.setArray k l).tlb = s.tlb := by dsimp only [State.setArray]
@[simp] theorem State.setArray_who (s : State) (k : Nat) (l : List Nat) : (s.setArray k l).who = s.who := by dsimp only [State.setArray]
@[simp] theorem State.setArray_invs (s : State) (k : Nat) (l : List Nat) : (s.setArray k l).invs = s.invs := by dsimp only [State.setArray]
@[simp] theorem State.setArray_discards (s : State) (k : Nat) (l : List Nat) : (s.setArray k l).discards = s.discards := by dsimp only [State.setArray]
@[simp] theorem State.setArray_coh (s : State) (k : Nat) (l : List Nat) : (s.setArray k l).coh = s.coh := by dsimp only [State.setArray]
@[simp] theorem State.setArray_ports (s : State) (k : Nat) (l : List Nat) : (s.setArray k l).ports = s.ports := by dsimp only [State.setArray]
@[simp] theorem State.setArray_sess (s : State) (k : Nat) (l : List Nat) : (s.setArray k l).sess = s.sess := by dsimp only [State.setArray]
@[simp] theorem State.setArray_peers (s : State) (k : Nat) (l : List Nat) : (s.setArray k l).peers = s.peers := by dsimp only [State.setArray]
@[simp] theorem State.setArray_tdisp (s : State) (k : Nat) (l : List Nat) : (s.setArray k l).tdisp = s.tdisp := by dsimp only [State.setArray]
@[simp] theorem State.setArray_doe (s : State) (k : Nat) (l : List Nat) : (s.setArray k l).doe = s.doe := by dsimp only [State.setArray]
@[simp] theorem State.setArray_bel (s : State) (k : Nat) (l : List Nat) : (s.setArray k l).bel = s.bel := by dsimp only [State.setArray]

/-! State.setTable -/

@[simp] theorem State.setTable_clock (s : State) (v b : Nat) (t : Table) : (s.setTable v b t).clock = s.clock := by dsimp only [State.setTable]
@[simp] theorem State.setTable_time (s : State) (v b : Nat) (t : Table) : (s.setTable v b t).time = s.time := by dsimp only [State.setTable]
@[simp] theorem State.setTable_cur (s : State) (v b : Nat) (t : Table) : (s.setTable v b t).cur = s.cur := by dsimp only [State.setTable]
@[simp] theorem State.setTable_picked (s : State) (v b : Nat) (t : Table) : (s.setTable v b t).picked = s.picked := by dsimp only [State.setTable]
@[simp] theorem State.setTable_agenda (s : State) (v b : Nat) (t : Table) : (s.setTable v b t).agenda = s.agenda := by dsimp only [State.setTable]
@[simp] theorem State.setTable_deferred (s : State) (v b : Nat) (t : Table) : (s.setTable v b t).deferred = s.deferred := by dsimp only [State.setTable]
@[simp] theorem State.setTable_inp (s : State) (v b : Nat) (t : Table) : (s.setTable v b t).inp = s.inp := by dsimp only [State.setTable]
@[simp] theorem State.setTable_order (s : State) (v b : Nat) (t : Table) : (s.setTable v b t).order = s.order := by dsimp only [State.setTable]
@[simp] theorem State.setTable_fresh (s : State) (v b : Nat) (t : Table) : (s.setTable v b t).fresh = s.fresh := by dsimp only [State.setTable]
@[simp] theorem State.setTable_teams (s : State) (v b : Nat) (t : Table) : (s.setTable v b t).teams = s.teams := by dsimp only [State.setTable]
@[simp] theorem State.setTable_blocks (s : State) (v b : Nat) (t : Table) : (s.setTable v b t).blocks = s.blocks := by dsimp only [State.setTable]
@[simp] theorem State.setTable_jobs (s : State) (v b : Nat) (t : Table) : (s.setTable v b t).jobs = s.jobs := by dsimp only [State.setTable]
@[simp] theorem State.setTable_orders (s : State) (v b : Nat) (t : Table) : (s.setTable v b t).orders = s.orders := by dsimp only [State.setTable]
@[simp] theorem State.setTable_cm (s : State) (v b : Nat) (t : Table) : (s.setTable v b t).cm = s.cm := by dsimp only [State.setTable]
@[simp] theorem State.setTable_cmBad (s : State) (v b : Nat) (t : Table) : (s.setTable v b t).cmBad = s.cmBad := by dsimp only [State.setTable]
@[simp] theorem State.setTable_mem (s : State) (v b : Nat) (t : Table) : (s.setTable v b t).mem = s.mem := by dsimp only [State.setTable]
@[simp] theorem State.setTable_blk (s : State) (v b : Nat) (t : Table) : (s.setTable v b t).blk = s.blk := by dsimp only [State.setTable]
@[simp] theorem State.setTable_sysmem (s : State) (v b : Nat) (t : Table) : (s.setTable v b t).sysmem = s.sysmem := by dsimp only [State.setTable]
@[simp] theorem State.setTable_regs (s : State) (v b : Nat) (t : Table) : (s.setTable v b t).regs = s.regs := by dsimp only [State.setTable]
@[simp] theorem State.setTable_tails (s : State) (v b : Nat) (t : Table) : (s.setTable v b t).tails = s.tails := by dsimp only [State.setTable]
@[simp] theorem State.setTable_feLines (s : State) (v b : Nat) (t : Table) : (s.setTable v b t).feLines = s.feLines := by dsimp only [State.setTable]
@[simp] theorem State.setTable_feFail (s : State) (v b : Nat) (t : Table) : (s.setTable v b t).feFail = s.feFail := by dsimp only [State.setTable]
@[simp] theorem State.setTable_reports (s : State) (v b : Nat) (t : Table) : (s.setTable v b t).reports = s.reports := by dsimp only [State.setTable]
@[simp] theorem State.setTable_faults (s : State) (v b : Nat) (t : Table) : (s.setTable v b t).faults = s.faults := by dsimp only [State.setTable]
@[simp] theorem State.setTable_replies (s : State) (v b : Nat) (t : Table) : (s.setTable v b t).replies = s.replies := by dsimp only [State.setTable]
@[simp] theorem State.setTable_reserved (s : State) (v b : Nat) (t : Table) : (s.setTable v b t).reserved = s.reserved := by dsimp only [State.setTable]
@[simp] theorem State.setTable_rcache (s : State) (v b : Nat) (t : Table) : (s.setTable v b t).rcache = s.rcache := by dsimp only [State.setTable]
@[simp] theorem State.setTable_batches (s : State) (v b : Nat) (t : Table) : (s.setTable v b t).batches = s.batches := by dsimp only [State.setTable]
@[simp] theorem State.setTable_verdicts (s : State) (v b : Nat) (t : Table) : (s.setTable v b t).verdicts = s.verdicts := by dsimp only [State.setTable]
@[simp] theorem State.setTable_spireRot (s : State) (v b : Nat) (t : Table) : (s.setTable v b t).spireRot = s.spireRot := by dsimp only [State.setTable]
@[simp] theorem State.setTable_copies (s : State) (v b : Nat) (t : Table) : (s.setTable v b t).copies = s.copies := by dsimp only [State.setTable]
@[simp] theorem State.setTable_promise (s : State) (v b : Nat) (t : Table) : (s.setTable v b t).promise = s.promise := by dsimp only [State.setTable]
@[simp] theorem State.setTable_queues (s : State) (v b : Nat) (t : Table) : (s.setTable v b t).queues = s.queues := by dsimp only [State.setTable]
@[simp] theorem State.setTable_qreqs (s : State) (v b : Nat) (t : Table) : (s.setTable v b t).qreqs = s.qreqs := by dsimp only [State.setTable]
@[simp] theorem State.setTable_deposits (s : State) (v b : Nat) (t : Table) : (s.setTable v b t).deposits = s.deposits := by dsimp only [State.setTable]
@[simp] theorem State.setTable_groups (s : State) (v b : Nat) (t : Table) : (s.setTable v b t).groups = s.groups := by dsimp only [State.setTable]
@[simp] theorem State.setTable_posts (s : State) (v b : Nat) (t : Table) : (s.setTable v b t).posts = s.posts := by dsimp only [State.setTable]
@[simp] theorem State.setTable_appends (s : State) (v b : Nat) (t : Table) : (s.setTable v b t).appends = s.appends := by dsimp only [State.setTable]
@[simp] theorem State.setTable_watches (s : State) (v b : Nat) (t : Table) : (s.setTable v b t).watches = s.watches := by dsimp only [State.setTable]
@[simp] theorem State.setTable_arrays (s : State) (v b : Nat) (t : Table) : (s.setTable v b t).arrays = s.arrays := by dsimp only [State.setTable]
@[simp] theorem State.setTable_clusters (s : State) (v b : Nat) (t : Table) : (s.setTable v b t).clusters = s.clusters := by dsimp only [State.setTable]
@[simp] theorem State.setTable_fePrev (s : State) (v b : Nat) (t : Table) : (s.setTable v b t).fePrev = s.fePrev := by dsimp only [State.setTable]
@[simp] theorem State.setTable_held (s : State) (v b : Nat) (t : Table) : (s.setTable v b t).held = s.held := by dsimp only [State.setTable]
@[simp] theorem State.setTable_atoms (s : State) (v b : Nat) (t : Table) : (s.setTable v b t).atoms = s.atoms := by dsimp only [State.setTable]
@[simp] theorem State.setTable_atomTag (s : State) (v b : Nat) (t : Table) : (s.setTable v b t).atomTag = s.atomTag := by dsimp only [State.setTable]
@[simp] theorem State.setTable_falls (s : State) (v b : Nat) (t : Table) : (s.setTable v b t).falls = s.falls := by dsimp only [State.setTable]
@[simp] theorem State.setTable_poolFree (s : State) (v b : Nat) (t : Table) : (s.setTable v b t).poolFree = s.poolFree := by dsimp only [State.setTable]
@[simp] theorem State.setTable_rsvFree (s : State) (v b : Nat) (t : Table) : (s.setTable v b t).rsvFree = s.rsvFree := by dsimp only [State.setTable]
@[simp] theorem State.setTable_rsvLow (s : State) (v b : Nat) (t : Table) : (s.setTable v b t).rsvLow = s.rsvLow := by dsimp only [State.setTable]
@[simp] theorem State.setTable_rounds (s : State) (v b : Nat) (t : Table) : (s.setTable v b t).rounds = s.rounds := by dsimp only [State.setTable]
@[simp] theorem State.setTable_frames (s : State) (v b : Nat) (t : Table) : (s.setTable v b t).frames = s.frames := by dsimp only [State.setTable]
@[simp] theorem State.setTable_tlb (s : State) (v b : Nat) (t : Table) : (s.setTable v b t).tlb = s.tlb := by dsimp only [State.setTable]
@[simp] theorem State.setTable_who (s : State) (v b : Nat) (t : Table) : (s.setTable v b t).who = s.who := by dsimp only [State.setTable]
@[simp] theorem State.setTable_invs (s : State) (v b : Nat) (t : Table) : (s.setTable v b t).invs = s.invs := by dsimp only [State.setTable]
@[simp] theorem State.setTable_discards (s : State) (v b : Nat) (t : Table) : (s.setTable v b t).discards = s.discards := by dsimp only [State.setTable]
@[simp] theorem State.setTable_coh (s : State) (v b : Nat) (t : Table) : (s.setTable v b t).coh = s.coh := by dsimp only [State.setTable]
@[simp] theorem State.setTable_ports (s : State) (v b : Nat) (t : Table) : (s.setTable v b t).ports = s.ports := by dsimp only [State.setTable]
@[simp] theorem State.setTable_sess (s : State) (v b : Nat) (t : Table) : (s.setTable v b t).sess = s.sess := by dsimp only [State.setTable]
@[simp] theorem State.setTable_peers (s : State) (v b : Nat) (t : Table) : (s.setTable v b t).peers = s.peers := by dsimp only [State.setTable]
@[simp] theorem State.setTable_tdisp (s : State) (v b : Nat) (t : Table) : (s.setTable v b t).tdisp = s.tdisp := by dsimp only [State.setTable]
@[simp] theorem State.setTable_doe (s : State) (v b : Nat) (t : Table) : (s.setTable v b t).doe = s.doe := by dsimp only [State.setTable]
@[simp] theorem State.setTable_bel (s : State) (v b : Nat) (t : Table) : (s.setTable v b t).bel = s.bel := by dsimp only [State.setTable]

/-! State.useFresh -/

@[simp] theorem State.useFresh_clock (s : State) : (s.useFresh).clock = s.clock := by dsimp only [State.useFresh]
@[simp] theorem State.useFresh_time (s : State) : (s.useFresh).time = s.time := by dsimp only [State.useFresh]
@[simp] theorem State.useFresh_cur (s : State) : (s.useFresh).cur = s.cur := by dsimp only [State.useFresh]
@[simp] theorem State.useFresh_picked (s : State) : (s.useFresh).picked = s.picked := by dsimp only [State.useFresh]
@[simp] theorem State.useFresh_agenda (s : State) : (s.useFresh).agenda = s.agenda := by dsimp only [State.useFresh]
@[simp] theorem State.useFresh_deferred (s : State) : (s.useFresh).deferred = s.deferred := by dsimp only [State.useFresh]
@[simp] theorem State.useFresh_inp (s : State) : (s.useFresh).inp = s.inp := by dsimp only [State.useFresh]
@[simp] theorem State.useFresh_order (s : State) : (s.useFresh).order = s.order := by dsimp only [State.useFresh]
@[simp] theorem State.useFresh_teams (s : State) : (s.useFresh).teams = s.teams := by dsimp only [State.useFresh]
@[simp] theorem State.useFresh_blocks (s : State) : (s.useFresh).blocks = s.blocks := by dsimp only [State.useFresh]
@[simp] theorem State.useFresh_jobs (s : State) : (s.useFresh).jobs = s.jobs := by dsimp only [State.useFresh]
@[simp] theorem State.useFresh_orders (s : State) : (s.useFresh).orders = s.orders := by dsimp only [State.useFresh]
@[simp] theorem State.useFresh_cm (s : State) : (s.useFresh).cm = s.cm := by dsimp only [State.useFresh]
@[simp] theorem State.useFresh_cmBad (s : State) : (s.useFresh).cmBad = s.cmBad := by dsimp only [State.useFresh]
@[simp] theorem State.useFresh_mem (s : State) : (s.useFresh).mem = s.mem := by dsimp only [State.useFresh]
@[simp] theorem State.useFresh_blk (s : State) : (s.useFresh).blk = s.blk := by dsimp only [State.useFresh]
@[simp] theorem State.useFresh_sysmem (s : State) : (s.useFresh).sysmem = s.sysmem := by dsimp only [State.useFresh]
@[simp] theorem State.useFresh_regs (s : State) : (s.useFresh).regs = s.regs := by dsimp only [State.useFresh]
@[simp] theorem State.useFresh_tails (s : State) : (s.useFresh).tails = s.tails := by dsimp only [State.useFresh]
@[simp] theorem State.useFresh_feLines (s : State) : (s.useFresh).feLines = s.feLines := by dsimp only [State.useFresh]
@[simp] theorem State.useFresh_feFail (s : State) : (s.useFresh).feFail = s.feFail := by dsimp only [State.useFresh]
@[simp] theorem State.useFresh_reports (s : State) : (s.useFresh).reports = s.reports := by dsimp only [State.useFresh]
@[simp] theorem State.useFresh_faults (s : State) : (s.useFresh).faults = s.faults := by dsimp only [State.useFresh]
@[simp] theorem State.useFresh_replies (s : State) : (s.useFresh).replies = s.replies := by dsimp only [State.useFresh]
@[simp] theorem State.useFresh_reserved (s : State) : (s.useFresh).reserved = s.reserved := by dsimp only [State.useFresh]
@[simp] theorem State.useFresh_rcache (s : State) : (s.useFresh).rcache = s.rcache := by dsimp only [State.useFresh]
@[simp] theorem State.useFresh_batches (s : State) : (s.useFresh).batches = s.batches := by dsimp only [State.useFresh]
@[simp] theorem State.useFresh_verdicts (s : State) : (s.useFresh).verdicts = s.verdicts := by dsimp only [State.useFresh]
@[simp] theorem State.useFresh_tables (s : State) : (s.useFresh).tables = s.tables := by dsimp only [State.useFresh]
@[simp] theorem State.useFresh_spireRot (s : State) : (s.useFresh).spireRot = s.spireRot := by dsimp only [State.useFresh]
@[simp] theorem State.useFresh_copies (s : State) : (s.useFresh).copies = s.copies := by dsimp only [State.useFresh]
@[simp] theorem State.useFresh_promise (s : State) : (s.useFresh).promise = s.promise := by dsimp only [State.useFresh]
@[simp] theorem State.useFresh_queues (s : State) : (s.useFresh).queues = s.queues := by dsimp only [State.useFresh]
@[simp] theorem State.useFresh_qreqs (s : State) : (s.useFresh).qreqs = s.qreqs := by dsimp only [State.useFresh]
@[simp] theorem State.useFresh_deposits (s : State) : (s.useFresh).deposits = s.deposits := by dsimp only [State.useFresh]
@[simp] theorem State.useFresh_groups (s : State) : (s.useFresh).groups = s.groups := by dsimp only [State.useFresh]
@[simp] theorem State.useFresh_posts (s : State) : (s.useFresh).posts = s.posts := by dsimp only [State.useFresh]
@[simp] theorem State.useFresh_appends (s : State) : (s.useFresh).appends = s.appends := by dsimp only [State.useFresh]
@[simp] theorem State.useFresh_watches (s : State) : (s.useFresh).watches = s.watches := by dsimp only [State.useFresh]
@[simp] theorem State.useFresh_arrays (s : State) : (s.useFresh).arrays = s.arrays := by dsimp only [State.useFresh]
@[simp] theorem State.useFresh_clusters (s : State) : (s.useFresh).clusters = s.clusters := by dsimp only [State.useFresh]
@[simp] theorem State.useFresh_fePrev (s : State) : (s.useFresh).fePrev = s.fePrev := by dsimp only [State.useFresh]
@[simp] theorem State.useFresh_held (s : State) : (s.useFresh).held = s.held := by dsimp only [State.useFresh]
@[simp] theorem State.useFresh_atoms (s : State) : (s.useFresh).atoms = s.atoms := by dsimp only [State.useFresh]
@[simp] theorem State.useFresh_atomTag (s : State) : (s.useFresh).atomTag = s.atomTag := by dsimp only [State.useFresh]
@[simp] theorem State.useFresh_falls (s : State) : (s.useFresh).falls = s.falls := by dsimp only [State.useFresh]
@[simp] theorem State.useFresh_poolFree (s : State) : (s.useFresh).poolFree = s.poolFree := by dsimp only [State.useFresh]
@[simp] theorem State.useFresh_rsvFree (s : State) : (s.useFresh).rsvFree = s.rsvFree := by dsimp only [State.useFresh]
@[simp] theorem State.useFresh_rsvLow (s : State) : (s.useFresh).rsvLow = s.rsvLow := by dsimp only [State.useFresh]
@[simp] theorem State.useFresh_rounds (s : State) : (s.useFresh).rounds = s.rounds := by dsimp only [State.useFresh]
@[simp] theorem State.useFresh_frames (s : State) : (s.useFresh).frames = s.frames := by dsimp only [State.useFresh]
@[simp] theorem State.useFresh_tlb (s : State) : (s.useFresh).tlb = s.tlb := by dsimp only [State.useFresh]
@[simp] theorem State.useFresh_who (s : State) : (s.useFresh).who = s.who := by dsimp only [State.useFresh]
@[simp] theorem State.useFresh_invs (s : State) : (s.useFresh).invs = s.invs := by dsimp only [State.useFresh]
@[simp] theorem State.useFresh_discards (s : State) : (s.useFresh).discards = s.discards := by dsimp only [State.useFresh]
@[simp] theorem State.useFresh_coh (s : State) : (s.useFresh).coh = s.coh := by dsimp only [State.useFresh]
@[simp] theorem State.useFresh_ports (s : State) : (s.useFresh).ports = s.ports := by dsimp only [State.useFresh]
@[simp] theorem State.useFresh_sess (s : State) : (s.useFresh).sess = s.sess := by dsimp only [State.useFresh]
@[simp] theorem State.useFresh_peers (s : State) : (s.useFresh).peers = s.peers := by dsimp only [State.useFresh]
@[simp] theorem State.useFresh_tdisp (s : State) : (s.useFresh).tdisp = s.tdisp := by dsimp only [State.useFresh]
@[simp] theorem State.useFresh_doe (s : State) : (s.useFresh).doe = s.doe := by dsimp only [State.useFresh]
@[simp] theorem State.useFresh_bel (s : State) : (s.useFresh).bel = s.bel := by dsimp only [State.useFresh]

/-! State.park -/

@[simp] theorem State.park_clock (s : State) (i : Nat) (c : Cause) (a : W64) : (s.park i c a).clock = s.clock := by dsimp only [State.park, State.setTeam]
@[simp] theorem State.park_time (s : State) (i : Nat) (c : Cause) (a : W64) : (s.park i c a).time = s.time := by dsimp only [State.park, State.setTeam]
@[simp] theorem State.park_cur (s : State) (i : Nat) (c : Cause) (a : W64) : (s.park i c a).cur = s.cur := by dsimp only [State.park, State.setTeam]
@[simp] theorem State.park_picked (s : State) (i : Nat) (c : Cause) (a : W64) : (s.park i c a).picked = s.picked := by dsimp only [State.park, State.setTeam]
@[simp] theorem State.park_agenda (s : State) (i : Nat) (c : Cause) (a : W64) : (s.park i c a).agenda = s.agenda := by dsimp only [State.park, State.setTeam]
@[simp] theorem State.park_deferred (s : State) (i : Nat) (c : Cause) (a : W64) : (s.park i c a).deferred = s.deferred := by dsimp only [State.park, State.setTeam]
@[simp] theorem State.park_inp (s : State) (i : Nat) (c : Cause) (a : W64) : (s.park i c a).inp = s.inp := by dsimp only [State.park, State.setTeam]
@[simp] theorem State.park_order (s : State) (i : Nat) (c : Cause) (a : W64) : (s.park i c a).order = s.order := by dsimp only [State.park, State.setTeam]
@[simp] theorem State.park_fresh (s : State) (i : Nat) (c : Cause) (a : W64) : (s.park i c a).fresh = s.fresh := by dsimp only [State.park, State.setTeam]
@[simp] theorem State.park_blocks (s : State) (i : Nat) (c : Cause) (a : W64) : (s.park i c a).blocks = s.blocks := by dsimp only [State.park, State.setTeam]
@[simp] theorem State.park_jobs (s : State) (i : Nat) (c : Cause) (a : W64) : (s.park i c a).jobs = s.jobs := by dsimp only [State.park, State.setTeam]
@[simp] theorem State.park_orders (s : State) (i : Nat) (c : Cause) (a : W64) : (s.park i c a).orders = s.orders := by dsimp only [State.park, State.setTeam]
@[simp] theorem State.park_cm (s : State) (i : Nat) (c : Cause) (a : W64) : (s.park i c a).cm = s.cm := by dsimp only [State.park, State.setTeam]
@[simp] theorem State.park_cmBad (s : State) (i : Nat) (c : Cause) (a : W64) : (s.park i c a).cmBad = s.cmBad := by dsimp only [State.park, State.setTeam]
@[simp] theorem State.park_mem (s : State) (i : Nat) (c : Cause) (a : W64) : (s.park i c a).mem = s.mem := by dsimp only [State.park, State.setTeam]
@[simp] theorem State.park_blk (s : State) (i : Nat) (c : Cause) (a : W64) : (s.park i c a).blk = s.blk := by dsimp only [State.park, State.setTeam]
@[simp] theorem State.park_sysmem (s : State) (i : Nat) (c : Cause) (a : W64) : (s.park i c a).sysmem = s.sysmem := by dsimp only [State.park, State.setTeam]
@[simp] theorem State.park_regs (s : State) (i : Nat) (c : Cause) (a : W64) : (s.park i c a).regs = s.regs := by dsimp only [State.park, State.setTeam]
@[simp] theorem State.park_tails (s : State) (i : Nat) (c : Cause) (a : W64) : (s.park i c a).tails = s.tails := by dsimp only [State.park, State.setTeam]
@[simp] theorem State.park_feLines (s : State) (i : Nat) (c : Cause) (a : W64) : (s.park i c a).feLines = s.feLines := by dsimp only [State.park, State.setTeam]
@[simp] theorem State.park_feFail (s : State) (i : Nat) (c : Cause) (a : W64) : (s.park i c a).feFail = s.feFail := by dsimp only [State.park, State.setTeam]
@[simp] theorem State.park_reports (s : State) (i : Nat) (c : Cause) (a : W64) : (s.park i c a).reports = s.reports := by dsimp only [State.park, State.setTeam]
@[simp] theorem State.park_faults (s : State) (i : Nat) (c : Cause) (a : W64) : (s.park i c a).faults = s.faults := by dsimp only [State.park, State.setTeam]
@[simp] theorem State.park_replies (s : State) (i : Nat) (c : Cause) (a : W64) : (s.park i c a).replies = s.replies := by dsimp only [State.park, State.setTeam]
@[simp] theorem State.park_reserved (s : State) (i : Nat) (c : Cause) (a : W64) : (s.park i c a).reserved = s.reserved := by dsimp only [State.park, State.setTeam]
@[simp] theorem State.park_rcache (s : State) (i : Nat) (c : Cause) (a : W64) : (s.park i c a).rcache = s.rcache := by dsimp only [State.park, State.setTeam]
@[simp] theorem State.park_batches (s : State) (i : Nat) (c : Cause) (a : W64) : (s.park i c a).batches = s.batches := by dsimp only [State.park, State.setTeam]
@[simp] theorem State.park_verdicts (s : State) (i : Nat) (c : Cause) (a : W64) : (s.park i c a).verdicts = s.verdicts := by dsimp only [State.park, State.setTeam]
@[simp] theorem State.park_tables (s : State) (i : Nat) (c : Cause) (a : W64) : (s.park i c a).tables = s.tables := by dsimp only [State.park, State.setTeam]
@[simp] theorem State.park_spireRot (s : State) (i : Nat) (c : Cause) (a : W64) : (s.park i c a).spireRot = s.spireRot := by dsimp only [State.park, State.setTeam]
@[simp] theorem State.park_copies (s : State) (i : Nat) (c : Cause) (a : W64) : (s.park i c a).copies = s.copies := by dsimp only [State.park, State.setTeam]
@[simp] theorem State.park_promise (s : State) (i : Nat) (c : Cause) (a : W64) : (s.park i c a).promise = s.promise := by dsimp only [State.park, State.setTeam]
@[simp] theorem State.park_queues (s : State) (i : Nat) (c : Cause) (a : W64) : (s.park i c a).queues = s.queues := by dsimp only [State.park, State.setTeam]
@[simp] theorem State.park_qreqs (s : State) (i : Nat) (c : Cause) (a : W64) : (s.park i c a).qreqs = s.qreqs := by dsimp only [State.park, State.setTeam]
@[simp] theorem State.park_deposits (s : State) (i : Nat) (c : Cause) (a : W64) : (s.park i c a).deposits = s.deposits := by dsimp only [State.park, State.setTeam]
@[simp] theorem State.park_groups (s : State) (i : Nat) (c : Cause) (a : W64) : (s.park i c a).groups = s.groups := by dsimp only [State.park, State.setTeam]
@[simp] theorem State.park_posts (s : State) (i : Nat) (c : Cause) (a : W64) : (s.park i c a).posts = s.posts := by dsimp only [State.park, State.setTeam]
@[simp] theorem State.park_appends (s : State) (i : Nat) (c : Cause) (a : W64) : (s.park i c a).appends = s.appends := by dsimp only [State.park, State.setTeam]
@[simp] theorem State.park_watches (s : State) (i : Nat) (c : Cause) (a : W64) : (s.park i c a).watches = s.watches := by dsimp only [State.park, State.setTeam]
@[simp] theorem State.park_arrays (s : State) (i : Nat) (c : Cause) (a : W64) : (s.park i c a).arrays = s.arrays := by dsimp only [State.park, State.setTeam]
@[simp] theorem State.park_clusters (s : State) (i : Nat) (c : Cause) (a : W64) : (s.park i c a).clusters = s.clusters := by dsimp only [State.park, State.setTeam]
@[simp] theorem State.park_fePrev (s : State) (i : Nat) (c : Cause) (a : W64) : (s.park i c a).fePrev = s.fePrev := by dsimp only [State.park, State.setTeam]
@[simp] theorem State.park_held (s : State) (i : Nat) (c : Cause) (a : W64) : (s.park i c a).held = s.held := by dsimp only [State.park, State.setTeam]
@[simp] theorem State.park_atoms (s : State) (i : Nat) (c : Cause) (a : W64) : (s.park i c a).atoms = s.atoms := by dsimp only [State.park, State.setTeam]
@[simp] theorem State.park_atomTag (s : State) (i : Nat) (c : Cause) (a : W64) : (s.park i c a).atomTag = s.atomTag := by dsimp only [State.park, State.setTeam]
@[simp] theorem State.park_falls (s : State) (i : Nat) (c : Cause) (a : W64) : (s.park i c a).falls = s.falls := by dsimp only [State.park, State.setTeam]
@[simp] theorem State.park_poolFree (s : State) (i : Nat) (c : Cause) (a : W64) : (s.park i c a).poolFree = s.poolFree := by dsimp only [State.park, State.setTeam]
@[simp] theorem State.park_rsvFree (s : State) (i : Nat) (c : Cause) (a : W64) : (s.park i c a).rsvFree = s.rsvFree := by dsimp only [State.park, State.setTeam]
@[simp] theorem State.park_rsvLow (s : State) (i : Nat) (c : Cause) (a : W64) : (s.park i c a).rsvLow = s.rsvLow := by dsimp only [State.park, State.setTeam]
@[simp] theorem State.park_rounds (s : State) (i : Nat) (c : Cause) (a : W64) : (s.park i c a).rounds = s.rounds := by dsimp only [State.park, State.setTeam]
@[simp] theorem State.park_frames (s : State) (i : Nat) (c : Cause) (a : W64) : (s.park i c a).frames = s.frames := by dsimp only [State.park, State.setTeam]
@[simp] theorem State.park_tlb (s : State) (i : Nat) (c : Cause) (a : W64) : (s.park i c a).tlb = s.tlb := by dsimp only [State.park, State.setTeam]
@[simp] theorem State.park_who (s : State) (i : Nat) (c : Cause) (a : W64) : (s.park i c a).who = s.who := by dsimp only [State.park, State.setTeam]
@[simp] theorem State.park_invs (s : State) (i : Nat) (c : Cause) (a : W64) : (s.park i c a).invs = s.invs := by dsimp only [State.park, State.setTeam]
@[simp] theorem State.park_discards (s : State) (i : Nat) (c : Cause) (a : W64) : (s.park i c a).discards = s.discards := by dsimp only [State.park, State.setTeam]
@[simp] theorem State.park_coh (s : State) (i : Nat) (c : Cause) (a : W64) : (s.park i c a).coh = s.coh := by dsimp only [State.park, State.setTeam]
@[simp] theorem State.park_ports (s : State) (i : Nat) (c : Cause) (a : W64) : (s.park i c a).ports = s.ports := by dsimp only [State.park, State.setTeam]
@[simp] theorem State.park_sess (s : State) (i : Nat) (c : Cause) (a : W64) : (s.park i c a).sess = s.sess := by dsimp only [State.park, State.setTeam]
@[simp] theorem State.park_peers (s : State) (i : Nat) (c : Cause) (a : W64) : (s.park i c a).peers = s.peers := by dsimp only [State.park, State.setTeam]
@[simp] theorem State.park_tdisp (s : State) (i : Nat) (c : Cause) (a : W64) : (s.park i c a).tdisp = s.tdisp := by dsimp only [State.park, State.setTeam]
@[simp] theorem State.park_doe (s : State) (i : Nat) (c : Cause) (a : W64) : (s.park i c a).doe = s.doe := by dsimp only [State.park, State.setTeam]
@[simp] theorem State.park_bel (s : State) (i : Nat) (c : Cause) (a : W64) : (s.park i c a).bel = s.bel := by dsimp only [State.park, State.setTeam]

/-! State.issued -/

@[simp] theorem State.issued_clock (s : State) (i : Ins) (t : Team) : (s.issued i t).clock = s.clock := by dsimp only [State.issued, State.setTeam]
@[simp] theorem State.issued_time (s : State) (i : Ins) (t : Team) : (s.issued i t).time = s.time := by dsimp only [State.issued, State.setTeam]
@[simp] theorem State.issued_cur (s : State) (i : Ins) (t : Team) : (s.issued i t).cur = s.cur := by dsimp only [State.issued, State.setTeam]
@[simp] theorem State.issued_picked (s : State) (i : Ins) (t : Team) : (s.issued i t).picked = s.picked := by dsimp only [State.issued, State.setTeam]
@[simp] theorem State.issued_agenda (s : State) (i : Ins) (t : Team) : (s.issued i t).agenda = s.agenda := by dsimp only [State.issued, State.setTeam]
@[simp] theorem State.issued_deferred (s : State) (i : Ins) (t : Team) : (s.issued i t).deferred = s.deferred := by dsimp only [State.issued, State.setTeam]
@[simp] theorem State.issued_inp (s : State) (i : Ins) (t : Team) : (s.issued i t).inp = s.inp := by dsimp only [State.issued, State.setTeam]
@[simp] theorem State.issued_order (s : State) (i : Ins) (t : Team) : (s.issued i t).order = s.order := by dsimp only [State.issued, State.setTeam]
@[simp] theorem State.issued_fresh (s : State) (i : Ins) (t : Team) : (s.issued i t).fresh = s.fresh := by dsimp only [State.issued, State.setTeam]
@[simp] theorem State.issued_blocks (s : State) (i : Ins) (t : Team) : (s.issued i t).blocks = s.blocks := by dsimp only [State.issued, State.setTeam]
@[simp] theorem State.issued_jobs (s : State) (i : Ins) (t : Team) : (s.issued i t).jobs = s.jobs := by dsimp only [State.issued, State.setTeam]
@[simp] theorem State.issued_orders (s : State) (i : Ins) (t : Team) : (s.issued i t).orders = s.orders := by dsimp only [State.issued, State.setTeam]
@[simp] theorem State.issued_cm (s : State) (i : Ins) (t : Team) : (s.issued i t).cm = s.cm := by dsimp only [State.issued, State.setTeam]
@[simp] theorem State.issued_cmBad (s : State) (i : Ins) (t : Team) : (s.issued i t).cmBad = s.cmBad := by dsimp only [State.issued, State.setTeam]
@[simp] theorem State.issued_mem (s : State) (i : Ins) (t : Team) : (s.issued i t).mem = s.mem := by dsimp only [State.issued, State.setTeam]
@[simp] theorem State.issued_blk (s : State) (i : Ins) (t : Team) : (s.issued i t).blk = s.blk := by dsimp only [State.issued, State.setTeam]
@[simp] theorem State.issued_sysmem (s : State) (i : Ins) (t : Team) : (s.issued i t).sysmem = s.sysmem := by dsimp only [State.issued, State.setTeam]
@[simp] theorem State.issued_regs (s : State) (i : Ins) (t : Team) : (s.issued i t).regs = s.regs := by dsimp only [State.issued, State.setTeam]
@[simp] theorem State.issued_tails (s : State) (i : Ins) (t : Team) : (s.issued i t).tails = s.tails := by dsimp only [State.issued, State.setTeam]
@[simp] theorem State.issued_feLines (s : State) (i : Ins) (t : Team) : (s.issued i t).feLines = s.feLines := by dsimp only [State.issued, State.setTeam]
@[simp] theorem State.issued_feFail (s : State) (i : Ins) (t : Team) : (s.issued i t).feFail = s.feFail := by dsimp only [State.issued, State.setTeam]
@[simp] theorem State.issued_reports (s : State) (i : Ins) (t : Team) : (s.issued i t).reports = s.reports := by dsimp only [State.issued, State.setTeam]
@[simp] theorem State.issued_faults (s : State) (i : Ins) (t : Team) : (s.issued i t).faults = s.faults := by dsimp only [State.issued, State.setTeam]
@[simp] theorem State.issued_replies (s : State) (i : Ins) (t : Team) : (s.issued i t).replies = s.replies := by dsimp only [State.issued, State.setTeam]
@[simp] theorem State.issued_reserved (s : State) (i : Ins) (t : Team) : (s.issued i t).reserved = s.reserved := by dsimp only [State.issued, State.setTeam]
@[simp] theorem State.issued_rcache (s : State) (i : Ins) (t : Team) : (s.issued i t).rcache = s.rcache := by dsimp only [State.issued, State.setTeam]
@[simp] theorem State.issued_batches (s : State) (i : Ins) (t : Team) : (s.issued i t).batches = s.batches := by dsimp only [State.issued, State.setTeam]
@[simp] theorem State.issued_verdicts (s : State) (i : Ins) (t : Team) : (s.issued i t).verdicts = s.verdicts := by dsimp only [State.issued, State.setTeam]
@[simp] theorem State.issued_tables (s : State) (i : Ins) (t : Team) : (s.issued i t).tables = s.tables := by dsimp only [State.issued, State.setTeam]
@[simp] theorem State.issued_spireRot (s : State) (i : Ins) (t : Team) : (s.issued i t).spireRot = s.spireRot := by dsimp only [State.issued, State.setTeam]
@[simp] theorem State.issued_copies (s : State) (i : Ins) (t : Team) : (s.issued i t).copies = s.copies := by dsimp only [State.issued, State.setTeam]
@[simp] theorem State.issued_promise (s : State) (i : Ins) (t : Team) : (s.issued i t).promise = s.promise := by dsimp only [State.issued, State.setTeam]
@[simp] theorem State.issued_queues (s : State) (i : Ins) (t : Team) : (s.issued i t).queues = s.queues := by dsimp only [State.issued, State.setTeam]
@[simp] theorem State.issued_qreqs (s : State) (i : Ins) (t : Team) : (s.issued i t).qreqs = s.qreqs := by dsimp only [State.issued, State.setTeam]
@[simp] theorem State.issued_deposits (s : State) (i : Ins) (t : Team) : (s.issued i t).deposits = s.deposits := by dsimp only [State.issued, State.setTeam]
@[simp] theorem State.issued_groups (s : State) (i : Ins) (t : Team) : (s.issued i t).groups = s.groups := by dsimp only [State.issued, State.setTeam]
@[simp] theorem State.issued_posts (s : State) (i : Ins) (t : Team) : (s.issued i t).posts = s.posts := by dsimp only [State.issued, State.setTeam]
@[simp] theorem State.issued_appends (s : State) (i : Ins) (t : Team) : (s.issued i t).appends = s.appends := by dsimp only [State.issued, State.setTeam]
@[simp] theorem State.issued_watches (s : State) (i : Ins) (t : Team) : (s.issued i t).watches = s.watches := by dsimp only [State.issued, State.setTeam]
@[simp] theorem State.issued_arrays (s : State) (i : Ins) (t : Team) : (s.issued i t).arrays = s.arrays := by dsimp only [State.issued, State.setTeam]
@[simp] theorem State.issued_clusters (s : State) (i : Ins) (t : Team) : (s.issued i t).clusters = s.clusters := by dsimp only [State.issued, State.setTeam]
@[simp] theorem State.issued_fePrev (s : State) (i : Ins) (t : Team) : (s.issued i t).fePrev = s.fePrev := by dsimp only [State.issued, State.setTeam]
@[simp] theorem State.issued_held (s : State) (i : Ins) (t : Team) : (s.issued i t).held = s.held := by dsimp only [State.issued, State.setTeam]
@[simp] theorem State.issued_atoms (s : State) (i : Ins) (t : Team) : (s.issued i t).atoms = s.atoms := by dsimp only [State.issued, State.setTeam]
@[simp] theorem State.issued_atomTag (s : State) (i : Ins) (t : Team) : (s.issued i t).atomTag = s.atomTag := by dsimp only [State.issued, State.setTeam]
@[simp] theorem State.issued_falls (s : State) (i : Ins) (t : Team) : (s.issued i t).falls = s.falls := by dsimp only [State.issued, State.setTeam]
@[simp] theorem State.issued_poolFree (s : State) (i : Ins) (t : Team) : (s.issued i t).poolFree = s.poolFree := by dsimp only [State.issued, State.setTeam]
@[simp] theorem State.issued_rsvFree (s : State) (i : Ins) (t : Team) : (s.issued i t).rsvFree = s.rsvFree := by dsimp only [State.issued, State.setTeam]
@[simp] theorem State.issued_rsvLow (s : State) (i : Ins) (t : Team) : (s.issued i t).rsvLow = s.rsvLow := by dsimp only [State.issued, State.setTeam]
@[simp] theorem State.issued_rounds (s : State) (i : Ins) (t : Team) : (s.issued i t).rounds = s.rounds := by dsimp only [State.issued, State.setTeam]
@[simp] theorem State.issued_frames (s : State) (i : Ins) (t : Team) : (s.issued i t).frames = s.frames := by dsimp only [State.issued, State.setTeam]
@[simp] theorem State.issued_tlb (s : State) (i : Ins) (t : Team) : (s.issued i t).tlb = s.tlb := by dsimp only [State.issued, State.setTeam]
@[simp] theorem State.issued_who (s : State) (i : Ins) (t : Team) : (s.issued i t).who = s.who := by dsimp only [State.issued, State.setTeam]
@[simp] theorem State.issued_invs (s : State) (i : Ins) (t : Team) : (s.issued i t).invs = s.invs := by dsimp only [State.issued, State.setTeam]
@[simp] theorem State.issued_discards (s : State) (i : Ins) (t : Team) : (s.issued i t).discards = s.discards := by dsimp only [State.issued, State.setTeam]
@[simp] theorem State.issued_coh (s : State) (i : Ins) (t : Team) : (s.issued i t).coh = s.coh := by dsimp only [State.issued, State.setTeam]
@[simp] theorem State.issued_ports (s : State) (i : Ins) (t : Team) : (s.issued i t).ports = s.ports := by dsimp only [State.issued, State.setTeam]
@[simp] theorem State.issued_sess (s : State) (i : Ins) (t : Team) : (s.issued i t).sess = s.sess := by dsimp only [State.issued, State.setTeam]
@[simp] theorem State.issued_peers (s : State) (i : Ins) (t : Team) : (s.issued i t).peers = s.peers := by dsimp only [State.issued, State.setTeam]
@[simp] theorem State.issued_tdisp (s : State) (i : Ins) (t : Team) : (s.issued i t).tdisp = s.tdisp := by dsimp only [State.issued, State.setTeam]
@[simp] theorem State.issued_doe (s : State) (i : Ins) (t : Team) : (s.issued i t).doe = s.doe := by dsimp only [State.issued, State.setTeam]
@[simp] theorem State.issued_bel (s : State) (i : Ins) (t : Team) : (s.issued i t).bel = s.bel := by dsimp only [State.issued, State.setTeam]

/-! State.produce -/

@[simp] theorem State.produce_clock (s : State) (i : Ins) (t : Team) (m : List Ref) (d : List Dst) (k : Nat) : (s.produce i t m d k).clock = s.clock := by dsimp only [State.produce, State.issued, State.sendReply, State.setTeam]
@[simp] theorem State.produce_time (s : State) (i : Ins) (t : Team) (m : List Ref) (d : List Dst) (k : Nat) : (s.produce i t m d k).time = s.time := by dsimp only [State.produce, State.issued, State.sendReply, State.setTeam]
@[simp] theorem State.produce_cur (s : State) (i : Ins) (t : Team) (m : List Ref) (d : List Dst) (k : Nat) : (s.produce i t m d k).cur = s.cur := by dsimp only [State.produce, State.issued, State.sendReply, State.setTeam]
@[simp] theorem State.produce_picked (s : State) (i : Ins) (t : Team) (m : List Ref) (d : List Dst) (k : Nat) : (s.produce i t m d k).picked = s.picked := by dsimp only [State.produce, State.issued, State.sendReply, State.setTeam]
@[simp] theorem State.produce_agenda (s : State) (i : Ins) (t : Team) (m : List Ref) (d : List Dst) (k : Nat) : (s.produce i t m d k).agenda = s.agenda := by dsimp only [State.produce, State.issued, State.sendReply, State.setTeam]
@[simp] theorem State.produce_deferred (s : State) (i : Ins) (t : Team) (m : List Ref) (d : List Dst) (k : Nat) : (s.produce i t m d k).deferred = s.deferred := by dsimp only [State.produce, State.issued, State.sendReply, State.setTeam]
@[simp] theorem State.produce_inp (s : State) (i : Ins) (t : Team) (m : List Ref) (d : List Dst) (k : Nat) : (s.produce i t m d k).inp = s.inp := by dsimp only [State.produce, State.issued, State.sendReply, State.setTeam]
@[simp] theorem State.produce_order (s : State) (i : Ins) (t : Team) (m : List Ref) (d : List Dst) (k : Nat) : (s.produce i t m d k).order = s.order := by dsimp only [State.produce, State.issued, State.sendReply, State.setTeam]
@[simp] theorem State.produce_fresh (s : State) (i : Ins) (t : Team) (m : List Ref) (d : List Dst) (k : Nat) : (s.produce i t m d k).fresh = s.fresh := by dsimp only [State.produce, State.issued, State.sendReply, State.setTeam]
@[simp] theorem State.produce_blocks (s : State) (i : Ins) (t : Team) (m : List Ref) (d : List Dst) (k : Nat) : (s.produce i t m d k).blocks = s.blocks := by dsimp only [State.produce, State.issued, State.sendReply, State.setTeam]
@[simp] theorem State.produce_jobs (s : State) (i : Ins) (t : Team) (m : List Ref) (d : List Dst) (k : Nat) : (s.produce i t m d k).jobs = s.jobs := by dsimp only [State.produce, State.issued, State.sendReply, State.setTeam]
@[simp] theorem State.produce_orders (s : State) (i : Ins) (t : Team) (m : List Ref) (d : List Dst) (k : Nat) : (s.produce i t m d k).orders = s.orders := by dsimp only [State.produce, State.issued, State.sendReply, State.setTeam]
@[simp] theorem State.produce_cm (s : State) (i : Ins) (t : Team) (m : List Ref) (d : List Dst) (k : Nat) : (s.produce i t m d k).cm = s.cm := by dsimp only [State.produce, State.issued, State.sendReply, State.setTeam]
@[simp] theorem State.produce_cmBad (s : State) (i : Ins) (t : Team) (m : List Ref) (d : List Dst) (k : Nat) : (s.produce i t m d k).cmBad = s.cmBad := by dsimp only [State.produce, State.issued, State.sendReply, State.setTeam]
@[simp] theorem State.produce_mem (s : State) (i : Ins) (t : Team) (m : List Ref) (d : List Dst) (k : Nat) : (s.produce i t m d k).mem = s.mem := by dsimp only [State.produce, State.issued, State.sendReply, State.setTeam]
@[simp] theorem State.produce_blk (s : State) (i : Ins) (t : Team) (m : List Ref) (d : List Dst) (k : Nat) : (s.produce i t m d k).blk = s.blk := by dsimp only [State.produce, State.issued, State.sendReply, State.setTeam]
@[simp] theorem State.produce_sysmem (s : State) (i : Ins) (t : Team) (m : List Ref) (d : List Dst) (k : Nat) : (s.produce i t m d k).sysmem = s.sysmem := by dsimp only [State.produce, State.issued, State.sendReply, State.setTeam]
@[simp] theorem State.produce_regs (s : State) (i : Ins) (t : Team) (m : List Ref) (d : List Dst) (k : Nat) : (s.produce i t m d k).regs = s.regs := by dsimp only [State.produce, State.issued, State.sendReply, State.setTeam]
@[simp] theorem State.produce_tails (s : State) (i : Ins) (t : Team) (m : List Ref) (d : List Dst) (k : Nat) : (s.produce i t m d k).tails = s.tails := by dsimp only [State.produce, State.issued, State.sendReply, State.setTeam]
@[simp] theorem State.produce_feLines (s : State) (i : Ins) (t : Team) (m : List Ref) (d : List Dst) (k : Nat) : (s.produce i t m d k).feLines = s.feLines := by dsimp only [State.produce, State.issued, State.sendReply, State.setTeam]
@[simp] theorem State.produce_feFail (s : State) (i : Ins) (t : Team) (m : List Ref) (d : List Dst) (k : Nat) : (s.produce i t m d k).feFail = s.feFail := by dsimp only [State.produce, State.issued, State.sendReply, State.setTeam]
@[simp] theorem State.produce_reports (s : State) (i : Ins) (t : Team) (m : List Ref) (d : List Dst) (k : Nat) : (s.produce i t m d k).reports = s.reports := by dsimp only [State.produce, State.issued, State.sendReply, State.setTeam]
@[simp] theorem State.produce_faults (s : State) (i : Ins) (t : Team) (m : List Ref) (d : List Dst) (k : Nat) : (s.produce i t m d k).faults = s.faults := by dsimp only [State.produce, State.issued, State.sendReply, State.setTeam]
@[simp] theorem State.produce_reserved (s : State) (i : Ins) (t : Team) (m : List Ref) (d : List Dst) (k : Nat) : (s.produce i t m d k).reserved = s.reserved := by dsimp only [State.produce, State.issued, State.sendReply, State.setTeam]
@[simp] theorem State.produce_rcache (s : State) (i : Ins) (t : Team) (m : List Ref) (d : List Dst) (k : Nat) : (s.produce i t m d k).rcache = s.rcache := by dsimp only [State.produce, State.issued, State.sendReply, State.setTeam]
@[simp] theorem State.produce_batches (s : State) (i : Ins) (t : Team) (m : List Ref) (d : List Dst) (k : Nat) : (s.produce i t m d k).batches = s.batches := by dsimp only [State.produce, State.issued, State.sendReply, State.setTeam]
@[simp] theorem State.produce_verdicts (s : State) (i : Ins) (t : Team) (m : List Ref) (d : List Dst) (k : Nat) : (s.produce i t m d k).verdicts = s.verdicts := by dsimp only [State.produce, State.issued, State.sendReply, State.setTeam]
@[simp] theorem State.produce_tables (s : State) (i : Ins) (t : Team) (m : List Ref) (d : List Dst) (k : Nat) : (s.produce i t m d k).tables = s.tables := by dsimp only [State.produce, State.issued, State.sendReply, State.setTeam]
@[simp] theorem State.produce_spireRot (s : State) (i : Ins) (t : Team) (m : List Ref) (d : List Dst) (k : Nat) : (s.produce i t m d k).spireRot = s.spireRot := by dsimp only [State.produce, State.issued, State.sendReply, State.setTeam]
@[simp] theorem State.produce_copies (s : State) (i : Ins) (t : Team) (m : List Ref) (d : List Dst) (k : Nat) : (s.produce i t m d k).copies = s.copies := by dsimp only [State.produce, State.issued, State.sendReply, State.setTeam]
@[simp] theorem State.produce_promise (s : State) (i : Ins) (t : Team) (m : List Ref) (d : List Dst) (k : Nat) : (s.produce i t m d k).promise = s.promise := by dsimp only [State.produce, State.issued, State.sendReply, State.setTeam]
@[simp] theorem State.produce_queues (s : State) (i : Ins) (t : Team) (m : List Ref) (d : List Dst) (k : Nat) : (s.produce i t m d k).queues = s.queues := by dsimp only [State.produce, State.issued, State.sendReply, State.setTeam]
@[simp] theorem State.produce_qreqs (s : State) (i : Ins) (t : Team) (m : List Ref) (d : List Dst) (k : Nat) : (s.produce i t m d k).qreqs = s.qreqs := by dsimp only [State.produce, State.issued, State.sendReply, State.setTeam]
@[simp] theorem State.produce_deposits (s : State) (i : Ins) (t : Team) (m : List Ref) (d : List Dst) (k : Nat) : (s.produce i t m d k).deposits = s.deposits := by dsimp only [State.produce, State.issued, State.sendReply, State.setTeam]
@[simp] theorem State.produce_groups (s : State) (i : Ins) (t : Team) (m : List Ref) (d : List Dst) (k : Nat) : (s.produce i t m d k).groups = s.groups := by dsimp only [State.produce, State.issued, State.sendReply, State.setTeam]
@[simp] theorem State.produce_posts (s : State) (i : Ins) (t : Team) (m : List Ref) (d : List Dst) (k : Nat) : (s.produce i t m d k).posts = s.posts := by dsimp only [State.produce, State.issued, State.sendReply, State.setTeam]
@[simp] theorem State.produce_appends (s : State) (i : Ins) (t : Team) (m : List Ref) (d : List Dst) (k : Nat) : (s.produce i t m d k).appends = s.appends := by dsimp only [State.produce, State.issued, State.sendReply, State.setTeam]
@[simp] theorem State.produce_watches (s : State) (i : Ins) (t : Team) (m : List Ref) (d : List Dst) (k : Nat) : (s.produce i t m d k).watches = s.watches := by dsimp only [State.produce, State.issued, State.sendReply, State.setTeam]
@[simp] theorem State.produce_arrays (s : State) (i : Ins) (t : Team) (m : List Ref) (d : List Dst) (k : Nat) : (s.produce i t m d k).arrays = s.arrays := by dsimp only [State.produce, State.issued, State.sendReply, State.setTeam]
@[simp] theorem State.produce_clusters (s : State) (i : Ins) (t : Team) (m : List Ref) (d : List Dst) (k : Nat) : (s.produce i t m d k).clusters = s.clusters := by dsimp only [State.produce, State.issued, State.sendReply, State.setTeam]
@[simp] theorem State.produce_fePrev (s : State) (i : Ins) (t : Team) (m : List Ref) (d : List Dst) (k : Nat) : (s.produce i t m d k).fePrev = s.fePrev := by dsimp only [State.produce, State.issued, State.sendReply, State.setTeam]
@[simp] theorem State.produce_held (s : State) (i : Ins) (t : Team) (m : List Ref) (d : List Dst) (k : Nat) : (s.produce i t m d k).held = s.held := by dsimp only [State.produce, State.issued, State.sendReply, State.setTeam]
@[simp] theorem State.produce_atoms (s : State) (i : Ins) (t : Team) (m : List Ref) (d : List Dst) (k : Nat) : (s.produce i t m d k).atoms = s.atoms := by dsimp only [State.produce, State.issued, State.sendReply, State.setTeam]
@[simp] theorem State.produce_atomTag (s : State) (i : Ins) (t : Team) (m : List Ref) (d : List Dst) (k : Nat) : (s.produce i t m d k).atomTag = s.atomTag := by dsimp only [State.produce, State.issued, State.sendReply, State.setTeam]
@[simp] theorem State.produce_falls (s : State) (i : Ins) (t : Team) (m : List Ref) (d : List Dst) (k : Nat) : (s.produce i t m d k).falls = s.falls := by dsimp only [State.produce, State.issued, State.sendReply, State.setTeam]
@[simp] theorem State.produce_poolFree (s : State) (i : Ins) (t : Team) (m : List Ref) (d : List Dst) (k : Nat) : (s.produce i t m d k).poolFree = s.poolFree := by dsimp only [State.produce, State.issued, State.sendReply, State.setTeam]
@[simp] theorem State.produce_rsvFree (s : State) (i : Ins) (t : Team) (m : List Ref) (d : List Dst) (k : Nat) : (s.produce i t m d k).rsvFree = s.rsvFree := by dsimp only [State.produce, State.issued, State.sendReply, State.setTeam]
@[simp] theorem State.produce_rsvLow (s : State) (i : Ins) (t : Team) (m : List Ref) (d : List Dst) (k : Nat) : (s.produce i t m d k).rsvLow = s.rsvLow := by dsimp only [State.produce, State.issued, State.sendReply, State.setTeam]
@[simp] theorem State.produce_rounds (s : State) (i : Ins) (t : Team) (m : List Ref) (d : List Dst) (k : Nat) : (s.produce i t m d k).rounds = s.rounds := by dsimp only [State.produce, State.issued, State.sendReply, State.setTeam]
@[simp] theorem State.produce_frames (s : State) (i : Ins) (t : Team) (m : List Ref) (d : List Dst) (k : Nat) : (s.produce i t m d k).frames = s.frames := by dsimp only [State.produce, State.issued, State.sendReply, State.setTeam]
@[simp] theorem State.produce_tlb (s : State) (i : Ins) (t : Team) (m : List Ref) (d : List Dst) (k : Nat) : (s.produce i t m d k).tlb = s.tlb := by dsimp only [State.produce, State.issued, State.sendReply, State.setTeam]
@[simp] theorem State.produce_who (s : State) (i : Ins) (t : Team) (m : List Ref) (d : List Dst) (k : Nat) : (s.produce i t m d k).who = s.who := by dsimp only [State.produce, State.issued, State.sendReply, State.setTeam]
@[simp] theorem State.produce_invs (s : State) (i : Ins) (t : Team) (m : List Ref) (d : List Dst) (k : Nat) : (s.produce i t m d k).invs = s.invs := by dsimp only [State.produce, State.issued, State.sendReply, State.setTeam]
@[simp] theorem State.produce_discards (s : State) (i : Ins) (t : Team) (m : List Ref) (d : List Dst) (k : Nat) : (s.produce i t m d k).discards = s.discards := by dsimp only [State.produce, State.issued, State.sendReply, State.setTeam]
@[simp] theorem State.produce_coh (s : State) (i : Ins) (t : Team) (m : List Ref) (d : List Dst) (k : Nat) : (s.produce i t m d k).coh = s.coh := by dsimp only [State.produce, State.issued, State.sendReply, State.setTeam]
@[simp] theorem State.produce_ports (s : State) (i : Ins) (t : Team) (m : List Ref) (d : List Dst) (k : Nat) : (s.produce i t m d k).ports = s.ports := by dsimp only [State.produce, State.issued, State.sendReply, State.setTeam]
@[simp] theorem State.produce_sess (s : State) (i : Ins) (t : Team) (m : List Ref) (d : List Dst) (k : Nat) : (s.produce i t m d k).sess = s.sess := by dsimp only [State.produce, State.issued, State.sendReply, State.setTeam]
@[simp] theorem State.produce_peers (s : State) (i : Ins) (t : Team) (m : List Ref) (d : List Dst) (k : Nat) : (s.produce i t m d k).peers = s.peers := by dsimp only [State.produce, State.issued, State.sendReply, State.setTeam]
@[simp] theorem State.produce_tdisp (s : State) (i : Ins) (t : Team) (m : List Ref) (d : List Dst) (k : Nat) : (s.produce i t m d k).tdisp = s.tdisp := by dsimp only [State.produce, State.issued, State.sendReply, State.setTeam]
@[simp] theorem State.produce_doe (s : State) (i : Ins) (t : Team) (m : List Ref) (d : List Dst) (k : Nat) : (s.produce i t m d k).doe = s.doe := by dsimp only [State.produce, State.issued, State.sendReply, State.setTeam]
@[simp] theorem State.produce_bel (s : State) (i : Ins) (t : Team) (m : List Ref) (d : List Dst) (k : Nat) : (s.produce i t m d k).bel = s.bel := by dsimp only [State.produce, State.issued, State.sendReply, State.setTeam]

/-! State.answer -/

@[simp] theorem State.answer_clock (s : State) (k : Nat) (ws : List W64) : (s.answer k ws).clock = s.clock := by dsimp only [State.answer]
@[simp] theorem State.answer_time (s : State) (k : Nat) (ws : List W64) : (s.answer k ws).time = s.time := by dsimp only [State.answer]
@[simp] theorem State.answer_cur (s : State) (k : Nat) (ws : List W64) : (s.answer k ws).cur = s.cur := by dsimp only [State.answer]
@[simp] theorem State.answer_picked (s : State) (k : Nat) (ws : List W64) : (s.answer k ws).picked = s.picked := by dsimp only [State.answer]
@[simp] theorem State.answer_agenda (s : State) (k : Nat) (ws : List W64) : (s.answer k ws).agenda = s.agenda := by dsimp only [State.answer]
@[simp] theorem State.answer_deferred (s : State) (k : Nat) (ws : List W64) : (s.answer k ws).deferred = s.deferred := by dsimp only [State.answer]
@[simp] theorem State.answer_inp (s : State) (k : Nat) (ws : List W64) : (s.answer k ws).inp = s.inp := by dsimp only [State.answer]
@[simp] theorem State.answer_order (s : State) (k : Nat) (ws : List W64) : (s.answer k ws).order = s.order := by dsimp only [State.answer]
@[simp] theorem State.answer_fresh (s : State) (k : Nat) (ws : List W64) : (s.answer k ws).fresh = s.fresh := by dsimp only [State.answer]
@[simp] theorem State.answer_teams (s : State) (k : Nat) (ws : List W64) : (s.answer k ws).teams = s.teams := by dsimp only [State.answer]
@[simp] theorem State.answer_blocks (s : State) (k : Nat) (ws : List W64) : (s.answer k ws).blocks = s.blocks := by dsimp only [State.answer]
@[simp] theorem State.answer_jobs (s : State) (k : Nat) (ws : List W64) : (s.answer k ws).jobs = s.jobs := by dsimp only [State.answer]
@[simp] theorem State.answer_orders (s : State) (k : Nat) (ws : List W64) : (s.answer k ws).orders = s.orders := by dsimp only [State.answer]
@[simp] theorem State.answer_cm (s : State) (k : Nat) (ws : List W64) : (s.answer k ws).cm = s.cm := by dsimp only [State.answer]
@[simp] theorem State.answer_cmBad (s : State) (k : Nat) (ws : List W64) : (s.answer k ws).cmBad = s.cmBad := by dsimp only [State.answer]
@[simp] theorem State.answer_mem (s : State) (k : Nat) (ws : List W64) : (s.answer k ws).mem = s.mem := by dsimp only [State.answer]
@[simp] theorem State.answer_blk (s : State) (k : Nat) (ws : List W64) : (s.answer k ws).blk = s.blk := by dsimp only [State.answer]
@[simp] theorem State.answer_sysmem (s : State) (k : Nat) (ws : List W64) : (s.answer k ws).sysmem = s.sysmem := by dsimp only [State.answer]
@[simp] theorem State.answer_regs (s : State) (k : Nat) (ws : List W64) : (s.answer k ws).regs = s.regs := by dsimp only [State.answer]
@[simp] theorem State.answer_tails (s : State) (k : Nat) (ws : List W64) : (s.answer k ws).tails = s.tails := by dsimp only [State.answer]
@[simp] theorem State.answer_feLines (s : State) (k : Nat) (ws : List W64) : (s.answer k ws).feLines = s.feLines := by dsimp only [State.answer]
@[simp] theorem State.answer_feFail (s : State) (k : Nat) (ws : List W64) : (s.answer k ws).feFail = s.feFail := by dsimp only [State.answer]
@[simp] theorem State.answer_reports (s : State) (k : Nat) (ws : List W64) : (s.answer k ws).reports = s.reports := by dsimp only [State.answer]
@[simp] theorem State.answer_faults (s : State) (k : Nat) (ws : List W64) : (s.answer k ws).faults = s.faults := by dsimp only [State.answer]
@[simp] theorem State.answer_replies (s : State) (k : Nat) (ws : List W64) : (s.answer k ws).replies = s.replies := by dsimp only [State.answer]
@[simp] theorem State.answer_reserved (s : State) (k : Nat) (ws : List W64) : (s.answer k ws).reserved = s.reserved := by dsimp only [State.answer]
@[simp] theorem State.answer_rcache (s : State) (k : Nat) (ws : List W64) : (s.answer k ws).rcache = s.rcache := by dsimp only [State.answer]
@[simp] theorem State.answer_batches (s : State) (k : Nat) (ws : List W64) : (s.answer k ws).batches = s.batches := by dsimp only [State.answer]
@[simp] theorem State.answer_verdicts (s : State) (k : Nat) (ws : List W64) : (s.answer k ws).verdicts = s.verdicts := by dsimp only [State.answer]
@[simp] theorem State.answer_tables (s : State) (k : Nat) (ws : List W64) : (s.answer k ws).tables = s.tables := by dsimp only [State.answer]
@[simp] theorem State.answer_spireRot (s : State) (k : Nat) (ws : List W64) : (s.answer k ws).spireRot = s.spireRot := by dsimp only [State.answer]
@[simp] theorem State.answer_copies (s : State) (k : Nat) (ws : List W64) : (s.answer k ws).copies = s.copies := by dsimp only [State.answer]
@[simp] theorem State.answer_promise (s : State) (k : Nat) (ws : List W64) : (s.answer k ws).promise = s.promise := by dsimp only [State.answer]
@[simp] theorem State.answer_queues (s : State) (k : Nat) (ws : List W64) : (s.answer k ws).queues = s.queues := by dsimp only [State.answer]
@[simp] theorem State.answer_qreqs (s : State) (k : Nat) (ws : List W64) : (s.answer k ws).qreqs = s.qreqs := by dsimp only [State.answer]
@[simp] theorem State.answer_deposits (s : State) (k : Nat) (ws : List W64) : (s.answer k ws).deposits = s.deposits := by dsimp only [State.answer]
@[simp] theorem State.answer_groups (s : State) (k : Nat) (ws : List W64) : (s.answer k ws).groups = s.groups := by dsimp only [State.answer]
@[simp] theorem State.answer_posts (s : State) (k : Nat) (ws : List W64) : (s.answer k ws).posts = s.posts := by dsimp only [State.answer]
@[simp] theorem State.answer_appends (s : State) (k : Nat) (ws : List W64) : (s.answer k ws).appends = s.appends := by dsimp only [State.answer]
@[simp] theorem State.answer_watches (s : State) (k : Nat) (ws : List W64) : (s.answer k ws).watches = s.watches := by dsimp only [State.answer]
@[simp] theorem State.answer_arrays (s : State) (k : Nat) (ws : List W64) : (s.answer k ws).arrays = s.arrays := by dsimp only [State.answer]
@[simp] theorem State.answer_clusters (s : State) (k : Nat) (ws : List W64) : (s.answer k ws).clusters = s.clusters := by dsimp only [State.answer]
@[simp] theorem State.answer_fePrev (s : State) (k : Nat) (ws : List W64) : (s.answer k ws).fePrev = s.fePrev := by dsimp only [State.answer]
@[simp] theorem State.answer_held (s : State) (k : Nat) (ws : List W64) : (s.answer k ws).held = s.held := by dsimp only [State.answer]
@[simp] theorem State.answer_atoms (s : State) (k : Nat) (ws : List W64) : (s.answer k ws).atoms = s.atoms := by dsimp only [State.answer]
@[simp] theorem State.answer_atomTag (s : State) (k : Nat) (ws : List W64) : (s.answer k ws).atomTag = s.atomTag := by dsimp only [State.answer]
@[simp] theorem State.answer_falls (s : State) (k : Nat) (ws : List W64) : (s.answer k ws).falls = s.falls := by dsimp only [State.answer]
@[simp] theorem State.answer_poolFree (s : State) (k : Nat) (ws : List W64) : (s.answer k ws).poolFree = s.poolFree := by dsimp only [State.answer]
@[simp] theorem State.answer_rsvFree (s : State) (k : Nat) (ws : List W64) : (s.answer k ws).rsvFree = s.rsvFree := by dsimp only [State.answer]
@[simp] theorem State.answer_rsvLow (s : State) (k : Nat) (ws : List W64) : (s.answer k ws).rsvLow = s.rsvLow := by dsimp only [State.answer]
@[simp] theorem State.answer_rounds (s : State) (k : Nat) (ws : List W64) : (s.answer k ws).rounds = s.rounds := by dsimp only [State.answer]
@[simp] theorem State.answer_frames (s : State) (k : Nat) (ws : List W64) : (s.answer k ws).frames = s.frames := by dsimp only [State.answer]
@[simp] theorem State.answer_tlb (s : State) (k : Nat) (ws : List W64) : (s.answer k ws).tlb = s.tlb := by dsimp only [State.answer]
@[simp] theorem State.answer_who (s : State) (k : Nat) (ws : List W64) : (s.answer k ws).who = s.who := by dsimp only [State.answer]
@[simp] theorem State.answer_invs (s : State) (k : Nat) (ws : List W64) : (s.answer k ws).invs = s.invs := by dsimp only [State.answer]
@[simp] theorem State.answer_discards (s : State) (k : Nat) (ws : List W64) : (s.answer k ws).discards = s.discards := by dsimp only [State.answer]
@[simp] theorem State.answer_coh (s : State) (k : Nat) (ws : List W64) : (s.answer k ws).coh = s.coh := by dsimp only [State.answer]
@[simp] theorem State.answer_ports (s : State) (k : Nat) (ws : List W64) : (s.answer k ws).ports = s.ports := by dsimp only [State.answer]
@[simp] theorem State.answer_sess (s : State) (k : Nat) (ws : List W64) : (s.answer k ws).sess = s.sess := by dsimp only [State.answer]
@[simp] theorem State.answer_peers (s : State) (k : Nat) (ws : List W64) : (s.answer k ws).peers = s.peers := by dsimp only [State.answer]
@[simp] theorem State.answer_tdisp (s : State) (k : Nat) (ws : List W64) : (s.answer k ws).tdisp = s.tdisp := by dsimp only [State.answer]
@[simp] theorem State.answer_bel (s : State) (k : Nat) (ws : List W64) : (s.answer k ws).bel = s.bel := by dsimp only [State.answer]

/-! Entries. -/

theorem State.team_setTeam (s : State) (i j : Nat) (x : Team) : (s.setTeam i x).team j = if j = i then x else s.team j := SMap.get_put _ _ _ _ _
@[simp] theorem State.team_setTeam_same (s : State) (i : Nat) (x : Team) : (s.setTeam i x).team i = x := by simp [State.team_setTeam]
theorem State.team_setTeam_ne (s : State) {i j : Nat} (x : Team) (h : j ≠ i) : (s.setTeam i x).team j = s.team j := by simp [State.team_setTeam, h]

theorem State.block_setBlock (s : State) (i j : Nat) (x : Block) : (s.setBlock i x).block j = if j = i then x else s.block j := SMap.get_put _ _ _ _ _
@[simp] theorem State.block_setBlock_same (s : State) (i : Nat) (x : Block) : (s.setBlock i x).block i = x := by simp [State.block_setBlock]
theorem State.block_setBlock_ne (s : State) {i j : Nat} (x : Block) (h : j ≠ i) : (s.setBlock i x).block j = s.block j := by simp [State.block_setBlock, h]

theorem State.job_setJob (s : State) (i j : Nat) (x : Job) : (s.setJob i x).job j = if j = i then x else s.job j := SMap.get_put _ _ _ _ _
@[simp] theorem State.job_setJob_same (s : State) (i : Nat) (x : Job) : (s.setJob i x).job i = x := by simp [State.job_setJob]
theorem State.job_setJob_ne (s : State) {i j : Nat} (x : Job) (h : j ≠ i) : (s.setJob i x).job j = s.job j := by simp [State.job_setJob, h]

theorem State.group_setGroup (s : State) (i j : Nat) (x : Group) : (s.setGroup i x).group j = if j = i then x else s.group j := SMap.get_put _ _ _ _ _
@[simp] theorem State.group_setGroup_same (s : State) (i : Nat) (x : Group) : (s.setGroup i x).group i = x := by simp [State.group_setGroup]
theorem State.group_setGroup_ne (s : State) {i j : Nat} (x : Group) (h : j ≠ i) : (s.setGroup i x).group j = s.group j := by simp [State.group_setGroup, h]

theorem State.queue_setQueue (s : State) (i j : Nat) (x : Queue) : (s.setQueue i x).queue j = if j = i then x else s.queue j := SMap.get_put _ _ _ _ _
@[simp] theorem State.queue_setQueue_same (s : State) (i : Nat) (x : Queue) : (s.setQueue i x).queue i = x := by simp [State.queue_setQueue]
theorem State.queue_setQueue_ne (s : State) {i j : Nat} (x : Queue) (h : j ≠ i) : (s.setQueue i x).queue j = s.queue j := by simp [State.queue_setQueue, h]

theorem State.session_setSession (s : State) (i j : Nat) (x : Sess) : (s.setSession i x).session j = if j = i then x else s.session j := SMap.get_put _ _ _ _ _
@[simp] theorem State.session_setSession_same (s : State) (i : Nat) (x : Sess) : (s.setSession i x).session i = x := by simp [State.session_setSession]
theorem State.session_setSession_ne (s : State) {i j : Nat} (x : Sess) (h : j ≠ i) : (s.setSession i x).session j = s.session j := by simp [State.session_setSession, h]

theorem State.arrayOf_setArray (s : State) (i j : Nat) (x : List Nat) : (s.setArray i x).arrayOf j = if j = i then x else s.arrayOf j := SMap.get_put _ _ _ _ _
@[simp] theorem State.arrayOf_setArray_same (s : State) (i : Nat) (x : List Nat) : (s.setArray i x).arrayOf i = x := by simp [State.arrayOf_setArray]
theorem State.arrayOf_setArray_ne (s : State) {i j : Nat} (x : List Nat) (h : j ≠ i) : (s.setArray i x).arrayOf j = s.arrayOf j := by simp [State.arrayOf_setArray, h]

theorem State.clusterAt_setCluster (s : State) (i j : Nat) (x : Cluster) : (s.setCluster i x).clusterAt j = if j = i then x else s.clusterAt j := SMap.get_put _ _ _ _ _
@[simp] theorem State.clusterAt_setCluster_same (s : State) (i : Nat) (x : Cluster) : (s.setCluster i x).clusterAt i = x := by simp [State.clusterAt_setCluster]
theorem State.clusterAt_setCluster_ne (s : State) {i j : Nat} (x : Cluster) (h : j ≠ i) : (s.setCluster i x).clusterAt j = s.clusterAt j := by simp [State.clusterAt_setCluster, h]

theorem State.port_setPort (s : State) (i j : Nat) (x : Port) : (s.setPort i x).port j = if j = i then x else s.port j := SMap.get_put _ _ _ _ _
@[simp] theorem State.port_setPort_same (s : State) (i : Nat) (x : Port) : (s.setPort i x).port i = x := by simp [State.port_setPort]
theorem State.port_setPort_ne (s : State) {i j : Nat} (x : Port) (h : j ≠ i) : (s.setPort i x).port j = s.port j := by simp [State.port_setPort, h]

theorem State.rlines_setRlines (s : State) (i j : Nat) (x : List (Nat × Nat × Bool)) : (s.setRlines i x).rlines j = if j = i then x else s.rlines j := SMap.get_put _ _ _ _ _
@[simp] theorem State.rlines_setRlines_same (s : State) (i : Nat) (x : List (Nat × Nat × Bool)) : (s.setRlines i x).rlines i = x := by simp [State.rlines_setRlines]
theorem State.rlines_setRlines_ne (s : State) {i j : Nat} (x : List (Nat × Nat × Bool)) (h : j ≠ i) : (s.setRlines i x).rlines j = s.rlines j := by simp [State.rlines_setRlines, h]

theorem State.dirAt_setDir (s : State) (i j : Nat) (x : DirLine) : (s.setDir i x).dirAt j = if j = i then x else s.dirAt j := SMap.get_put _ _ _ _ _
@[simp] theorem State.dirAt_setDir_same (s : State) (i : Nat) (x : DirLine) : (s.setDir i x).dirAt i = x := by simp [State.dirAt_setDir]
theorem State.dirAt_setDir_ne (s : State) {i j : Nat} (x : DirLine) (h : j ≠ i) : (s.setDir i x).dirAt j = s.dirAt j := by simp [State.dirAt_setDir, h]

theorem State.lantern_setLantern (s : State) (i j : Nat) (x : W64) : (s.setLantern i x).lantern j = if j = i then x else s.lantern j := SMap.get_put _ _ _ _ _
@[simp] theorem State.lantern_setLantern_same (s : State) (i : Nat) (x : W64) : (s.setLantern i x).lantern i = x := by simp [State.lantern_setLantern]
theorem State.lantern_setLantern_ne (s : State) {i j : Nat} (x : W64) (h : j ≠ i) : (s.setLantern i x).lantern j = s.lantern j := by simp [State.lantern_setLantern, h]

/-! Entries of one kind under the updates of another. -/

@[simp] theorem State.team_setBlock (s : State) (i : Nat) (b : Block) (k : Nat) : (s.setBlock i b).team k = s.team k := by dsimp only [State.setBlock, State.team]
@[simp] theorem State.team_setJob (s : State) (i : Nat) (j : Job) (k : Nat) : (s.setJob i j).team k = s.team k := by dsimp only [State.setJob, State.team]
@[simp] theorem State.team_setGroup (s : State) (k0 : Nat) (g0 : Group) (k : Nat) : (s.setGroup k0 g0).team k = s.team k := by dsimp only [State.setGroup, State.team]
@[simp] theorem State.team_setQueue (s : State) (k0 : Nat) (q : Queue) (k : Nat) : (s.setQueue k0 q).team k = s.team k := by dsimp only [State.setQueue, State.team]
@[simp] theorem State.team_setBel (s : State) (b : Belfry) (k : Nat) : (s.setBel b).team k = s.team k := by dsimp only [State.setBel, State.team]
@[simp] theorem State.team_setReg (s : State) (f o : Nat) (v : W64) (k : Nat) : (s.setReg f o v).team k = s.team k := by dsimp only [State.setReg, State.team]
@[simp] theorem State.team_setArray (s : State) (k0 : Nat) (l : List Nat) (k : Nat) : (s.setArray k0 l).team k = s.team k := by dsimp only [State.setArray, State.team]
@[simp] theorem State.team_setTable (s : State) (v b : Nat) (t : Table) (k : Nat) : (s.setTable v b t).team k = s.team k := by dsimp only [State.setTable, State.team]
@[simp] theorem State.team_useFresh (s : State) (k : Nat) : (s.useFresh).team k = s.team k := by dsimp only [State.useFresh, State.team]
@[simp] theorem State.team_answer (s : State) (k0 : Nat) (ws : List W64) (k : Nat) : (s.answer k0 ws).team k = s.team k := by dsimp only [State.answer, State.team]

@[simp] theorem State.block_setTeam (s : State) (i : Nat) (t : Team) (k : Nat) : (s.setTeam i t).block k = s.block k := by dsimp only [State.setTeam, State.block]
@[simp] theorem State.block_setJob (s : State) (i : Nat) (j : Job) (k : Nat) : (s.setJob i j).block k = s.block k := by dsimp only [State.setJob, State.block]
@[simp] theorem State.block_setGroup (s : State) (k0 : Nat) (g0 : Group) (k : Nat) : (s.setGroup k0 g0).block k = s.block k := by dsimp only [State.setGroup, State.block]
@[simp] theorem State.block_setQueue (s : State) (k0 : Nat) (q : Queue) (k : Nat) : (s.setQueue k0 q).block k = s.block k := by dsimp only [State.setQueue, State.block]
@[simp] theorem State.block_setBel (s : State) (b : Belfry) (k : Nat) : (s.setBel b).block k = s.block k := by dsimp only [State.setBel, State.block]
@[simp] theorem State.block_setReg (s : State) (f o : Nat) (v : W64) (k : Nat) : (s.setReg f o v).block k = s.block k := by dsimp only [State.setReg, State.block]
@[simp] theorem State.block_setArray (s : State) (k0 : Nat) (l : List Nat) (k : Nat) : (s.setArray k0 l).block k = s.block k := by dsimp only [State.setArray, State.block]
@[simp] theorem State.block_setTable (s : State) (v b : Nat) (t : Table) (k : Nat) : (s.setTable v b t).block k = s.block k := by dsimp only [State.setTable, State.block]
@[simp] theorem State.block_useFresh (s : State) (k : Nat) : (s.useFresh).block k = s.block k := by dsimp only [State.useFresh, State.block]
@[simp] theorem State.block_park (s : State) (i : Nat) (c : Cause) (a : W64) (k : Nat) : (s.park i c a).block k = s.block k := by dsimp only [State.park, State.setTeam, State.block]
@[simp] theorem State.block_issued (s : State) (i : Ins) (t : Team) (k : Nat) : (s.issued i t).block k = s.block k := by dsimp only [State.issued, State.setTeam, State.block]
@[simp] theorem State.block_produce (s : State) (i : Ins) (t : Team) (m : List Ref) (d : List Dst) (k0 : Nat) (k : Nat) : (s.produce i t m d k0).block k = s.block k := by dsimp only [State.produce, State.issued, State.sendReply, State.setTeam, State.block]
@[simp] theorem State.block_answer (s : State) (k0 : Nat) (ws : List W64) (k : Nat) : (s.answer k0 ws).block k = s.block k := by dsimp only [State.answer, State.block]

@[simp] theorem State.job_setTeam (s : State) (i : Nat) (t : Team) (k : Nat) : (s.setTeam i t).job k = s.job k := by dsimp only [State.setTeam, State.job]
@[simp] theorem State.job_setBlock (s : State) (i : Nat) (b : Block) (k : Nat) : (s.setBlock i b).job k = s.job k := by dsimp only [State.setBlock, State.job]
@[simp] theorem State.job_setGroup (s : State) (k0 : Nat) (g0 : Group) (k : Nat) : (s.setGroup k0 g0).job k = s.job k := by dsimp only [State.setGroup, State.job]
@[simp] theorem State.job_setQueue (s : State) (k0 : Nat) (q : Queue) (k : Nat) : (s.setQueue k0 q).job k = s.job k := by dsimp only [State.setQueue, State.job]
@[simp] theorem State.job_setBel (s : State) (b : Belfry) (k : Nat) : (s.setBel b).job k = s.job k := by dsimp only [State.setBel, State.job]
@[simp] theorem State.job_setReg (s : State) (f o : Nat) (v : W64) (k : Nat) : (s.setReg f o v).job k = s.job k := by dsimp only [State.setReg, State.job]
@[simp] theorem State.job_setArray (s : State) (k0 : Nat) (l : List Nat) (k : Nat) : (s.setArray k0 l).job k = s.job k := by dsimp only [State.setArray, State.job]
@[simp] theorem State.job_setTable (s : State) (v b : Nat) (t : Table) (k : Nat) : (s.setTable v b t).job k = s.job k := by dsimp only [State.setTable, State.job]
@[simp] theorem State.job_useFresh (s : State) (k : Nat) : (s.useFresh).job k = s.job k := by dsimp only [State.useFresh, State.job]
@[simp] theorem State.job_park (s : State) (i : Nat) (c : Cause) (a : W64) (k : Nat) : (s.park i c a).job k = s.job k := by dsimp only [State.park, State.setTeam, State.job]
@[simp] theorem State.job_issued (s : State) (i : Ins) (t : Team) (k : Nat) : (s.issued i t).job k = s.job k := by dsimp only [State.issued, State.setTeam, State.job]
@[simp] theorem State.job_produce (s : State) (i : Ins) (t : Team) (m : List Ref) (d : List Dst) (k0 : Nat) (k : Nat) : (s.produce i t m d k0).job k = s.job k := by dsimp only [State.produce, State.issued, State.sendReply, State.setTeam, State.job]
@[simp] theorem State.job_answer (s : State) (k0 : Nat) (ws : List W64) (k : Nat) : (s.answer k0 ws).job k = s.job k := by dsimp only [State.answer, State.job]

@[simp] theorem State.group_setTeam (s : State) (i : Nat) (t : Team) (k : Nat) : (s.setTeam i t).group k = s.group k := by dsimp only [State.setTeam, State.group]
@[simp] theorem State.group_setBlock (s : State) (i : Nat) (b : Block) (k : Nat) : (s.setBlock i b).group k = s.group k := by dsimp only [State.setBlock, State.group]
@[simp] theorem State.group_setJob (s : State) (i : Nat) (j : Job) (k : Nat) : (s.setJob i j).group k = s.group k := by dsimp only [State.setJob, State.group]
@[simp] theorem State.group_setQueue (s : State) (k0 : Nat) (q : Queue) (k : Nat) : (s.setQueue k0 q).group k = s.group k := by dsimp only [State.setQueue, State.group]
@[simp] theorem State.group_setBel (s : State) (b : Belfry) (k : Nat) : (s.setBel b).group k = s.group k := by dsimp only [State.setBel, State.group]
@[simp] theorem State.group_setReg (s : State) (f o : Nat) (v : W64) (k : Nat) : (s.setReg f o v).group k = s.group k := by dsimp only [State.setReg, State.group]
@[simp] theorem State.group_setArray (s : State) (k0 : Nat) (l : List Nat) (k : Nat) : (s.setArray k0 l).group k = s.group k := by dsimp only [State.setArray, State.group]
@[simp] theorem State.group_setTable (s : State) (v b : Nat) (t : Table) (k : Nat) : (s.setTable v b t).group k = s.group k := by dsimp only [State.setTable, State.group]
@[simp] theorem State.group_useFresh (s : State) (k : Nat) : (s.useFresh).group k = s.group k := by dsimp only [State.useFresh, State.group]
@[simp] theorem State.group_park (s : State) (i : Nat) (c : Cause) (a : W64) (k : Nat) : (s.park i c a).group k = s.group k := by dsimp only [State.park, State.setTeam, State.group]
@[simp] theorem State.group_issued (s : State) (i : Ins) (t : Team) (k : Nat) : (s.issued i t).group k = s.group k := by dsimp only [State.issued, State.setTeam, State.group]
@[simp] theorem State.group_produce (s : State) (i : Ins) (t : Team) (m : List Ref) (d : List Dst) (k0 : Nat) (k : Nat) : (s.produce i t m d k0).group k = s.group k := by dsimp only [State.produce, State.issued, State.sendReply, State.setTeam, State.group]
@[simp] theorem State.group_answer (s : State) (k0 : Nat) (ws : List W64) (k : Nat) : (s.answer k0 ws).group k = s.group k := by dsimp only [State.answer, State.group]

@[simp] theorem State.queue_setTeam (s : State) (i : Nat) (t : Team) (k : Nat) : (s.setTeam i t).queue k = s.queue k := by dsimp only [State.setTeam, State.queue]
@[simp] theorem State.queue_setBlock (s : State) (i : Nat) (b : Block) (k : Nat) : (s.setBlock i b).queue k = s.queue k := by dsimp only [State.setBlock, State.queue]
@[simp] theorem State.queue_setJob (s : State) (i : Nat) (j : Job) (k : Nat) : (s.setJob i j).queue k = s.queue k := by dsimp only [State.setJob, State.queue]
@[simp] theorem State.queue_setGroup (s : State) (k0 : Nat) (g0 : Group) (k : Nat) : (s.setGroup k0 g0).queue k = s.queue k := by dsimp only [State.setGroup, State.queue]
@[simp] theorem State.queue_setBel (s : State) (b : Belfry) (k : Nat) : (s.setBel b).queue k = s.queue k := by dsimp only [State.setBel, State.queue]
@[simp] theorem State.queue_setReg (s : State) (f o : Nat) (v : W64) (k : Nat) : (s.setReg f o v).queue k = s.queue k := by dsimp only [State.setReg, State.queue]
@[simp] theorem State.queue_setArray (s : State) (k0 : Nat) (l : List Nat) (k : Nat) : (s.setArray k0 l).queue k = s.queue k := by dsimp only [State.setArray, State.queue]
@[simp] theorem State.queue_setTable (s : State) (v b : Nat) (t : Table) (k : Nat) : (s.setTable v b t).queue k = s.queue k := by dsimp only [State.setTable, State.queue]
@[simp] theorem State.queue_useFresh (s : State) (k : Nat) : (s.useFresh).queue k = s.queue k := by dsimp only [State.useFresh, State.queue]
@[simp] theorem State.queue_park (s : State) (i : Nat) (c : Cause) (a : W64) (k : Nat) : (s.park i c a).queue k = s.queue k := by dsimp only [State.park, State.setTeam, State.queue]
@[simp] theorem State.queue_issued (s : State) (i : Ins) (t : Team) (k : Nat) : (s.issued i t).queue k = s.queue k := by dsimp only [State.issued, State.setTeam, State.queue]
@[simp] theorem State.queue_produce (s : State) (i : Ins) (t : Team) (m : List Ref) (d : List Dst) (k0 : Nat) (k : Nat) : (s.produce i t m d k0).queue k = s.queue k := by dsimp only [State.produce, State.issued, State.sendReply, State.setTeam, State.queue]
@[simp] theorem State.queue_answer (s : State) (k0 : Nat) (ws : List W64) (k : Nat) : (s.answer k0 ws).queue k = s.queue k := by dsimp only [State.answer, State.queue]

@[simp] theorem State.reg_setTeam (s : State) (i : Nat) (t : Team) (g k : Nat) : (s.setTeam i t).reg g k = s.reg g k := by dsimp only [State.setTeam, State.reg]
@[simp] theorem State.reg_setBlock (s : State) (i : Nat) (b : Block) (g k : Nat) : (s.setBlock i b).reg g k = s.reg g k := by dsimp only [State.setBlock, State.reg]
@[simp] theorem State.reg_setJob (s : State) (i : Nat) (j : Job) (g k : Nat) : (s.setJob i j).reg g k = s.reg g k := by dsimp only [State.setJob, State.reg]
@[simp] theorem State.reg_setGroup (s : State) (k0 : Nat) (g0 : Group) (g k : Nat) : (s.setGroup k0 g0).reg g k = s.reg g k := by dsimp only [State.setGroup, State.reg]
@[simp] theorem State.reg_setQueue (s : State) (k0 : Nat) (q : Queue) (g k : Nat) : (s.setQueue k0 q).reg g k = s.reg g k := by dsimp only [State.setQueue, State.reg]
@[simp] theorem State.reg_setBel (s : State) (b : Belfry) (g k : Nat) : (s.setBel b).reg g k = s.reg g k := by dsimp only [State.setBel, State.reg]
@[simp] theorem State.reg_setArray (s : State) (k0 : Nat) (l : List Nat) (g k : Nat) : (s.setArray k0 l).reg g k = s.reg g k := by dsimp only [State.setArray, State.reg]
@[simp] theorem State.reg_setTable (s : State) (v b : Nat) (t : Table) (g k : Nat) : (s.setTable v b t).reg g k = s.reg g k := by dsimp only [State.setTable, State.reg]
@[simp] theorem State.reg_useFresh (s : State) (g k : Nat) : (s.useFresh).reg g k = s.reg g k := by dsimp only [State.useFresh, State.reg]
@[simp] theorem State.reg_park (s : State) (i : Nat) (c : Cause) (a : W64) (g k : Nat) : (s.park i c a).reg g k = s.reg g k := by dsimp only [State.park, State.setTeam, State.reg]
@[simp] theorem State.reg_issued (s : State) (i : Ins) (t : Team) (g k : Nat) : (s.issued i t).reg g k = s.reg g k := by dsimp only [State.issued, State.setTeam, State.reg]
@[simp] theorem State.reg_produce (s : State) (i : Ins) (t : Team) (m : List Ref) (d : List Dst) (k0 : Nat) (g k : Nat) : (s.produce i t m d k0).reg g k = s.reg g k := by dsimp only [State.produce, State.issued, State.sendReply, State.setTeam, State.reg]
@[simp] theorem State.reg_answer (s : State) (k0 : Nat) (ws : List W64) (g k : Nat) : (s.answer k0 ws).reg g k = s.reg g k := by dsimp only [State.answer, State.reg]

@[simp] theorem State.regN_setTeam (s : State) (i : Nat) (t : Team) (g k : Nat) : (s.setTeam i t).regN g k = s.regN g k := by dsimp only [State.setTeam, State.regN, State.reg]
@[simp] theorem State.regN_setBlock (s : State) (i : Nat) (b : Block) (g k : Nat) : (s.setBlock i b).regN g k = s.regN g k := by dsimp only [State.setBlock, State.regN, State.reg]
@[simp] theorem State.regN_setJob (s : State) (i : Nat) (j : Job) (g k : Nat) : (s.setJob i j).regN g k = s.regN g k := by dsimp only [State.setJob, State.regN, State.reg]
@[simp] theorem State.regN_setGroup (s : State) (k0 : Nat) (g0 : Group) (g k : Nat) : (s.setGroup k0 g0).regN g k = s.regN g k := by dsimp only [State.setGroup, State.regN, State.reg]
@[simp] theorem State.regN_setQueue (s : State) (k0 : Nat) (q : Queue) (g k : Nat) : (s.setQueue k0 q).regN g k = s.regN g k := by dsimp only [State.setQueue, State.regN, State.reg]
@[simp] theorem State.regN_setBel (s : State) (b : Belfry) (g k : Nat) : (s.setBel b).regN g k = s.regN g k := by dsimp only [State.setBel, State.regN, State.reg]
@[simp] theorem State.regN_setArray (s : State) (k0 : Nat) (l : List Nat) (g k : Nat) : (s.setArray k0 l).regN g k = s.regN g k := by dsimp only [State.setArray, State.regN, State.reg]
@[simp] theorem State.regN_setTable (s : State) (v b : Nat) (t : Table) (g k : Nat) : (s.setTable v b t).regN g k = s.regN g k := by dsimp only [State.setTable, State.regN, State.reg]
@[simp] theorem State.regN_useFresh (s : State) (g k : Nat) : (s.useFresh).regN g k = s.regN g k := by dsimp only [State.useFresh, State.regN, State.reg]
@[simp] theorem State.regN_park (s : State) (i : Nat) (c : Cause) (a : W64) (g k : Nat) : (s.park i c a).regN g k = s.regN g k := by dsimp only [State.park, State.setTeam, State.regN, State.reg]
@[simp] theorem State.regN_issued (s : State) (i : Ins) (t : Team) (g k : Nat) : (s.issued i t).regN g k = s.regN g k := by dsimp only [State.issued, State.setTeam, State.regN, State.reg]
@[simp] theorem State.regN_produce (s : State) (i : Ins) (t : Team) (m : List Ref) (d : List Dst) (k0 : Nat) (g k : Nat) : (s.produce i t m d k0).regN g k = s.regN g k := by dsimp only [State.produce, State.issued, State.sendReply, State.setTeam, State.regN, State.reg]
@[simp] theorem State.regN_answer (s : State) (k0 : Nat) (ws : List W64) (g k : Nat) : (s.answer k0 ws).regN g k = s.regN g k := by dsimp only [State.answer, State.regN, State.reg]

/-! Team.setV -/

@[simp] theorem Team.setV_vf (t : Team) (r l x : Nat) : (t.setV r l x).vf = t.vf := by dsimp only [Team.setV]
@[simp] theorem Team.setV_job (t : Team) (r l x : Nat) : (t.setV r l x).job = t.job := by dsimp only [Team.setV]
@[simp] theorem Team.setV_block (t : Team) (r l x : Nat) : (t.setV r l x).block = t.block := by dsimp only [Team.setV]
@[simp] theorem Team.setV_nlanes (t : Team) (r l x : Nat) : (t.setV r l x).nlanes = t.nlanes := by dsimp only [Team.setV]
@[simp] theorem Team.setV_vregs (t : Team) (r l x : Nat) : (t.setV r l x).vregs = t.vregs := by dsimp only [Team.setV]
@[simp] theorem Team.setV_sregs (t : Team) (r l x : Nat) : (t.setV r l x).sregs = t.sregs := by dsimp only [Team.setV]
@[simp] theorem Team.setV_stage (t : Team) (r l x : Nat) : (t.setV r l x).stage = t.stage := by dsimp only [Team.setV]
@[simp] theorem Team.setV_prio (t : Team) (r l x : Nat) : (t.setV r l x).prio = t.prio := by dsimp only [Team.setV]
@[simp] theorem Team.setV_teamid (t : Team) (r l x : Nat) : (t.setV r l x).teamid = t.teamid := by dsimp only [Team.setV]
@[simp] theorem Team.setV_ctxbase (t : Team) (r l x : Nat) : (t.setV r l x).ctxbase = t.ctxbase := by dsimp only [Team.setV]
@[simp] theorem Team.setV_blockx (t : Team) (r l x : Nat) : (t.setV r l x).blockx = t.blockx := by dsimp only [Team.setV]
@[simp] theorem Team.setV_blocky (t : Team) (r l x : Nat) : (t.setV r l x).blocky = t.blocky := by dsimp only [Team.setV]
@[simp] theorem Team.setV_blockz (t : Team) (r l x : Nat) : (t.setV r l x).blockz = t.blockz := by dsimp only [Team.setV]
@[simp] theorem Team.setV_sgid (t : Team) (r l x : Nat) : (t.setV r l x).sgid = t.sgid := by dsimp only [Team.setV]
@[simp] theorem Team.setV_sgidx (t : Team) (r l x : Nat) : (t.setV r l x).sgidx = t.sgidx := by dsimp only [Team.setV]
@[simp] theorem Team.setV_pc (t : Team) (r l x : Nat) : (t.setV r l x).pc = t.pc := by dsimp only [Team.setV]
@[simp] theorem Team.setV_st (t : Team) (r l x : Nat) : (t.setV r l x).st = t.st := by dsimp only [Team.setV]
@[simp] theorem Team.setV_cause (t : Team) (r l x : Nat) : (t.setV r l x).cause = t.cause := by dsimp only [Team.setV]
@[simp] theorem Team.setV_arg (t : Team) (r l x : Nat) : (t.setV r l x).arg = t.arg := by dsimp only [Team.setV]
@[simp] theorem Team.setV_hmode (t : Team) (r l x : Nat) : (t.setV r l x).hmode = t.hmode := by dsimp only [Team.setV]
@[simp] theorem Team.setV_rprog (t : Team) (r l x : Nat) : (t.setV r l x).rprog = t.rprog := by dsimp only [Team.setV]
@[simp] theorem Team.setV_fpctl (t : Team) (r l x : Nat) : (t.setV r l x).fpctl = t.fpctl := by dsimp only [Team.setV]
@[simp] theorem Team.setV_fpflags (t : Team) (r l x : Nat) : (t.setV r l x).fpflags = t.fpflags := by dsimp only [Team.setV]
@[simp] theorem Team.setV_seed (t : Team) (r l x : Nat) : (t.setV r l x).seed = t.seed := by dsimp only [Team.setV]
@[simp] theorem Team.setV_mask (t : Team) (r l x : Nat) : (t.setV r l x).mask = t.mask := by dsimp only [Team.setV]
@[simp] theorem Team.setV_s (t : Team) (r l x : Nat) : (t.setV r l x).s = t.s := by dsimp only [Team.setV]
@[simp] theorem Team.setV_sE (t : Team) (r l x : Nat) : (t.setV r l x).sE = t.sE := by dsimp only [Team.setV]
@[simp] theorem Team.setV_p (t : Team) (r l x : Nat) : (t.setV r l x).p = t.p := by dsimp only [Team.setV]
@[simp] theorem Team.setV_pE (t : Team) (r l x : Nat) : (t.setV r l x).pE = t.pE := by dsimp only [Team.setV]
@[simp] theorem Team.setV_q (t : Team) (r l x : Nat) : (t.setV r l x).q = t.q := by dsimp only [Team.setV]
@[simp] theorem Team.setV_qE (t : Team) (r l x : Nat) : (t.setV r l x).qE = t.qE := by dsimp only [Team.setV]
@[simp] theorem Team.setV_trapcause (t : Team) (r l x : Nat) : (t.setV r l x).trapcause = t.trapcause := by dsimp only [Team.setV]
@[simp] theorem Team.setV_trappc (t : Team) (r l x : Nat) : (t.setV r l x).trappc = t.trappc := by dsimp only [Team.setV]
@[simp] theorem Team.setV_trapskid (t : Team) (r l x : Nat) : (t.setV r l x).trapskid = t.trapskid := by dsimp only [Team.setV]
@[simp] theorem Team.setV_stepctl (t : Team) (r l x : Nat) : (t.setV r l x).stepctl = t.stepctl := by dsimp only [Team.setV]
@[simp] theorem Team.setV_haltctl (t : Team) (r l x : Nat) : (t.setV r l x).haltctl = t.haltctl := by dsimp only [Team.setV]
@[simp] theorem Team.setV_trapbase (t : Team) (r l x : Nat) : (t.setV r l x).trapbase = t.trapbase := by dsimp only [Team.setV]
@[simp] theorem Team.setV_savedQ (t : Team) (r l x : Nat) : (t.setV r l x).savedQ = t.savedQ := by dsimp only [Team.setV]
@[simp] theorem Team.setV_savedQE (t : Team) (r l x : Nat) : (t.setV r l x).savedQE = t.savedQE := by dsimp only [Team.setV]
@[simp] theorem Team.setV_savedFpctl (t : Team) (r l x : Nat) : (t.setV r l x).savedFpctl = t.savedFpctl := by dsimp only [Team.setV]
@[simp] theorem Team.setV_sideSave (t : Team) (r l x : Nat) : (t.setV r l x).sideSave = t.sideSave := by dsimp only [Team.setV]
@[simp] theorem Team.setV_side (t : Team) (r l x : Nat) : (t.setV r l x).side = t.side := by dsimp only [Team.setV]
@[simp] theorem Team.setV_stepping (t : Team) (r l x : Nat) : (t.setV r l x).stepping = t.stepping := by dsimp only [Team.setV]
@[simp] theorem Team.setV_noWatch (t : Team) (r l x : Nat) : (t.setV r l x).noWatch = t.noWatch := by dsimp only [Team.setV]
@[simp] theorem Team.setV_skid (t : Team) (r l x : Nat) : (t.setV r l x).skid = t.skid := by dsimp only [Team.setV]
@[simp] theorem Team.setV_pend (t : Team) (r l x : Nat) : (t.setV r l x).pend = t.pend := by dsimp only [Team.setV]
@[simp] theorem Team.setV_pendMore (t : Team) (r l x : Nat) : (t.setV r l x).pendMore = t.pendMore := by dsimp only [Team.setV]
@[simp] theorem Team.setV_parkNext (t : Team) (r l x : Nat) : (t.setV r l x).parkNext = t.parkNext := by dsimp only [Team.setV]
@[simp] theorem Team.setV_cancelPend (t : Team) (r l x : Nat) : (t.setV r l x).cancelPend = t.cancelPend := by dsimp only [Team.setV]
@[simp] theorem Team.setV_verdict (t : Team) (r l x : Nat) : (t.setV r l x).verdict = t.verdict := by dsimp only [Team.setV]
@[simp] theorem Team.setV_mma (t : Team) (r l x : Nat) : (t.setV r l x).mma = t.mma := by dsimp only [Team.setV]
@[simp] theorem Team.setV_ksteps (t : Team) (r l x : Nat) : (t.setV r l x).ksteps = t.ksteps := by dsimp only [Team.setV]
@[simp] theorem Team.setV_creds (t : Team) (r l x : Nat) : (t.setV r l x).creds = t.creds := by dsimp only [Team.setV]
@[simp] theorem Team.setV_waste (t : Team) (r l x : Nat) : (t.setV r l x).waste = t.waste := by dsimp only [Team.setV]
@[simp] theorem Team.setV_icount (t : Team) (r l x : Nat) : (t.setV r l x).icount = t.icount := by dsimp only [Team.setV]
@[simp] theorem Team.setV_countOnWake (t : Team) (r l x : Nat) : (t.setV r l x).countOnWake = t.countOnWake := by dsimp only [Team.setV]
@[simp] theorem Team.setV_owes (t : Team) (r l x : Nat) : (t.setV r l x).owes = t.owes := by dsimp only [Team.setV]
@[simp] theorem Team.setV_inSlot (t : Team) (r l x : Nat) : (t.setV r l x).inSlot = t.inSlot := by dsimp only [Team.setV]
@[simp] theorem Team.setV_core (t : Team) (r l x : Nat) : (t.setV r l x).core = t.core := by dsimp only [Team.setV]
@[simp] theorem Team.setV_part (t : Team) (r l x : Nat) : (t.setV r l x).part = t.part := by dsimp only [Team.setV]
@[simp] theorem Team.setV_slot (t : Team) (r l x : Nat) : (t.setV r l x).slot = t.slot := by dsimp only [Team.setV]
@[simp] theorem Team.setV_age (t : Team) (r l x : Nat) : (t.setV r l x).age = t.age := by dsimp only [Team.setV]
@[simp] theorem Team.setV_readyAt (t : Team) (r l x : Nat) : (t.setV r l x).readyAt = t.readyAt := by dsimp only [Team.setV]
@[simp] theorem Team.setV_parkedAt (t : Team) (r l x : Nat) : (t.setV r l x).parkedAt = t.parkedAt := by dsimp only [Team.setV]
@[simp] theorem Team.setV_activeAt (t : Team) (r l x : Nat) : (t.setV r l x).activeAt = t.activeAt := by dsimp only [Team.setV]
@[simp] theorem Team.setV_quotaAt (t : Team) (r l x : Nat) : (t.setV r l x).quotaAt = t.quotaAt := by dsimp only [Team.setV]
@[simp] theorem Team.setV_quotaUsed (t : Team) (r l x : Nat) : (t.setV r l x).quotaUsed = t.quotaUsed := by dsimp only [Team.setV]
@[simp] theorem Team.setV_evTarget (t : Team) (r l x : Nat) : (t.setV r l x).evTarget = t.evTarget := by dsimp only [Team.setV]
@[simp] theorem Team.setV_rejects (t : Team) (r l x : Nat) : (t.setV r l x).rejects = t.rejects := by dsimp only [Team.setV]
@[simp] theorem Team.setV_retryAt (t : Team) (r l x : Nat) : (t.setV r l x).retryAt = t.retryAt := by dsimp only [Team.setV]
@[simp] theorem Team.setV_freed (t : Team) (r l x : Nat) : (t.setV r l x).freed = t.freed := by dsimp only [Team.setV]
@[simp] theorem Team.setV_unsaved (t : Team) (r l x : Nat) : (t.setV r l x).unsaved = t.unsaved := by dsimp only [Team.setV]
@[simp] theorem Team.setV_unsavedCtl (t : Team) (r l x : Nat) : (t.setV r l x).unsavedCtl = t.unsavedCtl := by dsimp only [Team.setV]
@[simp] theorem Team.setV_saveRec (t : Team) (r l x : Nat) : (t.setV r l x).saveRec = t.saveRec := by dsimp only [Team.setV]
@[simp] theorem Team.setV_rest (t : Team) (r l x : Nat) : (t.setV r l x).rest = t.rest := by dsimp only [Team.setV]

/-! Team.setS -/

@[simp] theorem Team.setS_vf (t : Team) (r x : Nat) : (t.setS r x).vf = t.vf := by dsimp only [Team.setS]
@[simp] theorem Team.setS_job (t : Team) (r x : Nat) : (t.setS r x).job = t.job := by dsimp only [Team.setS]
@[simp] theorem Team.setS_block (t : Team) (r x : Nat) : (t.setS r x).block = t.block := by dsimp only [Team.setS]
@[simp] theorem Team.setS_nlanes (t : Team) (r x : Nat) : (t.setS r x).nlanes = t.nlanes := by dsimp only [Team.setS]
@[simp] theorem Team.setS_vregs (t : Team) (r x : Nat) : (t.setS r x).vregs = t.vregs := by dsimp only [Team.setS]
@[simp] theorem Team.setS_sregs (t : Team) (r x : Nat) : (t.setS r x).sregs = t.sregs := by dsimp only [Team.setS]
@[simp] theorem Team.setS_stage (t : Team) (r x : Nat) : (t.setS r x).stage = t.stage := by dsimp only [Team.setS]
@[simp] theorem Team.setS_prio (t : Team) (r x : Nat) : (t.setS r x).prio = t.prio := by dsimp only [Team.setS]
@[simp] theorem Team.setS_teamid (t : Team) (r x : Nat) : (t.setS r x).teamid = t.teamid := by dsimp only [Team.setS]
@[simp] theorem Team.setS_ctxbase (t : Team) (r x : Nat) : (t.setS r x).ctxbase = t.ctxbase := by dsimp only [Team.setS]
@[simp] theorem Team.setS_blockx (t : Team) (r x : Nat) : (t.setS r x).blockx = t.blockx := by dsimp only [Team.setS]
@[simp] theorem Team.setS_blocky (t : Team) (r x : Nat) : (t.setS r x).blocky = t.blocky := by dsimp only [Team.setS]
@[simp] theorem Team.setS_blockz (t : Team) (r x : Nat) : (t.setS r x).blockz = t.blockz := by dsimp only [Team.setS]
@[simp] theorem Team.setS_sgid (t : Team) (r x : Nat) : (t.setS r x).sgid = t.sgid := by dsimp only [Team.setS]
@[simp] theorem Team.setS_sgidx (t : Team) (r x : Nat) : (t.setS r x).sgidx = t.sgidx := by dsimp only [Team.setS]
@[simp] theorem Team.setS_pc (t : Team) (r x : Nat) : (t.setS r x).pc = t.pc := by dsimp only [Team.setS]
@[simp] theorem Team.setS_st (t : Team) (r x : Nat) : (t.setS r x).st = t.st := by dsimp only [Team.setS]
@[simp] theorem Team.setS_cause (t : Team) (r x : Nat) : (t.setS r x).cause = t.cause := by dsimp only [Team.setS]
@[simp] theorem Team.setS_arg (t : Team) (r x : Nat) : (t.setS r x).arg = t.arg := by dsimp only [Team.setS]
@[simp] theorem Team.setS_hmode (t : Team) (r x : Nat) : (t.setS r x).hmode = t.hmode := by dsimp only [Team.setS]
@[simp] theorem Team.setS_rprog (t : Team) (r x : Nat) : (t.setS r x).rprog = t.rprog := by dsimp only [Team.setS]
@[simp] theorem Team.setS_fpctl (t : Team) (r x : Nat) : (t.setS r x).fpctl = t.fpctl := by dsimp only [Team.setS]
@[simp] theorem Team.setS_fpflags (t : Team) (r x : Nat) : (t.setS r x).fpflags = t.fpflags := by dsimp only [Team.setS]
@[simp] theorem Team.setS_seed (t : Team) (r x : Nat) : (t.setS r x).seed = t.seed := by dsimp only [Team.setS]
@[simp] theorem Team.setS_mask (t : Team) (r x : Nat) : (t.setS r x).mask = t.mask := by dsimp only [Team.setS]
@[simp] theorem Team.setS_v (t : Team) (r x : Nat) : (t.setS r x).v = t.v := by dsimp only [Team.setS]
@[simp] theorem Team.setS_vE (t : Team) (r x : Nat) : (t.setS r x).vE = t.vE := by dsimp only [Team.setS]
@[simp] theorem Team.setS_vBad (t : Team) (r x : Nat) : (t.setS r x).vBad = t.vBad := by dsimp only [Team.setS]
@[simp] theorem Team.setS_p (t : Team) (r x : Nat) : (t.setS r x).p = t.p := by dsimp only [Team.setS]
@[simp] theorem Team.setS_pE (t : Team) (r x : Nat) : (t.setS r x).pE = t.pE := by dsimp only [Team.setS]
@[simp] theorem Team.setS_q (t : Team) (r x : Nat) : (t.setS r x).q = t.q := by dsimp only [Team.setS]
@[simp] theorem Team.setS_qE (t : Team) (r x : Nat) : (t.setS r x).qE = t.qE := by dsimp only [Team.setS]
@[simp] theorem Team.setS_trapcause (t : Team) (r x : Nat) : (t.setS r x).trapcause = t.trapcause := by dsimp only [Team.setS]
@[simp] theorem Team.setS_trappc (t : Team) (r x : Nat) : (t.setS r x).trappc = t.trappc := by dsimp only [Team.setS]
@[simp] theorem Team.setS_trapskid (t : Team) (r x : Nat) : (t.setS r x).trapskid = t.trapskid := by dsimp only [Team.setS]
@[simp] theorem Team.setS_stepctl (t : Team) (r x : Nat) : (t.setS r x).stepctl = t.stepctl := by dsimp only [Team.setS]
@[simp] theorem Team.setS_haltctl (t : Team) (r x : Nat) : (t.setS r x).haltctl = t.haltctl := by dsimp only [Team.setS]
@[simp] theorem Team.setS_trapbase (t : Team) (r x : Nat) : (t.setS r x).trapbase = t.trapbase := by dsimp only [Team.setS]
@[simp] theorem Team.setS_savedQ (t : Team) (r x : Nat) : (t.setS r x).savedQ = t.savedQ := by dsimp only [Team.setS]
@[simp] theorem Team.setS_savedQE (t : Team) (r x : Nat) : (t.setS r x).savedQE = t.savedQE := by dsimp only [Team.setS]
@[simp] theorem Team.setS_savedFpctl (t : Team) (r x : Nat) : (t.setS r x).savedFpctl = t.savedFpctl := by dsimp only [Team.setS]
@[simp] theorem Team.setS_sideSave (t : Team) (r x : Nat) : (t.setS r x).sideSave = t.sideSave := by dsimp only [Team.setS]
@[simp] theorem Team.setS_side (t : Team) (r x : Nat) : (t.setS r x).side = t.side := by dsimp only [Team.setS]
@[simp] theorem Team.setS_stepping (t : Team) (r x : Nat) : (t.setS r x).stepping = t.stepping := by dsimp only [Team.setS]
@[simp] theorem Team.setS_noWatch (t : Team) (r x : Nat) : (t.setS r x).noWatch = t.noWatch := by dsimp only [Team.setS]
@[simp] theorem Team.setS_skid (t : Team) (r x : Nat) : (t.setS r x).skid = t.skid := by dsimp only [Team.setS]
@[simp] theorem Team.setS_pend (t : Team) (r x : Nat) : (t.setS r x).pend = t.pend := by dsimp only [Team.setS]
@[simp] theorem Team.setS_pendMore (t : Team) (r x : Nat) : (t.setS r x).pendMore = t.pendMore := by dsimp only [Team.setS]
@[simp] theorem Team.setS_parkNext (t : Team) (r x : Nat) : (t.setS r x).parkNext = t.parkNext := by dsimp only [Team.setS]
@[simp] theorem Team.setS_cancelPend (t : Team) (r x : Nat) : (t.setS r x).cancelPend = t.cancelPend := by dsimp only [Team.setS]
@[simp] theorem Team.setS_verdict (t : Team) (r x : Nat) : (t.setS r x).verdict = t.verdict := by dsimp only [Team.setS]
@[simp] theorem Team.setS_mma (t : Team) (r x : Nat) : (t.setS r x).mma = t.mma := by dsimp only [Team.setS]
@[simp] theorem Team.setS_ksteps (t : Team) (r x : Nat) : (t.setS r x).ksteps = t.ksteps := by dsimp only [Team.setS]
@[simp] theorem Team.setS_creds (t : Team) (r x : Nat) : (t.setS r x).creds = t.creds := by dsimp only [Team.setS]
@[simp] theorem Team.setS_waste (t : Team) (r x : Nat) : (t.setS r x).waste = t.waste := by dsimp only [Team.setS]
@[simp] theorem Team.setS_icount (t : Team) (r x : Nat) : (t.setS r x).icount = t.icount := by dsimp only [Team.setS]
@[simp] theorem Team.setS_countOnWake (t : Team) (r x : Nat) : (t.setS r x).countOnWake = t.countOnWake := by dsimp only [Team.setS]
@[simp] theorem Team.setS_owes (t : Team) (r x : Nat) : (t.setS r x).owes = t.owes := by dsimp only [Team.setS]
@[simp] theorem Team.setS_inSlot (t : Team) (r x : Nat) : (t.setS r x).inSlot = t.inSlot := by dsimp only [Team.setS]
@[simp] theorem Team.setS_core (t : Team) (r x : Nat) : (t.setS r x).core = t.core := by dsimp only [Team.setS]
@[simp] theorem Team.setS_part (t : Team) (r x : Nat) : (t.setS r x).part = t.part := by dsimp only [Team.setS]
@[simp] theorem Team.setS_slot (t : Team) (r x : Nat) : (t.setS r x).slot = t.slot := by dsimp only [Team.setS]
@[simp] theorem Team.setS_age (t : Team) (r x : Nat) : (t.setS r x).age = t.age := by dsimp only [Team.setS]
@[simp] theorem Team.setS_readyAt (t : Team) (r x : Nat) : (t.setS r x).readyAt = t.readyAt := by dsimp only [Team.setS]
@[simp] theorem Team.setS_parkedAt (t : Team) (r x : Nat) : (t.setS r x).parkedAt = t.parkedAt := by dsimp only [Team.setS]
@[simp] theorem Team.setS_activeAt (t : Team) (r x : Nat) : (t.setS r x).activeAt = t.activeAt := by dsimp only [Team.setS]
@[simp] theorem Team.setS_quotaAt (t : Team) (r x : Nat) : (t.setS r x).quotaAt = t.quotaAt := by dsimp only [Team.setS]
@[simp] theorem Team.setS_quotaUsed (t : Team) (r x : Nat) : (t.setS r x).quotaUsed = t.quotaUsed := by dsimp only [Team.setS]
@[simp] theorem Team.setS_evTarget (t : Team) (r x : Nat) : (t.setS r x).evTarget = t.evTarget := by dsimp only [Team.setS]
@[simp] theorem Team.setS_rejects (t : Team) (r x : Nat) : (t.setS r x).rejects = t.rejects := by dsimp only [Team.setS]
@[simp] theorem Team.setS_retryAt (t : Team) (r x : Nat) : (t.setS r x).retryAt = t.retryAt := by dsimp only [Team.setS]
@[simp] theorem Team.setS_freed (t : Team) (r x : Nat) : (t.setS r x).freed = t.freed := by dsimp only [Team.setS]
@[simp] theorem Team.setS_unsaved (t : Team) (r x : Nat) : (t.setS r x).unsaved = t.unsaved := by dsimp only [Team.setS]
@[simp] theorem Team.setS_unsavedCtl (t : Team) (r x : Nat) : (t.setS r x).unsavedCtl = t.unsavedCtl := by dsimp only [Team.setS]
@[simp] theorem Team.setS_saveRec (t : Team) (r x : Nat) : (t.setS r x).saveRec = t.saveRec := by dsimp only [Team.setS]
@[simp] theorem Team.setS_rest (t : Team) (r x : Nat) : (t.setS r x).rest = t.rest := by dsimp only [Team.setS]

/-! Team.advance -/

@[simp] theorem Team.advance_vf (t : Team) (i : Ins) : (t.advance i).vf = t.vf := by dsimp only [Team.advance]
@[simp] theorem Team.advance_job (t : Team) (i : Ins) : (t.advance i).job = t.job := by dsimp only [Team.advance]
@[simp] theorem Team.advance_block (t : Team) (i : Ins) : (t.advance i).block = t.block := by dsimp only [Team.advance]
@[simp] theorem Team.advance_nlanes (t : Team) (i : Ins) : (t.advance i).nlanes = t.nlanes := by dsimp only [Team.advance]
@[simp] theorem Team.advance_vregs (t : Team) (i : Ins) : (t.advance i).vregs = t.vregs := by dsimp only [Team.advance]
@[simp] theorem Team.advance_sregs (t : Team) (i : Ins) : (t.advance i).sregs = t.sregs := by dsimp only [Team.advance]
@[simp] theorem Team.advance_stage (t : Team) (i : Ins) : (t.advance i).stage = t.stage := by dsimp only [Team.advance]
@[simp] theorem Team.advance_prio (t : Team) (i : Ins) : (t.advance i).prio = t.prio := by dsimp only [Team.advance]
@[simp] theorem Team.advance_teamid (t : Team) (i : Ins) : (t.advance i).teamid = t.teamid := by dsimp only [Team.advance]
@[simp] theorem Team.advance_ctxbase (t : Team) (i : Ins) : (t.advance i).ctxbase = t.ctxbase := by dsimp only [Team.advance]
@[simp] theorem Team.advance_blockx (t : Team) (i : Ins) : (t.advance i).blockx = t.blockx := by dsimp only [Team.advance]
@[simp] theorem Team.advance_blocky (t : Team) (i : Ins) : (t.advance i).blocky = t.blocky := by dsimp only [Team.advance]
@[simp] theorem Team.advance_blockz (t : Team) (i : Ins) : (t.advance i).blockz = t.blockz := by dsimp only [Team.advance]
@[simp] theorem Team.advance_sgid (t : Team) (i : Ins) : (t.advance i).sgid = t.sgid := by dsimp only [Team.advance]
@[simp] theorem Team.advance_sgidx (t : Team) (i : Ins) : (t.advance i).sgidx = t.sgidx := by dsimp only [Team.advance]
@[simp] theorem Team.advance_st (t : Team) (i : Ins) : (t.advance i).st = t.st := by dsimp only [Team.advance]
@[simp] theorem Team.advance_cause (t : Team) (i : Ins) : (t.advance i).cause = t.cause := by dsimp only [Team.advance]
@[simp] theorem Team.advance_arg (t : Team) (i : Ins) : (t.advance i).arg = t.arg := by dsimp only [Team.advance]
@[simp] theorem Team.advance_hmode (t : Team) (i : Ins) : (t.advance i).hmode = t.hmode := by dsimp only [Team.advance]
@[simp] theorem Team.advance_rprog (t : Team) (i : Ins) : (t.advance i).rprog = t.rprog := by dsimp only [Team.advance]
@[simp] theorem Team.advance_fpctl (t : Team) (i : Ins) : (t.advance i).fpctl = t.fpctl := by dsimp only [Team.advance]
@[simp] theorem Team.advance_fpflags (t : Team) (i : Ins) : (t.advance i).fpflags = t.fpflags := by dsimp only [Team.advance]
@[simp] theorem Team.advance_seed (t : Team) (i : Ins) : (t.advance i).seed = t.seed := by dsimp only [Team.advance]
@[simp] theorem Team.advance_mask (t : Team) (i : Ins) : (t.advance i).mask = t.mask := by dsimp only [Team.advance]
@[simp] theorem Team.advance_v (t : Team) (i : Ins) : (t.advance i).v = t.v := by dsimp only [Team.advance]
@[simp] theorem Team.advance_vE (t : Team) (i : Ins) : (t.advance i).vE = t.vE := by dsimp only [Team.advance]
@[simp] theorem Team.advance_vBad (t : Team) (i : Ins) : (t.advance i).vBad = t.vBad := by dsimp only [Team.advance]
@[simp] theorem Team.advance_s (t : Team) (i : Ins) : (t.advance i).s = t.s := by dsimp only [Team.advance]
@[simp] theorem Team.advance_sE (t : Team) (i : Ins) : (t.advance i).sE = t.sE := by dsimp only [Team.advance]
@[simp] theorem Team.advance_p (t : Team) (i : Ins) : (t.advance i).p = t.p := by dsimp only [Team.advance]
@[simp] theorem Team.advance_pE (t : Team) (i : Ins) : (t.advance i).pE = t.pE := by dsimp only [Team.advance]
@[simp] theorem Team.advance_q (t : Team) (i : Ins) : (t.advance i).q = t.q := by dsimp only [Team.advance]
@[simp] theorem Team.advance_qE (t : Team) (i : Ins) : (t.advance i).qE = t.qE := by dsimp only [Team.advance]
@[simp] theorem Team.advance_trapcause (t : Team) (i : Ins) : (t.advance i).trapcause = t.trapcause := by dsimp only [Team.advance]
@[simp] theorem Team.advance_trappc (t : Team) (i : Ins) : (t.advance i).trappc = t.trappc := by dsimp only [Team.advance]
@[simp] theorem Team.advance_trapskid (t : Team) (i : Ins) : (t.advance i).trapskid = t.trapskid := by dsimp only [Team.advance]
@[simp] theorem Team.advance_stepctl (t : Team) (i : Ins) : (t.advance i).stepctl = t.stepctl := by dsimp only [Team.advance]
@[simp] theorem Team.advance_haltctl (t : Team) (i : Ins) : (t.advance i).haltctl = t.haltctl := by dsimp only [Team.advance]
@[simp] theorem Team.advance_trapbase (t : Team) (i : Ins) : (t.advance i).trapbase = t.trapbase := by dsimp only [Team.advance]
@[simp] theorem Team.advance_savedQ (t : Team) (i : Ins) : (t.advance i).savedQ = t.savedQ := by dsimp only [Team.advance]
@[simp] theorem Team.advance_savedQE (t : Team) (i : Ins) : (t.advance i).savedQE = t.savedQE := by dsimp only [Team.advance]
@[simp] theorem Team.advance_savedFpctl (t : Team) (i : Ins) : (t.advance i).savedFpctl = t.savedFpctl := by dsimp only [Team.advance]
@[simp] theorem Team.advance_sideSave (t : Team) (i : Ins) : (t.advance i).sideSave = t.sideSave := by dsimp only [Team.advance]
@[simp] theorem Team.advance_side (t : Team) (i : Ins) : (t.advance i).side = t.side := by dsimp only [Team.advance]
@[simp] theorem Team.advance_stepping (t : Team) (i : Ins) : (t.advance i).stepping = t.stepping := by dsimp only [Team.advance]
@[simp] theorem Team.advance_noWatch (t : Team) (i : Ins) : (t.advance i).noWatch = t.noWatch := by dsimp only [Team.advance]
@[simp] theorem Team.advance_skid (t : Team) (i : Ins) : (t.advance i).skid = t.skid := by dsimp only [Team.advance]
@[simp] theorem Team.advance_pend (t : Team) (i : Ins) : (t.advance i).pend = t.pend := by dsimp only [Team.advance]
@[simp] theorem Team.advance_pendMore (t : Team) (i : Ins) : (t.advance i).pendMore = t.pendMore := by dsimp only [Team.advance]
@[simp] theorem Team.advance_parkNext (t : Team) (i : Ins) : (t.advance i).parkNext = t.parkNext := by dsimp only [Team.advance]
@[simp] theorem Team.advance_cancelPend (t : Team) (i : Ins) : (t.advance i).cancelPend = t.cancelPend := by dsimp only [Team.advance]
@[simp] theorem Team.advance_verdict (t : Team) (i : Ins) : (t.advance i).verdict = t.verdict := by dsimp only [Team.advance]
@[simp] theorem Team.advance_mma (t : Team) (i : Ins) : (t.advance i).mma = t.mma := by dsimp only [Team.advance]
@[simp] theorem Team.advance_ksteps (t : Team) (i : Ins) : (t.advance i).ksteps = t.ksteps := by dsimp only [Team.advance]
@[simp] theorem Team.advance_creds (t : Team) (i : Ins) : (t.advance i).creds = t.creds := by dsimp only [Team.advance]
@[simp] theorem Team.advance_waste (t : Team) (i : Ins) : (t.advance i).waste = t.waste := by dsimp only [Team.advance]
@[simp] theorem Team.advance_countOnWake (t : Team) (i : Ins) : (t.advance i).countOnWake = t.countOnWake := by dsimp only [Team.advance]
@[simp] theorem Team.advance_owes (t : Team) (i : Ins) : (t.advance i).owes = t.owes := by dsimp only [Team.advance]
@[simp] theorem Team.advance_inSlot (t : Team) (i : Ins) : (t.advance i).inSlot = t.inSlot := by dsimp only [Team.advance]
@[simp] theorem Team.advance_core (t : Team) (i : Ins) : (t.advance i).core = t.core := by dsimp only [Team.advance]
@[simp] theorem Team.advance_part (t : Team) (i : Ins) : (t.advance i).part = t.part := by dsimp only [Team.advance]
@[simp] theorem Team.advance_slot (t : Team) (i : Ins) : (t.advance i).slot = t.slot := by dsimp only [Team.advance]
@[simp] theorem Team.advance_age (t : Team) (i : Ins) : (t.advance i).age = t.age := by dsimp only [Team.advance]
@[simp] theorem Team.advance_readyAt (t : Team) (i : Ins) : (t.advance i).readyAt = t.readyAt := by dsimp only [Team.advance]
@[simp] theorem Team.advance_parkedAt (t : Team) (i : Ins) : (t.advance i).parkedAt = t.parkedAt := by dsimp only [Team.advance]
@[simp] theorem Team.advance_activeAt (t : Team) (i : Ins) : (t.advance i).activeAt = t.activeAt := by dsimp only [Team.advance]
@[simp] theorem Team.advance_quotaAt (t : Team) (i : Ins) : (t.advance i).quotaAt = t.quotaAt := by dsimp only [Team.advance]
@[simp] theorem Team.advance_quotaUsed (t : Team) (i : Ins) : (t.advance i).quotaUsed = t.quotaUsed := by dsimp only [Team.advance]
@[simp] theorem Team.advance_evTarget (t : Team) (i : Ins) : (t.advance i).evTarget = t.evTarget := by dsimp only [Team.advance]
@[simp] theorem Team.advance_retryAt (t : Team) (i : Ins) : (t.advance i).retryAt = t.retryAt := by dsimp only [Team.advance]
@[simp] theorem Team.advance_freed (t : Team) (i : Ins) : (t.advance i).freed = t.freed := by dsimp only [Team.advance]
@[simp] theorem Team.advance_unsaved (t : Team) (i : Ins) : (t.advance i).unsaved = t.unsaved := by dsimp only [Team.advance]
@[simp] theorem Team.advance_unsavedCtl (t : Team) (i : Ins) : (t.advance i).unsavedCtl = t.unsavedCtl := by dsimp only [Team.advance]
@[simp] theorem Team.advance_saveRec (t : Team) (i : Ins) : (t.advance i).saveRec = t.saveRec := by dsimp only [Team.advance]
@[simp] theorem Team.advance_rest (t : Team) (i : Ins) : (t.advance i).rest = t.rest := by dsimp only [Team.advance]

/-! Team.addFlags -/

@[simp] theorem Team.addFlags_vf (t : Team) (n : Nat) : (t.addFlags n).vf = t.vf := by dsimp only [Team.addFlags]
@[simp] theorem Team.addFlags_job (t : Team) (n : Nat) : (t.addFlags n).job = t.job := by dsimp only [Team.addFlags]
@[simp] theorem Team.addFlags_block (t : Team) (n : Nat) : (t.addFlags n).block = t.block := by dsimp only [Team.addFlags]
@[simp] theorem Team.addFlags_nlanes (t : Team) (n : Nat) : (t.addFlags n).nlanes = t.nlanes := by dsimp only [Team.addFlags]
@[simp] theorem Team.addFlags_vregs (t : Team) (n : Nat) : (t.addFlags n).vregs = t.vregs := by dsimp only [Team.addFlags]
@[simp] theorem Team.addFlags_sregs (t : Team) (n : Nat) : (t.addFlags n).sregs = t.sregs := by dsimp only [Team.addFlags]
@[simp] theorem Team.addFlags_stage (t : Team) (n : Nat) : (t.addFlags n).stage = t.stage := by dsimp only [Team.addFlags]
@[simp] theorem Team.addFlags_prio (t : Team) (n : Nat) : (t.addFlags n).prio = t.prio := by dsimp only [Team.addFlags]
@[simp] theorem Team.addFlags_teamid (t : Team) (n : Nat) : (t.addFlags n).teamid = t.teamid := by dsimp only [Team.addFlags]
@[simp] theorem Team.addFlags_ctxbase (t : Team) (n : Nat) : (t.addFlags n).ctxbase = t.ctxbase := by dsimp only [Team.addFlags]
@[simp] theorem Team.addFlags_blockx (t : Team) (n : Nat) : (t.addFlags n).blockx = t.blockx := by dsimp only [Team.addFlags]
@[simp] theorem Team.addFlags_blocky (t : Team) (n : Nat) : (t.addFlags n).blocky = t.blocky := by dsimp only [Team.addFlags]
@[simp] theorem Team.addFlags_blockz (t : Team) (n : Nat) : (t.addFlags n).blockz = t.blockz := by dsimp only [Team.addFlags]
@[simp] theorem Team.addFlags_sgid (t : Team) (n : Nat) : (t.addFlags n).sgid = t.sgid := by dsimp only [Team.addFlags]
@[simp] theorem Team.addFlags_sgidx (t : Team) (n : Nat) : (t.addFlags n).sgidx = t.sgidx := by dsimp only [Team.addFlags]
@[simp] theorem Team.addFlags_pc (t : Team) (n : Nat) : (t.addFlags n).pc = t.pc := by dsimp only [Team.addFlags]
@[simp] theorem Team.addFlags_st (t : Team) (n : Nat) : (t.addFlags n).st = t.st := by dsimp only [Team.addFlags]
@[simp] theorem Team.addFlags_cause (t : Team) (n : Nat) : (t.addFlags n).cause = t.cause := by dsimp only [Team.addFlags]
@[simp] theorem Team.addFlags_arg (t : Team) (n : Nat) : (t.addFlags n).arg = t.arg := by dsimp only [Team.addFlags]
@[simp] theorem Team.addFlags_hmode (t : Team) (n : Nat) : (t.addFlags n).hmode = t.hmode := by dsimp only [Team.addFlags]
@[simp] theorem Team.addFlags_rprog (t : Team) (n : Nat) : (t.addFlags n).rprog = t.rprog := by dsimp only [Team.addFlags]
@[simp] theorem Team.addFlags_fpctl (t : Team) (n : Nat) : (t.addFlags n).fpctl = t.fpctl := by dsimp only [Team.addFlags]
@[simp] theorem Team.addFlags_seed (t : Team) (n : Nat) : (t.addFlags n).seed = t.seed := by dsimp only [Team.addFlags]
@[simp] theorem Team.addFlags_mask (t : Team) (n : Nat) : (t.addFlags n).mask = t.mask := by dsimp only [Team.addFlags]
@[simp] theorem Team.addFlags_v (t : Team) (n : Nat) : (t.addFlags n).v = t.v := by dsimp only [Team.addFlags]
@[simp] theorem Team.addFlags_vE (t : Team) (n : Nat) : (t.addFlags n).vE = t.vE := by dsimp only [Team.addFlags]
@[simp] theorem Team.addFlags_vBad (t : Team) (n : Nat) : (t.addFlags n).vBad = t.vBad := by dsimp only [Team.addFlags]
@[simp] theorem Team.addFlags_s (t : Team) (n : Nat) : (t.addFlags n).s = t.s := by dsimp only [Team.addFlags]
@[simp] theorem Team.addFlags_sE (t : Team) (n : Nat) : (t.addFlags n).sE = t.sE := by dsimp only [Team.addFlags]
@[simp] theorem Team.addFlags_p (t : Team) (n : Nat) : (t.addFlags n).p = t.p := by dsimp only [Team.addFlags]
@[simp] theorem Team.addFlags_pE (t : Team) (n : Nat) : (t.addFlags n).pE = t.pE := by dsimp only [Team.addFlags]
@[simp] theorem Team.addFlags_q (t : Team) (n : Nat) : (t.addFlags n).q = t.q := by dsimp only [Team.addFlags]
@[simp] theorem Team.addFlags_qE (t : Team) (n : Nat) : (t.addFlags n).qE = t.qE := by dsimp only [Team.addFlags]
@[simp] theorem Team.addFlags_trapcause (t : Team) (n : Nat) : (t.addFlags n).trapcause = t.trapcause := by dsimp only [Team.addFlags]
@[simp] theorem Team.addFlags_trappc (t : Team) (n : Nat) : (t.addFlags n).trappc = t.trappc := by dsimp only [Team.addFlags]
@[simp] theorem Team.addFlags_trapskid (t : Team) (n : Nat) : (t.addFlags n).trapskid = t.trapskid := by dsimp only [Team.addFlags]
@[simp] theorem Team.addFlags_stepctl (t : Team) (n : Nat) : (t.addFlags n).stepctl = t.stepctl := by dsimp only [Team.addFlags]
@[simp] theorem Team.addFlags_haltctl (t : Team) (n : Nat) : (t.addFlags n).haltctl = t.haltctl := by dsimp only [Team.addFlags]
@[simp] theorem Team.addFlags_trapbase (t : Team) (n : Nat) : (t.addFlags n).trapbase = t.trapbase := by dsimp only [Team.addFlags]
@[simp] theorem Team.addFlags_savedQ (t : Team) (n : Nat) : (t.addFlags n).savedQ = t.savedQ := by dsimp only [Team.addFlags]
@[simp] theorem Team.addFlags_savedQE (t : Team) (n : Nat) : (t.addFlags n).savedQE = t.savedQE := by dsimp only [Team.addFlags]
@[simp] theorem Team.addFlags_savedFpctl (t : Team) (n : Nat) : (t.addFlags n).savedFpctl = t.savedFpctl := by dsimp only [Team.addFlags]
@[simp] theorem Team.addFlags_sideSave (t : Team) (n : Nat) : (t.addFlags n).sideSave = t.sideSave := by dsimp only [Team.addFlags]
@[simp] theorem Team.addFlags_side (t : Team) (n : Nat) : (t.addFlags n).side = t.side := by dsimp only [Team.addFlags]
@[simp] theorem Team.addFlags_stepping (t : Team) (n : Nat) : (t.addFlags n).stepping = t.stepping := by dsimp only [Team.addFlags]
@[simp] theorem Team.addFlags_noWatch (t : Team) (n : Nat) : (t.addFlags n).noWatch = t.noWatch := by dsimp only [Team.addFlags]
@[simp] theorem Team.addFlags_skid (t : Team) (n : Nat) : (t.addFlags n).skid = t.skid := by dsimp only [Team.addFlags]
@[simp] theorem Team.addFlags_pend (t : Team) (n : Nat) : (t.addFlags n).pend = t.pend := by dsimp only [Team.addFlags]
@[simp] theorem Team.addFlags_pendMore (t : Team) (n : Nat) : (t.addFlags n).pendMore = t.pendMore := by dsimp only [Team.addFlags]
@[simp] theorem Team.addFlags_parkNext (t : Team) (n : Nat) : (t.addFlags n).parkNext = t.parkNext := by dsimp only [Team.addFlags]
@[simp] theorem Team.addFlags_cancelPend (t : Team) (n : Nat) : (t.addFlags n).cancelPend = t.cancelPend := by dsimp only [Team.addFlags]
@[simp] theorem Team.addFlags_verdict (t : Team) (n : Nat) : (t.addFlags n).verdict = t.verdict := by dsimp only [Team.addFlags]
@[simp] theorem Team.addFlags_mma (t : Team) (n : Nat) : (t.addFlags n).mma = t.mma := by dsimp only [Team.addFlags]
@[simp] theorem Team.addFlags_ksteps (t : Team) (n : Nat) : (t.addFlags n).ksteps = t.ksteps := by dsimp only [Team.addFlags]
@[simp] theorem Team.addFlags_creds (t : Team) (n : Nat) : (t.addFlags n).creds = t.creds := by dsimp only [Team.addFlags]
@[simp] theorem Team.addFlags_waste (t : Team) (n : Nat) : (t.addFlags n).waste = t.waste := by dsimp only [Team.addFlags]
@[simp] theorem Team.addFlags_icount (t : Team) (n : Nat) : (t.addFlags n).icount = t.icount := by dsimp only [Team.addFlags]
@[simp] theorem Team.addFlags_countOnWake (t : Team) (n : Nat) : (t.addFlags n).countOnWake = t.countOnWake := by dsimp only [Team.addFlags]
@[simp] theorem Team.addFlags_owes (t : Team) (n : Nat) : (t.addFlags n).owes = t.owes := by dsimp only [Team.addFlags]
@[simp] theorem Team.addFlags_inSlot (t : Team) (n : Nat) : (t.addFlags n).inSlot = t.inSlot := by dsimp only [Team.addFlags]
@[simp] theorem Team.addFlags_core (t : Team) (n : Nat) : (t.addFlags n).core = t.core := by dsimp only [Team.addFlags]
@[simp] theorem Team.addFlags_part (t : Team) (n : Nat) : (t.addFlags n).part = t.part := by dsimp only [Team.addFlags]
@[simp] theorem Team.addFlags_slot (t : Team) (n : Nat) : (t.addFlags n).slot = t.slot := by dsimp only [Team.addFlags]
@[simp] theorem Team.addFlags_age (t : Team) (n : Nat) : (t.addFlags n).age = t.age := by dsimp only [Team.addFlags]
@[simp] theorem Team.addFlags_readyAt (t : Team) (n : Nat) : (t.addFlags n).readyAt = t.readyAt := by dsimp only [Team.addFlags]
@[simp] theorem Team.addFlags_parkedAt (t : Team) (n : Nat) : (t.addFlags n).parkedAt = t.parkedAt := by dsimp only [Team.addFlags]
@[simp] theorem Team.addFlags_activeAt (t : Team) (n : Nat) : (t.addFlags n).activeAt = t.activeAt := by dsimp only [Team.addFlags]
@[simp] theorem Team.addFlags_quotaAt (t : Team) (n : Nat) : (t.addFlags n).quotaAt = t.quotaAt := by dsimp only [Team.addFlags]
@[simp] theorem Team.addFlags_quotaUsed (t : Team) (n : Nat) : (t.addFlags n).quotaUsed = t.quotaUsed := by dsimp only [Team.addFlags]
@[simp] theorem Team.addFlags_evTarget (t : Team) (n : Nat) : (t.addFlags n).evTarget = t.evTarget := by dsimp only [Team.addFlags]
@[simp] theorem Team.addFlags_rejects (t : Team) (n : Nat) : (t.addFlags n).rejects = t.rejects := by dsimp only [Team.addFlags]
@[simp] theorem Team.addFlags_retryAt (t : Team) (n : Nat) : (t.addFlags n).retryAt = t.retryAt := by dsimp only [Team.addFlags]
@[simp] theorem Team.addFlags_freed (t : Team) (n : Nat) : (t.addFlags n).freed = t.freed := by dsimp only [Team.addFlags]
@[simp] theorem Team.addFlags_unsaved (t : Team) (n : Nat) : (t.addFlags n).unsaved = t.unsaved := by dsimp only [Team.addFlags]
@[simp] theorem Team.addFlags_unsavedCtl (t : Team) (n : Nat) : (t.addFlags n).unsavedCtl = t.unsavedCtl := by dsimp only [Team.addFlags]
@[simp] theorem Team.addFlags_saveRec (t : Team) (n : Nat) : (t.addFlags n).saveRec = t.saveRec := by dsimp only [Team.addFlags]
@[simp] theorem Team.addFlags_rest (t : Team) (n : Nat) : (t.addFlags n).rest = t.rest := by dsimp only [Team.addFlags]

/-! Team.setP -/

@[simp] theorem Team.setP_vf (t : Team) (r l : Nat) (b : Bool) : (t.setP r l b).vf = t.vf := by rw [Team.setP]; split_ifs <;> dsimp only
@[simp] theorem Team.setP_job (t : Team) (r l : Nat) (b : Bool) : (t.setP r l b).job = t.job := by rw [Team.setP]; split_ifs <;> dsimp only
@[simp] theorem Team.setP_block (t : Team) (r l : Nat) (b : Bool) : (t.setP r l b).block = t.block := by rw [Team.setP]; split_ifs <;> dsimp only
@[simp] theorem Team.setP_nlanes (t : Team) (r l : Nat) (b : Bool) : (t.setP r l b).nlanes = t.nlanes := by rw [Team.setP]; split_ifs <;> dsimp only
@[simp] theorem Team.setP_vregs (t : Team) (r l : Nat) (b : Bool) : (t.setP r l b).vregs = t.vregs := by rw [Team.setP]; split_ifs <;> dsimp only
@[simp] theorem Team.setP_sregs (t : Team) (r l : Nat) (b : Bool) : (t.setP r l b).sregs = t.sregs := by rw [Team.setP]; split_ifs <;> dsimp only
@[simp] theorem Team.setP_stage (t : Team) (r l : Nat) (b : Bool) : (t.setP r l b).stage = t.stage := by rw [Team.setP]; split_ifs <;> dsimp only
@[simp] theorem Team.setP_prio (t : Team) (r l : Nat) (b : Bool) : (t.setP r l b).prio = t.prio := by rw [Team.setP]; split_ifs <;> dsimp only
@[simp] theorem Team.setP_teamid (t : Team) (r l : Nat) (b : Bool) : (t.setP r l b).teamid = t.teamid := by rw [Team.setP]; split_ifs <;> dsimp only
@[simp] theorem Team.setP_ctxbase (t : Team) (r l : Nat) (b : Bool) : (t.setP r l b).ctxbase = t.ctxbase := by rw [Team.setP]; split_ifs <;> dsimp only
@[simp] theorem Team.setP_blockx (t : Team) (r l : Nat) (b : Bool) : (t.setP r l b).blockx = t.blockx := by rw [Team.setP]; split_ifs <;> dsimp only
@[simp] theorem Team.setP_blocky (t : Team) (r l : Nat) (b : Bool) : (t.setP r l b).blocky = t.blocky := by rw [Team.setP]; split_ifs <;> dsimp only
@[simp] theorem Team.setP_blockz (t : Team) (r l : Nat) (b : Bool) : (t.setP r l b).blockz = t.blockz := by rw [Team.setP]; split_ifs <;> dsimp only
@[simp] theorem Team.setP_sgid (t : Team) (r l : Nat) (b : Bool) : (t.setP r l b).sgid = t.sgid := by rw [Team.setP]; split_ifs <;> dsimp only
@[simp] theorem Team.setP_sgidx (t : Team) (r l : Nat) (b : Bool) : (t.setP r l b).sgidx = t.sgidx := by rw [Team.setP]; split_ifs <;> dsimp only
@[simp] theorem Team.setP_pc (t : Team) (r l : Nat) (b : Bool) : (t.setP r l b).pc = t.pc := by rw [Team.setP]; split_ifs <;> dsimp only
@[simp] theorem Team.setP_st (t : Team) (r l : Nat) (b : Bool) : (t.setP r l b).st = t.st := by rw [Team.setP]; split_ifs <;> dsimp only
@[simp] theorem Team.setP_cause (t : Team) (r l : Nat) (b : Bool) : (t.setP r l b).cause = t.cause := by rw [Team.setP]; split_ifs <;> dsimp only
@[simp] theorem Team.setP_arg (t : Team) (r l : Nat) (b : Bool) : (t.setP r l b).arg = t.arg := by rw [Team.setP]; split_ifs <;> dsimp only
@[simp] theorem Team.setP_hmode (t : Team) (r l : Nat) (b : Bool) : (t.setP r l b).hmode = t.hmode := by rw [Team.setP]; split_ifs <;> dsimp only
@[simp] theorem Team.setP_rprog (t : Team) (r l : Nat) (b : Bool) : (t.setP r l b).rprog = t.rprog := by rw [Team.setP]; split_ifs <;> dsimp only
@[simp] theorem Team.setP_fpctl (t : Team) (r l : Nat) (b : Bool) : (t.setP r l b).fpctl = t.fpctl := by rw [Team.setP]; split_ifs <;> dsimp only
@[simp] theorem Team.setP_fpflags (t : Team) (r l : Nat) (b : Bool) : (t.setP r l b).fpflags = t.fpflags := by rw [Team.setP]; split_ifs <;> dsimp only
@[simp] theorem Team.setP_seed (t : Team) (r l : Nat) (b : Bool) : (t.setP r l b).seed = t.seed := by rw [Team.setP]; split_ifs <;> dsimp only
@[simp] theorem Team.setP_mask (t : Team) (r l : Nat) (b : Bool) : (t.setP r l b).mask = t.mask := by rw [Team.setP]; split_ifs <;> dsimp only
@[simp] theorem Team.setP_v (t : Team) (r l : Nat) (b : Bool) : (t.setP r l b).v = t.v := by rw [Team.setP]; split_ifs <;> dsimp only
@[simp] theorem Team.setP_vE (t : Team) (r l : Nat) (b : Bool) : (t.setP r l b).vE = t.vE := by rw [Team.setP]; split_ifs <;> dsimp only
@[simp] theorem Team.setP_vBad (t : Team) (r l : Nat) (b : Bool) : (t.setP r l b).vBad = t.vBad := by rw [Team.setP]; split_ifs <;> dsimp only
@[simp] theorem Team.setP_s (t : Team) (r l : Nat) (b : Bool) : (t.setP r l b).s = t.s := by rw [Team.setP]; split_ifs <;> dsimp only
@[simp] theorem Team.setP_sE (t : Team) (r l : Nat) (b : Bool) : (t.setP r l b).sE = t.sE := by rw [Team.setP]; split_ifs <;> dsimp only
@[simp] theorem Team.setP_q (t : Team) (r l : Nat) (b : Bool) : (t.setP r l b).q = t.q := by rw [Team.setP]; split_ifs <;> dsimp only
@[simp] theorem Team.setP_qE (t : Team) (r l : Nat) (b : Bool) : (t.setP r l b).qE = t.qE := by rw [Team.setP]; split_ifs <;> dsimp only
@[simp] theorem Team.setP_trapcause (t : Team) (r l : Nat) (b : Bool) : (t.setP r l b).trapcause = t.trapcause := by rw [Team.setP]; split_ifs <;> dsimp only
@[simp] theorem Team.setP_trappc (t : Team) (r l : Nat) (b : Bool) : (t.setP r l b).trappc = t.trappc := by rw [Team.setP]; split_ifs <;> dsimp only
@[simp] theorem Team.setP_trapskid (t : Team) (r l : Nat) (b : Bool) : (t.setP r l b).trapskid = t.trapskid := by rw [Team.setP]; split_ifs <;> dsimp only
@[simp] theorem Team.setP_stepctl (t : Team) (r l : Nat) (b : Bool) : (t.setP r l b).stepctl = t.stepctl := by rw [Team.setP]; split_ifs <;> dsimp only
@[simp] theorem Team.setP_haltctl (t : Team) (r l : Nat) (b : Bool) : (t.setP r l b).haltctl = t.haltctl := by rw [Team.setP]; split_ifs <;> dsimp only
@[simp] theorem Team.setP_trapbase (t : Team) (r l : Nat) (b : Bool) : (t.setP r l b).trapbase = t.trapbase := by rw [Team.setP]; split_ifs <;> dsimp only
@[simp] theorem Team.setP_savedQ (t : Team) (r l : Nat) (b : Bool) : (t.setP r l b).savedQ = t.savedQ := by rw [Team.setP]; split_ifs <;> dsimp only
@[simp] theorem Team.setP_savedQE (t : Team) (r l : Nat) (b : Bool) : (t.setP r l b).savedQE = t.savedQE := by rw [Team.setP]; split_ifs <;> dsimp only
@[simp] theorem Team.setP_savedFpctl (t : Team) (r l : Nat) (b : Bool) : (t.setP r l b).savedFpctl = t.savedFpctl := by rw [Team.setP]; split_ifs <;> dsimp only
@[simp] theorem Team.setP_sideSave (t : Team) (r l : Nat) (b : Bool) : (t.setP r l b).sideSave = t.sideSave := by rw [Team.setP]; split_ifs <;> dsimp only
@[simp] theorem Team.setP_side (t : Team) (r l : Nat) (b : Bool) : (t.setP r l b).side = t.side := by rw [Team.setP]; split_ifs <;> dsimp only
@[simp] theorem Team.setP_stepping (t : Team) (r l : Nat) (b : Bool) : (t.setP r l b).stepping = t.stepping := by rw [Team.setP]; split_ifs <;> dsimp only
@[simp] theorem Team.setP_noWatch (t : Team) (r l : Nat) (b : Bool) : (t.setP r l b).noWatch = t.noWatch := by rw [Team.setP]; split_ifs <;> dsimp only
@[simp] theorem Team.setP_skid (t : Team) (r l : Nat) (b : Bool) : (t.setP r l b).skid = t.skid := by rw [Team.setP]; split_ifs <;> dsimp only
@[simp] theorem Team.setP_pend (t : Team) (r l : Nat) (b : Bool) : (t.setP r l b).pend = t.pend := by rw [Team.setP]; split_ifs <;> dsimp only
@[simp] theorem Team.setP_pendMore (t : Team) (r l : Nat) (b : Bool) : (t.setP r l b).pendMore = t.pendMore := by rw [Team.setP]; split_ifs <;> dsimp only
@[simp] theorem Team.setP_parkNext (t : Team) (r l : Nat) (b : Bool) : (t.setP r l b).parkNext = t.parkNext := by rw [Team.setP]; split_ifs <;> dsimp only
@[simp] theorem Team.setP_cancelPend (t : Team) (r l : Nat) (b : Bool) : (t.setP r l b).cancelPend = t.cancelPend := by rw [Team.setP]; split_ifs <;> dsimp only
@[simp] theorem Team.setP_verdict (t : Team) (r l : Nat) (b : Bool) : (t.setP r l b).verdict = t.verdict := by rw [Team.setP]; split_ifs <;> dsimp only
@[simp] theorem Team.setP_mma (t : Team) (r l : Nat) (b : Bool) : (t.setP r l b).mma = t.mma := by rw [Team.setP]; split_ifs <;> dsimp only
@[simp] theorem Team.setP_ksteps (t : Team) (r l : Nat) (b : Bool) : (t.setP r l b).ksteps = t.ksteps := by rw [Team.setP]; split_ifs <;> dsimp only
@[simp] theorem Team.setP_creds (t : Team) (r l : Nat) (b : Bool) : (t.setP r l b).creds = t.creds := by rw [Team.setP]; split_ifs <;> dsimp only
@[simp] theorem Team.setP_waste (t : Team) (r l : Nat) (b : Bool) : (t.setP r l b).waste = t.waste := by rw [Team.setP]; split_ifs <;> dsimp only
@[simp] theorem Team.setP_icount (t : Team) (r l : Nat) (b : Bool) : (t.setP r l b).icount = t.icount := by rw [Team.setP]; split_ifs <;> dsimp only
@[simp] theorem Team.setP_countOnWake (t : Team) (r l : Nat) (b : Bool) : (t.setP r l b).countOnWake = t.countOnWake := by rw [Team.setP]; split_ifs <;> dsimp only
@[simp] theorem Team.setP_owes (t : Team) (r l : Nat) (b : Bool) : (t.setP r l b).owes = t.owes := by rw [Team.setP]; split_ifs <;> dsimp only
@[simp] theorem Team.setP_inSlot (t : Team) (r l : Nat) (b : Bool) : (t.setP r l b).inSlot = t.inSlot := by rw [Team.setP]; split_ifs <;> dsimp only
@[simp] theorem Team.setP_core (t : Team) (r l : Nat) (b : Bool) : (t.setP r l b).core = t.core := by rw [Team.setP]; split_ifs <;> dsimp only
@[simp] theorem Team.setP_part (t : Team) (r l : Nat) (b : Bool) : (t.setP r l b).part = t.part := by rw [Team.setP]; split_ifs <;> dsimp only
@[simp] theorem Team.setP_slot (t : Team) (r l : Nat) (b : Bool) : (t.setP r l b).slot = t.slot := by rw [Team.setP]; split_ifs <;> dsimp only
@[simp] theorem Team.setP_age (t : Team) (r l : Nat) (b : Bool) : (t.setP r l b).age = t.age := by rw [Team.setP]; split_ifs <;> dsimp only
@[simp] theorem Team.setP_readyAt (t : Team) (r l : Nat) (b : Bool) : (t.setP r l b).readyAt = t.readyAt := by rw [Team.setP]; split_ifs <;> dsimp only
@[simp] theorem Team.setP_parkedAt (t : Team) (r l : Nat) (b : Bool) : (t.setP r l b).parkedAt = t.parkedAt := by rw [Team.setP]; split_ifs <;> dsimp only
@[simp] theorem Team.setP_activeAt (t : Team) (r l : Nat) (b : Bool) : (t.setP r l b).activeAt = t.activeAt := by rw [Team.setP]; split_ifs <;> dsimp only
@[simp] theorem Team.setP_quotaAt (t : Team) (r l : Nat) (b : Bool) : (t.setP r l b).quotaAt = t.quotaAt := by rw [Team.setP]; split_ifs <;> dsimp only
@[simp] theorem Team.setP_quotaUsed (t : Team) (r l : Nat) (b : Bool) : (t.setP r l b).quotaUsed = t.quotaUsed := by rw [Team.setP]; split_ifs <;> dsimp only
@[simp] theorem Team.setP_evTarget (t : Team) (r l : Nat) (b : Bool) : (t.setP r l b).evTarget = t.evTarget := by rw [Team.setP]; split_ifs <;> dsimp only
@[simp] theorem Team.setP_rejects (t : Team) (r l : Nat) (b : Bool) : (t.setP r l b).rejects = t.rejects := by rw [Team.setP]; split_ifs <;> dsimp only
@[simp] theorem Team.setP_retryAt (t : Team) (r l : Nat) (b : Bool) : (t.setP r l b).retryAt = t.retryAt := by rw [Team.setP]; split_ifs <;> dsimp only
@[simp] theorem Team.setP_freed (t : Team) (r l : Nat) (b : Bool) : (t.setP r l b).freed = t.freed := by rw [Team.setP]; split_ifs <;> dsimp only
@[simp] theorem Team.setP_unsaved (t : Team) (r l : Nat) (b : Bool) : (t.setP r l b).unsaved = t.unsaved := by rw [Team.setP]; split_ifs <;> dsimp only
@[simp] theorem Team.setP_unsavedCtl (t : Team) (r l : Nat) (b : Bool) : (t.setP r l b).unsavedCtl = t.unsavedCtl := by rw [Team.setP]; split_ifs <;> dsimp only
@[simp] theorem Team.setP_saveRec (t : Team) (r l : Nat) (b : Bool) : (t.setP r l b).saveRec = t.saveRec := by rw [Team.setP]; split_ifs <;> dsimp only
@[simp] theorem Team.setP_rest (t : Team) (r l : Nat) (b : Bool) : (t.setP r l b).rest = t.rest := by rw [Team.setP]; split_ifs <;> dsimp only

/-! Team.setQ -/

@[simp] theorem Team.setQ_vf (t : Team) (r : Nat) (b : Bool) : (t.setQ r b).vf = t.vf := by rw [Team.setQ]; split_ifs <;> dsimp only
@[simp] theorem Team.setQ_job (t : Team) (r : Nat) (b : Bool) : (t.setQ r b).job = t.job := by rw [Team.setQ]; split_ifs <;> dsimp only
@[simp] theorem Team.setQ_block (t : Team) (r : Nat) (b : Bool) : (t.setQ r b).block = t.block := by rw [Team.setQ]; split_ifs <;> dsimp only
@[simp] theorem Team.setQ_nlanes (t : Team) (r : Nat) (b : Bool) : (t.setQ r b).nlanes = t.nlanes := by rw [Team.setQ]; split_ifs <;> dsimp only
@[simp] theorem Team.setQ_vregs (t : Team) (r : Nat) (b : Bool) : (t.setQ r b).vregs = t.vregs := by rw [Team.setQ]; split_ifs <;> dsimp only
@[simp] theorem Team.setQ_sregs (t : Team) (r : Nat) (b : Bool) : (t.setQ r b).sregs = t.sregs := by rw [Team.setQ]; split_ifs <;> dsimp only
@[simp] theorem Team.setQ_stage (t : Team) (r : Nat) (b : Bool) : (t.setQ r b).stage = t.stage := by rw [Team.setQ]; split_ifs <;> dsimp only
@[simp] theorem Team.setQ_prio (t : Team) (r : Nat) (b : Bool) : (t.setQ r b).prio = t.prio := by rw [Team.setQ]; split_ifs <;> dsimp only
@[simp] theorem Team.setQ_teamid (t : Team) (r : Nat) (b : Bool) : (t.setQ r b).teamid = t.teamid := by rw [Team.setQ]; split_ifs <;> dsimp only
@[simp] theorem Team.setQ_ctxbase (t : Team) (r : Nat) (b : Bool) : (t.setQ r b).ctxbase = t.ctxbase := by rw [Team.setQ]; split_ifs <;> dsimp only
@[simp] theorem Team.setQ_blockx (t : Team) (r : Nat) (b : Bool) : (t.setQ r b).blockx = t.blockx := by rw [Team.setQ]; split_ifs <;> dsimp only
@[simp] theorem Team.setQ_blocky (t : Team) (r : Nat) (b : Bool) : (t.setQ r b).blocky = t.blocky := by rw [Team.setQ]; split_ifs <;> dsimp only
@[simp] theorem Team.setQ_blockz (t : Team) (r : Nat) (b : Bool) : (t.setQ r b).blockz = t.blockz := by rw [Team.setQ]; split_ifs <;> dsimp only
@[simp] theorem Team.setQ_sgid (t : Team) (r : Nat) (b : Bool) : (t.setQ r b).sgid = t.sgid := by rw [Team.setQ]; split_ifs <;> dsimp only
@[simp] theorem Team.setQ_sgidx (t : Team) (r : Nat) (b : Bool) : (t.setQ r b).sgidx = t.sgidx := by rw [Team.setQ]; split_ifs <;> dsimp only
@[simp] theorem Team.setQ_pc (t : Team) (r : Nat) (b : Bool) : (t.setQ r b).pc = t.pc := by rw [Team.setQ]; split_ifs <;> dsimp only
@[simp] theorem Team.setQ_st (t : Team) (r : Nat) (b : Bool) : (t.setQ r b).st = t.st := by rw [Team.setQ]; split_ifs <;> dsimp only
@[simp] theorem Team.setQ_cause (t : Team) (r : Nat) (b : Bool) : (t.setQ r b).cause = t.cause := by rw [Team.setQ]; split_ifs <;> dsimp only
@[simp] theorem Team.setQ_arg (t : Team) (r : Nat) (b : Bool) : (t.setQ r b).arg = t.arg := by rw [Team.setQ]; split_ifs <;> dsimp only
@[simp] theorem Team.setQ_hmode (t : Team) (r : Nat) (b : Bool) : (t.setQ r b).hmode = t.hmode := by rw [Team.setQ]; split_ifs <;> dsimp only
@[simp] theorem Team.setQ_rprog (t : Team) (r : Nat) (b : Bool) : (t.setQ r b).rprog = t.rprog := by rw [Team.setQ]; split_ifs <;> dsimp only
@[simp] theorem Team.setQ_fpctl (t : Team) (r : Nat) (b : Bool) : (t.setQ r b).fpctl = t.fpctl := by rw [Team.setQ]; split_ifs <;> dsimp only
@[simp] theorem Team.setQ_fpflags (t : Team) (r : Nat) (b : Bool) : (t.setQ r b).fpflags = t.fpflags := by rw [Team.setQ]; split_ifs <;> dsimp only
@[simp] theorem Team.setQ_seed (t : Team) (r : Nat) (b : Bool) : (t.setQ r b).seed = t.seed := by rw [Team.setQ]; split_ifs <;> dsimp only
@[simp] theorem Team.setQ_mask (t : Team) (r : Nat) (b : Bool) : (t.setQ r b).mask = t.mask := by rw [Team.setQ]; split_ifs <;> dsimp only
@[simp] theorem Team.setQ_v (t : Team) (r : Nat) (b : Bool) : (t.setQ r b).v = t.v := by rw [Team.setQ]; split_ifs <;> dsimp only
@[simp] theorem Team.setQ_vE (t : Team) (r : Nat) (b : Bool) : (t.setQ r b).vE = t.vE := by rw [Team.setQ]; split_ifs <;> dsimp only
@[simp] theorem Team.setQ_vBad (t : Team) (r : Nat) (b : Bool) : (t.setQ r b).vBad = t.vBad := by rw [Team.setQ]; split_ifs <;> dsimp only
@[simp] theorem Team.setQ_s (t : Team) (r : Nat) (b : Bool) : (t.setQ r b).s = t.s := by rw [Team.setQ]; split_ifs <;> dsimp only
@[simp] theorem Team.setQ_sE (t : Team) (r : Nat) (b : Bool) : (t.setQ r b).sE = t.sE := by rw [Team.setQ]; split_ifs <;> dsimp only
@[simp] theorem Team.setQ_p (t : Team) (r : Nat) (b : Bool) : (t.setQ r b).p = t.p := by rw [Team.setQ]; split_ifs <;> dsimp only
@[simp] theorem Team.setQ_pE (t : Team) (r : Nat) (b : Bool) : (t.setQ r b).pE = t.pE := by rw [Team.setQ]; split_ifs <;> dsimp only
@[simp] theorem Team.setQ_trapcause (t : Team) (r : Nat) (b : Bool) : (t.setQ r b).trapcause = t.trapcause := by rw [Team.setQ]; split_ifs <;> dsimp only
@[simp] theorem Team.setQ_trappc (t : Team) (r : Nat) (b : Bool) : (t.setQ r b).trappc = t.trappc := by rw [Team.setQ]; split_ifs <;> dsimp only
@[simp] theorem Team.setQ_trapskid (t : Team) (r : Nat) (b : Bool) : (t.setQ r b).trapskid = t.trapskid := by rw [Team.setQ]; split_ifs <;> dsimp only
@[simp] theorem Team.setQ_stepctl (t : Team) (r : Nat) (b : Bool) : (t.setQ r b).stepctl = t.stepctl := by rw [Team.setQ]; split_ifs <;> dsimp only
@[simp] theorem Team.setQ_haltctl (t : Team) (r : Nat) (b : Bool) : (t.setQ r b).haltctl = t.haltctl := by rw [Team.setQ]; split_ifs <;> dsimp only
@[simp] theorem Team.setQ_trapbase (t : Team) (r : Nat) (b : Bool) : (t.setQ r b).trapbase = t.trapbase := by rw [Team.setQ]; split_ifs <;> dsimp only
@[simp] theorem Team.setQ_savedQ (t : Team) (r : Nat) (b : Bool) : (t.setQ r b).savedQ = t.savedQ := by rw [Team.setQ]; split_ifs <;> dsimp only
@[simp] theorem Team.setQ_savedQE (t : Team) (r : Nat) (b : Bool) : (t.setQ r b).savedQE = t.savedQE := by rw [Team.setQ]; split_ifs <;> dsimp only
@[simp] theorem Team.setQ_savedFpctl (t : Team) (r : Nat) (b : Bool) : (t.setQ r b).savedFpctl = t.savedFpctl := by rw [Team.setQ]; split_ifs <;> dsimp only
@[simp] theorem Team.setQ_sideSave (t : Team) (r : Nat) (b : Bool) : (t.setQ r b).sideSave = t.sideSave := by rw [Team.setQ]; split_ifs <;> dsimp only
@[simp] theorem Team.setQ_side (t : Team) (r : Nat) (b : Bool) : (t.setQ r b).side = t.side := by rw [Team.setQ]; split_ifs <;> dsimp only
@[simp] theorem Team.setQ_stepping (t : Team) (r : Nat) (b : Bool) : (t.setQ r b).stepping = t.stepping := by rw [Team.setQ]; split_ifs <;> dsimp only
@[simp] theorem Team.setQ_noWatch (t : Team) (r : Nat) (b : Bool) : (t.setQ r b).noWatch = t.noWatch := by rw [Team.setQ]; split_ifs <;> dsimp only
@[simp] theorem Team.setQ_skid (t : Team) (r : Nat) (b : Bool) : (t.setQ r b).skid = t.skid := by rw [Team.setQ]; split_ifs <;> dsimp only
@[simp] theorem Team.setQ_pend (t : Team) (r : Nat) (b : Bool) : (t.setQ r b).pend = t.pend := by rw [Team.setQ]; split_ifs <;> dsimp only
@[simp] theorem Team.setQ_pendMore (t : Team) (r : Nat) (b : Bool) : (t.setQ r b).pendMore = t.pendMore := by rw [Team.setQ]; split_ifs <;> dsimp only
@[simp] theorem Team.setQ_parkNext (t : Team) (r : Nat) (b : Bool) : (t.setQ r b).parkNext = t.parkNext := by rw [Team.setQ]; split_ifs <;> dsimp only
@[simp] theorem Team.setQ_cancelPend (t : Team) (r : Nat) (b : Bool) : (t.setQ r b).cancelPend = t.cancelPend := by rw [Team.setQ]; split_ifs <;> dsimp only
@[simp] theorem Team.setQ_verdict (t : Team) (r : Nat) (b : Bool) : (t.setQ r b).verdict = t.verdict := by rw [Team.setQ]; split_ifs <;> dsimp only
@[simp] theorem Team.setQ_mma (t : Team) (r : Nat) (b : Bool) : (t.setQ r b).mma = t.mma := by rw [Team.setQ]; split_ifs <;> dsimp only
@[simp] theorem Team.setQ_ksteps (t : Team) (r : Nat) (b : Bool) : (t.setQ r b).ksteps = t.ksteps := by rw [Team.setQ]; split_ifs <;> dsimp only
@[simp] theorem Team.setQ_creds (t : Team) (r : Nat) (b : Bool) : (t.setQ r b).creds = t.creds := by rw [Team.setQ]; split_ifs <;> dsimp only
@[simp] theorem Team.setQ_waste (t : Team) (r : Nat) (b : Bool) : (t.setQ r b).waste = t.waste := by rw [Team.setQ]; split_ifs <;> dsimp only
@[simp] theorem Team.setQ_icount (t : Team) (r : Nat) (b : Bool) : (t.setQ r b).icount = t.icount := by rw [Team.setQ]; split_ifs <;> dsimp only
@[simp] theorem Team.setQ_countOnWake (t : Team) (r : Nat) (b : Bool) : (t.setQ r b).countOnWake = t.countOnWake := by rw [Team.setQ]; split_ifs <;> dsimp only
@[simp] theorem Team.setQ_owes (t : Team) (r : Nat) (b : Bool) : (t.setQ r b).owes = t.owes := by rw [Team.setQ]; split_ifs <;> dsimp only
@[simp] theorem Team.setQ_inSlot (t : Team) (r : Nat) (b : Bool) : (t.setQ r b).inSlot = t.inSlot := by rw [Team.setQ]; split_ifs <;> dsimp only
@[simp] theorem Team.setQ_core (t : Team) (r : Nat) (b : Bool) : (t.setQ r b).core = t.core := by rw [Team.setQ]; split_ifs <;> dsimp only
@[simp] theorem Team.setQ_part (t : Team) (r : Nat) (b : Bool) : (t.setQ r b).part = t.part := by rw [Team.setQ]; split_ifs <;> dsimp only
@[simp] theorem Team.setQ_slot (t : Team) (r : Nat) (b : Bool) : (t.setQ r b).slot = t.slot := by rw [Team.setQ]; split_ifs <;> dsimp only
@[simp] theorem Team.setQ_age (t : Team) (r : Nat) (b : Bool) : (t.setQ r b).age = t.age := by rw [Team.setQ]; split_ifs <;> dsimp only
@[simp] theorem Team.setQ_readyAt (t : Team) (r : Nat) (b : Bool) : (t.setQ r b).readyAt = t.readyAt := by rw [Team.setQ]; split_ifs <;> dsimp only
@[simp] theorem Team.setQ_parkedAt (t : Team) (r : Nat) (b : Bool) : (t.setQ r b).parkedAt = t.parkedAt := by rw [Team.setQ]; split_ifs <;> dsimp only
@[simp] theorem Team.setQ_activeAt (t : Team) (r : Nat) (b : Bool) : (t.setQ r b).activeAt = t.activeAt := by rw [Team.setQ]; split_ifs <;> dsimp only
@[simp] theorem Team.setQ_quotaAt (t : Team) (r : Nat) (b : Bool) : (t.setQ r b).quotaAt = t.quotaAt := by rw [Team.setQ]; split_ifs <;> dsimp only
@[simp] theorem Team.setQ_quotaUsed (t : Team) (r : Nat) (b : Bool) : (t.setQ r b).quotaUsed = t.quotaUsed := by rw [Team.setQ]; split_ifs <;> dsimp only
@[simp] theorem Team.setQ_evTarget (t : Team) (r : Nat) (b : Bool) : (t.setQ r b).evTarget = t.evTarget := by rw [Team.setQ]; split_ifs <;> dsimp only
@[simp] theorem Team.setQ_rejects (t : Team) (r : Nat) (b : Bool) : (t.setQ r b).rejects = t.rejects := by rw [Team.setQ]; split_ifs <;> dsimp only
@[simp] theorem Team.setQ_retryAt (t : Team) (r : Nat) (b : Bool) : (t.setQ r b).retryAt = t.retryAt := by rw [Team.setQ]; split_ifs <;> dsimp only
@[simp] theorem Team.setQ_freed (t : Team) (r : Nat) (b : Bool) : (t.setQ r b).freed = t.freed := by rw [Team.setQ]; split_ifs <;> dsimp only
@[simp] theorem Team.setQ_unsaved (t : Team) (r : Nat) (b : Bool) : (t.setQ r b).unsaved = t.unsaved := by rw [Team.setQ]; split_ifs <;> dsimp only
@[simp] theorem Team.setQ_unsavedCtl (t : Team) (r : Nat) (b : Bool) : (t.setQ r b).unsavedCtl = t.unsavedCtl := by rw [Team.setQ]; split_ifs <;> dsimp only
@[simp] theorem Team.setQ_saveRec (t : Team) (r : Nat) (b : Bool) : (t.setQ r b).saveRec = t.saveRec := by rw [Team.setQ]; split_ifs <;> dsimp only
@[simp] theorem Team.setQ_rest (t : Team) (r : Nat) (b : Bool) : (t.setQ r b).rest = t.rest := by rw [Team.setQ]; split_ifs <;> dsimp only

end Sys2Proof.Machine
end

