-- ==== Sys2Proof/Laws/Fabric.lean ====
section
/-!
SUPPORT. What the memory fabric's operations may change: memories, metadata, registers of the windows, frames, cached translations, pools, held
writes, fault and report records. Teams, blocks, jobs, core memory, tables, engines, coherence, link and Belfry they leave alone.
-/
namespace Sys2Proof.Machine

/-- `t` differs from `s` in the memory fabric's own state alone. -/
def State.Apart (s t : State) : Prop :=
  t = { s with mem := t.mem, blk := t.blk, sysmem := t.sysmem, regs := t.regs, frames := t.frames, fresh := t.fresh, poolFree := t.poolFree,
               rsvFree := t.rsvFree, rsvLow := t.rsvLow, held := t.held, rounds := t.rounds, faults := t.faults, reports := t.reports, tlb := t.tlb, falls := t.falls,
               feLines := t.feLines }

theorem State.Apart.refl (s : State) : s.Apart s := rfl

theorem State.Apart.trans {s t u : State} (h : s.Apart t) (k : t.Apart u) : s.Apart u := by
  unfold State.Apart at h k ⊢
  rw [h] at k
  exact k

theorem State.Apart.foldl {α : Type} (g : State → α → State) (h : ∀ (s : State) (a : α), s.Apart (g s a)) (l : List α) (s : State) : s.Apart (l.foldl g s) := by
  induction l generalizing s with
  | nil => exact .refl s
  | cons a r ih => exact (h s a).trans (ih _)

theorem State.Apart.foldl_fst {α β : Type} (g : State × β → α → State × β) (h : ∀ (s : State × β) (a : α), s.1.Apart (g s a).1) (l : List α) (s : State × β) :
    s.1.Apart (l.foldl g s).1 := by
  induction l generalizing s with
  | nil => exact .refl s.1
  | cons a r ih => exact (h s a).trans (ih _)

/-! What it keeps, field by field. -/

theorem State.Apart.clock {s t : State} (h : s.Apart t) : t.clock = s.clock := by rw [h]
theorem State.Apart.time {s t : State} (h : s.Apart t) : t.time = s.time := by rw [h]
theorem State.Apart.cur {s t : State} (h : s.Apart t) : t.cur = s.cur := by rw [h]
theorem State.Apart.picked {s t : State} (h : s.Apart t) : t.picked = s.picked := by rw [h]
theorem State.Apart.agenda {s t : State} (h : s.Apart t) : t.agenda = s.agenda := by rw [h]
theorem State.Apart.deferred {s t : State} (h : s.Apart t) : t.deferred = s.deferred := by rw [h]
theorem State.Apart.inp {s t : State} (h : s.Apart t) : t.inp = s.inp := by rw [h]
theorem State.Apart.order {s t : State} (h : s.Apart t) : t.order = s.order := by rw [h]
theorem State.Apart.teams {s t : State} (h : s.Apart t) : t.teams = s.teams := by rw [h]
theorem State.Apart.blocks {s t : State} (h : s.Apart t) : t.blocks = s.blocks := by rw [h]
theorem State.Apart.jobs {s t : State} (h : s.Apart t) : t.jobs = s.jobs := by rw [h]
theorem State.Apart.orders {s t : State} (h : s.Apart t) : t.orders = s.orders := by rw [h]
theorem State.Apart.cm {s t : State} (h : s.Apart t) : t.cm = s.cm := by rw [h]
theorem State.Apart.cmBad {s t : State} (h : s.Apart t) : t.cmBad = s.cmBad := by rw [h]
theorem State.Apart.tails {s t : State} (h : s.Apart t) : t.tails = s.tails := by rw [h]
theorem State.Apart.feFail {s t : State} (h : s.Apart t) : t.feFail = s.feFail := by rw [h]
theorem State.Apart.replies {s t : State} (h : s.Apart t) : t.replies = s.replies := by rw [h]
theorem State.Apart.reserved {s t : State} (h : s.Apart t) : t.reserved = s.reserved := by rw [h]
theorem State.Apart.rcache {s t : State} (h : s.Apart t) : t.rcache = s.rcache := by rw [h]
theorem State.Apart.batches {s t : State} (h : s.Apart t) : t.batches = s.batches := by rw [h]
theorem State.Apart.verdicts {s t : State} (h : s.Apart t) : t.verdicts = s.verdicts := by rw [h]
theorem State.Apart.tables {s t : State} (h : s.Apart t) : t.tables = s.tables := by rw [h]
theorem State.Apart.spireRot {s t : State} (h : s.Apart t) : t.spireRot = s.spireRot := by rw [h]
theorem State.Apart.copies {s t : State} (h : s.Apart t) : t.copies = s.copies := by rw [h]
theorem State.Apart.promise {s t : State} (h : s.Apart t) : t.promise = s.promise := by rw [h]
theorem State.Apart.queues {s t : State} (h : s.Apart t) : t.queues = s.queues := by rw [h]
theorem State.Apart.qreqs {s t : State} (h : s.Apart t) : t.qreqs = s.qreqs := by rw [h]
theorem State.Apart.deposits {s t : State} (h : s.Apart t) : t.deposits = s.deposits := by rw [h]
theorem State.Apart.groups {s t : State} (h : s.Apart t) : t.groups = s.groups := by rw [h]
theorem State.Apart.posts {s t : State} (h : s.Apart t) : t.posts = s.posts := by rw [h]
theorem State.Apart.appends {s t : State} (h : s.Apart t) : t.appends = s.appends := by rw [h]
theorem State.Apart.watches {s t : State} (h : s.Apart t) : t.watches = s.watches := by rw [h]
theorem State.Apart.arrays {s t : State} (h : s.Apart t) : t.arrays = s.arrays := by rw [h]
theorem State.Apart.clusters {s t : State} (h : s.Apart t) : t.clusters = s.clusters := by rw [h]
theorem State.Apart.fePrev {s t : State} (h : s.Apart t) : t.fePrev = s.fePrev := by rw [h]
theorem State.Apart.atoms {s t : State} (h : s.Apart t) : t.atoms = s.atoms := by rw [h]
theorem State.Apart.atomTag {s t : State} (h : s.Apart t) : t.atomTag = s.atomTag := by rw [h]
theorem State.Apart.invs {s t : State} (h : s.Apart t) : t.invs = s.invs := by rw [h]
theorem State.Apart.discards {s t : State} (h : s.Apart t) : t.discards = s.discards := by rw [h]
theorem State.Apart.coh {s t : State} (h : s.Apart t) : t.coh = s.coh := by rw [h]
theorem State.Apart.ports {s t : State} (h : s.Apart t) : t.ports = s.ports := by rw [h]
theorem State.Apart.sess {s t : State} (h : s.Apart t) : t.sess = s.sess := by rw [h]
theorem State.Apart.peers {s t : State} (h : s.Apart t) : t.peers = s.peers := by rw [h]
theorem State.Apart.tdisp {s t : State} (h : s.Apart t) : t.tdisp = s.tdisp := by rw [h]
theorem State.Apart.doe {s t : State} (h : s.Apart t) : t.doe = s.doe := by rw [h]
theorem State.Apart.bel {s t : State} (h : s.Apart t) : t.bel = s.bel := by rw [h]
theorem State.Apart.team_eq {s t : State} (h : s.Apart t) (i : Nat) : t.team i = s.team i := by rw [h]; rfl
theorem State.Apart.block_eq {s t : State} (h : s.Apart t) (i : Nat) : t.block i = s.block i := by rw [h]; rfl
theorem State.Apart.job_eq {s t : State} (h : s.Apart t) (i : Nat) : t.job i = s.job i := by rw [h]; rfl
theorem State.Apart.group_eq {s t : State} (h : s.Apart t) (i : Nat) : t.group i = s.group i := by rw [h]; rfl
theorem State.Apart.queue_eq {s t : State} (h : s.Apart t) (i : Nat) : t.queue i = s.queue i := by rw [h]; rfl

/-! With the caches. -/

/-- `t` differs from `s` in the caches and the memory fabric's own state alone. -/
def State.Cached (s t : State) : Prop := ({ s with coh := t.coh } : State).Apart t

theorem State.Apart.cached {s t : State} (h : s.Apart t) : s.Cached t := by
  have := h.coh
  unfold State.Cached
  rw [this]
  exact h

theorem State.Cached.refl (s : State) : s.Cached s := rfl

theorem State.Cached.trans {s t u : State} (h : s.Cached t) (k : t.Cached u) : s.Cached u := by
  unfold State.Cached State.Apart at h k ⊢
  rw [h] at k
  exact k

theorem State.Cached.foldl {α : Type} (g : State → α → State) (h : ∀ (s : State) (a : α), s.Cached (g s a)) (l : List α) (s : State) :
    s.Cached (l.foldl g s) := by
  induction l generalizing s with
  | nil => exact .refl s
  | cons a r ih => exact (h s a).trans (ih _)

theorem State.Cached.foldl_fst {α β : Type} (g : State × β → α → State × β) (h : ∀ (s : State × β) (a : α), s.1.Cached (g s a).1) (l : List α)
    (s : State × β) : s.1.Cached (l.foldl g s).1 := by
  induction l generalizing s with
  | nil => exact .refl s.1
  | cons a r ih => exact (h s a).trans (ih _)

section
variable {s t : State} (h : s.Cached t)
include h
theorem State.Cached.teams : t.teams = s.teams := by have := State.Apart.teams h; exact this
theorem State.Cached.team_eq (i : Nat) : t.team i = s.team i := by have := State.Apart.team_eq h i; exact this
theorem State.Cached.block_eq (i : Nat) : t.block i = s.block i := by have := State.Apart.block_eq h i; exact this
theorem State.Cached.cur : t.cur = s.cur := by have := State.Apart.cur h; exact this
theorem State.Cached.cm : t.cm = s.cm := by have := State.Apart.cm h; exact this
theorem State.Cached.replies : t.replies = s.replies := by have := State.Apart.replies h; exact this
theorem State.Cached.atoms : t.atoms = s.atoms := by have := State.Apart.atoms h; exact this
theorem State.Cached.atomTag : t.atomTag = s.atomTag := by have := State.Apart.atomTag h; exact this
end

/-! The operations. -/

theorem State.addReg_apart (s : State) (f o : Nat) (v : W64) : s.Apart (s.addReg f o v) := rfl
theorem State.useFresh_apart (s : State) : s.Apart s.useFresh := rfl
theorem State.touchFrame_apart (s : State) (a : Nat) : s.Apart (s.touchFrame a) := rfl

theorem State.addUsed_apart (s : State) (a : Nat) (up : Bool) : s.Apart (s.addUsed a up) := by
  unfold State.addUsed; split
  · exact .refl s
  · split
    · exact addReg_apart _ _ _ _
    · rename_i f _ _
      have h := addReg_apart s f oQUSED (-1)
      generalize s.addReg f oQUSED (-1) = u at h ⊢
      exact h.trans rfl

theorem State.freeStorage_apart (s : State) (d : Nat) : s.Apart (s.freeStorage d) := by
  unfold State.freeStorage; split <;> rfl

theorem State.takeStorage_apart (s : State) (d : Nat) : s.Apart (s.takeStorage d) := by
  unfold State.takeStorage; split <;> rfl

theorem State.askRound_apart (s : State) (d : Nat) : s.Apart (s.askRound d) := rfl

theorem State.writeDev_apart (s : State) (a : Nat) (bs : List Byte) : s.Apart (s.writeDev a bs) := by
  unfold State.writeDev; split <;> rfl

theorem State.blockPut_apart (s : State) (da : Nat) (bs : List Byte) (cmp : Bool) : s.Apart (s.blockPut da bs cmp) := by
  unfold State.blockPut
  dsimp only
  split
  · rfl
  · split
    · refine .trans ?_ (addUsed_apart _ _ _)
      split
      · rfl
      · exact .trans (t := { s with mem := _, blk := _ }) rfl (freeStorage_apart _ _)
    · rfl
  · exact .trans (writeDev_apart s da bs) rfl
  · generalize hu : State.useFresh _ = u
    have h0 : s.Apart u := hu ▸ rfl
    split
    · exact h0.trans (((writeDev_apart u _ _).trans (writeDev_apart _ _ _)).trans (addUsed_apart _ _ _))
    · exact h0.trans (((writeDev_apart u _ _).trans (takeStorage_apart _ _)).trans (addUsed_apart _ _ _))

theorem State.rawPut_apart (s : State) (da : Nat) (bs : List Byte) : s.Apart (s.rawPut da bs) := by
  refine .foldl _ (fun s a => ?_) _ s
  dsimp only
  split
  · exact touchFrame_apart _ _
  · exact (touchFrame_apart _ _).trans (State.blockPut_apart _ _ _ _)

theorem State.dlAppend_apart (s : State) (f da : Nat) : s.Apart (s.dlAppend f da) := by
  unfold State.dlAppend
  dsimp only
  have h : s.Apart (if s.dlOn f = true then s.touchFrame (s.regN f oDBMAP + s.dlFrame f da / 8) else s) := by
    split
    · exact touchFrame_apart _ _
    · exact .refl s
  generalize (if s.dlOn f = true then s.touchFrame (s.regN f oDBMAP + s.dlFrame f da / 8) else s) = u at h ⊢
  split
  · exact h.trans (((rawPut_apart _ _ _).trans (rawPut_apart _ _ _)).trans (addReg_apart _ _ _ _))
  · exact h

theorem State.loseLines_apart (s : State) (sys : Bool) (a n : Nat) : s.Apart (s.loseLines sys a n) := rfl

theorem State.putPart_apart (s : State) (f : Nat) (p : Part) : s.Apart (s.putPart f p) := by
  unfold State.putPart
  dsimp only
  split
  · rfl
  · exact ((loseLines_apart _ _ _ _).trans (dlAppend_apart _ _ _)).trans (blockPut_apart _ _ _ _)

theorem State.putParts_apart (s : State) (f : Nat) (ps : List Part) : s.Apart (s.putParts f ps) := .foldl _ (fun s p => putPart_apart s f p) _ s

theorem State.touchFrames_apart (s : State) (ps : List Part) : s.Apart (ps.foldl (fun s p => s.touchFrame p.addr) s) :=
  .foldl _ (fun s (p : Part) => touchFrame_apart s p.addr) _ s

/-- What a write may change, by what performing it may. -/
theorem State.storeWith_cached (s : State) (f : Nat) (ps : List Part) (ctx : Bool) (w : Writer) (va : Nat) (op : HeldOp) (put : State → State)
    (hp : ∀ s : State, s.Cached (put s)) : s.Cached (s.storeWith f ps ctx w va op put).1 := by
  unfold State.storeWith
  dsimp only
  have h0 := (touchFrames_apart s (devParts ps)).cached
  generalize List.foldl _ s (devParts ps) = s0 at h0 ⊢
  generalize State.shortDies _ _ = short
  split
  · exact h0
  · split
    · exact h0.trans rfl
    · split
      · refine .trans ?_ (.foldl _ (fun s d => (askRound_apart s d).cached) _ _)
        exact h0.trans rfl
      · split
        · exact h0.trans rfl
        · exact h0.trans (hp _)

theorem State.storeParts_apart (s : State) (f : Nat) (ps : List Part) (ctx : Bool) (w : Writer) (va : Nat) (op : HeldOp) :
    s.Apart (s.storeParts f ps ctx w va op).1 := by
  unfold State.storeParts State.storeWith
  dsimp only
  have h0 := touchFrames_apart s (devParts ps)
  generalize List.foldl _ s (devParts ps) = s0 at h0 ⊢
  generalize State.shortDies _ _ = short
  split
  · exact h0
  · split
    · exact h0.trans rfl
    · split
      · refine .trans ?_ (.foldl _ (fun s d => askRound_apart s d) _ _)
        exact h0.trans rfl
      · split
        · exact h0.trans rfl
        · exact h0.trans (putParts_apart _ _ _)

theorem State.latePart_cached (s : State) (f : Nat) (p : Part) : s.Cached (s.latePart f p) := by
  unfold State.latePart
  dsimp only
  split
  · rfl
  · exact (((loseLines_apart _ _ _ _).trans (dlAppend_apart _ _ _)).trans (writeDev_apart _ _ _)).cached.trans rfl

theorem State.lateParts_cached (s : State) (f : Nat) (ps : List Part) : s.Cached (s.lateParts f ps) := .foldl _ (fun s p => latePart_cached s f p) _ s

theorem State.storeDirty_cached (s : State) (f : Nat) (ps : List Part) (w : Writer) (va : Nat) (op : HeldOp) :
    s.Cached (s.storeDirty f ps w va op).1 := storeWith_cached _ _ _ _ _ _ _ _ (fun s => lateParts_cached s f ps)

theorem State.clearLate_cached (s : State) (lo hi : Nat) : s.Cached (s.clearLate lo hi) := rfl

theorem State.askLog_apart (s : State) (f : Nat) : s.Apart (s.askLog f) := rfl

theorem State.setAccessed_apart (s : State) (f ea e : Nat) : s.Apart (s.setAccessed f ea e) := by
  unfold State.setAccessed
  dsimp only
  split
  · exact .refl s
  · split
    · exact (storeParts_apart _ _ _ _ _ _ _).trans (askLog_apart _ _)
    · exact storeParts_apart _ _ _ _ _ _ _

theorem State.leafFor_apart (s : State) (f va : Nat) : s.Apart (s.leafFor f va).1 := by
  unfold State.leafFor
  dsimp only
  split
  · exact .refl s
  · split
    · split_ifs <;> first | exact .refl s | exact useFresh_apart s
    · split_ifs <;> exact useFresh_apart s

theorem State.cacheLeaf_apart (s : State) (f va : Nat) (x : Nat × Nat) : s.Apart (s.cacheLeaf f va x) := by
  unfold State.cacheLeaf; split <;> rfl

theorem State.useLeaf_apart (s : State) (f va ea e lvl : Nat) (fill : Bool) (da : Option Nat) : s.Apart (s.useLeaf f va ea e lvl fill da) := by
  have k : ∀ u : State, s.Apart u → s.Apart (if (!fill) = true then u else (u.setAccessed f ea e).cacheLeaf f va (e, lvl)) := fun u h => by
    split
    · exact h
    · exact (h.trans (setAccessed_apart _ _ _ _)).trans (cacheLeaf_apart _ _ _ _)
  cases da with
  | none => exact k s (.refl s)
  | some a => exact k _ (touchFrame_apart s a)

theorem State.walk_apart (s : State) (f va : Nat) (rd wr : Bool) : s.Apart (s.walk f va rd wr).1 := by
  unfold State.walk
  dsimp only
  split
  · exact .refl s
  · have h : s.Apart (if (s.leafFor f va).2.2 = true then ((s.leafFor f va).1.leafPath f va ((s.leafFor f va).1.rootOf f) 0 4).foldl State.touchFrame
        (s.leafFor f va).1 else (s.leafFor f va).1) := by
      split
      · exact (leafFor_apart s f va).trans (.foldl _ (fun s a => touchFrame_apart s a) _ _)
      · exact leafFor_apart s f va
    generalize (if (s.leafFor f va).2.2 = true then _ else _) = u at h ⊢
    refine .trans h ?_
    split
    · exact .refl _
    · split_ifs <;> first | exact .refl _ | (dsimp only; exact useLeaf_apart _ _ _ _ _ _ _ _)

theorem State.storeBlock_apart (s : State) (f da : Nat) (bs : List Byte) (cmp ctx : Bool) (w : Writer) (va : Nat) :
    s.Apart (s.storeBlock f da bs cmp ctx w va).1 := storeParts_apart _ _ _ _ _ _ _

theorem State.storeTr_apart (s : State) (t : Tr) (bs : List Byte) (ctx : Bool) (w : Writer) (va : Nat) : s.Apart (s.storeTr t bs ctx w va).1 :=
  storeParts_apart _ _ _ _ _ _ _

theorem State.vread_apart (s : State) (f va n : Nat) : s.Apart (s.vread f va n).1 := by
  unfold State.vread
  refine .foldl_fst _ (fun s a => ?_) _ (s, VRead.ok [] false)
  dsimp only
  split
  · split <;> exact walk_apart _ _ _ _ _
  · exact .refl _

theorem State.partsAt_apart (s : State) (f va : Nat) (bs : List Byte) : s.Apart (s.partsAt f va bs).1 := by
  unfold State.partsAt
  refine .foldl_fst _ (fun s a => ?_) _ (s, some [])
  dsimp only
  split
  · exact .refl _
  · split <;> exact walk_apart _ _ _ _ _

theorem State.wbBlock_cached (s : State) (a n : Nat) : s.Cached (s.wbBlock a n) := by
  unfold State.wbBlock
  dsimp only
  split
  · exact .refl s
  · exact clearLate_cached _ _ _
  · split
    · exact .refl s
    · have hs := fun (f : Nat) ps => (storeParts_apart s f ps false .l2 0 .wb).cached
      split
      · split_ifs <;> first | exact (hs _ _).trans (askLog_apart _ _).cached | exact hs _ _
      · exact (hs _ _).trans (clearLate_cached _ _ _)

theorem State.writeBack_cached (s : State) (a n : Nat) : s.Cached (s.writeBack a n) := by
  unfold State.writeBack
  split
  · exact .refl s
  · exact .foldl _ (fun s e => wbBlock_cached s _ _) _ _

theorem State.dropLinesIn_cached (s : State) (lo hi : Nat) : s.Cached (s.dropLinesIn lo hi) :=
  (State.Cached.foldl _ (fun s (e : Nat × Nat) => writeBack_cached s e.1 e.2) _ s).trans rfl

theorem State.dropParts_cached (s : State) (ps : List Part) : s.Cached (s.dropParts ps) := .foldl _ (fun s _ => dropLinesIn_cached s _ _) _ s

theorem State.tryPut_cached (s : State) (f va : Nat) (bs : List Byte) : s.Cached (s.tryPut f va bs).1 := by
  unfold State.tryPut
  dsimp only
  split
  · exact (partsAt_apart _ _ _ _).cached
  · split
    · exact (partsAt_apart _ _ _ _).cached
    · split
      · exact ((partsAt_apart _ _ _ _).trans (putParts_apart _ _ _)).cached.trans (dropParts_cached _ _)
      · exact ((partsAt_apart _ _ _ _).trans (.foldl _ (fun s d => askRound_apart s d) _ _)).cached

theorem State.drainFaults_cached (k : Nat) (s : State) (f : Nat) : s.Cached (State.drainFaults k s f) := by
  induction k generalizing s with
  | zero => exact .refl s
  | succ k ih =>
    unfold State.drainFaults
    dsimp only
    split
    · exact .refl s
    · split
      · exact .refl s
      · split
        · exact .refl s
        · split
          · exact tryPut_cached _ _ _ _
          · refine .trans ?_ (ih _)
            generalize hq : State.tryPut _ _ _ _ = q
            have h : s.Cached q.1 := hq ▸ tryPut_cached _ _ _ _
            have h2 := h.trans (addReg_apart q.1 f oFSQTAIL 1).cached
            generalize q.1.addReg f oFSQTAIL 1 = u at h2 ⊢
            exact h2.trans rfl

theorem State.addFault_cached (s : State) (r : FaultRec) : s.Cached (s.addFault r) := by
  unfold State.addFault
  have h : s.Cached { s with faults := s.faults ++ [r] } := rfl
  generalize ({ s with faults := s.faults ++ [r] } : State) = u at h ⊢
  exact h.trans (drainFaults_cached _ _ _)

theorem State.dlogRecord_cached (s : State) (f : Nat) : s.Cached (s.dlogRecord f) := by
  unfold State.dlogRecord; split
  · exact addFault_cached _ _
  · exact .refl s

theorem State.drainReports_cached (k : Nat) (s : State) (f : Nat) : s.Cached (State.drainReports k s f) := by
  induction k generalizing s with
  | zero => exact .refl s
  | succ k ih =>
    unfold State.drainReports
    dsimp only
    split
    · exact .refl s
    · split
      · exact .refl s
      · split
        · exact .refl s
        · split
          · refine .trans ?_ (ih _)
            exact .trans ((tryPut_cached _ _ _ _).trans (addReg_apart _ _ _ _).cached) rfl
          · exact tryPut_cached _ _ _ _

theorem State.report_cached (s : State) (f kind level status : Nat) (tag : W64) (num : Nat) (ctx : W64) :
    s.Cached (s.report f kind level status tag num ctx) :=
  State.Cached.trans (t := { s with reports := _ }) rfl (drainReports_cached 1024 _ f)

end Sys2Proof.Machine
end

