-- ==== Sys2Proof/Laws/Memory.lean ====
section
/-!
SUPPORT. Memory: what a read answers after a write, that every operation on a memory keeps its canonical form, and what the two writes
below every store do (a write to core memory, a write within one block of device memory).
-/
namespace Sys2Proof.Machine

theorem readMem_length (m : SMap Byte) (a n : Nat) : (readMem m a n).length = n := by
  induction n generalizing a with
  | zero => rfl
  | succ k ih => simp [readMem, ih]

theorem readMem_congr {m n : SMap Byte} {a k : Nat}
    (h : ∀ b, a ≤ b → b < a + k → SMap.get n b memDefault = SMap.get m b memDefault) : readMem n a k = readMem m a k := by
  induction k generalizing a with
  | zero => rfl
  | succ j ih =>
    rw [readMem, readMem, h a (Nat.le_refl _) (by omega), ih (fun b h1 h2 => h b (by omega) (by omega))]

/-- One byte of the bytes read. -/
theorem readMem_getElem? (m : SMap Byte) (a n j : Nat) (h : j < n) : (readMem m a n)[j]? = some (SMap.get m (a + j) memDefault) := by
  induction n generalizing a j with
  | zero => omega
  | succ k ih =>
    cases j with
    | zero => simp [readMem]
    | succ j => simp only [readMem, List.getElem?_cons_succ]; rw [ih (a + 1) j (by omega)]; congr 2; omega

/-- A byte after a write: the written one inside its range, as before outside. -/
theorem get_writeMem (m : SMap Byte) (a : Nat) (bs : List Byte) (b : Nat) : SMap.get (writeMem m a bs) b memDefault
    = if a ≤ b ∧ b < a + bs.length then bs.getD (b - a) memDefault else SMap.get m b memDefault := by
  induction bs generalizing m a with
  | nil => simp [writeMem]
  | cons x r ih =>
    rw [writeMem, ih, SMap.get_put]
    simp only [List.length_cons]
    by_cases h1 : b = a
    · subst h1
      simp
    · by_cases h2 : a + 1 ≤ b ∧ b < a + 1 + r.length
      · have h3 : a ≤ b ∧ b < a + (r.length + 1) := by omega
        rw [if_pos h2, if_pos h3]
        have h4 : b - a = (b - (a + 1)) + 1 := by omega
        rw [h4, List.getD_cons_succ]
      · rw [if_neg h2, if_neg h1, if_neg (by omega)]

theorem get_writeMem_of_outside (m : SMap Byte) (a : Nat) (bs : List Byte) {b : Nat} (h : b < a ∨ a + bs.length ≤ b) :
    SMap.get (writeMem m a bs) b memDefault = SMap.get m b memDefault := by
  rw [get_writeMem, if_neg (by omega)]

/-- A read of just-written bytes. -/
theorem readMem_writeMem (m : SMap Byte) (a : Nat) (bs : List Byte) : readMem (writeMem m a bs) a bs.length = bs := by
  apply List.ext_getElem? 
  intro j
  by_cases h : j < bs.length
  · rw [readMem_getElem? _ _ _ _ h, get_writeMem, if_pos (by omega)]
    simp [h]
  · rw [List.getElem?_eq_none (by rw [readMem_length]; omega), List.getElem?_eq_none (by omega)]

theorem readMem_writeMem_of_disjoint (m : SMap Byte) (a : Nat) (bs : List Byte) (b n : Nat) (h : b + n ≤ a ∨ a + bs.length ≤ b) :
    readMem (writeMem m a bs) b n = readMem m b n :=
  readMem_congr (fun c h1 h2 => get_writeMem_of_outside m a bs (by omega))

/-! The canonical form. -/

theorem wf_writeMem (m : SMap Byte) (a : Nat) (bs : List Byte) (h : Memory.wf m = true) : Memory.wf (writeMem m a bs) = true := by
  induction bs generalizing m a with
  | nil => exact h
  | cons x r ih => exact ih _ _ (SMap.wf_put _ m a x h)

theorem SMap.wfFrom_weaken {α : Type} [DecidableEq α] (d : Nat → α) (m : SMap α) {a b : Nat} (h : a ≤ b) (hm : SMap.wfFrom d (some b) m = true) :
    SMap.wfFrom d (some a) m = true := by
  cases m with
  | nil => rfl
  | cons e r =>
    simp only [SMap.wfFrom, Bool.and_eq_true, decide_eq_true_eq] at hm ⊢
    exact ⟨⟨by omega, hm.1.2⟩, hm.2⟩

theorem SMap.wfFrom_filter {α : Type} [DecidableEq α] (d : Nat → α) (p : Nat × α → Bool) (m : SMap α) (lo : Option Nat)
    (h : SMap.wfFrom d lo m = true) : SMap.wfFrom d lo (m.filter p) = true := by
  induction m generalizing lo with
  | nil => rfl
  | cons e r ih =>
    obtain ⟨k, v⟩ := e
    simp only [SMap.wfFrom, Bool.and_eq_true] at h
    by_cases hp : p (k, v) = true
    · rw [List.filter_cons_of_pos hp]
      simp only [SMap.wfFrom, Bool.and_eq_true]
      exact ⟨h.1, ih _ h.2⟩
    · rw [List.filter_cons_of_neg hp]
      cases lo with
      | none =>
        have h2 := ih _ h.2
        generalize List.filter p r = q at h2 ⊢
        cases q with
        | nil => rfl
        | cons e q =>
          simp only [SMap.wfFrom, Bool.and_eq_true] at h2 ⊢
          exact ⟨⟨trivial, h2.1.2⟩, h2.2⟩
      | some l => exact SMap.wfFrom_weaken d _ (by simp at h; omega) (ih _ h.2)

theorem SMap.wf_filter {α : Type} [DecidableEq α] (d : Nat → α) (p : Nat × α → Bool) (m : SMap α) (h : SMap.wf d m = true) :
    SMap.wf d (m.filter p) = true := SMap.wfFrom_filter d p m none h

theorem wf_clearMem (m : SMap Byte) (lo hi : Nat) (h : Memory.wf m = true) : Memory.wf (clearMem m lo hi) = true :=
  SMap.wf_filter _ _ m h

theorem wf_filterMem {m : SMap Byte} {p : Nat × Byte → Bool} (h : Memory.wf m = true) : Memory.wf (m.filter p) = true :=
  SMap.wf_filter _ _ m h

theorem wf_putMem {m : SMap Byte} {k : Nat} {v : Byte} (h : Memory.wf m = true) : Memory.wf (SMap.put m k v memDefault) = true :=
  SMap.wf_put _ m k v h

theorem wf_foldlMem {α : Type} {g : SMap Byte → α → SMap Byte} {l : List α} {m : SMap Byte} (h : Memory.wf m = true)
    (hg : ∀ (m : SMap Byte) (a : α), Memory.wf m = true → Memory.wf (g m a) = true) : Memory.wf (l.foldl g m) = true := by
  induction l generalizing m with
  | nil => exact h
  | cons a r ih => exact ih (hg m a h)

theorem SMap.get_filter {α : Type} (p : Nat → Bool) (m : SMap α) (k : Nat) (d : α) :
    SMap.get (m.filter (fun e => p e.1)) k d = if p k = true then SMap.get m k d else d := by
  induction m with
  | nil => simp [SMap.get]
  | cons e r ih =>
    obtain ⟨j, v⟩ := e
    by_cases hp : p j = true
    · rw [List.filter_cons_of_pos (by simpa using hp)]
      by_cases hj : j = k
      · subst hj; simp [SMap.get, hp]
      · simp only [SMap.get, if_neg hj, ih]
    · rw [List.filter_cons_of_neg (by simpa using hp), ih]
      by_cases hj : j = k
      · subst hj; simp [hp]
      · simp only [SMap.get, if_neg hj]

/-- Clearing leaves zeros in its range and the other bytes as they were. -/
theorem get_clearMem (m : SMap Byte) (lo hi b : Nat) : SMap.get (clearMem m lo hi) b memDefault
    = if lo ≤ b ∧ b < hi then memDefault else SMap.get m b memDefault := by
  unfold clearMem
  rw [SMap.get_filter (fun k => !(decide (lo ≤ k) && decide (k < hi)))]
  by_cases h : lo ≤ b ∧ b < hi
  · rw [if_pos h, if_neg (by simp [h.1, h.2])]
  · rw [if_neg h, if_pos]
    simp only [Bool.not_eq_true', Bool.and_eq_false_iff, decide_eq_false_iff_not]
    omega

/-! Core memory. -/

@[simp] theorem State.putCore_mem (s : State) (k : Nat) (bs : List Byte) : (s.putCore k bs).mem = s.mem := rfl
@[simp] theorem State.putCore_cm (s : State) (k : Nat) (bs : List Byte) : (s.putCore k bs).cm = writeMem s.cm k bs := rfl
@[simp] theorem State.putCore_teams (s : State) (k : Nat) (bs : List Byte) : (s.putCore k bs).teams = s.teams := rfl
@[simp] theorem State.putCore_held (s : State) (k : Nat) (bs : List Byte) : (s.putCore k bs).held = s.held := rfl
@[simp] theorem State.putCore_cur (s : State) (k : Nat) (bs : List Byte) : (s.putCore k bs).cur = s.cur := rfl

end Sys2Proof.Machine
end

