-- ==== Sys2Proof/Laws/Checks.lean ====
section
/-!
SUPPORT. What the shared checks before an instruction answer, once for all instructions: a clear instruction acts on its lanes, an
empty register traps or waits.
-/
namespace Sys2Proof.Machine

@[simp] theorem insW_f (op : Nat) (f : Form) : (insW op f).f = f := rfl
@[simp] theorem insW_op (op : Nat) (f : Form) : (insW op f).op = op := rfl
@[simp] theorem insS_op (op : Nat) (f : SForm) : (insS op f).op = op := rfl
@[simp] theorem insS_len (op : Nat) (f : SForm) : (insS op f).len = 0 := rfl

/-- Whether an instruction is reserved to handler mode follows from its major opcode alone. -/
theorem Ins.desc_handler (i : Ins) : i.desc.handler = ((rowOf descTable i.op).getD descBase).handler := by
  have hl : ∀ d f, (litFields d f).handler = d.handler := by intro d f; unfold litFields; split <;> (try split) <;> rfl
  rw [Ins.desc, hl, descOf]
  cases rowOf descTable i.op with
  | none => rfl
  | some d =>
    simp only [Option.getD_some]
    split_ifs <;> (try split) <;> rfl

/-- The first test of the checks. -/
theorem reserved_false {i : Ins} {t : Team} (hm : i.reserved = true → t.hmode = true) : (i.reserved && !t.hmode) = false := by
  cases h : i.reserved <;> simp_all

/-- The answer of the checks once the lanes are known, with the refs of the destinations gathered. -/
theorem prep_eq {i : Ins} {t : Team} {ls : List Nat} (hm : i.reserved = true → t.hmode = true) (hp : i.passLanes t = some ls) :
    prep i t =
      if (i.written t ls).any t.empty then .stall
      else if ls.filter (fun l => (i.srcRefs t l).any (fun r => t.empty r.1 && !r.2)) ≠ [] then
        .trap cEMPTY 0 (ls.filter (fun l => (i.srcRefs t l).any (fun r => t.empty r.1 && !r.2)))
      else if ls.any (fun l => (i.srcRefs t l).any (fun r => t.empty r.1)) then .stall
      else if ls.filter (fun l => (i.srcRefs t l).any (fun r => t.bad r.1)) ≠ [] then
        .trap cECC 2 (ls.filter (fun l => (i.srcRefs t l).any (fun r => t.bad r.1)))
      else if t.mmaHolds.any (fun r => (i.laneDsts t ls).contains r) then .stall
      else .go ls := by
  have e : ∀ q : List (Ref × Bool) → Bool, ((ls.map (fun l => (l, i.srcRefs t l))).filter (fun e => q e.2)).map (fun e => e.1)
      = ls.filter (fun l => q (i.srcRefs t l)) := by
    intro q; rw [List.filter_map, List.map_map]; simp [Function.comp_def]
  have n : ∀ q : List (Ref × Bool) → Bool, ((!((ls.map (fun l => (l, i.srcRefs t l))).filter (fun e => q e.2)).isEmpty) = true)
      = (ls.filter (fun l => q (i.srcRefs t l)) ≠ []) := by
    intro q; rw [← e q]; simp [-Prod.forall, -Prod.exists]
  have a : (ls.map (fun l => (l, i.srcRefs t l))).any (fun e => e.2.any fun r => t.empty r.1) = ls.any (fun l => (i.srcRefs t l).any (fun r => t.empty r.1)) := by
    rw [List.any_map]; rfl
  unfold Machine.prep
  rw [reserved_false hm, hp]
  simp only [Bool.false_eq_true, if_false, Ins.written, List.any_append]
  simp only [n (fun l => l.any fun r => t.empty r.1 && !r.2), n (fun l => l.any fun r => t.bad r.1),
    e (fun l => l.any fun r => t.empty r.1 && !r.2), e (fun l => l.any fun r => t.bad r.1), a]
  rfl

/-- The checks let exactly a clear instruction act. -/
theorem prep_go_iff (i : Ins) (t : Team) (ls : List Nat) : prep i t = .go ls ↔ Clear i t ls := by
  by_cases hm : i.reserved = true → t.hmode = true
  · rcases hp : i.passLanes t with _ | ks
    · unfold Machine.prep Clear
      rw [reserved_false hm, hp]
      simp
    · rw [prep_eq hm hp]
      unfold Clear
      rw [hp]
      simp only [Option.some.injEq, ne_eq, List.filter_eq_nil_iff, List.any_eq_true, List.contains_iff_mem, Bool.and_eq_true, Bool.not_eq_true']
      constructor
      · intro h
        split at h <;> try contradiction
        split at h <;> try contradiction
        split at h <;> try contradiction
        split at h <;> try contradiction
        split at h <;> try contradiction
        simp at h; subst h
        simp at *
        grind
      · rintro ⟨h1, rfl, h2, h3, h4⟩
        grind
  · have h := hm
    rw [Classical.not_imp] at h
    unfold Machine.prep Clear
    simp [h.1, h.2]

theorem Clear.prep {i : Ins} {t : Team} {ls : List Nat} (h : Clear i t ls) : prep i t = .go ls := (prep_go_iff i t ls).2 h

/-- In the wrong mode the answer is PRIV, before anything is read. -/
theorem prep_priv {i : Ins} {t : Team} (h : i.reserved = true) (hm : t.hmode = false) : prep i t = .trap cPRIV 0 t.lanes := by
  simp [Machine.prep, h, hm]

/-- An empty guard waits. -/
theorem prep_guard {i : Ins} {t : Team} (hm : i.reserved = true → t.hmode = true) (hp : i.passLanes t = none) : prep i t = .stall := by
  simp [Machine.prep, reserved_false hm, hp]

/-- An empty destination waits, whatever the sources hold. -/
theorem prep_dest {i : Ins} {t : Team} {ls : List Nat} (hm : i.reserved = true → t.hmode = true) (hp : i.passLanes t = some ls)
    (hd : ∃ r ∈ i.written t ls, t.empty r = true) : prep i t = .stall := by
  rw [prep_eq hm hp, if_pos (List.any_eq_true.2 hd)]

/-- With full destinations, an empty source whose wait bit is clear takes EMPTY in the lanes that have one. -/
theorem prep_hurt {i : Ins} {t : Team} {ls : List Nat} (hm : i.reserved = true → t.hmode = true) (hp : i.passLanes t = some ls)
    (hd : ∀ r ∈ i.written t ls, t.empty r = false) (hh : ls.filter (fun l => (i.srcRefs t l).any (fun r => t.empty r.1 && !r.2)) ≠ []) :
    prep i t = .trap cEMPTY 0 (ls.filter (fun l => (i.srcRefs t l).any (fun r => t.empty r.1 && !r.2))) := by
  have hw : ((i.written t ls).any t.empty) = false := by simpa using hd
  rw [prep_eq hm hp, hw, if_neg (by simp), if_pos hh]

/-- With full destinations, empty sources that may all be waited for wait. -/
theorem prep_waits {i : Ins} {t : Team} {ls : List Nat} (hm : i.reserved = true → t.hmode = true) (hp : i.passLanes t = some ls)
    (hd : ∀ r ∈ i.written t ls, t.empty r = false) (hh : ls.filter (fun l => (i.srcRefs t l).any (fun r => t.empty r.1 && !r.2)) = [])
    (hw : ls.any (fun l => (i.srcRefs t l).any (fun r => t.empty r.1)) = true) : prep i t = .stall := by
  have hd' : ((i.written t ls).any t.empty) = false := by simpa using hd
  rw [prep_eq hm hp, hd', if_neg (by simp), if_neg (by simp [hh]), if_pos hw]

/-! The shared frames of instructions. -/

theorem runIns_go {i : Ins} {s : State} {ls : List Nat} (k : Team → List Nat → State) (h : Clear i (s.team s.cur) ls) :
    runIns i s k = .next (k (s.team s.cur) ls) := by
  simp [runIns, h.prep]

theorem runIns_stall {i : Ins} {s : State} (k : Team → List Nat → State) (h : prep i (s.team s.cur) = .stall) : runIns i s k = .next s := by
  simp [runIns, h]

theorem runIns_trap {i : Ins} {s : State} {c d : Nat} {ls : List Nat} (k : Team → List Nat → State)
    (h : prep i (s.team s.cur) = .trap c d ls) : runIns i s k = .next (s.trapLanes i c d ls) := by
  simp [runIns, h]

theorem runUni_go {i : Ins} {s : State} (k : Team → State) (h : Clear i (s.team s.cur) [0]) : runUni i s k = .next (k (s.team s.cur)) := by
  simp [runUni, runIns_go _ h]

theorem runUni_pass {i : Ins} {s : State} (k : Team → State) (h : Clear i (s.team s.cur) []) :
    runUni i s k = .next (s.finish i (s.team s.cur)) := by
  simp [runUni, runIns_go _ h]

/-! Flags. -/

theorem Team.addFlags_zero (t : Team) : t.addFlags 0 = t := by cases t; simp [Team.addFlags]

theorem Team.fpx_zero (t : Team) : t.fpx 0 = 0 := by simp [Team.fpx]

theorem flagsOf_zero (l : List LaneOut) (h : ∀ o ∈ l, o.fl = 0) : flagsOf l = 0 := by
  unfold flagsOf
  suffices ∀ a, l.foldl (fun f o => f ||| o.fl) a = a by simpa using this 0
  induction l with
  | nil => simp
  | cons x r ih => intro a; simp at h; simp [h.1, ih h.2]

theorem State.withFlags_none {s : State} {i : Ins} {t : Team} {os : List LaneOut} (k : Team → State) (h : t.fpx (flagsOf os) = 0) :
    s.withFlags i t os k = k (t.addFlags (flagsOf os)) := by
  simp [State.withFlags, h]

theorem State.withFlags_trap {s : State} {i : Ins} {t : Team} {os : List LaneOut} (k : Team → State) (h : t.fpx (flagsOf os) ≠ 0) :
    s.withFlags i t os k = s.trapLanes i cFPX (t.fpx (flagsOf os)) ((os.filter (fun o => t.fpx o.fl != 0)).map (fun o => o.lane)) := by
  simp [State.withFlags, h]

/-- One value in each lane, with no enabled flag raised. -/
theorem runAlu_go {i : Ins} {s : State} {ls : List Nat} (g : Team → Nat → Nat × Nat) (h : Clear i (s.team s.cur) ls)
    (hf : (s.team s.cur).fpx (flagsOf (ls.map (fun l => { lane := l, val := (g (s.team s.cur) l).1, fl := (g (s.team s.cur) l).2 }))) = 0) :
    runAlu i s g = .next (s.finish i (laneWrites i ((s.team s.cur).addFlags
      (flagsOf (ls.map (fun l => { lane := l, val := (g (s.team s.cur) l).1, fl := (g (s.team s.cur) l).2 })))) ls (fun l => (g (s.team s.cur) l).1))) := by
  rw [runAlu, runIns_go _ h]
  simp only [State.withFlags_none _ hf, laneWrites, List.foldl_map]

theorem runAlu_clear {i : Ins} {s : State} {ls : List Nat} (g : Team → Nat → Nat × Nat) (h : Clear i (s.team s.cur) ls)
    (hz : ∀ l ∈ ls, (g (s.team s.cur) l).2 = 0) :
    runAlu i s g = .next (s.finish i (laneWrites i (s.team s.cur) ls (fun l => (g (s.team s.cur) l).1))) := by
  have hz' : flagsOf (ls.map (fun l => { lane := l, val := (g (s.team s.cur) l).1, fl := (g (s.team s.cur) l).2 })) = 0 := by
    apply flagsOf_zero; intro o ho; simp at ho; obtain ⟨l, hl, rfl⟩ := ho; exact hz l hl
  rw [runAlu_go g h (by rw [hz', Team.fpx_zero]), hz', Team.addFlags_zero]

theorem runAlu_trap {i : Ins} {s : State} {ls : List Nat} (g : Team → Nat → Nat × Nat) (h : Clear i (s.team s.cur) ls)
    (hf : (s.team s.cur).fpx (flagsOf (ls.map (fun l => { lane := l, val := (g (s.team s.cur) l).1, fl := (g (s.team s.cur) l).2 }))) ≠ 0) :
    runAlu i s g = .next (s.trapLanes i cFPX
      ((s.team s.cur).fpx (flagsOf (ls.map (fun l => { lane := l, val := (g (s.team s.cur) l).1, fl := (g (s.team s.cur) l).2 }))))
      (ls.filter (fun l => (s.team s.cur).fpx (g (s.team s.cur) l).2 ≠ 0))) := by
  rw [runAlu, runIns_go _ h]
  simp only [State.withFlags_trap _ hf]
  congr 2
  rw [List.filter_map, List.map_map]
  simp [Function.comp_def, bne, beq_eq_decide]

/-- One 32-bit value in each lane, no flag. -/
theorem runAlu32_clear {i : Ins} {s : State} {ls : List Nat} (g : Team → Nat → Nat × Nat) (h : Clear i (s.team s.cur) ls)
    (hz : ∀ l ∈ ls, (g (s.team s.cur) l).2 = 0) :
    runAlu32 i s g = .next (s.finish i (ls.foldl (fun u l => u.writeReg i.f.uni .n32 i.f.d.toNat l (g (s.team s.cur) l).1) (s.team s.cur))) := by
  have hz' : flagsOf (ls.map (fun l => { lane := l, val := (g (s.team s.cur) l).1, fl := (g (s.team s.cur) l).2 })) = 0 := by
    apply flagsOf_zero; intro o ho; simp at ho; obtain ⟨l, hl, rfl⟩ := ho; exact hz l hl
  rw [runAlu32, runIns_go _ h]
  simp only [State.withFlags_none _ (show (s.team s.cur).fpx (flagsOf _) = 0 by rw [hz', Team.fpx_zero]), hz', Team.addFlags_zero, List.foldl_map]

/-- One predicate and its complement in each lane. -/
theorem runTest_go {i : Ins} {s : State} {ls : List Nat} (g : Team → Nat → Bool × Nat) (h : Clear i (s.team s.cur) ls)
    (hf : (s.team s.cur).fpx (flagsOf (ls.map (fun l => { lane := l, val := 0, fl := (g (s.team s.cur) l).2 }))) = 0) :
    runTest i s g = .next (s.finish i (ls.foldl (fun u l => u.setPair i.f.uni i.pd i.pe l (g (s.team s.cur) l).1)
      ((s.team s.cur).addFlags (flagsOf (ls.map (fun l => { lane := l, val := 0, fl := (g (s.team s.cur) l).2 })))))) := by
  have e : flagsOf (ls.map (fun l => { lane := l, val := bnat (g (s.team s.cur) l).1, fl := (g (s.team s.cur) l).2 }))
      = flagsOf (ls.map (fun l => { lane := l, val := 0, fl := (g (s.team s.cur) l).2 })) := by
    simp only [flagsOf, List.foldl_map]
  have b : ∀ x : Bool, (bnat x == 1) = x := by intro x; cases x <;> rfl
  rw [runTest, runIns_go _ h]
  simp only [State.withFlags_none _ (show (s.team s.cur).fpx (flagsOf _) = 0 by rw [e]; exact hf), e, List.foldl_map, b]

theorem Ins.writeD_seed (i : Ins) (t : Team) (l x : Nat) : (i.writeD t l x).seed = t.seed := by
  simp only [Ins.writeD, Team.writeReg]; split_ifs <;> simp

theorem laneWrites_seed (i : Ins) (t : Team) (ls : List Nat) (v : Nat → Nat) : (laneWrites i t ls v).seed = t.seed := by
  unfold laneWrites
  induction ls generalizing t with
  | nil => rfl
  | cons l r ih => rw [List.foldl_cons, ih, Ins.writeD_seed]

/-- A value that may round stochastically in each lane: SEED advances under rounding code 4. -/
theorem runSr_go {i : Ins} {s : State} {ls : List Nat} (g : Team → Nat → Nat × Nat) (h : Clear i (s.team s.cur) ls)
    (hf : (s.team s.cur).fpx (flagsOf (ls.map (fun l => { lane := l, val := (g (s.team s.cur) l).1, fl := (g (s.team s.cur) l).2 }))) = 0) :
    runSr i s g = .next (s.finish i { laneWrites i ((s.team s.cur).addFlags
      (flagsOf (ls.map (fun l => { lane := l, val := (g (s.team s.cur) l).1, fl := (g (s.team s.cur) l).2 })))) ls (fun l => (g (s.team s.cur) l).1) with
        seed := if i.f.mod.toNat = 4 then srNext (s.team s.cur).seed else (s.team s.cur).seed }) := by
  rw [runSr, runIns_go _ h]
  simp only [State.withFlags_none _ hf, List.foldl_map]
  congr 2
  rw [← laneWrites, Team.afterSr]
  split_ifs
  · rw [laneWrites_seed, Team.addFlags_seed]
  · rw [← Team.addFlags_seed, ← laneWrites_seed i]

end Sys2Proof.Machine
end

