-- ==== Sys2Proof/Laws/Ops.lean ====
section
/-!
SUPPORT. What the shared operations of teams may do, said once each: completing an instruction, parking, halting a block, taking a trap.
-/
namespace Sys2Proof.Machine

/-! Overwriting. -/

theorem SMap.drop_idem {α : Type} (m : SMap α) (k : Nat) : SMap.drop (SMap.drop m k) k = SMap.drop m k := by
  induction m with
  | nil => rfl
  | cons e r ih =>
    obtain ⟨k', v⟩ := e
    simp only [SMap.drop]
    split_ifs with h
    · exact ih
    · simp [SMap.drop, h, ih]

theorem SMap.drop_of_none {α : Type} (m : SMap α) (k : Nat) (h : ∀ e ∈ m, e.1 ≠ k) : SMap.drop m k = m := by
  induction m with
  | nil => rfl
  | cons e r ih =>
    obtain ⟨k', v⟩ := e
    have h1 : k' ≠ k := h (k', v) List.mem_cons_self
    simp [SMap.drop, h1, ih (fun e he => h e (List.mem_cons_of_mem _ he))]

theorem SMap.drop_ins {α : Type} (m : SMap α) (k : Nat) (v : α) (h : ∀ e ∈ m, e.1 ≠ k) : SMap.drop (SMap.ins m k v) k = m := by
  induction m with
  | nil => simp [SMap.ins, SMap.drop]
  | cons e r ih =>
    obtain ⟨k', w⟩ := e
    have h1 : k' ≠ k := h (k', w) List.mem_cons_self
    have h2 := fun e he => h e (List.mem_cons_of_mem (k', w) he)
    simp only [SMap.ins]
    split_ifs
    · simp [SMap.drop, h1, SMap.drop_of_none r k h2]
    · simp [SMap.drop, h1, ih h2]

/-- A second put at a key replaces the first. -/
theorem SMap.put_put {α : Type} [DecidableEq α] (m : SMap α) (k : Nat) (v w d : α) : SMap.put (SMap.put m k v d) k w d = SMap.put m k w d := by
  have h : SMap.drop (SMap.put m k v d) k = SMap.drop m k := by
    unfold SMap.put
    split_ifs
    · exact SMap.drop_idem m k
    · exact SMap.drop_ins _ _ _ (fun e he => (SMap.mem_drop.1 he).2)
  unfold SMap.put at h ⊢
  rw [h]

theorem State.setTeam_setTeam (s : State) (i : Nat) (t u : Team) : (s.setTeam i t).setTeam i u = s.setTeam i u := by
  simp [State.setTeam, SMap.put_put]

/-! Completing. -/

/-- Accounting changes the waste counts of one team alone (19 R324). -/
theorem State.account_spec (s : State) (i n k b : Nat) :
    s.account i n k b = s ∨ ∃ w, s.account i n k b = s.setTeam i { s.team i with waste := w } := by
  unfold State.account
  dsimp only
  split
  · exact .inl rfl
  · exact .inr ⟨_, rfl⟩

/-- A finished instruction leaves its team advanced past it; nothing else changes but the team's waste. -/
theorem State.finish_spec (s : State) (i : Ins) (t : Team) : ∃ w, s.finish i t = s.setTeam s.cur { t.advance i with waste := w } := by
  unfold State.finish
  rcases (s.setTeam s.cur (t.advance i)).account_spec s.cur 1 0 0 with h | ⟨w, h⟩
  · exact ⟨t.waste, by rw [h]; rfl⟩
  · refine ⟨w, ?_⟩
    rw [h, State.setTeam_setTeam, State.team_setTeam_same]

theorem State.finishBytes_spec (s : State) (i : Ins) (t : Team) (b : Nat) :
    ∃ w, s.finishBytes i t b = s.setTeam s.cur { t.advance i with waste := w } := by
  unfold State.finishBytes
  rcases (s.setTeam s.cur (t.advance i)).account_spec s.cur 1 0 b with h | ⟨w, h⟩
  · exact ⟨t.waste, by rw [h]; rfl⟩
  · refine ⟨w, ?_⟩
    rw [h, State.setTeam_setTeam, State.team_setTeam_same]

/-- A jump leaves its team at the target. -/
theorem State.jump_spec (s : State) (t : Team) (x : W64) :
    ∃ w, s.jump t x = s.setTeam s.cur { t with pc := x, icount := t.icount + 1, waste := w } := by
  unfold State.jump
  rcases (s.setTeam s.cur { t with pc := x, icount := t.icount + 1 }).account_spec s.cur 1 0 0 with h | ⟨w, h⟩
  · exact ⟨t.waste, by rw [h]⟩
  · refine ⟨w, ?_⟩
    rw [h, State.setTeam_setTeam, State.team_setTeam_same]

/-- A change of one team is a change of nothing beyond it. -/
theorem State.sameBeyond_setTeam (s : State) (i : Nat) (t : Team) : s.sameBeyond (s.setTeam i t) i :=
  ⟨fun j hj => s.team_setTeam_ne t hj, rfl⟩

theorem Team.sameRegs.refl (t : Team) (rs : List Ref) : t.sameRegs t rs := ⟨fun _ _ _ _ => rfl, fun _ _ => rfl, fun _ _ _ _ => rfl, fun _ _ => rfl⟩

theorem Team.sameRegs.trans {t u v : Team} {rs : List Ref} (h : t.sameRegs u rs) (k : u.sameRegs v rs) : t.sameRegs v rs :=
  ⟨fun r l a b => (k.1 r l a b).trans (h.1 r l a b), fun r a => (k.2.1 r a).trans (h.2.1 r a),
   fun n l a b => (k.2.2.1 n l a b).trans (h.2.2.1 n l a b), fun n a => (k.2.2.2 n a).trans (h.2.2.2 n a)⟩

/-- Teams that agree in their register maps agree in every register. -/
theorem Team.sameRegs_of_maps {t u : Team} (h1 : u.v = t.v) (h2 : u.s = t.s) (h3 : u.p = t.p) (h4 : u.q = t.q) (rs : List Ref) : t.sameRegs u rs := by
  refine ⟨fun r l _ _ => ?_, fun r _ => ?_, fun n l _ _ => ?_, fun n _ => ?_⟩
  · rw [Team.vr, Team.vr, h1]
  · rw [Team.sr, Team.sr, h2]
  · rw [Team.pr, Team.pr, h3]
  · rw [Team.qr, Team.qr, h4]

/-! A change of teams and of the memory fabric alone. -/

/-- `t` differs from `s` in teams and in the memory fabric's own state alone. -/
def State.Calm (s t : State) : Prop := ({ s with teams := t.teams } : State).Apart t

theorem State.Apart.calm {s t : State} (h : s.Apart t) : s.Calm t := by
  have := h.teams
  unfold State.Calm
  rw [this]
  exact h

theorem State.Calm.refl (s : State) : s.Calm s := rfl

theorem State.Calm.trans {s t u : State} (h : s.Calm t) (k : t.Calm u) : s.Calm u := by
  unfold State.Calm State.Apart at h k ⊢
  rw [h] at k
  exact k

theorem State.Calm.setTeam (s : State) (i : Nat) (t : Team) : s.Calm (s.setTeam i t) := rfl

theorem State.Calm.block_eq {s t : State} (h : s.Calm t) (i : Nat) : t.block i = s.block i := by
  have := State.Apart.block_eq h i
  rw [this]
  rfl

theorem State.Calm.foldl {α : Type} (g : State → α → State) (h : ∀ (s : State) (a : α), s.Calm (g s a)) (l : List α) (s : State) :
    s.Calm (l.foldl g s) := by
  induction l generalizing s with
  | nil => exact .refl s
  | cons a r ih => exact (h s a).trans (ih _)

theorem State.account_calm (s : State) (i n k b : Nat) : s.Calm (s.account i n k b) := by
  rcases s.account_spec i n k b with e | ⟨w, e⟩ <;> rw [e]
  · exact .refl s
  · exact .setTeam ..

/-! The image of a team out of its slot. -/

theorem State.imagePut_apart (s : State) (f va : Nat) (bs : List Byte) : s.Apart (s.imagePut f va bs).1 := by
  unfold State.imagePut
  dsimp only
  split
  · exact s.partsAt_apart f va bs
  · split
    · exact s.partsAt_apart f va bs
    · exact (s.partsAt_apart f va bs).trans (State.storeParts_apart _ _ _ _ _ _ _)

/-- Bytes written to a team's image, or to the save that stands for it, change memory alone. -/
theorem State.ctxPut_apart (s : State) (i off : Nat) (bs : List Byte) : s.Apart (s.ctxPut i off bs).1 := by
  unfold State.ctxPut
  dsimp only
  split
  · exact State.storeParts_apart _ _ _ _ _ _ _
  · exact State.imagePut_apart ..

/-- What a change of a team leaves to its image: memory alone, and the team's mark that its control page is still to be written. -/
theorem State.noteTeam_spec (s : State) (i : Nat) (t0 : Team) :
    ∃ u, s.Apart u ∧ (s.noteTeam i t0 = u ∨ s.noteTeam i t0 = u.setTeam i { s.team i with unsavedCtl := true }) := by
  unfold State.noteTeam
  dsimp only
  split
  · exact ⟨s, .refl s, .inl rfl⟩
  · generalize hr : List.foldl _ (s, true) _ = r
    have hA : s.Apart r.1 := by
      rw [← hr]
      refine State.Apart.foldl_fst _ (fun a k => ?_) _ (s, true)
      exact State.ctxPut_apart ..
    split
    · exact ⟨r.1, hA, .inl rfl⟩
    · exact ⟨r.1, hA, .inr (by rw [hA.team_eq])⟩

theorem State.noteTeam_calm (s : State) (i : Nat) (t0 : Team) : s.Calm (s.noteTeam i t0) := by
  obtain ⟨u, hu, e | e⟩ := s.noteTeam_spec i t0 <;> rw [e]
  · exact hu.calm
  · exact hu.calm.trans (.setTeam ..)

theorem State.noteTeam_block (s : State) (i : Nat) (t0 : Team) (b : Nat) : (s.noteTeam i t0).block b = s.block b :=
  (s.noteTeam_calm i t0).block_eq b

theorem State.noteTeam_team (s : State) (i : Nat) (t0 : Team) :
    ∃ c, (s.noteTeam i t0).team i = { s.team i with unsavedCtl := c } := by
  obtain ⟨u, hu, e | e⟩ := s.noteTeam_spec i t0 <;> rw [e]
  · exact ⟨(s.team i).unsavedCtl, hu.team_eq i⟩
  · exact ⟨true, by rw [State.team_setTeam_same]⟩

theorem State.noteTeam_team_ne (s : State) {i j : Nat} (t0 : Team) (h : j ≠ i) : (s.noteTeam i t0).team j = s.team j := by
  obtain ⟨u, hu, e | e⟩ := s.noteTeam_spec i t0 <;> rw [e]
  · exact hu.team_eq j
  · rw [u.team_setTeam_ne _ h, hu.team_eq]

/-- A team in its slot keeps its image for its eviction: nothing is written. -/
theorem State.noteTeam_inSlot (s : State) (i : Nat) (t0 : Team) (h : (s.team i).inSlot = true) : s.noteTeam i t0 = s := by
  unfold State.noteTeam
  dsimp only
  rw [h]
  rfl

/-- Showing a halt in the image changes memory alone, and the team's mark that its control page is still to be written. -/
theorem State.noteHalted_spec (s : State) (i : Nat) :
    ∃ u, s.Apart u ∧ (s.noteHalted i = u ∨ s.noteHalted i = u.setTeam i { s.team i with unsavedCtl := true }) := by
  unfold State.noteHalted
  dsimp only
  split
  · exact ⟨s, .refl s, .inl rfl⟩
  · have hA := s.ctxPut_apart i 0x1A8 (((s.controlOf i (s.team i)).drop 0x1A8).take 8)
    split
    · exact ⟨_, hA, .inl rfl⟩
    · exact ⟨_, hA, .inr (by rw [hA.team_eq])⟩

theorem State.noteHalted_calm (s : State) (i : Nat) : s.Calm (s.noteHalted i) := by
  obtain ⟨u, hu, e | e⟩ := s.noteHalted_spec i <;> rw [e]
  · exact hu.calm
  · exact hu.calm.trans (.setTeam ..)

theorem State.noteHalted_team (s : State) (i : Nat) : ∃ c, (s.noteHalted i).team i = { s.team i with unsavedCtl := c } := by
  obtain ⟨u, hu, e | e⟩ := s.noteHalted_spec i <;> rw [e]
  · exact ⟨(s.team i).unsavedCtl, hu.team_eq i⟩
  · exact ⟨true, by rw [State.team_setTeam_same]⟩

theorem State.noteHalted_inSlot (s : State) (i : Nat) (h : (s.team i).inSlot = true) : s.noteHalted i = s := by
  unfold State.noteHalted
  dsimp only
  rw [h]
  rfl

/-! Parks. -/

theorem State.park_team (s : State) (i : Nat) (c : Cause) (a : W64) :
    (s.park i c a).team i = { s.team i with st := .parked, cause := c, arg := a, parkedAt := s.clock.toNat } := by
  simp [State.park]

theorem State.parkNoted_calm (s : State) (i : Nat) (c : Cause) (a : W64) : s.Calm (s.parkNoted i c a) :=
  (State.Calm.setTeam ..).trans (State.noteTeam_calm ..)

theorem State.parkNoted_team (s : State) (i : Nat) (c : Cause) (a : W64) :
    ∃ m, (s.parkNoted i c a).team i = { s.team i with st := .parked, cause := c, arg := a, parkedAt := s.clock.toNat, unsavedCtl := m } := by
  obtain ⟨m, h⟩ := (s.park i c a).noteTeam_team i (s.team i)
  exact ⟨m, by rw [State.parkNoted, h, State.park_team]⟩

theorem State.parkNoted_team_ne (s : State) {i j : Nat} (c : Cause) (a : W64) (h : j ≠ i) : (s.parkNoted i c a).team j = s.team j := by
  rw [State.parkNoted, State.noteTeam_team_ne _ _ h, State.park, s.team_setTeam_ne _ h]

theorem State.parkHalted_calm (s : State) (i k : Nat) : s.Calm (s.parkHalted i k) := (State.Calm.setTeam ..).trans (State.noteTeam_calm ..)

theorem State.parkHalted_team_ne (s : State) {i j : Nat} (k : Nat) (h : j ≠ i) : (s.parkHalted i k).team j = s.team j := by
  unfold State.parkHalted
  rw [State.noteTeam_team_ne _ _ h, s.team_setTeam_ne _ h]

/-- A team halted with its block: only its state, cause, argument and TRAPSKID. -/
theorem State.parkHalted_team (s : State) (i k : Nat) :
    ∃ a w m, (s.parkHalted i k).team i = { s.team i with st := .parked, cause := .halted, arg := a, parkedAt := s.clock.toNat, skid := none,
                                                         trapskid := w, unsavedCtl := m } := by
  obtain ⟨m, h⟩ := State.noteTeam_team (s.setTeam i _) i (s.team i)
  exact ⟨_, _, m, by unfold State.parkHalted; dsimp only; rw [h, State.team_setTeam_same]⟩

/-! The block halt. -/

theorem State.haltSibling_calm (s : State) (o i : Nat) : s.Calm (s.haltSibling o i) := by
  unfold State.haltSibling
  dsimp only
  split
  · exact .refl s
  · split
    · exact .refl s
    · split
      · exact (State.Calm.setTeam ..).trans (State.noteTeam_calm ..)
      · exact .refl s
    · exact s.parkHalted_calm i 0
    · split
      · exact .refl s
      · split
        · exact s.useFresh_apart.calm.trans (State.parkHalted_calm ..)
        · exact s.useFresh_apart.calm.trans (.setTeam ..)

theorem State.haltSibling_team_ne (s : State) (o : Nat) {i j : Nat} (h : j ≠ i) : (s.haltSibling o i).team j = s.team j := by
  unfold State.haltSibling
  dsimp only
  split
  · rfl
  · split
    · rfl
    · split
      · rw [State.noteTeam_team_ne _ _ h, s.team_setTeam_ne _ h]
      · rfl
    · exact s.parkHalted_team_ne 0 h
    · split
      · rfl
      · split
        · rw [State.parkHalted_team_ne _ _ h, s.useFresh_apart.team_eq]
        · rw [State.team_setTeam_ne _ _ h, s.useFresh_apart.team_eq]

/-- A block halt leaves its origin as it is but for what its image still lacks, and changes only the block, its other teams and, for those out of their slots, memory. -/
theorem State.haltBlock_spec (s : State) (o : Nat) :
    (∃ m, (s.haltBlock o).team o = { s.team o with unsavedCtl := m })
      ∧ ∃ b, (s.setBlock (s.team o).block b).Calm (s.haltBlock o)
        ∧ b.halted = true ∧ b.dead = (s.block (s.team o).block).dead ∧ b.teams = (s.block (s.team o).block).teams := by
  have key : ∀ (l : List Nat) (u : State), (l.foldl (fun s i => if i = o then s else s.haltSibling o i) u).team o = u.team o := by
    intro l
    induction l with
    | nil => intro u; rfl
    | cons i r ih =>
      intro u
      simp only [List.foldl_cons]
      by_cases hi : i = o
      · rw [if_pos hi]; exact ih u
      · rw [if_neg hi, ih, u.haltSibling_team_ne o (Ne.symm hi)]
  unfold State.haltBlock
  dsimp only
  generalize hB : ({ s.block (s.team o).block with halted := true, origins := _ } : Block) = B
  refine ⟨?_, B, State.Calm.trans (State.Calm.foldl _ (fun s i => ?_) _ _) (State.noteHalted_calm ..), by rw [← hB], by rw [← hB], by rw [← hB]⟩
  · obtain ⟨m, hm⟩ := State.noteHalted_team (List.foldl _ (s.setBlock (s.team o).block B) _) o
    exact ⟨m, by rw [hm, key, State.team_setBlock]⟩
  · split
    · exact .refl s
    · exact s.haltSibling_calm o i

/-- The origin's block is halted, and is dead if it was. -/
theorem State.haltBlock_block (s : State) (o : Nat) :
    ((s.haltBlock o).block (s.team o).block).halted = true ∧ ((s.haltBlock o).block (s.team o).block).dead = (s.block (s.team o).block).dead := by
  obtain ⟨-, b, hc, h1, h2, -⟩ := s.haltBlock_spec o
  rw [hc.block_eq, State.block_setBlock_same]
  exact ⟨h1, h2⟩

/-! Resuming. -/

theorem State.account_team_ne (s : State) {i j : Nat} (n k b : Nat) (h : j ≠ i) : (s.account i n k b).team j = s.team j := by
  rcases s.account_spec i n k b with e | ⟨w, e⟩ <;> rw [e]
  exact s.team_setTeam_ne _ h

theorem State.countWake_team_ne (s : State) {i j : Nat} (h : j ≠ i) : (s.countWake i).team j = s.team j := by
  unfold State.countWake
  dsimp only
  split
  · rw [State.account_team_ne _ _ _ _ h, State.team_setTeam_ne _ _ h]
  · rfl

theorem State.unpark_team_ne (s : State) {i j : Nat} (h : j ≠ i) : (s.unpark i).team j = s.team j := by
  unfold State.unpark
  dsimp only
  split
  · rfl
  · split
    · split
      · rfl
      · rw [State.parkHalted_team_ne _ _ h, s.countWake_team_ne h]
    · split
      · rw [State.parkNoted_team_ne _ _ _ h, s.countWake_team_ne h]
      · split
        · rw [State.account_team_ne _ _ _ _ h, State.noteTeam_team_ne _ _ h, State.team_setTeam_ne _ _ h]
        · rw [State.noteTeam_team_ne _ _ h, State.team_setTeam_ne _ _ h]

/-- A parked team of a block that no halt holds is active again, or ready: only its state, cause, argument, counts and age change. -/
theorem State.unpark_team (s : State) (i : Nat) (hc : (s.team i).cause ≠ .cancelledPending) (hd : (s.block (s.team i).block).dead = false)
    (hh : (s.block (s.team i).block).halted = false) (hg : (s.block (s.team i).block).debug = false) :
    ∃ w m, (s.unpark i).team i = { s.team i with st := if (s.team i).inSlot then .active else .ready, cause := .none, arg := 0, countOnWake := false,
                                                 age := s.clock.toNat, readyAt := s.clock.toNat, waste := w, unsavedCtl := m } := by
  unfold State.unpark
  dsimp only
  rw [if_neg hc, hd, hh, hg, if_neg (by simp), if_neg (by simp)]
  generalize hx : s.setTeam i { s.team i with st := if (s.team i).inSlot then .active else .ready, cause := .none, arg := 0, countOnWake := false,
                                              age := s.clock.toNat, readyAt := s.clock.toNat } = x
  obtain ⟨m, h⟩ := x.noteTeam_team i (s.team i)
  rw [← hx, State.team_setTeam_same, hx] at h
  split
  · rcases (x.noteTeam i (s.team i)).account_spec i 1 0 0 with e | ⟨w, e⟩ <;> rw [e]
    · exact ⟨(s.team i).waste, m, h⟩
    · exact ⟨w, m, by rw [State.team_setTeam_same, h]⟩
  · exact ⟨(s.team i).waste, m, h⟩

/-- A block release leaves a team that is not parked as it is, but for a skid that ends. -/
theorem State.releaseBlock_team (s : State) (b i : Nat) (h : (s.team i).st ≠ .parked) :
    ∃ k, (s.releaseBlock b).team i = { s.team i with skid := k } := by
  have key : ∀ (l : List Nat) (u : State), (u.team i).st ≠ .parked →
      ∃ k, (l.foldl (fun s j => let t := s.team j
        if t.st = .parked ∧ t.cause = .halted then s.unpark j else s.setTeam j { t with skid := none }) u).team i = { u.team i with skid := k } := by
    intro l
    induction l with
    | nil => intro u _; exact ⟨(u.team i).skid, rfl⟩
    | cons j r ih =>
      intro u hu
      simp only [List.foldl_cons]
      by_cases hj : j = i
      · subst hj
        rw [if_neg (fun h => hu h.1)]
        obtain ⟨k, hk⟩ := ih (u.setTeam j { u.team j with skid := none }) (by rw [State.team_setTeam_same]; exact hu)
        exact ⟨k, by rw [hk, State.team_setTeam_same]⟩
      · split
        · obtain ⟨k, hk⟩ := ih (u.unpark j) (by rw [u.unpark_team_ne (Ne.symm hj)]; exact hu)
          exact ⟨k, by rw [hk, u.unpark_team_ne (Ne.symm hj)]⟩
        · obtain ⟨k, hk⟩ := ih (u.setTeam j { u.team j with skid := none }) (by rw [u.team_setTeam_ne _ (Ne.symm hj)]; exact hu)
          exact ⟨k, by rw [hk, u.team_setTeam_ne _ (Ne.symm hj)]⟩
  unfold State.releaseBlock
  dsimp only
  split
  · exact ⟨(s.team i).skid, rfl⟩
  · obtain ⟨k, hk⟩ := key (s.block b).teams (s.setBlock b { s.block b with halted := false }) h
    exact ⟨k, by rw [hk]; rfl⟩

/-- The return from a trap (09 R198): the team as RTE leaves it, but for a skid that ends; it may wait halted for another origin (R188). -/
theorem State.returnTrap_team (s : State) (i : Nat) (h : (s.team i).st ≠ .parked) :
    let u := (s.returnTrap i).team i
    (∃ k, u = { (s.team i).returned with skid := k })
      ∨ ∃ a w m k, u = { (s.team i).returned with
          st := .parked, cause := .halted, arg := a, parkedAt := k, skid := none, trapskid := w, unsavedCtl := m } := by
  unfold State.returnTrap
  dsimp only
  generalize hB : (if (s.team i).haltctl.getLsbD 1 then _ else _ : State) = B
  have hBt : ∃ k, B.team i = { (s.team i).returned with skid := k } := by
    rw [← hB]
    split
    · exact ⟨(s.team i).skid, by rw [State.team_setTeam_same]; rfl⟩
    · generalize hA : (State.setBlock _ _ _) = A
      have hAt : A.team i = (s.team i).returned := by rw [← hA, State.team_setBlock, State.team_setTeam_same]
      obtain ⟨k, hk⟩ := A.releaseBlock_team (s.team i).block i (by rw [hAt]; exact h)
      exact ⟨k, by rw [hk, hAt]⟩
  obtain ⟨k, hk⟩ := hBt
  split
  · obtain ⟨a, w, m, e⟩ := State.parkHalted_team B i 0
    exact .inr ⟨a, w, m, B.clock.toNat, by rw [e, hk]⟩
  · exact .inl ⟨k, hk⟩

/-! Traps. -/

/-- A fatal trap: the team is parked with cause halted, its block is dead, its registers stay. -/
theorem State.fatal_spec (s : State) (i cls : Nat) (a : W64) :
    (∃ m, (s.fatal i cls a).team i = { s.team i with st := .parked, cause := .halted, arg := a, parkedAt := s.clock.toNat, unsavedCtl := m })
      ∧ ((s.fatal i cls a).block (s.team i).block).dead = true := by
  obtain ⟨m, hm⟩ := s.parkNoted_team i .halted a
  unfold State.fatal
  dsimp only
  generalize hP : (s.parkNoted i .halted a) = P at hm ⊢
  generalize hA : P.setBlock _ _ = A
  have hAt : A.team i = P.team i := by rw [← hA, State.team_setBlock]
  have hAb : (A.block (s.team i).block).dead = true := by rw [← hA, State.block_setBlock_same]
  have hb : (A.team i).block = (s.team i).block := by rw [hAt, hm]
  have h2 := (A.haltBlock_block i).2
  rw [hb, hAb] at h2
  obtain ⟨n, hn⟩ := (A.haltBlock_spec i).1
  exact ⟨⟨n, by rw [(State.report_cached ..).team_eq, hn, hAt, hm]⟩, by rw [(State.report_cached ..).block_eq, h2]⟩

/-- A trap with no handler, or in handler mode (09 R183): the team as it is left, parked for good in a dead block. -/
theorem State.takeTrap_fatal (s : State) (i : Nat) (x : TrapInfo) (h : (s.team i).hmode = true ∨ s.noHandler (s.team i) x.cls = true) :
    let t := s.team i
    let u := (s.takeTrap i x).team i
    u.st = .parked ∧ u.cause = .halted ∧ u.pc = t.pc ∧ u.v = t.v ∧ u.s = t.s ∧ u.p = t.p ∧ u.q = t.q ∧ u.vE = t.vE ∧ u.sE = t.sE ∧ u.pE = t.pE
      ∧ u.qE = t.qE ∧ u.hmode = t.hmode ∧ u.mask = t.mask ∧ u.fpflags = t.fpflags ∧ u.icount = t.icount
      ∧ ((s.takeTrap i x).block t.block).dead = true := by
  have key : ∀ (T : Team) (c : Nat) (a : W64), T.block = (s.team i).block →
      (∃ m k, (((s.setTeam i T).noteTeam i (s.team i)).fatal i c a).team i
        = { T with st := .parked, cause := .halted, arg := a, parkedAt := k, unsavedCtl := m })
      ∧ ((((s.setTeam i T).noteTeam i (s.team i)).fatal i c a).block (s.team i).block).dead = true := by
    intro T c a hT
    obtain ⟨m, hm⟩ := (s.setTeam i T).noteTeam_team i (s.team i)
    rw [State.team_setTeam_same] at hm
    generalize (s.setTeam i T).noteTeam i (s.team i) = A at hm ⊢
    obtain ⟨⟨n, h1⟩, h2⟩ := A.fatal_spec i c a
    rw [hm, hT] at h2
    exact ⟨⟨n, _, by rw [h1, hm]⟩, h2⟩
  unfold State.takeTrap
  dsimp only
  by_cases hm : (s.team i).hmode = true
  · rw [if_pos hm]
    obtain ⟨⟨m, k, e⟩, hd⟩ := key { s.team i with trapcause := _, skid := none } x.cls (s.team i).pc rfl
    exact ⟨by rw [e], by rw [e], by rw [e], by rw [e], by rw [e], by rw [e], by rw [e], by rw [e], by rw [e], by rw [e], by rw [e], by rw [e],
      by rw [e], by rw [e], by rw [e], hd⟩
  · rw [if_neg hm, if_pos (h.resolve_left hm)]
    obtain ⟨⟨m, k, e⟩, hd⟩ := key (s.trapped i x) x.cls x.pc rfl
    exact ⟨by rw [e], by rw [e], by rw [e]; rfl, by rw [e]; rfl, by rw [e]; rfl, by rw [e]; rfl, by rw [e]; rfl, by rw [e]; rfl, by rw [e]; rfl,
      by rw [e]; rfl, by rw [e]; rfl, by rw [e]; rfl, by rw [e]; rfl, by rw [e]; rfl, by rw [e]; rfl, hd⟩

/-- Halting the origin's block, or not, and noting the change leaves the origin as it is; in a block that never runs again it is parked. -/
theorem State.haltIf_noted (s : State) (i : Nat) (b d : Bool) (t0 : Team) :
    let u := (if b then s else s.haltBlock i).noteTeam i t0
    let v := if d then u.parkNoted i .halted (u.team (u.originOf (s.team i).block)).trappc else u
    (∃ m, d = false ∧ v.team i = { s.team i with unsavedCtl := m })
      ∨ ∃ m k a, d = true ∧ v.team i = { s.team i with st := .parked, cause := .halted, arg := a, parkedAt := k, unsavedCtl := m } := by
  obtain ⟨m, e⟩ := State.noteTeam_team (if b then s else s.haltBlock i) i t0
  obtain ⟨n, h⟩ : ∃ n, (if b then s else s.haltBlock i).team i = { s.team i with unsavedCtl := n } := by
    split
    · exact ⟨(s.team i).unsavedCtl, rfl⟩
    · exact (s.haltBlock_spec i).1
  rw [h] at e
  dsimp only
  generalize State.noteTeam _ i t0 = u at e ⊢
  cases d with
  | false => exact .inl ⟨m, rfl, e⟩
  | true =>
    obtain ⟨c, hc⟩ := u.parkNoted_team i .halted (u.team (u.originOf (s.team i).block)).trappc
    exact .inr ⟨c, u.clock.toNat, _, rfl, by rw [if_pos rfl, hc, e]⟩

/-- Entry of a trap with a handler, of a block that runs and of one that never runs again. -/
theorem State.takeTrap_enters (s : State) (i : Nat) (x : TrapInfo) (hm : (s.team i).hmode = false) (hh : s.noHandler (s.team i) x.cls = false) :
    let e := (s.trapped i x).entered x.cls
    (∃ m, (s.block (s.team i).block).dead = false ∧ (s.takeTrap i x).team i = { e with unsavedCtl := m })
      ∨ ∃ m k a, (s.block (s.team i).block).dead = true
        ∧ (s.takeTrap i x).team i = { e with st := .parked, cause := .halted, arg := a, parkedAt := k, unsavedCtl := m } := by
  have h := State.haltIf_noted (s.setTeam i ((s.trapped i x).entered x.cls)) i
    ((s.team i).haltctl.getLsbD (16 + x.cls) && (s.team i).skid.isNone) (s.block (s.team i).block).dead (s.team i)
  rw [State.team_setTeam_same] at h
  unfold State.takeTrap
  dsimp only at h ⊢
  rw [if_neg (by rw [hm]; exact Bool.false_ne_true), if_neg (by rw [hh]; exact Bool.false_ne_true)]
  exact h

/-- TRAPCAUSE as any trap leaves it (09 R183, R184). -/
theorem State.takeTrap_cause (s : State) (i : Nat) (x : TrapInfo) : ((s.takeTrap i x).team i).trapcause
    = trapWord x.cls x.sub x.ilen (s.team i).slot (multiCause x.causes) (s.team i).hmode := by
  have key : ∀ (T : Team) (c : Nat) (a : W64), ((((s.setTeam i T).noteTeam i (s.team i)).fatal i c a).team i).trapcause = T.trapcause := by
    intro T c a
    obtain ⟨m, hm⟩ := (s.setTeam i T).noteTeam_team i (s.team i)
    rw [State.team_setTeam_same] at hm
    generalize (s.setTeam i T).noteTeam i (s.team i) = A at hm ⊢
    obtain ⟨⟨n, h1⟩, -⟩ := A.fatal_spec i c a
    rw [h1, hm]
  by_cases hm : (s.team i).hmode = true
  · unfold State.takeTrap
    dsimp only
    rw [if_pos hm, key]
    rfl
  · rw [Bool.not_eq_true] at hm
    by_cases hh : s.noHandler (s.team i) x.cls = true
    · unfold State.takeTrap
      dsimp only
      rw [if_neg (by rw [hm]; exact Bool.false_ne_true), if_pos hh, key]
      rfl
    · rcases s.takeTrap_enters i x hm (by rwa [Bool.not_eq_true] at hh) with ⟨m, -, e⟩ | ⟨m, k, a, -, e⟩ <;> rw [e] <;> rfl

/-- Entry of a trap with a handler (09 R182): the team as the entry leaves it; in a block that never runs again it stays halted (R183). -/
theorem State.takeTrap_entry (s : State) (i : Nat) (x : TrapInfo) (hm : (s.team i).hmode = false) (hh : s.noHandler (s.team i) x.cls = false) :
    let t := s.team i
    let u := (s.takeTrap i x).team i
    u.hmode = true ∧ u.pc = t.trapbase + BitVec.ofNat 64 (x.cls * 0x40) ∧ u.trappc = x.pc
      ∧ u.trapcause = trapWord x.cls x.sub x.ilen t.slot (multiCause x.causes) false
      ∧ u.savedQ = t.q ∧ u.savedQE = t.qE ∧ u.savedFpctl = t.fpctl ∧ u.fpctl = fpctlEntry t.fpctl
      ∧ u.v = t.v ∧ u.s = t.s ∧ u.p = t.p ∧ u.q = t.q ∧ u.vE = t.vE ∧ u.sE = t.sE ∧ u.pE = t.pE ∧ u.qE = t.qE ∧ u.mask = t.mask
      ∧ u.trapbase = t.trapbase ∧ u.fpflags = t.fpflags ∧ u.icount = t.icount ∧ u.slot = t.slot ∧ u.mma = t.mma ∧ u.haltctl = t.haltctl
      ∧ u.block = t.block ∧ u.stepctl = t.stepctl ∧ u.sgid = t.sgid ∧ u.vf = t.vf
      ∧ ((s.block t.block).dead = false → u.st = (if t.st = .parked then (if t.inSlot then .active else .ready) else t.st)) := by
  have hc : (s.trapped i x).trapcause = trapWord x.cls x.sub x.ilen (s.team i).slot (multiCause x.causes) (s.team i).hmode := rfl
  rw [hm] at hc
  dsimp only
  rcases s.takeTrap_enters i x hm hh with ⟨m, -, e⟩ | ⟨m, k, a, hd, e⟩ <;> rw [e]
  · exact ⟨rfl, rfl, rfl, hc, rfl, rfl, rfl, rfl, rfl, rfl, rfl, rfl, rfl, rfl, rfl, rfl, rfl, rfl, rfl, rfl, rfl, rfl, rfl, rfl, rfl, rfl, rfl, fun _ => rfl⟩
  · exact ⟨rfl, rfl, rfl, hc, rfl, rfl, rfl, rfl, rfl, rfl, rfl, rfl, rfl, rfl, rfl, rfl, rfl, rfl, rfl, rfl, rfl, rfl, rfl, rfl, rfl, rfl, rfl,
      fun h => absurd hd (by rw [h]; exact Bool.false_ne_true)⟩

end Sys2Proof.Machine
end

