-- ==== Sys2Proof/Laws/Access.lean ====
section
/-!
SUPPORT. The shared parts of a memory access, one lemma each: what its checks may change, where a settled access goes on, how a load
lands, what a store and the parks after it leave of the team.
-/
namespace Sys2Proof.Machine

/-! Checks. -/

theorem State.record_apart (s : State) (vf dir slot : Nat) : s.Apart (s.record vf dir slot).1 := by
  unfold State.record
  dsimp only
  split
  · split <;> exact vread_apart _ _ _ _
  · exact vread_apart _ _ _ _
  · exact vread_apart _ _ _ _

theorem State.planWalk_apart (s : State) (vf l key off va : Nat) (w : Want) (p : Plan) : s.Apart (s.planWalk vf l key off va w p).1 := by
  unfold State.planWalk
  dsimp only
  split
  · split <;> exact walk_apart _ _ _ _ _
  · exact walk_apart _ _ _ _ _
  · exact walk_apart _ _ _ _ _

theorem State.plan_apart (s : State) (i : Ins) (t : Team) (ls : List Nat) (w : Want) : s.Apart (s.plan i t ls w).1 := by
  unfold State.plan
  split
  · exact .refl s
  · dsimp only
    split
    · exact record_apart _ _ _ _
    · refine (record_apart s t.vf (s.tdir t) i.f.b.toNat).trans ?_
      refine State.Apart.foldl_fst _ (fun s l => ?_) ls ((s.record t.vf (s.tdir t) i.f.b.toNat).1, Plan.empty)
      split
      · exact .refl _
      · exact planWalk_apart _ _ _ _ _ _ _ _

theorem State.planParam_apart (s : State) (i : Ins) (t : Team) (ls : List Nat) (n : Nat) : s.Apart (s.planParam i t ls n).1 := by
  unfold State.planParam
  refine State.Apart.foldl_fst _ (fun s l => ?_) ls (s, Plan.empty)
  dsimp only
  split
  · exact .refl _
  · exact planWalk_apart _ _ _ _ _ _ _ _

theorem State.scaleRecord_apart (s : State) (t : Team) (r : Rec) : s.Apart (s.scaleRecord t r).1 := by
  unfold State.scaleRecord
  split
  · exact record_apart _ _ _ _
  · exact .refl s

theorem State.planBlocks_apart (s : State) (i : Ins) (t : Team) (ls : List Nat) (wr : Bool) : s.Apart (s.planBlocks i t ls wr).1 := by
  unfold State.planBlocks
  dsimp only
  split
  · exact record_apart _ _ _ _
  · rename_i r _
    refine ((record_apart s t.vf (s.tdir t) i.f.b.toNat).trans (scaleRecord_apart _ t r)).trans ?_
    exact State.Apart.foldl_fst _ (fun s e => by
      split
      · exact .refl _
      · exact (planWalk_apart _ _ _ _ _ _ _ _).trans (planWalk_apart _ _ _ _ _ _ _ _)) _
      (((s.record t.vf (s.tdir t) i.f.b.toNat).1.scaleRecord t r).1, Plan.empty)

/-! A settled access. -/

/-- Checks that found no cause and no page leave none. -/
theorem State.causes_nil {s : State} {t : Team} {p : Plan} (h1 : p.fails = []) (h2 : p.pages = []) : s.causes t p [] = [] := by
  unfold State.causes
  rw [h1, h2]
  simp

/-- A settled access is performed. -/
theorem State.settle_go {s : State} {i : Ins} {t : Team} {p : Plan} {n : Nat} {rd wr : Bool} (k : State → State)
    (h : Settled s i t p n rd wr) : s.settle i t p [] n rd wr k = k s := by
  obtain ⟨h1, h2, h3, h4, h5, h8⟩ := h
  unfold State.settle
  have h6 : (p.accs.any fun a => s.placeOwned a.place n || s.ownLater s.cur a.place n wr) = false := by
    simp only [List.any_eq_false]
    intro a ha
    obtain ⟨e1, e2⟩ := h4 a ha
    simp [e1, e2]
  have h7 : (decide (lineCount p.accs > 0) && !s.mayEnter t.core s.cur) = false := by
    rcases h5 with h5 | h5 <;> simp [h5]
  have h9 : ((i.op == 0x101 || i.op == 0x103) && s.unbound s.cur) = false := by
    by_cases hs : i.op = 0x101 ∨ i.op = 0x103
    · rw [h8 hs, Bool.and_false]
    · obtain ⟨a, b⟩ := not_or.1 hs
      simp [a, b]
  rw [s.causes_nil h1 h2, h2, h3, h6, h9]
  simp [h7]

/-- Having an entry changes the team's count of rejections and the reservations alone. -/
theorem State.entered_spec (s : State) (i : Nat) : s.entered i = s
    ∨ ∃ rs, s.entered i = { s.setTeam i { s.team i with rejects := 0 } with reserved := rs } := by
  unfold State.entered
  split
  · exact .inl rfl
  · exact .inr ⟨_, rfl⟩

theorem State.entered_team (s : State) (i : Nat) : (s.entered i).team i = { s.team i with rejects := 0 } := by
  unfold State.entered
  split
  · next h => cases hs : s.team i; simp_all
  · exact State.team_setTeam_same _ _ _

section
variable (s : State) (i : Nat)
@[simp] theorem State.entered_cur : (s.entered i).cur = s.cur := by unfold State.entered; split <;> rfl
@[simp] theorem State.entered_mem : (s.entered i).mem = s.mem := by unfold State.entered; split <;> rfl
@[simp] theorem State.entered_sysmem : (s.entered i).sysmem = s.sysmem := by unfold State.entered; split <;> rfl
@[simp] theorem State.entered_cm : (s.entered i).cm = s.cm := by unfold State.entered; split <;> rfl
@[simp] theorem State.entered_blk : (s.entered i).blk = s.blk := by unfold State.entered; split <;> rfl
@[simp] theorem State.entered_held : (s.entered i).held = s.held := by unfold State.entered; split <;> rfl
@[simp] theorem State.entered_replies : (s.entered i).replies = s.replies := by unfold State.entered; split <;> rfl
@[simp] theorem State.entered_atoms : (s.entered i).atoms = s.atoms := by unfold State.entered; split <;> rfl
@[simp] theorem State.entered_blocks : (s.entered i).blocks = s.blocks := by unfold State.entered; split <;> rfl
end

/-! The caches' side of an access. -/

theorem State.setL1_cached (s : State) (c k : Nat) (x : L1Sec) : s.Cached (s.setL1 c k x) := rfl
theorem State.setL2_cached (s : State) (d k : Nat) (x : L2Line) : s.Cached (s.setL2 d k x) := rfl
theorem State.setNc_cached (s : State) (c k : Nat) (x : NcSec) : s.Cached (s.setNc c k x) := rfl
theorem State.setLt_cached (s : State) (c : Nat) (x : W64) : s.Cached (s.setLt c x) := rfl
theorem State.sendMsg_cached (s : State) (m : Instr) : s.Cached (s.sendMsg m) := rfl

theorem State.askGrain_cached (s : State) (m : CohMsg) (wr : Bool) : s.Cached (s.askGrain m wr) := by
  unfold State.askGrain
  split_ifs <;> first | exact .refl s | exact s.sendMsg_cached _

theorem State.touchTag_cached (s : State) (d k : Nat) : s.Cached (s.touchTag d k) := by
  unfold State.touchTag
  dsimp only
  split
  · rfl
  · exact .refl s

theorem State.holdWrite_cached (s : State) (f : Nat) (ps : List Part) (w : Writer) (log : Bool) (va : Nat) (op : HeldOp) :
    s.Cached (s.holdWrite f ps w log va op) := rfl

theorem State.setCtxTags_cached (s : State) (c : Nat) (l : List (Nat × Nat)) : s.Cached (s.setCtxTags c l) := rfl

theorem State.flushSector_cached (s : State) (c k : Nat) : s.Cached (s.flushSector c k) := by
  unfold State.flushSector
  dsimp only
  split
  · exact .refl s
  · split
    · exact s.setNc_cached _ _ _
    · split
      · split
        · exact .refl s
        · split
          · exact (s.holdWrite_cached _ _ _ _ _ _).trans (State.askLog_apart ..).cached
          · exact s.holdWrite_cached _ _ _ _ _ _
      · split
        · exact s.setNc_cached _ _ _
        · split
          · exact ((s.lateParts_cached _ _).trans (State.setNc_cached _ _ _ _)).trans (State.writeBack_cached _ _ _)
          · exact (State.storeParts_apart ..).cached.trans (State.setNc_cached _ _ _ _)

theorem State.l1Room_cached (s : State) (c k : Nat) : s.Cached (s.l1Room c k) := by
  unfold State.l1Room
  dsimp only
  split
  · exact .refl s
  · split
    · exact s.useFresh_apart.cached.trans (State.setCtxTags_cached _ _ _)
    · generalize hA : List.foldl _ s.useFresh _ = A
      have h : s.Cached A := s.useFresh_apart.cached.trans (hA ▸ State.Cached.foldl _ (fun s i => s.flushSector_cached _ _) _ _)
      exact h.trans rfl

theorem State.fillL1_cached (s : State) (c : Nat) (sys : Bool) (a n : Nat) (le w : W64) : s.Cached (s.fillL1 c sys a n le w) :=
  (s.l1Room_cached _ _).trans (.foldl _ (fun s i => s.setL1_cached _ _ _) _ _)

theorem State.leaseRead_cached (s : State) (c d : Nat) (sys : Bool) (g n : Nat) : s.Cached (s.leaseRead c d sys g n) := by
  unfold State.leaseRead
  dsimp only
  exact (((s.setL2_cached _ _ _).trans (State.touchTag_cached _ _ _)).trans (State.fillL1_cached _ _ _ _ _ _ _)).trans (State.setLt_cached _ _ _)

theorem State.leaseWriteAt_cached (s : State) (c d : Nat) (sys : Bool) (g n : Nat) (x : W64) : s.Cached (s.leaseWriteAt c d sys g n x) := by
  unfold State.leaseWriteAt
  dsimp only
  exact (((s.setL2_cached _ _ _).trans (State.touchTag_cached _ _ _)).trans (State.fillL1_cached _ _ _ _ _ _ _)).trans (State.setLt_cached _ _ _)

theorem State.leaseWrite_cached (s : State) (c d : Nat) (sys : Bool) (g n : Nat) : s.Cached (s.leaseWrite c d sys g n) := s.leaseWriteAt_cached _ _ _ _ _ _

theorem State.joinRead_cached (s : State) (d c : Nat) (sys : Bool) (g : Nat) : s.Cached (s.joinRead d c sys g) := by
  unfold State.joinRead
  dsimp only
  split
  · exact .refl s
  · rfl

theorem State.readSector_cached (s : State) (c slot : Nat) (t : Tr) (a n : Nat) : s.Cached (s.readSector c slot t a n).1 := by
  unfold State.readSector
  dsimp only
  split
  · split
    · exact (s.l1Room_cached _ _).trans (State.setNc_cached _ _ _ _)
    · exact .refl s
  · split
    · exact s.setLt_cached _ _
    · split
      · dsimp only
        split
        · exact s.joinRead_cached _ _ _ _
        · exact s.askGrain_cached _ _
      · exact s.leaseRead_cached _ _ _ _ _

theorem State.touchIf_apart (s : State) (b : Bool) (a : Nat) : s.Apart (if b then s else s.touchFrame a) := by
  split
  · exact .refl s
  · exact s.touchFrame_apart a

/-- What a core's read may change: the caches and the fabric. -/
theorem State.coreRead_cached (s : State) (c slot : Nat) (t : Tr) (n : Nat) : s.Cached (s.coreRead c slot t n).1 := by
  unfold State.coreRead
  dsimp only
  refine (s.touchIf_apart t.sys t.addr).cached.trans ?_
  generalize (if t.sys = true then s else s.touchFrame t.addr) = u
  split
  · exact .refl u
  · dsimp only
    refine State.Cached.foldl_fst _ (fun a e => ?_) _ (u, [])
    exact State.readSector_cached _ _ _ _ _ _

theorem State.dropClean_cached (s : State) (c k : Nat) : s.Cached (s.dropClean c k) := by
  unfold State.dropClean
  split
  · exact s.setNc_cached _ _ _
  · exact .refl s

theorem State.dropL1s_cached (s : State) (c lo n : Nat) : s.Cached (s.dropL1s c lo n) := rfl

theorem State.pairUp_cached (s : State) (c : Nat) (a b : Tr) : s.Cached (s.pairUp c a b) := by
  unfold State.pairUp
  dsimp only
  split
  · exact (s.dropClean_cached _ _).trans (State.dropClean_cached _ _ _)
  · split
    · exact .refl s
    · exact (s.dropL1s_cached _ _ _).trans (State.dropL1s_cached _ _ _ _)

theorem State.readUnit_cached (s : State) (c slot n : Nat) (u : AUnit) : s.Cached (s.readUnit c slot n u).1 := by
  unfold State.readUnit
  dsimp only
  cases u.sc with
  | none => exact s.coreRead_cached _ _ _ _
  | some x => exact ((s.pairUp_cached _ _ _).trans (State.coreRead_cached _ _ _ _ _)).trans (State.coreRead_cached _ _ _ _ _)

theorem State.readUnits_cached (s : State) (c slot n : Nat) (us : List AUnit) : s.Cached (s.readUnits c slot n us).1 := by
  unfold State.readUnits
  refine State.Cached.foldl_fst _ (fun a u => ?_) us (s, ([] : List (AUnit × List Byte × List Byte × Bool)))
  exact State.readUnit_cached _ _ _ _ _

/-- Every unit is answered, in turn. -/
theorem State.readUnits_units (s : State) (c slot n : Nat) (us : List AUnit) : (s.readUnits c slot n us).2.map (fun x => x.1) = us := by
  unfold State.readUnits
  suffices ∀ (a : State × List (AUnit × List Byte × List Byte × Bool)),
      (us.foldl (fun a u => ((a.1.readUnit c slot n u).1, a.2 ++ [(u, (a.1.readUnit c slot n u).2)])) a).2.map (fun x => x.1)
        = a.2.map (fun x => x.1) ++ us by simpa using this (s, [])
  induction us with
  | nil => simp
  | cons u r ih => intro a; simp [ih]

theorem State.coreWrote_cached (s : State) (c : Nat) (t : Tr) (n : Nat) : s.Cached (s.coreWrote c t n) := by
  unfold State.coreWrote
  refine .foldl _ (fun s e => ?_) _ _
  split
  · exact .refl s
  · exact s.leaseWrite_cached _ _ _ _ _

theorem State.coreWroteBoth_cached (s : State) (c : Nat) (t : Tr) (n : Nat) (t' : Tr) (n' : Nat) : s.Cached (s.coreWroteBoth c t n t' n') := by
  unfold State.coreWroteBoth
  dsimp only
  exact .foldl _ (fun s e => s.leaseWriteAt_cached _ _ _ _ _ _) _ _

theorem State.putNc_cached (s : State) (c a : Nat) (b : Byte) (x : Bool) : s.Cached (s.putNc c a b x) := s.setNc_cached _ _ _

/-- What a core's write may change: the caches and the fabric. -/
theorem State.coreStore_cached (s : State) (c : Nat) (t : Tr) (bs : List Byte) (w : Writer) (va : Nat) : s.Cached (s.coreStore c t bs w va).1 := by
  unfold State.coreStore
  dsimp only
  split
  · split
    · exact .refl s
    · exact (s.coreRead_cached _ _ _ _).trans (.foldl _ (fun s i => s.putNc_cached _ _ _ _) _ _)
  · split
    · exact .refl s
    · split
      · exact (State.storeDirty_cached ..).trans (State.coreWrote_cached _ _ _ _)
      · exact State.storeDirty_cached ..

theorem State.storeUnit_cached (s : State) (c : Nat) (r : Rest) (w : Writer) (u : AUnit) : s.Cached (s.storeUnit c r w u).1 := by
  unfold State.storeUnit
  cases u.sc with
  | none => exact s.coreStore_cached _ _ _ _ _
  | some x =>
    dsimp only
    split
    · split
      · exact s.coreRead_cached _ _ _ _
      · refine State.Cached.trans ?_ (State.coreStore_cached _ _ _ _ _ _)
        split
        · exact (s.coreRead_cached _ _ _ _).trans (.foldl _ (fun s i => s.putNc_cached _ _ _ _) _ _)
        · exact (s.coreRead_cached _ _ _ _).trans (State.coreStore_cached _ _ _ _ _ _)
    · split
      · exact .refl s
      · split
        · exact (State.storeDirty_cached ..).trans (State.coreWroteBoth_cached _ _ _ _ _ _)
        · exact State.storeDirty_cached ..

/-! Entries. -/

theorem AUnit.lines_nodup (u : AUnit) : u.lines.Nodup := by
  unfold AUnit.lines
  dsimp only
  cases u.sc with
  | none => simp
  | some c =>
    dsimp only
    rw [List.nodup_cons]
    exact ⟨fun h => by simpa using (List.mem_filter.1 h).2, (List.nodup_singleton _).filter _⟩

/-- Adding lines that a list lacks. -/
theorem addLines_length (ls add : List (Nat × Bool × Nat)) (h : add.Nodup) :
    add.foldl (fun ls x => if ls.contains x then ls else ls ++ [x]) ls = ls ++ add.filter (fun x => !ls.contains x) := by
  induction add generalizing ls with
  | nil => simp
  | cons x r ih =>
    obtain ⟨hx, hr⟩ := List.nodup_cons.1 h
    rw [List.foldl_cons, ih _ hr]
    by_cases hc : ls.contains x = true
    · rw [if_pos hc, List.filter_cons_of_neg (by rw [hc]; simp)]
    · have hc' : ls.contains x = false := by simpa using hc
      rw [if_neg hc, List.filter_cons_of_pos (by rw [hc']; rfl), List.append_assoc]
      congr 1
      rw [List.singleton_append]
      congr 1
      refine List.filter_congr (fun y hy => ?_)
      have : y ≠ x := fun e => hx (e ▸ hy)
      simp [this]

theorem unitLines_snoc (us : List AUnit) (u : AUnit) : unitLines (us ++ [u]) = unitLines us ++ u.lines.filter (fun l => !(unitLines us).contains l) := by
  unfold unitLines
  rw [List.foldl_append]
  exact addLines_length _ _ u.lines_nodup

theorem unitLines_le (us vs : List AUnit) : (unitLines us).length ≤ (unitLines (us ++ vs)).length := by
  induction vs using List.reverseRecOn with
  | nil => simp
  | append_singleton vs v ih =>
    rw [← List.append_assoc, unitLines_snoc, List.length_append]
    exact Nat.le_add_right_of_le ih

/-- Units whose lines all find an entry take theirs at once. -/
theorem Rest.admit_all (r : Rest) (room : Nat) (h0 : r.inside = []) (h : (unitLines r.out).length ≤ room) :
    r.enter room = { r with inside := r.out, out := [] } := by
  unfold Rest.enter
  dsimp only
  rw [h0]
  simp only [List.nil_append]
  generalize hg : (fun (a : List AUnit × List AUnit × Nat) (u : AUnit) => _) = g
  have key : ∀ (vs us : List AUnit), (unitLines (us ++ vs)).length ≤ room →
      vs.foldl g (us, [], room - (unitLines us).length) = (us ++ vs, [], room - (unitLines (us ++ vs)).length) := by
    intro vs
    induction vs with
    | nil => intro us _; simp
    | cons v vs ih =>
      intro us hl
      have e : us ++ v :: vs = (us ++ [v]) ++ vs := by simp
      have h1 := unitLines_le (us ++ [v]) vs
      have h2 := congrArg List.length (unitLines_snoc us v)
      rw [List.length_append] at h2
      rw [e] at hl
      rw [List.foldl_cons, e, ← ih _ hl]
      congr 1
      rw [← hg]
      dsimp only
      have h3 : (v.lines.any fun l => (unitLines []).contains l) = false := by simp [unitLines]
      have h4 : (v.lines.filter fun l => !(unitLines us).contains l).length ≤ room - (unitLines us).length := by omega
      rw [h3, decide_eq_true h4, if_pos (by rfl)]
      congr 2
      omega
  have h5 := key r.out [] (by simpa using h)
  simp only [List.nil_append] at h5
  have h6 : room - (unitLines []).length = room := by simp [unitLines]
  rw [h6] at h5
  rw [h5]

/-- Units that are the core's to write are all performed. -/
theorem State.splitUnits_all (s : State) (core : Nat) (r : Rest) (h : r.stores = true → ∀ u ∈ r.inside, s.unitOwned core r u = true) :
    s.splitUnits core r = (r.inside, []) := by
  unfold State.splitUnits
  by_cases hs : r.stores = true
  · rw [hs]
    simp only [Bool.not_true, Bool.false_eq_true, if_false]
    have key : ∀ (us acc : List AUnit), (∀ u ∈ us, s.unitOwned core r u = true) →
        us.foldl (fun (a : List AUnit × List AUnit) u =>
          if s.unitOwned core r u && !u.lines.any (fun l => (unitLines a.2).contains l) then (a.1 ++ [u], a.2) else (a.1, a.2 ++ [u])) (acc, []) = (acc ++ us, []) := by
      intro us
      induction us with
      | nil => intro acc _; simp
      | cons u us ih =>
        intro acc hu
        have h1 : (u.lines.any fun l => (unitLines []).contains l) = false := by simp [unitLines]
        rw [List.foldl_cons, hu u (by simp), h1, if_pos (show (true && !false) = true from rfl), ih _ (fun v hv => hu v (by simp [hv]))]
        simp
    simpa using key r.inside [] (h hs)
  · simp [hs]

/-- What is performed of an instruction whose lines all find entries and whose grains are its core's to write: all of it, at once. -/
theorem State.runRest_whole (s : State) (i : Nat) (r : Rest) (h0 : r.inside = []) (ht : (s.team i).retryAt = none)
    (hr : (unitLines r.out).length ≤ s.entriesFor (s.team i).core i)
    (ho : r.stores = true → ∀ u ∈ r.out, s.unitOwned (s.team i).core r u = true) :
    s.runRest i r =
      (let s1 := s.doUnits i { r with inside := r.out, out := [] } r.out
       let s2 := if s1.held.length = s.held.length then s1 else (s1.noteLogs s.held.length).noteHeld i
       let s3 := (s2.setTeam i { s2.team i with rest := none }).entered i
       if r.stores then s3.stored i r.moved else s3) := by
  unfold State.runRest
  dsimp only
  rw [ht]
  have hx := s.splitUnits_all (s.team i).core { r with inside := r.out, out := [] } ho
  simp only [Option.isSome_none, Bool.false_eq_true, if_false]
  rw [r.admit_all _ h0 hr, hx]
  rfl
/-! Marked destinations. -/

theorem Team.empty_markEmpty_mono (t : Team) (r x : Ref) (h : t.empty x = true) : (t.markEmpty r).empty x = true := by
  cases r <;> cases x <;> simp only [Team.markEmpty, Team.empty] at h ⊢
  all_goals first
    | exact h
    | (split <;> first | exact h | (simp only [SMap.get_put]; split <;> simp_all))
    | (rw [SMap.get_put]; split <;> simp_all)

theorem Team.empty_markEmpty_self (t : Team) (r : Ref) (hp : ∀ k, r ≠ .p 7 k) (hq : r ≠ .q 7) : (t.markEmpty r).empty r = true := by
  cases r with
  | v r l => simp [Team.markEmpty, Team.empty]
  | s r => simp [Team.markEmpty, Team.empty]
  | p n l =>
    have : n ≠ 7 := fun e => hp l (by rw [e])
    simp [Team.markEmpty, Team.empty, this]
  | q n =>
    have : n ≠ 7 := fun e => hq (by rw [e])
    simp [Team.markEmpty, Team.empty, this]

theorem Team.empty_markAll_mono (t : Team) (rs : List Ref) (x : Ref) (h : t.empty x = true) : (t.markAll rs).empty x = true := by
  induction rs generalizing t with
  | nil => exact h
  | cons r rs ih => exact ih _ (t.empty_markEmpty_mono r x h)

/-- Every register marked is empty, p7 and q7 apart. -/
theorem Team.empty_markAll (t : Team) (rs : List Ref) (r : Ref) (h : r ∈ rs) (hp : ∀ k, r ≠ .p 7 k) (hq : r ≠ .q 7) :
    (t.markAll rs).empty r = true := by
  induction rs generalizing t with
  | nil => cases h
  | cons x rs ih =>
    rcases List.mem_cons.1 h with e | e
    · subst e; exact Team.empty_markAll_mono _ rs r (t.empty_markEmpty_self r hp hq)
    · exact ih _ e

/-- The destinations of an instruction that marked them, past it, are awaited. -/
theorem Team.awaits_markAll (t : Team) (i : Ins) (ls : List Nat) : Awaits i ((t.markAll (ls.flatMap i.dstRefs)).advance i) ls := by
  intro l hl r hr hp hq
  exact t.empty_markAll _ r (List.mem_flatMap.2 ⟨l, hl, hr⟩) hp hq

@[simp] theorem Team.markEmpty_pc (t : Team) (r : Ref) : (t.markEmpty r).pc = t.pc := by cases r <;> simp only [Team.markEmpty] <;> split <;> rfl
@[simp] theorem Team.markAll_pc (t : Team) (rs : List Ref) : (t.markAll rs).pc = t.pc := by
  induction rs generalizing t with
  | nil => rfl
  | cons r rs ih => exact (ih (t.markEmpty r)).trans (t.markEmpty_pc r)

/-! What follows a store. -/

theorem State.noteHeld_spec (s : State) (i : Nat) : s.noteHeld i = s ∨ ∃ p, s.noteHeld i = s.setTeam i { s.team i with parkNext := p } := by
  unfold State.noteHeld
  dsimp only
  split
  · exact .inr ⟨_, rfl⟩
  · exact .inr ⟨_, rfl⟩
  · exact .inl rfl

theorem State.noteLogs_cached (s : State) (n : Nat) : s.Cached (s.noteLogs n) := by
  unfold State.noteLogs
  refine State.Cached.foldl _ (fun s h => ?_) _ s
  exact dlogRecord_cached s _

/-! Loads performed whole. -/

/-- The late reply of loads performed whole, of which `v` is what was read. -/
def Rest.reply (r : Rest) (i : Nat) (v : State × List (AUnit × List Byte × List Byte × Bool)) (e : Option (Nat × Nat)) (l : List (Nat × PendTrap)) : Reply :=
  { team := i, dsts := v.2.flatMap ({ r with inside := r.out, out := [] } : Rest).dsts, entry := e, completes := true, bytes := r.moved, set := if r.opc = 0x109 then 5 else 0,
    trap := r.ecc ((v.2.filter (fun x => x.2.2.2)).map (fun x => x.1)), link := l, ins := r.ins }
/-- A load whose lines all find entries binds its values at once: one late reply carries them, and the team goes on. Where no write is held by the
way, memory is as the reads leave it. -/
theorem State.runRest_loads (s : State) (i : Nat) (r : Rest) (h0 : r.inside = []) (ht : (s.team i).retryAt = none)
    (hr : (unitLines r.out).length ≤ s.entriesFor (s.team i).core i) (hns : r.stores = false) (hop : r.opc = 0x100 ∨ r.opc = 0x102 ∨ r.opc = 0x109) (hne : r.out ≠ []) :
    let v := s.readUnits (s.team i).core (16 * (s.team i).part + (s.team i).slot) r.n r.out
    ∃ e l, ((s.runRest i r).replies = v.1.replies ++ [r.reply i v e l])
      ∧ (v.1.held.length = s.held.length → (s.runRest i r).mem = v.1.mem) ∧ (s.runRest i r).cm = s.cm
      ∧ ∃ x, (s.runRest i r).team i = { s.team i with rest := none, parkNext := x, rejects := 0 } := by
  intro v
  rw [s.runRest_whole i r h0 ht hr (by rw [hns]; intro h; cases h)]
  dsimp only
  rw [hns, if_neg (by simp)]
  have hd : s.doUnits i { r with inside := r.out, out := [] } r.out = s.loadUnits i { r with inside := r.out, out := [] } r.out := by
    unfold State.doUnits
    rw [show r.out.isEmpty = false by cases hh : r.out <;> simp_all]
    rw [show ({ r with inside := r.out, out := [] } : Rest).stores = false from hns]
    rcases hop with h | h | h <;> simp [h]
  rw [hd]
  have hc : s.Cached v.1 := s.readUnits_cached _ _ _ _
  generalize hL : s.loadUnits i { r with inside := r.out, out := [] } r.out = L
  have hLe : ∃ e l, L = { v.1 with replies := v.1.replies ++ [r.reply i v e l] } := by
    subst hL; exact ⟨_, _, rfl⟩
  obtain ⟨e, l, hE⟩ := hLe
  have hteam : L.team i = s.team i := by rw [hE]; exact hc.team_eq i
  have hs2 : ∀ s2, s2 = (if L.held.length = s.held.length then L else (L.noteLogs s.held.length).noteHeld i) →
      (v.1.held.length = s.held.length → s2.mem = v.1.mem) ∧ s2.replies = L.replies ∧ s2.cm = s.cm ∧ ∃ x, s2.team i = { s.team i with parkNext := x } := by
    intro s2 h
    have hLcm : L.cm = s.cm := by rw [hE]; exact hc.cm
    have hA := L.noteLogs_cached s.held.length
    split at h
    · subst h
      exact ⟨fun _ => by rw [hE], rfl, hLcm, (s.team i).parkNext, by rw [hteam]⟩
    · next hne =>
      refine ⟨fun hh => absurd (by rw [hE]; exact hh) hne, ?_⟩
      rcases (L.noteLogs s.held.length).noteHeld_spec i with e1 | ⟨p, e1⟩ <;> rw [h, e1]
      · exact ⟨hA.replies, by rw [hA.cm, hLcm], (s.team i).parkNext, by rw [hA.team_eq, hteam]⟩
      · exact ⟨hA.replies, by show (L.noteLogs _).cm = _; rw [hA.cm, hLcm], p, by rw [State.team_setTeam_same, hA.team_eq, hteam]⟩
  generalize hg : (if L.held.length = s.held.length then L else (L.noteLogs s.held.length).noteHeld i) = s2
  obtain ⟨h1, h2, h3, x, h4⟩ := hs2 s2 hg.symm
  refine ⟨e, l, ?_, ?_, ?_, x, ?_⟩
  · rw [State.entered_replies]; show s2.replies = _; rw [h2, hE]
  · intro hh; rw [State.entered_mem]; exact h1 hh
  · rw [State.entered_cm]; exact h3
  · rw [State.entered_team, State.team_setTeam_same, h4]

end Sys2Proof.Machine
end

