-- ==== Sys2Proof/Laws/Kept.lean ====
section
/-!
SUPPORT. What every step keeps, as one predicate of a state: at least so many fuses are blown, and the memories are in canonical form. One
lemma per operation says that it keeps it.
-/
namespace Sys2Proof.Machine

set_option linter.unusedTactic false
set_option linter.unreachableTactic false
set_option linter.unusedSimpArgs false

/-- At least `n` fuses are blown, and every memory is in its canonical form. -/
def State.Ok (n : Nat) (s : State) : Prop :=
  n ≤ s.bel.fuses ∧ Memory.wf s.mem = true ∧ Memory.wf s.sysmem = true ∧ Memory.wf s.cm = true

/-- A next state is so. -/
def okOut (n : Nat) (o : Host.Outcome State Fault Refusal) : Prop :=
  match o with
  | .next t => t.Ok n
  | _ => True

theorem okOut_fault {n : Nat} (e : Fault) : okOut n (.fault e) := trivial
theorem okOut_next {n : Nat} {t : State} (h : t.Ok n) : okOut n (.next t) := h

/-- A property that one step of a fold keeps, the fold keeps. -/
theorem foldl_keeps {α β : Type} {P : β → Prop} (g : β → α → β) (hg : ∀ b a, P b → P (g b a)) (l : List α) (b : β) (h : P b) : P (l.foldl g b) := by
  induction l generalizing b with
  | nil => exact h
  | cons a r ih => exact ih _ (hg b a h)

theorem State.Ok.foldl {n : Nat} {α : Type} {g : State → α → State} {l : List α} {s : State} (h : s.Ok n)
    (hg : ∀ (s : State) (a : α), s.Ok n → (g s a).Ok n) : (l.foldl g s).Ok n := by
  induction l generalizing s with
  | nil => exact h
  | cons a r ih => exact ih (hg s a h)

theorem State.Ok.foldl_fst {n : Nat} {α β : Type} {g : State × β → α → State × β} {l : List α} {s : State × β} (h : s.1.Ok n)
    (hg : ∀ (s : State × β) (a : α), s.1.Ok n → (g s a).1.Ok n) : (l.foldl g s).1.Ok n := by
  induction l generalizing s with
  | nil => exact h
  | cons a r ih => exact ih (hg s a h)

theorem State.Ok.ite {n : Nat} {c : Prop} [Decidable c] {a b : State} (ha : a.Ok n) (hb : b.Ok n) : (if c then a else b).Ok n := by
  split
  · exact ha
  · exact hb

/-! Changing one field of a state. -/

theorem State.Ok.keep {n : Nat} {s : State} (h : s.Ok n)
    (clock_ : W64) (time_ : Nat) (cur_ : Nat) (picked_ : Bool) (agenda_ : List (Instr × Input)) (deferred_ : List (Instr × Input)) (inp_ : Input) (order_ : List Nat) (fresh_ : Nat) (teams_ : SMap Team) (blocks_ : SMap Block) (jobs_ : SMap Job) (orders_ : Nat) (cmBad_ : SMap Bool) (blk_ : SMap Blk) (regs_ : SMap W64) (tails_ : SMap Nat) (feLines_ : List (Nat × Bool × Nat)) (feFail_ : SMap Bool) (reports_ : List (Nat × List W64)) (faults_ : List FaultRec) (replies_ : List Reply) (reserved_ : List (Nat × Nat)) (rcache_ : SMap (List (Nat × Nat × Bool))) (batches_ : List Batch) (verdicts_ : List Verdict) (tables_ : SMap Table) (spireRot_ : SMap (Nat × Nat × Nat)) (copies_ : List CopyReq) (promise_ : SMap Nat) (queues_ : SMap Queue) (qreqs_ : List QReq) (deposits_ : List Deposit) (groups_ : SMap Group) (posts_ : List Post) (appends_ : List Append) (watches_ : SMap Watch) (arrays_ : SMap (List Nat)) (clusters_ : SMap Cluster) (fePrev_ : SMap Nat) (held_ : List Held) (atoms_ : List Atom) (atomTag_ : Nat) (falls_ : SMap Nat) (poolFree_ : SMap Nat) (rsvFree_ : SMap Nat) (rsvLow_ : SMap Bool) (rounds_ : SMap Round) (frames_ : SMap Frame) (tlb_ : SMap (Nat × Nat)) (who_ : Nat) (invs_ : List (Nat × W64 × W64)) (discards_ : List (Nat × W64)) (coh_ : Coh) (ports_ : SMap Port) (sess_ : SMap Sess) (peers_ : SMap Peer) (tdisp_ : SMap Nat) (doe_ : SMap (List W64)) :
    (State.mk clock_ time_ cur_ picked_ agenda_ deferred_ inp_ order_ fresh_ teams_ blocks_ jobs_ orders_ s.cm cmBad_ s.mem blk_ s.sysmem regs_ tails_ feLines_ feFail_ reports_ faults_ replies_ reserved_ rcache_ batches_ verdicts_ tables_ spireRot_ copies_ promise_ queues_ qreqs_ deposits_ groups_ posts_ appends_ watches_ arrays_ clusters_ fePrev_ held_ atoms_ atomTag_ falls_ poolFree_ rsvFree_ rsvLow_ rounds_ frames_ tlb_ who_ invs_ discards_ coh_ ports_ sess_ peers_ tdisp_ doe_ s.bel).Ok n := h

theorem State.Ok.bel {n : Nat} {s : State} {b : Belfry} (h : s.Ok n) (hb : n ≤ b.fuses)
    (clock_ : W64) (time_ : Nat) (cur_ : Nat) (picked_ : Bool) (agenda_ : List (Instr × Input)) (deferred_ : List (Instr × Input)) (inp_ : Input) (order_ : List Nat) (fresh_ : Nat) (teams_ : SMap Team) (blocks_ : SMap Block) (jobs_ : SMap Job) (orders_ : Nat) (cmBad_ : SMap Bool) (blk_ : SMap Blk) (regs_ : SMap W64) (tails_ : SMap Nat) (feLines_ : List (Nat × Bool × Nat)) (feFail_ : SMap Bool) (reports_ : List (Nat × List W64)) (faults_ : List FaultRec) (replies_ : List Reply) (reserved_ : List (Nat × Nat)) (rcache_ : SMap (List (Nat × Nat × Bool))) (batches_ : List Batch) (verdicts_ : List Verdict) (tables_ : SMap Table) (spireRot_ : SMap (Nat × Nat × Nat)) (copies_ : List CopyReq) (promise_ : SMap Nat) (queues_ : SMap Queue) (qreqs_ : List QReq) (deposits_ : List Deposit) (groups_ : SMap Group) (posts_ : List Post) (appends_ : List Append) (watches_ : SMap Watch) (arrays_ : SMap (List Nat)) (clusters_ : SMap Cluster) (fePrev_ : SMap Nat) (held_ : List Held) (atoms_ : List Atom) (atomTag_ : Nat) (falls_ : SMap Nat) (poolFree_ : SMap Nat) (rsvFree_ : SMap Nat) (rsvLow_ : SMap Bool) (rounds_ : SMap Round) (frames_ : SMap Frame) (tlb_ : SMap (Nat × Nat)) (who_ : Nat) (invs_ : List (Nat × W64 × W64)) (discards_ : List (Nat × W64)) (coh_ : Coh) (ports_ : SMap Port) (sess_ : SMap Sess) (peers_ : SMap Peer) (tdisp_ : SMap Nat) (doe_ : SMap (List W64)) :
    (State.mk clock_ time_ cur_ picked_ agenda_ deferred_ inp_ order_ fresh_ teams_ blocks_ jobs_ orders_ s.cm cmBad_ s.mem blk_ s.sysmem regs_ tails_ feLines_ feFail_ reports_ faults_ replies_ reserved_ rcache_ batches_ verdicts_ tables_ spireRot_ copies_ promise_ queues_ qreqs_ deposits_ groups_ posts_ appends_ watches_ arrays_ clusters_ fePrev_ held_ atoms_ atomTag_ falls_ poolFree_ rsvFree_ rsvLow_ rounds_ frames_ tlb_ who_ invs_ discards_ coh_ ports_ sess_ peers_ tdisp_ doe_ b).Ok n := ⟨hb, h.2⟩

theorem State.Ok.mem {n : Nat} {s : State} {m : List Host.Cell} (h : s.Ok n) (hm : Memory.wf m = true)
    (clock_ : W64) (time_ : Nat) (cur_ : Nat) (picked_ : Bool) (agenda_ : List (Instr × Input)) (deferred_ : List (Instr × Input)) (inp_ : Input) (order_ : List Nat) (fresh_ : Nat) (teams_ : SMap Team) (blocks_ : SMap Block) (jobs_ : SMap Job) (orders_ : Nat) (cmBad_ : SMap Bool) (blk_ : SMap Blk) (regs_ : SMap W64) (tails_ : SMap Nat) (feLines_ : List (Nat × Bool × Nat)) (feFail_ : SMap Bool) (reports_ : List (Nat × List W64)) (faults_ : List FaultRec) (replies_ : List Reply) (reserved_ : List (Nat × Nat)) (rcache_ : SMap (List (Nat × Nat × Bool))) (batches_ : List Batch) (verdicts_ : List Verdict) (tables_ : SMap Table) (spireRot_ : SMap (Nat × Nat × Nat)) (copies_ : List CopyReq) (promise_ : SMap Nat) (queues_ : SMap Queue) (qreqs_ : List QReq) (deposits_ : List Deposit) (groups_ : SMap Group) (posts_ : List Post) (appends_ : List Append) (watches_ : SMap Watch) (arrays_ : SMap (List Nat)) (clusters_ : SMap Cluster) (fePrev_ : SMap Nat) (held_ : List Held) (atoms_ : List Atom) (atomTag_ : Nat) (falls_ : SMap Nat) (poolFree_ : SMap Nat) (rsvFree_ : SMap Nat) (rsvLow_ : SMap Bool) (rounds_ : SMap Round) (frames_ : SMap Frame) (tlb_ : SMap (Nat × Nat)) (who_ : Nat) (invs_ : List (Nat × W64 × W64)) (discards_ : List (Nat × W64)) (coh_ : Coh) (ports_ : SMap Port) (sess_ : SMap Sess) (peers_ : SMap Peer) (tdisp_ : SMap Nat) (doe_ : SMap (List W64)) :
    (State.mk clock_ time_ cur_ picked_ agenda_ deferred_ inp_ order_ fresh_ teams_ blocks_ jobs_ orders_ s.cm cmBad_ m blk_ s.sysmem regs_ tails_ feLines_ feFail_ reports_ faults_ replies_ reserved_ rcache_ batches_ verdicts_ tables_ spireRot_ copies_ promise_ queues_ qreqs_ deposits_ groups_ posts_ appends_ watches_ arrays_ clusters_ fePrev_ held_ atoms_ atomTag_ falls_ poolFree_ rsvFree_ rsvLow_ rounds_ frames_ tlb_ who_ invs_ discards_ coh_ ports_ sess_ peers_ tdisp_ doe_ s.bel).Ok n := ⟨h.1, hm, h.2.2⟩

theorem State.Ok.sysmem {n : Nat} {s : State} {m : List Host.Cell} (h : s.Ok n) (hm : Memory.wf m = true)
    (clock_ : W64) (time_ : Nat) (cur_ : Nat) (picked_ : Bool) (agenda_ : List (Instr × Input)) (deferred_ : List (Instr × Input)) (inp_ : Input) (order_ : List Nat) (fresh_ : Nat) (teams_ : SMap Team) (blocks_ : SMap Block) (jobs_ : SMap Job) (orders_ : Nat) (cmBad_ : SMap Bool) (blk_ : SMap Blk) (regs_ : SMap W64) (tails_ : SMap Nat) (feLines_ : List (Nat × Bool × Nat)) (feFail_ : SMap Bool) (reports_ : List (Nat × List W64)) (faults_ : List FaultRec) (replies_ : List Reply) (reserved_ : List (Nat × Nat)) (rcache_ : SMap (List (Nat × Nat × Bool))) (batches_ : List Batch) (verdicts_ : List Verdict) (tables_ : SMap Table) (spireRot_ : SMap (Nat × Nat × Nat)) (copies_ : List CopyReq) (promise_ : SMap Nat) (queues_ : SMap Queue) (qreqs_ : List QReq) (deposits_ : List Deposit) (groups_ : SMap Group) (posts_ : List Post) (appends_ : List Append) (watches_ : SMap Watch) (arrays_ : SMap (List Nat)) (clusters_ : SMap Cluster) (fePrev_ : SMap Nat) (held_ : List Held) (atoms_ : List Atom) (atomTag_ : Nat) (falls_ : SMap Nat) (poolFree_ : SMap Nat) (rsvFree_ : SMap Nat) (rsvLow_ : SMap Bool) (rounds_ : SMap Round) (frames_ : SMap Frame) (tlb_ : SMap (Nat × Nat)) (who_ : Nat) (invs_ : List (Nat × W64 × W64)) (discards_ : List (Nat × W64)) (coh_ : Coh) (ports_ : SMap Port) (sess_ : SMap Sess) (peers_ : SMap Peer) (tdisp_ : SMap Nat) (doe_ : SMap (List W64)) :
    (State.mk clock_ time_ cur_ picked_ agenda_ deferred_ inp_ order_ fresh_ teams_ blocks_ jobs_ orders_ s.cm cmBad_ s.mem blk_ m regs_ tails_ feLines_ feFail_ reports_ faults_ replies_ reserved_ rcache_ batches_ verdicts_ tables_ spireRot_ copies_ promise_ queues_ qreqs_ deposits_ groups_ posts_ appends_ watches_ arrays_ clusters_ fePrev_ held_ atoms_ atomTag_ falls_ poolFree_ rsvFree_ rsvLow_ rounds_ frames_ tlb_ who_ invs_ discards_ coh_ ports_ sess_ peers_ tdisp_ doe_ s.bel).Ok n := ⟨h.1, h.2.1, hm, h.2.2.2⟩

theorem State.Ok.cm {n : Nat} {s : State} {m : List Host.Cell} (h : s.Ok n) (hm : Memory.wf m = true)
    (clock_ : W64) (time_ : Nat) (cur_ : Nat) (picked_ : Bool) (agenda_ : List (Instr × Input)) (deferred_ : List (Instr × Input)) (inp_ : Input) (order_ : List Nat) (fresh_ : Nat) (teams_ : SMap Team) (blocks_ : SMap Block) (jobs_ : SMap Job) (orders_ : Nat) (cmBad_ : SMap Bool) (blk_ : SMap Blk) (regs_ : SMap W64) (tails_ : SMap Nat) (feLines_ : List (Nat × Bool × Nat)) (feFail_ : SMap Bool) (reports_ : List (Nat × List W64)) (faults_ : List FaultRec) (replies_ : List Reply) (reserved_ : List (Nat × Nat)) (rcache_ : SMap (List (Nat × Nat × Bool))) (batches_ : List Batch) (verdicts_ : List Verdict) (tables_ : SMap Table) (spireRot_ : SMap (Nat × Nat × Nat)) (copies_ : List CopyReq) (promise_ : SMap Nat) (queues_ : SMap Queue) (qreqs_ : List QReq) (deposits_ : List Deposit) (groups_ : SMap Group) (posts_ : List Post) (appends_ : List Append) (watches_ : SMap Watch) (arrays_ : SMap (List Nat)) (clusters_ : SMap Cluster) (fePrev_ : SMap Nat) (held_ : List Held) (atoms_ : List Atom) (atomTag_ : Nat) (falls_ : SMap Nat) (poolFree_ : SMap Nat) (rsvFree_ : SMap Nat) (rsvLow_ : SMap Bool) (rounds_ : SMap Round) (frames_ : SMap Frame) (tlb_ : SMap (Nat × Nat)) (who_ : Nat) (invs_ : List (Nat × W64 × W64)) (discards_ : List (Nat × W64)) (coh_ : Coh) (ports_ : SMap Port) (sess_ : SMap Sess) (peers_ : SMap Peer) (tdisp_ : SMap Nat) (doe_ : SMap (List W64)) :
    (State.mk clock_ time_ cur_ picked_ agenda_ deferred_ inp_ order_ fresh_ teams_ blocks_ jobs_ orders_ m cmBad_ s.mem blk_ s.sysmem regs_ tails_ feLines_ feFail_ reports_ faults_ replies_ reserved_ rcache_ batches_ verdicts_ tables_ spireRot_ copies_ promise_ queues_ qreqs_ deposits_ groups_ posts_ appends_ watches_ arrays_ clusters_ fePrev_ held_ atoms_ atomTag_ falls_ poolFree_ rsvFree_ rsvLow_ rounds_ frames_ tlb_ who_ invs_ discards_ coh_ ports_ sess_ peers_ tdisp_ doe_ s.bel).Ok n := ⟨h.1, h.2.1, h.2.2.1, hm⟩

theorem State.Ok.fuses {n : Nat} {s : State} (h : s.Ok n) : n ≤ s.bel.fuses := h.1
theorem State.Ok.wfMem {n : Nat} {s : State} (h : s.Ok n) : Memory.wf s.mem = true := h.2.1
theorem State.Ok.wfSys {n : Nat} {s : State} (h : s.Ok n) : Memory.wf s.sysmem = true := h.2.2.1
theorem State.Ok.wfCore {n : Nat} {s : State} (h : s.Ok n) : Memory.wf s.cm = true := h.2.2.2

end Sys2Proof.Machine
end

