-- ==== Sys2Proof/Laws/KeptCores.lean ====
section
/-!
SUPPORT. Every operation of the register, lane and control instructions of a core, and the operations they share keeps the blown fuses and the canonical form of the memories.
-/
namespace Sys2Proof.Machine

set_option linter.unusedTactic false
set_option linter.unreachableTactic false
set_option linter.unusedSimpArgs false

/-! Registers. -/

theorem State.setReg_ok {fl0 : Nat} (s : State) (f off : Nat) (v : W64) (h_s : s.Ok fl0) : (State.setReg s f off v).Ok fl0 := by
  unfold State.setReg
  try dsimp only
  repeat' first
    | with_reducible assumption
    | dsimp only
    | with_reducible apply State.Ok.keep

theorem State.addReg_ok {fl0 : Nat} (s : State) (f off : Nat) (v : W64) (h_s : s.Ok fl0) : (State.addReg s f off v).Ok fl0 := by
  unfold State.addReg
  try dsimp only
  repeat' first
    | with_reducible assumption
    | with_reducible apply State.setReg_ok
    | dsimp only

theorem State.tick_ok {fl0 : Nat} (s : State) (h_s : s.Ok fl0) : (State.tick s).Ok fl0 := by
  unfold State.tick
  try dsimp only
  repeat' first
    | with_reducible assumption
    | with_reducible apply State.Ok.fuses
    | intro _
    | split
    | dsimp only
    | with_reducible apply State.Ok.bel

/-! Fabric. -/

theorem State.setTeam_ok {fl0 : Nat} (s : State) (i : Nat) (t : Team) (h_s : s.Ok fl0) : (State.setTeam s i t).Ok fl0 := by
  unfold State.setTeam
  try dsimp only
  repeat' first
    | with_reducible assumption
    | dsimp only
    | with_reducible apply State.Ok.keep

theorem State.setBlock_ok {fl0 : Nat} (s : State) (i : Nat) (b : Block) (h_s : s.Ok fl0) : (State.setBlock s i b).Ok fl0 := by
  unfold State.setBlock
  try dsimp only
  repeat' first
    | with_reducible assumption
    | dsimp only
    | with_reducible apply State.Ok.keep

theorem State.setJob_ok {fl0 : Nat} (s : State) (i : Nat) (j : Job) (h_s : s.Ok fl0) : (State.setJob s i j).Ok fl0 := by
  unfold State.setJob
  try dsimp only
  repeat' first
    | with_reducible assumption
    | dsimp only
    | with_reducible apply State.Ok.keep

theorem State.useFresh_ok {fl0 : Nat} (s : State) (h_s : s.Ok fl0) : (State.useFresh s).Ok fl0 := by
  unfold State.useFresh
  try dsimp only
  repeat' first
    | with_reducible assumption
    | dsimp only
    | with_reducible apply State.Ok.keep

theorem State.logErr_ok {fl0 : Nat} (s : State) (kind die vf : Nat) (w2 w3 : Option W64) (detail : List W64) (h_s : s.Ok fl0) : (State.logErr s kind die vf w2 w3 detail).Ok fl0 := by
  unfold State.logErr
  try dsimp only
  repeat' first
    | with_reducible assumption
    | with_reducible apply State.Ok.fuses
    | intro _
    | dsimp only
    | with_reducible apply State.Ok.bel

theorem State.addUsed_ok {fl0 : Nat} (s : State) (da : Nat) (up : Bool) (h_s : s.Ok fl0) : (State.addUsed s da up).Ok fl0 := by
  unfold State.addUsed
  try dsimp only
  repeat' first
    | with_reducible assumption
    | with_reducible apply State.addReg_ok
    | intro _
    | split
    | dsimp only
    | with_reducible apply State.Ok.keep

theorem State.setRsv_ok {fl0 : Nat} (s : State) (d n : Nat) (h_s : s.Ok fl0) : (State.setRsv s d n).Ok fl0 := by
  unfold State.setRsv
  try dsimp only
  repeat' first
    | with_reducible assumption
    | split
    | dsimp only
    | with_reducible apply State.Ok.keep

theorem State.askRound_ok {fl0 : Nat} (s : State) (d : Nat) (h_s : s.Ok fl0) : (State.askRound s d).Ok fl0 := by
  unfold State.askRound
  try dsimp only
  repeat' first
    | with_reducible assumption
    | dsimp only
    | with_reducible apply State.Ok.keep

theorem State.freeStorage_ok {fl0 : Nat} (s : State) (d : Nat) (h_s : s.Ok fl0) : (State.freeStorage s d).Ok fl0 := by
  unfold State.freeStorage
  try dsimp only
  repeat' first
    | with_reducible assumption
    | with_reducible apply State.setRsv_ok
    | split
    | dsimp only
    | with_reducible apply State.Ok.keep

theorem State.takeStorage_ok {fl0 : Nat} (s : State) (d : Nat) (h_s : s.Ok fl0) : (State.takeStorage s d).Ok fl0 := by
  unfold State.takeStorage
  try dsimp only
  repeat' first
    | with_reducible assumption
    | with_reducible apply State.setRsv_ok
    | split
    | dsimp only
    | with_reducible apply State.Ok.keep

theorem State.touchFrame_ok {fl0 : Nat} (s : State) (da : Nat) (h_s : s.Ok fl0) : (State.touchFrame s da).Ok fl0 := by
  unfold State.touchFrame
  try dsimp only
  repeat' first
    | with_reducible assumption
    | dsimp only
    | with_reducible apply State.Ok.keep

theorem State.writeDev_ok {fl0 : Nat} (s : State) (da : Nat) (bs : List Byte) (h_s : s.Ok fl0) : (State.writeDev s da bs).Ok fl0 := by
  unfold State.writeDev
  try dsimp only
  repeat' first
    | with_reducible assumption
    | with_reducible apply wf_writeMem
    | with_reducible apply State.Ok.wfMem
    | with_reducible apply State.Ok.wfSys
    | with_reducible apply State.Ok.wfCore
    | intro _
    | split
    | dsimp only
    | with_reducible apply State.Ok.keep
    | with_reducible apply State.Ok.mem
    | with_reducible apply State.Ok.sysmem

theorem State.blockPut_ok {fl0 : Nat} (s : State) (da : Nat) (bs : List Byte) (cmp : Bool) (h_s : s.Ok fl0) : (State.blockPut s da bs cmp).Ok fl0 := by
  unfold State.blockPut
  try dsimp only
  repeat' first
    | with_reducible assumption
    | with_reducible apply State.writeDev_ok
    | with_reducible apply State.takeStorage_ok
    | with_reducible apply State.freeStorage_ok
    | with_reducible apply State.addUsed_ok
    | with_reducible apply State.useFresh_ok
    | with_reducible apply wf_writeMem
    | with_reducible apply State.Ok.wfMem
    | with_reducible apply State.Ok.wfSys
    | with_reducible apply State.Ok.wfCore
    | intro _
    | split
    | dsimp only
    | with_reducible apply State.Ok.keep
    | with_reducible apply State.Ok.mem

theorem State.rawPut_ok {fl0 : Nat} (s : State) (da : Nat) (bs : List Byte) (h_s : s.Ok fl0) : (State.rawPut s da bs).Ok fl0 := by
  unfold State.rawPut
  try dsimp only
  repeat' first
    | with_reducible assumption
    | with_reducible apply State.blockPut_ok
    | with_reducible apply State.touchFrame_ok
    | with_reducible apply State.Ok.foldl
    | with_reducible apply State.Ok.foldl_fst
    | intro _
    | split
    | dsimp only

theorem State.dlAppend_ok {fl0 : Nat} (s0 : State) (f da : Nat) (h_s0 : s0.Ok fl0) : (State.dlAppend s0 f da).Ok fl0 := by
  unfold State.dlAppend
  try dsimp only
  repeat' first
    | with_reducible assumption
    | with_reducible apply State.rawPut_ok
    | with_reducible apply State.touchFrame_ok
    | with_reducible apply State.addReg_ok
    | split
    | dsimp only

theorem State.loseLines_ok {fl0 : Nat} (s : State) (sys : Bool) (a n : Nat) (h_s : s.Ok fl0) : (State.loseLines s sys a n).Ok fl0 := by
  unfold State.loseLines
  try dsimp only
  repeat' first
    | with_reducible assumption
    | intro _
    | dsimp only
    | with_reducible apply State.Ok.keep

theorem State.putPart_ok {fl0 : Nat} (s0 : State) (f : Nat) (p : Part) (h_s0 : s0.Ok fl0) : (State.putPart s0 f p).Ok fl0 := by
  unfold State.putPart
  try dsimp only
  repeat' first
    | with_reducible assumption
    | with_reducible apply State.loseLines_ok
    | with_reducible apply State.dlAppend_ok
    | with_reducible apply State.blockPut_ok
    | with_reducible apply wf_writeMem
    | with_reducible apply State.Ok.wfMem
    | with_reducible apply State.Ok.wfSys
    | with_reducible apply State.Ok.wfCore
    | split
    | dsimp only
    | with_reducible apply State.Ok.keep
    | with_reducible apply State.Ok.sysmem

theorem State.putParts_ok {fl0 : Nat} (s : State) (f : Nat) (ps : List Part) (h_s : s.Ok fl0) : (State.putParts s f ps).Ok fl0 := by
  unfold State.putParts
  try dsimp only
  repeat' first
    | with_reducible assumption
    | with_reducible apply State.putPart_ok
    | with_reducible apply State.Ok.foldl
    | with_reducible apply State.Ok.foldl_fst
    | intro _
    | dsimp only

theorem State.clearLate_ok {fl0 : Nat} (s : State) (lo hi : Nat) (h_s : s.Ok fl0) : (State.clearLate s lo hi).Ok fl0 := by
  unfold State.clearLate
  try dsimp only
  repeat' first
    | with_reducible assumption
    | intro _
    | dsimp only
    | with_reducible apply State.Ok.keep

theorem State.latePart_ok {fl0 : Nat} (s0 : State) (f : Nat) (p : Part) (h_s0 : s0.Ok fl0) : (State.latePart s0 f p).Ok fl0 := by
  unfold State.latePart
  try dsimp only
  repeat' first
    | with_reducible assumption
    | with_reducible apply State.loseLines_ok
    | with_reducible apply State.dlAppend_ok
    | with_reducible apply State.writeDev_ok
    | with_reducible apply State.Ok.foldl
    | with_reducible apply State.Ok.foldl_fst
    | with_reducible apply wf_writeMem
    | with_reducible apply State.Ok.wfMem
    | with_reducible apply State.Ok.wfSys
    | with_reducible apply State.Ok.wfCore
    | intro _
    | split
    | dsimp only
    | with_reducible apply State.Ok.keep
    | with_reducible apply State.Ok.sysmem

theorem State.lateParts_ok {fl0 : Nat} (s : State) (f : Nat) (ps : List Part) (h_s : s.Ok fl0) : (State.lateParts s f ps).Ok fl0 := by
  unfold State.lateParts
  try dsimp only
  repeat' first
    | with_reducible assumption
    | with_reducible apply State.latePart_ok
    | with_reducible apply State.Ok.foldl
    | with_reducible apply State.Ok.foldl_fst
    | intro _
    | dsimp only

theorem State.holdWrite_ok {fl0 : Nat} (s : State) (f : Nat) (ps : List Part) (w : Writer) (log : Bool) (va : Nat) (op : HeldOp) (h_s : s.Ok fl0) : (State.holdWrite s f ps w log va op).Ok fl0 := by
  unfold State.holdWrite
  try dsimp only
  repeat' first
    | with_reducible assumption
    | dsimp only
    | with_reducible apply State.Ok.keep

theorem State.storeWith_ok {fl0 : Nat} (s : State) (f : Nat) (ps : List Part) (ctx : Bool) (w : Writer) (va : Nat) (op : HeldOp) (put : State → State) (h_s : s.Ok fl0) (h_put : ∀ u : State, u.Ok fl0 → (put u).Ok fl0) : (State.storeWith s f ps ctx w va op put).1.Ok fl0 := by
  unfold State.storeWith
  try dsimp only
  repeat' first
    | with_reducible assumption
    | with_reducible apply h_put
    | with_reducible apply State.holdWrite_ok
    | with_reducible apply State.touchFrame_ok
    | with_reducible apply State.askRound_ok
    | with_reducible apply State.Ok.foldl
    | with_reducible apply State.Ok.foldl_fst
    | intro _
    | split
    | dsimp only

theorem State.storeParts_ok {fl0 : Nat} (s : State) (f : Nat) (ps : List Part) (ctx : Bool) (w : Writer) (va : Nat) (op : HeldOp) (h_s : s.Ok fl0) : (State.storeParts s f ps ctx w va op).1.Ok fl0 := by
  unfold State.storeParts
  try dsimp only
  repeat' first
    | with_reducible assumption
    | with_reducible apply State.storeWith_ok
    | with_reducible apply State.putParts_ok
    | intro _
    | dsimp only

theorem State.storeDirty_ok {fl0 : Nat} (s : State) (f : Nat) (ps : List Part) (w : Writer) (va : Nat) (op : HeldOp) (h_s : s.Ok fl0) : (State.storeDirty s f ps w va op).1.Ok fl0 := by
  unfold State.storeDirty
  try dsimp only
  repeat' first
    | with_reducible assumption
    | with_reducible apply State.storeWith_ok
    | with_reducible apply State.lateParts_ok
    | intro _
    | dsimp only

theorem State.storeBlock_ok {fl0 : Nat} (s : State) (f da : Nat) (bs : List Byte) (cmp ctx : Bool) (w : Writer) (va : Nat) (h_s : s.Ok fl0) : (State.storeBlock s f da bs cmp ctx w va).1.Ok fl0 := by
  unfold State.storeBlock
  try dsimp only
  repeat' first
    | with_reducible assumption
    | with_reducible apply State.storeParts_ok
    | dsimp only

theorem State.askLog_ok {fl0 : Nat} (s : State) (f : Nat) (h_s : s.Ok fl0) : (State.askLog s f).Ok fl0 := by
  unfold State.askLog
  try dsimp only
  repeat' first
    | with_reducible assumption
    | dsimp only
    | with_reducible apply State.Ok.keep

theorem State.setAccessed_ok {fl0 : Nat} (s : State) (f ea e : Nat) (h_s : s.Ok fl0) : (State.setAccessed s f ea e).Ok fl0 := by
  unfold State.setAccessed
  try dsimp only
  repeat' first
    | with_reducible assumption
    | with_reducible apply State.askLog_ok
    | with_reducible apply State.storeParts_ok
    | intro _
    | split
    | dsimp only

theorem State.as_ok {fl0 : Nat} (s : State) (a : Nat) (k : State → State) (h_s : s.Ok fl0) (h_k : ∀ u : State, u.Ok fl0 → (k u).Ok fl0) : (State.as s a k).Ok fl0 := by
  unfold State.as
  try dsimp only
  repeat' first
    | with_reducible assumption
    | with_reducible apply h_k
    | dsimp only
    | with_reducible apply State.Ok.keep

theorem State.leafFor_ok {fl0 : Nat} (s : State) (f va : Nat) (h_s : s.Ok fl0) : (State.leafFor s f va).1.Ok fl0 := by
  unfold State.leafFor
  try dsimp only
  repeat' first
    | with_reducible assumption
    | with_reducible apply State.useFresh_ok
    | intro _
    | split
    | dsimp only
    | with_reducible apply State.Ok.keep

theorem State.cacheLeaf_ok {fl0 : Nat} (s : State) (f va : Nat) (x : Nat × Nat) (h_s : s.Ok fl0) : (State.cacheLeaf s f va x).Ok fl0 := by
  unfold State.cacheLeaf
  try dsimp only
  repeat' first
    | with_reducible assumption
    | split
    | dsimp only
    | with_reducible apply State.Ok.keep

theorem State.useLeaf_ok {fl0 : Nat} (s : State) (f va ea e lvl : Nat) (fill : Bool) (da : Option Nat) (h_s : s.Ok fl0) : (State.useLeaf s f va ea e lvl fill da).Ok fl0 := by
  unfold State.useLeaf
  try dsimp only
  repeat' first
    | with_reducible assumption
    | with_reducible apply State.cacheLeaf_ok
    | with_reducible apply State.setAccessed_ok
    | with_reducible apply State.touchFrame_ok
    | intro _
    | split
    | dsimp only
    | with_reducible apply State.Ok.keep

theorem State.walk_ok {fl0 : Nat} (s : State) (f va : Nat) (rd wr : Bool) (h_s : s.Ok fl0) : (State.walk s f va rd wr).1.Ok fl0 := by
  unfold State.walk
  try dsimp only
  repeat' first
    | with_reducible assumption
    | with_reducible apply State.useLeaf_ok
    | with_reducible apply State.leafFor_ok
    | with_reducible apply State.touchFrame_ok
    | with_reducible apply State.Ok.foldl
    | with_reducible apply State.Ok.foldl_fst
    | intro _
    | split
    | dsimp only
    | with_reducible apply State.Ok.keep

theorem State.storeTr_ok {fl0 : Nat} (s : State) (t : Tr) (bs : List Byte) (ctx : Bool) (w : Writer) (va : Nat) (h_s : s.Ok fl0) : (State.storeTr s t bs ctx w va).1.Ok fl0 := by
  unfold State.storeTr
  try dsimp only
  repeat' first
    | with_reducible assumption
    | with_reducible apply State.storeParts_ok
    | dsimp only

theorem State.vread_ok {fl0 : Nat} (s : State) (f va n : Nat) (h_s : s.Ok fl0) : (State.vread s f va n).1.Ok fl0 := by
  unfold State.vread
  try dsimp only
  repeat' first
    | with_reducible assumption
    | with_reducible apply State.walk_ok
    | with_reducible apply State.Ok.foldl
    | with_reducible apply State.Ok.foldl_fst
    | intro _
    | split
    | dsimp only
    | with_reducible apply State.Ok.keep

theorem State.partsAt_ok {fl0 : Nat} (s : State) (f va : Nat) (bs : List Byte) (h_s : s.Ok fl0) : (State.partsAt s f va bs).1.Ok fl0 := by
  unfold State.partsAt
  try dsimp only
  repeat' first
    | with_reducible assumption
    | with_reducible apply State.walk_ok
    | with_reducible apply State.Ok.foldl
    | with_reducible apply State.Ok.foldl_fst
    | intro _
    | split
    | dsimp only
    | with_reducible apply State.Ok.keep

theorem State.wbBlock_ok {fl0 : Nat} (s : State) (a n : Nat) (h_s : s.Ok fl0) : (State.wbBlock s a n).Ok fl0 := by
  unfold State.wbBlock
  try dsimp only
  repeat' first
    | with_reducible assumption
    | with_reducible apply State.askLog_ok
    | with_reducible apply State.storeParts_ok
    | with_reducible apply State.clearLate_ok
    | intro _
    | split
    | dsimp only
    | with_reducible apply State.Ok.keep

theorem State.writeBack_ok {fl0 : Nat} (s : State) (a n : Nat) (h_s : s.Ok fl0) : (State.writeBack s a n).Ok fl0 := by
  unfold State.writeBack
  try dsimp only
  repeat' first
    | with_reducible assumption
    | with_reducible apply State.wbBlock_ok
    | with_reducible apply State.Ok.foldl
    | with_reducible apply State.Ok.foldl_fst
    | intro _
    | split
    | dsimp only

theorem State.dropLinesIn_ok {fl0 : Nat} (s0 : State) (lo hi : Nat) (h_s0 : s0.Ok fl0) : (State.dropLinesIn s0 lo hi).Ok fl0 := by
  unfold State.dropLinesIn
  try dsimp only
  repeat' first
    | with_reducible assumption
    | with_reducible apply State.writeBack_ok
    | with_reducible apply State.Ok.foldl
    | with_reducible apply State.Ok.foldl_fst
    | intro _
    | dsimp only
    | with_reducible apply State.Ok.keep

theorem State.dropParts_ok {fl0 : Nat} (s : State) (ps : List Part) (h_s : s.Ok fl0) : (State.dropParts s ps).Ok fl0 := by
  unfold State.dropParts
  try dsimp only
  repeat' first
    | with_reducible assumption
    | with_reducible apply State.dropLinesIn_ok
    | with_reducible apply State.Ok.foldl
    | with_reducible apply State.Ok.foldl_fst
    | intro _
    | dsimp only

theorem State.tryPut_ok {fl0 : Nat} (s : State) (f va : Nat) (bs : List Byte) (h_s : s.Ok fl0) : (State.tryPut s f va bs).1.Ok fl0 := by
  unfold State.tryPut
  try dsimp only
  repeat' first
    | with_reducible assumption
    | with_reducible apply State.dropParts_ok
    | with_reducible apply State.partsAt_ok
    | with_reducible apply State.putParts_ok
    | with_reducible apply State.askRound_ok
    | with_reducible apply State.Ok.foldl
    | with_reducible apply State.Ok.foldl_fst
    | intro _
    | split
    | dsimp only
    | with_reducible apply State.Ok.keep

theorem State.vput_ok {fl0 : Nat} (s : State) (f va : Nat) (bs : List Byte) (h_s : s.Ok fl0) : (State.vput s f va bs).Ok fl0 := by
  unfold State.vput
  try dsimp only
  repeat' first
    | with_reducible assumption
    | with_reducible apply State.partsAt_ok
    | with_reducible apply State.storeParts_ok
    | intro _
    | split
    | dsimp only
    | with_reducible apply State.Ok.keep

theorem State.drainFaults_ok {fl0 : Nat} (fuel : Nat) (s : State) (f : Nat) (h_s : s.Ok fl0) : (State.drainFaults fuel s f).Ok fl0 := by
  induction fuel generalizing s f with
  | zero =>
    unfold State.drainFaults
    try dsimp only
    repeat' first
      | with_reducible assumption
      | with_reducible apply State.tryPut_ok
      | with_reducible apply State.addReg_ok
      | intro _
      | split
      | dsimp only
      | with_reducible apply State.Ok.keep
  | succ m ih =>
    unfold State.drainFaults
    try dsimp only
    repeat' first
      | with_reducible assumption
      | with_reducible apply ih
      | with_reducible apply State.tryPut_ok
      | with_reducible apply State.addReg_ok
      | intro _
      | split
      | dsimp only
      | with_reducible apply State.Ok.keep

theorem State.addFault_ok {fl0 : Nat} (s : State) (r : FaultRec) (h_s : s.Ok fl0) : (State.addFault s r).Ok fl0 := by
  unfold State.addFault
  try dsimp only
  repeat' first
    | with_reducible assumption
    | with_reducible apply State.drainFaults_ok
    | dsimp only
    | with_reducible apply State.Ok.keep

theorem State.dlogRecord_ok {fl0 : Nat} (s : State) (f : Nat) (h_s : s.Ok fl0) : (State.dlogRecord s f).Ok fl0 := by
  unfold State.dlogRecord
  try dsimp only
  repeat' first
    | with_reducible assumption
    | with_reducible apply State.addFault_ok
    | split
    | dsimp only

theorem State.drainReports_ok {fl0 : Nat} (fuel : Nat) (s : State) (f : Nat) (h_s : s.Ok fl0) : (State.drainReports fuel s f).Ok fl0 := by
  induction fuel generalizing s f with
  | zero =>
    unfold State.drainReports
    try dsimp only
    repeat' first
      | with_reducible assumption
      | with_reducible apply State.tryPut_ok
      | with_reducible apply State.addReg_ok
      | intro _
      | split
      | dsimp only
      | with_reducible apply State.Ok.keep
  | succ m ih =>
    unfold State.drainReports
    try dsimp only
    repeat' first
      | with_reducible assumption
      | with_reducible apply ih
      | with_reducible apply State.tryPut_ok
      | with_reducible apply State.addReg_ok
      | intro _
      | split
      | dsimp only
      | with_reducible apply State.Ok.keep

theorem State.report_ok {fl0 : Nat} (s : State) (f kind level status : Nat) (tag : W64) (num : Nat) (ctx : W64) (h_s : s.Ok fl0) : (State.report s f kind level status tag num ctx).Ok fl0 := by
  unfold State.report
  try dsimp only
  repeat' first
    | with_reducible assumption
    | with_reducible apply State.drainReports_ok
    | dsimp only
    | with_reducible apply State.Ok.keep

/-! Image. -/

theorem State.imagePut_ok {fl0 : Nat} (s : State) (f va : Nat) (bs : List Byte) (h_s : s.Ok fl0) : (State.imagePut s f va bs).1.Ok fl0 := by
  unfold State.imagePut
  try dsimp only
  repeat' first
    | with_reducible assumption
    | with_reducible apply State.partsAt_ok
    | with_reducible apply State.storeParts_ok
    | intro _
    | split
    | dsimp only
    | with_reducible apply State.Ok.keep

theorem State.ctxPut_ok {fl0 : Nat} (s : State) (i off : Nat) (bs : List Byte) (h_s : s.Ok fl0) : (State.ctxPut s i off bs).1.Ok fl0 := by
  unfold State.ctxPut
  try dsimp only
  repeat' first
    | with_reducible assumption
    | with_reducible apply State.imagePut_ok
    | with_reducible apply State.storeParts_ok
    | intro _
    | split
    | dsimp only
    | with_reducible apply State.Ok.keep

theorem State.writeControl_ok {fl0 : Nat} (s : State) (i : Nat) (h_s : s.Ok fl0) : (State.writeControl s i).Ok fl0 := by
  unfold State.writeControl
  try dsimp only
  repeat' first
    | with_reducible assumption
    | with_reducible apply State.ctxPut_ok
    | with_reducible apply State.setTeam_ok
    | dsimp only
    | with_reducible apply State.Ok.keep

theorem State.noteTeam_ok {fl0 : Nat} (s : State) (i : Nat) (t0 : Team) (h_s : s.Ok fl0) : (State.noteTeam s i t0).Ok fl0 := by
  unfold State.noteTeam
  try dsimp only
  repeat' first
    | with_reducible assumption
    | with_reducible apply State.ctxPut_ok
    | with_reducible apply State.setTeam_ok
    | with_reducible apply State.Ok.foldl
    | with_reducible apply State.Ok.foldl_fst
    | intro _
    | split
    | dsimp only
    | with_reducible apply State.Ok.keep

theorem State.noteHalted_ok {fl0 : Nat} (s : State) (i : Nat) (h_s : s.Ok fl0) : (State.noteHalted s i).Ok fl0 := by
  unfold State.noteHalted
  try dsimp only
  repeat' first
    | with_reducible assumption
    | with_reducible apply State.ctxPut_ok
    | with_reducible apply State.setTeam_ok
    | split
    | dsimp only
    | with_reducible apply State.Ok.keep

/-! Ops. -/

theorem State.setLt_ok {fl0 : Nat} (s : State) (core : Nat) (x : W64) (h_s : s.Ok fl0) : (State.setLt s core x).Ok fl0 := by
  unfold State.setLt
  try dsimp only
  repeat' first
    | with_reducible assumption
    | dsimp only
    | with_reducible apply State.Ok.keep

theorem State.syncLt_ok {fl0 : Nat} (s : State) (core : Nat) (h_s : s.Ok fl0) : (State.syncLt s core).Ok fl0 := by
  unfold State.syncLt
  try dsimp only
  repeat' first
    | with_reducible assumption
    | with_reducible apply State.setLt_ok
    | with_reducible apply State.Ok.foldl
    | with_reducible apply State.Ok.foldl_fst
    | intro _
    | dsimp only

theorem State.account_ok {fl0 : Nat} (s : State) (i : Nat) (instr ksteps bytes : Nat) (h_s : s.Ok fl0) : (State.account s i instr ksteps bytes).Ok fl0 := by
  unfold State.account
  try dsimp only
  repeat' first
    | with_reducible assumption
    | with_reducible apply State.setTeam_ok
    | split
    | dsimp only
    | with_reducible apply State.Ok.keep

theorem State.finish_ok {fl0 : Nat} (s : State) (i : Ins) (t : Team) (h_s : s.Ok fl0) : (State.finish s i t).Ok fl0 := by
  unfold State.finish
  try dsimp only
  repeat' first
    | with_reducible assumption
    | with_reducible apply State.account_ok
    | with_reducible apply State.setTeam_ok
    | dsimp only

theorem State.finishBytes_ok {fl0 : Nat} (s : State) (i : Ins) (t : Team) (bytes : Nat) (h_s : s.Ok fl0) : (State.finishBytes s i t bytes).Ok fl0 := by
  unfold State.finishBytes
  try dsimp only
  repeat' first
    | with_reducible assumption
    | with_reducible apply State.account_ok
    | with_reducible apply State.setTeam_ok
    | dsimp only

theorem State.issued_ok {fl0 : Nat} (s : State) (i : Ins) (t : Team) (h_s : s.Ok fl0) : (State.issued s i t).Ok fl0 := by
  unfold State.issued
  try dsimp only
  repeat' first
    | with_reducible assumption
    | with_reducible apply State.setTeam_ok
    | dsimp only

theorem State.sendReply_ok {fl0 : Nat} (s : State) (dsts : List Dst) (set : Nat) (entry : Option (Nat × Nat)) (bytes : Nat) (trap : Option PendTrap) (h_s : s.Ok fl0) : (State.sendReply s dsts set entry bytes trap).Ok fl0 := by
  unfold State.sendReply
  try dsimp only
  repeat' first
    | with_reducible assumption
    | dsimp only
    | with_reducible apply State.Ok.keep

theorem State.produce_ok {fl0 : Nat} (s : State) (i : Ins) (t : Team) (marks : List Ref) (dsts : List Dst) (set : Nat) (h_s : s.Ok fl0) : (State.produce s i t marks dsts set).Ok fl0 := by
  unfold State.produce
  try dsimp only
  repeat' first
    | with_reducible assumption
    | with_reducible apply State.sendReply_ok
    | with_reducible apply State.issued_ok
    | dsimp only

theorem State.park_ok {fl0 : Nat} (s : State) (i : Nat) (c : Cause) (arg : W64) (h_s : s.Ok fl0) : (State.park s i c arg).Ok fl0 := by
  unfold State.park
  try dsimp only
  repeat' first
    | with_reducible assumption
    | with_reducible apply State.setTeam_ok
    | dsimp only
    | with_reducible apply State.Ok.keep

theorem State.parkHere_ok {fl0 : Nat} (s : State) (c : Cause) (arg : W64) (h_s : s.Ok fl0) : (State.parkHere s c arg).Ok fl0 := by
  unfold State.parkHere
  try dsimp only
  repeat' first
    | with_reducible assumption
    | with_reducible apply State.park_ok
    | dsimp only

theorem State.parkNoted_ok {fl0 : Nat} (s : State) (i : Nat) (c : Cause) (arg : W64) (h_s : s.Ok fl0) : (State.parkNoted s i c arg).Ok fl0 := by
  unfold State.parkNoted
  try dsimp only
  repeat' first
    | with_reducible assumption
    | with_reducible apply State.park_ok
    | with_reducible apply State.noteTeam_ok
    | dsimp only

theorem State.parkHalted_ok {fl0 : Nat} (s : State) (i skid : Nat) (h_s : s.Ok fl0) : (State.parkHalted s i skid).Ok fl0 := by
  unfold State.parkHalted
  try dsimp only
  repeat' first
    | with_reducible assumption
    | with_reducible apply State.noteTeam_ok
    | with_reducible apply State.setTeam_ok
    | dsimp only
    | with_reducible apply State.Ok.keep

theorem State.countWake_ok {fl0 : Nat} (s : State) (i : Nat) (h_s : s.Ok fl0) : (State.countWake s i).Ok fl0 := by
  unfold State.countWake
  try dsimp only
  repeat' first
    | with_reducible assumption
    | with_reducible apply State.account_ok
    | with_reducible apply State.setTeam_ok
    | split
    | dsimp only
    | with_reducible apply State.Ok.keep

theorem State.unpark_ok {fl0 : Nat} (s : State) (i : Nat) (h_s : s.Ok fl0) : (State.unpark s i).Ok fl0 := by
  unfold State.unpark
  try dsimp only
  repeat' first
    | with_reducible assumption
    | with_reducible apply State.countWake_ok
    | with_reducible apply State.parkHalted_ok
    | with_reducible apply State.parkNoted_ok
    | with_reducible apply State.account_ok
    | with_reducible apply State.noteTeam_ok
    | with_reducible apply State.setTeam_ok
    | split
    | dsimp only
    | with_reducible apply State.Ok.keep

theorem State.haltSibling_ok {fl0 : Nat} (s : State) (origin i : Nat) (h_s : s.Ok fl0) : (State.haltSibling s origin i).Ok fl0 := by
  unfold State.haltSibling
  try dsimp only
  repeat' first
    | with_reducible assumption
    | with_reducible apply State.parkHalted_ok
    | with_reducible apply State.noteTeam_ok
    | with_reducible apply State.useFresh_ok
    | with_reducible apply State.setTeam_ok
    | intro _
    | split
    | dsimp only
    | with_reducible apply State.Ok.keep

theorem State.haltBlock_ok {fl0 : Nat} (s : State) (origin : Nat) (h_s : s.Ok fl0) : (State.haltBlock s origin).Ok fl0 := by
  unfold State.haltBlock
  try dsimp only
  repeat' first
    | with_reducible assumption
    | with_reducible apply State.haltSibling_ok
    | with_reducible apply State.noteHalted_ok
    | with_reducible apply State.setBlock_ok
    | with_reducible apply State.Ok.foldl
    | with_reducible apply State.Ok.foldl_fst
    | intro _
    | split
    | dsimp only
    | with_reducible apply State.Ok.keep

theorem State.releaseBlock_ok {fl0 : Nat} (s : State) (bi : Nat) (h_s : s.Ok fl0) : (State.releaseBlock s bi).Ok fl0 := by
  unfold State.releaseBlock
  try dsimp only
  repeat' first
    | with_reducible assumption
    | with_reducible apply State.unpark_ok
    | with_reducible apply State.setBlock_ok
    | with_reducible apply State.setTeam_ok
    | with_reducible apply State.Ok.foldl
    | with_reducible apply State.Ok.foldl_fst
    | intro _
    | split
    | dsimp only
    | with_reducible apply State.Ok.keep

theorem State.fatal_ok {fl0 : Nat} (s : State) (i cls : Nat) (arg : W64) (h_s : s.Ok fl0) : (State.fatal s i cls arg).Ok fl0 := by
  unfold State.fatal
  try dsimp only
  repeat' first
    | with_reducible assumption
    | with_reducible apply State.haltBlock_ok
    | with_reducible apply State.parkNoted_ok
    | with_reducible apply State.report_ok
    | with_reducible apply State.setBlock_ok
    | dsimp only
    | with_reducible apply State.Ok.keep

theorem State.takeTrap_ok {fl0 : Nat} (s : State) (i : Nat) (x : TrapInfo) (h_s : s.Ok fl0) : (State.takeTrap s i x).Ok fl0 := by
  unfold State.takeTrap
  try dsimp only
  repeat' first
    | with_reducible assumption
    | with_reducible apply State.fatal_ok
    | with_reducible apply State.haltBlock_ok
    | with_reducible apply State.parkNoted_ok
    | with_reducible apply State.noteTeam_ok
    | with_reducible apply State.setTeam_ok
    | split
    | dsimp only
    | with_reducible apply State.Ok.keep

theorem State.trapAt_ok {fl0 : Nat} (s : State) (i : Ins) (cls sub : Nat) (causes : List (Nat × Nat)) (key off : Nat) (h_s : s.Ok fl0) : (State.trapAt s i cls sub causes key off).Ok fl0 := by
  unfold State.trapAt
  try dsimp only
  repeat' first
    | with_reducible assumption
    | with_reducible apply State.takeTrap_ok
    | dsimp only

theorem State.trapLanes_ok {fl0 : Nat} (s : State) (i : Ins) (cls sub : Nat) (lanes : List Nat) (h_s : s.Ok fl0) : (State.trapLanes s i cls sub lanes).Ok fl0 := by
  unfold State.trapLanes
  try dsimp only
  repeat' first
    | with_reducible assumption
    | with_reducible apply State.trapAt_ok
    | intro _
    | split
    | dsimp only

theorem State.illegal_ok {fl0 : Nat} (s : State) (len sub : Nat) (h_s : s.Ok fl0) : (State.illegal s len sub).Ok fl0 := by
  unfold State.illegal
  try dsimp only
  repeat' first
    | with_reducible assumption
    | with_reducible apply State.takeTrap_ok
    | intro _
    | dsimp only

theorem State.returnTrap_ok {fl0 : Nat} (s : State) (i : Nat) (h_s : s.Ok fl0) : (State.returnTrap s i).Ok fl0 := by
  unfold State.returnTrap
  try dsimp only
  repeat' first
    | with_reducible assumption
    | with_reducible apply State.releaseBlock_ok
    | with_reducible apply State.parkHalted_ok
    | with_reducible apply State.setBlock_ok
    | with_reducible apply State.setTeam_ok
    | split
    | dsimp only
    | with_reducible apply State.Ok.keep

theorem State.setArray_ok {fl0 : Nat} (s : State) (k : Nat) (l : List Nat) (h_s : s.Ok fl0) : (State.setArray s k l).Ok fl0 := by
  unfold State.setArray
  try dsimp only
  repeat' first
    | with_reducible assumption
    | dsimp only
    | with_reducible apply State.Ok.keep

theorem State.stopMma_ok {fl0 : Nat} (s : State) (i : Nat) (h_s : s.Ok fl0) : (State.stopMma s i).Ok fl0 := by
  unfold State.stopMma
  try dsimp only
  repeat' first
    | with_reducible assumption
    | with_reducible apply State.setArray_ok
    | with_reducible apply State.setTeam_ok
    | intro _
    | split
    | dsimp only
    | with_reducible apply State.Ok.keep

theorem State.requeueMma_ok {fl0 : Nat} (s : State) (i : Nat) (h_s : s.Ok fl0) : (State.requeueMma s i).Ok fl0 := by
  unfold State.requeueMma
  try dsimp only
  repeat' first
    | with_reducible assumption
    | with_reducible apply State.setArray_ok
    | with_reducible apply State.setTeam_ok
    | intro _
    | split
    | dsimp only
    | with_reducible apply State.Ok.keep

theorem State.rteMma_ok {fl0 : Nat} (s : State) (i : Nat) (h_s : s.Ok fl0) : (State.rteMma s i).Ok fl0 := by
  unfold State.rteMma
  try dsimp only
  repeat' first
    | with_reducible assumption
    | with_reducible apply State.requeueMma_ok
    | with_reducible apply State.setTeam_ok
    | intro _
    | split
    | dsimp only
    | with_reducible apply State.Ok.keep

theorem runIns_ok {fl0 : Nat} (i : Ins) (s : State) (k : Team → List Nat → State) (h_s : s.Ok fl0) (h_k : ∀ t ls, (k t ls).Ok fl0) : okOut fl0 (runIns i s k) := by
  unfold runIns
  try dsimp only
  repeat' first
    | with_reducible assumption
    | with_reducible apply h_k
    | with_reducible apply State.trapLanes_ok
    | with_reducible apply okOut_next
    | with_reducible exact okOut_fault _
    | intro _
    | split
    | dsimp only
    | with_reducible apply State.Ok.keep

theorem runUni_ok {fl0 : Nat} (i : Ins) (s : State) (k : Team → State) (h_s : s.Ok fl0) (h_k : ∀ t, (k t).Ok fl0) : okOut fl0 (runUni i s k) := by
  unfold runUni
  try dsimp only
  repeat' first
    | with_reducible assumption
    | with_reducible apply h_k
    | with_reducible apply runIns_ok
    | with_reducible apply State.finish_ok
    | with_reducible apply okOut_next
    | with_reducible exact okOut_fault _
    | intro _
    | split
    | dsimp only

theorem State.withFlags_ok {fl0 : Nat} (s : State) (i : Ins) (t : Team) (os : List LaneOut) (k : Team → State) (h_s : s.Ok fl0) (h_k : ∀ t, (k t).Ok fl0) : (State.withFlags s i t os k).Ok fl0 := by
  unfold State.withFlags
  try dsimp only
  repeat' first
    | with_reducible assumption
    | with_reducible apply h_k
    | with_reducible apply State.trapLanes_ok
    | intro _
    | split
    | dsimp only

theorem runAlu_ok {fl0 : Nat} (i : Ins) (s : State) (g : Team → Nat → Nat × Nat) (h_s : s.Ok fl0) : okOut fl0 (runAlu i s g) := by
  unfold runAlu
  try dsimp only
  repeat' first
    | with_reducible assumption
    | with_reducible apply State.withFlags_ok
    | with_reducible apply runIns_ok
    | with_reducible apply State.finish_ok
    | with_reducible apply State.Ok.foldl
    | with_reducible apply State.Ok.foldl_fst
    | with_reducible apply okOut_next
    | with_reducible exact okOut_fault _
    | intro _
    | dsimp only

theorem runAlu32_ok {fl0 : Nat} (i : Ins) (s : State) (g : Team → Nat → Nat × Nat) (h_s : s.Ok fl0) : okOut fl0 (runAlu32 i s g) := by
  unfold runAlu32
  try dsimp only
  repeat' first
    | with_reducible assumption
    | with_reducible apply State.withFlags_ok
    | with_reducible apply runIns_ok
    | with_reducible apply State.finish_ok
    | with_reducible apply State.Ok.foldl
    | with_reducible apply State.Ok.foldl_fst
    | with_reducible apply okOut_next
    | with_reducible exact okOut_fault _
    | intro _
    | dsimp only

theorem runTest_ok {fl0 : Nat} (i : Ins) (s : State) (g : Team → Nat → Bool × Nat) (h_s : s.Ok fl0) : okOut fl0 (runTest i s g) := by
  unfold runTest
  try dsimp only
  repeat' first
    | with_reducible assumption
    | with_reducible apply State.withFlags_ok
    | with_reducible apply runIns_ok
    | with_reducible apply State.finish_ok
    | with_reducible apply State.Ok.foldl
    | with_reducible apply State.Ok.foldl_fst
    | with_reducible apply okOut_next
    | with_reducible exact okOut_fault _
    | intro _
    | dsimp only

theorem State.pageFault_ok {fl0 : Nat} (s : State) (i : Ins) (kind : Nat) (hits : List PageHit) (h_s : s.Ok fl0) : (State.pageFault s i kind hits).Ok fl0 := by
  unfold State.pageFault
  try dsimp only
  repeat' first
    | with_reducible assumption
    | with_reducible apply State.trapAt_ok
    | with_reducible apply State.parkHere_ok
    | with_reducible apply State.addFault_ok
    | with_reducible apply State.Ok.foldl
    | with_reducible apply State.Ok.foldl_fst
    | intro _
    | split
    | dsimp only
    | with_reducible apply State.Ok.keep

/-! Integer. -/

theorem execIadd_ok {fl0 : Nat} (f : Form) (s : State) (h_s : s.Ok fl0) : okOut fl0 (execIadd f s) := by
  unfold execIadd
  try dsimp only
  repeat' first
    | with_reducible assumption
    | with_reducible apply runAlu_ok
    | with_reducible apply okOut_next
    | with_reducible exact okOut_fault _
    | intro _
    | dsimp only

theorem execIsub_ok {fl0 : Nat} (f : Form) (s : State) (h_s : s.Ok fl0) : okOut fl0 (execIsub f s) := by
  unfold execIsub
  try dsimp only
  repeat' first
    | with_reducible assumption
    | with_reducible apply runAlu_ok
    | with_reducible apply okOut_next
    | with_reducible exact okOut_fault _
    | intro _
    | dsimp only

theorem execImul_ok {fl0 : Nat} (f : Form) (s : State) (h_s : s.Ok fl0) : okOut fl0 (execImul f s) := by
  unfold execImul
  try dsimp only
  repeat' first
    | with_reducible assumption
    | with_reducible apply runAlu_ok
    | with_reducible apply okOut_next
    | with_reducible exact okOut_fault _
    | intro _
    | dsimp only

theorem execImulh_ok {fl0 : Nat} (f : Form) (s : State) (h_s : s.Ok fl0) : okOut fl0 (execImulh f s) := by
  unfold execImulh
  try dsimp only
  repeat' first
    | with_reducible assumption
    | with_reducible apply runAlu_ok
    | with_reducible apply okOut_next
    | with_reducible exact okOut_fault _
    | dsimp only

theorem execImad_ok {fl0 : Nat} (f : Form) (s : State) (h_s : s.Ok fl0) : okOut fl0 (execImad f s) := by
  unfold execImad
  try dsimp only
  repeat' first
    | with_reducible assumption
    | with_reducible apply runAlu_ok
    | with_reducible apply okOut_next
    | with_reducible exact okOut_fault _
    | intro _
    | dsimp only

theorem execIdiv_ok {fl0 : Nat} (f : Form) (s : State) (h_s : s.Ok fl0) : okOut fl0 (execIdiv f s) := by
  unfold execIdiv
  try dsimp only
  repeat' first
    | with_reducible assumption
    | with_reducible apply runAlu_ok
    | with_reducible apply okOut_next
    | with_reducible exact okOut_fault _
    | dsimp only

theorem execIrem_ok {fl0 : Nat} (f : Form) (s : State) (h_s : s.Ok fl0) : okOut fl0 (execIrem f s) := by
  unfold execIrem
  try dsimp only
  repeat' first
    | with_reducible assumption
    | with_reducible apply runAlu_ok
    | with_reducible apply okOut_next
    | with_reducible exact okOut_fault _
    | dsimp only

theorem execImin_ok {fl0 : Nat} (f : Form) (s : State) (h_s : s.Ok fl0) : okOut fl0 (execImin f s) := by
  unfold execImin
  try dsimp only
  repeat' first
    | with_reducible assumption
    | with_reducible apply runAlu_ok
    | with_reducible apply okOut_next
    | with_reducible exact okOut_fault _
    | intro _
    | split
    | dsimp only

theorem execImax_ok {fl0 : Nat} (f : Form) (s : State) (h_s : s.Ok fl0) : okOut fl0 (execImax f s) := by
  unfold execImax
  try dsimp only
  repeat' first
    | with_reducible assumption
    | with_reducible apply runAlu_ok
    | with_reducible apply okOut_next
    | with_reducible exact okOut_fault _
    | intro _
    | split
    | dsimp only

theorem execIabsS_ok {fl0 : Nat} (f : SForm) (s : State) (h_s : s.Ok fl0) : okOut fl0 (execIabsS f s) := by
  unfold execIabsS
  try dsimp only
  repeat' first
    | with_reducible assumption
    | with_reducible apply runAlu_ok
    | with_reducible apply okOut_next
    | with_reducible exact okOut_fault _
    | intro _
    | dsimp only

theorem execIabsL_ok {fl0 : Nat} (f : Form) (s : State) (h_s : s.Ok fl0) : okOut fl0 (execIabsL f s) := by
  unfold execIabsL
  try dsimp only
  repeat' first
    | with_reducible assumption
    | with_reducible apply runAlu_ok
    | with_reducible apply okOut_next
    | with_reducible exact okOut_fault _
    | intro _
    | dsimp only

theorem execInegS_ok {fl0 : Nat} (f : SForm) (s : State) (h_s : s.Ok fl0) : okOut fl0 (execInegS f s) := by
  unfold execInegS
  try dsimp only
  repeat' first
    | with_reducible assumption
    | with_reducible apply runAlu_ok
    | with_reducible apply okOut_next
    | with_reducible exact okOut_fault _
    | intro _
    | dsimp only

theorem execInegL_ok {fl0 : Nat} (f : Form) (s : State) (h_s : s.Ok fl0) : okOut fl0 (execInegL f s) := by
  unfold execInegL
  try dsimp only
  repeat' first
    | with_reducible assumption
    | with_reducible apply runAlu_ok
    | with_reducible apply okOut_next
    | with_reducible exact okOut_fault _
    | intro _
    | dsimp only

theorem execIadds_ok {fl0 : Nat} (f : Form) (s : State) (h_s : s.Ok fl0) : okOut fl0 (execIadds f s) := by
  unfold execIadds
  try dsimp only
  repeat' first
    | with_reducible assumption
    | with_reducible apply runAlu_ok
    | with_reducible apply okOut_next
    | with_reducible exact okOut_fault _
    | intro _
    | dsimp only

theorem execIsubs_ok {fl0 : Nat} (f : Form) (s : State) (h_s : s.Ok fl0) : okOut fl0 (execIsubs f s) := by
  unfold execIsubs
  try dsimp only
  repeat' first
    | with_reducible assumption
    | with_reducible apply runAlu_ok
    | with_reducible apply okOut_next
    | with_reducible exact okOut_fault _
    | intro _
    | dsimp only

theorem execAnd_ok {fl0 : Nat} (f : Form) (s : State) (h_s : s.Ok fl0) : okOut fl0 (execAnd f s) := by
  unfold execAnd
  try dsimp only
  repeat' first
    | with_reducible assumption
    | with_reducible apply runAlu_ok
    | with_reducible apply okOut_next
    | with_reducible exact okOut_fault _
    | intro _
    | dsimp only

theorem execOr_ok {fl0 : Nat} (f : Form) (s : State) (h_s : s.Ok fl0) : okOut fl0 (execOr f s) := by
  unfold execOr
  try dsimp only
  repeat' first
    | with_reducible assumption
    | with_reducible apply runAlu_ok
    | with_reducible apply okOut_next
    | with_reducible exact okOut_fault _
    | intro _
    | dsimp only

theorem execXor_ok {fl0 : Nat} (f : Form) (s : State) (h_s : s.Ok fl0) : okOut fl0 (execXor f s) := by
  unfold execXor
  try dsimp only
  repeat' first
    | with_reducible assumption
    | with_reducible apply runAlu_ok
    | with_reducible apply okOut_next
    | with_reducible exact okOut_fault _
    | intro _
    | dsimp only

theorem execAndn_ok {fl0 : Nat} (f : Form) (s : State) (h_s : s.Ok fl0) : okOut fl0 (execAndn f s) := by
  unfold execAndn
  try dsimp only
  repeat' first
    | with_reducible assumption
    | with_reducible apply runAlu_ok
    | with_reducible apply okOut_next
    | with_reducible exact okOut_fault _
    | intro _
    | dsimp only

theorem execNotS_ok {fl0 : Nat} (f : SForm) (s : State) (h_s : s.Ok fl0) : okOut fl0 (execNotS f s) := by
  unfold execNotS
  try dsimp only
  repeat' first
    | with_reducible assumption
    | with_reducible apply runAlu_ok
    | with_reducible apply okOut_next
    | with_reducible exact okOut_fault _
    | intro _
    | dsimp only

theorem execNotL_ok {fl0 : Nat} (f : Form) (s : State) (h_s : s.Ok fl0) : okOut fl0 (execNotL f s) := by
  unfold execNotL
  try dsimp only
  repeat' first
    | with_reducible assumption
    | with_reducible apply runAlu_ok
    | with_reducible apply okOut_next
    | with_reducible exact okOut_fault _
    | intro _
    | dsimp only

theorem execShl_ok {fl0 : Nat} (f : Form) (s : State) (h_s : s.Ok fl0) : okOut fl0 (execShl f s) := by
  unfold execShl
  try dsimp only
  repeat' first
    | with_reducible assumption
    | with_reducible apply runAlu_ok
    | with_reducible apply okOut_next
    | with_reducible exact okOut_fault _
    | dsimp only

theorem execShr_ok {fl0 : Nat} (f : Form) (s : State) (h_s : s.Ok fl0) : okOut fl0 (execShr f s) := by
  unfold execShr
  try dsimp only
  repeat' first
    | with_reducible assumption
    | with_reducible apply runAlu_ok
    | with_reducible apply okOut_next
    | with_reducible exact okOut_fault _
    | dsimp only

theorem execSar_ok {fl0 : Nat} (f : Form) (s : State) (h_s : s.Ok fl0) : okOut fl0 (execSar f s) := by
  unfold execSar
  try dsimp only
  repeat' first
    | with_reducible assumption
    | with_reducible apply runAlu_ok
    | with_reducible apply okOut_next
    | with_reducible exact okOut_fault _
    | dsimp only

theorem execRol_ok {fl0 : Nat} (f : Form) (s : State) (h_s : s.Ok fl0) : okOut fl0 (execRol f s) := by
  unfold execRol
  try dsimp only
  repeat' first
    | with_reducible assumption
    | with_reducible apply runAlu_ok
    | with_reducible apply okOut_next
    | with_reducible exact okOut_fault _
    | dsimp only

theorem execBfx_ok {fl0 : Nat} (f : Form) (s : State) (h_s : s.Ok fl0) : okOut fl0 (execBfx f s) := by
  unfold execBfx
  try dsimp only
  repeat' first
    | with_reducible assumption
    | with_reducible apply runAlu_ok
    | with_reducible apply okOut_next
    | with_reducible exact okOut_fault _
    | dsimp only

theorem execBfi_ok {fl0 : Nat} (f : Form) (s : State) (h_s : s.Ok fl0) : okOut fl0 (execBfi f s) := by
  unfold execBfi
  try dsimp only
  repeat' first
    | with_reducible assumption
    | with_reducible apply runAlu_ok
    | with_reducible apply okOut_next
    | with_reducible exact okOut_fault _
    | intro _
    | dsimp only

theorem execPopcS_ok {fl0 : Nat} (f : SForm) (s : State) (h_s : s.Ok fl0) : okOut fl0 (execPopcS f s) := by
  unfold execPopcS
  try dsimp only
  repeat' first
    | with_reducible assumption
    | with_reducible apply runAlu_ok
    | with_reducible apply okOut_next
    | with_reducible exact okOut_fault _
    | dsimp only

theorem execPopcL_ok {fl0 : Nat} (f : Form) (s : State) (h_s : s.Ok fl0) : okOut fl0 (execPopcL f s) := by
  unfold execPopcL
  try dsimp only
  repeat' first
    | with_reducible assumption
    | with_reducible apply runAlu_ok
    | with_reducible apply okOut_next
    | with_reducible exact okOut_fault _
    | dsimp only

theorem execClzS_ok {fl0 : Nat} (f : SForm) (s : State) (h_s : s.Ok fl0) : okOut fl0 (execClzS f s) := by
  unfold execClzS
  try dsimp only
  repeat' first
    | with_reducible assumption
    | with_reducible apply runAlu_ok
    | with_reducible apply okOut_next
    | with_reducible exact okOut_fault _
    | dsimp only

theorem execClzL_ok {fl0 : Nat} (f : Form) (s : State) (h_s : s.Ok fl0) : okOut fl0 (execClzL f s) := by
  unfold execClzL
  try dsimp only
  repeat' first
    | with_reducible assumption
    | with_reducible apply runAlu_ok
    | with_reducible apply okOut_next
    | with_reducible exact okOut_fault _
    | dsimp only

theorem execCtzS_ok {fl0 : Nat} (f : SForm) (s : State) (h_s : s.Ok fl0) : okOut fl0 (execCtzS f s) := by
  unfold execCtzS
  try dsimp only
  repeat' first
    | with_reducible assumption
    | with_reducible apply runAlu_ok
    | with_reducible apply okOut_next
    | with_reducible exact okOut_fault _
    | dsimp only

theorem execCtzL_ok {fl0 : Nat} (f : Form) (s : State) (h_s : s.Ok fl0) : okOut fl0 (execCtzL f s) := by
  unfold execCtzL
  try dsimp only
  repeat' first
    | with_reducible assumption
    | with_reducible apply runAlu_ok
    | with_reducible apply okOut_next
    | with_reducible exact okOut_fault _
    | dsimp only

theorem execBrevS_ok {fl0 : Nat} (f : SForm) (s : State) (h_s : s.Ok fl0) : okOut fl0 (execBrevS f s) := by
  unfold execBrevS
  try dsimp only
  repeat' first
    | with_reducible assumption
    | with_reducible apply runAlu_ok
    | with_reducible apply okOut_next
    | with_reducible exact okOut_fault _
    | dsimp only

theorem execBrevL_ok {fl0 : Nat} (f : Form) (s : State) (h_s : s.Ok fl0) : okOut fl0 (execBrevL f s) := by
  unfold execBrevL
  try dsimp only
  repeat' first
    | with_reducible assumption
    | with_reducible apply runAlu_ok
    | with_reducible apply okOut_next
    | with_reducible exact okOut_fault _
    | dsimp only

theorem execSel_ok {fl0 : Nat} (f : Form) (s : State) (h_s : s.Ok fl0) : okOut fl0 (execSel f s) := by
  unfold execSel
  try dsimp only
  repeat' first
    | with_reducible assumption
    | with_reducible apply runAlu_ok
    | with_reducible apply okOut_next
    | with_reducible exact okOut_fault _
    | intro _
    | split
    | dsimp only

theorem execMovS_ok {fl0 : Nat} (f : SForm) (s : State) (h_s : s.Ok fl0) : okOut fl0 (execMovS f s) := by
  unfold execMovS
  try dsimp only
  repeat' first
    | with_reducible assumption
    | with_reducible apply runAlu_ok
    | with_reducible apply okOut_next
    | with_reducible exact okOut_fault _
    | intro _
    | dsimp only

theorem execMovL_ok {fl0 : Nat} (f : Form) (s : State) (h_s : s.Ok fl0) : okOut fl0 (execMovL f s) := by
  unfold execMovL
  try dsimp only
  repeat' first
    | with_reducible assumption
    | with_reducible apply runAlu_ok
    | with_reducible apply okOut_next
    | with_reducible exact okOut_fault _
    | intro _
    | dsimp only

theorem execMovi_ok {fl0 : Nat} (f : Form) (s : State) (h_s : s.Ok fl0) : okOut fl0 (execMovi f s) := by
  unfold execMovi
  try dsimp only
  repeat' first
    | with_reducible assumption
    | with_reducible apply runAlu_ok
    | with_reducible apply okOut_next
    | with_reducible exact okOut_fault _
    | intro _
    | dsimp only

theorem execPrmt_ok {fl0 : Nat} (f : Form) (s : State) (h_s : s.Ok fl0) : okOut fl0 (execPrmt f s) := by
  unfold execPrmt
  try dsimp only
  repeat' first
    | with_reducible assumption
    | with_reducible apply runAlu_ok
    | with_reducible apply okOut_next
    | with_reducible exact okOut_fault _
    | intro _
    | dsimp only

theorem execIaddc_ok {fl0 : Nat} (f : Form) (s : State) (h_s : s.Ok fl0) : okOut fl0 (execIaddc f s) := by
  unfold execIaddc
  try dsimp only
  repeat' first
    | with_reducible assumption
    | with_reducible apply runIns_ok
    | with_reducible apply State.finish_ok
    | with_reducible apply State.Ok.foldl
    | with_reducible apply State.Ok.foldl_fst
    | with_reducible apply okOut_next
    | with_reducible exact okOut_fault _
    | intro _
    | split
    | dsimp only

theorem execSrd_ok {fl0 : Nat} (f : Form) (s : State) (h_s : s.Ok fl0) : okOut fl0 (execSrd f s) := by
  unfold execSrd
  try dsimp only
  repeat' first
    | with_reducible assumption
    | with_reducible apply runIns_ok
    | with_reducible apply State.trapLanes_ok
    | with_reducible apply State.finish_ok
    | with_reducible apply State.Ok.foldl
    | with_reducible apply State.Ok.foldl_fst
    | with_reducible apply okOut_next
    | with_reducible exact okOut_fault _
    | intro _
    | split
    | dsimp only

theorem execSwr_ok {fl0 : Nat} (f : Form) (s : State) (h_s : s.Ok fl0) : okOut fl0 (execSwr f s) := by
  unfold execSwr
  try dsimp only
  repeat' first
    | with_reducible assumption
    | with_reducible apply runUni_ok
    | with_reducible apply State.trapLanes_ok
    | with_reducible apply State.finish_ok
    | with_reducible apply okOut_next
    | with_reducible exact okOut_fault _
    | intro _
    | split
    | dsimp only
    | with_reducible apply State.Ok.keep

/-! FloatOps. -/

theorem execFadd_ok {fl0 : Nat} (f : Form) (s : State) (h_s : s.Ok fl0) : okOut fl0 (execFadd f s) := by
  unfold execFadd
  try dsimp only
  repeat' first
    | with_reducible assumption
    | with_reducible apply runAlu_ok
    | with_reducible apply okOut_next
    | with_reducible exact okOut_fault _
    | dsimp only

theorem execFsub_ok {fl0 : Nat} (f : Form) (s : State) (h_s : s.Ok fl0) : okOut fl0 (execFsub f s) := by
  unfold execFsub
  try dsimp only
  repeat' first
    | with_reducible assumption
    | with_reducible apply runAlu_ok
    | with_reducible apply okOut_next
    | with_reducible exact okOut_fault _
    | intro _
    | dsimp only

theorem execFmul_ok {fl0 : Nat} (f : Form) (s : State) (h_s : s.Ok fl0) : okOut fl0 (execFmul f s) := by
  unfold execFmul
  try dsimp only
  repeat' first
    | with_reducible assumption
    | with_reducible apply runAlu_ok
    | with_reducible apply okOut_next
    | with_reducible exact okOut_fault _
    | dsimp only

theorem execFfma_ok {fl0 : Nat} (f : Form) (s : State) (h_s : s.Ok fl0) : okOut fl0 (execFfma f s) := by
  unfold execFfma
  try dsimp only
  repeat' first
    | with_reducible assumption
    | with_reducible apply runAlu_ok
    | with_reducible apply okOut_next
    | with_reducible exact okOut_fault _
    | dsimp only

theorem execFmin_ok {fl0 : Nat} (f : Form) (s : State) (h_s : s.Ok fl0) : okOut fl0 (execFmin f s) := by
  unfold execFmin
  try dsimp only
  repeat' first
    | with_reducible assumption
    | with_reducible apply runAlu_ok
    | with_reducible apply okOut_next
    | with_reducible exact okOut_fault _
    | dsimp only

theorem execFmax_ok {fl0 : Nat} (f : Form) (s : State) (h_s : s.Ok fl0) : okOut fl0 (execFmax f s) := by
  unfold execFmax
  try dsimp only
  repeat' first
    | with_reducible assumption
    | with_reducible apply runAlu_ok
    | with_reducible apply okOut_next
    | with_reducible exact okOut_fault _
    | dsimp only

theorem execFabsS_ok {fl0 : Nat} (f : SForm) (s : State) (h_s : s.Ok fl0) : okOut fl0 (execFabsS f s) := by
  unfold execFabsS
  try dsimp only
  repeat' first
    | with_reducible assumption
    | with_reducible apply runAlu_ok
    | with_reducible apply okOut_next
    | with_reducible exact okOut_fault _
    | intro _
    | dsimp only

theorem execFabsL_ok {fl0 : Nat} (f : Form) (s : State) (h_s : s.Ok fl0) : okOut fl0 (execFabsL f s) := by
  unfold execFabsL
  try dsimp only
  repeat' first
    | with_reducible assumption
    | with_reducible apply runAlu_ok
    | with_reducible apply okOut_next
    | with_reducible exact okOut_fault _
    | intro _
    | dsimp only

theorem execFnegS_ok {fl0 : Nat} (f : SForm) (s : State) (h_s : s.Ok fl0) : okOut fl0 (execFnegS f s) := by
  unfold execFnegS
  try dsimp only
  repeat' first
    | with_reducible assumption
    | with_reducible apply runAlu_ok
    | with_reducible apply okOut_next
    | with_reducible exact okOut_fault _
    | intro _
    | dsimp only

theorem execFnegL_ok {fl0 : Nat} (f : Form) (s : State) (h_s : s.Ok fl0) : okOut fl0 (execFnegL f s) := by
  unfold execFnegL
  try dsimp only
  repeat' first
    | with_reducible assumption
    | with_reducible apply runAlu_ok
    | with_reducible apply okOut_next
    | with_reducible exact okOut_fault _
    | intro _
    | dsimp only

theorem execFdiv_ok {fl0 : Nat} (f : Form) (s : State) (h_s : s.Ok fl0) : okOut fl0 (execFdiv f s) := by
  unfold execFdiv
  try dsimp only
  repeat' first
    | with_reducible assumption
    | with_reducible apply runAlu_ok
    | with_reducible apply okOut_next
    | with_reducible exact okOut_fault _
    | dsimp only

theorem execFsqrtS_ok {fl0 : Nat} (f : SForm) (s : State) (h_s : s.Ok fl0) : okOut fl0 (execFsqrtS f s) := by
  unfold execFsqrtS
  try dsimp only
  repeat' first
    | with_reducible assumption
    | with_reducible apply runAlu_ok
    | with_reducible apply okOut_next
    | with_reducible exact okOut_fault _
    | dsimp only

theorem execFsqrtL_ok {fl0 : Nat} (f : Form) (s : State) (h_s : s.Ok fl0) : okOut fl0 (execFsqrtL f s) := by
  unfold execFsqrtL
  try dsimp only
  repeat' first
    | with_reducible assumption
    | with_reducible apply runAlu_ok
    | with_reducible apply okOut_next
    | with_reducible exact okOut_fault _
    | dsimp only

theorem execFrcpS_ok {fl0 : Nat} (f : SForm) (s : State) (h_s : s.Ok fl0) : okOut fl0 (execFrcpS f s) := by
  unfold execFrcpS
  try dsimp only
  repeat' first
    | with_reducible assumption
    | with_reducible apply runAlu_ok
    | with_reducible apply okOut_next
    | with_reducible exact okOut_fault _
    | dsimp only

theorem execFrcpL_ok {fl0 : Nat} (f : Form) (s : State) (h_s : s.Ok fl0) : okOut fl0 (execFrcpL f s) := by
  unfold execFrcpL
  try dsimp only
  repeat' first
    | with_reducible assumption
    | with_reducible apply runAlu_ok
    | with_reducible apply okOut_next
    | with_reducible exact okOut_fault _
    | dsimp only

theorem execFrintS_ok {fl0 : Nat} (f : SForm) (s : State) (h_s : s.Ok fl0) : okOut fl0 (execFrintS f s) := by
  unfold execFrintS
  try dsimp only
  repeat' first
    | with_reducible assumption
    | with_reducible apply runAlu_ok
    | with_reducible apply okOut_next
    | with_reducible exact okOut_fault _
    | dsimp only

theorem execFrintL_ok {fl0 : Nat} (f : Form) (s : State) (h_s : s.Ok fl0) : okOut fl0 (execFrintL f s) := by
  unfold execFrintL
  try dsimp only
  repeat' first
    | with_reducible assumption
    | with_reducible apply runAlu_ok
    | with_reducible apply okOut_next
    | with_reducible exact okOut_fault _
    | dsimp only

theorem execFclassS_ok {fl0 : Nat} (f : SForm) (s : State) (h_s : s.Ok fl0) : okOut fl0 (execFclassS f s) := by
  unfold execFclassS
  try dsimp only
  repeat' first
    | with_reducible assumption
    | with_reducible apply runAlu32_ok
    | with_reducible apply okOut_next
    | with_reducible exact okOut_fault _
    | dsimp only

theorem execFclassL_ok {fl0 : Nat} (f : Form) (s : State) (h_s : s.Ok fl0) : okOut fl0 (execFclassL f s) := by
  unfold execFclassL
  try dsimp only
  repeat' first
    | with_reducible assumption
    | with_reducible apply runAlu32_ok
    | with_reducible apply okOut_next
    | with_reducible exact okOut_fault _
    | dsimp only

theorem execFscale_ok {fl0 : Nat} (f : Form) (s : State) (h_s : s.Ok fl0) : okOut fl0 (execFscale f s) := by
  unfold execFscale
  try dsimp only
  repeat' first
    | with_reducible assumption
    | with_reducible apply runAlu_ok
    | with_reducible apply okOut_next
    | with_reducible exact okOut_fault _
    | intro _
    | dsimp only

theorem execFdot2_ok {fl0 : Nat} (f : Form) (s : State) (h_s : s.Ok fl0) : okOut fl0 (execFdot2 f s) := by
  unfold execFdot2
  try dsimp only
  repeat' first
    | with_reducible assumption
    | with_reducible apply runAlu_ok
    | with_reducible apply okOut_next
    | with_reducible exact okOut_fault _
    | dsimp only

/-! Convert. -/

theorem runSr_ok {fl0 : Nat} (i : Ins) (s : State) (g : Team → Nat → Nat × Nat) (h_s : s.Ok fl0) : okOut fl0 (runSr i s g) := by
  unfold runSr
  try dsimp only
  repeat' first
    | with_reducible assumption
    | with_reducible apply State.withFlags_ok
    | with_reducible apply runIns_ok
    | with_reducible apply State.finish_ok
    | with_reducible apply State.Ok.foldl
    | with_reducible apply State.Ok.foldl_fst
    | with_reducible apply okOut_next
    | with_reducible exact okOut_fault _
    | intro _
    | dsimp only

theorem execCvt_ok {fl0 : Nat} (f : Form) (s : State) (h_s : s.Ok fl0) : okOut fl0 (execCvt f s) := by
  unfold execCvt
  try dsimp only
  repeat' first
    | with_reducible assumption
    | with_reducible apply runSr_ok
    | with_reducible apply okOut_next
    | with_reducible exact okOut_fault _
    | intro _
    | dsimp only

theorem execPack_ok {fl0 : Nat} (f : Form) (s : State) (h_s : s.Ok fl0) : okOut fl0 (execPack f s) := by
  unfold execPack
  try dsimp only
  repeat' first
    | with_reducible assumption
    | with_reducible apply runSr_ok
    | with_reducible apply okOut_next
    | with_reducible exact okOut_fault _
    | intro _
    | split
    | dsimp only

theorem execUnpk_ok {fl0 : Nat} (f : Form) (s : State) (h_s : s.Ok fl0) : okOut fl0 (execUnpk f s) := by
  unfold execUnpk
  try dsimp only
  repeat' first
    | with_reducible assumption
    | with_reducible apply runAlu_ok
    | with_reducible apply okOut_next
    | with_reducible exact okOut_fault _
    | intro _
    | dsimp only

/-! Compare. -/

theorem execIcmp_ok {fl0 : Nat} (f : Form) (s : State) (h_s : s.Ok fl0) : okOut fl0 (execIcmp f s) := by
  unfold execIcmp
  try dsimp only
  repeat' first
    | with_reducible assumption
    | with_reducible apply runTest_ok
    | with_reducible apply okOut_next
    | with_reducible exact okOut_fault _
    | intro _
    | dsimp only

theorem execFcmp_ok {fl0 : Nat} (f : Form) (s : State) (h_s : s.Ok fl0) : okOut fl0 (execFcmp f s) := by
  unfold execFcmp
  try dsimp only
  repeat' first
    | with_reducible assumption
    | with_reducible apply runTest_ok
    | with_reducible apply okOut_next
    | with_reducible exact okOut_fault _
    | intro _
    | dsimp only

theorem execPlop_ok {fl0 : Nat} (f : Form) (s : State) (h_s : s.Ok fl0) : okOut fl0 (execPlop f s) := by
  unfold execPlop
  try dsimp only
  repeat' first
    | with_reducible assumption
    | with_reducible apply runTest_ok
    | with_reducible apply okOut_next
    | with_reducible exact okOut_fault _
    | intro _
    | dsimp only

theorem execPmov_ok {fl0 : Nat} (f : Form) (s : State) (h_s : s.Ok fl0) : okOut fl0 (execPmov f s) := by
  unfold execPmov
  try dsimp only
  repeat' first
    | with_reducible assumption
    | with_reducible apply runTest_ok
    | with_reducible apply runAlu32_ok
    | with_reducible apply runIns_ok
    | with_reducible apply State.finish_ok
    | with_reducible apply State.Ok.foldl
    | with_reducible apply State.Ok.foldl_fst
    | with_reducible apply okOut_next
    | with_reducible exact okOut_fault _
    | intro _
    | split
    | dsimp only
    | with_reducible apply State.Ok.keep

/-! CrossLane. -/

theorem runProduce_ok {fl0 : Nat} (i : Ins) (s : State) (g : Team → List Nat → List Dst) (h_s : s.Ok fl0) : okOut fl0 (runProduce i s g) := by
  unfold runProduce
  try dsimp only
  repeat' first
    | with_reducible assumption
    | with_reducible apply runIns_ok
    | with_reducible apply State.produce_ok
    | with_reducible apply State.finish_ok
    | with_reducible apply okOut_next
    | with_reducible exact okOut_fault _
    | intro _
    | split
    | dsimp only

theorem execShfl_ok {fl0 : Nat} (f : Form) (s : State) (h_s : s.Ok fl0) : okOut fl0 (execShfl f s) := by
  unfold execShfl
  try dsimp only
  repeat' first
    | with_reducible assumption
    | with_reducible apply runProduce_ok
    | with_reducible apply okOut_next
    | with_reducible exact okOut_fault _
    | intro _
    | dsimp only

theorem execBcst_ok {fl0 : Nat} (f : Form) (s : State) (h_s : s.Ok fl0) : okOut fl0 (execBcst f s) := by
  unfold execBcst
  try dsimp only
  repeat' first
    | with_reducible assumption
    | with_reducible apply runProduce_ok
    | with_reducible apply okOut_next
    | with_reducible exact okOut_fault _
    | intro _
    | dsimp only

theorem execVote_ok {fl0 : Nat} (f : Form) (s : State) (h_s : s.Ok fl0) : okOut fl0 (execVote f s) := by
  unfold execVote
  try dsimp only
  repeat' first
    | with_reducible assumption
    | with_reducible apply runProduce_ok
    | with_reducible apply okOut_next
    | with_reducible exact okOut_fault _
    | intro _
    | split
    | dsimp only
    | with_reducible apply State.Ok.keep

theorem execMbalS_ok {fl0 : Nat} (f : SForm) (s : State) (h_s : s.Ok fl0) : okOut fl0 (execMbalS f s) := by
  unfold execMbalS
  try dsimp only
  repeat' first
    | with_reducible assumption
    | with_reducible apply runProduce_ok
    | with_reducible apply okOut_next
    | with_reducible exact okOut_fault _
    | intro _
    | dsimp only

theorem execMbalL_ok {fl0 : Nat} (f : Form) (s : State) (h_s : s.Ok fl0) : okOut fl0 (execMbalL f s) := by
  unfold execMbalL
  try dsimp only
  repeat' first
    | with_reducible assumption
    | with_reducible apply runProduce_ok
    | with_reducible apply okOut_next
    | with_reducible exact okOut_fault _
    | intro _
    | dsimp only

theorem runScan_ok {fl0 : Nat} (i : Ins) (s : State) (h_s : s.Ok fl0) : okOut fl0 (runScan i s) := by
  unfold runScan
  try dsimp only
  repeat' first
    | with_reducible assumption
    | with_reducible apply State.withFlags_ok
    | with_reducible apply runIns_ok
    | with_reducible apply State.produce_ok
    | with_reducible apply State.finish_ok
    | with_reducible apply okOut_next
    | with_reducible exact okOut_fault _
    | intro _
    | split
    | dsimp only

theorem execScanS_ok {fl0 : Nat} (f : SForm) (s : State) (h_s : s.Ok fl0) : okOut fl0 (execScanS f s) := by
  unfold execScanS
  try dsimp only
  repeat' first
    | with_reducible assumption
    | with_reducible apply runScan_ok
    | with_reducible apply okOut_next
    | with_reducible exact okOut_fault _
    | dsimp only

theorem execScanL_ok {fl0 : Nat} (f : Form) (s : State) (h_s : s.Ok fl0) : okOut fl0 (execScanL f s) := by
  unfold execScanL
  try dsimp only
  repeat' first
    | with_reducible assumption
    | with_reducible apply runScan_ok
    | with_reducible apply okOut_next
    | with_reducible exact okOut_fault _
    | dsimp only

theorem execRedS_ok {fl0 : Nat} (f : SForm) (s : State) (h_s : s.Ok fl0) : okOut fl0 (execRedS f s) := by
  unfold execRedS
  try dsimp only
  repeat' first
    | with_reducible assumption
    | with_reducible apply runScan_ok
    | with_reducible apply okOut_next
    | with_reducible exact okOut_fault _
    | dsimp only

theorem execRedL_ok {fl0 : Nat} (f : Form) (s : State) (h_s : s.Ok fl0) : okOut fl0 (execRedL f s) := by
  unfold execRedL
  try dsimp only
  repeat' first
    | with_reducible assumption
    | with_reducible apply runScan_ok
    | with_reducible apply okOut_next
    | with_reducible exact okOut_fault _
    | dsimp only

theorem execTsort_ok {fl0 : Nat} (f : Form) (s : State) (h_s : s.Ok fl0) : okOut fl0 (execTsort f s) := by
  unfold execTsort
  try dsimp only
  repeat' first
    | with_reducible assumption
    | with_reducible apply runProduce_ok
    | with_reducible apply okOut_next
    | with_reducible exact okOut_fault _
    | intro _
    | dsimp only

theorem execTselk_ok {fl0 : Nat} (f : Form) (s : State) (h_s : s.Ok fl0) : okOut fl0 (execTselk f s) := by
  unfold execTselk
  try dsimp only
  repeat' first
    | with_reducible assumption
    | with_reducible apply runProduce_ok
    | with_reducible apply okOut_next
    | with_reducible exact okOut_fault _
    | intro _
    | dsimp only

/-! FunctionUnit. -/

theorem runFu_ok {fl0 : Nat} (i : Ins) (s : State) (g : Bool → Nat → Nat → Nat → Nat × Nat) (h_s : s.Ok fl0) : okOut fl0 (runFu i s g) := by
  unfold runFu
  try dsimp only
  repeat' first
    | with_reducible assumption
    | with_reducible apply State.withFlags_ok
    | with_reducible apply runIns_ok
    | with_reducible apply State.produce_ok
    | with_reducible apply State.finish_ok
    | with_reducible apply okOut_next
    | with_reducible exact okOut_fault _
    | intro _
    | split
    | dsimp only

theorem execCexp2_ok {fl0 : Nat} (f : Form) (s : State) (h_s : s.Ok fl0) : okOut fl0 (execCexp2 f s) := by
  unfold execCexp2
  try dsimp only
  repeat' first
    | with_reducible assumption
    | with_reducible apply runFu_ok
    | with_reducible apply okOut_next
    | with_reducible exact okOut_fault _
    | intro _
    | dsimp only

theorem execClog2_ok {fl0 : Nat} (f : Form) (s : State) (h_s : s.Ok fl0) : okOut fl0 (execClog2 f s) := by
  unfold execClog2
  try dsimp only
  repeat' first
    | with_reducible assumption
    | with_reducible apply runFu_ok
    | with_reducible apply okOut_next
    | with_reducible exact okOut_fault _
    | intro _
    | dsimp only

theorem execCsin_ok {fl0 : Nat} (f : Form) (s : State) (h_s : s.Ok fl0) : okOut fl0 (execCsin f s) := by
  unfold execCsin
  try dsimp only
  repeat' first
    | with_reducible assumption
    | with_reducible apply runFu_ok
    | with_reducible apply okOut_next
    | with_reducible exact okOut_fault _
    | intro _
    | dsimp only

theorem execCcos_ok {fl0 : Nat} (f : Form) (s : State) (h_s : s.Ok fl0) : okOut fl0 (execCcos f s) := by
  unfold execCcos
  try dsimp only
  repeat' first
    | with_reducible assumption
    | with_reducible apply runFu_ok
    | with_reducible apply okOut_next
    | with_reducible exact okOut_fault _
    | intro _
    | dsimp only

theorem execCsincos_ok {fl0 : Nat} (f : Form) (s : State) (h_s : s.Ok fl0) : okOut fl0 (execCsincos f s) := by
  unfold execCsincos
  try dsimp only
  repeat' first
    | with_reducible assumption
    | with_reducible apply State.withFlags_ok
    | with_reducible apply runIns_ok
    | with_reducible apply State.produce_ok
    | with_reducible apply State.finish_ok
    | with_reducible apply okOut_next
    | with_reducible exact okOut_fault _
    | intro _
    | split
    | dsimp only

theorem execCatan2_ok {fl0 : Nat} (f : Form) (s : State) (h_s : s.Ok fl0) : okOut fl0 (execCatan2 f s) := by
  unfold execCatan2
  try dsimp only
  repeat' first
    | with_reducible assumption
    | with_reducible apply runFu_ok
    | with_reducible apply okOut_next
    | with_reducible exact okOut_fault _
    | dsimp only

theorem execCtanh_ok {fl0 : Nat} (f : Form) (s : State) (h_s : s.Ok fl0) : okOut fl0 (execCtanh f s) := by
  unfold execCtanh
  try dsimp only
  repeat' first
    | with_reducible assumption
    | with_reducible apply runFu_ok
    | with_reducible apply okOut_next
    | with_reducible exact okOut_fault _
    | intro _
    | dsimp only

theorem execCsigm_ok {fl0 : Nat} (f : Form) (s : State) (h_s : s.Ok fl0) : okOut fl0 (execCsigm f s) := by
  unfold execCsigm
  try dsimp only
  repeat' first
    | with_reducible assumption
    | with_reducible apply runFu_ok
    | with_reducible apply okOut_next
    | with_reducible exact okOut_fault _
    | intro _
    | dsimp only

theorem execCrsq_ok {fl0 : Nat} (f : Form) (s : State) (h_s : s.Ok fl0) : okOut fl0 (execCrsq f s) := by
  unfold execCrsq
  try dsimp only
  repeat' first
    | with_reducible assumption
    | with_reducible apply runFu_ok
    | with_reducible apply okOut_next
    | with_reducible exact okOut_fault _
    | intro _
    | dsimp only

theorem execCsqrt_ok {fl0 : Nat} (f : Form) (s : State) (h_s : s.Ok fl0) : okOut fl0 (execCsqrt f s) := by
  unfold execCsqrt
  try dsimp only
  repeat' first
    | with_reducible assumption
    | with_reducible apply runFu_ok
    | with_reducible apply okOut_next
    | with_reducible exact okOut_fault _
    | intro _
    | dsimp only

/-! Control. -/

theorem State.jump_ok {fl0 : Nat} (s : State) (t : Team) (target : W64) (h_s : s.Ok fl0) : (State.jump s t target).Ok fl0 := by
  unfold State.jump
  try dsimp only
  repeat' first
    | with_reducible assumption
    | with_reducible apply State.account_ok
    | with_reducible apply State.setTeam_ok
    | dsimp only
    | with_reducible apply State.Ok.keep

theorem execBra_ok {fl0 : Nat} (f : Form) (s : State) (h_s : s.Ok fl0) : okOut fl0 (execBra f s) := by
  unfold execBra
  try dsimp only
  repeat' first
    | with_reducible assumption
    | with_reducible apply State.jump_ok
    | with_reducible apply runUni_ok
    | with_reducible apply okOut_next
    | with_reducible exact okOut_fault _
    | intro _
    | dsimp only

theorem execBrv_ok {fl0 : Nat} (f : Form) (s : State) (h_s : s.Ok fl0) : okOut fl0 (execBrv f s) := by
  unfold execBrv
  try dsimp only
  repeat' first
    | with_reducible assumption
    | with_reducible apply State.jump_ok
    | with_reducible apply runIns_ok
    | with_reducible apply State.trapLanes_ok
    | with_reducible apply State.finish_ok
    | with_reducible apply okOut_next
    | with_reducible exact okOut_fault _
    | intro _
    | split
    | dsimp only
    | with_reducible apply State.Ok.keep

theorem execBany_ok {fl0 : Nat} (f : Form) (s : State) (h_s : s.Ok fl0) : okOut fl0 (execBany f s) := by
  unfold execBany
  try dsimp only
  repeat' first
    | with_reducible assumption
    | with_reducible apply State.jump_ok
    | with_reducible apply runIns_ok
    | with_reducible apply State.finish_ok
    | with_reducible apply okOut_next
    | with_reducible exact okOut_fault _
    | intro _
    | split
    | dsimp only

theorem execBall_ok {fl0 : Nat} (f : Form) (s : State) (h_s : s.Ok fl0) : okOut fl0 (execBall f s) := by
  unfold execBall
  try dsimp only
  repeat' first
    | with_reducible assumption
    | with_reducible apply State.jump_ok
    | with_reducible apply runIns_ok
    | with_reducible apply State.finish_ok
    | with_reducible apply okOut_next
    | with_reducible exact okOut_fault _
    | intro _
    | split
    | dsimp only

theorem execCall_ok {fl0 : Nat} (f : Form) (s : State) (h_s : s.Ok fl0) : okOut fl0 (execCall f s) := by
  unfold execCall
  try dsimp only
  repeat' first
    | with_reducible assumption
    | with_reducible apply State.jump_ok
    | with_reducible apply runUni_ok
    | with_reducible apply okOut_next
    | with_reducible exact okOut_fault _
    | intro _
    | dsimp only

theorem runRet_ok {fl0 : Nat} (i : Ins) (s : State) (h_s : s.Ok fl0) : okOut fl0 (runRet i s) := by
  unfold runRet
  try dsimp only
  repeat' first
    | with_reducible assumption
    | with_reducible apply State.jump_ok
    | with_reducible apply runUni_ok
    | with_reducible apply State.illegal_ok
    | with_reducible apply okOut_next
    | with_reducible exact okOut_fault _
    | intro _
    | split
    | dsimp only

theorem execRetS_ok {fl0 : Nat} (f : SForm) (s : State) (h_s : s.Ok fl0) : okOut fl0 (execRetS f s) := by
  unfold execRetS
  try dsimp only
  repeat' first
    | with_reducible assumption
    | with_reducible apply runRet_ok
    | with_reducible apply okOut_next
    | with_reducible exact okOut_fault _
    | dsimp only

theorem execRetL_ok {fl0 : Nat} (f : Form) (s : State) (h_s : s.Ok fl0) : okOut fl0 (execRetL f s) := by
  unfold execRetL
  try dsimp only
  repeat' first
    | with_reducible assumption
    | with_reducible apply runRet_ok
    | with_reducible apply okOut_next
    | with_reducible exact okOut_fault _
    | dsimp only

theorem execJmpi_ok {fl0 : Nat} (f : Form) (s : State) (h_s : s.Ok fl0) : okOut fl0 (execJmpi f s) := by
  unfold execJmpi
  try dsimp only
  repeat' first
    | with_reducible assumption
    | with_reducible apply State.jump_ok
    | with_reducible apply runUni_ok
    | with_reducible apply State.illegal_ok
    | with_reducible apply okOut_next
    | with_reducible exact okOut_fault _
    | intro _
    | split
    | dsimp only
    | with_reducible apply State.Ok.keep

theorem execLoop_ok {fl0 : Nat} (f : Form) (s : State) (h_s : s.Ok fl0) : okOut fl0 (execLoop f s) := by
  unfold execLoop
  try dsimp only
  repeat' first
    | with_reducible assumption
    | with_reducible apply State.jump_ok
    | with_reducible apply runUni_ok
    | with_reducible apply State.finish_ok
    | with_reducible apply okOut_next
    | with_reducible exact okOut_fault _
    | intro _
    | split
    | dsimp only

theorem runExit_ok {fl0 : Nat} (i : Ins) (s : State) (h_s : s.Ok fl0) : okOut fl0 (runExit i s) := by
  unfold runExit
  try dsimp only
  repeat' first
    | with_reducible assumption
    | with_reducible apply runIns_ok
    | with_reducible apply State.finish_ok
    | with_reducible apply okOut_next
    | with_reducible exact okOut_fault _
    | intro _
    | split
    | dsimp only

theorem execExitS_ok {fl0 : Nat} (f : SForm) (s : State) (h_s : s.Ok fl0) : okOut fl0 (execExitS f s) := by
  unfold execExitS
  try dsimp only
  repeat' first
    | with_reducible assumption
    | with_reducible apply runExit_ok
    | with_reducible apply okOut_next
    | with_reducible exact okOut_fault _
    | dsimp only

theorem execExitL_ok {fl0 : Nat} (f : Form) (s : State) (h_s : s.Ok fl0) : okOut fl0 (execExitL f s) := by
  unfold execExitL
  try dsimp only
  repeat' first
    | with_reducible assumption
    | with_reducible apply runExit_ok
    | with_reducible apply okOut_next
    | with_reducible exact okOut_fault _
    | dsimp only

theorem State.barrierStep_ok {fl0 : Nat} (s : State) (b : Nat) (h_s : s.Ok fl0) : (State.barrierStep s b).Ok fl0 := by
  unfold State.barrierStep
  try dsimp only
  repeat' first
    | with_reducible assumption
    | with_reducible apply State.unpark_ok
    | with_reducible apply State.syncLt_ok
    | with_reducible apply State.setBlock_ok
    | with_reducible apply State.Ok.foldl
    | with_reducible apply State.Ok.foldl_fst
    | intro _
    | split
    | dsimp only
    | with_reducible apply State.Ok.keep

theorem execBar_ok {fl0 : Nat} (f : SForm) (s : State) (h_s : s.Ok fl0) : okOut fl0 (execBar f s) := by
  unfold execBar
  try dsimp only
  repeat' first
    | with_reducible assumption
    | with_reducible apply State.barrierStep_ok
    | with_reducible apply runUni_ok
    | with_reducible apply State.park_ok
    | with_reducible apply State.finish_ok
    | with_reducible apply State.setBlock_ok
    | with_reducible apply State.setTeam_ok
    | with_reducible apply okOut_next
    | with_reducible exact okOut_fault _
    | intro _
    | split
    | dsimp only
    | with_reducible apply State.Ok.keep

theorem runSleep_ok {fl0 : Nat} (i : Ins) (s : State) (h_s : s.Ok fl0) : okOut fl0 (runSleep i s) := by
  unfold runSleep
  try dsimp only
  repeat' first
    | with_reducible assumption
    | with_reducible apply runUni_ok
    | with_reducible apply State.park_ok
    | with_reducible apply State.finish_ok
    | with_reducible apply State.setTeam_ok
    | with_reducible apply okOut_next
    | with_reducible exact okOut_fault _
    | intro _
    | split
    | dsimp only
    | with_reducible apply State.Ok.keep

theorem execSleepS_ok {fl0 : Nat} (f : SForm) (s : State) (h_s : s.Ok fl0) : okOut fl0 (execSleepS f s) := by
  unfold execSleepS
  try dsimp only
  repeat' first
    | with_reducible assumption
    | with_reducible apply runSleep_ok
    | with_reducible apply okOut_next
    | with_reducible exact okOut_fault _
    | dsimp only

theorem execSleepL_ok {fl0 : Nat} (f : Form) (s : State) (h_s : s.Ok fl0) : okOut fl0 (execSleepL f s) := by
  unfold execSleepL
  try dsimp only
  repeat' first
    | with_reducible assumption
    | with_reducible apply runSleep_ok
    | with_reducible apply okOut_next
    | with_reducible exact okOut_fault _
    | dsimp only

theorem execYield_ok {fl0 : Nat} (f : SForm) (s : State) (h_s : s.Ok fl0) : okOut fl0 (execYield f s) := by
  unfold execYield
  try dsimp only
  repeat' first
    | with_reducible assumption
    | with_reducible apply runUni_ok
    | with_reducible apply State.finish_ok
    | with_reducible apply okOut_next
    | with_reducible exact okOut_fault _
    | intro _
    | dsimp only
    | with_reducible apply State.Ok.keep

theorem execTrap_ok {fl0 : Nat} (f : Form) (s : State) (h_s : s.Ok fl0) : okOut fl0 (execTrap f s) := by
  unfold execTrap
  try dsimp only
  repeat' first
    | with_reducible assumption
    | with_reducible apply runUni_ok
    | with_reducible apply State.trapLanes_ok
    | with_reducible apply okOut_next
    | with_reducible exact okOut_fault _
    | intro _
    | dsimp only

theorem execIll_ok {fl0 : Nat} (word : W32) (s : State) (h_s : s.Ok fl0) : okOut fl0 (execIll word s) := by
  unfold execIll
  try dsimp only
  repeat' first
    | with_reducible assumption
    | with_reducible apply State.illegal_ok
    | with_reducible apply okOut_next
    | with_reducible exact okOut_fault _
    | dsimp only

theorem execReservedOpcode_ok {fl0 : Nat} (word : W32) (s : State) (h_s : s.Ok fl0) : okOut fl0 (execReservedOpcode word s) := by
  unfold execReservedOpcode
  try dsimp only
  repeat' first
    | with_reducible assumption
    | with_reducible apply State.illegal_ok
    | with_reducible apply okOut_next
    | with_reducible exact okOut_fault _
    | split
    | dsimp only

/-! Debug. -/

theorem execRte_ok {fl0 : Nat} (f : SForm) (s : State) (h_s : s.Ok fl0) : okOut fl0 (execRte f s) := by
  unfold execRte
  try dsimp only
  repeat' first
    | with_reducible assumption
    | with_reducible apply runUni_ok
    | with_reducible apply State.rteMma_ok
    | with_reducible apply State.returnTrap_ok
    | with_reducible apply State.account_ok
    | with_reducible apply okOut_next
    | with_reducible exact okOut_fault _
    | intro _
    | dsimp only

theorem runTsb_ok {fl0 : Nat} (i : Ins) (s : State) (h_s : s.Ok fl0) : okOut fl0 (runTsb i s) := by
  unfold runTsb
  try dsimp only
  repeat' first
    | with_reducible assumption
    | with_reducible apply runUni_ok
    | with_reducible apply State.finish_ok
    | with_reducible apply okOut_next
    | with_reducible exact okOut_fault _
    | intro _
    | split
    | dsimp only
    | with_reducible apply State.Ok.keep

theorem execTsbS_ok {fl0 : Nat} (f : SForm) (s : State) (h_s : s.Ok fl0) : okOut fl0 (execTsbS f s) := by
  unfold execTsbS
  try dsimp only
  repeat' first
    | with_reducible assumption
    | with_reducible apply runTsb_ok
    | with_reducible apply okOut_next
    | with_reducible exact okOut_fault _
    | dsimp only

theorem execTsbL_ok {fl0 : Nat} (f : Form) (s : State) (h_s : s.Ok fl0) : okOut fl0 (execTsbL f s) := by
  unfold execTsbL
  try dsimp only
  repeat' first
    | with_reducible assumption
    | with_reducible apply runTsb_ok
    | with_reducible apply okOut_next
    | with_reducible exact okOut_fault _
    | dsimp only

theorem execHaltb_ok {fl0 : Nat} (f : SForm) (s : State) (h_s : s.Ok fl0) : okOut fl0 (execHaltb f s) := by
  unfold execHaltb
  try dsimp only
  repeat' first
    | with_reducible assumption
    | with_reducible apply runUni_ok
    | with_reducible apply State.haltBlock_ok
    | with_reducible apply State.finish_ok
    | with_reducible apply okOut_next
    | with_reducible exact okOut_fault _
    | intro _
    | dsimp only
    | with_reducible apply State.Ok.keep

theorem execStep_ok {fl0 : Nat} (f : SForm) (s : State) (h_s : s.Ok fl0) : okOut fl0 (execStep f s) := by
  unfold execStep
  try dsimp only
  repeat' first
    | with_reducible assumption
    | with_reducible apply runUni_ok
    | with_reducible apply State.finish_ok
    | with_reducible apply okOut_next
    | with_reducible exact okOut_fault _
    | intro _
    | dsimp only
    | with_reducible apply State.Ok.keep

theorem execBkpt_ok {fl0 : Nat} (f : SForm) (s : State) (h_s : s.Ok fl0) : okOut fl0 (execBkpt f s) := by
  unfold execBkpt
  try dsimp only
  repeat' first
    | with_reducible assumption
    | with_reducible apply runUni_ok
    | with_reducible apply State.trapLanes_ok
    | with_reducible apply okOut_next
    | with_reducible exact okOut_fault _
    | intro _
    | dsimp only

theorem execWatch_ok {fl0 : Nat} (f : Form) (s : State) (h_s : s.Ok fl0) : okOut fl0 (execWatch f s) := by
  unfold execWatch
  try dsimp only
  repeat' first
    | with_reducible assumption
    | with_reducible apply runUni_ok
    | with_reducible apply State.finish_ok
    | with_reducible apply okOut_next
    | with_reducible exact okOut_fault _
    | intro _
    | split
    | dsimp only
    | with_reducible apply State.Ok.keep

theorem State.setLantern_ok {fl0 : Nat} (s : State) (k : Nat) (x : W64) (h_s : s.Ok fl0) : (State.setLantern s k x).Ok fl0 := by
  unfold State.setLantern
  try dsimp only
  repeat' first
    | with_reducible assumption
    | with_reducible apply State.Ok.fuses
    | dsimp only
    | with_reducible apply State.Ok.bel

theorem State.lanternPut_ok {fl0 : Nat} (s : State) (i : Nat) (low high : W64) (h_s : s.Ok fl0) : (State.lanternPut s i low high).1.Ok fl0 := by
  unfold State.lanternPut
  try dsimp only
  repeat' first
    | with_reducible assumption
    | with_reducible apply State.setLantern_ok
    | split
    | dsimp only

theorem execMbxw_ok {fl0 : Nat} (f : Form) (s : State) (h_s : s.Ok fl0) : okOut fl0 (execMbxw f s) := by
  unfold execMbxw
  try dsimp only
  repeat' first
    | with_reducible assumption
    | with_reducible apply State.lanternPut_ok
    | with_reducible apply runUni_ok
    | with_reducible apply State.trapLanes_ok
    | with_reducible apply State.produce_ok
    | with_reducible apply okOut_next
    | with_reducible exact okOut_fault _
    | intro _
    | split
    | dsimp only

theorem execMbxr_ok {fl0 : Nat} (f : Form) (s : State) (h_s : s.Ok fl0) : okOut fl0 (execMbxr f s) := by
  unfold execMbxr
  try dsimp only
  repeat' first
    | with_reducible assumption
    | with_reducible apply State.setLantern_ok
    | with_reducible apply runUni_ok
    | with_reducible apply State.trapLanes_ok
    | with_reducible apply State.produce_ok
    | with_reducible apply okOut_next
    | with_reducible exact okOut_fault _
    | intro _
    | split
    | dsimp only

theorem execDebuggerHalt_ok {fl0 : Nat} (s : State) (h_s : s.Ok fl0) : okOut fl0 (execDebuggerHalt s) := by
  unfold execDebuggerHalt
  try dsimp only
  repeat' first
    | with_reducible assumption
    | with_reducible apply State.parkNoted_ok
    | with_reducible apply State.park_ok
    | with_reducible apply State.setBlock_ok
    | with_reducible apply State.Ok.foldl
    | with_reducible apply State.Ok.foldl_fst
    | with_reducible apply okOut_next
    | with_reducible exact okOut_fault _
    | intro _
    | split
    | dsimp only
    | with_reducible apply State.Ok.keep

theorem execDebuggerResume_ok {fl0 : Nat} (s : State) (h_s : s.Ok fl0) : okOut fl0 (execDebuggerResume s) := by
  unfold execDebuggerResume
  try dsimp only
  repeat' first
    | with_reducible assumption
    | with_reducible apply State.unpark_ok
    | with_reducible apply State.setBlock_ok
    | with_reducible apply State.Ok.foldl
    | with_reducible apply State.Ok.foldl_fst
    | with_reducible apply okOut_next
    | with_reducible exact okOut_fault _
    | intro _
    | split
    | dsimp only
    | with_reducible apply State.Ok.keep

end Sys2Proof.Machine
end

