-- ==== Sys2Proof/Laws/KeptAccesses.lean ====
section
/-!
SUPPORT. Every operation of device records, copies, memory instructions and index regions keeps the blown fuses and the canonical form of the memories.
-/
namespace Sys2Proof.Machine

set_option linter.unusedTactic false
set_option linter.unreachableTactic false
set_option linter.unusedSimpArgs false

/-! Records. -/

theorem State.record_ok {fl0 : Nat} (s : State) (vf dir slot : Nat) (h_s : s.Ok fl0) : (State.record s vf dir slot).1.Ok fl0 := by
  unfold State.record
  try dsimp only
  repeat' first
    | with_reducible assumption
    | with_reducible apply State.vread_ok
    | intro _
    | split
    | dsimp only
    | with_reducible apply State.Ok.keep

theorem State.setL2_ok {fl0 : Nat} (s : State) (die k : Nat) (x : L2Line) (h_s : s.Ok fl0) : (State.setL2 s die k x).Ok fl0 := by
  unfold State.setL2
  try dsimp only
  repeat' first
    | with_reducible assumption
    | dsimp only
    | with_reducible apply State.Ok.keep

theorem State.setL1_ok {fl0 : Nat} (s : State) (core k : Nat) (x : L1Sec) (h_s : s.Ok fl0) : (State.setL1 s core k x).Ok fl0 := by
  unfold State.setL1
  try dsimp only
  repeat' first
    | with_reducible assumption
    | dsimp only
    | with_reducible apply State.Ok.keep

theorem State.setNc_ok {fl0 : Nat} (s : State) (core k : Nat) (x : NcSec) (h_s : s.Ok fl0) : (State.setNc s core k x).Ok fl0 := by
  unfold State.setNc
  try dsimp only
  repeat' first
    | with_reducible assumption
    | dsimp only
    | with_reducible apply State.Ok.keep

theorem State.dropL1s_ok {fl0 : Nat} (s : State) (core lo n : Nat) (h_s : s.Ok fl0) : (State.dropL1s s core lo n).Ok fl0 := by
  unfold State.dropL1s
  try dsimp only
  repeat' first
    | with_reducible assumption
    | intro _
    | dsimp only
    | with_reducible apply State.Ok.keep

theorem State.dropHolders_ok {fl0 : Nat} (s : State) (die k : Nat) (h_s : s.Ok fl0) : (State.dropHolders s die k).Ok fl0 := by
  unfold State.dropHolders
  try dsimp only
  repeat' first
    | with_reducible assumption
    | with_reducible apply State.dropL1s_ok
    | with_reducible apply State.Ok.foldl
    | with_reducible apply State.Ok.foldl_fst
    | intro _
    | split
    | dsimp only

theorem State.loseGrain_ok {fl0 : Nat} (s : State) (die k : Nat) (h_s : s.Ok fl0) : (State.loseGrain s die k).Ok fl0 := by
  unfold State.loseGrain
  try dsimp only
  repeat' first
    | with_reducible assumption
    | with_reducible apply State.dropHolders_ok
    | with_reducible apply State.setL2_ok
    | dsimp only

theorem State.sendMsg_ok {fl0 : Nat} (s : State) (i : Instr) (h_s : s.Ok fl0) : (State.sendMsg s i).Ok fl0 := by
  unfold State.sendMsg
  try dsimp only
  repeat' first
    | with_reducible assumption
    | dsimp only
    | with_reducible apply State.Ok.keep

theorem State.askGrain_ok {fl0 : Nat} (s : State) (m : CohMsg) (wr : Bool) (h_s : s.Ok fl0) : (State.askGrain s m wr).Ok fl0 := by
  unfold State.askGrain
  try dsimp only
  repeat' first
    | with_reducible assumption
    | with_reducible apply State.sendMsg_ok
    | split
    | dsimp only

theorem State.setTags_ok {fl0 : Nat} (s : State) (k : Nat) (l : List (Nat × Nat)) (h_s : s.Ok fl0) : (State.setTags s k l).Ok fl0 := by
  unfold State.setTags
  try dsimp only
  repeat' first
    | with_reducible assumption
    | dsimp only
    | with_reducible apply State.Ok.keep

theorem State.touchTag_ok {fl0 : Nat} (s : State) (die k : Nat) (h_s : s.Ok fl0) : (State.touchTag s die k).Ok fl0 := by
  unfold State.touchTag
  try dsimp only
  repeat' first
    | with_reducible assumption
    | with_reducible apply State.setTags_ok
    | intro _
    | split
    | dsimp only
    | with_reducible apply State.Ok.keep

theorem State.flushSector_ok {fl0 : Nat} (s : State) (core k : Nat) (h_s : s.Ok fl0) : (State.flushSector s core k).Ok fl0 := by
  unfold State.flushSector
  try dsimp only
  repeat' first
    | with_reducible assumption
    | with_reducible apply State.setNc_ok
    | with_reducible apply State.writeBack_ok
    | with_reducible apply State.askLog_ok
    | with_reducible apply State.storeParts_ok
    | with_reducible apply State.holdWrite_ok
    | with_reducible apply State.lateParts_ok
    | intro _
    | split
    | dsimp only
    | with_reducible apply State.Ok.keep

theorem State.setCtxTags_ok {fl0 : Nat} (s : State) (core : Nat) (l : List (Nat × Nat)) (h_s : s.Ok fl0) : (State.setCtxTags s core l).Ok fl0 := by
  unfold State.setCtxTags
  try dsimp only
  repeat' first
    | with_reducible assumption
    | dsimp only
    | with_reducible apply State.Ok.keep

theorem State.l1Room_ok {fl0 : Nat} (s : State) (core line : Nat) (h_s : s.Ok fl0) : (State.l1Room s core line).Ok fl0 := by
  unfold State.l1Room
  try dsimp only
  repeat' first
    | with_reducible assumption
    | with_reducible apply State.setCtxTags_ok
    | with_reducible apply State.flushSector_ok
    | with_reducible apply State.useFresh_ok
    | with_reducible apply State.Ok.foldl
    | with_reducible apply State.Ok.foldl_fst
    | intro _
    | split
    | dsimp only
    | with_reducible apply State.Ok.keep

theorem State.ctxTag_ok {fl0 : Nat} (s : State) (core f line : Nat) (h_s : s.Ok fl0) : (State.ctxTag s core f line).Ok fl0 := by
  unfold State.ctxTag
  try dsimp only
  repeat' first
    | with_reducible assumption
    | with_reducible apply State.l1Room_ok
    | with_reducible apply State.setCtxTags_ok
    | split
    | dsimp only

theorem State.fillL1_ok {fl0 : Nat} (s : State) (core : Nat) (sys : Bool) (a n : Nat) (le wts : W64) (h_s : s.Ok fl0) : (State.fillL1 s core sys a n le wts).Ok fl0 := by
  unfold State.fillL1
  try dsimp only
  repeat' first
    | with_reducible assumption
    | with_reducible apply State.l1Room_ok
    | with_reducible apply State.setL1_ok
    | with_reducible apply State.Ok.foldl
    | with_reducible apply State.Ok.foldl_fst
    | intro _
    | dsimp only

theorem State.leaseRead_ok {fl0 : Nat} (s : State) (core die : Nat) (sys : Bool) (grain size : Nat) (h_s : s.Ok fl0) : (State.leaseRead s core die sys grain size).Ok fl0 := by
  unfold State.leaseRead
  try dsimp only
  repeat' first
    | with_reducible assumption
    | with_reducible apply State.fillL1_ok
    | with_reducible apply State.touchTag_ok
    | with_reducible apply State.setL2_ok
    | with_reducible apply State.setLt_ok
    | dsimp only
    | with_reducible apply State.Ok.keep

theorem State.leaseWriteAt_ok {fl0 : Nat} (s : State) (core die : Nat) (sys : Bool) (grain size : Nat) (t : W64) (h_s : s.Ok fl0) : (State.leaseWriteAt s core die sys grain size t).Ok fl0 := by
  unfold State.leaseWriteAt
  try dsimp only
  repeat' first
    | with_reducible assumption
    | with_reducible apply State.fillL1_ok
    | with_reducible apply State.touchTag_ok
    | with_reducible apply State.setL2_ok
    | with_reducible apply State.setLt_ok
    | dsimp only
    | with_reducible apply State.Ok.keep

theorem State.leaseWrite_ok {fl0 : Nat} (s : State) (core die : Nat) (sys : Bool) (grain size : Nat) (h_s : s.Ok fl0) : (State.leaseWrite s core die sys grain size).Ok fl0 := by
  unfold State.leaseWrite
  try dsimp only
  repeat' first
    | with_reducible assumption
    | with_reducible apply State.leaseWriteAt_ok
    | dsimp only

theorem State.engineWrite_ok {fl0 : Nat} (s : State) (die : Nat) (sys : Bool) (grain : Nat) (h_s : s.Ok fl0) : (State.engineWrite s die sys grain).Ok fl0 := by
  unfold State.engineWrite
  try dsimp only
  repeat' first
    | with_reducible assumption
    | with_reducible apply State.touchTag_ok
    | with_reducible apply State.setL2_ok
    | with_reducible apply State.setLt_ok
    | dsimp only
    | with_reducible apply State.Ok.keep

theorem State.dropGrains_ok {fl0 : Nat} (s : State) (die : Nat) (t : Tr) (n : Nat) (h_s : s.Ok fl0) : (State.dropGrains s die t n).Ok fl0 := by
  unfold State.dropGrains
  try dsimp only
  repeat' first
    | with_reducible assumption
    | with_reducible apply State.dropHolders_ok
    | with_reducible apply State.setL2_ok
    | with_reducible apply State.Ok.foldl
    | with_reducible apply State.Ok.foldl_fst
    | intro _
    | split
    | dsimp only
    | with_reducible apply State.Ok.keep

theorem State.joinRead_ok {fl0 : Nat} (s : State) (die core : Nat) (sys : Bool) (grain : Nat) (h_s : s.Ok fl0) : (State.joinRead s die core sys grain).Ok fl0 := by
  unfold State.joinRead
  try dsimp only
  repeat' first
    | with_reducible assumption
    | split
    | dsimp only
    | with_reducible apply State.Ok.keep

theorem State.readSector_ok {fl0 : Nat} (s : State) (core slot : Nat) (t : Tr) (a n : Nat) (h_s : s.Ok fl0) : (State.readSector s core slot t a n).1.Ok fl0 := by
  unfold State.readSector
  try dsimp only
  repeat' first
    | with_reducible assumption
    | with_reducible apply State.joinRead_ok
    | with_reducible apply State.leaseRead_ok
    | with_reducible apply State.l1Room_ok
    | with_reducible apply State.askGrain_ok
    | with_reducible apply State.setNc_ok
    | with_reducible apply State.setLt_ok
    | intro _
    | split
    | dsimp only
    | with_reducible apply State.Ok.keep

theorem State.dropClean_ok {fl0 : Nat} (s : State) (core k : Nat) (h_s : s.Ok fl0) : (State.dropClean s core k).Ok fl0 := by
  unfold State.dropClean
  try dsimp only
  repeat' first
    | with_reducible assumption
    | with_reducible apply State.setNc_ok
    | split
    | dsimp only

theorem State.coreRead_ok {fl0 : Nat} (s0 : State) (core slot : Nat) (t : Tr) (n : Nat) (h_s0 : s0.Ok fl0) : (State.coreRead s0 core slot t n).1.Ok fl0 := by
  unfold State.coreRead
  try dsimp only
  repeat' first
    | with_reducible assumption
    | with_reducible apply State.readSector_ok
    | with_reducible apply State.touchFrame_ok
    | with_reducible apply State.Ok.foldl
    | with_reducible apply State.Ok.foldl_fst
    | intro _
    | split
    | dsimp only

theorem State.coreWroteBoth_ok {fl0 : Nat} (s : State) (core : Nat) (t : Tr) (n : Nat) (t' : Tr) (n' : Nat) (h_s : s.Ok fl0) : (State.coreWroteBoth s core t n t' n').Ok fl0 := by
  unfold State.coreWroteBoth
  try dsimp only
  repeat' first
    | with_reducible assumption
    | with_reducible apply State.leaseWriteAt_ok
    | with_reducible apply State.Ok.foldl
    | with_reducible apply State.Ok.foldl_fst
    | intro _
    | dsimp only

theorem State.coreWrote_ok {fl0 : Nat} (s : State) (core : Nat) (t : Tr) (n : Nat) (h_s : s.Ok fl0) : (State.coreWrote s core t n).Ok fl0 := by
  unfold State.coreWrote
  try dsimp only
  repeat' first
    | with_reducible assumption
    | with_reducible apply State.leaseWrite_ok
    | with_reducible apply State.Ok.foldl
    | with_reducible apply State.Ok.foldl_fst
    | intro _
    | split
    | dsimp only

theorem State.putNc_ok {fl0 : Nat} (s : State) (core a : Nat) (b : Byte) (cmp : Bool) (h_s : s.Ok fl0) : (State.putNc s core a b cmp).Ok fl0 := by
  unfold State.putNc
  try dsimp only
  repeat' first
    | with_reducible assumption
    | with_reducible apply State.setNc_ok
    | dsimp only

theorem State.coreStore_ok {fl0 : Nat} (s : State) (core : Nat) (t : Tr) (bs : List Byte) (w : Writer) (va : Nat) (h_s : s.Ok fl0) : (State.coreStore s core t bs w va).1.Ok fl0 := by
  unfold State.coreStore
  try dsimp only
  repeat' first
    | with_reducible assumption
    | with_reducible apply State.putNc_ok
    | with_reducible apply State.coreWrote_ok
    | with_reducible apply State.coreRead_ok
    | with_reducible apply State.storeDirty_ok
    | with_reducible apply State.Ok.foldl
    | with_reducible apply State.Ok.foldl_fst
    | intro _
    | split
    | dsimp only
    | with_reducible apply State.Ok.keep

theorem State.askOwned_ok {fl0 : Nat} (s : State) (core slot : Nat) (t : Tr) (n : Nat) (h_s : s.Ok fl0) : (State.askOwned s core slot t n).Ok fl0 := by
  unfold State.askOwned
  try dsimp only
  repeat' first
    | with_reducible assumption
    | with_reducible apply State.askGrain_ok
    | with_reducible apply State.Ok.foldl
    | with_reducible apply State.Ok.foldl_fst
    | intro _
    | dsimp only
    | with_reducible apply State.Ok.keep

theorem State.touchEngine_ok {fl0 : Nat} (s0 : State) (die : Nat) (t : Tr) (n : Nat) (wr : Bool) (h_s0 : s0.Ok fl0) : (State.touchEngine s0 die t n wr).Ok fl0 := by
  unfold State.touchEngine
  try dsimp only
  repeat' first
    | with_reducible assumption
    | with_reducible apply State.engineWrite_ok
    | with_reducible apply State.touchTag_ok
    | with_reducible apply State.askGrain_ok
    | with_reducible apply State.touchFrame_ok
    | with_reducible apply State.Ok.foldl
    | with_reducible apply State.Ok.foldl_fst
    | intro _
    | split
    | dsimp only

/-! Copies. -/

theorem State.setBar_ok {fl0 : Nat} (s : State) (k w0 w1 : Nat) (h_s : s.Ok fl0) : (State.setBar s k w0 w1).Ok fl0 := by
  unfold State.setBar
  try dsimp only
  repeat' first
    | with_reducible assumption
    | with_reducible apply wf_writeMem
    | with_reducible apply wf_filterMem
    | with_reducible apply wf_foldlMem
    | with_reducible apply wf_putMem
    | with_reducible apply State.Ok.wfMem
    | with_reducible apply State.Ok.wfSys
    | with_reducible apply State.Ok.wfCore
    | dsimp only
    | with_reducible apply State.Ok.keep
    | with_reducible apply State.Ok.cm

theorem State.barRelease_ok {fl0 : Nat} (s : State) (bi k : Nat) (h_s : s.Ok fl0) : (State.barRelease s bi k).Ok fl0 := by
  unfold State.barRelease
  try dsimp only
  repeat' first
    | with_reducible assumption
    | with_reducible apply State.setBar_ok
    | with_reducible apply State.unpark_ok
    | with_reducible apply State.Ok.foldl
    | with_reducible apply State.Ok.foldl_fst
    | intro _
    | split
    | dsimp only

theorem State.barCount_ok {fl0 : Nat} (s : State) (bi k c err miss : Nat) (h_s : s.Ok fl0) : (State.barCount s bi k c err miss).Ok fl0 := by
  unfold State.barCount
  try dsimp only
  repeat' first
    | with_reducible assumption
    | with_reducible apply State.barRelease_ok
    | with_reducible apply State.setBar_ok
    | split
    | dsimp only

/-! Memory. -/

theorem State.planWalk_ok {fl0 : Nat} (s : State) (vf l key off va : Nat) (w : Want) (p : Plan) (h_s : s.Ok fl0) : (State.planWalk s vf l key off va w p).1.Ok fl0 := by
  unfold State.planWalk
  try dsimp only
  repeat' first
    | with_reducible assumption
    | with_reducible apply State.walk_ok
    | intro _
    | split
    | dsimp only
    | with_reducible apply State.Ok.keep

theorem State.plan_ok {fl0 : Nat} (s : State) (i : Ins) (t : Team) (ls : List Nat) (w : Want) (h_s : s.Ok fl0) : (State.plan s i t ls w).1.Ok fl0 := by
  unfold State.plan
  try dsimp only
  repeat' first
    | with_reducible assumption
    | with_reducible apply State.planWalk_ok
    | with_reducible apply State.record_ok
    | with_reducible apply State.Ok.foldl
    | with_reducible apply State.Ok.foldl_fst
    | intro _
    | split
    | dsimp only
    | with_reducible apply State.Ok.keep

theorem State.trapFails_ok {fl0 : Nat} (s : State) (i : Ins) (fs : List Fail) (h_s : s.Ok fl0) : (State.trapFails s i fs).Ok fl0 := by
  unfold State.trapFails
  try dsimp only
  repeat' first
    | with_reducible assumption
    | with_reducible apply State.trapAt_ok
    | intro _
    | split
    | dsimp only
    | with_reducible apply State.Ok.keep

theorem State.watchTrap_ok {fl0 : Nat} (s : State) (i : Ins) (t : Team) (slot n : Nat) (rd wr : Bool) (accs : List Acc) (h_s : s.Ok fl0) : ∀ u_, (State.watchTrap s i t slot n rd wr accs) = some u_ → u_.Ok fl0 := by
  intro u e
  unfold State.watchTrap at e
  dsimp only at e
  split at e
  · cases e
  · split at e
    · cases e
    · cases e; exact State.trapFails_ok _ _ _ h_s

theorem State.reject_ok {fl0 : Nat} (s : State) (i : Nat) (h_s : s.Ok fl0) : (State.reject s i).Ok fl0 := by
  unfold State.reject
  try dsimp only
  repeat' first
    | with_reducible assumption
    | with_reducible apply State.setTeam_ok
    | split
    | dsimp only
    | with_reducible apply State.Ok.keep

theorem State.entered_ok {fl0 : Nat} (s : State) (i : Nat) (h_s : s.Ok fl0) : (State.entered s i).Ok fl0 := by
  unfold State.entered
  try dsimp only
  repeat' first
    | with_reducible assumption
    | with_reducible apply State.setTeam_ok
    | intro _
    | split
    | dsimp only
    | with_reducible apply State.Ok.keep

theorem State.settle_ok {fl0 : Nat} (s : State) (i : Ins) (t : Team) (p : Plan) (extra : List Fail) (n : Nat) (rd wr : Bool)
    (k : State → State) (h_s : s.Ok fl0) (h_k : ∀ u : State, u.Ok fl0 → (k u).Ok fl0) : (State.settle s i t p extra n rd wr k).Ok fl0 := by
  unfold State.settle
  try dsimp only
  repeat' first
    | with_reducible assumption
    | with_reducible apply h_k
    | with_reducible apply State.reject_ok
    | refine State.watchTrap_ok _ _ _ _ _ _ _ _ ?_ _ (by assumption)
    | with_reducible apply State.trapFails_ok
    | with_reducible apply State.pageFault_ok
    | intro _
    | split
    | dsimp only
    | with_reducible apply State.Ok.keep

theorem State.putCore_ok {fl0 : Nat} (s : State) (k : Nat) (bs : List Byte) (h_s : s.Ok fl0) : (State.putCore s k bs).Ok fl0 := by
  unfold State.putCore
  try dsimp only
  repeat' first
    | with_reducible assumption
    | with_reducible apply State.Ok.foldl
    | with_reducible apply State.Ok.foldl_fst
    | with_reducible apply wf_writeMem
    | with_reducible apply wf_filterMem
    | with_reducible apply wf_foldlMem
    | with_reducible apply wf_putMem
    | with_reducible apply State.Ok.wfMem
    | with_reducible apply State.Ok.wfSys
    | with_reducible apply State.Ok.wfCore
    | intro _
    | dsimp only
    | with_reducible apply State.Ok.keep
    | with_reducible apply State.Ok.cm

theorem State.storePlace_ok {fl0 : Nat} (s : State) (x : Place) (bs : List Byte) (w : Writer) (h_s : s.Ok fl0) : (State.storePlace s x bs w).1.Ok fl0 := by
  unfold State.storePlace
  try dsimp only
  repeat' first
    | with_reducible assumption
    | with_reducible apply State.putCore_ok
    | with_reducible apply State.storeTr_ok
    | intro _
    | split
    | dsimp only
    | with_reducible apply State.Ok.keep

theorem State.noteHeld_ok {fl0 : Nat} (s : State) (i : Nat) (h_s : s.Ok fl0) : (State.noteHeld s i).Ok fl0 := by
  unfold State.noteHeld
  try dsimp only
  repeat' first
    | with_reducible assumption
    | with_reducible apply State.setTeam_ok
    | with_reducible apply State.Ok.foldl
    | with_reducible apply State.Ok.foldl_fst
    | intro _
    | split
    | dsimp only
    | with_reducible apply State.Ok.keep

theorem State.noteLogs_ok {fl0 : Nat} (s : State) (n : Nat) (h_s : s.Ok fl0) : (State.noteLogs s n).Ok fl0 := by
  unfold State.noteLogs
  try dsimp only
  repeat' first
    | with_reducible assumption
    | with_reducible apply State.dlogRecord_ok
    | with_reducible apply State.Ok.foldl
    | with_reducible apply State.Ok.foldl_fst
    | intro _
    | dsimp only

theorem State.askUnits_ok {fl0 : Nat} (s : State) (core slot : Nat) (r : Rest) (us : List AUnit) (h_s : s.Ok fl0) : (State.askUnits s core slot r us).Ok fl0 := by
  unfold State.askUnits
  try dsimp only
  repeat' first
    | with_reducible assumption
    | with_reducible apply State.askOwned_ok
    | with_reducible apply State.Ok.foldl
    | with_reducible apply State.Ok.foldl_fst
    | intro _
    | split
    | dsimp only
    | with_reducible apply State.Ok.keep

theorem State.pairUp_ok {fl0 : Nat} (s : State) (core : Nat) (a b : Tr) (h_s : s.Ok fl0) : (State.pairUp s core a b).Ok fl0 := by
  unfold State.pairUp
  try dsimp only
  repeat' first
    | with_reducible assumption
    | with_reducible apply State.dropClean_ok
    | with_reducible apply State.dropL1s_ok
    | split
    | dsimp only

theorem State.readUnit_ok {fl0 : Nat} (s0 : State) (core slot n : Nat) (u : AUnit) (h_s0 : s0.Ok fl0) : (State.readUnit s0 core slot n u).1.Ok fl0 := by
  unfold State.readUnit
  try dsimp only
  repeat' first
    | with_reducible assumption
    | with_reducible apply State.pairUp_ok
    | with_reducible apply State.coreRead_ok
    | intro _
    | split
    | dsimp only
    | with_reducible apply State.Ok.keep

theorem State.readUnits_ok {fl0 : Nat} (s : State) (core slot n : Nat) (us : List AUnit) (h_s : s.Ok fl0) : (State.readUnits s core slot n us).1.Ok fl0 := by
  unfold State.readUnits
  try dsimp only
  repeat' first
    | with_reducible assumption
    | with_reducible apply State.readUnit_ok
    | with_reducible apply State.Ok.foldl
    | with_reducible apply State.Ok.foldl_fst
    | intro _
    | dsimp only

theorem State.loadUnits_ok {fl0 : Nat} (s : State) (i : Nat) (r : Rest) (us : List AUnit) (h_s : s.Ok fl0) : (State.loadUnits s i r us).Ok fl0 := by
  unfold State.loadUnits
  try dsimp only
  repeat' first
    | with_reducible assumption
    | with_reducible apply State.readUnits_ok
    | intro _
    | split
    | dsimp only
    | with_reducible apply State.Ok.keep

theorem State.storeUnit_ok {fl0 : Nat} (s : State) (core : Nat) (r : Rest) (w : Writer) (u : AUnit) (h_s : s.Ok fl0) : (State.storeUnit s core r w u).1.Ok fl0 := by
  unfold State.storeUnit
  try dsimp only
  repeat' first
    | with_reducible assumption
    | with_reducible apply State.coreStore_ok
    | with_reducible apply State.putNc_ok
    | with_reducible apply State.coreWroteBoth_ok
    | with_reducible apply State.coreRead_ok
    | with_reducible apply State.storeDirty_ok
    | with_reducible apply State.Ok.foldl
    | with_reducible apply State.Ok.foldl_fst
    | intro _
    | split
    | dsimp only
    | with_reducible apply State.Ok.keep

theorem State.storeUnits_ok {fl0 : Nat} (s : State) (i : Nat) (r : Rest) (us : List AUnit) (h_s : s.Ok fl0) : (State.storeUnits s i r us).Ok fl0 := by
  unfold State.storeUnits
  try dsimp only
  repeat' first
    | with_reducible assumption
    | with_reducible apply State.storeUnit_ok
    | with_reducible apply State.setTeam_ok
    | with_reducible apply State.Ok.foldl
    | with_reducible apply State.Ok.foldl_fst
    | intro _
    | split
    | dsimp only

theorem State.sendAtoms_ok {fl0 : Nat} (s : State) (i : Nat) (r : Rest) (us : List AUnit) (h_s : s.Ok fl0) : (State.sendAtoms s i r us).Ok fl0 := by
  unfold State.sendAtoms
  try dsimp only
  repeat' first
    | with_reducible assumption
    | with_reducible apply State.sendMsg_ok
    | with_reducible apply State.Ok.foldl
    | with_reducible apply State.Ok.foldl_fst
    | intro _
    | dsimp only
    | with_reducible apply State.Ok.keep

theorem State.doUnits_ok {fl0 : Nat} (s : State) (i : Nat) (r : Rest) (us : List AUnit) (h_s : s.Ok fl0) : (State.doUnits s i r us).Ok fl0 := by
  unfold State.doUnits
  try dsimp only
  repeat' first
    | with_reducible assumption
    | with_reducible apply State.sendAtoms_ok
    | with_reducible apply State.storeUnits_ok
    | with_reducible apply State.loadUnits_ok
    | split
    | dsimp only

theorem State.stored_ok {fl0 : Nat} (s : State) (i bytes : Nat) (h_s : s.Ok fl0) : (State.stored s i bytes).Ok fl0 := by
  unfold State.stored
  try dsimp only
  repeat' first
    | with_reducible assumption
    | with_reducible apply State.account_ok
    | with_reducible apply State.setTeam_ok
    | split
    | dsimp only
    | with_reducible apply State.Ok.keep

theorem State.runRest_ok {fl0 : Nat} (s : State) (i : Nat) (r0 : Rest) (h_s : s.Ok fl0) : (State.runRest s i r0).Ok fl0 := by
  unfold State.runRest
  try dsimp only
  repeat' first
    | with_reducible assumption
    | with_reducible apply State.stored_ok
    | with_reducible apply State.doUnits_ok
    | with_reducible apply State.askUnits_ok
    | with_reducible apply State.noteLogs_ok
    | with_reducible apply State.noteHeld_ok
    | with_reducible apply State.entered_ok
    | with_reducible apply State.reject_ok
    | with_reducible apply State.setTeam_ok
    | split
    | dsimp only
    | with_reducible apply State.Ok.keep

theorem State.runUnits_ok {fl0 : Nat} (s : State) (i : Ins) (t : Team) (enc ilv n : Nat) (us : List AUnit) (h_s : s.Ok fl0) : (State.runUnits s i t enc ilv n us).Ok fl0 := by
  unfold State.runUnits
  try dsimp only
  repeat' first
    | with_reducible assumption
    | with_reducible apply State.runRest_ok
    | with_reducible apply State.issued_ok
    | with_reducible apply State.useFresh_ok
    | dsimp only
    | with_reducible apply State.Ok.keep

theorem State.landCore_ok {fl0 : Nat} (s : State) (i : Ins) (t : Team) (ls : List Nat) (set : Nat) (dsts : List Dst) (bad : List (Acc × Nat)) (h_s : s.Ok fl0) : (State.landCore s i t ls set dsts bad).Ok fl0 := by
  unfold State.landCore
  try dsimp only
  repeat' first
    | with_reducible assumption
    | with_reducible apply State.sendReply_ok
    | with_reducible apply State.issued_ok
    | dsimp only

theorem execLd_ok {fl0 : Nat} (f : Form) (s : State) (h_s : s.Ok fl0) : okOut fl0 (execLd f s) := by
  unfold execLd
  try dsimp only
  repeat' first
    | with_reducible assumption
    | with_reducible apply State.landCore_ok
    | with_reducible apply State.runUnits_ok
    | with_reducible apply State.settle_ok
    | with_reducible apply State.plan_ok
    | with_reducible apply runIns_ok
    | with_reducible apply State.finish_ok
    | with_reducible apply okOut_next
    | with_reducible exact okOut_fault _
    | intro _
    | split
    | dsimp only

theorem State.storeCore_ok {fl0 : Nat} (s : State) (ws : List (Acc × List Byte)) (h_s : s.Ok fl0) : (State.storeCore s ws).Ok fl0 := by
  unfold State.storeCore
  try dsimp only
  repeat' first
    | with_reducible assumption
    | with_reducible apply State.putCore_ok
    | with_reducible apply State.Ok.foldl
    | with_reducible apply State.Ok.foldl_fst
    | intro _
    | split
    | dsimp only
    | with_reducible apply State.Ok.keep

theorem execSt_ok {fl0 : Nat} (f : Form) (s : State) (h_s : s.Ok fl0) : okOut fl0 (execSt f s) := by
  unfold execSt
  try dsimp only
  repeat' first
    | with_reducible assumption
    | with_reducible apply State.storeCore_ok
    | with_reducible apply State.runUnits_ok
    | with_reducible apply State.settle_ok
    | with_reducible apply State.plan_ok
    | with_reducible apply runIns_ok
    | with_reducible apply State.finish_ok
    | with_reducible apply State.Ok.foldl
    | with_reducible apply State.Ok.foldl_fst
    | with_reducible apply okOut_next
    | with_reducible exact okOut_fault _
    | intro _
    | split
    | dsimp only

theorem State.scaleRecord_ok {fl0 : Nat} (s : State) (t : Team) (r : Rec) (h_s : s.Ok fl0) : (State.scaleRecord s t r).1.Ok fl0 := by
  unfold State.scaleRecord
  try dsimp only
  repeat' first
    | with_reducible assumption
    | with_reducible apply State.record_ok
    | split
    | dsimp only

theorem State.planBlocks_ok {fl0 : Nat} (s : State) (i : Ins) (t : Team) (ls : List Nat) (wr : Bool) (h_s : s.Ok fl0) : (State.planBlocks s i t ls wr).1.Ok fl0 := by
  unfold State.planBlocks
  try dsimp only
  repeat' first
    | with_reducible assumption
    | with_reducible apply State.scaleRecord_ok
    | with_reducible apply State.planWalk_ok
    | with_reducible apply State.record_ok
    | with_reducible apply State.Ok.foldl
    | with_reducible apply State.Ok.foldl_fst
    | intro _
    | split
    | dsimp only
    | with_reducible apply State.Ok.keep

theorem execLdb_ok {fl0 : Nat} (f : Form) (s : State) (h_s : s.Ok fl0) : okOut fl0 (execLdb f s) := by
  unfold execLdb
  try dsimp only
  repeat' first
    | with_reducible assumption
    | with_reducible apply State.planBlocks_ok
    | with_reducible apply State.runUnits_ok
    | with_reducible apply State.settle_ok
    | with_reducible apply State.trapFails_ok
    | with_reducible apply runIns_ok
    | with_reducible apply State.finish_ok
    | with_reducible apply okOut_next
    | with_reducible exact okOut_fault _
    | intro _
    | split
    | dsimp only
    | with_reducible apply State.Ok.keep

theorem execStb_ok {fl0 : Nat} (f : Form) (s : State) (h_s : s.Ok fl0) : okOut fl0 (execStb f s) := by
  unfold execStb
  try dsimp only
  repeat' first
    | with_reducible assumption
    | with_reducible apply State.planBlocks_ok
    | with_reducible apply State.runUnits_ok
    | with_reducible apply State.settle_ok
    | with_reducible apply State.trapFails_ok
    | with_reducible apply runIns_ok
    | with_reducible apply State.finish_ok
    | with_reducible apply okOut_next
    | with_reducible exact okOut_fault _
    | intro _
    | split
    | dsimp only
    | with_reducible apply State.Ok.keep

theorem State.amoAt_ok {fl0 : Nat} (s : State) (pl : Place) (n : Nat) (a : HeldAmo) (w : Writer) (h_s : s.Ok fl0) : (State.amoAt s pl n a w).1.Ok fl0 := by
  unfold State.amoAt
  try dsimp only
  repeat' first
    | with_reducible assumption
    | with_reducible apply State.putCore_ok
    | with_reducible apply State.storeDirty_ok
    | intro _
    | split
    | dsimp only
    | with_reducible apply State.Ok.keep

theorem runAmo_ok {fl0 : Nat} (i : Ins) (s : State) (h_s : s.Ok fl0) : okOut fl0 (runAmo i s) := by
  unfold runAmo
  try dsimp only
  repeat' first
    | with_reducible assumption
    | with_reducible apply State.amoAt_ok
    | with_reducible apply State.landCore_ok
    | with_reducible apply State.runUnits_ok
    | with_reducible apply State.settle_ok
    | with_reducible apply State.plan_ok
    | with_reducible apply runIns_ok
    | with_reducible apply State.finish_ok
    | with_reducible apply State.Ok.foldl
    | with_reducible apply State.Ok.foldl_fst
    | with_reducible apply okOut_next
    | with_reducible exact okOut_fault _
    | intro _
    | split
    | dsimp only
    | with_reducible apply State.Ok.keep

theorem execAmo_ok {fl0 : Nat} (f : Form) (s : State) (h_s : s.Ok fl0) : okOut fl0 (execAmo f s) := by
  unfold execAmo
  try dsimp only
  repeat' first
    | with_reducible assumption
    | with_reducible apply runAmo_ok
    | with_reducible apply okOut_next
    | with_reducible exact okOut_fault _
    | dsimp only

theorem execAmn_ok {fl0 : Nat} (f : Form) (s : State) (h_s : s.Ok fl0) : okOut fl0 (execAmn f s) := by
  unfold execAmn
  try dsimp only
  repeat' first
    | with_reducible assumption
    | with_reducible apply runAmo_ok
    | with_reducible apply okOut_next
    | with_reducible exact okOut_fault _
    | dsimp only

theorem execAcas_ok {fl0 : Nat} (f : Form) (s : State) (h_s : s.Ok fl0) : okOut fl0 (execAcas f s) := by
  unfold execAcas
  try dsimp only
  repeat' first
    | with_reducible assumption
    | with_reducible apply runAmo_ok
    | with_reducible apply okOut_next
    | with_reducible exact okOut_fault _
    | dsimp only

theorem State.flushNc_ok {fl0 : Nat} (s : State) (core vf : Nat) (h_s : s.Ok fl0) : (State.flushNc s core vf).Ok fl0 := by
  unfold State.flushNc
  try dsimp only
  repeat' first
    | with_reducible assumption
    | with_reducible apply State.flushSector_ok
    | with_reducible apply State.Ok.foldl
    | with_reducible apply State.Ok.foldl_fst
    | intro _
    | dsimp only

theorem State.dropNc_ok {fl0 : Nat} (s : State) (core vf : Nat) (h_s : s.Ok fl0) : (State.dropNc s core vf).Ok fl0 := by
  unfold State.dropNc
  try dsimp only
  repeat' first
    | with_reducible assumption
    | intro _
    | dsimp only
    | with_reducible apply State.Ok.keep

theorem State.maintain_ok {fl0 : Nat} (s : State) (core vf p q scope : Nat) (h_s : s.Ok fl0) : (State.maintain s core vf p q scope).Ok fl0 := by
  unfold State.maintain
  try dsimp only
  repeat' first
    | with_reducible assumption
    | with_reducible apply State.dropNc_ok
    | with_reducible apply State.flushNc_ok
    | with_reducible apply State.syncLt_ok
    | split
    | dsimp only

theorem execFence_ok {fl0 : Nat} (f : Form) (s : State) (h_s : s.Ok fl0) : okOut fl0 (execFence f s) := by
  unfold execFence
  try dsimp only
  repeat' first
    | with_reducible assumption
    | with_reducible apply State.maintain_ok
    | with_reducible apply runUni_ok
    | with_reducible apply State.finish_ok
    | with_reducible apply okOut_next
    | with_reducible exact okOut_fault _
    | intro _
    | split
    | dsimp only

theorem execPref_ok {fl0 : Nat} (f : Form) (s : State) (h_s : s.Ok fl0) : okOut fl0 (execPref f s) := by
  unfold execPref
  try dsimp only
  repeat' first
    | with_reducible assumption
    | with_reducible apply State.plan_ok
    | with_reducible apply State.touchEngine_ok
    | with_reducible apply State.coreRead_ok
    | with_reducible apply State.finish_ok
    | with_reducible apply State.Ok.foldl
    | with_reducible apply State.Ok.foldl_fst
    | with_reducible apply okOut_next
    | with_reducible exact okOut_fault _
    | intro _
    | split
    | dsimp only
    | with_reducible apply State.Ok.keep

theorem State.planParam_ok {fl0 : Nat} (s : State) (i : Ins) (t : Team) (ls : List Nat) (n : Nat) (h_s : s.Ok fl0) : (State.planParam s i t ls n).1.Ok fl0 := by
  unfold State.planParam
  try dsimp only
  repeat' first
    | with_reducible assumption
    | with_reducible apply State.planWalk_ok
    | with_reducible apply State.Ok.foldl
    | with_reducible apply State.Ok.foldl_fst
    | intro _
    | split
    | dsimp only
    | with_reducible apply State.Ok.keep

theorem execLdc_ok {fl0 : Nat} (f : Form) (s : State) (h_s : s.Ok fl0) : okOut fl0 (execLdc f s) := by
  unfold execLdc
  try dsimp only
  repeat' first
    | with_reducible assumption
    | with_reducible apply State.planParam_ok
    | with_reducible apply State.runUnits_ok
    | with_reducible apply State.settle_ok
    | with_reducible apply runIns_ok
    | with_reducible apply State.finish_ok
    | with_reducible apply okOut_next
    | with_reducible exact okOut_fault _
    | intro _
    | split
    | dsimp only

/-! TableOps. -/

theorem State.planTable_ok {fl0 : Nat} (s : State) (i : Ins) (t : Team) (ls : List Nat) (h_s : s.Ok fl0) : (State.planTable s i t ls).1.Ok fl0 := by
  unfold State.planTable
  try dsimp only
  repeat' first
    | with_reducible assumption
    | with_reducible apply State.record_ok
    | with_reducible apply State.Ok.foldl
    | with_reducible apply State.Ok.foldl_fst
    | intro _
    | split
    | dsimp only
    | with_reducible apply State.Ok.keep

theorem State.tableWatch_ok {fl0 : Nat} (s : State) (i : Ins) (t : Team) (ls : List Nat) (h_s : s.Ok fl0) : ∀ u_, (State.tableWatch s i t ls) = some u_ → u_.Ok fl0 := by
  intro u e
  unfold State.tableWatch at e
  dsimp only at e
  split at e
  · cases e
  · exact State.watchTrap_ok _ _ _ _ _ _ _ _ h_s _ e

theorem runTable_ok {fl0 : Nat} (i : Ins) (s : State) (h_s : s.Ok fl0) : okOut fl0 (runTable i s) := by
  unfold runTable
  try dsimp only
  repeat' first
    | with_reducible assumption
    | refine State.tableWatch_ok _ _ _ _ ?_ _ (by assumption)
    | with_reducible apply State.planTable_ok
    | with_reducible apply State.entered_ok
    | with_reducible apply State.reject_ok
    | with_reducible apply State.trapFails_ok
    | with_reducible apply State.pageFault_ok
    | with_reducible apply runIns_ok
    | with_reducible apply State.finish_ok
    | with_reducible apply State.setTeam_ok
    | with_reducible apply okOut_next
    | with_reducible exact okOut_fault _
    | intro _
    | split
    | dsimp only
    | with_reducible apply State.Ok.keep

theorem execTlook_ok {fl0 : Nat} (f : Form) (s : State) (h_s : s.Ok fl0) : okOut fl0 (execTlook f s) := by
  unfold execTlook
  try dsimp only
  repeat' first
    | with_reducible assumption
    | with_reducible apply runTable_ok
    | with_reducible apply okOut_next
    | with_reducible exact okOut_fault _
    | dsimp only

theorem execTins_ok {fl0 : Nat} (f : Form) (s : State) (h_s : s.Ok fl0) : okOut fl0 (execTins f s) := by
  unfold execTins
  try dsimp only
  repeat' first
    | with_reducible assumption
    | with_reducible apply runTable_ok
    | with_reducible apply okOut_next
    | with_reducible exact okOut_fault _
    | dsimp only

theorem execTdel_ok {fl0 : Nat} (f : Form) (s : State) (h_s : s.Ok fl0) : okOut fl0 (execTdel f s) := by
  unfold execTdel
  try dsimp only
  repeat' first
    | with_reducible assumption
    | with_reducible apply runTable_ok
    | with_reducible apply okOut_next
    | with_reducible exact okOut_fault _
    | dsimp only

theorem execTmod_ok {fl0 : Nat} (f : Form) (s : State) (h_s : s.Ok fl0) : okOut fl0 (execTmod f s) := by
  unfold execTmod
  try dsimp only
  repeat' first
    | with_reducible assumption
    | with_reducible apply runTable_ok
    | with_reducible apply okOut_next
    | with_reducible exact okOut_fault _
    | dsimp only

theorem execTset_ok {fl0 : Nat} (f : Form) (s : State) (h_s : s.Ok fl0) : okOut fl0 (execTset f s) := by
  unfold execTset
  try dsimp only
  repeat' first
    | with_reducible assumption
    | with_reducible apply runTable_ok
    | with_reducible apply okOut_next
    | with_reducible exact okOut_fault _
    | dsimp only

theorem execTopen_ok {fl0 : Nat} (f : Form) (s : State) (h_s : s.Ok fl0) : okOut fl0 (execTopen f s) := by
  unfold execTopen
  try dsimp only
  repeat' first
    | with_reducible assumption
    | with_reducible apply runTable_ok
    | with_reducible apply okOut_next
    | with_reducible exact okOut_fault _
    | dsimp only

theorem execTnext_ok {fl0 : Nat} (f : Form) (s : State) (h_s : s.Ok fl0) : okOut fl0 (execTnext f s) := by
  unfold execTnext
  try dsimp only
  repeat' first
    | with_reducible assumption
    | with_reducible apply runTable_ok
    | with_reducible apply okOut_next
    | with_reducible exact okOut_fault _
    | dsimp only

theorem execTseek_ok {fl0 : Nat} (f : Form) (s : State) (h_s : s.Ok fl0) : okOut fl0 (execTseek f s) := by
  unfold execTseek
  try dsimp only
  repeat' first
    | with_reducible assumption
    | with_reducible apply runTable_ok
    | with_reducible apply okOut_next
    | with_reducible exact okOut_fault _
    | dsimp only

theorem execTcnt_ok {fl0 : Nat} (f : Form) (s : State) (h_s : s.Ok fl0) : okOut fl0 (execTcnt f s) := by
  unfold execTcnt
  try dsimp only
  repeat' first
    | with_reducible assumption
    | with_reducible apply runTable_ok
    | with_reducible apply okOut_next
    | with_reducible exact okOut_fault _
    | dsimp only

theorem execTstat_ok {fl0 : Nat} (f : Form) (s : State) (h_s : s.Ok fl0) : okOut fl0 (execTstat f s) := by
  unfold execTstat
  try dsimp only
  repeat' first
    | with_reducible assumption
    | with_reducible apply runTable_ok
    | with_reducible apply okOut_next
    | with_reducible exact okOut_fault _
    | dsimp only

theorem execKvx_ok {fl0 : Nat} (f : Form) (s : State) (h_s : s.Ok fl0) : okOut fl0 (execKvx f s) := by
  unfold execKvx
  try dsimp only
  repeat' first
    | with_reducible assumption
    | with_reducible apply runTable_ok
    | with_reducible apply okOut_next
    | with_reducible exact okOut_fault _
    | dsimp only

theorem execTclose_ok {fl0 : Nat} (f : Form) (s : State) (h_s : s.Ok fl0) : okOut fl0 (execTclose f s) := by
  unfold execTclose
  try dsimp only
  repeat' first
    | with_reducible assumption
    | with_reducible apply State.planTable_ok
    | with_reducible apply State.trapFails_ok
    | with_reducible apply State.pageFault_ok
    | with_reducible apply runIns_ok
    | with_reducible apply State.finish_ok
    | with_reducible apply State.Ok.foldl
    | with_reducible apply State.Ok.foldl_fst
    | with_reducible apply okOut_next
    | with_reducible exact okOut_fault _
    | intro _
    | split
    | dsimp only

end Sys2Proof.Machine
end

