-- ==== Sys2Proof/Laws/KeptUnits.lean ====
section
/-!
SUPPORT. Every operation of Spire, matrix arrays, line groups and copy engines keeps the blown fuses and the canonical form of the memories.
-/
namespace Sys2Proof.Machine

set_option linter.unusedTactic false
set_option linter.unreachableTactic false
set_option linter.unusedSimpArgs false

/-! Spire. -/

theorem State.lineErr_ok {fl0 : Nat} (s : State) (vf : Nat) (r : Rec) (slot : Nat) (h_s : s.Ok fl0) : (State.lineErr s vf r slot).Ok fl0 := by
  unfold State.lineErr
  try dsimp only
  repeat' first
    | with_reducible assumption
    | with_reducible apply State.logErr_ok
    | dsimp only

theorem State.spReach_ok {fl0 : Nat} (s : State) (vf die va n : Nat) (wr : Bool) (h_s : s.Ok fl0) : (State.spReach s vf die va n wr).1.Ok fl0 := by
  unfold State.spReach
  try dsimp only
  repeat' first
    | with_reducible assumption
    | with_reducible apply State.touchEngine_ok
    | with_reducible apply State.walk_ok
    | with_reducible apply State.Ok.foldl
    | with_reducible apply State.Ok.foldl_fst
    | intro _
    | split
    | dsimp only
    | with_reducible apply State.Ok.keep

theorem State.spReachAll_ok {fl0 : Nat} (s : State) (vf die : Nat) (wr : Bool) (rs : List (Nat × Nat)) (h_s : s.Ok fl0) : (State.spReachAll s vf die wr rs).1.Ok fl0 := by
  unfold State.spReachAll
  try dsimp only
  repeat' first
    | with_reducible assumption
    | with_reducible apply State.spReach_ok
    | with_reducible apply State.Ok.foldl
    | with_reducible apply State.Ok.foldl_fst
    | intro _
    | split
    | dsimp only
    | with_reducible apply State.Ok.keep

theorem State.markUnits_ok {fl0 : Nat} (s : State) (vf : Nat) (r : Rec) (lo hi : Nat) (h_s : s.Ok fl0) : (State.markUnits s vf r lo hi).Ok fl0 := by
  unfold State.markUnits
  try dsimp only
  repeat' first
    | with_reducible assumption
    | with_reducible apply State.vput_ok
    | with_reducible apply State.Ok.foldl
    | with_reducible apply State.Ok.foldl_fst
    | intro _
    | split
    | dsimp only

theorem State.evalReach_ok {fl0 : Nat} (s : State) (vf : Nat) (tb : Table) (wr : Bool) (rs : List (Nat × Nat)) (k : State → Eval) (h_s : s.Ok fl0) (h_k : ∀ u : State, u.Ok fl0 → (k u).s.Ok fl0) : (State.evalReach s vf tb wr rs k).s.Ok fl0 := by
  unfold State.evalReach
  try dsimp only
  repeat' first
    | with_reducible assumption
    | with_reducible apply h_k
    | with_reducible apply State.spReachAll_ok
    | intro _
    | split
    | dsimp only
    | with_reducible apply State.Ok.keep

theorem State.rowReach_ok {fl0 : Nat} (s : State) (vf : Nat) (tb : Table) (wr : Bool) (va n : Nat) (k : State → Eval) (h_s : s.Ok fl0) (h_k : ∀ u : State, u.Ok fl0 → (k u).s.Ok fl0) : (State.rowReach s vf tb wr va n k).s.Ok fl0 := by
  unfold State.rowReach
  try dsimp only
  repeat' first
    | with_reducible assumption
    | with_reducible apply h_k
    | with_reducible apply State.spReach_ok
    | intro _
    | split
    | dsimp only
    | with_reducible apply State.Ok.keep

theorem State.spAdd_ok {fl0 : Nat} (s : State) (vf : Nat) (r : Rec) (tb : Table) (k v : Nat) (done : Table → Table) (h_s : s.Ok fl0) : (State.spAdd s vf r tb k v done).s.Ok fl0 := by
  unfold State.spAdd
  try dsimp only
  repeat' first
    | with_reducible assumption
    | with_reducible apply State.evalReach_ok
    | with_reducible apply State.markUnits_ok
    | with_reducible apply State.vput_ok
    | intro _
    | split
    | dsimp only

theorem State.refReach_ok {fl0 : Nat} (s : State) (vf : Nat) (r : Rec) (tb : Table) (wr : Bool) (n : Nat) (k : State → Eval) (h_s : s.Ok fl0) (h_k : ∀ u : State, u.Ok fl0 → (k u).s.Ok fl0) : (State.refReach s vf r tb wr n k).s.Ok fl0 := by
  unfold State.refReach
  try dsimp only
  repeat' first
    | with_reducible assumption
    | with_reducible apply h_k
    | with_reducible apply State.evalReach_ok
    | split
    | dsimp only

theorem spPoint_ok {fl0 : Nat} (op : Nat) (slotForm uniq : Bool) (vf : Nat) (r : Rec) (o m : Nat) (s : State) (tb : Table) (x : BatchLane) (h_s : s.Ok fl0) : (spPoint op slotForm uniq vf r o m s tb x).s.Ok fl0 := by
  unfold spPoint
  try dsimp only
  repeat' first
    | with_reducible assumption
    | with_reducible apply State.refReach_ok
    | with_reducible apply State.spAdd_ok
    | with_reducible apply State.rowReach_ok
    | with_reducible apply State.evalReach_ok
    | with_reducible apply State.vput_ok
    | intro _
    | split
    | dsimp only
    | with_reducible apply State.Ok.keep

theorem spSeek_ok {fl0 : Nat} (vf : Nat) (r : Rec) (s : State) (tb : Table) (gen last bound : Nat) (h_s : s.Ok fl0) : (spSeek vf r s tb gen last bound).s.Ok fl0 := by
  unfold spSeek
  try dsimp only
  repeat' first
    | with_reducible assumption
    | with_reducible apply State.evalReach_ok
    | intro _
    | dsimp only
    | with_reducible apply State.Ok.keep

theorem spCursor_ok {fl0 : Nat} (op vf : Nat) (r : Rec) (o m : Nat) (s : State) (tb : Table) (x : BatchLane) (h_s : s.Ok fl0) : (spCursor op vf r o m s tb x).s.Ok fl0 := by
  unfold spCursor
  try dsimp only
  repeat' first
    | with_reducible assumption
    | with_reducible apply spSeek_ok
    | with_reducible apply State.rowReach_ok
    | with_reducible apply State.evalReach_ok
    | intro _
    | split
    | dsimp only
    | with_reducible apply State.Ok.keep

theorem spWhole_ok {fl0 : Nat} (op mod vf : Nat) (r : Rec) (s : State) (tb : Table) (x : BatchLane) (h_s : s.Ok fl0) : (spWhole op mod vf r s tb x).s.Ok fl0 := by
  unfold spWhole
  try dsimp only
  repeat' first
    | with_reducible assumption
    | with_reducible apply State.evalReach_ok
    | intro _
    | split
    | dsimp only
    | with_reducible apply State.Ok.keep

theorem spLane_ok {fl0 : Nat} (b : Batch) (r : Rec) (s : State) (tb : Table) (x : BatchLane) (h_s : s.Ok fl0) : (spLane b r s tb x).s.Ok fl0 := by
  unfold spLane
  try dsimp only
  repeat' first
    | with_reducible assumption
    | with_reducible apply spWhole_ok
    | with_reducible apply spCursor_ok
    | with_reducible apply spPoint_ok
    | split
    | dsimp only
    | with_reducible apply State.Ok.keep

theorem spLanes_ok {fl0 : Nat} (b : Batch) (r : Rec) (s0 : State) (tb0 : Table) (h_s0 : s0.Ok fl0) : (spLanes b r s0 tb0).s.Ok fl0 := by
  unfold spLanes
  refine foldl_keeps (P := fun a : BatchEval => a.s.Ok fl0) _ ?_ _ _ h_s0
  intro a e h
  dsimp only
  split
  · exact h
  · split
    · exact h
    · exact h
    · exact spLane_ok _ _ _ _ _ h

theorem State.setTable_ok {fl0 : Nat} (s : State) (vf ibase : Nat) (t : Table) (h_s : s.Ok fl0) : (State.setTable s vf ibase t).Ok fl0 := by
  unfold State.setTable
  try dsimp only
  repeat' first
    | with_reducible assumption
    | dsimp only
    | with_reducible apply State.Ok.keep

theorem State.spMark_ok {fl0 : Nat} (s : State) (vf die va : Nat) (bs : List Byte) (h_s : s.Ok fl0) : (State.spMark s vf die va bs).Ok fl0 := by
  unfold State.spMark
  try dsimp only
  repeat' first
    | with_reducible assumption
    | with_reducible apply State.touchEngine_ok
    | with_reducible apply State.storeTr_ok
    | with_reducible apply State.walk_ok
    | intro _
    | split
    | dsimp only
    | with_reducible apply State.Ok.keep

theorem State.formatted_ok {fl0 : Nat} (s : State) (vf : Nat) (r : Rec) (h_s : s.Ok fl0) : (State.formatted s vf r).Ok fl0 := by
  unfold State.formatted
  try dsimp only
  repeat' first
    | with_reducible assumption
    | with_reducible apply State.spMark_ok
    | with_reducible apply State.setTable_ok
    | with_reducible apply State.Ok.foldl
    | with_reducible apply State.Ok.foldl_fst
    | intro _
    | split
    | dsimp only

theorem spBatch_ok {fl0 : Nat} (b : Batch) (s : State) (h_s : s.Ok fl0) : (spBatch b s).s.Ok fl0 := by
  unfold spBatch
  try dsimp only
  repeat' first
    | with_reducible assumption
    | with_reducible apply State.formatted_ok
    | with_reducible apply State.setTable_ok
    | with_reducible apply spLanes_ok
    | with_reducible apply State.spReach_ok
    | with_reducible apply State.lineErr_ok
    | with_reducible apply State.record_ok
    | intro _
    | split
    | dsimp only
    | with_reducible apply State.Ok.keep

theorem State.waitLog_ok {fl0 : Nat} (s : State) (f : Nat) (h_s : s.Ok fl0) : (State.waitLog s f).Ok fl0 := by
  unfold State.waitLog
  try dsimp only
  repeat' first
    | with_reducible assumption
    | with_reducible apply State.dlogRecord_ok
    | with_reducible apply State.holdWrite_ok
    | intro _
    | split
    | dsimp only

theorem State.quiet_ok {fl0 : Nat} (s : State) (a : Nat) (h_s : s.Ok fl0) : (State.quiet s a).Ok fl0 := by
  unfold State.quiet
  try dsimp only
  repeat' first
    | with_reducible assumption
    | dsimp only
    | with_reducible apply State.Ok.keep

theorem State.newAsks_ok {fl0 : Nat} (s : State) (is : List Instr) (h_s : s.Ok fl0) : (State.newAsks s is).Ok fl0 := by
  unfold State.newAsks
  try dsimp only
  repeat' first
    | with_reducible assumption
    | with_reducible apply State.sendMsg_ok
    | with_reducible apply State.Ok.foldl
    | with_reducible apply State.Ok.foldl_fst
    | intro _
    | dsimp only

theorem State.unquiet_ok {fl0 : Nat} (s e : State) (h_s : s.Ok fl0) (h_e : e.Ok fl0) : (State.unquiet s e).Ok fl0 := by
  unfold State.unquiet
  try dsimp only
  repeat' first
    | with_reducible assumption
    | with_reducible apply State.newAsks_ok
    | dsimp only
    | with_reducible apply State.Ok.keep

theorem State.trialWaits_ok {fl0 : Nat} (s0 e : State) (f : Nat) (h_s0 : s0.Ok fl0) (h_e : e.Ok fl0) : ∀ u_, (State.trialWaits s0 e f) = some u_ → u_.Ok fl0 := by
  intro u w
  unfold State.trialWaits at w
  dsimp only at w
  split at w
  · exact Option.some.inj w ▸ State.newAsks_ok _ _ h_s0
  · split at w
    · exact Option.some.inj w ▸ State.waitLog_ok _ _ h_s0
    · split at w
      · cases w
      · exact Option.some.inj w ▸ h_s0

theorem execSpireBatch_ok {fl0 : Nat} (n : Nat) (s : State) (h_s : s.Ok fl0) : okOut fl0 (execSpireBatch n s) := by
  unfold execSpireBatch
  try dsimp only
  repeat' first
    | with_reducible assumption
    | refine State.trialWaits_ok _ _ _ ?_ ?_ _ (by assumption)
    | with_reducible apply State.unquiet_ok
    | with_reducible apply State.quiet_ok
    | with_reducible apply spBatch_ok
    | with_reducible apply okOut_next
    | with_reducible exact okOut_fault _
    | intro _
    | split
    | dsimp only
    | with_reducible apply State.Ok.keep

/-! Matrix. -/

theorem execSbq_ok {fl0 : Nat} (f : Form) (s : State) (h_s : s.Ok fl0) : okOut fl0 (execSbq f s) := by
  unfold execSbq
  try dsimp only
  repeat' first
    | with_reducible assumption
    | with_reducible apply State.withFlags_ok
    | with_reducible apply runIns_ok
    | with_reducible apply State.produce_ok
    | with_reducible apply State.finish_ok
    | with_reducible apply okOut_next
    | with_reducible exact okOut_fault _
    | intro _
    | split
    | dsimp only

theorem execSbdq_ok {fl0 : Nat} (f : Form) (s : State) (h_s : s.Ok fl0) : okOut fl0 (execSbdq f s) := by
  unfold execSbdq
  try dsimp only
  repeat' first
    | with_reducible assumption
    | with_reducible apply runIns_ok
    | with_reducible apply State.produce_ok
    | with_reducible apply State.finish_ok
    | with_reducible apply okOut_next
    | with_reducible exact okOut_fault _
    | intro _
    | split
    | dsimp only

theorem State.operands_ok {fl0 : Nat} (s : State) (t : Team) (x : Fmt4) (h_s : s.Ok fl0) : (State.operands s t x).1.Ok fl0 := by
  unfold State.operands
  try dsimp only
  repeat' first
    | with_reducible assumption
    | with_reducible apply State.scaleRecord_ok
    | with_reducible apply State.record_ok
    | intro _
    | split
    | dsimp only
    | with_reducible apply State.Ok.keep

theorem State.pipeCheck_ok {fl0 : Nat} (s : State) (vf l key off : Nat) (rs : List (Nat × Nat)) (p : Plan) (h_s : s.Ok fl0) : (State.pipeCheck s vf l key off rs p).1.Ok fl0 := by
  unfold State.pipeCheck
  try dsimp only
  repeat' first
    | with_reducible assumption
    | with_reducible apply State.walk_ok
    | with_reducible apply State.Ok.foldl
    | with_reducible apply State.Ok.foldl_fst
    | intro _
    | split
    | dsimp only
    | with_reducible apply State.Ok.keep

theorem State.planMma_ok {fl0 : Nat} (s : State) (i : Ins) (t : Team) (ls : List Nat) (x : Fmt4) (h_s : s.Ok fl0) : (State.planMma s i t ls x).1.Ok fl0 := by
  unfold State.planMma
  try dsimp only
  repeat' first
    | with_reducible assumption
    | with_reducible apply State.pipeCheck_ok
    | with_reducible apply State.operands_ok
    | with_reducible apply State.Ok.foldl
    | with_reducible apply State.Ok.foldl_fst
    | intro _
    | split
    | dsimp only
    | with_reducible apply State.Ok.keep

theorem execMma_ok {fl0 : Nat} (f : Form) (s : State) (h_s : s.Ok fl0) : okOut fl0 (execMma f s) := by
  unfold execMma
  try dsimp only
  repeat' first
    | with_reducible assumption
    | with_reducible apply State.planMma_ok
    | with_reducible apply State.operands_ok
    | with_reducible apply State.trapFails_ok
    | with_reducible apply State.pageFault_ok
    | with_reducible apply runIns_ok
    | with_reducible apply State.setArray_ok
    | with_reducible apply State.issued_ok
    | with_reducible apply State.finish_ok
    | with_reducible apply okOut_next
    | with_reducible exact okOut_fault _
    | intro _
    | split
    | dsimp only
    | with_reducible apply State.Ok.keep

theorem State.pipeReach_ok {fl0 : Nat} (s : State) (vf die : Nat) (ls : List Nat) (key off : Nat) (rs : List (Nat × Nat)) (h_s : s.Ok fl0) : (State.pipeReach s vf die ls key off rs).1.Ok fl0 := by
  unfold State.pipeReach
  try dsimp only
  repeat' first
    | with_reducible assumption
    | with_reducible apply State.touchEngine_ok
    | with_reducible apply State.walk_ok
    | with_reducible apply State.Ok.foldl
    | with_reducible apply State.Ok.foldl_fst
    | intro _
    | split
    | dsimp only
    | with_reducible apply State.Ok.keep

theorem State.stepReach_ok {fl0 : Nat} (s : State) (t : Team) (m : MmaJob) (x : Fmt4) (a b : Opnd) (ls : List Nat) (st : Nat) (h_s : s.Ok fl0) : (State.stepReach s t m x a b ls st).1.Ok fl0 := by
  unfold State.stepReach
  try dsimp only
  repeat' first
    | with_reducible assumption
    | with_reducible apply State.pipeReach_ok
    | with_reducible apply State.Ok.foldl
    | with_reducible apply State.Ok.foldl_fst
    | intro _
    | dsimp only

theorem State.mmaPages_ok {fl0 : Nat} (s : State) (i : Nat) (m : MmaJob) (hits : List PageHit) (h_s : s.Ok fl0) : (State.mmaPages s i m hits).Ok fl0 := by
  unfold State.mmaPages
  try dsimp only
  repeat' first
    | with_reducible assumption
    | with_reducible apply State.stopMma_ok
    | with_reducible apply State.addFault_ok
    | with_reducible apply State.setTeam_ok
    | with_reducible apply State.Ok.foldl
    | with_reducible apply State.Ok.foldl_fst
    | intro _
    | split
    | dsimp only
    | with_reducible apply State.Ok.keep

theorem State.mmaWordDone_ok {fl0 : Nat} (s : State) (i : Nat) (m : MmaJob) (w : Nat) (h_s : s.Ok fl0) : (State.mmaWordDone s i m w).Ok fl0 := by
  unfold State.mmaWordDone
  try dsimp only
  repeat' first
    | with_reducible assumption
    | with_reducible apply State.setArray_ok
    | with_reducible apply State.account_ok
    | with_reducible apply State.setTeam_ok
    | intro _
    | split
    | dsimp only
    | with_reducible apply State.Ok.keep

theorem State.mmaWord_ok {fl0 : Nat} (s : State) (i : Nat) (h_s : s.Ok fl0) : (State.mmaWord s i).Ok fl0 := by
  unfold State.mmaWord
  try dsimp only
  repeat' first
    | with_reducible assumption
    | with_reducible apply State.mmaWordDone_ok
    | with_reducible apply State.mmaPages_ok
    | with_reducible apply State.stepReach_ok
    | with_reducible apply State.operands_ok
    | with_reducible apply State.account_ok
    | with_reducible apply State.setTeam_ok
    | intro _
    | split
    | dsimp only
    | with_reducible apply State.Ok.keep

theorem runMflush_ok {fl0 : Nat} (i : Ins) (s : State) (h_s : s.Ok fl0) : okOut fl0 (runMflush i s) := by
  unfold runMflush
  try dsimp only
  repeat' first
    | with_reducible assumption
    | with_reducible apply runUni_ok
    | with_reducible apply State.produce_ok
    | with_reducible apply okOut_next
    | with_reducible exact okOut_fault _
    | intro _
    | split
    | dsimp only
    | with_reducible apply State.Ok.keep

theorem execMflushS_ok {fl0 : Nat} (f : SForm) (s : State) (h_s : s.Ok fl0) : okOut fl0 (execMflushS f s) := by
  unfold execMflushS
  try dsimp only
  repeat' first
    | with_reducible assumption
    | with_reducible apply runMflush_ok
    | with_reducible apply okOut_next
    | with_reducible exact okOut_fault _
    | dsimp only

theorem execMflushL_ok {fl0 : Nat} (f : Form) (s : State) (h_s : s.Ok fl0) : okOut fl0 (execMflushL f s) := by
  unfold execMflushL
  try dsimp only
  repeat' first
    | with_reducible assumption
    | with_reducible apply runMflush_ok
    | with_reducible apply okOut_next
    | with_reducible exact okOut_fault _
    | dsimp only

theorem execQmc_ok {fl0 : Nat} (f : Form) (s : State) (h_s : s.Ok fl0) : okOut fl0 (execQmc f s) := by
  unfold execQmc
  try dsimp only
  repeat' first
    | with_reducible assumption
    | with_reducible apply State.entered_ok
    | with_reducible apply State.reject_ok
    | with_reducible apply runUni_ok
    | with_reducible apply State.trapAt_ok
    | with_reducible apply State.produce_ok
    | with_reducible apply State.issued_ok
    | with_reducible apply State.Ok.foldl
    | with_reducible apply State.Ok.foldl_fst
    | with_reducible apply okOut_next
    | with_reducible exact okOut_fault _
    | intro _
    | split
    | dsimp only
    | with_reducible apply State.Ok.keep

theorem runCred_ok {fl0 : Nat} (i : Ins) (s : State) (h_s : s.Ok fl0) : okOut fl0 (runCred i s) := by
  unfold runCred
  try dsimp only
  repeat' first
    | with_reducible assumption
    | with_reducible apply runIns_ok
    | with_reducible apply State.issued_ok
    | with_reducible apply State.finish_ok
    | with_reducible apply State.setBlock_ok
    | with_reducible apply okOut_next
    | with_reducible exact okOut_fault _
    | intro _
    | split
    | dsimp only
    | with_reducible apply State.Ok.keep

theorem execCredS_ok {fl0 : Nat} (f : SForm) (s : State) (h_s : s.Ok fl0) : okOut fl0 (execCredS f s) := by
  unfold execCredS
  try dsimp only
  repeat' first
    | with_reducible assumption
    | with_reducible apply runCred_ok
    | with_reducible apply okOut_next
    | with_reducible exact okOut_fault _
    | dsimp only

theorem execCredL_ok {fl0 : Nat} (f : Form) (s : State) (h_s : s.Ok fl0) : okOut fl0 (execCredL f s) := by
  unfold execCredL
  try dsimp only
  repeat' first
    | with_reducible assumption
    | with_reducible apply runCred_ok
    | with_reducible apply okOut_next
    | with_reducible exact okOut_fault _
    | dsimp only

theorem execOculusMerge_ok {fl0 : Nat} (b : Nat) (s : State) (h_s : s.Ok fl0) : okOut fl0 (execOculusMerge b s) := by
  unfold execOculusMerge
  try dsimp only
  repeat' first
    | with_reducible assumption
    | with_reducible apply State.setBlock_ok
    | with_reducible apply okOut_next
    | with_reducible exact okOut_fault _
    | intro _
    | split
    | dsimp only
    | with_reducible apply State.Ok.keep

/-! Groups. -/

theorem State.setGroup_ok {fl0 : Nat} (s : State) (k : Nat) (g : Group) (h_s : s.Ok fl0) : (State.setGroup s k g).Ok fl0 := by
  unfold State.setGroup
  try dsimp only
  repeat' first
    | with_reducible assumption
    | dsimp only
    | with_reducible apply State.Ok.keep

theorem State.putWords_ok {fl0 : Nat} (s : State) (f va : Nat) (bs : List Byte) (op : HeldOp) (h_s : s.Ok fl0) : (State.putWords s f va bs op).Ok fl0 := by
  unfold State.putWords
  try dsimp only
  repeat' first
    | with_reducible assumption
    | with_reducible apply State.noteLogs_ok
    | with_reducible apply State.dropParts_ok
    | with_reducible apply State.partsAt_ok
    | with_reducible apply State.storeParts_ok
    | intro _
    | split
    | dsimp only
    | with_reducible apply State.Ok.keep

theorem State.putRecord_ok {fl0 : Nat} (s : State) (k i : Nat) (h_s : s.Ok fl0) : (State.putRecord s k i).Ok fl0 := by
  unfold State.putRecord
  try dsimp only
  repeat' first
    | with_reducible assumption
    | with_reducible apply State.putWords_ok
    | dsimp only

theorem State.putRecords_ok {fl0 : Nat} (s : State) (k : Nat) (h_s : s.Ok fl0) : (State.putRecords s k).Ok fl0 := by
  unfold State.putRecords
  try dsimp only
  repeat' first
    | with_reducible assumption
    | with_reducible apply State.putRecord_ok
    | with_reducible apply State.Ok.foldl
    | with_reducible apply State.Ok.foldl_fst
    | intro _
    | dsimp only

theorem State.addWaste_ok {fl0 : Nat} (s : State) (k i : Nat) (w : Waste) (h_s : s.Ok fl0) : (State.addWaste s k i w).Ok fl0 := by
  unfold State.addWaste
  try dsimp only
  repeat' first
    | with_reducible assumption
    | with_reducible apply State.putWords_ok
    | with_reducible apply State.Ok.foldl
    | with_reducible apply State.Ok.foldl_fst
    | intro _
    | split
    | dsimp only

theorem State.recordWaste_ok {fl0 : Nat} (s : State) (i : Nat) (h_s : s.Ok fl0) : (State.recordWaste s i).Ok fl0 := by
  unfold State.recordWaste
  try dsimp only
  repeat' first
    | with_reducible assumption
    | with_reducible apply State.addWaste_ok
    | with_reducible apply State.setTeam_ok
    | split
    | dsimp only
    | with_reducible apply State.Ok.keep

theorem State.copyWaste_ok {fl0 : Nat} (s : State) (i bytes : Nat) (h_s : s.Ok fl0) : (State.copyWaste s i bytes).Ok fl0 := by
  unfold State.copyWaste
  try dsimp only
  repeat' first
    | with_reducible assumption
    | with_reducible apply State.addWaste_ok
    | split
    | dsimp only
    | with_reducible apply State.Ok.keep

/-! CopyEngine. -/

theorem State.cpkSide_ok {fl0 : Nat} (s : State) (t : Team) (used : Bool) (slot : Nat) (h_s : s.Ok fl0) : (State.cpkSide s t used slot).1.Ok fl0 := by
  unfold State.cpkSide
  try dsimp only
  repeat' first
    | with_reducible assumption
    | with_reducible apply State.record_ok
    | intro _
    | split
    | dsimp only
    | with_reducible apply State.Ok.keep

theorem State.cpkCheck_ok {fl0 : Nat} (s : State) (t : Team) (c : Copy) (h_s : s.Ok fl0) : (State.cpkCheck s t c).1.Ok fl0 := by
  unfold State.cpkCheck
  try dsimp only
  repeat' first
    | with_reducible assumption
    | with_reducible apply State.cpkSide_ok
    | intro _
    | split
    | dsimp only
    | with_reducible apply State.Ok.keep

theorem State.destGrains_ok {fl0 : Nat} (s : State) (c : CopyReq) (h_s : s.Ok fl0) : (State.destGrains s c).1.Ok fl0 := by
  unfold State.destGrains
  try dsimp only
  repeat' first
    | with_reducible assumption
    | with_reducible apply State.walk_ok
    | with_reducible apply State.Ok.foldl
    | with_reducible apply State.Ok.foldl_fst
    | intro _
    | split
    | dsimp only
    | with_reducible apply State.Ok.keep

theorem State.ownDests_ok {fl0 : Nat} (s : State) (die : Nat) (c : CopyReq) (h_s : s.Ok fl0) : (State.ownDests s die c).Ok fl0 := by
  unfold State.ownDests
  try dsimp only
  repeat' first
    | with_reducible assumption
    | with_reducible apply State.destGrains_ok
    | with_reducible apply State.sendMsg_ok
    | with_reducible apply State.Ok.foldl
    | with_reducible apply State.Ok.foldl_fst
    | intro _
    | split
    | dsimp only

theorem State.cpkScan_ok {fl0 : Nat} (s : State) (t : Team) (cs : List Copy) (h_s : s.Ok fl0) : (State.cpkScan s t cs).1.Ok fl0 := by
  unfold State.cpkScan
  try dsimp only
  repeat' first
    | with_reducible assumption
    | with_reducible apply State.cpkCheck_ok
    | with_reducible apply State.Ok.foldl
    | with_reducible apply State.Ok.foldl_fst
    | intro _
    | split
    | dsimp only
    | with_reducible apply State.Ok.keep

theorem execCpk_ok {fl0 : Nat} (f : Form) (s : State) (h_s : s.Ok fl0) : okOut fl0 (execCpk f s) := by
  unfold execCpk
  try dsimp only
  repeat' first
    | with_reducible assumption
    | with_reducible apply State.cpkScan_ok
    | with_reducible apply State.ownDests_ok
    | with_reducible apply State.entered_ok
    | with_reducible apply State.reject_ok
    | with_reducible apply State.pageFault_ok
    | with_reducible apply runUni_ok
    | with_reducible apply State.trapAt_ok
    | with_reducible apply State.produce_ok
    | with_reducible apply State.Ok.foldl
    | with_reducible apply State.Ok.foldl_fst
    | with_reducible apply okOut_next
    | with_reducible exact okOut_fault _
    | intro _
    | split
    | dsimp only
    | with_reducible apply State.Ok.keep

theorem runBar_ok {fl0 : Nat} (i : Ins) (s : State) (k : Team → List Acc → State) (h_s : s.Ok fl0) (h_k : ∀ t ls, (k t ls).Ok fl0) : okOut fl0 (runBar i s k) := by
  unfold runBar
  try dsimp only
  repeat' first
    | with_reducible assumption
    | with_reducible apply h_k
    | with_reducible apply State.trapFails_ok
    | with_reducible apply runIns_ok
    | with_reducible apply State.finish_ok
    | with_reducible apply okOut_next
    | with_reducible exact okOut_fault _
    | intro _
    | split
    | dsimp only

theorem execBinit_ok {fl0 : Nat} (f : Form) (s : State) (h_s : s.Ok fl0) : okOut fl0 (execBinit f s) := by
  unfold execBinit
  try dsimp only
  repeat' first
    | with_reducible assumption
    | with_reducible apply runBar_ok
    | with_reducible apply State.barRelease_ok
    | with_reducible apply State.setBar_ok
    | with_reducible apply State.finish_ok
    | with_reducible apply State.as_ok
    | with_reducible apply State.Ok.foldl
    | with_reducible apply State.Ok.foldl_fst
    | with_reducible apply okOut_next
    | with_reducible exact okOut_fault _
    | intro _
    | dsimp only

theorem execBarr_ok {fl0 : Nat} (f : Form) (s : State) (h_s : s.Ok fl0) : okOut fl0 (execBarr f s) := by
  unfold execBarr
  try dsimp only
  repeat' first
    | with_reducible assumption
    | with_reducible apply runBar_ok
    | with_reducible apply State.barCount_ok
    | with_reducible apply State.finish_ok
    | with_reducible apply State.as_ok
    | with_reducible apply State.Ok.foldl
    | with_reducible apply State.Ok.foldl_fst
    | with_reducible apply okOut_next
    | with_reducible exact okOut_fault _
    | intro _
    | split
    | dsimp only

theorem State.barDone_ok {fl0 : Nat} (s : State) (i : Ins) (t : Team) (a : Acc) (h_s : s.Ok fl0) : (State.barDone s i t a).Ok fl0 := by
  unfold State.barDone
  try dsimp only
  repeat' first
    | with_reducible assumption
    | with_reducible apply State.trapAt_ok
    | with_reducible apply State.finish_ok
    | with_reducible apply State.syncLt_ok
    | split
    | dsimp only

theorem execBwait_ok {fl0 : Nat} (f : Form) (s : State) (h_s : s.Ok fl0) : okOut fl0 (execBwait f s) := by
  unfold execBwait
  try dsimp only
  repeat' first
    | with_reducible assumption
    | with_reducible apply State.barDone_ok
    | with_reducible apply runBar_ok
    | with_reducible apply State.setBar_ok
    | with_reducible apply State.parkHere_ok
    | with_reducible apply State.as_ok
    | with_reducible apply State.Ok.foldl
    | with_reducible apply State.Ok.foldl_fst
    | with_reducible apply okOut_next
    | with_reducible exact okOut_fault _
    | intro _
    | split
    | dsimp only

theorem execWaitt_ok {fl0 : Nat} (f : Form) (s : State) (h_s : s.Ok fl0) : okOut fl0 (execWaitt f s) := by
  unfold execWaitt
  try dsimp only
  repeat' first
    | with_reducible assumption
    | with_reducible apply State.barDone_ok
    | with_reducible apply runBar_ok
    | with_reducible apply State.takeTrap_ok
    | with_reducible apply State.parkHere_ok
    | with_reducible apply State.as_ok
    | with_reducible apply State.Ok.foldl
    | with_reducible apply State.Ok.foldl_fst
    | with_reducible apply okOut_next
    | with_reducible exact okOut_fault _
    | intro _
    | split
    | dsimp only

theorem State.copyFails_ok {fl0 : Nat} (s : State) (h_s : s.Ok fl0) : (State.copyFails s).1.Ok fl0 := by
  unfold State.copyFails
  try dsimp only
  repeat' first
    | with_reducible assumption
    | with_reducible apply State.useFresh_ok
    | dsimp only

theorem State.copyLook_ok {fl0 : Nat} (s : State) (vf slot : Nat) (r : Rec) (key off : Nat) (h_s : s.Ok fl0) : (State.copyLook s vf slot r key off).1.Ok fl0 := by
  have hs : ∀ q : State × Option SpStop, q.1.Ok fl0 → ∀ x, lookStops vf slot r q = some x → x.1.Ok fl0 := by
    intro q h x e
    unfold lookStops at e
    split at e
    · cases e
      dsimp only
      split
      · exact State.lineErr_ok _ _ _ _ h
      · exact h
    · cases e; exact h
    · cases e
  have h1 := State.spReach_ok s vf r.home r.ibase 4096 false h_s
  unfold State.copyLook
  dsimp only
  split
  · next e => exact hs _ h1 _ e
  · split
    · exact State.copyFails_ok _ (State.formatted_ok _ _ _ h1)
    · have h2 := State.spReachAll_ok _ vf r.home false (indexPlaces r ((s.spReach vf r.home r.ibase 4096 false).1.formatted vf r |>.tableAt vf r.ibase) (key % 2 ^ keyBits r.keyw)) (State.formatted_ok _ vf r h1)
      split
      · next e => exact hs _ h2 _ e
      · split
        · exact h2
        · exact h2

theorem State.copySource_ok {fl0 : Nat} (s : State) (c : CopyReq) (r : Nat) (h_s : s.Ok fl0) : (State.copySource s c r).1.Ok fl0 := by
  unfold State.copySource
  try dsimp only
  repeat' first
    | with_reducible assumption
    | with_reducible apply State.copyLook_ok
    | with_reducible apply State.copyFails_ok
    | with_reducible apply State.record_ok
    | intro _
    | split
    | dsimp only
    | with_reducible apply State.Ok.keep

theorem State.putCopy_ok {fl0 : Nat} (s : State) (c : CopyReq) (h_s : s.Ok fl0) : (State.putCopy s c).Ok fl0 := by
  unfold State.putCopy
  try dsimp only
  repeat' first
    | with_reducible assumption
    | intro _
    | split
    | dsimp only
    | with_reducible apply State.Ok.keep

theorem State.copyRowEnd_ok {fl0 : Nat} (s : State) (c : CopyReq) (r err miss : Nat) (h_s : s.Ok fl0) : (State.copyRowEnd s c r err miss).Ok fl0 := by
  unfold State.copyRowEnd
  try dsimp only
  repeat' first
    | with_reducible assumption
    | with_reducible apply State.putCopy_ok
    | with_reducible apply State.copyWaste_ok
    | with_reducible apply State.barCount_ok
    | intro _
    | split
    | dsimp only
    | with_reducible apply State.Ok.keep

theorem State.copyWalk_ok {fl0 : Nat} (s : State) (vf va n : Nat) (wr : Bool) (h_s : s.Ok fl0) : (State.copyWalk s vf va n wr).1.Ok fl0 := by
  unfold State.copyWalk
  try dsimp only
  repeat' first
    | with_reducible assumption
    | with_reducible apply State.walk_ok
    | with_reducible apply State.Ok.foldl
    | with_reducible apply State.Ok.foldl_fst
    | intro _
    | split
    | dsimp only
    | with_reducible apply State.Ok.keep

theorem State.copyHold_ok {fl0 : Nat} (s : State) (c : CopyReq) (r va cause : Nat) (wr : Bool) (miss : Nat) (h_s : s.Ok fl0) : (State.copyHold s c r va cause wr miss).Ok fl0 := by
  unfold State.copyHold
  try dsimp only
  repeat' first
    | with_reducible assumption
    | with_reducible apply State.copyRowEnd_ok
    | with_reducible apply State.putCopy_ok
    | with_reducible apply State.addFault_ok
    | intro _
    | split
    | dsimp only

theorem State.copyStop_ok {fl0 : Nat} (s : State) (c : CopyReq) (r : Nat) (wr : Bool) (x : CopyStop) (miss : Nat) (h_s : s.Ok fl0) : (State.copyStop s c r wr x miss).Ok fl0 := by
  unfold State.copyStop
  try dsimp only
  repeat' first
    | with_reducible assumption
    | with_reducible apply State.copyHold_ok
    | with_reducible apply State.copyRowEnd_ok
    | intro _
    | split
    | dsimp only
    | with_reducible apply State.Ok.keep

theorem State.copyRead_ok {fl0 : Nat} (s : State) (c : CopyReq) (x : CopySrc) (h_s : s.Ok fl0) : (State.copyRead s c x).1.Ok fl0 := by
  unfold State.copyRead
  try dsimp only
  repeat' first
    | with_reducible assumption
    | with_reducible apply State.copyWalk_ok
    | with_reducible apply State.touchEngine_ok
    | with_reducible apply State.Ok.foldl
    | with_reducible apply State.Ok.foldl_fst
    | intro _
    | split
    | dsimp only
    | with_reducible apply State.Ok.keep

theorem State.copyWrite_ok {fl0 : Nat} (s : State) (c : CopyReq) (r : Nat) (bs : List Byte) (miss : Nat) (h_s : s.Ok fl0) : (State.copyWrite s c r bs miss).Ok fl0 := by
  unfold State.copyWrite
  try dsimp only
  repeat' first
    | with_reducible assumption
    | with_reducible apply State.copyStop_ok
    | with_reducible apply State.copyWalk_ok
    | with_reducible apply State.copyRowEnd_ok
    | with_reducible apply State.putCopy_ok
    | with_reducible apply State.ownDests_ok
    | with_reducible apply State.noteLogs_ok
    | with_reducible apply State.putCore_ok
    | with_reducible apply State.touchEngine_ok
    | with_reducible apply State.dropGrains_ok
    | with_reducible apply State.storeParts_ok
    | with_reducible apply State.Ok.foldl
    | with_reducible apply State.Ok.foldl_fst
    | intro _
    | split
    | dsimp only
    | with_reducible apply State.Ok.keep

theorem State.qmcRow_ok {fl0 : Nat} (s : State) (c : CopyReq) (target : Nat) (h_s : s.Ok fl0) : (State.qmcRow s c target).Ok fl0 := by
  unfold State.qmcRow
  try dsimp only
  repeat' first
    | with_reducible assumption
    | with_reducible apply State.putCopy_ok
    | with_reducible apply State.putCore_ok
    | intro _
    | split
    | dsimp only
    | with_reducible apply State.Ok.keep

theorem execCopyRow_ok {fl0 : Nat} (id : Nat) (s : State) (h_s : s.Ok fl0) : okOut fl0 (execCopyRow id s) := by
  unfold execCopyRow
  try dsimp only
  repeat' first
    | with_reducible assumption
    | with_reducible apply State.qmcRow_ok
    | with_reducible apply State.copyWrite_ok
    | with_reducible apply State.copyRead_ok
    | with_reducible apply State.copyStop_ok
    | with_reducible apply State.copySource_ok
    | refine State.trialWaits_ok _ _ _ ?_ ?_ _ (by assumption)
    | with_reducible apply State.unquiet_ok
    | with_reducible apply State.quiet_ok
    | with_reducible apply okOut_next
    | with_reducible exact okOut_fault _
    | intro _
    | split
    | dsimp only
    | with_reducible apply State.Ok.keep

theorem State.copyResolve_ok {fl0 : Nat} (s : State) (core vf page : Nat) (ok : Bool) (h_s : s.Ok fl0) : (State.copyResolve s core vf page ok).Ok fl0 := by
  unfold State.copyResolve
  try dsimp only
  repeat' first
    | with_reducible assumption
    | with_reducible apply State.copyRowEnd_ok
    | with_reducible apply State.Ok.foldl
    | with_reducible apply State.Ok.foldl_fst
    | intro _
    | split
    | dsimp only
    | with_reducible apply State.Ok.keep

end Sys2Proof.Machine
end

