-- ==== Sys2Proof/Laws/KeptTeams.lean ====
section
/-!
SUPPORT. Every operation of queues, teams and the Ballot keeps the blown fuses and the canonical form of the memories.
-/
namespace Sys2Proof.Machine

set_option linter.unusedTactic false
set_option linter.unreachableTactic false
set_option linter.unusedSimpArgs false

/-! Queues. -/

theorem State.wakeHeld_ok {fl0 : Nat} (s : State) (i : Nat) (h_s : s.Ok fl0) : (State.wakeHeld s i).Ok fl0 := by
  unfold State.wakeHeld
  try dsimp only
  repeat' first
    | with_reducible assumption
    | with_reducible apply State.unpark_ok
    | with_reducible apply State.setTeam_ok
    | intro _
    | split
    | dsimp only
    | with_reducible apply State.Ok.keep

theorem State.parkSoon_ok {fl0 : Nat} (s : State) (i : Nat) (c : Cause) (a : W64) (h_s : s.Ok fl0) : (State.parkSoon s i c a).Ok fl0 := by
  unfold State.parkSoon
  try dsimp only
  repeat' first
    | with_reducible assumption
    | with_reducible apply State.setTeam_ok
    | intro _
    | split
    | dsimp only
    | with_reducible apply State.Ok.keep

theorem State.setQueue_ok {fl0 : Nat} (s : State) (k : Nat) (q : Queue) (h_s : s.Ok fl0) : (State.setQueue s k q).Ok fl0 := by
  unfold State.setQueue
  try dsimp only
  repeat' first
    | with_reducible assumption
    | dsimp only
    | with_reducible apply State.Ok.keep

theorem execQpush_ok {fl0 : Nat} (f : Form) (s : State) (h_s : s.Ok fl0) : okOut fl0 (execQpush f s) := by
  unfold execQpush
  try dsimp only
  repeat' first
    | with_reducible assumption
    | with_reducible apply runIns_ok
    | with_reducible apply State.trapLanes_ok
    | with_reducible apply State.issued_ok
    | with_reducible apply State.finish_ok
    | with_reducible apply State.useFresh_ok
    | with_reducible apply okOut_next
    | with_reducible exact okOut_fault _
    | intro _
    | split
    | dsimp only
    | with_reducible apply State.Ok.keep

theorem execQpop_ok {fl0 : Nat} (f : Form) (s : State) (h_s : s.Ok fl0) : okOut fl0 (execQpop f s) := by
  unfold execQpop
  try dsimp only
  repeat' first
    | with_reducible assumption
    | with_reducible apply runIns_ok
    | with_reducible apply State.trapLanes_ok
    | with_reducible apply State.issued_ok
    | with_reducible apply State.finish_ok
    | with_reducible apply State.useFresh_ok
    | with_reducible apply okOut_next
    | with_reducible exact okOut_fault _
    | intro _
    | split
    | dsimp only
    | with_reducible apply State.Ok.keep

theorem execQstat_ok {fl0 : Nat} (f : Form) (s : State) (h_s : s.Ok fl0) : okOut fl0 (execQstat f s) := by
  unfold execQstat
  try dsimp only
  repeat' first
    | with_reducible assumption
    | with_reducible apply runUni_ok
    | with_reducible apply State.trapLanes_ok
    | with_reducible apply State.issued_ok
    | with_reducible apply State.useFresh_ok
    | with_reducible apply okOut_next
    | with_reducible exact okOut_fault _
    | intro _
    | split
    | dsimp only
    | with_reducible apply State.Ok.keep

theorem State.refill_ok {fl0 : Nat} (fuel : Nat) (s : State) (k : Nat) (h_s : s.Ok fl0) : (State.refill fuel s k).Ok fl0 := by
  induction fuel generalizing s k with
  | zero =>
    unfold State.refill
    try dsimp only
    repeat' first
      | with_reducible assumption
      | with_reducible apply State.setQueue_ok
      | with_reducible apply State.touchEngine_ok
      | with_reducible apply State.addFault_ok
      | with_reducible apply State.walk_ok
      | with_reducible apply State.useFresh_ok
      | intro _
      | split
      | dsimp only
      | with_reducible apply State.Ok.keep
  | succ m ih =>
    unfold State.refill
    try dsimp only
    repeat' first
      | with_reducible assumption
      | with_reducible apply ih
      | with_reducible apply State.setQueue_ok
      | with_reducible apply State.touchEngine_ok
      | with_reducible apply State.addFault_ok
      | with_reducible apply State.walk_ok
      | with_reducible apply State.useFresh_ok
      | intro _
      | split
      | dsimp only
      | with_reducible apply State.Ok.keep

theorem State.pushTry_ok {fl0 : Nat} (s : State) (r : QReq) (h_s : s.Ok fl0) : (State.pushTry s r).1.Ok fl0 := by
  unfold State.pushTry
  try dsimp only
  repeat' first
    | with_reducible assumption
    | with_reducible apply State.walk_ok
    | intro _
    | split
    | dsimp only
    | with_reducible apply State.Ok.keep

theorem State.pushFinds_ok {fl0 : Nat} (s : State) (n : Nat) (r : QReq) (h_s : s.Ok fl0) : (State.pushFinds s n r).1.Ok fl0 := by
  unfold State.pushFinds
  try dsimp only
  repeat' first
    | with_reducible assumption
    | with_reducible apply State.pushTry_ok
    | intro _
    | split
    | dsimp only
    | with_reducible apply State.Ok.keep

theorem State.holdPush_ok {fl0 : Nat} (s : State) (n : Nat) (r : QReq) (c : Cause) (arg : Nat) (rec_ : Option FaultRec) (h_s : s.Ok fl0) : (State.holdPush s n r c arg rec_).Ok fl0 := by
  unfold State.holdPush
  try dsimp only
  repeat' first
    | with_reducible assumption
    | with_reducible apply State.setQueue_ok
    | with_reducible apply State.parkSoon_ok
    | with_reducible apply State.dlogRecord_ok
    | with_reducible apply State.addFault_ok
    | intro _
    | split
    | dsimp only
    | with_reducible apply State.Ok.keep

theorem State.turnAway_ok {fl0 : Nat} (s : State) (n : Nat) (r : QReq) (h_s : s.Ok fl0) : (State.turnAway s n r).Ok fl0 := by
  unfold State.turnAway
  try dsimp only
  repeat' first
    | with_reducible assumption
    | dsimp only
    | with_reducible apply State.Ok.keep

theorem execPushAccept_ok {fl0 : Nat} (n : Nat) (s : State) (h_s : s.Ok fl0) : okOut fl0 (execPushAccept n s) := by
  unfold execPushAccept
  try dsimp only
  repeat' first
    | with_reducible assumption
    | with_reducible apply State.turnAway_ok
    | with_reducible apply State.holdPush_ok
    | with_reducible apply State.pushFinds_ok
    | with_reducible apply State.refill_ok
    | with_reducible apply State.setQueue_ok
    | with_reducible apply State.wakeHeld_ok
    | refine State.trialWaits_ok _ _ _ ?_ ?_ _ (by assumption)
    | with_reducible apply State.unquiet_ok
    | with_reducible apply State.quiet_ok
    | with_reducible apply State.touchEngine_ok
    | with_reducible apply State.account_ok
    | with_reducible apply State.storeTr_ok
    | with_reducible apply okOut_next
    | with_reducible exact okOut_fault _
    | intro _
    | split
    | dsimp only
    | with_reducible apply State.Ok.keep

theorem execPopServe_ok {fl0 : Nat} (n : Nat) (s : State) (h_s : s.Ok fl0) : okOut fl0 (execPopServe n s) := by
  unfold execPopServe
  try dsimp only
  repeat' first
    | with_reducible assumption
    | with_reducible apply State.refill_ok
    | with_reducible apply State.setQueue_ok
    | with_reducible apply State.unquiet_ok
    | with_reducible apply State.quiet_ok
    | with_reducible apply okOut_next
    | with_reducible exact okOut_fault _
    | intro _
    | split
    | dsimp only
    | with_reducible apply State.Ok.keep

theorem execRdx_ok {fl0 : Nat} (f : Form) (s : State) (h_s : s.Ok fl0) : okOut fl0 (execRdx f s) := by
  unfold execRdx
  try dsimp only
  repeat' first
    | with_reducible assumption
    | with_reducible apply runIns_ok
    | with_reducible apply State.trapLanes_ok
    | with_reducible apply State.finish_ok
    | with_reducible apply okOut_next
    | with_reducible exact okOut_fault _
    | intro _
    | split
    | dsimp only
    | with_reducible apply State.Ok.keep

theorem State.enterHeld_ok {fl0 : Nat} (fuel : Nat) (s : State) (n : Nat) (h_s : s.Ok fl0) : (State.enterHeld fuel s n).Ok fl0 := by
  induction fuel generalizing s n with
  | zero =>
    unfold State.enterHeld
    try dsimp only
    repeat' first
      | with_reducible assumption
      | with_reducible apply State.wakeHeld_ok
      | with_reducible apply State.setJob_ok
      | intro _
      | split
      | dsimp only
      | with_reducible apply State.Ok.keep
  | succ m ih =>
    unfold State.enterHeld
    try dsimp only
    repeat' first
      | with_reducible assumption
      | with_reducible apply ih
      | with_reducible apply State.wakeHeld_ok
      | with_reducible apply State.setJob_ok
      | intro _
      | split
      | dsimp only
      | with_reducible apply State.Ok.keep

theorem execRdxDepositArrival_ok {fl0 : Nat} (n : Nat) (s : State) (h_s : s.Ok fl0) : okOut fl0 (execRdxDepositArrival n s) := by
  unfold execRdxDepositArrival
  try dsimp only
  repeat' first
    | with_reducible assumption
    | with_reducible apply State.enterHeld_ok
    | with_reducible apply State.parkSoon_ok
    | with_reducible apply State.setJob_ok
    | with_reducible apply okOut_next
    | with_reducible exact okOut_fault _
    | intro _
    | split
    | dsimp only
    | with_reducible apply State.Ok.keep

theorem execBucketFlush_ok {fl0 : Nat} (n k b : Nat) (s : State) (h_s : s.Ok fl0) : okOut fl0 (execBucketFlush n k b s) := by
  unfold execBucketFlush
  try dsimp only
  repeat' first
    | with_reducible assumption
    | with_reducible apply State.enterHeld_ok
    | with_reducible apply State.setJob_ok
    | with_reducible apply okOut_next
    | with_reducible exact okOut_fault _
    | split
    | dsimp only

theorem execStageDrain_ok {fl0 : Nat} (n k : Nat) (s : State) (h_s : s.Ok fl0) : okOut fl0 (execStageDrain n k s) := by
  unfold execStageDrain
  try dsimp only
  repeat' first
    | with_reducible assumption
    | with_reducible apply State.setJob_ok
    | with_reducible apply State.Ok.foldl
    | with_reducible apply State.Ok.foldl_fst
    | with_reducible apply okOut_next
    | with_reducible exact okOut_fault _
    | intro _
    | split
    | dsimp only

/-! Teams. -/

theorem State.fetchWord_ok {fl0 : Nat} (s : State) (f va : Nat) (h_s : s.Ok fl0) : (State.fetchWord s f va).1.Ok fl0 := by
  unfold State.fetchWord
  try dsimp only
  repeat' first
    | with_reducible assumption
    | with_reducible apply State.walk_ok
    | intro _
    | split
    | dsimp only
    | with_reducible apply State.Ok.keep

theorem State.fetch_ok {fl0 : Nat} (s : State) (i : Nat) (h_s : s.Ok fl0) : (State.fetch s i).1.Ok fl0 := by
  unfold State.fetch
  try dsimp only
  repeat' first
    | with_reducible assumption
    | with_reducible apply State.fetchWord_ok
    | intro _
    | split
    | dsimp only
    | with_reducible apply State.Ok.keep

theorem State.absentPage_ok {fl0 : Nat} (s : State) (f : Nat) (vas : List Nat) (h_s : s.Ok fl0) : (State.absentPage s f vas).1.Ok fl0 := by
  unfold State.absentPage
  try dsimp only
  repeat' first
    | with_reducible assumption
    | with_reducible apply State.walk_ok
    | with_reducible apply State.Ok.foldl
    | with_reducible apply State.Ok.foldl_fst
    | intro _
    | split
    | dsimp only
    | with_reducible apply State.Ok.keep

theorem State.parkContext_ok {fl0 : Nat} (s : State) (i va cause : Nat) (h_s : s.Ok fl0) : (State.parkContext s i va cause).Ok fl0 := by
  unfold State.parkContext
  try dsimp only
  repeat' first
    | with_reducible assumption
    | with_reducible apply State.fatal_ok
    | with_reducible apply State.parkNoted_ok
    | with_reducible apply State.addFault_ok
    | split
    | dsimp only
    | with_reducible apply State.Ok.keep

theorem State.drainAll_ok {fl0 : Nat} (s : State) (h_s : s.Ok fl0) : (State.drainAll s).Ok fl0 := by
  unfold State.drainAll
  try dsimp only
  repeat' first
    | with_reducible assumption
    | with_reducible apply State.drainReports_ok
    | with_reducible apply State.drainFaults_ok
    | with_reducible apply State.Ok.foldl
    | with_reducible apply State.Ok.foldl_fst
    | intro _
    | split
    | dsimp only

theorem State.passClock_ok {fl0 : Nat} (s : State) (h_s : s.Ok fl0) : (State.passClock s).Ok fl0 := by
  unfold State.passClock
  try dsimp only
  repeat' first
    | with_reducible assumption
    | with_reducible apply State.drainAll_ok
    | with_reducible apply State.tick_ok
    | intro _
    | split
    | dsimp only
    | with_reducible apply State.Ok.keep

theorem State.setRlines_ok {fl0 : Nat} (s : State) (k : Nat) (l : List (Nat × Nat × Bool)) (h_s : s.Ok fl0) : (State.setRlines s k l).Ok fl0 := by
  unfold State.setRlines
  try dsimp only
  repeat' first
    | with_reducible assumption
    | dsimp only
    | with_reducible apply State.Ok.keep

theorem State.ctxLines_ok {fl0 : Nat} (s : State) (core f va n : Nat) (wr : Bool) (h_s : s.Ok fl0) : (State.ctxLines s core f va n wr).Ok fl0 := by
  unfold State.ctxLines
  try dsimp only
  repeat' first
    | with_reducible assumption
    | with_reducible apply State.touchEngine_ok
    | with_reducible apply State.ctxTag_ok
    | with_reducible apply State.walk_ok
    | with_reducible apply State.Ok.foldl
    | with_reducible apply State.Ok.foldl_fst
    | intro _
    | split
    | dsimp only
    | with_reducible apply State.Ok.keep

theorem State.writeLine_ok {fl0 : Nat} (s0 : State) (i n w : Nat) (h_s0 : s0.Ok fl0) : (State.writeLine s0 i n w).Ok fl0 := by
  unfold State.writeLine
  try dsimp only
  repeat' first
    | with_reducible assumption
    | with_reducible apply State.ctxLines_ok
    | with_reducible apply State.ctxPut_ok
    | with_reducible apply State.setTeam_ok
    | split
    | dsimp only
    | with_reducible apply State.Ok.keep

theorem State.leaveLine_ok {fl0 : Nat} (s : State) (e : Nat × Nat × Bool) (h_s : s.Ok fl0) : (State.leaveLine s e).Ok fl0 := by
  unfold State.leaveLine
  try dsimp only
  repeat' first
    | with_reducible assumption
    | with_reducible apply State.writeLine_ok
    | with_reducible apply State.setTeam_ok
    | with_reducible apply State.Ok.foldl
    | with_reducible apply State.Ok.foldl_fst
    | intro _
    | split
    | dsimp only
    | with_reducible apply State.Ok.keep

theorem State.rvictim_ok {fl0 : Nat} (s : State) (k : Nat) (locked : Nat × Nat × Bool → Bool) (h_s : s.Ok fl0) : (State.rvictim s k locked).Ok fl0 := by
  unfold State.rvictim
  try dsimp only
  repeat' first
    | with_reducible assumption
    | with_reducible apply State.leaveLine_ok
    | with_reducible apply State.setRlines_ok
    | intro _
    | split
    | dsimp only
    | with_reducible apply State.Ok.keep

theorem State.dropLines_ok {fl0 : Nat} (s : State) (i : Nat) (h_s : s.Ok fl0) : (State.dropLines s i).Ok fl0 := by
  unfold State.dropLines
  try dsimp only
  repeat' first
    | with_reducible assumption
    | with_reducible apply State.setRlines_ok
    | intro _
    | dsimp only

theorem State.saveLines_ok {fl0 : Nat} (s : State) (i : Nat) (h_s : s.Ok fl0) : (State.saveLines s i).Ok fl0 := by
  unfold State.saveLines
  try dsimp only
  repeat' first
    | with_reducible assumption
    | with_reducible apply State.dropLines_ok
    | with_reducible apply State.leaveLine_ok
    | with_reducible apply State.writeControl_ok
    | with_reducible apply State.Ok.foldl
    | with_reducible apply State.Ok.foldl_fst
    | intro _
    | dsimp only

theorem State.saveAway_ok {fl0 : Nat} (s : State) (i : Nat) (x : Nat × Nat) (h_s : s.Ok fl0) : (State.saveAway s i x).Ok fl0 := by
  unfold State.saveAway
  try dsimp only
  repeat' first
    | with_reducible assumption
    | with_reducible apply State.dropLines_ok
    | with_reducible apply State.leaveLine_ok
    | with_reducible apply State.writeControl_ok
    | with_reducible apply State.setTeam_ok
    | with_reducible apply State.Ok.foldl
    | with_reducible apply State.Ok.foldl_fst
    | intro _
    | dsimp only
    | with_reducible apply State.Ok.keep

theorem State.restoreAway_ok {fl0 : Nat} (s : State) (i : Nat) (h_s : s.Ok fl0) : (State.restoreAway s i).Ok fl0 := by
  unfold State.restoreAway
  try dsimp only
  repeat' first
    | with_reducible assumption
    | with_reducible apply State.writeLine_ok
    | with_reducible apply State.setTeam_ok
    | with_reducible apply State.Ok.foldl
    | with_reducible apply State.Ok.foldl_fst
    | intro _
    | split
    | dsimp only
    | with_reducible apply State.Ok.keep

theorem State.fetchLine_ok {fl0 : Nat} (s : State) (i n w : Nat) (whole : Bool) (h_s : s.Ok fl0) : (State.fetchLine s i n w whole).Ok fl0 := by
  unfold State.fetchLine
  try dsimp only
  repeat' first
    | with_reducible assumption
    | with_reducible apply State.ctxLines_ok
    | with_reducible apply State.vread_ok
    | with_reducible apply State.setTeam_ok
    | with_reducible apply State.Ok.foldl
    | with_reducible apply State.Ok.foldl_fst
    | intro _
    | split
    | dsimp only
    | with_reducible apply State.Ok.keep

theorem State.placeLine_ok {fl0 : Nat} (s : State) (i n w : Nat) (wr : Bool) (ns : List Nat) (fetch : State → State) (h_s : s.Ok fl0) (h_fetch : ∀ u : State, u.Ok fl0 → (fetch u).Ok fl0) : (State.placeLine s i n w wr ns fetch).Ok fl0 := by
  unfold State.placeLine
  try dsimp only
  repeat' first
    | with_reducible assumption
    | with_reducible apply h_fetch
    | with_reducible apply State.rvictim_ok
    | with_reducible apply State.setRlines_ok
    | with_reducible apply State.fetch_ok
    | intro _
    | split
    | dsimp only
    | with_reducible apply State.Ok.keep

theorem State.fillLine_ok {fl0 : Nat} (s : State) (i n w : Nat) (ns : List Nat) (whole : Bool) (h_s : s.Ok fl0) : (State.fillLine s i n w ns whole).Ok fl0 := by
  unfold State.fillLine
  try dsimp only
  repeat' first
    | with_reducible assumption
    | with_reducible apply State.placeLine_ok
    | with_reducible apply State.fetchLine_ok
    | intro _
    | dsimp only

theorem execRegisterMissFill_ok {fl0 : Nat} (i n w : Nat) (s : State) (h_s : s.Ok fl0) : okOut fl0 (execRegisterMissFill i n w s) := by
  unfold execRegisterMissFill
  try dsimp only
  repeat' first
    | with_reducible assumption
    | with_reducible apply State.fillLine_ok
    | with_reducible apply okOut_next
    | with_reducible exact okOut_fault _
    | split
    | dsimp only

theorem State.fillWindow_ok {fl0 : Nat} (s : State) (i : Nat) (x : Ins) (h_s : s.Ok fl0) : (State.fillWindow s i x).Ok fl0 := by
  unfold State.fillWindow
  try dsimp only
  repeat' first
    | with_reducible assumption
    | with_reducible apply State.fillLine_ok
    | with_reducible apply State.setTeam_ok
    | with_reducible apply State.Ok.foldl
    | with_reducible apply State.Ok.foldl_fst
    | intro _
    | split
    | dsimp only
    | with_reducible apply State.Ok.keep

theorem State.dirtied_ok {fl0 : Nat} (s : State) (i : Nat) (x : Instr) (t0 : Team) (h_s : s.Ok fl0) : (State.dirtied s i x t0).Ok fl0 := by
  unfold State.dirtied
  generalize insOf x = o
  dsimp only
  split
  · exact h_s
  · cases o with
    | none => exact h_s
    | some y => exact State.Ok.foldl h_s (fun u e h => State.placeLine_ok _ _ _ _ _ _ _ h (fun _ hu => hu))

theorem State.writeLanes_ok {fl0 : Nat} (s : State) (i n w : Nat) (ls : List Nat) (h_s : s.Ok fl0) : (State.writeLanes s i n w ls).Ok fl0 := by
  unfold State.writeLanes
  try dsimp only
  repeat' first
    | with_reducible assumption
    | with_reducible apply State.ctxPut_ok
    | with_reducible apply State.vread_ok
    | with_reducible apply State.setTeam_ok
    | with_reducible apply State.Ok.foldl
    | with_reducible apply State.Ok.foldl_fst
    | intro _
    | split
    | dsimp only
    | with_reducible apply State.Ok.keep

theorem State.landed_ok {fl0 : Nat} (s : State) (i : Nat) (t0 : Team) (rs : List Ref) (h_s : s.Ok fl0) : (State.landed s i t0 rs).Ok fl0 := by
  unfold State.landed
  try dsimp only
  repeat' first
    | with_reducible assumption
    | with_reducible apply State.writeLanes_ok
    | with_reducible apply State.setRlines_ok
    | with_reducible apply State.noteTeam_ok
    | with_reducible apply State.Ok.foldl
    | with_reducible apply State.Ok.foldl_fst
    | intro _
    | split
    | dsimp only
    | with_reducible apply State.Ok.keep

theorem State.logLost_ok {fl0 : Nat} (s : State) (i : Nat) (t0 : Team) (rs : List Ref) (h_s : s.Ok fl0) : (State.logLost s i t0 rs).Ok fl0 := by
  unfold State.logLost
  try dsimp only
  repeat' first
    | with_reducible assumption
    | with_reducible apply State.logErr_ok
    | with_reducible apply State.Ok.foldl
    | with_reducible apply State.Ok.foldl_fst
    | intro _
    | split
    | dsimp only
    | with_reducible apply State.Ok.keep

theorem State.recount_ok {fl0 : Nat} (s : State) (i : Nat) (h_s : s.Ok fl0) : (State.recount s i).Ok fl0 := by
  unfold State.recount
  try dsimp only
  repeat' first
    | with_reducible assumption
    | with_reducible apply State.noteTeam_ok
    | with_reducible apply State.setTeam_ok
    | split
    | dsimp only
    | with_reducible apply State.Ok.keep

theorem execMmaArrayExecution_ok {fl0 : Nat} (core part : Nat) (s : State) (h_s : s.Ok fl0) : okOut fl0 (execMmaArrayExecution core part s) := by
  unfold execMmaArrayExecution
  try dsimp only
  repeat' first
    | with_reducible assumption
    | with_reducible apply State.landed_ok
    | with_reducible apply State.mmaWord_ok
    | with_reducible apply State.as_ok
    | with_reducible apply okOut_next
    | with_reducible exact okOut_fault _
    | intro _
    | split
    | dsimp only
    | with_reducible apply State.Ok.keep

theorem execLateReply_ok {fl0 : Nat} (n : Nat) (s : State) (h_s : s.Ok fl0) : okOut fl0 (execLateReply n s) := by
  unfold execLateReply
  try dsimp only
  repeat' first
    | with_reducible assumption
    | with_reducible apply State.recount_ok
    | with_reducible apply State.logLost_ok
    | with_reducible apply State.landed_ok
    | with_reducible apply State.account_ok
    | with_reducible apply State.setTeam_ok
    | with_reducible apply State.Ok.foldl
    | with_reducible apply State.Ok.foldl_fst
    | with_reducible apply okOut_next
    | with_reducible exact okOut_fault _
    | intro _
    | split
    | dsimp only
    | with_reducible apply State.Ok.keep

theorem State.setCluster_ok {fl0 : Nat} (s : State) (c : Nat) (x : Cluster) (h_s : s.Ok fl0) : (State.setCluster s c x).Ok fl0 := by
  unfold State.setCluster
  try dsimp only
  repeat' first
    | with_reducible assumption
    | dsimp only
    | with_reducible apply State.Ok.keep

theorem State.saveSide_ok {fl0 : Nat} (s : State) (i : Nat) (h_s : s.Ok fl0) : (State.saveSide s i).Ok fl0 := by
  unfold State.saveSide
  try dsimp only
  repeat' first
    | with_reducible assumption
    | with_reducible apply State.imagePut_ok
    | with_reducible apply State.setTeam_ok
    | intro _
    | split
    | dsimp only
    | with_reducible apply State.Ok.keep

theorem State.evictTeam_ok {fl0 : Nat} (s : State) (i : Nat) (out : Bool) (h_s : s.Ok fl0) : (State.evictTeam s i out).Ok fl0 := by
  unfold State.evictTeam
  try dsimp only
  repeat' first
    | with_reducible assumption
    | with_reducible apply State.saveSide_ok
    | with_reducible apply State.saveAway_ok
    | with_reducible apply State.saveLines_ok
    | with_reducible apply State.recordWaste_ok
    | with_reducible apply State.stopMma_ok
    | with_reducible apply State.setTeam_ok
    | intro _
    | split
    | dsimp only
    | with_reducible apply State.Ok.keep

theorem State.partialEvict_ok {fl0 : Nat} (fuel : Nat) (s : State) (core part vf need : Nat) (h_s : s.Ok fl0) : (State.partialEvict fuel s core part vf need).Ok fl0 := by
  induction fuel generalizing s core part vf need with
  | zero =>
    unfold State.partialEvict
    try dsimp only
    repeat' first
      | with_reducible assumption
      | with_reducible apply State.evictTeam_ok
      | intro _
      | split
      | dsimp only
      | with_reducible apply State.Ok.keep
  | succ m ih =>
    unfold State.partialEvict
    try dsimp only
    repeat' first
      | with_reducible assumption
      | with_reducible apply ih
      | with_reducible apply State.evictTeam_ok
      | intro _
      | split
      | dsimp only
      | with_reducible apply State.Ok.keep

theorem State.readControl_ok {fl0 : Nat} (s : State) (i : Nat) (h_s : s.Ok fl0) : (State.readControl s i).Ok fl0 := by
  unfold State.readControl
  try dsimp only
  repeat' first
    | with_reducible assumption
    | with_reducible apply State.restoreAway_ok
    | with_reducible apply State.ctxLines_ok
    | with_reducible apply State.vread_ok
    | with_reducible apply State.setTeam_ok
    | intro _
    | split
    | dsimp only
    | with_reducible apply State.Ok.keep

theorem State.redecodeMma_ok {fl0 : Nat} (s : State) (i : Nat) (h_s : s.Ok fl0) : (State.redecodeMma s i).Ok fl0 := by
  unfold State.redecodeMma
  try dsimp only
  repeat' first
    | with_reducible assumption
    | with_reducible apply State.setTeam_ok
    | intro _
    | split
    | dsimp only
    | with_reducible apply State.Ok.keep

theorem execTeamActivation_ok {fl0 : Nat} (core : Nat) (s : State) (h_s : s.Ok fl0) : okOut fl0 (execTeamActivation core s) := by
  unfold execTeamActivation
  try dsimp only
  repeat' first
    | with_reducible assumption
    | with_reducible apply State.redecodeMma_ok
    | with_reducible apply State.readControl_ok
    | with_reducible apply State.partialEvict_ok
    | with_reducible apply State.setCluster_ok
    | with_reducible apply State.parkContext_ok
    | with_reducible apply State.absentPage_ok
    | with_reducible apply State.requeueMma_ok
    | with_reducible apply State.syncLt_ok
    | with_reducible apply State.setTeam_ok
    | with_reducible apply okOut_next
    | with_reducible exact okOut_fault _
    | intro _
    | split
    | dsimp only
    | with_reducible apply State.Ok.keep

theorem execTeamEviction_ok {fl0 : Nat} (core part : Nat) (s : State) (h_s : s.Ok fl0) : okOut fl0 (execTeamEviction core part s) := by
  unfold execTeamEviction
  try dsimp only
  repeat' first
    | with_reducible assumption
    | with_reducible apply State.evictTeam_ok
    | with_reducible apply okOut_next
    | with_reducible exact okOut_fault _
    | intro _
    | split
    | dsimp only
    | with_reducible apply State.Ok.keep

theorem execReadyListSteal_ok {fl0 : Nat} (core : Nat) (s : State) (h_s : s.Ok fl0) : okOut fl0 (execReadyListSteal core s) := by
  unfold execReadyListSteal
  try dsimp only
  repeat' first
    | with_reducible assumption
    | with_reducible apply State.dropNc_ok
    | with_reducible apply State.flushNc_ok
    | with_reducible apply State.setTeam_ok
    | with_reducible apply okOut_next
    | with_reducible exact okOut_fault _
    | intro _
    | split
    | dsimp only
    | with_reducible apply State.Ok.keep

theorem execStarvationPick_ok {fl0 : Nat} (core part : Nat) (s : State) (h_s : s.Ok fl0) : okOut fl0 (execStarvationPick core part s) := by
  unfold execStarvationPick
  try dsimp only
  repeat' first
    | with_reducible assumption
    | with_reducible apply okOut_next
    | with_reducible exact okOut_fault _
    | intro _
    | split
    | dsimp only
    | with_reducible apply State.Ok.keep

theorem State.retried_ok {fl0 : Nat} (s : State) (i : Nat) (h_s : s.Ok fl0) : (State.retried s i).Ok fl0 := by
  unfold State.retried
  try dsimp only
  repeat' first
    | with_reducible assumption
    | with_reducible apply State.setTeam_ok
    | intro _
    | split
    | dsimp only
    | with_reducible apply State.Ok.keep

theorem State.goOn_ok {fl0 : Nat} (s : State) (i : Nat) (h_s : s.Ok fl0) : (State.goOn s i).Ok fl0 := by
  unfold State.goOn
  try dsimp only
  repeat' first
    | with_reducible assumption
    | with_reducible apply State.runRest_ok
    | intro _
    | split
    | dsimp only
    | with_reducible apply State.Ok.keep

theorem execRequestRetry_ok {fl0 : Nat} (i : Nat) (s : State) (h_s : s.Ok fl0) : okOut fl0 (execRequestRetry i s) := by
  unfold execRequestRetry
  try dsimp only
  repeat' first
    | with_reducible assumption
    | with_reducible apply State.goOn_ok
    | with_reducible apply State.retried_ok
    | with_reducible apply okOut_next
    | with_reducible exact okOut_fault _
    | dsimp only

theorem execSleepWake_ok {fl0 : Nat} (i : Nat) (s : State) (h_s : s.Ok fl0) : okOut fl0 (execSleepWake i s) := by
  unfold execSleepWake
  try dsimp only
  repeat' first
    | with_reducible assumption
    | with_reducible apply State.unpark_ok
    | with_reducible apply okOut_next
    | with_reducible exact okOut_fault _
    | split
    | dsimp only

theorem State.forgetTeam_ok {fl0 : Nat} (s : State) (i : Nat) (h_s : s.Ok fl0) : (State.forgetTeam s i).Ok fl0 := by
  unfold State.forgetTeam
  try dsimp only
  repeat' first
    | with_reducible assumption
    | intro _
    | split
    | dsimp only
    | with_reducible apply State.Ok.keep

theorem execTeamResume_ok {fl0 : Nat} (i : Nat) (s : State) (h_s : s.Ok fl0) : okOut fl0 (execTeamResume i s) := by
  unfold execTeamResume
  try dsimp only
  repeat' first
    | with_reducible assumption
    | with_reducible apply State.forgetTeam_ok
    | with_reducible apply State.requeueMma_ok
    | with_reducible apply State.unpark_ok
    | with_reducible apply okOut_next
    | with_reducible exact okOut_fault _
    | split
    | dsimp only

theorem State.retireTeam_ok {fl0 : Nat} (s : State) (i : Nat) (h_s : s.Ok fl0) : (State.retireTeam s i).Ok fl0 := by
  unfold State.retireTeam
  try dsimp only
  repeat' first
    | with_reducible assumption
    | with_reducible apply State.restoreAway_ok
    | with_reducible apply State.dropLines_ok
    | with_reducible apply State.recordWaste_ok
    | with_reducible apply State.barrierStep_ok
    | with_reducible apply State.setArray_ok
    | with_reducible apply State.writeControl_ok
    | with_reducible apply State.setTeam_ok
    | intro _
    | split
    | dsimp only
    | with_reducible apply State.Ok.keep

theorem State.cancelNow_ok {fl0 : Nat} (s : State) (i : Nat) (h_s : s.Ok fl0) : (State.cancelNow s i).Ok fl0 := by
  unfold State.cancelNow
  try dsimp only
  repeat' first
    | with_reducible assumption
    | with_reducible apply State.retireTeam_ok
    | with_reducible apply State.saveSide_ok
    | with_reducible apply State.saveLines_ok
    | with_reducible apply State.recordWaste_ok
    | with_reducible apply State.stopMma_ok
    | with_reducible apply State.noteTeam_ok
    | with_reducible apply State.setTeam_ok
    | split
    | dsimp only
    | with_reducible apply State.Ok.keep

theorem State.cancelTeam_ok {fl0 : Nat} (s : State) (i : Nat) (h_s : s.Ok fl0) : (State.cancelTeam s i).Ok fl0 := by
  unfold State.cancelTeam
  try dsimp only
  repeat' first
    | with_reducible assumption
    | with_reducible apply State.cancelNow_ok
    | with_reducible apply State.setTeam_ok
    | intro _
    | split
    | dsimp only
    | with_reducible apply State.Ok.keep

theorem execTeamRetirement_ok {fl0 : Nat} (i : Nat) (s : State) (h_s : s.Ok fl0) : okOut fl0 (execTeamRetirement i s) := by
  unfold execTeamRetirement
  try dsimp only
  repeat' first
    | with_reducible assumption
    | with_reducible apply State.retireTeam_ok
    | with_reducible apply okOut_next
    | with_reducible exact okOut_fault _
    | split
    | dsimp only

theorem execContextImageFree_ok {fl0 : Nat} (i : Nat) (s : State) (h_s : s.Ok fl0) : okOut fl0 (execContextImageFree i s) := by
  unfold execContextImageFree
  try dsimp only
  repeat' first
    | with_reducible assumption
    | with_reducible apply State.recordWaste_ok
    | with_reducible apply State.setTeam_ok
    | with_reducible apply okOut_next
    | with_reducible exact okOut_fault _
    | split
    | dsimp only
    | with_reducible apply State.Ok.keep

theorem execCancelledPendingRetire_ok {fl0 : Nat} (i : Nat) (s : State) (h_s : s.Ok fl0) : okOut fl0 (execCancelledPendingRetire i s) := by
  unfold execCancelledPendingRetire
  try dsimp only
  repeat' first
    | with_reducible assumption
    | with_reducible apply State.retireTeam_ok
    | with_reducible apply okOut_next
    | with_reducible exact okOut_fault _
    | split
    | dsimp only

/-! Ballot. -/

theorem State.cancelSibling_ok {fl0 : Nat} (s : State) (k i : Nat) (h_s : s.Ok fl0) : (State.cancelSibling s k i).Ok fl0 := by
  unfold State.cancelSibling
  try dsimp only
  repeat' first
    | with_reducible assumption
    | with_reducible apply State.cancelTeam_ok
    | with_reducible apply State.setGroup_ok
    | with_reducible apply State.setJob_ok
    | with_reducible apply State.Ok.foldl
    | with_reducible apply State.Ok.foldl_fst
    | intro _
    | dsimp only
    | with_reducible apply State.Ok.keep

theorem State.decideGroup_ok {fl0 : Nat} (s : State) (k cause : Nat) (winner : Option Nat) (h_s : s.Ok fl0) : (State.decideGroup s k cause winner).Ok fl0 := by
  unfold State.decideGroup
  try dsimp only
  repeat' first
    | with_reducible assumption
    | with_reducible apply State.cancelSibling_ok
    | with_reducible apply State.putRecords_ok
    | with_reducible apply State.setGroup_ok
    | with_reducible apply State.Ok.foldl
    | with_reducible apply State.Ok.foldl_fst
    | intro _
    | dsimp only
    | with_reducible apply State.Ok.keep

theorem execFinishedSiblingCheck_ok {fl0 : Nat} (k : Nat) (s : State) (h_s : s.Ok fl0) : okOut fl0 (execFinishedSiblingCheck k s) := by
  unfold execFinishedSiblingCheck
  try dsimp only
  repeat' first
    | with_reducible assumption
    | with_reducible apply State.decideGroup_ok
    | with_reducible apply okOut_next
    | with_reducible exact okOut_fault _
    | intro _
    | split
    | dsimp only
    | with_reducible apply State.Ok.keep

theorem State.postHash_ok {fl0 : Nat} (s : State) (k i : Nat) (h : W64) (h_s : s.Ok fl0) : (State.postHash s k i h).1.Ok fl0 := by
  unfold State.postHash
  try dsimp only
  repeat' first
    | with_reducible assumption
    | with_reducible apply State.decideGroup_ok
    | with_reducible apply State.putRecord_ok
    | with_reducible apply State.setGroup_ok
    | intro _
    | split
    | dsimp only
    | with_reducible apply State.Ok.keep

theorem execCampanilePost_ok {fl0 : Nat} (n : Nat) (s : State) (h_s : s.Ok fl0) : okOut fl0 (execCampanilePost n s) := by
  unfold execCampanilePost
  try dsimp only
  repeat' first
    | with_reducible assumption
    | with_reducible apply State.postHash_ok
    | with_reducible apply State.dropNc_ok
    | with_reducible apply State.syncLt_ok
    | with_reducible apply okOut_next
    | with_reducible exact okOut_fault _
    | intro _
    | split
    | dsimp only
    | with_reducible apply State.Ok.keep

theorem State.sendPost_ok {fl0 : Nat} (s : State) (i : Ins) (t : Team) (kind group : Nat) (word : W64) (h_s : s.Ok fl0) : (State.sendPost s i t kind group word).Ok fl0 := by
  unfold State.sendPost
  try dsimp only
  repeat' first
    | with_reducible assumption
    | with_reducible apply State.issued_ok
    | dsimp only
    | with_reducible apply State.Ok.keep

theorem execSgpost_ok {fl0 : Nat} (f : Form) (s : State) (h_s : s.Ok fl0) : okOut fl0 (execSgpost f s) := by
  unfold execSgpost
  try dsimp only
  repeat' first
    | with_reducible assumption
    | with_reducible apply State.sendPost_ok
    | with_reducible apply runUni_ok
    | with_reducible apply State.trapLanes_ok
    | with_reducible apply okOut_next
    | with_reducible exact okOut_fault _
    | intro _
    | split
    | dsimp only

theorem execSgpoll_ok {fl0 : Nat} (f : Form) (s : State) (h_s : s.Ok fl0) : okOut fl0 (execSgpoll f s) := by
  unfold execSgpoll
  try dsimp only
  repeat' first
    | with_reducible assumption
    | with_reducible apply State.sendPost_ok
    | with_reducible apply runUni_ok
    | with_reducible apply State.trapLanes_ok
    | with_reducible apply okOut_next
    | with_reducible exact okOut_fault _
    | intro _
    | split
    | dsimp only

theorem execSgchk_ok {fl0 : Nat} (f : Form) (s : State) (h_s : s.Ok fl0) : okOut fl0 (execSgchk f s) := by
  unfold execSgchk
  try dsimp only
  repeat' first
    | with_reducible assumption
    | with_reducible apply State.sendPost_ok
    | with_reducible apply runUni_ok
    | with_reducible apply okOut_next
    | with_reducible exact okOut_fault _
    | intro _
    | dsimp only

theorem State.slotDone_ok {fl0 : Nat} (s : State) (k i : Nat) (err : Bool) (h_s : s.Ok fl0) : (State.slotDone s k i err).Ok fl0 := by
  unfold State.slotDone
  try dsimp only
  repeat' first
    | with_reducible assumption
    | with_reducible apply State.putRecord_ok
    | with_reducible apply State.setGroup_ok
    | split
    | dsimp only
    | with_reducible apply State.Ok.keep

theorem State.releasePage_ok {fl0 : Nat} (s : State) (k i die va cause : Nat) (w : Bool) (h_s : s.Ok fl0) : (State.releasePage s k i die va cause w).Ok fl0 := by
  unfold State.releasePage
  try dsimp only
  repeat' first
    | with_reducible assumption
    | with_reducible apply State.slotDone_ok
    | with_reducible apply State.setGroup_ok
    | with_reducible apply State.addFault_ok
    | split
    | dsimp only
    | with_reducible apply State.Ok.keep

theorem State.removeKeys_ok {fl0 : Nat} (s : State) (k i : Nat) (r : Rec) (keys : List Nat) (h_s : s.Ok fl0) : (State.removeKeys s k i r keys).Ok fl0 := by
  induction keys generalizing s k i r with
  | nil =>
    unfold State.removeKeys
    try dsimp only
    repeat' first
      | with_reducible assumption
      | with_reducible apply State.releasePage_ok
      | with_reducible apply State.slotDone_ok
      | with_reducible apply State.setGroup_ok
      | with_reducible apply State.setTable_ok
      | with_reducible apply spPoint_ok
      | with_reducible apply State.lineErr_ok
      | intro _
      | split
      | dsimp only
      | with_reducible apply State.Ok.keep
  | cons a r ih =>
    unfold State.removeKeys
    try dsimp only
    repeat' first
      | with_reducible assumption
      | with_reducible apply ih
      | with_reducible apply State.releasePage_ok
      | with_reducible apply State.slotDone_ok
      | with_reducible apply State.setGroup_ok
      | with_reducible apply State.setTable_ok
      | with_reducible apply spPoint_ok
      | with_reducible apply State.lineErr_ok
      | intro _
      | split
      | dsimp only
      | with_reducible apply State.Ok.keep

theorem State.releaseSlot_ok {fl0 : Nat} (s : State) (k i : Nat) (h_s : s.Ok fl0) : (State.releaseSlot s k i).Ok fl0 := by
  unfold State.releaseSlot
  try dsimp only
  repeat' first
    | with_reducible assumption
    | with_reducible apply State.removeKeys_ok
    | with_reducible apply State.releasePage_ok
    | with_reducible apply State.slotDone_ok
    | with_reducible apply State.formatted_ok
    | with_reducible apply State.spReach_ok
    | with_reducible apply State.lineErr_ok
    | with_reducible apply State.record_ok
    | intro _
    | split
    | dsimp only
    | with_reducible apply State.Ok.keep

theorem State.releaseSlots_ok {fl0 : Nat} (fuel : Nat) (s : State) (k i : Nat) (h_s : s.Ok fl0) : (State.releaseSlots fuel s k i).Ok fl0 := by
  induction fuel generalizing s k i with
  | zero =>
    unfold State.releaseSlots
    try dsimp only
    repeat' first
      | with_reducible assumption
      | with_reducible apply State.releaseSlot_ok
      | with_reducible apply State.putRecord_ok
      | with_reducible apply State.setGroup_ok
      | intro _
      | split
      | dsimp only
      | with_reducible apply State.Ok.keep
  | succ m ih =>
    unfold State.releaseSlots
    try dsimp only
    repeat' first
      | with_reducible assumption
      | with_reducible apply ih
      | with_reducible apply State.releaseSlot_ok
      | with_reducible apply State.putRecord_ok
      | with_reducible apply State.setGroup_ok
      | intro _
      | split
      | dsimp only
      | with_reducible apply State.Ok.keep

theorem execKvRelease_ok {fl0 : Nat} (k i : Nat) (s : State) (h_s : s.Ok fl0) : okOut fl0 (execKvRelease k i s) := by
  unfold execKvRelease
  try dsimp only
  repeat' first
    | with_reducible assumption
    | with_reducible apply State.releaseSlots_ok
    | refine State.trialWaits_ok _ _ _ ?_ ?_ _ (by assumption)
    | with_reducible apply State.unquiet_ok
    | with_reducible apply State.quiet_ok
    | with_reducible apply okOut_next
    | with_reducible exact okOut_fault _
    | intro _
    | split
    | dsimp only
    | with_reducible apply State.Ok.keep

theorem State.releaseResolve_ok {fl0 : Nat} (s : State) (k i : Nat) (ok : Bool) (h_s : s.Ok fl0) : (State.releaseResolve s k i ok).Ok fl0 := by
  unfold State.releaseResolve
  try dsimp only
  repeat' first
    | with_reducible assumption
    | with_reducible apply State.slotDone_ok
    | with_reducible apply State.setGroup_ok
    | split
    | dsimp only
    | with_reducible apply State.Ok.keep

theorem State.planEvent_ok {fl0 : Nat} (s : State) (i : Ins) (t : Team) (wr : Bool) (h_s : s.Ok fl0) : (State.planEvent s i t wr).1.Ok fl0 := by
  unfold State.planEvent
  try dsimp only
  repeat' first
    | with_reducible assumption
    | with_reducible apply State.plan_ok
    | intro _
    | split
    | dsimp only

theorem execEvsig_ok {fl0 : Nat} (f : Form) (s : State) (h_s : s.Ok fl0) : okOut fl0 (execEvsig f s) := by
  unfold execEvsig
  try dsimp only
  repeat' first
    | with_reducible assumption
    | with_reducible apply State.planEvent_ok
    | with_reducible apply State.runUnits_ok
    | with_reducible apply State.settle_ok
    | with_reducible apply runUni_ok
    | with_reducible apply okOut_next
    | with_reducible exact okOut_fault _
    | intro _
    | split
    | dsimp only
    | with_reducible apply State.Ok.keep

theorem execEvwait_ok {fl0 : Nat} (f : Form) (s : State) (h_s : s.Ok fl0) : okOut fl0 (execEvwait f s) := by
  unfold execEvwait
  try dsimp only
  repeat' first
    | with_reducible assumption
    | with_reducible apply State.planEvent_ok
    | with_reducible apply State.settle_ok
    | with_reducible apply State.entered_ok
    | with_reducible apply State.trapFails_ok
    | with_reducible apply runUni_ok
    | with_reducible apply State.parkHere_ok
    | with_reducible apply State.finish_ok
    | with_reducible apply State.syncLt_ok
    | with_reducible apply State.setTeam_ok
    | with_reducible apply State.Ok.foldl
    | with_reducible apply State.Ok.foldl_fst
    | with_reducible apply okOut_next
    | with_reducible exact okOut_fault _
    | intro _
    | split
    | dsimp only
    | with_reducible apply State.Ok.keep

end Sys2Proof.Machine
end

