-- ==== Sys2Proof/Laws/KeptJobs.lean ====
section
/-!
SUPPORT. Every operation of the front end and placement keeps the blown fuses and the canonical form of the memories.
-/
namespace Sys2Proof.Machine

set_option linter.unusedTactic false
set_option linter.unreachableTactic false
set_option linter.unusedSimpArgs false

/-! FrontEnd. -/

theorem State.feRead_ok {fl0 : Nat} (s : State) (f va n : Nat) (h_s : s.Ok fl0) : (State.feRead s f va n).1.Ok fl0 := by
  unfold State.feRead
  try dsimp only
  repeat' first
    | with_reducible assumption
    | with_reducible apply State.vread_ok
    | intro _
    | split
    | dsimp only
    | with_reducible apply State.Ok.keep

theorem State.feReach_ok {fl0 : Nat} (s : State) (f va n : Nat) (h_s : s.Ok fl0) : (State.feReach s f va n).1.Ok fl0 := by
  unfold State.feReach
  try dsimp only
  repeat' first
    | with_reducible assumption
    | with_reducible apply State.walk_ok
    | with_reducible apply State.Ok.foldl
    | with_reducible apply State.Ok.foldl_fst
    | intro _
    | split
    | dsimp only
    | with_reducible apply State.Ok.keep

theorem State.feWrite_ok {fl0 : Nat} (s : State) (f va : Nat) (bs : List Byte) (h_s : s.Ok fl0) : (State.feWrite s f va bs).1.Ok fl0 := by
  unfold State.feWrite
  try dsimp only
  repeat' first
    | with_reducible assumption
    | with_reducible apply State.feReach_ok
    | with_reducible apply State.tryPut_ok
    | intro _
    | split
    | dsimp only
    | with_reducible apply State.Ok.keep

theorem State.holdLine_ok {fl0 : Nat} (s : State) (f va k : Nat) (h_s : s.Ok fl0) : (State.holdLine s f va k).Ok fl0 := by
  unfold State.holdLine
  try dsimp only
  repeat' first
    | with_reducible assumption
    | with_reducible apply State.touchEngine_ok
    | with_reducible apply State.walk_ok
    | intro _
    | split
    | dsimp only
    | with_reducible apply State.Ok.keep

theorem State.feUnresolved_ok {fl0 : Nat} (s : State) (f q what n : Nat) (h_s : s.Ok fl0) : (State.feUnresolved s f q what n).Ok fl0 := by
  unfold State.feUnresolved
  try dsimp only
  repeat' first
    | with_reducible assumption
    | with_reducible apply State.report_ok
    | with_reducible apply State.setJob_ok
    | with_reducible apply State.setReg_ok
    | intro _
    | split
    | dsimp only
    | with_reducible apply State.Ok.keep

theorem State.feBlock_ok {fl0 : Nat} (s : State) (f q what n : Nat) (wr : Bool) (x : FeRead) (h_s : s.Ok fl0) : (State.feBlock s f q what n wr x).Ok fl0 := by
  unfold State.feBlock
  try dsimp only
  repeat' first
    | with_reducible assumption
    | with_reducible apply State.feUnresolved_ok
    | with_reducible apply State.addFault_ok
    | intro _
    | split
    | dsimp only
    | with_reducible apply State.Ok.keep

theorem State.tryAppends_ok {fl0 : Nat} (fuel : Nat) (s : State) (f q : Nat) (h_s : s.Ok fl0) : (State.tryAppends fuel s f q).Ok fl0 := by
  induction fuel generalizing s f q with
  | zero =>
    unfold State.tryAppends
    try dsimp only
    repeat' first
      | with_reducible assumption
      | with_reducible apply State.feBlock_ok
      | with_reducible apply State.feWrite_ok
      | with_reducible apply State.feRead_ok
      | with_reducible apply State.wakeHeld_ok
      | intro _
      | split
      | dsimp only
      | with_reducible apply State.Ok.keep
  | succ m ih =>
    unfold State.tryAppends
    try dsimp only
    repeat' first
      | with_reducible assumption
      | with_reducible apply ih
      | with_reducible apply State.feBlock_ok
      | with_reducible apply State.feWrite_ok
      | with_reducible apply State.feRead_ok
      | with_reducible apply State.wakeHeld_ok
      | intro _
      | split
      | dsimp only
      | with_reducible apply State.Ok.keep

theorem execLaunch_ok {fl0 : Nat} (f : Form) (s : State) (h_s : s.Ok fl0) : okOut fl0 (execLaunch f s) := by
  unfold execLaunch
  try dsimp only
  repeat' first
    | with_reducible assumption
    | with_reducible apply State.tryAppends_ok
    | with_reducible apply State.parkSoon_ok
    | with_reducible apply runUni_ok
    | with_reducible apply State.trapAt_ok
    | with_reducible apply State.issued_ok
    | with_reducible apply okOut_next
    | with_reducible exact okOut_fault _
    | intro _
    | split
    | dsimp only
    | with_reducible apply State.Ok.keep

theorem execTailLineInvalidation_ok {fl0 : Nat} (f q : Nat) (s : State) (h_s : s.Ok fl0) : okOut fl0 (execTailLineInvalidation f q s) := by
  unfold execTailLineInvalidation
  try dsimp only
  repeat' first
    | with_reducible assumption
    | with_reducible apply State.tryAppends_ok
    | with_reducible apply State.feBlock_ok
    | with_reducible apply State.holdLine_ok
    | with_reducible apply State.feRead_ok
    | with_reducible apply okOut_next
    | with_reducible exact okOut_fault _
    | intro _
    | split
    | dsimp only
    | with_reducible apply State.Ok.keep

theorem State.descTables_ok {fl0 : Nat} (s : State) (f q : Nat) (w : List W64) (h_s : s.Ok fl0) : (State.descTables s f q w).1.Ok fl0 := by
  unfold State.descTables
  try dsimp only
  repeat' first
    | with_reducible assumption
    | with_reducible apply State.feReach_ok
    | with_reducible apply State.feRead_ok
    | intro _
    | split
    | dsimp only
    | with_reducible apply State.Ok.keep

theorem State.dropJob_ok {fl0 : Nat} (s : State) (n : Nat) (h_s : s.Ok fl0) : (State.dropJob s n).Ok fl0 := by
  unfold State.dropJob
  try dsimp only
  repeat' first
    | with_reducible assumption
    | intro _
    | split
    | dsimp only
    | with_reducible apply State.Ok.keep

theorem State.reportDone_ok {fl0 : Nat} (s : State) (n : Nat) (h_s : s.Ok fl0) : (State.reportDone s n).Ok fl0 := by
  unfold State.reportDone
  try dsimp only
  repeat' first
    | with_reducible assumption
    | with_reducible apply State.dropJob_ok
    | with_reducible apply State.report_ok
    | split
    | dsimp only

theorem State.completeJob_ok {fl0 : Nat} (s : State) (n : Nat) (h_s : s.Ok fl0) : (State.completeJob s n).Ok fl0 := by
  unfold State.completeJob
  try dsimp only
  repeat' first
    | with_reducible assumption
    | with_reducible apply State.reportDone_ok
    | with_reducible apply State.feBlock_ok
    | with_reducible apply State.feWrite_ok
    | with_reducible apply State.feRead_ok
    | intro _
    | split
    | dsimp only
    | with_reducible apply State.Ok.keep

theorem State.finishJob_ok {fl0 : Nat} (s : State) (n status : Nat) (h_s : s.Ok fl0) : (State.finishJob s n status).Ok fl0 := by
  unfold State.finishJob
  try dsimp only
  repeat' first
    | with_reducible assumption
    | with_reducible apply State.completeJob_ok
    | with_reducible apply State.setJob_ok
    | dsimp only
    | with_reducible apply State.Ok.keep

theorem State.takeDescriptor_ok {fl0 : Nat} (s : State) (f q : Nat) (w : List W64) (ds : List (List W64)) (status : Nat) (h_s : s.Ok fl0) : (State.takeDescriptor s f q w ds status).Ok fl0 := by
  unfold State.takeDescriptor
  try dsimp only
  repeat' first
    | with_reducible assumption
    | with_reducible apply State.finishJob_ok
    | with_reducible apply State.tryAppends_ok
    | with_reducible apply State.feWrite_ok
    | with_reducible apply State.setJob_ok
    | with_reducible apply State.addReg_ok
    | split
    | dsimp only
    | with_reducible apply State.Ok.keep

theorem execDescriptorConsume_ok {fl0 : Nat} (f q : Nat) (s : State) (h_s : s.Ok fl0) : okOut fl0 (execDescriptorConsume f q s) := by
  unfold execDescriptorConsume
  try dsimp only
  repeat' first
    | with_reducible assumption
    | with_reducible apply State.takeDescriptor_ok
    | with_reducible apply State.descTables_ok
    | with_reducible apply State.feBlock_ok
    | with_reducible apply State.holdLine_ok
    | with_reducible apply State.feRead_ok
    | with_reducible apply okOut_next
    | with_reducible exact okOut_fault _
    | intro _
    | split
    | dsimp only
    | with_reducible apply State.Ok.keep

theorem State.waitCheck_ok {fl0 : Nat} (s : State) (j : Job) (h_s : s.Ok fl0) : (State.waitCheck s j).1.Ok fl0 := by
  unfold State.waitCheck
  try dsimp only
  repeat' first
    | with_reducible assumption
    | with_reducible apply State.feRead_ok
    | with_reducible apply State.Ok.foldl
    | with_reducible apply State.Ok.foldl_fst
    | intro _
    | split
    | dsimp only
    | with_reducible apply State.Ok.keep

theorem State.holdWaits_ok {fl0 : Nat} (s : State) (n : Nat) (h_s : s.Ok fl0) : (State.holdWaits s n).Ok fl0 := by
  unfold State.holdWaits
  try dsimp only
  repeat' first
    | with_reducible assumption
    | with_reducible apply State.holdLine_ok
    | with_reducible apply State.Ok.foldl
    | with_reducible apply State.Ok.foldl_fst
    | intro _
    | dsimp only

theorem execWaitCounterWrite_ok {fl0 : Nat} (n : Nat) (s : State) (h_s : s.Ok fl0) : okOut fl0 (execWaitCounterWrite n s) := by
  unfold execWaitCounterWrite
  try dsimp only
  repeat' first
    | with_reducible assumption
    | with_reducible apply State.holdWaits_ok
    | with_reducible apply State.waitCheck_ok
    | with_reducible apply State.feBlock_ok
    | with_reducible apply State.setJob_ok
    | with_reducible apply okOut_next
    | with_reducible exact okOut_fault _
    | intro _
    | split
    | dsimp only
    | with_reducible apply State.Ok.keep

theorem execLaunchDescriptor_ok {fl0 : Nat} (n : Nat) (s : State) (h_s : s.Ok fl0) : okOut fl0 (execLaunchDescriptor n s) := by
  unfold execLaunchDescriptor
  try dsimp only
  repeat' first
    | with_reducible assumption
    | with_reducible apply State.setGroup_ok
    | with_reducible apply State.setJob_ok
    | with_reducible apply okOut_next
    | with_reducible exact okOut_fault _
    | split
    | dsimp only
    | with_reducible apply State.Ok.keep

theorem State.applyGen_ok {fl0 : Nat} (s : State) (f : Nat) (r : Rec) (h_s : s.Ok fl0) : (State.applyGen s f r).Ok fl0 := by
  unfold State.applyGen
  try dsimp only
  repeat' first
    | with_reducible assumption
    | with_reducible apply State.setTable_ok
    | split
    | dsimp only
    | with_reducible apply State.Ok.keep

theorem execDirectoryUpdate_ok {fl0 : Nat} (n : Nat) (s : State) (h_s : s.Ok fl0) : okOut fl0 (execDirectoryUpdate n s) := by
  unfold execDirectoryUpdate
  try dsimp only
  repeat' first
    | with_reducible assumption
    | with_reducible apply State.applyGen_ok
    | with_reducible apply State.finishJob_ok
    | with_reducible apply State.feBlock_ok
    | with_reducible apply State.feWrite_ok
    | with_reducible apply State.record_ok
    | with_reducible apply okOut_next
    | with_reducible exact okOut_fault _
    | intro _
    | split
    | dsimp only
    | with_reducible apply State.Ok.keep

theorem State.ringEntries_ok {fl0 : Nat} (k : Nat) (s : State) (vf : Nat) (q : Queue) (h_s : s.Ok fl0) : (State.ringEntries k s vf q).1.Ok fl0 := by
  induction k generalizing s vf q with
  | zero =>
    unfold State.ringEntries
    try dsimp only
    repeat' first
      | with_reducible assumption
      | with_reducible apply State.feRead_ok
      | intro _
      | split
      | dsimp only
      | with_reducible apply State.Ok.keep
  | succ m ih =>
    unfold State.ringEntries
    try dsimp only
    repeat' first
      | with_reducible assumption
      | with_reducible apply ih
      | with_reducible apply State.feRead_ok
      | intro _
      | split
      | dsimp only
      | with_reducible apply State.Ok.keep

theorem State.moveRing_ok {fl0 : Nat} (k : Nat) (s : State) (vf : Nat) (old new : Queue) (h_s : s.Ok fl0) : (State.moveRing k s vf old new).1.Ok fl0 := by
  unfold State.moveRing
  try dsimp only
  repeat' first
    | with_reducible assumption
    | with_reducible apply State.ringEntries_ok
    | with_reducible apply State.feWrite_ok
    | with_reducible apply State.Ok.foldl
    | with_reducible apply State.Ok.foldl_fst
    | intro _
    | split
    | dsimp only
    | with_reducible apply State.Ok.keep

theorem execQueueDescriptor_ok {fl0 : Nat} (n : Nat) (s : State) (h_s : s.Ok fl0) : okOut fl0 (execQueueDescriptor n s) := by
  unfold execQueueDescriptor
  try dsimp only
  repeat' first
    | with_reducible assumption
    | with_reducible apply State.moveRing_ok
    | with_reducible apply State.finishJob_ok
    | with_reducible apply State.feBlock_ok
    | with_reducible apply State.setQueue_ok
    | with_reducible apply okOut_next
    | with_reducible exact okOut_fault _
    | intro _
    | split
    | dsimp only
    | with_reducible apply State.Ok.keep

theorem State.cancelJob_ok {fl0 : Nat} (s : State) (n : Nat) (h_s : s.Ok fl0) : (State.cancelJob s n).Ok fl0 := by
  unfold State.cancelJob
  try dsimp only
  repeat' first
    | with_reducible assumption
    | with_reducible apply State.cancelTeam_ok
    | with_reducible apply State.setJob_ok
    | with_reducible apply State.Ok.foldl
    | with_reducible apply State.Ok.foldl_fst
    | intro _
    | dsimp only
    | with_reducible apply State.Ok.keep

theorem execCancel_ok {fl0 : Nat} (n : Nat) (s : State) (h_s : s.Ok fl0) : okOut fl0 (execCancel n s) := by
  unfold execCancel
  try dsimp only
  repeat' first
    | with_reducible assumption
    | with_reducible apply State.cancelJob_ok
    | with_reducible apply State.finishJob_ok
    | with_reducible apply State.Ok.foldl
    | with_reducible apply State.Ok.foldl_fst
    | with_reducible apply okOut_next
    | with_reducible exact okOut_fault _
    | intro _
    | split
    | dsimp only

theorem execSignal_ok {fl0 : Nat} (n : Nat) (s : State) (h_s : s.Ok fl0) : okOut fl0 (execSignal n s) := by
  unfold execSignal
  try dsimp only
  repeat' first
    | with_reducible assumption
    | with_reducible apply State.finishJob_ok
    | with_reducible apply okOut_next
    | with_reducible exact okOut_fault _
    | split
    | dsimp only

theorem execGroupOpen_ok {fl0 : Nat} (n : Nat) (s : State) (h_s : s.Ok fl0) : okOut fl0 (execGroupOpen n s) := by
  unfold execGroupOpen
  dsimp only
  have hw := State.feWrite_ok s (s.job n).fn ((s.job n).word 4).toNat blankRecords h_s
  generalize s.feWrite (s.job n).fn ((s.job n).word 4).toNat blankRecords = w at hw ⊢
  split
  · exact h_s
  · split
    · exact State.finishJob_ok _ _ _ h_s
    · split
      · exact State.finishJob_ok _ _ _ (State.setGroup_ok _ _ _ hw)
      · exact State.feBlock_ok _ _ _ _ _ _ _ hw

theorem execGroupFree_ok {fl0 : Nat} (n : Nat) (s : State) (h_s : s.Ok fl0) : okOut fl0 (execGroupFree n s) := by
  unfold execGroupFree
  try dsimp only
  repeat' first
    | with_reducible assumption
    | with_reducible apply State.finishJob_ok
    | with_reducible apply State.decideGroup_ok
    | with_reducible apply State.setJob_ok
    | with_reducible apply okOut_next
    | with_reducible exact okOut_fault _
    | split
    | dsimp only
    | with_reducible apply State.Ok.keep

theorem execGroupFreeCompletion_ok {fl0 : Nat} (n : Nat) (s : State) (h_s : s.Ok fl0) : okOut fl0 (execGroupFreeCompletion n s) := by
  unfold execGroupFreeCompletion
  try dsimp only
  repeat' first
    | with_reducible assumption
    | with_reducible apply State.finishJob_ok
    | with_reducible apply State.setGroup_ok
    | with_reducible apply State.logErr_ok
    | with_reducible apply okOut_next
    | with_reducible exact okOut_fault _
    | split
    | dsimp only

theorem execLaunchCompletion_ok {fl0 : Nat} (n : Nat) (s : State) (h_s : s.Ok fl0) : okOut fl0 (execLaunchCompletion n s) := by
  unfold execLaunchCompletion
  try dsimp only
  repeat' first
    | with_reducible assumption
    | with_reducible apply State.completeJob_ok
    | with_reducible apply okOut_next
    | with_reducible exact okOut_fault _
    | split
    | dsimp only

/-! Placement. -/

theorem State.writeSave_ok {fl0 : Nat} (s : State) (f place a : Nat) (bs : List Byte) (h_s : s.Ok fl0) : (State.writeSave s f place a bs).1.Ok fl0 := by
  unfold State.writeSave
  try dsimp only
  repeat' first
    | with_reducible assumption
    | with_reducible apply State.tryPut_ok
    | with_reducible apply State.storeParts_ok
    | split
    | dsimp only

theorem State.readSave_ok {fl0 : Nat} (s : State) (f place a n : Nat) (h_s : s.Ok fl0) : (State.readSave s f place a n).1.Ok fl0 := by
  unfold State.readSave
  try dsimp only
  repeat' first
    | with_reducible assumption
    | with_reducible apply State.vread_ok
    | intro _
    | split
    | dsimp only
    | with_reducible apply State.Ok.keep

theorem State.saveBlock_ok {fl0 : Nat} (s : State) (i : Nat) (h_s : s.Ok fl0) : (State.saveBlock s i).Ok fl0 := by
  unfold State.saveBlock
  try dsimp only
  repeat' first
    | with_reducible assumption
    | with_reducible apply State.writeSave_ok
    | with_reducible apply State.evictTeam_ok
    | with_reducible apply State.setBlock_ok
    | with_reducible apply State.Ok.foldl
    | with_reducible apply State.Ok.foldl_fst
    | with_reducible apply wf_filterMem
    | with_reducible apply wf_foldlMem
    | with_reducible apply wf_putMem
    | with_reducible apply State.Ok.wfMem
    | with_reducible apply State.Ok.wfSys
    | with_reducible apply State.Ok.wfCore
    | intro _
    | split
    | dsimp only
    | with_reducible apply State.Ok.keep
    | with_reducible apply State.Ok.cm

theorem State.restoreBlock_ok {fl0 : Nat} (s : State) (i base : Nat) (h_s : s.Ok fl0) : (State.restoreBlock s i base).Ok fl0 := by
  unfold State.restoreBlock
  try dsimp only
  repeat' first
    | with_reducible assumption
    | with_reducible apply State.readSave_ok
    | with_reducible apply State.setBlock_ok
    | with_reducible apply State.setTeam_ok
    | with_reducible apply State.Ok.foldl
    | with_reducible apply State.Ok.foldl_fst
    | with_reducible apply wf_filterMem
    | with_reducible apply wf_foldlMem
    | with_reducible apply wf_putMem
    | with_reducible apply State.Ok.wfMem
    | with_reducible apply State.Ok.wfSys
    | with_reducible apply State.Ok.wfCore
    | intro _
    | split
    | dsimp only
    | with_reducible apply State.Ok.keep
    | with_reducible apply State.Ok.cm

theorem State.zeroRange_ok {fl0 : Nat} (s : State) (lo hi : Nat) (h_s : s.Ok fl0) : (State.zeroRange s lo hi).Ok fl0 := by
  unfold State.zeroRange
  try dsimp only
  repeat' first
    | with_reducible assumption
    | with_reducible apply State.clearLate_ok
    | with_reducible apply State.touchFrame_ok
    | with_reducible apply State.freeStorage_ok
    | with_reducible apply State.addUsed_ok
    | with_reducible apply State.Ok.foldl
    | with_reducible apply State.Ok.foldl_fst
    | with_reducible apply wf_clearMem
    | with_reducible apply State.Ok.wfMem
    | with_reducible apply State.Ok.wfSys
    | with_reducible apply State.Ok.wfCore
    | intro _
    | split
    | dsimp only
    | with_reducible apply State.Ok.keep
    | with_reducible apply State.Ok.mem

theorem State.keepLines_ok {fl0 : Nat} (s : State) (i lo hi : Nat) (h_s : s.Ok fl0) : (State.keepLines s i lo hi).Ok fl0 := by
  unfold State.keepLines
  try dsimp only
  repeat' first
    | with_reducible assumption
    | with_reducible apply State.setTeam_ok
    | intro _
    | dsimp only
    | with_reducible apply State.Ok.keep

theorem State.clearImage_ok {fl0 : Nat} (s : State) (i : Nat) (h_s : s.Ok fl0) : (State.clearImage s i).Ok fl0 := by
  unfold State.clearImage
  try dsimp only
  repeat' first
    | with_reducible assumption
    | with_reducible apply State.keepLines_ok
    | with_reducible apply State.zeroRange_ok
    | with_reducible apply State.imagePut_ok
    | with_reducible apply State.dropLinesIn_ok
    | with_reducible apply State.dlAppend_ok
    | with_reducible apply State.Ok.foldl
    | with_reducible apply State.Ok.foldl_fst
    | intro _
    | split
    | dsimp only
    | with_reducible apply State.Ok.keep

theorem State.writeFirst_ok {fl0 : Nat} (s : State) (i : Nat) (h_s : s.Ok fl0) : (State.writeFirst s i).Ok fl0 := by
  unfold State.writeFirst
  try dsimp only
  repeat' first
    | with_reducible assumption
    | with_reducible apply State.writeLine_ok
    | with_reducible apply State.Ok.foldl
    | with_reducible apply State.Ok.foldl_fst
    | intro _
    | split
    | dsimp only

theorem State.createBlock_ok {fl0 : Nat} (s : State) (n : Nat) (p : Spot) (h_s : s.Ok fl0) : (State.createBlock s n p).Ok fl0 := by
  unfold State.createBlock
  try dsimp only
  repeat' first
    | with_reducible assumption
    | with_reducible apply State.writeFirst_ok
    | with_reducible apply State.clearImage_ok
    | with_reducible apply State.setCluster_ok
    | with_reducible apply State.writeControl_ok
    | with_reducible apply State.setJob_ok
    | with_reducible apply State.setBlock_ok
    | with_reducible apply State.setTeam_ok
    | with_reducible apply State.Ok.foldl
    | with_reducible apply State.Ok.foldl_fst
    | intro _
    | split
    | dsimp only
    | with_reducible apply State.Ok.keep

theorem State.takeTurn_ok {fl0 : Nat} (s : State) (f c : Nat) (h_s : s.Ok fl0) : (State.takeTurn s f c).Ok fl0 := by
  unfold State.takeTurn
  try dsimp only
  repeat' first
    | with_reducible assumption
    | with_reducible apply State.setCluster_ok
    | split
    | dsimp only
    | with_reducible apply State.Ok.keep

theorem execBlockPlacement_ok {fl0 : Nat} (n : Nat) (choice : Option Nat) (s : State) (h_s : s.Ok fl0) : okOut fl0 (execBlockPlacement n choice s) := by
  unfold execBlockPlacement
  try dsimp only
  repeat' first
    | with_reducible assumption
    | with_reducible apply State.takeTurn_ok
    | with_reducible apply State.createBlock_ok
    | with_reducible apply State.restoreBlock_ok
    | with_reducible apply State.saveBlock_ok
    | with_reducible apply State.Ok.foldl
    | with_reducible apply State.Ok.foldl_fst
    | with_reducible apply okOut_next
    | with_reducible exact okOut_fault _
    | intro _
    | split
    | dsimp only
    | with_reducible apply State.Ok.keep

theorem execTurnEnd_ok {fl0 : Nat} (c : Nat) (s : State) (h_s : s.Ok fl0) : okOut fl0 (execTurnEnd c s) := by
  unfold execTurnEnd
  try dsimp only
  repeat' first
    | with_reducible assumption
    | with_reducible apply State.setCluster_ok
    | with_reducible apply okOut_next
    | with_reducible exact okOut_fault _
    | intro _
    | split
    | dsimp only
    | with_reducible apply State.Ok.keep

end Sys2Proof.Machine
end

