-- ==== Sys2Proof/Laws/KeptFabric.lean ====
section
/-!
SUPPORT. Every operation of the fabric, coherence and links keeps the blown fuses and the canonical form of the memories.
-/
namespace Sys2Proof.Machine

set_option linter.unusedTactic false
set_option linter.unreachableTactic false
set_option linter.unusedSimpArgs false

/-! FabricEvents. -/

theorem execInvcmd_ok {fl0 : Nat} (s : State) (h_s : s.Ok fl0) : okOut fl0 (execInvcmd s) := by
  unfold execInvcmd
  try dsimp only
  repeat' first
    | with_reducible assumption
    | with_reducible apply State.addReg_ok
    | with_reducible apply okOut_next
    | with_reducible exact okOut_fault _
    | dsimp only
    | with_reducible apply State.Ok.keep

theorem State.dropL1_ok {fl0 : Nat} (s : State) (f : Nat) (h_s : s.Ok fl0) : (State.dropL1 s f).Ok fl0 := by
  unfold State.dropL1
  try dsimp only
  repeat' first
    | with_reducible assumption
    | with_reducible apply State.flushSector_ok
    | with_reducible apply State.Ok.foldl
    | with_reducible apply State.Ok.foldl_fst
    | intro _
    | dsimp only
    | with_reducible apply State.Ok.keep

theorem State.dropTlb_ok {fl0 : Nat} (s : State) (f : Nat) (first n : W64) (h_s : s.Ok fl0) : (State.dropTlb s f first n).Ok fl0 := by
  unfold State.dropTlb
  try dsimp only
  repeat' first
    | with_reducible assumption
    | intro _
    | dsimp only
    | with_reducible apply State.Ok.keep

theorem execInvalidationComplete_ok {fl0 : Nat} (f : Nat) (s : State) (h_s : s.Ok fl0) : okOut fl0 (execInvalidationComplete f s) := by
  unfold execInvalidationComplete
  try dsimp only
  repeat' first
    | with_reducible assumption
    | with_reducible apply State.dropTlb_ok
    | with_reducible apply State.dropL1_ok
    | with_reducible apply State.evictTeam_ok
    | with_reducible apply State.addReg_ok
    | with_reducible apply State.Ok.foldl
    | with_reducible apply State.Ok.foldl_fst
    | with_reducible apply okOut_next
    | with_reducible exact okOut_fault _
    | intro _
    | split
    | dsimp only
    | with_reducible apply State.Ok.keep

theorem State.teamXfault_ok {fl0 : Nat} (s : State) (r : FaultRec) (i sub : Nat) (h_s : s.Ok fl0) : (State.teamXfault s r i sub).Ok fl0 := by
  unfold State.teamXfault
  try dsimp only
  repeat' first
    | with_reducible assumption
    | with_reducible apply State.forgetTeam_ok
    | with_reducible apply State.takeTrap_ok
    | with_reducible apply State.unpark_ok
    | with_reducible apply State.useFresh_ok
    | with_reducible apply State.setTeam_ok
    | intro _
    | split
    | dsimp only
    | with_reducible apply State.Ok.keep

theorem State.retryRings_ok {fl0 : Nat} (s : State) (f : Nat) (h_s : s.Ok fl0) : (State.retryRings s f).Ok fl0 := by
  unfold State.retryRings
  try dsimp only
  repeat' first
    | with_reducible assumption
    | intro _
    | split
    | dsimp only
    | with_reducible apply State.Ok.keep

theorem State.faultOutcome_ok {fl0 : Nat} (s : State) (r : FaultRec) (out : Nat) (dropped : Bool) (h_s : s.Ok fl0) : (State.faultOutcome s r out dropped).Ok fl0 := by
  unfold State.faultOutcome
  try dsimp only
  repeat' first
    | with_reducible assumption
    | with_reducible apply State.retryRings_ok
    | with_reducible apply State.teamXfault_ok
    | with_reducible apply State.tryAppends_ok
    | with_reducible apply State.feUnresolved_ok
    | with_reducible apply State.releaseResolve_ok
    | with_reducible apply State.forgetTeam_ok
    | with_reducible apply State.copyResolve_ok
    | with_reducible apply State.fatal_ok
    | with_reducible apply State.unpark_ok
    | intro _
    | split
    | dsimp only
    | with_reducible apply State.Ok.keep

theorem execFsresolve_ok {fl0 : Nat} (s : State) (h_s : s.Ok fl0) : okOut fl0 (execFsresolve s) := by
  unfold execFsresolve
  try dsimp only
  repeat' first
    | with_reducible assumption
    | with_reducible apply State.faultOutcome_ok
    | with_reducible apply okOut_next
    | with_reducible exact okOut_fault _
    | intro _
    | split
    | dsimp only
    | with_reducible apply State.Ok.keep

theorem State.dropFaults_ok {fl0 : Nat} (fuel : Nat) (s : State) (f : Nat) (h_s : s.Ok fl0) : (State.dropFaults fuel s f).Ok fl0 := by
  induction fuel generalizing s f with
  | zero =>
    unfold State.dropFaults
    try dsimp only
    repeat' first
      | with_reducible assumption
      | with_reducible apply State.faultOutcome_ok
      | intro _
      | split
      | dsimp only
      | with_reducible apply State.Ok.keep
  | succ m ih =>
    unfold State.dropFaults
    try dsimp only
    repeat' first
      | with_reducible assumption
      | with_reducible apply ih
      | with_reducible apply State.faultOutcome_ok
      | intro _
      | split
      | dsimp only
      | with_reducible apply State.Ok.keep

theorem State.setQuota_ok {fl0 : Nat} (s : State) (f : Nat) (v : W64) (h_s : s.Ok fl0) : (State.setQuota s f v).Ok fl0 := by
  unfold State.setQuota
  try dsimp only
  repeat' first
    | with_reducible assumption
    | with_reducible apply State.forgetTeam_ok
    | with_reducible apply State.unpark_ok
    | with_reducible apply State.setReg_ok
    | with_reducible apply State.Ok.foldl
    | with_reducible apply State.Ok.foldl_fst
    | intro _
    | dsimp only

theorem execQuotaLimitExpiry_ok {fl0 : Nat} (i : Nat) (s : State) (h_s : s.Ok fl0) : okOut fl0 (execQuotaLimitExpiry i s) := by
  unfold execQuotaLimitExpiry
  try dsimp only
  repeat' first
    | with_reducible assumption
    | with_reducible apply State.teamXfault_ok
    | with_reducible apply okOut_next
    | with_reducible exact okOut_fault _
    | intro _
    | split
    | dsimp only
    | with_reducible apply State.Ok.keep

theorem State.storePaid_ok {fl0 : Nat} (s : State) (i : Nat) (h_s : s.Ok fl0) : (State.storePaid s i).Ok fl0 := by
  unfold State.storePaid
  try dsimp only
  repeat' first
    | with_reducible assumption
    | with_reducible apply State.account_ok
    | with_reducible apply State.setTeam_ok
    | intro _
    | split
    | dsimp only
    | with_reducible apply State.Ok.keep

theorem State.afterHeld_ok {fl0 : Nat} (s : State) (h : Held) (err : Nat) (h_s : s.Ok fl0) : (State.afterHeld s h err).Ok fl0 := by
  unfold State.afterHeld
  try dsimp only
  repeat' first
    | with_reducible assumption
    | with_reducible apply State.storePaid_ok
    | with_reducible apply State.wakeHeld_ok
    | with_reducible apply State.copyRowEnd_ok
    | intro _
    | split
    | dsimp only
    | with_reducible apply State.Ok.keep

theorem State.atomDone_ok {fl0 : Nat} (s : State) (tag old : Nat) (flag : Bool) (sub : Nat) (h_s : s.Ok fl0) : (State.atomDone s tag old flag sub).Ok fl0 := by
  unfold State.atomDone
  try dsimp only
  repeat' first
    | with_reducible assumption
    | with_reducible apply State.sendMsg_ok
    | with_reducible apply State.account_ok
    | intro _
    | split
    | dsimp only
    | with_reducible apply State.Ok.keep

theorem State.wrote_ok {fl0 : Nat} (s : State) (w : Writer) (f : Nat) (ps : List Part) (h_s : s.Ok fl0) : (State.wrote s w f ps).Ok fl0 := by
  unfold State.wrote
  try dsimp only
  repeat' first
    | with_reducible assumption
    | with_reducible apply State.touchEngine_ok
    | with_reducible apply State.coreWrote_ok
    | with_reducible apply State.dropGrains_ok
    | with_reducible apply State.dropLinesIn_ok
    | with_reducible apply State.Ok.foldl
    | with_reducible apply State.Ok.foldl_fst
    | intro _
    | split
    | dsimp only
    | with_reducible apply State.Ok.keep

theorem State.cleaned_ok {fl0 : Nat} (s : State) (h : Held) (h_s : s.Ok fl0) : (State.cleaned s h).Ok fl0 := by
  unfold State.cleaned
  try dsimp only
  repeat' first
    | with_reducible assumption
    | with_reducible apply State.setNc_ok
    | with_reducible apply State.clearLate_ok
    | with_reducible apply State.Ok.foldl
    | with_reducible apply State.Ok.foldl_fst
    | intro _
    | split
    | dsimp only
    | with_reducible apply State.Ok.keep

theorem State.performHeld_ok {fl0 : Nat} (s : State) (k : Nat) (h_s : s.Ok fl0) : (State.performHeld s k).Ok fl0 := by
  unfold State.performHeld
  try dsimp only
  repeat' first
    | with_reducible assumption
    | with_reducible apply State.cleaned_ok
    | with_reducible apply State.wrote_ok
    | with_reducible apply State.atomDone_ok
    | with_reducible apply State.afterHeld_ok
    | with_reducible apply State.putParts_ok
    | with_reducible apply State.setTeam_ok
    | intro _
    | split
    | dsimp only
    | with_reducible apply State.Ok.keep

theorem execHeldWriteRelease_ok {fl0 : Nat} (d : Nat) (s : State) (h_s : s.Ok fl0) : okOut fl0 (execHeldWriteRelease d s) := by
  unfold execHeldWriteRelease
  try dsimp only
  repeat' first
    | with_reducible assumption
    | with_reducible apply State.performHeld_ok
    | with_reducible apply State.dlogRecord_ok
    | with_reducible apply okOut_next
    | with_reducible exact okOut_fault _
    | intro _
    | split
    | dsimp only
    | with_reducible apply State.Ok.keep

theorem State.releaseLog_ok {fl0 : Nat} (fuel : Nat) (s : State) (f : Nat) (h_s : s.Ok fl0) : (State.releaseLog fuel s f).Ok fl0 := by
  induction fuel generalizing s f with
  | zero =>
    unfold State.releaseLog
    try dsimp only
    repeat' first
      | with_reducible assumption
      | with_reducible apply State.performHeld_ok
      | with_reducible apply State.askRound_ok
      | with_reducible apply State.Ok.foldl
      | with_reducible apply State.Ok.foldl_fst
      | intro _
      | split
      | dsimp only
      | with_reducible apply State.Ok.keep
  | succ m ih =>
    unfold State.releaseLog
    try dsimp only
    repeat' first
      | with_reducible assumption
      | with_reducible apply ih
      | with_reducible apply State.performHeld_ok
      | with_reducible apply State.askRound_ok
      | with_reducible apply State.Ok.foldl
      | with_reducible apply State.Ok.foldl_fst
      | intro _
      | split
      | dsimp only
      | with_reducible apply State.Ok.keep

theorem State.setLog_ok {fl0 : Nat} (s : State) (f off : Nat) (v : W64) (h_s : s.Ok fl0) : (State.setLog s f off v).Ok fl0 := by
  unfold State.setLog
  try dsimp only
  repeat' first
    | with_reducible assumption
    | with_reducible apply State.releaseLog_ok
    | with_reducible apply State.setReg_ok
    | dsimp only

theorem State.spaceTrap_ok {fl0 : Nat} (s : State) (h : Held) (i : Nat) (pc : W64) (len : Nat) (h_s : s.Ok fl0) : (State.spaceTrap s h i pc len).Ok fl0 := by
  unfold State.spaceTrap
  try dsimp only
  repeat' first
    | with_reducible assumption
    | with_reducible apply State.wakeHeld_ok
    | with_reducible apply State.setTeam_ok
    | intro _
    | split
    | dsimp only
    | with_reducible apply State.Ok.keep

theorem State.expireHeld_ok {fl0 : Nat} (s : State) (k : Nat) (h_s : s.Ok fl0) : (State.expireHeld s k).Ok fl0 := by
  unfold State.expireHeld
  try dsimp only
  repeat' first
    | with_reducible assumption
    | with_reducible apply State.spaceTrap_ok
    | with_reducible apply State.atomDone_ok
    | with_reducible apply State.afterHeld_ok
    | with_reducible apply State.logErr_ok
    | with_reducible apply State.useFresh_ok
    | intro _
    | split
    | dsimp only
    | with_reducible apply State.Ok.keep

theorem execHeldWriteExpiry_ok {fl0 : Nat} (d : Nat) (s : State) (h_s : s.Ok fl0) : okOut fl0 (execHeldWriteExpiry d s) := by
  unfold execHeldWriteExpiry
  try dsimp only
  repeat' first
    | with_reducible assumption
    | with_reducible apply State.expireHeld_ok
    | with_reducible apply State.teamXfault_ok
    | with_reducible apply State.pushTry_ok
    | with_reducible apply State.logErr_ok
    | with_reducible apply okOut_next
    | with_reducible exact okOut_fault _
    | intro _
    | split
    | dsimp only
    | with_reducible apply State.Ok.keep

theorem State.poisonBlock_ok {fl0 : Nat} (s : State) (f a : Nat) (h_s : s.Ok fl0) : (State.poisonBlock s f a).Ok fl0 := by
  unfold State.poisonBlock
  try dsimp only
  repeat' first
    | with_reducible assumption
    | with_reducible apply State.dropLinesIn_ok
    | with_reducible apply State.clearLate_ok
    | with_reducible apply State.addUsed_ok
    | with_reducible apply State.logErr_ok
    | split
    | dsimp only
    | with_reducible apply State.Ok.keep

theorem execBlockAccess_ok {fl0 : Nat} (a : BlockAcc) (s : State) (h_s : s.Ok fl0) : okOut fl0 (execBlockAccess a s) := by
  unfold execBlockAccess
  try dsimp only
  repeat' first
    | with_reducible assumption
    | with_reducible apply State.poisonBlock_ok
    | with_reducible apply State.wrote_ok
    | with_reducible apply State.noteLogs_ok
    | with_reducible apply State.storeParts_ok
    | with_reducible apply State.touchFrame_ok
    | with_reducible apply okOut_next
    | with_reducible exact okOut_fault _
    | intro _
    | split
    | dsimp only
    | with_reducible apply State.Ok.keep

theorem State.discardFrames_ok {fl0 : Nat} (fuel : Nat) (s : State) (f lo hi : Nat) (h_s : s.Ok fl0) : (State.discardFrames fuel s f lo hi).1.Ok fl0 := by
  induction fuel generalizing s f lo hi with
  | zero =>
    unfold State.discardFrames
    try dsimp only
    repeat' first
      | with_reducible assumption
      | with_reducible apply State.zeroRange_ok
      | with_reducible apply State.dropLinesIn_ok
      | with_reducible apply State.clearLate_ok
      | with_reducible apply State.dlAppend_ok
      | intro _
      | split
      | dsimp only
      | with_reducible apply State.Ok.keep
  | succ m ih =>
    unfold State.discardFrames
    try dsimp only
    repeat' first
      | with_reducible assumption
      | with_reducible apply ih
      | with_reducible apply State.zeroRange_ok
      | with_reducible apply State.dropLinesIn_ok
      | with_reducible apply State.clearLate_ok
      | with_reducible apply State.dlAppend_ok
      | intro _
      | split
      | dsimp only
      | with_reducible apply State.Ok.keep

theorem State.noteDiscard_ok {fl0 : Nat} (s : State) (f a hi : Nat) (h_s : s.Ok fl0) : (State.noteDiscard s f a hi).Ok fl0 := by
  unfold State.noteDiscard
  try dsimp only
  repeat' first
    | with_reducible assumption
    | with_reducible apply State.dlogRecord_ok
    | with_reducible apply State.askRound_ok
    | with_reducible apply State.Ok.foldl
    | with_reducible apply State.Ok.foldl_fst
    | intro _
    | split
    | dsimp only

theorem execDiscard_ok {fl0 : Nat} (s : State) (h_s : s.Ok fl0) : okOut fl0 (execDiscard s) := by
  unfold execDiscard
  try dsimp only
  repeat' first
    | with_reducible assumption
    | with_reducible apply State.noteDiscard_ok
    | with_reducible apply okOut_next
    | with_reducible exact okOut_fault _
    | dsimp only
    | with_reducible apply State.Ok.keep

theorem execDiscardComplete_ok {fl0 : Nat} (f : Nat) (s : State) (h_s : s.Ok fl0) : okOut fl0 (execDiscardComplete f s) := by
  unfold execDiscardComplete
  try dsimp only
  repeat' first
    | with_reducible assumption
    | with_reducible apply State.noteDiscard_ok
    | with_reducible apply State.discardFrames_ok
    | with_reducible apply State.addReg_ok
    | with_reducible apply okOut_next
    | with_reducible exact okOut_fault _
    | intro _
    | split
    | dsimp only
    | with_reducible apply State.Ok.keep

theorem State.engineRead_ok {fl0 : Nat} (s : State) (d a : Nat) (h_s : s.Ok fl0) : (State.engineRead s d a).Ok fl0 := by
  unfold State.engineRead
  try dsimp only
  repeat' first
    | with_reducible assumption
    | with_reducible apply State.touchEngine_ok
    | intro _
    | split
    | dsimp only
    | with_reducible apply State.Ok.keep

theorem State.recompact_ok {fl0 : Nat} (s : State) (d : Nat) (h_s : s.Ok fl0) : (State.recompact s d).Ok fl0 := by
  unfold State.recompact
  try dsimp only
  repeat' first
    | with_reducible assumption
    | with_reducible apply State.engineRead_ok
    | with_reducible apply State.dlAppend_ok
    | with_reducible apply State.freeStorage_ok
    | with_reducible apply State.addUsed_ok
    | with_reducible apply State.Ok.foldl
    | with_reducible apply State.Ok.foldl_fst
    | intro _
    | split
    | dsimp only
    | with_reducible apply State.Ok.keep

theorem State.askBalloons_ok {fl0 : Nat} (s : State) (d : Nat) (h_s : s.Ok fl0) : (State.askBalloons s d).Ok fl0 := by
  unfold State.askBalloons
  try dsimp only
  repeat' first
    | with_reducible assumption
    | with_reducible apply State.addFault_ok
    | with_reducible apply State.Ok.foldl
    | with_reducible apply State.Ok.foldl_fst
    | intro _
    | split
    | dsimp only

theorem execReclamationRound_ok {fl0 : Nat} (d : Nat) (s : State) (h_s : s.Ok fl0) : okOut fl0 (execReclamationRound d s) := by
  unfold execReclamationRound
  try dsimp only
  repeat' first
    | with_reducible assumption
    | with_reducible apply State.askBalloons_ok
    | with_reducible apply State.recompact_ok
    | with_reducible apply okOut_next
    | with_reducible exact okOut_fault _
    | split
    | dsimp only
    | with_reducible apply State.Ok.keep

theorem State.demote_ok {fl0 : Nat} (s : State) (n slot : Nat) (h_s : s.Ok fl0) : (State.demote s n slot).Ok fl0 := by
  unfold State.demote
  try dsimp only
  repeat' first
    | with_reducible assumption
    | with_reducible apply State.engineRead_ok
    | with_reducible apply State.freeStorage_ok
    | with_reducible apply State.Ok.foldl
    | with_reducible apply State.Ok.foldl_fst
    | with_reducible apply wf_writeMem
    | with_reducible apply State.Ok.wfMem
    | with_reducible apply State.Ok.wfSys
    | with_reducible apply State.Ok.wfCore
    | intro _
    | dsimp only
    | with_reducible apply State.Ok.keep
    | with_reducible apply State.Ok.sysmem

theorem State.sweep_ok {fl0 : Nat} (s : State) (d : Nat) (h_s : s.Ok fl0) : (State.sweep s d).Ok fl0 := by
  unfold State.sweep
  try dsimp only
  repeat' first
    | with_reducible assumption
    | with_reducible apply State.demote_ok
    | with_reducible apply State.Ok.foldl
    | with_reducible apply State.Ok.foldl_fst
    | intro _
    | split
    | dsimp only
    | with_reducible apply State.Ok.keep

theorem execBalwaitExpiry_ok {fl0 : Nat} (d : Nat) (s : State) (h_s : s.Ok fl0) : okOut fl0 (execBalwaitExpiry d s) := by
  unfold execBalwaitExpiry
  try dsimp only
  repeat' first
    | with_reducible assumption
    | with_reducible apply State.sweep_ok
    | with_reducible apply okOut_next
    | with_reducible exact okOut_fault _
    | split
    | dsimp only
    | with_reducible apply State.Ok.keep

theorem execPromotion_ok {fl0 : Nat} (n : Nat) (s : State) (h_s : s.Ok fl0) : okOut fl0 (execPromotion n s) := by
  unfold execPromotion
  try dsimp only
  repeat' first
    | with_reducible assumption
    | with_reducible apply State.engineRead_ok
    | with_reducible apply State.takeStorage_ok
    | with_reducible apply State.freeStorage_ok
    | with_reducible apply State.useFresh_ok
    | with_reducible apply State.Ok.foldl
    | with_reducible apply State.Ok.foldl_fst
    | with_reducible apply wf_writeMem
    | with_reducible apply State.Ok.wfMem
    | with_reducible apply State.Ok.wfSys
    | with_reducible apply State.Ok.wfCore
    | with_reducible apply okOut_next
    | with_reducible exact okOut_fault _
    | intro _
    | split
    | dsimp only
    | with_reducible apply State.Ok.keep
    | with_reducible apply State.Ok.mem

/-! Coherence. -/

theorem execLogicalTimeTick_ok {fl0 : Nat} (s : State) (h_s : s.Ok fl0) : okOut fl0 (execLogicalTimeTick s) := by
  unfold execLogicalTimeTick
  try dsimp only
  repeat' first
    | with_reducible assumption
    | with_reducible apply State.setLt_ok
    | with_reducible apply State.Ok.foldl
    | with_reducible apply State.Ok.foldl_fst
    | with_reducible apply okOut_next
    | with_reducible exact okOut_fault _
    | intro _
    | dsimp only
    | with_reducible apply State.Ok.keep

theorem State.setDir_ok {fl0 : Nat} (s : State) (k : Nat) (x : DirLine) (h_s : s.Ok fl0) : (State.setDir s k x).Ok fl0 := by
  unfold State.setDir
  try dsimp only
  repeat' first
    | with_reducible assumption
    | dsimp only
    | with_reducible apply State.Ok.keep

theorem State.setHub_ok {fl0 : Nat} (s : State) (a : Nat) (h : HubLine) (h_s : s.Ok fl0) : (State.setHub s a h).Ok fl0 := by
  unfold State.setHub
  try dsimp only
  repeat' first
    | with_reducible assumption
    | dsimp only
    | with_reducible apply State.Ok.keep

theorem State.setHost_ok {fl0 : Nat} (s : State) (a p : Nat) (h : Option Bool) (h_s : s.Ok fl0) : (State.setHost s a p h).Ok fl0 := by
  unfold State.setHost
  try dsimp only
  repeat' first
    | with_reducible assumption
    | intro _
    | split
    | dsimp only
    | with_reducible apply State.Ok.keep

theorem State.takeMsg_ok {fl0 : Nat} (s : State) (i : Instr) (h_s : s.Ok fl0) : (State.takeMsg s i).Ok fl0 := by
  unfold State.takeMsg
  try dsimp only
  repeat' first
    | with_reducible assumption
    | dsimp only
    | with_reducible apply State.Ok.keep

theorem State.sfTouch_ok {fl0 : Nat} (s : State) (line home size : Nat) (h_s : s.Ok fl0) : (State.sfTouch s line home size).Ok fl0 := by
  unfold State.sfTouch
  try dsimp only
  repeat' first
    | with_reducible assumption
    | intro _
    | split
    | dsimp only
    | with_reducible apply State.Ok.keep

theorem State.sfFree_ok {fl0 : Nat} (s : State) (line home : Nat) (h_s : s.Ok fl0) : (State.sfFree s line home).Ok fl0 := by
  unfold State.sfFree
  try dsimp only
  repeat' first
    | with_reducible assumption
    | with_reducible apply State.setDir_ok
    | with_reducible apply State.Ok.foldl
    | with_reducible apply State.Ok.foldl_fst
    | intro _
    | dsimp only
    | with_reducible apply State.Ok.keep

theorem State.evictLine_ok {fl0 : Nat} (s : State) (die line : Nat) (h_s : s.Ok fl0) : (State.evictLine s die line).Ok fl0 := by
  unfold State.evictLine
  try dsimp only
  repeat' first
    | with_reducible assumption
    | with_reducible apply State.sendMsg_ok
    | with_reducible apply State.loseGrain_ok
    | with_reducible apply State.Ok.foldl
    | with_reducible apply State.Ok.foldl_fst
    | intro _
    | split
    | dsimp only
    | with_reducible apply State.Ok.keep

theorem State.writeLate_ok {fl0 : Nat} (s : State) (die line : Nat) (h_s : s.Ok fl0) : (State.writeLate s die line).Ok fl0 := by
  unfold State.writeLate
  try dsimp only
  repeat' first
    | with_reducible assumption
    | with_reducible apply State.writeBack_ok
    | with_reducible apply State.Ok.foldl
    | with_reducible apply State.Ok.foldl_fst
    | intro _
    | dsimp only

theorem State.tagRoom_ok {fl0 : Nat} (s : State) (die line f : Nat) (h_s : s.Ok fl0) : (State.tagRoom s die line f).Ok fl0 := by
  unfold State.tagRoom
  try dsimp only
  repeat' first
    | with_reducible assumption
    | with_reducible apply State.writeLate_ok
    | with_reducible apply State.evictLine_ok
    | with_reducible apply State.setTags_ok
    | intro _
    | split
    | dsimp only
    | with_reducible apply State.Ok.keep

theorem State.fillL2_ok {fl0 : Nat} (s : State) (die : Nat) (m : CohMsg) (st : L2St) (h_s : s.Ok fl0) : (State.fillL2 s die m st).Ok fl0 := by
  unfold State.fillL2
  try dsimp only
  repeat' first
    | with_reducible assumption
    | with_reducible apply State.tagRoom_ok
    | with_reducible apply State.setL2_ok
    | dsimp only
    | with_reducible apply State.Ok.keep

theorem State.sendData_ok {fl0 : Nat} (s : State) (m : CohMsg) (g : L2St) (h_s : s.Ok fl0) : (State.sendData s m g).Ok fl0 := by
  unfold State.sendData
  try dsimp only
  repeat' first
    | with_reducible assumption
    | with_reducible apply State.sendMsg_ok
    | dsimp only
    | with_reducible apply State.Ok.keep

theorem State.plainAtomic_ok {fl0 : Nat} (s : State) (m : CohMsg) (h_s : s.Ok fl0) : (State.plainAtomic s m).1.Ok fl0 := by
  unfold State.plainAtomic
  try dsimp only
  repeat' first
    | with_reducible assumption
    | with_reducible apply State.storeTr_ok
    | split
    | dsimp only

theorem State.homeAtomic_ok {fl0 : Nat} (s : State) (a : Atom) (h_s : s.Ok fl0) : (State.homeAtomic s a).Ok fl0 := by
  unfold State.homeAtomic
  try dsimp only
  repeat' first
    | with_reducible assumption
    | with_reducible apply State.atomDone_ok
    | with_reducible apply State.amoAt_ok
    | with_reducible apply State.noteLogs_ok
    | with_reducible apply State.noteHeld_ok
    | intro _
    | split
    | dsimp only
    | with_reducible apply State.Ok.keep

theorem State.grantAtomic_ok {fl0 : Nat} (s : State) (m : CohMsg) (h_s : s.Ok fl0) : (State.grantAtomic s m).Ok fl0 := by
  unfold State.grantAtomic
  try dsimp only
  repeat' first
    | with_reducible assumption
    | with_reducible apply State.homeAtomic_ok
    | with_reducible apply State.plainAtomic_ok
    | with_reducible apply State.fillL2_ok
    | with_reducible apply State.setDir_ok
    | with_reducible apply State.engineWrite_ok
    | with_reducible apply State.sendMsg_ok
    | with_reducible apply State.setLt_ok
    | intro _
    | split
    | dsimp only
    | with_reducible apply State.Ok.keep

theorem State.nameDie_ok {fl0 : Nat} (s : State) (m : CohMsg) (h_s : s.Ok fl0) : (State.nameDie s m).Ok fl0 := by
  unfold State.nameDie
  try dsimp only
  repeat' first
    | with_reducible assumption
    | with_reducible apply State.setHub_ok
    | with_reducible apply State.Ok.foldl
    | with_reducible apply State.Ok.foldl_fst
    | intro _
    | split
    | dsimp only
    | with_reducible apply State.Ok.keep

theorem State.grantReq_ok {fl0 : Nat} (s0 : State) (k : ReqKind) (m : CohMsg) (h_s0 : s0.Ok fl0) : (State.grantReq s0 k m).Ok fl0 := by
  unfold State.grantReq
  try dsimp only
  repeat' first
    | with_reducible assumption
    | with_reducible apply State.nameDie_ok
    | with_reducible apply State.grantAtomic_ok
    | with_reducible apply State.sendData_ok
    | with_reducible apply State.setDir_ok
    | intro _
    | split
    | dsimp only
    | with_reducible apply State.Ok.keep

theorem State.serveOne_ok {fl0 : Nat} (s : State) (k : ReqKind) (m : CohMsg) (h_s : s.Ok fl0) : (State.serveOne s k m).Ok fl0 := by
  unfold State.serveOne
  try dsimp only
  repeat' first
    | with_reducible assumption
    | with_reducible apply State.grantReq_ok
    | with_reducible apply State.sfFree_ok
    | with_reducible apply State.sfTouch_ok
    | with_reducible apply State.atomDone_ok
    | with_reducible apply State.sendMsg_ok
    | with_reducible apply State.Ok.foldl
    | with_reducible apply State.Ok.foldl_fst
    | intro _
    | split
    | dsimp only
    | with_reducible apply State.Ok.keep

theorem State.serveReq_ok {fl0 : Nat} (s : State) (k : ReqKind) (m : CohMsg) (h_s : s.Ok fl0) : (State.serveReq s k m).Ok fl0 := by
  unfold State.serveReq
  try dsimp only
  repeat' first
    | with_reducible assumption
    | with_reducible apply State.serveOne_ok
    | with_reducible apply State.Ok.foldl
    | with_reducible apply State.Ok.foldl_fst
    | intro _
    | dsimp only

theorem State.wakeReqs_ok {fl0 : Nat} (fuel : Nat) (s : State) (h_s : s.Ok fl0) : (State.wakeReqs fuel s).Ok fl0 := by
  induction fuel generalizing s with
  | zero =>
    unfold State.wakeReqs
    try dsimp only
    repeat' first
      | with_reducible assumption
      | with_reducible apply State.serveReq_ok
      | intro _
      | split
      | dsimp only
      | with_reducible apply State.Ok.keep
  | succ m ih =>
    unfold State.wakeReqs
    try dsimp only
    repeat' first
      | with_reducible assumption
      | with_reducible apply ih
      | with_reducible apply State.serveReq_ok
      | intro _
      | split
      | dsimp only
      | with_reducible apply State.Ok.keep

theorem State.answered_ok {fl0 : Nat} (s : State) (bi sys : Bool) (grain : Nat) (h_s : s.Ok fl0) : (State.answered s bi sys grain).Ok fl0 := by
  unfold State.answered
  try dsimp only
  repeat' first
    | with_reducible assumption
    | with_reducible apply State.wakeReqs_ok
    | with_reducible apply State.serveReq_ok
    | with_reducible apply State.grantReq_ok
    | with_reducible apply State.sfFree_ok
    | intro _
    | split
    | dsimp only
    | with_reducible apply State.Ok.keep

theorem State.arrive_ok {fl0 : Nat} (s : State) (k : ReqKind) (m : CohMsg) (h_s : s.Ok fl0) : (State.arrive s k m).Ok fl0 := by
  unfold State.arrive
  try dsimp only
  repeat' first
    | with_reducible assumption
    | with_reducible apply State.serveReq_ok
    | with_reducible apply State.takeMsg_ok
    | with_reducible apply State.sendMsg_ok
    | intro _
    | split
    | dsimp only
    | with_reducible apply State.Ok.keep

theorem execRds_ok {fl0 : Nat} (m : CohMsg) (s : State) (h_s : s.Ok fl0) : okOut fl0 (execRds m s) := by
  unfold execRds
  try dsimp only
  repeat' first
    | with_reducible assumption
    | with_reducible apply State.arrive_ok
    | with_reducible apply okOut_next
    | with_reducible exact okOut_fault _
    | dsimp only

theorem execRdxMsg_ok {fl0 : Nat} (m : CohMsg) (s : State) (h_s : s.Ok fl0) : okOut fl0 (execRdxMsg m s) := by
  unfold execRdxMsg
  try dsimp only
  repeat' first
    | with_reducible assumption
    | with_reducible apply State.arrive_ok
    | with_reducible apply okOut_next
    | with_reducible exact okOut_fault _
    | dsimp only

theorem execOwnnd_ok {fl0 : Nat} (m : CohMsg) (s : State) (h_s : s.Ok fl0) : okOut fl0 (execOwnnd m s) := by
  unfold execOwnnd
  try dsimp only
  repeat' first
    | with_reducible assumption
    | with_reducible apply State.arrive_ok
    | with_reducible apply okOut_next
    | with_reducible exact okOut_fault _
    | dsimp only

theorem execUpg_ok {fl0 : Nat} (m : CohMsg) (s : State) (h_s : s.Ok fl0) : okOut fl0 (execUpg m s) := by
  unfold execUpg
  try dsimp only
  repeat' first
    | with_reducible assumption
    | with_reducible apply State.arrive_ok
    | with_reducible apply okOut_next
    | with_reducible exact okOut_fault _
    | dsimp only

theorem execAtomicreq_ok {fl0 : Nat} (m : CohMsg) (s : State) (h_s : s.Ok fl0) : okOut fl0 (execAtomicreq m s) := by
  unfold execAtomicreq
  try dsimp only
  repeat' first
    | with_reducible assumption
    | with_reducible apply State.arrive_ok
    | with_reducible apply okOut_next
    | with_reducible exact okOut_fault _
    | dsimp only

theorem execWb_ok {fl0 : Nat} (m : CohMsg) (s : State) (h_s : s.Ok fl0) : okOut fl0 (execWb m s) := by
  unfold execWb
  try dsimp only
  repeat' first
    | with_reducible assumption
    | with_reducible apply State.takeMsg_ok
    | with_reducible apply State.setDir_ok
    | with_reducible apply State.loseGrain_ok
    | with_reducible apply State.writeBack_ok
    | with_reducible apply okOut_next
    | with_reducible exact okOut_fault _
    | split
    | dsimp only
    | with_reducible apply State.Ok.keep

theorem State.respond_ok {fl0 : Nat} (s : State) (m : CohMsg) (old : L2St) (h_s : s.Ok fl0) : (State.respond s m old).Ok fl0 := by
  unfold State.respond
  try dsimp only
  repeat' first
    | with_reducible assumption
    | with_reducible apply State.sendMsg_ok
    | dsimp only
    | with_reducible apply State.Ok.keep

theorem execSnps_ok {fl0 : Nat} (m : CohMsg) (s : State) (h_s : s.Ok fl0) : okOut fl0 (execSnps m s) := by
  unfold execSnps
  try dsimp only
  repeat' first
    | with_reducible assumption
    | with_reducible apply State.respond_ok
    | with_reducible apply State.takeMsg_ok
    | with_reducible apply State.setL2_ok
    | with_reducible apply okOut_next
    | with_reducible exact okOut_fault _
    | split
    | dsimp only
    | with_reducible apply State.Ok.keep

theorem execSnpx_ok {fl0 : Nat} (m : CohMsg) (s : State) (h_s : s.Ok fl0) : okOut fl0 (execSnpx m s) := by
  unfold execSnpx
  try dsimp only
  repeat' first
    | with_reducible assumption
    | with_reducible apply State.respond_ok
    | with_reducible apply State.takeMsg_ok
    | with_reducible apply State.loseGrain_ok
    | with_reducible apply okOut_next
    | with_reducible exact okOut_fault _
    | split
    | dsimp only

theorem execInv_ok {fl0 : Nat} (m : CohMsg) (s : State) (h_s : s.Ok fl0) : okOut fl0 (execInv m s) := by
  unfold execInv
  try dsimp only
  repeat' first
    | with_reducible assumption
    | with_reducible apply State.respond_ok
    | with_reducible apply State.takeMsg_ok
    | with_reducible apply State.loseGrain_ok
    | with_reducible apply okOut_next
    | with_reducible exact okOut_fault _
    | split
    | dsimp only

theorem execBi_ok {fl0 : Nat} (m : CohMsg) (s : State) (h_s : s.Ok fl0) : okOut fl0 (execBi m s) := by
  unfold execBi
  try dsimp only
  repeat' first
    | with_reducible assumption
    | with_reducible apply State.respond_ok
    | with_reducible apply State.takeMsg_ok
    | with_reducible apply State.loseGrain_ok
    | with_reducible apply State.Ok.foldl
    | with_reducible apply State.Ok.foldl_fst
    | with_reducible apply okOut_next
    | with_reducible exact okOut_fault _
    | intro _
    | split
    | dsimp only

theorem execRsp_ok {fl0 : Nat} (m : CohMsg) (s : State) (h_s : s.Ok fl0) : okOut fl0 (execRsp m s) := by
  unfold execRsp
  try dsimp only
  repeat' first
    | with_reducible assumption
    | with_reducible apply State.answered_ok
    | with_reducible apply State.takeMsg_ok
    | with_reducible apply State.setDir_ok
    | with_reducible apply State.writeBack_ok
    | with_reducible apply okOut_next
    | with_reducible exact okOut_fault _
    | intro _
    | split
    | dsimp only
    | with_reducible apply State.Ok.keep

theorem State.goDie_ok {fl0 : Nat} (s : State) (die : Nat) (h_s : s.Ok fl0) : (State.goDie s die).Ok fl0 := by
  unfold State.goDie
  try dsimp only
  repeat' first
    | with_reducible assumption
    | with_reducible apply State.goOn_ok
    | with_reducible apply State.Ok.foldl
    | with_reducible apply State.Ok.foldl_fst
    | intro _
    | dsimp only

theorem State.endFill_ok {fl0 : Nat} (s : State) (k : Nat) (h_s : s.Ok fl0) : (State.endFill s k).Ok fl0 := by
  unfold State.endFill
  try dsimp only
  repeat' first
    | with_reducible assumption
    | intro _
    | dsimp only
    | with_reducible apply State.Ok.keep

theorem execData_ok {fl0 : Nat} (m : CohMsg) (s : State) (h_s : s.Ok fl0) : okOut fl0 (execData m s) := by
  unfold execData
  try dsimp only
  repeat' first
    | with_reducible assumption
    | with_reducible apply State.endFill_ok
    | with_reducible apply State.goDie_ok
    | with_reducible apply State.fillL2_ok
    | with_reducible apply State.takeMsg_ok
    | with_reducible apply State.setDir_ok
    | with_reducible apply State.leaseRead_ok
    | with_reducible apply State.Ok.foldl
    | with_reducible apply State.Ok.foldl_fst
    | with_reducible apply okOut_next
    | with_reducible exact okOut_fault _
    | intro _
    | split
    | dsimp only

theorem State.atomBack_ok {fl0 : Nat} (s : State) (tag : Nat) (h_s : s.Ok fl0) : (State.atomBack s tag).Ok fl0 := by
  unfold State.atomBack
  try dsimp only
  repeat' first
    | with_reducible assumption
    | with_reducible apply State.setTeam_ok
    | intro _
    | split
    | dsimp only
    | with_reducible apply State.Ok.keep

theorem execAtomicrsp_ok {fl0 : Nat} (m : CohMsg) (s : State) (h_s : s.Ok fl0) : okOut fl0 (execAtomicrsp m s) := by
  unfold execAtomicrsp
  try dsimp only
  repeat' first
    | with_reducible assumption
    | with_reducible apply State.atomBack_ok
    | with_reducible apply State.takeMsg_ok
    | with_reducible apply okOut_next
    | with_reducible exact okOut_fault _
    | dsimp only

theorem execRetry_ok {fl0 : Nat} (m : CohMsg) (s : State) (h_s : s.Ok fl0) : okOut fl0 (execRetry m s) := by
  unfold execRetry
  try dsimp only
  repeat' first
    | with_reducible assumption
    | with_reducible apply State.takeMsg_ok
    | with_reducible apply State.sendMsg_ok
    | with_reducible apply okOut_next
    | with_reducible exact okOut_fault _
    | dsimp only
    | with_reducible apply State.Ok.keep

theorem execPoison_ok {fl0 : Nat} (m : CohMsg) (s : State) (h_s : s.Ok fl0) : okOut fl0 (execPoison m s) := by
  unfold execPoison
  try dsimp only
  repeat' first
    | with_reducible assumption
    | with_reducible apply State.atomBack_ok
    | with_reducible apply State.endFill_ok
    | with_reducible apply State.goDie_ok
    | with_reducible apply State.takeMsg_ok
    | with_reducible apply State.loseGrain_ok
    | with_reducible apply okOut_next
    | with_reducible exact okOut_fault _
    | split
    | dsimp only

theorem State.lineCame_ok {fl0 : Nat} (s : State) (a : Nat) (h_s : s.Ok fl0) : (State.lineCame s a).Ok fl0 := by
  unfold State.lineCame
  try dsimp only
  repeat' first
    | with_reducible assumption
    | with_reducible apply State.answered_ok
    | intro _
    | split
    | dsimp only
    | with_reducible apply State.Ok.keep

theorem State.takeLine_ok {fl0 : Nat} (s : State) (die a : Nat) (excl : Bool) (h_s : s.Ok fl0) : (State.takeLine s die a excl).Ok fl0 := by
  unfold State.takeLine
  try dsimp only
  repeat' first
    | with_reducible assumption
    | with_reducible apply State.lineCame_ok
    | with_reducible apply State.setHub_ok
    | split
    | dsimp only
    | with_reducible apply State.Ok.keep

theorem execRdshared_ok {fl0 : Nat} (s : State) (h_s : s.Ok fl0) : okOut fl0 (execRdshared s) := by
  unfold execRdshared
  try dsimp only
  repeat' first
    | with_reducible assumption
    | with_reducible apply State.takeLine_ok
    | with_reducible apply okOut_next
    | with_reducible exact okOut_fault _
    | dsimp only

theorem execRdown_ok {fl0 : Nat} (s : State) (h_s : s.Ok fl0) : okOut fl0 (execRdown s) := by
  unfold execRdown
  try dsimp only
  repeat' first
    | with_reducible assumption
    | with_reducible apply State.takeLine_ok
    | with_reducible apply okOut_next
    | with_reducible exact okOut_fault _
    | dsimp only

theorem State.probeLine_ok {fl0 : Nat} (s : State) (a : Nat) (f : Option L2St) (h_s : s.Ok fl0) : (State.probeLine s a f).Ok fl0 := by
  unfold State.probeLine
  try dsimp only
  repeat' first
    | with_reducible assumption
    | with_reducible apply State.setDir_ok
    | with_reducible apply State.dropHolders_ok
    | with_reducible apply State.setL2_ok
    | with_reducible apply State.Ok.foldl
    | with_reducible apply State.Ok.foldl_fst
    | intro _
    | split
    | dsimp only
    | with_reducible apply State.Ok.keep

theorem State.retryLine_ok {fl0 : Nat} (s : State) (a : Nat) (data : Bool) (h_s : s.Ok fl0) : (State.retryLine s a data).Ok fl0 := by
  unfold State.retryLine
  try dsimp only
  repeat' first
    | with_reducible assumption
    | intro _
    | split
    | dsimp only
    | with_reducible apply State.Ok.keep

theorem State.giveLine_ok {fl0 : Nat} (s : State) (a : Nat) (h_s : s.Ok fl0) : (State.giveLine s a).Ok fl0 := by
  unfold State.giveLine
  try dsimp only
  repeat' first
    | with_reducible assumption
    | with_reducible apply State.probeLine_ok
    | with_reducible apply State.setHub_ok
    | dsimp only

theorem execDirtyevict_ok {fl0 : Nat} (s : State) (h_s : s.Ok fl0) : okOut fl0 (execDirtyevict s) := by
  unfold execDirtyevict
  try dsimp only
  repeat' first
    | with_reducible assumption
    | with_reducible apply State.giveLine_ok
    | with_reducible apply okOut_next
    | with_reducible exact okOut_fault _
    | split
    | dsimp only

theorem execCleanevict_ok {fl0 : Nat} (s : State) (h_s : s.Ok fl0) : okOut fl0 (execCleanevict s) := by
  unfold execCleanevict
  try dsimp only
  repeat' first
    | with_reducible assumption
    | with_reducible apply State.giveLine_ok
    | with_reducible apply okOut_next
    | with_reducible exact okOut_fault _
    | split
    | dsimp only

theorem State.defer_ok {fl0 : Nat} (s : State) (i : Instr) (h_s : s.Ok fl0) : (State.defer s i).Ok fl0 := by
  unfold State.defer
  try dsimp only
  repeat' first
    | with_reducible assumption
    | dsimp only
    | with_reducible apply State.Ok.keep

theorem State.shareLine_ok {fl0 : Nat} (s : State) (a : Nat) (h_s : s.Ok fl0) : (State.shareLine s a).Ok fl0 := by
  unfold State.shareLine
  try dsimp only
  repeat' first
    | with_reducible assumption
    | with_reducible apply State.retryLine_ok
    | with_reducible apply State.probeLine_ok
    | with_reducible apply State.setHub_ok
    | dsimp only
    | with_reducible apply State.Ok.keep

theorem State.loseLine_ok {fl0 : Nat} (s : State) (a : Nat) (bs : List Byte) (h_s : s.Ok fl0) : (State.loseLine s a bs).Ok fl0 := by
  unfold State.loseLine
  try dsimp only
  repeat' first
    | with_reducible assumption
    | with_reducible apply State.giveLine_ok
    | with_reducible apply State.retryLine_ok
    | with_reducible apply State.loseLines_ok
    | with_reducible apply wf_writeMem
    | with_reducible apply State.Ok.wfMem
    | with_reducible apply State.Ok.wfSys
    | with_reducible apply State.Ok.wfCore
    | dsimp only
    | with_reducible apply State.Ok.keep
    | with_reducible apply State.Ok.sysmem

theorem execSnpdata_ok {fl0 : Nat} (s : State) (h_s : s.Ok fl0) : okOut fl0 (execSnpdata s) := by
  unfold execSnpdata
  try dsimp only
  repeat' first
    | with_reducible assumption
    | with_reducible apply State.shareLine_ok
    | with_reducible apply State.defer_ok
    | with_reducible apply okOut_next
    | with_reducible exact okOut_fault _
    | split
    | dsimp only

theorem execSnpinv_ok {fl0 : Nat} (s : State) (h_s : s.Ok fl0) : okOut fl0 (execSnpinv s) := by
  unfold execSnpinv
  try dsimp only
  repeat' first
    | with_reducible assumption
    | with_reducible apply State.loseLine_ok
    | with_reducible apply State.defer_ok
    | with_reducible apply okOut_next
    | with_reducible exact okOut_fault _
    | split
    | dsimp only

theorem execSnpcur_ok {fl0 : Nat} (s : State) (h_s : s.Ok fl0) : okOut fl0 (execSnpcur s) := by
  unfold execSnpcur
  try dsimp only
  repeat' first
    | with_reducible assumption
    | with_reducible apply State.defer_ok
    | with_reducible apply State.retryLine_ok
    | with_reducible apply State.probeLine_ok
    | with_reducible apply okOut_next
    | with_reducible exact okOut_fault _
    | split
    | dsimp only

theorem State.giveHosts_ok {fl0 : Nat} (s : State) (p a : Nat) (all : Bool) (h_s : s.Ok fl0) : (State.giveHosts s p a all).Ok fl0 := by
  unfold State.giveHosts
  try dsimp only
  repeat' first
    | with_reducible assumption
    | with_reducible apply State.setHost_ok
    | with_reducible apply State.Ok.foldl
    | with_reducible apply State.Ok.foldl_fst
    | intro _
    | split
    | dsimp only

theorem execBisnpinv_ok {fl0 : Nat} (s : State) (h_s : s.Ok fl0) : okOut fl0 (execBisnpinv s) := by
  unfold execBisnpinv
  try dsimp only
  repeat' first
    | with_reducible assumption
    | with_reducible apply State.giveHosts_ok
    | with_reducible apply State.loseLine_ok
    | with_reducible apply State.defer_ok
    | with_reducible apply okOut_next
    | with_reducible exact okOut_fault _
    | split
    | dsimp only

theorem execBisnpdata_ok {fl0 : Nat} (s : State) (h_s : s.Ok fl0) : okOut fl0 (execBisnpdata s) := by
  unfold execBisnpdata
  try dsimp only
  repeat' first
    | with_reducible assumption
    | with_reducible apply State.giveHosts_ok
    | with_reducible apply State.shareLine_ok
    | with_reducible apply State.defer_ok
    | with_reducible apply okOut_next
    | with_reducible exact okOut_fault _
    | split
    | dsimp only

theorem State.linkStore_ok {fl0 : Nat} (s : State) (da : Nat) (bs : List Byte) (h_s : s.Ok fl0) : (State.linkStore s da bs).Ok fl0 := by
  unfold State.linkStore
  try dsimp only
  repeat' first
    | with_reducible assumption
    | with_reducible apply State.noteLogs_ok
    | with_reducible apply State.dropLinesIn_ok
    | with_reducible apply State.storeBlock_ok
    | with_reducible apply State.Ok.foldl
    | with_reducible apply State.Ok.foldl_fst
    | intro _
    | split
    | dsimp only
    | with_reducible apply State.Ok.keep

theorem State.hostAnswered_ok {fl0 : Nat} (s : State) (line : Nat) (h_s : s.Ok fl0) : (State.hostAnswered s line).Ok fl0 := by
  unfold State.hostAnswered
  try dsimp only
  repeat' first
    | with_reducible assumption
    | with_reducible apply State.wakeReqs_ok
    | intro _
    | split
    | dsimp only
    | with_reducible apply State.Ok.keep

theorem execBirsp_ok {fl0 : Nat} (s : State) (h_s : s.Ok fl0) : okOut fl0 (execBirsp s) := by
  unfold execBirsp
  try dsimp only
  repeat' first
    | with_reducible assumption
    | with_reducible apply State.hostAnswered_ok
    | with_reducible apply State.linkStore_ok
    | with_reducible apply State.answered_ok
    | with_reducible apply okOut_next
    | with_reducible exact okOut_fault _
    | intro _
    | split
    | dsimp only
    | with_reducible apply State.Ok.keep

/-! Link. -/

theorem State.answer_ok {fl0 : Nat} (s : State) (k : Nat) (ws : List W64) (h_s : s.Ok fl0) : (State.answer s k ws).Ok fl0 := by
  unfold State.answer
  try dsimp only
  repeat' first
    | with_reducible assumption
    | dsimp only
    | with_reducible apply State.Ok.keep

theorem State.setPort_ok {fl0 : Nat} (s : State) (p : Nat) (x : Port) (h_s : s.Ok fl0) : (State.setPort s p x).Ok fl0 := by
  unfold State.setPort
  try dsimp only
  repeat' first
    | with_reducible assumption
    | dsimp only
    | with_reducible apply State.Ok.keep

theorem State.setPeer_ok {fl0 : Nat} (s : State) (p : Nat) (x : Peer) (h_s : s.Ok fl0) : (State.setPeer s p x).Ok fl0 := by
  unfold State.setPeer
  try dsimp only
  repeat' first
    | with_reducible assumption
    | dsimp only
    | with_reducible apply State.Ok.keep

theorem State.setTdisp_ok {fl0 : Nat} (s : State) (f x : Nat) (h_s : s.Ok fl0) : (State.setTdisp s f x).Ok fl0 := by
  unfold State.setTdisp
  try dsimp only
  repeat' first
    | with_reducible assumption
    | dsimp only
    | with_reducible apply State.Ok.keep

theorem State.hostTakes_ok {fl0 : Nat} (s : State) (a p : Nat) (excl : Bool) (h_s : s.Ok fl0) : (State.hostTakes s a p excl).Ok fl0 := by
  unfold State.hostTakes
  try dsimp only
  repeat' first
    | with_reducible assumption
    | with_reducible apply State.setHost_ok
    | with_reducible apply State.setDir_ok
    | with_reducible apply State.loseGrain_ok
    | with_reducible apply State.setL2_ok
    | with_reducible apply State.writeBack_ok
    | with_reducible apply State.Ok.foldl
    | with_reducible apply State.Ok.foldl_fst
    | intro _
    | split
    | dsimp only
    | with_reducible apply State.Ok.keep

theorem State.askHosts_ok {fl0 : Nat} (s : State) (i : Instr) (a : Nat) (ps : List Nat) (excl : Bool) (h_s : s.Ok fl0) : (State.askHosts s i a ps excl).Ok fl0 := by
  unfold State.askHosts
  try dsimp only
  repeat' first
    | with_reducible assumption
    | with_reducible apply State.defer_ok
    | intro _
    | split
    | dsimp only
    | with_reducible apply State.Ok.keep

theorem execMemrd_ok {fl0 : Nat} (s : State) (h_s : s.Ok fl0) : okOut fl0 (execMemrd s) := by
  unfold execMemrd
  try dsimp only
  repeat' first
    | with_reducible assumption
    | with_reducible apply State.askHosts_ok
    | with_reducible apply State.hostTakes_ok
    | with_reducible apply State.answer_ok
    | with_reducible apply State.defer_ok
    | with_reducible apply State.takeLine_ok
    | with_reducible apply State.touchFrame_ok
    | with_reducible apply okOut_next
    | with_reducible exact okOut_fault _
    | intro _
    | split
    | dsimp only
    | with_reducible apply State.Ok.keep

theorem execMemwr_ok {fl0 : Nat} (s : State) (h_s : s.Ok fl0) : okOut fl0 (execMemwr s) := by
  unfold execMemwr
  try dsimp only
  repeat' first
    | with_reducible assumption
    | with_reducible apply State.askHosts_ok
    | with_reducible apply State.hostTakes_ok
    | with_reducible apply State.answer_ok
    | with_reducible apply State.linkStore_ok
    | with_reducible apply State.defer_ok
    | with_reducible apply State.giveLine_ok
    | with_reducible apply State.setHost_ok
    | with_reducible apply okOut_next
    | with_reducible exact okOut_fault _
    | intro _
    | split
    | dsimp only
    | with_reducible apply State.Ok.keep

theorem State.closeSession_ok {fl0 : Nat} (s : State) (p : Nat) (h_s : s.Ok fl0) : (State.closeSession s p).Ok fl0 := by
  unfold State.closeSession
  try dsimp only
  repeat' first
    | with_reducible assumption
    | with_reducible apply State.setPeer_ok
    | intro _
    | dsimp only
    | with_reducible apply State.Ok.keep

theorem State.dropLink_ok {fl0 : Nat} (s : State) (p : Nat) (h_s : s.Ok fl0) : (State.dropLink s p).Ok fl0 := by
  unfold State.dropLink
  try dsimp only
  repeat' first
    | with_reducible assumption
    | with_reducible apply State.wakeReqs_ok
    | with_reducible apply State.atomDone_ok
    | with_reducible apply State.sendMsg_ok
    | with_reducible apply State.Ok.foldl
    | with_reducible apply State.Ok.foldl_fst
    | intro _
    | split
    | dsimp only
    | with_reducible apply State.Ok.keep

theorem State.cutRest_ok {fl0 : Nat} (s : State) (p i : Nat) (h_s : s.Ok fl0) : (State.cutRest s p i).Ok fl0 := by
  unfold State.cutRest
  try dsimp only
  repeat' first
    | with_reducible assumption
    | with_reducible apply State.goOn_ok
    | with_reducible apply State.logErr_ok
    | with_reducible apply State.setTeam_ok
    | with_reducible apply State.Ok.foldl
    | with_reducible apply State.Ok.foldl_fst
    | intro _
    | split
    | dsimp only
    | with_reducible apply State.Ok.keep

theorem State.portDown_ok {fl0 : Nat} (s : State) (p : Nat) (h_s : s.Ok fl0) : (State.portDown s p).Ok fl0 := by
  unfold State.portDown
  try dsimp only
  repeat' first
    | with_reducible assumption
    | with_reducible apply State.cutRest_ok
    | with_reducible apply State.dropLink_ok
    | with_reducible apply State.closeSession_ok
    | with_reducible apply State.setPort_ok
    | with_reducible apply State.Ok.foldl
    | with_reducible apply State.Ok.foldl_fst
    | intro _
    | split
    | dsimp only
    | with_reducible apply State.Ok.keep

theorem execPortDown_ok {fl0 : Nat} (s : State) (h_s : s.Ok fl0) : okOut fl0 (execPortDown s) := by
  unfold execPortDown
  try dsimp only
  repeat' first
    | with_reducible assumption
    | with_reducible apply State.portDown_ok
    | with_reducible apply okOut_next
    | with_reducible exact okOut_fault _
    | split
    | dsimp only

theorem State.train_ok {fl0 : Nat} (s : State) (p pass : Nat) (h_s : s.Ok fl0) : (State.train s p pass).Ok fl0 := by
  unfold State.train
  try dsimp only
  repeat' first
    | with_reducible assumption
    | with_reducible apply State.portDown_ok
    | with_reducible apply State.setPort_ok
    | split
    | dsimp only
    | with_reducible apply State.Ok.keep

theorem execPortTraining_ok {fl0 : Nat} (s : State) (h_s : s.Ok fl0) : okOut fl0 (execPortTraining s) := by
  unfold execPortTraining
  try dsimp only
  repeat' first
    | with_reducible assumption
    | with_reducible apply State.train_ok
    | with_reducible apply okOut_next
    | with_reducible exact okOut_fault _
    | split
    | dsimp only

theorem execFlit_ok {fl0 : Nat} (s : State) (h_s : s.Ok fl0) : okOut fl0 (execFlit s) := by
  unfold execFlit
  try dsimp only
  repeat' first
    | with_reducible assumption
    | with_reducible apply State.portDown_ok
    | with_reducible apply State.closeSession_ok
    | with_reducible apply State.setPort_ok
    | with_reducible apply okOut_next
    | with_reducible exact okOut_fault _
    | split
    | dsimp only
    | with_reducible apply State.Ok.keep

theorem execLockInterfaceRequest_ok {fl0 : Nat} (s : State) (h_s : s.Ok fl0) : okOut fl0 (execLockInterfaceRequest s) := by
  unfold execLockInterfaceRequest
  try dsimp only
  repeat' first
    | with_reducible assumption
    | with_reducible apply State.setTdisp_ok
    | with_reducible apply State.answer_ok
    | with_reducible apply okOut_next
    | with_reducible exact okOut_fault _
    | split
    | dsimp only

theorem execStartInterfaceRequest_ok {fl0 : Nat} (s : State) (h_s : s.Ok fl0) : okOut fl0 (execStartInterfaceRequest s) := by
  unfold execStartInterfaceRequest
  try dsimp only
  repeat' first
    | with_reducible assumption
    | with_reducible apply State.setTdisp_ok
    | with_reducible apply State.answer_ok
    | with_reducible apply okOut_next
    | with_reducible exact okOut_fault _
    | split
    | dsimp only

theorem State.cancelFunction_ok {fl0 : Nat} (s : State) (f : Nat) (h_s : s.Ok fl0) : (State.cancelFunction s f).Ok fl0 := by
  unfold State.cancelFunction
  try dsimp only
  repeat' first
    | with_reducible assumption
    | with_reducible apply State.cancelJob_ok
    | with_reducible apply State.Ok.foldl
    | with_reducible apply State.Ok.foldl_fst
    | intro _
    | dsimp only

theorem State.lockError_ok {fl0 : Nat} (s : State) (f : Nat) (h_s : s.Ok fl0) : (State.lockError s f).Ok fl0 := by
  unfold State.lockError
  try dsimp only
  repeat' first
    | with_reducible assumption
    | with_reducible apply State.cancelFunction_ok
    | with_reducible apply State.setTdisp_ok
    | dsimp only

theorem State.closeBound_ok {fl0 : Nat} (s : State) (f : Nat) (h_s : s.Ok fl0) : (State.closeBound s f).Ok fl0 := by
  unfold State.closeBound
  try dsimp only
  repeat' first
    | with_reducible assumption
    | with_reducible apply State.closeSession_ok
    | with_reducible apply State.Ok.foldl
    | with_reducible apply State.Ok.foldl_fst
    | intro _
    | split
    | dsimp only

theorem State.scrub_ok {fl0 : Nat} (s : State) (f o : Nat) (h_s : s.Ok fl0) : (State.scrub s f o).1.Ok fl0 := by
  unfold State.scrub
  try dsimp only
  repeat' first
    | with_reducible assumption
    | with_reducible apply State.closeBound_ok
    | with_reducible apply State.cancelFunction_ok
    | with_reducible apply State.noteDiscard_ok
    | with_reducible apply State.discardFrames_ok
    | split
    | dsimp only

theorem State.deferAt_ok {fl0 : Nat} (s : State) (i : Instr) (o : Nat) (h_s : s.Ok fl0) : (State.deferAt s i o).Ok fl0 := by
  unfold State.deferAt
  try dsimp only
  repeat' first
    | with_reducible assumption
    | dsimp only
    | with_reducible apply State.Ok.keep

theorem execStopInterfaceRequest_ok {fl0 : Nat} (s : State) (h_s : s.Ok fl0) : okOut fl0 (execStopInterfaceRequest s) := by
  unfold execStopInterfaceRequest
  have h := State.scrub_ok s s.inp.fn s.inp.low.toNat h_s
  generalize hx : s.scrub s.inp.fn s.inp.low.toNat = x at h
  dsimp only
  rw [hx]
  split
  · exact h_s
  · split
    · exact State.deferAt_ok _ _ _ h
    · exact State.answer_ok _ _ _ (State.setTdisp_ok _ _ _ h)

theorem execGetDeviceInterfaceReport_ok {fl0 : Nat} (s : State) (h_s : s.Ok fl0) : okOut fl0 (execGetDeviceInterfaceReport s) := by
  unfold execGetDeviceInterfaceReport
  try dsimp only
  repeat' first
    | with_reducible assumption
    | with_reducible apply State.answer_ok
    | with_reducible apply okOut_next
    | with_reducible exact okOut_fault _
    | intro _
    | split
    | dsimp only

theorem execGetDeviceInterfaceState_ok {fl0 : Nat} (s : State) (h_s : s.Ok fl0) : okOut fl0 (execGetDeviceInterfaceState s) := by
  unfold execGetDeviceInterfaceState
  try dsimp only
  repeat' first
    | with_reducible assumption
    | with_reducible apply State.answer_ok
    | with_reducible apply okOut_next
    | with_reducible exact okOut_fault _
    | split
    | dsimp only

theorem State.setSession_ok {fl0 : Nat} (s : State) (n : Nat) (x : Sess) (h_s : s.Ok fl0) : (State.setSession s n x).Ok fl0 := by
  unfold State.setSession
  try dsimp only
  repeat' first
    | with_reducible assumption
    | dsimp only
    | with_reducible apply State.Ok.keep

theorem execAlgorithmNegotiation_ok {fl0 : Nat} (s : State) (h_s : s.Ok fl0) : okOut fl0 (execAlgorithmNegotiation s) := by
  unfold execAlgorithmNegotiation
  try dsimp only
  repeat' first
    | with_reducible assumption
    | with_reducible apply State.setSession_ok
    | with_reducible apply State.answer_ok
    | with_reducible apply okOut_next
    | with_reducible exact okOut_fault _
    | split
    | dsimp only
    | with_reducible apply State.Ok.keep

theorem execKeyExchange_ok {fl0 : Nat} (s : State) (h_s : s.Ok fl0) : okOut fl0 (execKeyExchange s) := by
  unfold execKeyExchange
  try dsimp only
  repeat' first
    | with_reducible assumption
    | with_reducible apply State.setSession_ok
    | with_reducible apply State.answer_ok
    | with_reducible apply State.useFresh_ok
    | with_reducible apply okOut_next
    | with_reducible exact okOut_fault _
    | intro _
    | split
    | dsimp only
    | with_reducible apply State.Ok.keep

theorem execFinish_ok {fl0 : Nat} (s : State) (h_s : s.Ok fl0) : okOut fl0 (execFinish s) := by
  unfold execFinish
  try dsimp only
  repeat' first
    | with_reducible assumption
    | with_reducible apply State.setSession_ok
    | with_reducible apply State.answer_ok
    | with_reducible apply okOut_next
    | with_reducible exact okOut_fault _
    | split
    | dsimp only
    | with_reducible apply State.Ok.keep

theorem execHeartbeat_ok {fl0 : Nat} (s : State) (h_s : s.Ok fl0) : okOut fl0 (execHeartbeat s) := by
  unfold execHeartbeat
  try dsimp only
  repeat' first
    | with_reducible assumption
    | with_reducible apply State.answer_ok
    | with_reducible apply okOut_next
    | with_reducible exact okOut_fault _
    | split
    | dsimp only

theorem execKeyUpdate_ok {fl0 : Nat} (s : State) (h_s : s.Ok fl0) : okOut fl0 (execKeyUpdate s) := by
  unfold execKeyUpdate
  try dsimp only
  repeat' first
    | with_reducible assumption
    | with_reducible apply State.setSession_ok
    | with_reducible apply State.answer_ok
    | with_reducible apply okOut_next
    | with_reducible exact okOut_fault _
    | split
    | dsimp only
    | with_reducible apply State.Ok.keep

theorem execEndSession_ok {fl0 : Nat} (s : State) (h_s : s.Ok fl0) : okOut fl0 (execEndSession s) := by
  unfold execEndSession
  try dsimp only
  repeat' first
    | with_reducible assumption
    | with_reducible apply State.setSession_ok
    | with_reducible apply State.closeSession_ok
    | with_reducible apply State.answer_ok
    | with_reducible apply okOut_next
    | with_reducible exact okOut_fault _
    | split
    | dsimp only

theorem execGetMeasurements_ok {fl0 : Nat} (s : State) (h_s : s.Ok fl0) : okOut fl0 (execGetMeasurements s) := by
  unfold execGetMeasurements
  try dsimp only
  repeat' first
    | with_reducible assumption
    | with_reducible apply State.answer_ok
    | with_reducible apply State.Ok.fuses
    | with_reducible apply okOut_next
    | with_reducible exact okOut_fault _
    | split
    | dsimp only

theorem execBind_ok {fl0 : Nat} (s : State) (h_s : s.Ok fl0) : okOut fl0 (execBind s) := by
  unfold execBind
  try dsimp only
  repeat' first
    | with_reducible assumption
    | with_reducible apply State.setPeer_ok
    | with_reducible apply State.answer_ok
    | with_reducible apply okOut_next
    | with_reducible exact okOut_fault _
    | intro _
    | split
    | dsimp only
    | with_reducible apply State.Ok.keep

theorem State.openSession_ok {fl0 : Nat} (s : State) (p f : Nat) (h_s : s.Ok fl0) : (State.openSession s p f).Ok fl0 := by
  unfold State.openSession
  try dsimp only
  repeat' first
    | with_reducible assumption
    | with_reducible apply State.setPeer_ok
    | intro _
    | split
    | dsimp only
    | with_reducible apply State.Ok.keep

theorem State.beginSession_ok {fl0 : Nat} (s : State) (p f : Nat) (h_s : s.Ok fl0) : (State.beginSession s p f).Ok fl0 := by
  unfold State.beginSession
  try dsimp only
  repeat' first
    | with_reducible assumption
    | with_reducible apply State.setPeer_ok
    | dsimp only
    | with_reducible apply State.Ok.keep

theorem State.sessCommand_ok {fl0 : Nat} (s : State) (p : Nat) (v : W64) (h_s : s.Ok fl0) : (State.sessCommand s p v).Ok fl0 := by
  unfold State.sessCommand
  try dsimp only
  repeat' first
    | with_reducible assumption
    | with_reducible apply State.beginSession_ok
    | with_reducible apply State.closeSession_ok
    | with_reducible apply State.setPeer_ok
    | intro _
    | split
    | dsimp only
    | with_reducible apply State.Ok.keep

theorem State.sessEvent_ok {fl0 : Nat} (s : State) (op : Nat) (h_s : s.Ok fl0) : (State.sessEvent s op).Ok fl0 := by
  unfold State.sessEvent
  try dsimp only
  repeat' first
    | with_reducible assumption
    | with_reducible apply State.sessCommand_ok
    | split
    | dsimp only

theorem execSessionOpen_ok {fl0 : Nat} (s : State) (h_s : s.Ok fl0) : okOut fl0 (execSessionOpen s) := by
  unfold execSessionOpen
  try dsimp only
  repeat' first
    | with_reducible assumption
    | with_reducible apply State.sessEvent_ok
    | with_reducible apply State.openSession_ok
    | with_reducible apply okOut_next
    | with_reducible exact okOut_fault _
    | split
    | dsimp only

theorem execSessionClose_ok {fl0 : Nat} (s : State) (h_s : s.Ok fl0) : okOut fl0 (execSessionClose s) := by
  unfold execSessionClose
  try dsimp only
  repeat' first
    | with_reducible assumption
    | with_reducible apply State.sessEvent_ok
    | with_reducible apply okOut_next
    | with_reducible exact okOut_fault _
    | dsimp only

theorem execSessionKeyUpdate_ok {fl0 : Nat} (s : State) (h_s : s.Ok fl0) : okOut fl0 (execSessionKeyUpdate s) := by
  unfold execSessionKeyUpdate
  try dsimp only
  repeat' first
    | with_reducible assumption
    | with_reducible apply State.sessEvent_ok
    | with_reducible apply okOut_next
    | with_reducible exact okOut_fault _
    | dsimp only

end Sys2Proof.Machine
end

