-- ==== Sys2Proof/Laws/KeptBoard.lean ====
section
/-!
SUPPORT. Every operation of the Belfry, register writes, issue and the clock keeps the blown fuses and the canonical form of the memories.
-/
namespace Sys2Proof.Machine

set_option linter.unusedTactic false
set_option linter.unreachableTactic false
set_option linter.unusedSimpArgs false

/-! Belfry. -/

theorem State.setBel_ok {fl0 : Nat} (s : State) (b : Belfry) (h_s : s.Ok fl0) (h_b : fl0 ≤ b.fuses) : (State.setBel s b).Ok fl0 := by
  unfold State.setBel
  try dsimp only
  repeat' first
    | with_reducible assumption
    | with_reducible apply State.Ok.fuses
    | dsimp only
    | with_reducible apply State.Ok.bel

theorem State.fillPools_ok {fl0 : Nat} (s : State) (h_s : s.Ok fl0) : (State.fillPools s).Ok fl0 := by
  unfold State.fillPools
  try dsimp only
  repeat' first
    | with_reducible assumption
    | intro _
    | dsimp only
    | with_reducible apply State.Ok.keep

theorem State.trainAll_ok {fl0 : Nat} (s : State) (m n : Nat) (h_s : s.Ok fl0) : (State.trainAll s m n).Ok fl0 := by
  unfold State.trainAll
  try dsimp only
  repeat' first
    | with_reducible assumption
    | with_reducible apply State.train_ok
    | with_reducible apply State.Ok.foldl
    | with_reducible apply State.Ok.foldl_fst
    | intro _
    | split
    | dsimp only

theorem Belfry.booted_le {n : Nat} {b : Belfry} (k : Bool) (h : n ≤ b.fuses) : n ≤ (b.booted k).fuses := by
  unfold Belfry.booted
  repeat' split
  all_goals exact h

theorem State.bringUp_ok {fl0 : Nat} (s : State) (k : Nat) (h_s : s.Ok fl0) : (s.bringUp k).Ok fl0 := by
  have h1 : ∀ (c : Prop) [Decidable c], (if c then s.fillPools else s).Ok fl0 := by
    intro c _
    split
    · exact State.fillPools_ok _ h_s
    · exact h_s
  have ht : ∀ (c : Prop) [Decidable c] (u : State) (a b : Nat), u.Ok fl0 → (if c then u.trainAll a b else u).Ok fl0 := by
    intro c _ u a b hu
    split
    · exact State.trainAll_ok _ _ _ hu
    · exact hu
  unfold State.bringUp
  dsimp only
  have h3 := ht (7 ≤ s.lastStep k) _ 2 8 (ht (6 ≤ s.lastStep k) _ 0 2 (h1 (k ≤ 4 ∧ 4 ≤ s.lastStep k)))
  revert h3
  generalize (if 7 ≤ s.lastStep k then _ else _ : State) = v
  intro h3
  have h0 : ∀ (c : Prop) [Decidable c] (x : FwSlot), fl0 ≤ (if c then v.bel.boots x else v.bel).fuses := by
    intro c _ x
    split
    · exact h3.fuses
    · exact h3.fuses
  have hb : ∀ (c : Prop) [Decidable c] (x : Belfry) (q : Bool), fl0 ≤ x.fuses → fl0 ≤ (if c then x.booted q else x).fuses := by
    intro c _ x q hx
    split
    · exact Belfry.booted_le _ hx
    · exact hx
  have hb := hb (k ≤ 2 ∧ 1 ≤ s.lastStep k) _ (s.lastStep k == 9) (h0 (k ≤ 2 ∧ 2 ≤ s.lastStep k) (SMap.get s.bel.flash s.bel.bootSlot FwSlot.erased))
  split
  · exact State.logErr_ok _ _ _ _ _ _ _ (State.setBel_ok _ _ h3 hb)
  · exact State.setBel_ok _ _ h3 hb


theorem Belfry.flashOnly_le {n : Nat} {b : Belfry} (h : n ≤ b.fuses) : n ≤ b.flashOnly.fuses := h

theorem Belfry.warmOnly_le {n : Nat} {b : Belfry} (h : n ≤ b.fuses) : n ≤ b.warmOnly.fuses := h

theorem State.lost_ok {fl0 : Nat} (s : State) (b : Belfry) (h_s : s.Ok fl0) (h_b : fl0 ≤ b.fuses) : (State.lost s b).Ok fl0 := by
  exact ⟨h_b, by rfl, h_s.2.2.1, by rfl⟩

theorem execColdReset_ok {fl0 : Nat} (s : State) (h_s : s.Ok fl0) : okOut fl0 (execColdReset s) := by
  unfold execColdReset
  try dsimp only
  repeat' first
    | with_reducible assumption
    | with_reducible apply State.lost_ok
    | with_reducible apply State.bringUp_ok
    | with_reducible apply Belfry.flashOnly_le
    | with_reducible apply State.Ok.fuses
    | with_reducible apply okOut_next
    | with_reducible exact okOut_fault _
    | dsimp only

theorem State.bcmdBusy_ok {fl0 : Nat} (s : State) (h_s : s.Ok fl0) : (State.bcmdBusy s).Ok fl0 := by
  unfold State.bcmdBusy
  try dsimp only
  repeat' first
    | with_reducible assumption
    | with_reducible apply State.setBel_ok
    | with_reducible apply State.Ok.fuses
    | dsimp only
    | with_reducible apply State.Ok.keep

theorem State.cancelAll_ok {fl0 : Nat} (s : State) (h_s : s.Ok fl0) : (State.cancelAll s).Ok fl0 := by
  unfold State.cancelAll
  try dsimp only
  repeat' first
    | with_reducible assumption
    | with_reducible apply State.cancelJob_ok
    | with_reducible apply State.Ok.foldl
    | with_reducible apply State.Ok.foldl_fst
    | intro _
    | dsimp only

theorem execWarmReset_ok {fl0 : Nat} (s : State) (h_s : s.Ok fl0) : okOut fl0 (execWarmReset s) := by
  unfold execWarmReset
  try dsimp only
  repeat' first
    | with_reducible assumption
    | with_reducible apply State.cancelAll_ok
    | with_reducible apply State.bcmdBusy_ok
    | with_reducible apply State.lost_ok
    | with_reducible apply State.bringUp_ok
    | with_reducible apply State.setBel_ok
    | with_reducible apply State.deferAt_ok
    | with_reducible apply Belfry.warmOnly_le
    | with_reducible apply State.Ok.fuses
    | with_reducible apply okOut_next
    | with_reducible exact okOut_fault _
    | split
    | dsimp only
    | with_reducible apply State.Ok.keep

theorem State.clearRegs_ok {fl0 : Nat} (s : State) (f : Nat) (h_s : s.Ok fl0) : (State.clearRegs s f).Ok fl0 := by
  unfold State.clearRegs
  try dsimp only
  repeat' first
    | with_reducible assumption
    | intro _
    | dsimp only
    | with_reducible apply State.Ok.keep

theorem execFunctionLevelReset_ok {fl0 : Nat} (s : State) (h_s : s.Ok fl0) : okOut fl0 (execFunctionLevelReset s) := by
  unfold execFunctionLevelReset
  have h := State.scrub_ok s s.inp.fn s.inp.low.toNat h_s
  generalize hx : s.scrub s.inp.fn s.inp.low.toNat = x at h
  dsimp only
  rw [hx]
  split
  · exact h_s
  · split
    · exact State.deferAt_ok _ _ _ h
    · exact State.dropFaults_ok _ _ _ (have h1 := State.clearRegs_ok _ s.inp.fn (State.setTdisp_ok _ s.inp.fn 0 h); ⟨h1.1, h1.2⟩)

theorem execUpdate_ok {fl0 : Nat} (s : State) (h_s : s.Ok fl0) : okOut fl0 (execUpdate s) := by
  unfold execUpdate
  try dsimp only
  repeat' first
    | with_reducible assumption
    | with_reducible apply State.bcmdBusy_ok
    | with_reducible apply State.setBel_ok
    | with_reducible apply State.Ok.fuses
    | with_reducible apply okOut_next
    | with_reducible exact okOut_fault _
    | split
    | dsimp only
    | with_reducible apply State.Ok.keep

theorem execUpdateReadComplete_ok {fl0 : Nat} (s : State) (h_s : s.Ok fl0) : okOut fl0 (execUpdateReadComplete s) := by
  unfold execUpdateReadComplete
  try dsimp only
  repeat' first
    | with_reducible assumption
    | with_reducible apply State.setBel_ok
    | with_reducible apply State.logErr_ok
    | with_reducible apply State.Ok.fuses
    | with_reducible apply okOut_next
    | with_reducible exact okOut_fault _
    | intro _
    | split
    | dsimp only
    | with_reducible apply State.Ok.keep

theorem execCommit_ok {fl0 : Nat} (s : State) (h_s : s.Ok fl0) : okOut fl0 (execCommit s) := by
  unfold execCommit
  try dsimp only
  repeat' first
    | with_reducible assumption
    | with_reducible apply State.bcmdBusy_ok
    | with_reducible apply State.setBel_ok
    | with_reducible apply State.logErr_ok
    | with_reducible apply le_max_of_le_left
    | with_reducible apply State.Ok.fuses
    | with_reducible apply okOut_next
    | with_reducible exact okOut_fault _
    | split
    | dsimp only
    | with_reducible apply State.Ok.keep

theorem State.cleanCaches_ok {fl0 : Nat} (s : State) (h_s : s.Ok fl0) : (State.cleanCaches s).Ok fl0 := by
  unfold State.cleanCaches
  try dsimp only
  repeat' first
    | with_reducible assumption
    | with_reducible apply State.flushSector_ok
    | with_reducible apply State.writeBack_ok
    | with_reducible apply State.Ok.foldl
    | with_reducible apply State.Ok.foldl_fst
    | intro _
    | dsimp only

theorem execD3hotEntry_ok {fl0 : Nat} (s : State) (h_s : s.Ok fl0) : okOut fl0 (execD3hotEntry s) := by
  unfold execD3hotEntry
  try dsimp only
  repeat' first
    | with_reducible assumption
    | with_reducible apply State.cleanCaches_ok
    | with_reducible apply State.lost_ok
    | with_reducible apply State.Ok.wfMem
    | with_reducible apply State.Ok.wfSys
    | with_reducible apply State.Ok.wfCore
    | with_reducible apply State.Ok.fuses
    | with_reducible apply okOut_next
    | with_reducible exact okOut_fault _
    | intro _
    | split
    | dsimp only
    | with_reducible apply State.Ok.keep
    | with_reducible apply State.Ok.mem

theorem execD3hotExit_ok {fl0 : Nat} (s : State) (h_s : s.Ok fl0) : okOut fl0 (execD3hotExit s) := by
  unfold execD3hotExit
  try dsimp only
  repeat' first
    | with_reducible assumption
    | with_reducible apply State.bringUp_ok
    | with_reducible apply State.Ok.fuses
    | with_reducible apply okOut_next
    | with_reducible exact okOut_fault _
    | split
    | dsimp only

theorem execD3cold_ok {fl0 : Nat} (s : State) (h_s : s.Ok fl0) : okOut fl0 (execD3cold s) := by
  unfold execD3cold
  try dsimp only
  repeat' first
    | with_reducible assumption
    | with_reducible apply State.lost_ok
    | with_reducible apply Belfry.flashOnly_le
    | with_reducible apply State.Ok.fuses
    | with_reducible apply okOut_next
    | with_reducible exact okOut_fault _
    | dsimp only
    | with_reducible apply State.Ok.keep

theorem execD0IdleEntry_ok {fl0 : Nat} (s : State) (h_s : s.Ok fl0) : okOut fl0 (execD0IdleEntry s) := by
  unfold execD0IdleEntry
  try dsimp only
  repeat' first
    | with_reducible assumption
    | with_reducible apply State.setBel_ok
    | with_reducible apply State.Ok.fuses
    | with_reducible apply okOut_next
    | with_reducible exact okOut_fault _
    | split
    | dsimp only
    | with_reducible apply State.Ok.keep

theorem execD0IdleExit_ok {fl0 : Nat} (s : State) (h_s : s.Ok fl0) : okOut fl0 (execD0IdleExit s) := by
  unfold execD0IdleExit
  try dsimp only
  repeat' first
    | with_reducible assumption
    | with_reducible apply State.setBel_ok
    | with_reducible apply State.Ok.fuses
    | with_reducible apply okOut_next
    | with_reducible exact okOut_fault _
    | split
    | dsimp only
    | with_reducible apply State.Ok.keep

theorem State.setSensor_ok {fl0 : Nat} (s : State) (n : Nat) (x : W32) (h_s : s.Ok fl0) : (State.setSensor s n x).Ok fl0 := by
  unfold State.setSensor
  try dsimp only
  repeat' first
    | with_reducible assumption
    | with_reducible apply State.setBel_ok
    | with_reducible apply State.Ok.fuses
    | intro _
    | split
    | dsimp only
    | with_reducible apply State.Ok.keep

theorem execSensorWarning_ok {fl0 : Nat} (s : State) (h_s : s.Ok fl0) : okOut fl0 (execSensorWarning s) := by
  unfold execSensorWarning
  try dsimp only
  repeat' first
    | with_reducible assumption
    | with_reducible apply State.setSensor_ok
    | with_reducible apply State.logErr_ok
    | with_reducible apply State.Ok.fuses
    | with_reducible apply okOut_next
    | with_reducible exact okOut_fault _
    | split
    | dsimp only

theorem execSensorWarningEnd_ok {fl0 : Nat} (s : State) (h_s : s.Ok fl0) : okOut fl0 (execSensorWarningEnd s) := by
  unfold execSensorWarningEnd
  try dsimp only
  repeat' first
    | with_reducible assumption
    | with_reducible apply State.setSensor_ok
    | with_reducible apply State.setBel_ok
    | with_reducible apply State.Ok.fuses
    | with_reducible apply okOut_next
    | with_reducible exact okOut_fault _
    | split
    | dsimp only
    | with_reducible apply State.Ok.keep

theorem execShutdown_ok {fl0 : Nat} (s : State) (h_s : s.Ok fl0) : okOut fl0 (execShutdown s) := by
  unfold execShutdown
  try dsimp only
  repeat' first
    | with_reducible assumption
    | with_reducible apply State.setSensor_ok
    | with_reducible apply State.setBel_ok
    | with_reducible apply State.logErr_ok
    | with_reducible apply State.Ok.fuses
    | with_reducible apply okOut_next
    | with_reducible exact okOut_fault _
    | intro _
    | split
    | dsimp only
    | with_reducible apply State.Ok.keep

theorem State.clockStep_ok {fl0 : Nat} (s : State) (k : Nat) (n : Option Nat) (b : Belfry) (h_s : s.Ok fl0) (h_b : fl0 ≤ b.fuses) : (State.clockStep s k n b).Ok fl0 := by
  unfold State.clockStep
  try dsimp only
  repeat' first
    | with_reducible assumption
    | with_reducible apply State.setBel_ok
    | with_reducible apply State.logErr_ok
    | with_reducible apply State.Ok.fuses
    | intro _
    | dsimp only
    | with_reducible apply State.Ok.keep

theorem execClockStepDown_ok {fl0 : Nat} (s : State) (h_s : s.Ok fl0) : okOut fl0 (execClockStepDown s) := by
  unfold execClockStepDown
  try dsimp only
  repeat' first
    | with_reducible assumption
    | with_reducible apply State.clockStep_ok
    | with_reducible apply State.Ok.fuses
    | with_reducible apply okOut_next
    | with_reducible exact okOut_fault _
    | split
    | dsimp only
    | with_reducible apply State.Ok.keep

theorem execClockStepUp_ok {fl0 : Nat} (s : State) (h_s : s.Ok fl0) : okOut fl0 (execClockStepUp s) := by
  unfold execClockStepUp
  try dsimp only
  repeat' first
    | with_reducible assumption
    | with_reducible apply State.clockStep_ok
    | with_reducible apply State.Ok.fuses
    | with_reducible apply okOut_next
    | with_reducible exact okOut_fault _
    | split
    | dsimp only
    | with_reducible apply State.Ok.keep

theorem execLantentHighWrite_ok {fl0 : Nat} (s : State) (h_s : s.Ok fl0) : okOut fl0 (execLantentHighWrite s) := by
  unfold execLantentHighWrite
  try dsimp only
  repeat' first
    | with_reducible assumption
    | with_reducible apply State.lanternPut_ok
    | with_reducible apply okOut_next
    | with_reducible exact okOut_fault _
    | split
    | dsimp only

theorem execLantentHighRead_ok {fl0 : Nat} (s : State) (h_s : s.Ok fl0) : okOut fl0 (execLantentHighRead s) := by
  unfold execLantentHighRead
  try dsimp only
  repeat' first
    | with_reducible assumption
    | with_reducible apply State.answer_ok
    | with_reducible apply State.setLantern_ok
    | with_reducible apply okOut_next
    | with_reducible exact okOut_fault _
    | split
    | dsimp only

theorem State.lantasg_ok {fl0 : Nat} (s : State) (n : Nat) (v : W64) (hv : Bool) (h_s : s.Ok fl0) : (State.lantasg s n v hv).Ok fl0 := by
  unfold State.lantasg
  try dsimp only
  repeat' first
    | with_reducible assumption
    | with_reducible apply State.setBel_ok
    | with_reducible apply State.setLantern_ok
    | with_reducible apply State.Ok.fuses
    | split
    | dsimp only
    | with_reducible apply State.Ok.keep

theorem execLantasgWrite_ok {fl0 : Nat} (s : State) (h_s : s.Ok fl0) : okOut fl0 (execLantasgWrite s) := by
  unfold execLantasgWrite
  try dsimp only
  repeat' first
    | with_reducible assumption
    | with_reducible apply State.lantasg_ok
    | with_reducible apply okOut_next
    | with_reducible exact okOut_fault _
    | dsimp only

/-! RegWrites. -/

theorem State.via_ok {fl0 : Nat} (s : State) (f n : Nat) (v : W64) (e : State → Host.Outcome State Fault Refusal) (h_s : s.Ok fl0) (h_e : ∀ u : State, u.Ok fl0 → okOut fl0 (e u)) : (State.via s f n v e).Ok fl0 := by
  unfold State.via
  have h1 := h_e { s with inp := { s.inp with fn := f, num := n, value := v } } ⟨h_s.1, h_s.2⟩
  revert h1
  generalize e _ = o
  intro h1
  cases o with
  | next t => exact ⟨State.Ok.fuses h1, h1.2⟩
  | fault _ => exact h_s
  | refused _ => exact h_s

theorem State.setIf_ok {fl0 : Nat} (s : State) (c : Bool) (f off : Nat) (v : W64) (h_s : s.Ok fl0) : (State.setIf s c f off v).Ok fl0 := by
  unfold State.setIf
  try dsimp only
  repeat' first
    | with_reducible assumption
    | with_reducible apply State.setReg_ok
    | with_reducible apply State.Ok.ite
    | split
    | dsimp only

theorem State.flushLines_ok {fl0 : Nat} (s : State) (p : Nat → Bool) (h_s : s.Ok fl0) : (State.flushLines s p).Ok fl0 := by
  unfold State.flushLines
  try dsimp only
  repeat' first
    | with_reducible assumption
    | with_reducible apply State.setDir_ok
    | with_reducible apply State.flushSector_ok
    | with_reducible apply State.writeBack_ok
    | with_reducible apply State.Ok.foldl
    | with_reducible apply State.Ok.foldl_fst
    | intro _
    | dsimp only
    | with_reducible apply State.Ok.keep

theorem State.writeClrange_ok {fl0 : Nat} (s : State) (f : Nat) (v : W64) (h_s : s.Ok fl0) : (State.writeClrange s f v).Ok fl0 := by
  unfold State.writeClrange
  try dsimp only
  repeat' first
    | with_reducible assumption
    | with_reducible apply State.setIf_ok
    | intro _
    | dsimp only

theorem State.writeWindow_ok {fl0 : Nat} (s : State) (f : Nat) (lo n : Nat) (h_s : s.Ok fl0) : (State.writeWindow s f lo n).Ok fl0 := by
  unfold State.writeWindow
  try dsimp only
  repeat' first
    | with_reducible assumption
    | with_reducible apply State.zeroRange_ok
    | with_reducible apply State.setReg_ok
    | intro _
    | with_reducible apply State.Ok.ite
    | split
    | dsimp only

theorem State.writePtroot_ok {fl0 : Nat} (s : State) (f : Nat) (v : W64) (h_s : s.Ok fl0) : (State.writePtroot s f v).Ok fl0 := by
  unfold State.writePtroot
  try dsimp only
  repeat' first
    | with_reducible assumption
    | with_reducible apply State.setReg_ok
    | with_reducible apply State.Ok.ite
    | split
    | dsimp only

theorem State.writeLqcfg_ok {fl0 : Nat} (s : State) (f q : Nat) (v : W64) (h_s : s.Ok fl0) : (State.writeLqcfg s f q v).Ok fl0 := by
  unfold State.writeLqcfg
  try dsimp only
  repeat' first
    | with_reducible assumption
    | with_reducible apply State.tryAppends_ok
    | with_reducible apply State.setReg_ok
    | intro _
    | with_reducible apply State.Ok.ite
    | split
    | dsimp only
    | with_reducible apply State.Ok.keep

theorem State.writeRr_ok {fl0 : Nat} (s : State) (f off : Nat) (v : W64) (h_s : s.Ok fl0) : (State.writeRr s f off v).Ok fl0 := by
  unfold State.writeRr
  try dsimp only
  repeat' first
    | with_reducible assumption
    | with_reducible apply State.drainReports_ok
    | with_reducible apply State.setReg_ok
    | dsimp only

theorem State.writeFsqcfg_ok {fl0 : Nat} (s : State) (f : Nat) (v : W64) (h_s : s.Ok fl0) : (State.writeFsqcfg s f v).Ok fl0 := by
  unfold State.writeFsqcfg
  try dsimp only
  repeat' first
    | with_reducible assumption
    | with_reducible apply State.dropFaults_ok
    | with_reducible apply State.drainFaults_ok
    | with_reducible apply State.setReg_ok
    | with_reducible apply State.Ok.ite
    | split
    | dsimp only

theorem State.writeFsqhead_ok {fl0 : Nat} (s : State) (f : Nat) (v : W64) (h_s : s.Ok fl0) : (State.writeFsqhead s f v).Ok fl0 := by
  unfold State.writeFsqhead
  try dsimp only
  repeat' first
    | with_reducible assumption
    | with_reducible apply State.drainFaults_ok
    | with_reducible apply State.setReg_ok
    | dsimp only

theorem State.deferReg_ok {fl0 : Nat} (s : State) (i : Instr) (f n : Nat) (v : W64) (h_s : s.Ok fl0) : (State.deferReg s i f n v).Ok fl0 := by
  unfold State.deferReg
  try dsimp only
  repeat' first
    | with_reducible assumption
    | dsimp only
    | with_reducible apply State.Ok.keep

theorem State.writeNcwin_ok {fl0 : Nat} (s : State) (f n : Nat) (v : W64) (h_s : s.Ok fl0) : (State.writeNcwin s f n v).Ok fl0 := by
  unfold State.writeNcwin
  try dsimp only
  repeat' first
    | with_reducible assumption
    | with_reducible apply State.deferReg_ok
    | with_reducible apply State.flushLines_ok
    | with_reducible apply State.setReg_ok
    | intro _
    | with_reducible apply State.Ok.ite
    | split
    | dsimp only

theorem State.writeQrange_ok {fl0 : Nat} (s : State) (f : Nat) (v : W64) (h_s : s.Ok fl0) : (State.writeQrange s f v).Ok fl0 := by
  unfold State.writeQrange
  try dsimp only
  repeat' first
    | with_reducible assumption
    | with_reducible apply State.setIf_ok
    | intro _
    | dsimp only

theorem State.writeGrange_ok {fl0 : Nat} (s : State) (f : Nat) (v : W64) (h_s : s.Ok fl0) : (State.writeGrange s f v).Ok fl0 := by
  unfold State.writeGrange
  try dsimp only
  repeat' first
    | with_reducible assumption
    | with_reducible apply State.setIf_ok
    | intro _
    | dsimp only

theorem State.writeL2cfg_ok {fl0 : Nat} (s : State) (f : Nat) (v : W64) (h_s : s.Ok fl0) : (State.writeL2cfg s f v).Ok fl0 := by
  unfold State.writeL2cfg
  try dsimp only
  repeat' first
    | with_reducible assumption
    | with_reducible apply State.deferReg_ok
    | with_reducible apply State.flushLines_ok
    | with_reducible apply State.setReg_ok
    | intro _
    | with_reducible apply State.Ok.ite
    | split
    | dsimp only
    | with_reducible apply State.Ok.keep

theorem State.writeDmspace_ok {fl0 : Nat} (s : State) (v : W64) (h_s : s.Ok fl0) : (State.writeDmspace s v).Ok fl0 := by
  unfold State.writeDmspace
  try dsimp only
  repeat' first
    | with_reducible assumption
    | with_reducible apply State.setIf_ok
    | intro _
    | dsimp only

theorem State.checkPools_ok {fl0 : Nat} (s : State) (h_s : s.Ok fl0) : (State.checkPools s).Ok fl0 := by
  unfold State.checkPools
  try dsimp only
  repeat' first
    | with_reducible assumption
    | intro _
    | with_reducible apply State.Ok.ite
    | split
    | dsimp only
    | with_reducible apply State.Ok.keep

theorem State.writeHv_ok {fl0 : Nat} (s : State) (f off : Nat) (v : W64) (h_s : s.Ok fl0) : (State.writeHv s f off v).Ok fl0 := by
  unfold State.writeHv
  try dsimp only
  repeat' first
    | with_reducible assumption
    | with_reducible apply State.checkPools_ok
    | with_reducible apply State.writeDmspace_ok
    | with_reducible apply State.writeL2cfg_ok
    | with_reducible apply State.writeGrange_ok
    | with_reducible apply State.writeQrange_ok
    | with_reducible apply State.writeWindow_ok
    | with_reducible apply State.writeClrange_ok
    | with_reducible apply State.setIf_ok
    | with_reducible apply State.sessCommand_ok
    | with_reducible apply State.setLog_ok
    | with_reducible apply State.setQuota_ok
    | with_reducible apply State.setReg_ok
    | intro _
    | with_reducible apply State.Ok.ite
    | split
    | dsimp only
    | with_reducible apply State.Ok.keep

theorem State.writeRw_ok {fl0 : Nat} (s : State) (f off : Nat) (v : W64) (h_s : s.Ok fl0) : (State.writeRw s f off v).Ok fl0 := by
  unfold State.writeRw
  try dsimp only
  repeat' first
    | with_reducible assumption
    | with_reducible apply State.writeNcwin_ok
    | with_reducible apply State.writeFsqhead_ok
    | with_reducible apply State.writeFsqcfg_ok
    | with_reducible apply State.writeRr_ok
    | with_reducible apply State.writeLqcfg_ok
    | with_reducible apply State.writePtroot_ok
    | with_reducible apply State.setIf_ok
    | with_reducible apply State.via_ok
    | with_reducible apply execDiscard_ok
    | with_reducible apply execFsresolve_ok
    | with_reducible apply execInvcmd_ok
    | with_reducible apply State.setReg_ok
    | intro _
    | with_reducible apply State.Ok.ite
    | split
    | dsimp only
    | with_reducible apply State.Ok.keep

theorem State.writeOwn_ok {fl0 : Nat} (s : State) (f off : Nat) (v : W64) (hv : Bool) (h_s : s.Ok fl0) : (State.writeOwn s f off v hv).Ok fl0 := by
  unfold State.writeOwn
  try dsimp only
  repeat' first
    | with_reducible assumption
    | with_reducible apply State.writeRw_ok
    | with_reducible apply State.writeHv_ok
    | with_reducible apply State.lockError_ok
    | intro _
    | with_reducible apply State.Ok.ite
    | split
    | dsimp only
    | with_reducible apply State.Ok.keep

theorem State.writeWin_ok {fl0 : Nat} (s : State) (f off : Nat) (v : W64) (hv : Bool) (h_s : s.Ok fl0) : (State.writeWin s f off v hv).Ok fl0 := by
  unfold State.writeWin
  try dsimp only
  repeat' first
    | with_reducible assumption
    | with_reducible apply State.writeOwn_ok
    | with_reducible apply State.Ok.ite
    | split
    | dsimp only

theorem State.writeBel_ok {fl0 : Nat} (s : State) (off : Nat) (v low : W64) (hv : Bool) (h_s : s.Ok fl0) : (State.writeBel s off v low hv).Ok fl0 := by
  unfold State.writeBel
  try dsimp only
  repeat' first
    | with_reducible assumption
    | with_reducible apply State.via_ok
    | with_reducible apply State.lantasg_ok
    | with_reducible apply execCommit_ok
    | with_reducible apply execUpdate_ok
    | with_reducible apply execWarmReset_ok
    | with_reducible apply State.bcmdBusy_ok
    | with_reducible apply State.setBel_ok
    | with_reducible apply State.lanternPut_ok
    | with_reducible apply State.Ok.fuses
    | intro _
    | with_reducible apply State.Ok.ite
    | split
    | dsimp only
    | with_reducible apply State.Ok.keep

theorem State.inputWrite_ok {fl0 : Nat} (s : State) (off : Nat) (h_s : s.Ok fl0) : (State.inputWrite s off).Ok fl0 := by
  unfold State.inputWrite
  try dsimp only
  repeat' first
    | with_reducible assumption
    | with_reducible apply State.writeOwn_ok
    | with_reducible apply State.Ok.ite
    | split
    | dsimp only

theorem execPquotaWrite_ok {fl0 : Nat} (s : State) (h_s : s.Ok fl0) : okOut fl0 (execPquotaWrite s) := by
  unfold execPquotaWrite
  try dsimp only
  repeat' first
    | with_reducible assumption
    | with_reducible apply State.inputWrite_ok
    | with_reducible apply okOut_next
    | with_reducible exact okOut_fault _
    | dsimp only

theorem execDlheadWrite_ok {fl0 : Nat} (s : State) (h_s : s.Ok fl0) : okOut fl0 (execDlheadWrite s) := by
  unfold execDlheadWrite
  try dsimp only
  repeat' first
    | with_reducible assumption
    | with_reducible apply State.inputWrite_ok
    | with_reducible apply okOut_next
    | with_reducible exact okOut_fault _
    | dsimp only

theorem execLqcfgWrite_ok {fl0 : Nat} (s : State) (h_s : s.Ok fl0) : okOut fl0 (execLqcfgWrite s) := by
  unfold execLqcfgWrite
  try dsimp only
  repeat' first
    | with_reducible assumption
    | with_reducible apply State.inputWrite_ok
    | with_reducible apply okOut_next
    | with_reducible exact okOut_fault _
    | with_reducible apply State.Ok.ite
    | split
    | dsimp only

theorem execFsqcfgWrite_ok {fl0 : Nat} (s : State) (h_s : s.Ok fl0) : okOut fl0 (execFsqcfgWrite s) := by
  unfold execFsqcfgWrite
  try dsimp only
  repeat' first
    | with_reducible assumption
    | with_reducible apply State.inputWrite_ok
    | with_reducible apply okOut_next
    | with_reducible exact okOut_fault _
    | dsimp only

theorem execFsqheadWrite_ok {fl0 : Nat} (s : State) (h_s : s.Ok fl0) : okOut fl0 (execFsqheadWrite s) := by
  unfold execFsqheadWrite
  try dsimp only
  repeat' first
    | with_reducible assumption
    | with_reducible apply State.inputWrite_ok
    | with_reducible apply okOut_next
    | with_reducible exact okOut_fault _
    | dsimp only

theorem execRrheadWrite_ok {fl0 : Nat} (s : State) (h_s : s.Ok fl0) : okOut fl0 (execRrheadWrite s) := by
  unfold execRrheadWrite
  try dsimp only
  repeat' first
    | with_reducible assumption
    | with_reducible apply State.inputWrite_ok
    | with_reducible apply okOut_next
    | with_reducible exact okOut_fault _
    | dsimp only

theorem execPtrootWrite_ok {fl0 : Nat} (s : State) (h_s : s.Ok fl0) : okOut fl0 (execPtrootWrite s) := by
  unfold execPtrootWrite
  try dsimp only
  repeat' first
    | with_reducible assumption
    | with_reducible apply State.inputWrite_ok
    | with_reducible apply okOut_next
    | with_reducible exact okOut_fault _
    | dsimp only

theorem execNcwinWrite_ok {fl0 : Nat} (s : State) (h_s : s.Ok fl0) : okOut fl0 (execNcwinWrite s) := by
  unfold execNcwinWrite
  try dsimp only
  repeat' first
    | with_reducible assumption
    | with_reducible apply State.inputWrite_ok
    | with_reducible apply okOut_next
    | with_reducible exact okOut_fault _
    | with_reducible apply State.Ok.ite
    | split
    | dsimp only

theorem execL2cfgWrite_ok {fl0 : Nat} (s : State) (h_s : s.Ok fl0) : okOut fl0 (execL2cfgWrite s) := by
  unfold execL2cfgWrite
  try dsimp only
  repeat' first
    | with_reducible assumption
    | with_reducible apply State.inputWrite_ok
    | with_reducible apply okOut_next
    | with_reducible exact okOut_fault _
    | dsimp only

theorem execAliasWrite_ok {fl0 : Nat} (s : State) (h_s : s.Ok fl0) : okOut fl0 (execAliasWrite s) := by
  unfold execAliasWrite
  try dsimp only
  repeat' first
    | with_reducible assumption
    | with_reducible apply State.writeWin_ok
    | with_reducible apply okOut_next
    | with_reducible exact okOut_fault _
    | with_reducible apply State.Ok.ite
    | split
    | dsimp only

theorem execRegisterWrite_ok {fl0 : Nat} (s : State) (h_s : s.Ok fl0) : okOut fl0 (execRegisterWrite s) := by
  unfold execRegisterWrite
  try dsimp only
  repeat' first
    | with_reducible assumption
    | with_reducible apply State.writeBel_ok
    | with_reducible apply State.writeWin_ok
    | with_reducible apply okOut_next
    | with_reducible exact okOut_fault _
    | intro _
    | with_reducible apply State.Ok.ite
    | split
    | dsimp only
    | with_reducible apply State.Ok.keep

/-! Issue. -/

theorem State.takePend_ok {fl0 : Nat} (s : State) (i : Nat) (p0 : PendTrap) (h_s : s.Ok fl0) : (State.takePend s i p0).Ok fl0 := by
  unfold State.takePend
  try dsimp only
  repeat' first
    | with_reducible assumption
    | with_reducible apply State.takeTrap_ok
    | with_reducible apply State.setTeam_ok
    | with_reducible apply State.Ok.ite
    | split
    | dsimp only
    | with_reducible apply State.Ok.keep

theorem State.boundary_ok {fl0 : Nat} (s : State) (i : Nat) (h_s : s.Ok fl0) : ∀ u_, (State.boundary s i) = some u_ → u_.Ok fl0 := by
  intro u e
  unfold State.boundary at e
  dsimp only at e
  split at e
  · exact Option.some.inj e ▸ State.cancelNow_ok _ _ h_s
  · split at e
    · exact Option.some.inj e ▸ State.takePend_ok _ _ _ h_s
    · exact Option.some.inj e ▸ State.park_ok _ _ _ _ (State.setTeam_ok _ _ _ h_s)
    · split at e
      · exact Option.some.inj e ▸ State.park_ok _ _ _ _ h_s
      · split at e
        · split at e
          · exact Option.some.inj e ▸ State.parkHalted_ok _ _ _ h_s
          · split at e
            · exact Option.some.inj e ▸ h_s
            · cases e
        · split at e
          · exact Option.some.inj e ▸ h_s
          · cases e

theorem State.textPage_ok {fl0 : Nat} (s : State) (va cause : Nat) (h_s : s.Ok fl0) : (State.textPage s va cause).Ok fl0 := by
  unfold State.textPage
  try dsimp only
  repeat' first
    | with_reducible assumption
    | with_reducible apply State.takeTrap_ok
    | with_reducible apply State.park_ok
    | with_reducible apply State.addFault_ok
    | with_reducible apply State.useFresh_ok
    | with_reducible apply State.Ok.ite
    | split
    | dsimp only
    | with_reducible apply State.Ok.keep

theorem State.textTrap_ok {fl0 : Nat} (s : State) (cls sub : Nat) (h_s : s.Ok fl0) : (State.textTrap s cls sub).Ok fl0 := by
  unfold State.textTrap
  try dsimp only
  repeat' first
    | with_reducible assumption
    | with_reducible apply State.takeTrap_ok
    | with_reducible apply State.useFresh_ok
    | dsimp only

theorem State.ready_ok {fl0 : Nat} (s : State) (h_s : s.Ok fl0) : (State.ready s).1.Ok fl0 := by
  unfold State.ready
  try dsimp only
  repeat' first
    | with_reducible assumption
    | with_reducible apply State.textTrap_ok
    | with_reducible apply State.textPage_ok
    | with_reducible apply State.fillWindow_ok
    | with_reducible apply State.parkContext_ok
    | with_reducible apply State.absentPage_ok
    | with_reducible apply State.fetch_ok
    | with_reducible apply State.entered_ok
    | with_reducible apply State.reject_ok
    | with_reducible apply State.illegal_ok
    | intro _
    | with_reducible apply State.Ok.ite
    | split
    | dsimp only
    | with_reducible apply State.Ok.keep

theorem State.logUnread_ok {fl0 : Nat} (s : State) (i : Nat) (x : Instr) (t0 : Team) (h_s : s.Ok fl0) : (State.logUnread s i x t0).Ok fl0 := by
  unfold State.logUnread
  try dsimp only
  repeat' first
    | with_reducible assumption
    | with_reducible apply State.logErr_ok
    | with_reducible apply State.Ok.foldl
    | with_reducible apply State.Ok.foldl_fst
    | intro _
    | split
    | dsimp only
    | with_reducible apply State.Ok.keep

theorem State.countSkid_ok {fl0 : Nat} (s : State) (i : Nat) (h_s : s.Ok fl0) : (State.countSkid s i).Ok fl0 := by
  unfold State.countSkid
  try dsimp only
  repeat' first
    | with_reducible assumption
    | with_reducible apply State.parkHalted_ok
    | with_reducible apply State.setTeam_ok
    | intro _
    | with_reducible apply State.Ok.ite
    | split
    | dsimp only
    | with_reducible apply State.Ok.keep

theorem State.stepTrap_ok {fl0 : Nat} (s : State) (i : Nat) (t0 : Team) (len : Nat) (h_s : s.Ok fl0) : (State.stepTrap s i t0 len).Ok fl0 := by
  unfold State.stepTrap
  try dsimp only
  repeat' first
    | with_reducible assumption
    | with_reducible apply State.takePend_ok
    | with_reducible apply State.setTeam_ok
    | with_reducible apply State.Ok.ite
    | split
    | dsimp only
    | with_reducible apply State.Ok.keep

theorem State.completed_ok {fl0 : Nat} (s : State) (i : Nat) (x : Instr) (t0 : Team) (h_s : s.Ok fl0) : (State.completed s i x t0).Ok fl0 := by
  unfold State.completed
  try dsimp only
  repeat' first
    | with_reducible assumption
    | with_reducible apply State.stepTrap_ok
    | with_reducible apply State.countSkid_ok
    | with_reducible apply State.logUnread_ok
    | with_reducible apply State.dirtied_ok
    | with_reducible apply State.setTeam_ok
    | intro _
    | with_reducible apply State.Ok.ite
    | split
    | dsimp only
    | with_reducible apply State.Ok.keep

theorem State.quotaPark_ok {fl0 : Nat} (s : State) (b : Batch) (l : Nat) (h_s : s.Ok fl0) : (State.quotaPark s b l).Ok fl0 := by
  unfold State.quotaPark
  try dsimp only
  repeat' first
    | with_reducible assumption
    | with_reducible apply State.trapFails_ok
    | with_reducible apply State.parkHere_ok
    | with_reducible apply State.addFault_ok
    | with_reducible apply State.useFresh_ok
    | with_reducible apply State.setTeam_ok
    | with_reducible apply State.Ok.ite
    | split
    | dsimp only
    | with_reducible apply State.Ok.keep

theorem State.spacePark_ok {fl0 : Nat} (s : State) (a : Nat) (h_s : s.Ok fl0) : (State.spacePark s a).Ok fl0 := by
  unfold State.spacePark
  try dsimp only
  repeat' first
    | with_reducible assumption
    | with_reducible apply State.parkHere_ok
    | with_reducible apply State.setTeam_ok
    | dsimp only
    | with_reducible apply State.Ok.keep

theorem State.verdictActs_ok {fl0 : Nat} (s : State) (v : Verdict) (h_s : s.Ok fl0) : (State.verdictActs s v).Ok fl0 := by
  unfold State.verdictActs
  try dsimp only
  repeat' first
    | with_reducible assumption
    | with_reducible apply State.spacePark_ok
    | with_reducible apply State.quotaPark_ok
    | with_reducible apply State.landed_ok
    | with_reducible apply State.trapFails_ok
    | with_reducible apply State.pageFault_ok
    | with_reducible apply State.setTeam_ok
    | intro _
    | with_reducible apply State.Ok.ite
    | split
    | dsimp only
    | with_reducible apply State.Ok.keep

theorem execSpireVerdict_ok {fl0 : Nat} (n : Nat) (s : State) (h_s : s.Ok fl0) : okOut fl0 (execSpireVerdict n s) := by
  unfold execSpireVerdict
  try dsimp only
  repeat' first
    | with_reducible assumption
    | with_reducible apply State.verdictActs_ok
    | with_reducible apply State.completed_ok
    | with_reducible apply okOut_next
    | with_reducible exact okOut_fault _
    | intro _
    | split
    | dsimp only
    | with_reducible apply State.Ok.keep

/-! Due. -/

theorem State.clocked_ok {fl0 : Nat} (s : State) (h_s : s.Ok fl0) : (State.clocked s).Ok fl0 := by
  unfold State.clocked
  try dsimp only
  repeat' first
    | with_reducible assumption
    | with_reducible apply State.passClock_ok
    | dsimp only
    | with_reducible apply State.Ok.keep

end Sys2Proof.Machine
end

