-- ==== Sys2Proof/Laws/PerInstr.lean ====
section
/-!
SUPPORT. A statement of each instruction as syntax: its row of the opcode table by number gives its constructor back.
-/
namespace Sys2Proof.Laws.Rows

open Sys2Proof Sys2Proof.Machine

/-- The row of an instruction's opcode is its own: the constructor of the row, applied to its fields, is the instruction, and the opcode is a
listed one of nine bits that is not 0. -/
def Statement (i : Instr) : Prop :=
  (∀ op f, rawOf i = some (.w op f) → (rowOf wideRows op).map (fun mk => mk f) = some i ∧ 0 < op ∧ op < 512 ∧ (rowOf descTable op).isSome = true)
  ∧ (∀ op f, rawOf i = some (.s op f) → (rowOf shortRows op).map (fun mk => mk f) = some i ∧ 0 < op ∧ op < 512 ∧ (rowOf descTable op).isSome = true)

theorem statement_wide {i : Instr} {op : Nat} {f : Form} (h : rawOf i = some (.w op f))
    (h1 : (rowOf wideRows op).map (fun mk => mk f) = some i) (h2 : 0 < op ∧ op < 512) (h3 : (rowOf descTable op).isSome = true) : Statement i := by
  refine ⟨fun op' f' h' => ?_, fun op' f' h' => by rw [h] at h'; simp at h'⟩
  rw [h] at h'; simp only [Option.some.injEq, Raw.w.injEq] at h'; obtain ⟨rfl, rfl⟩ := h'; exact ⟨h1, h2.1, h2.2, h3⟩

theorem statement_short {i : Instr} {op : Nat} {f : SForm} (h : rawOf i = some (.s op f))
    (h1 : (rowOf shortRows op).map (fun mk => mk f) = some i) (h2 : 0 < op ∧ op < 512) (h3 : (rowOf descTable op).isSome = true) : Statement i := by
  refine ⟨fun op' f' h' => by rw [h] at h'; simp at h', fun op' f' h' => ?_⟩
  rw [h] at h'; simp only [Option.some.injEq, Raw.s.injEq] at h'; obtain ⟨rfl, rfl⟩ := h'; exact ⟨h1, h2.1, h2.2, h3⟩

theorem statement_event {i : Instr} (h : rawOf i = none) : Statement i := by
  constructor <;> (intro op f h'; rw [h] at h'; exact absurd h' (by simp))

theorem iadd (f : Form) : Statement (.iadd f) := statement_wide rfl rfl (by decide) rfl
theorem isub (f : Form) : Statement (.isub f) := statement_wide rfl rfl (by decide) rfl
theorem imul (f : Form) : Statement (.imul f) := statement_wide rfl rfl (by decide) rfl
theorem imulh (f : Form) : Statement (.imulh f) := statement_wide rfl rfl (by decide) rfl
theorem imad (f : Form) : Statement (.imad f) := statement_wide rfl rfl (by decide) rfl
theorem idiv (f : Form) : Statement (.idiv f) := statement_wide rfl rfl (by decide) rfl
theorem irem (f : Form) : Statement (.irem f) := statement_wide rfl rfl (by decide) rfl
theorem imin (f : Form) : Statement (.imin f) := statement_wide rfl rfl (by decide) rfl
theorem imax (f : Form) : Statement (.imax f) := statement_wide rfl rfl (by decide) rfl
theorem iabsS (f : SForm) : Statement (.iabsS f) := statement_short rfl rfl (by decide) rfl
theorem iabsL (f : Form) : Statement (.iabsL f) := statement_wide rfl rfl (by decide) rfl
theorem inegS (f : SForm) : Statement (.inegS f) := statement_short rfl rfl (by decide) rfl
theorem inegL (f : Form) : Statement (.inegL f) := statement_wide rfl rfl (by decide) rfl
theorem iadds (f : Form) : Statement (.iadds f) := statement_wide rfl rfl (by decide) rfl
theorem isubs (f : Form) : Statement (.isubs f) := statement_wide rfl rfl (by decide) rfl
theorem and (f : Form) : Statement (.and f) := statement_wide rfl rfl (by decide) rfl
theorem or (f : Form) : Statement (.or f) := statement_wide rfl rfl (by decide) rfl
theorem xor (f : Form) : Statement (.xor f) := statement_wide rfl rfl (by decide) rfl
theorem andn (f : Form) : Statement (.andn f) := statement_wide rfl rfl (by decide) rfl
theorem notS (f : SForm) : Statement (.notS f) := statement_short rfl rfl (by decide) rfl
theorem notL (f : Form) : Statement (.notL f) := statement_wide rfl rfl (by decide) rfl
theorem shl (f : Form) : Statement (.shl f) := statement_wide rfl rfl (by decide) rfl
theorem shr (f : Form) : Statement (.shr f) := statement_wide rfl rfl (by decide) rfl
theorem sar (f : Form) : Statement (.sar f) := statement_wide rfl rfl (by decide) rfl
theorem rol (f : Form) : Statement (.rol f) := statement_wide rfl rfl (by decide) rfl
theorem bfx (f : Form) : Statement (.bfx f) := statement_wide rfl rfl (by decide) rfl
theorem bfi (f : Form) : Statement (.bfi f) := statement_wide rfl rfl (by decide) rfl
theorem popcS (f : SForm) : Statement (.popcS f) := statement_short rfl rfl (by decide) rfl
theorem popcL (f : Form) : Statement (.popcL f) := statement_wide rfl rfl (by decide) rfl
theorem clzS (f : SForm) : Statement (.clzS f) := statement_short rfl rfl (by decide) rfl
theorem clzL (f : Form) : Statement (.clzL f) := statement_wide rfl rfl (by decide) rfl
theorem ctzS (f : SForm) : Statement (.ctzS f) := statement_short rfl rfl (by decide) rfl
theorem ctzL (f : Form) : Statement (.ctzL f) := statement_wide rfl rfl (by decide) rfl
theorem brevS (f : SForm) : Statement (.brevS f) := statement_short rfl rfl (by decide) rfl
theorem brevL (f : Form) : Statement (.brevL f) := statement_wide rfl rfl (by decide) rfl
theorem sel (f : Form) : Statement (.sel f) := statement_wide rfl rfl (by decide) rfl
theorem movS (f : SForm) : Statement (.movS f) := statement_short rfl rfl (by decide) rfl
theorem movL (f : Form) : Statement (.movL f) := statement_wide rfl rfl (by decide) rfl
theorem movi (f : Form) : Statement (.movi f) := statement_wide rfl rfl (by decide) rfl
theorem prmt (f : Form) : Statement (.prmt f) := statement_wide rfl rfl (by decide) rfl
theorem srd (f : Form) : Statement (.srd f) := statement_wide rfl rfl (by decide) rfl
theorem swr (f : Form) : Statement (.swr f) := statement_wide rfl rfl (by decide) rfl
theorem iaddc (f : Form) : Statement (.iaddc f) := statement_wide rfl rfl (by decide) rfl
theorem fadd (f : Form) : Statement (.fadd f) := statement_wide rfl rfl (by decide) rfl
theorem fsub (f : Form) : Statement (.fsub f) := statement_wide rfl rfl (by decide) rfl
theorem fmul (f : Form) : Statement (.fmul f) := statement_wide rfl rfl (by decide) rfl
theorem ffma (f : Form) : Statement (.ffma f) := statement_wide rfl rfl (by decide) rfl
theorem fmin (f : Form) : Statement (.fmin f) := statement_wide rfl rfl (by decide) rfl
theorem fmax (f : Form) : Statement (.fmax f) := statement_wide rfl rfl (by decide) rfl
theorem fabsS (f : SForm) : Statement (.fabsS f) := statement_short rfl rfl (by decide) rfl
theorem fabsL (f : Form) : Statement (.fabsL f) := statement_wide rfl rfl (by decide) rfl
theorem fnegS (f : SForm) : Statement (.fnegS f) := statement_short rfl rfl (by decide) rfl
theorem fnegL (f : Form) : Statement (.fnegL f) := statement_wide rfl rfl (by decide) rfl
theorem fdiv (f : Form) : Statement (.fdiv f) := statement_wide rfl rfl (by decide) rfl
theorem fsqrtS (f : SForm) : Statement (.fsqrtS f) := statement_short rfl rfl (by decide) rfl
theorem fsqrtL (f : Form) : Statement (.fsqrtL f) := statement_wide rfl rfl (by decide) rfl
theorem frcpS (f : SForm) : Statement (.frcpS f) := statement_short rfl rfl (by decide) rfl
theorem frcpL (f : Form) : Statement (.frcpL f) := statement_wide rfl rfl (by decide) rfl
theorem frintS (f : SForm) : Statement (.frintS f) := statement_short rfl rfl (by decide) rfl
theorem frintL (f : Form) : Statement (.frintL f) := statement_wide rfl rfl (by decide) rfl
theorem fclassS (f : SForm) : Statement (.fclassS f) := statement_short rfl rfl (by decide) rfl
theorem fclassL (f : Form) : Statement (.fclassL f) := statement_wide rfl rfl (by decide) rfl
theorem fscale (f : Form) : Statement (.fscale f) := statement_wide rfl rfl (by decide) rfl
theorem fdot2 (f : Form) : Statement (.fdot2 f) := statement_wide rfl rfl (by decide) rfl
theorem cvt (f : Form) : Statement (.cvt f) := statement_wide rfl rfl (by decide) rfl
theorem pack (f : Form) : Statement (.pack f) := statement_wide rfl rfl (by decide) rfl
theorem unpk (f : Form) : Statement (.unpk f) := statement_wide rfl rfl (by decide) rfl
theorem sbq (f : Form) : Statement (.sbq f) := statement_wide rfl rfl (by decide) rfl
theorem sbdq (f : Form) : Statement (.sbdq f) := statement_wide rfl rfl (by decide) rfl
theorem icmp (f : Form) : Statement (.icmp f) := statement_wide rfl rfl (by decide) rfl
theorem fcmp (f : Form) : Statement (.fcmp f) := statement_wide rfl rfl (by decide) rfl
theorem plop (f : Form) : Statement (.plop f) := statement_wide rfl rfl (by decide) rfl
theorem pmov (f : Form) : Statement (.pmov f) := statement_wide rfl rfl (by decide) rfl
theorem shfl (f : Form) : Statement (.shfl f) := statement_wide rfl rfl (by decide) rfl
theorem bcst (f : Form) : Statement (.bcst f) := statement_wide rfl rfl (by decide) rfl
theorem vote (f : Form) : Statement (.vote f) := statement_wide rfl rfl (by decide) rfl
theorem mbalS (f : SForm) : Statement (.mbalS f) := statement_short rfl rfl (by decide) rfl
theorem mbalL (f : Form) : Statement (.mbalL f) := statement_wide rfl rfl (by decide) rfl
theorem scanS (f : SForm) : Statement (.scanS f) := statement_short rfl rfl (by decide) rfl
theorem scanL (f : Form) : Statement (.scanL f) := statement_wide rfl rfl (by decide) rfl
theorem redS (f : SForm) : Statement (.redS f) := statement_short rfl rfl (by decide) rfl
theorem redL (f : Form) : Statement (.redL f) := statement_wide rfl rfl (by decide) rfl
theorem tsort (f : Form) : Statement (.tsort f) := statement_wide rfl rfl (by decide) rfl
theorem tselk (f : Form) : Statement (.tselk f) := statement_wide rfl rfl (by decide) rfl
theorem cexp2 (f : Form) : Statement (.cexp2 f) := statement_wide rfl rfl (by decide) rfl
theorem clog2 (f : Form) : Statement (.clog2 f) := statement_wide rfl rfl (by decide) rfl
theorem csin (f : Form) : Statement (.csin f) := statement_wide rfl rfl (by decide) rfl
theorem ccos (f : Form) : Statement (.ccos f) := statement_wide rfl rfl (by decide) rfl
theorem csincos (f : Form) : Statement (.csincos f) := statement_wide rfl rfl (by decide) rfl
theorem catan2 (f : Form) : Statement (.catan2 f) := statement_wide rfl rfl (by decide) rfl
theorem ctanh (f : Form) : Statement (.ctanh f) := statement_wide rfl rfl (by decide) rfl
theorem csigm (f : Form) : Statement (.csigm f) := statement_wide rfl rfl (by decide) rfl
theorem crsq (f : Form) : Statement (.crsq f) := statement_wide rfl rfl (by decide) rfl
theorem csqrt (f : Form) : Statement (.csqrt f) := statement_wide rfl rfl (by decide) rfl
theorem ld (f : Form) : Statement (.ld f) := statement_wide rfl rfl (by decide) rfl
theorem st (f : Form) : Statement (.st f) := statement_wide rfl rfl (by decide) rfl
theorem ldb (f : Form) : Statement (.ldb f) := statement_wide rfl rfl (by decide) rfl
theorem stb (f : Form) : Statement (.stb f) := statement_wide rfl rfl (by decide) rfl
theorem amo (f : Form) : Statement (.amo f) := statement_wide rfl rfl (by decide) rfl
theorem amn (f : Form) : Statement (.amn f) := statement_wide rfl rfl (by decide) rfl
theorem acas (f : Form) : Statement (.acas f) := statement_wide rfl rfl (by decide) rfl
theorem fence (f : Form) : Statement (.fence f) := statement_wide rfl rfl (by decide) rfl
theorem pref (f : Form) : Statement (.pref f) := statement_wide rfl rfl (by decide) rfl
theorem ldc (f : Form) : Statement (.ldc f) := statement_wide rfl rfl (by decide) rfl
theorem tlook (f : Form) : Statement (.tlook f) := statement_wide rfl rfl (by decide) rfl
theorem tins (f : Form) : Statement (.tins f) := statement_wide rfl rfl (by decide) rfl
theorem tdel (f : Form) : Statement (.tdel f) := statement_wide rfl rfl (by decide) rfl
theorem tmod (f : Form) : Statement (.tmod f) := statement_wide rfl rfl (by decide) rfl
theorem tset (f : Form) : Statement (.tset f) := statement_wide rfl rfl (by decide) rfl
theorem topen (f : Form) : Statement (.topen f) := statement_wide rfl rfl (by decide) rfl
theorem tnext (f : Form) : Statement (.tnext f) := statement_wide rfl rfl (by decide) rfl
theorem tseek (f : Form) : Statement (.tseek f) := statement_wide rfl rfl (by decide) rfl
theorem tclose (f : Form) : Statement (.tclose f) := statement_wide rfl rfl (by decide) rfl
theorem tcnt (f : Form) : Statement (.tcnt f) := statement_wide rfl rfl (by decide) rfl
theorem tstat (f : Form) : Statement (.tstat f) := statement_wide rfl rfl (by decide) rfl
theorem mma (f : Form) : Statement (.mma f) := statement_wide rfl rfl (by decide) rfl
theorem mflushS (f : SForm) : Statement (.mflushS f) := statement_short rfl rfl (by decide) rfl
theorem mflushL (f : Form) : Statement (.mflushL f) := statement_wide rfl rfl (by decide) rfl
theorem kvx (f : Form) : Statement (.kvx f) := statement_wide rfl rfl (by decide) rfl
theorem qmc (f : Form) : Statement (.qmc f) := statement_wide rfl rfl (by decide) rfl
theorem credS (f : SForm) : Statement (.credS f) := statement_short rfl rfl (by decide) rfl
theorem credL (f : Form) : Statement (.credL f) := statement_wide rfl rfl (by decide) rfl
theorem cpk (f : Form) : Statement (.cpk f) := statement_wide rfl rfl (by decide) rfl
theorem binit (f : Form) : Statement (.binit f) := statement_wide rfl rfl (by decide) rfl
theorem barr (f : Form) : Statement (.barr f) := statement_wide rfl rfl (by decide) rfl
theorem bwait (f : Form) : Statement (.bwait f) := statement_wide rfl rfl (by decide) rfl
theorem waitt (f : Form) : Statement (.waitt f) := statement_wide rfl rfl (by decide) rfl
theorem qpush (f : Form) : Statement (.qpush f) := statement_wide rfl rfl (by decide) rfl
theorem qpop (f : Form) : Statement (.qpop f) := statement_wide rfl rfl (by decide) rfl
theorem rdx (f : Form) : Statement (.rdx f) := statement_wide rfl rfl (by decide) rfl
theorem qstat (f : Form) : Statement (.qstat f) := statement_wide rfl rfl (by decide) rfl
theorem bra (f : Form) : Statement (.bra f) := statement_wide rfl rfl (by decide) rfl
theorem brv (f : Form) : Statement (.brv f) := statement_wide rfl rfl (by decide) rfl
theorem bany (f : Form) : Statement (.bany f) := statement_wide rfl rfl (by decide) rfl
theorem ball (f : Form) : Statement (.ball f) := statement_wide rfl rfl (by decide) rfl
theorem call (f : Form) : Statement (.call f) := statement_wide rfl rfl (by decide) rfl
theorem retS (f : SForm) : Statement (.retS f) := statement_short rfl rfl (by decide) rfl
theorem retL (f : Form) : Statement (.retL f) := statement_wide rfl rfl (by decide) rfl
theorem jmpi (f : Form) : Statement (.jmpi f) := statement_wide rfl rfl (by decide) rfl
theorem loop (f : Form) : Statement (.loop f) := statement_wide rfl rfl (by decide) rfl
theorem exitS (f : SForm) : Statement (.exitS f) := statement_short rfl rfl (by decide) rfl
theorem exitL (f : Form) : Statement (.exitL f) := statement_wide rfl rfl (by decide) rfl
theorem bar (f : SForm) : Statement (.bar f) := statement_short rfl rfl (by decide) rfl
theorem sleepS (f : SForm) : Statement (.sleepS f) := statement_short rfl rfl (by decide) rfl
theorem sleepL (f : Form) : Statement (.sleepL f) := statement_wide rfl rfl (by decide) rfl
theorem yield (f : SForm) : Statement (.yield f) := statement_short rfl rfl (by decide) rfl
theorem trap (f : Form) : Statement (.trap f) := statement_wide rfl rfl (by decide) rfl
theorem sgpost (f : Form) : Statement (.sgpost f) := statement_wide rfl rfl (by decide) rfl
theorem sgpoll (f : Form) : Statement (.sgpoll f) := statement_wide rfl rfl (by decide) rfl
theorem sgchk (f : Form) : Statement (.sgchk f) := statement_wide rfl rfl (by decide) rfl
theorem launch (f : Form) : Statement (.launch f) := statement_wide rfl rfl (by decide) rfl
theorem evsig (f : Form) : Statement (.evsig f) := statement_wide rfl rfl (by decide) rfl
theorem evwait (f : Form) : Statement (.evwait f) := statement_wide rfl rfl (by decide) rfl
theorem rte (f : SForm) : Statement (.rte f) := statement_short rfl rfl (by decide) rfl
theorem tsbS (f : SForm) : Statement (.tsbS f) := statement_short rfl rfl (by decide) rfl
theorem tsbL (f : Form) : Statement (.tsbL f) := statement_wide rfl rfl (by decide) rfl
theorem haltb (f : SForm) : Statement (.haltb f) := statement_short rfl rfl (by decide) rfl
theorem step (f : SForm) : Statement (.step f) := statement_short rfl rfl (by decide) rfl
theorem bkpt (f : SForm) : Statement (.bkpt f) := statement_short rfl rfl (by decide) rfl
theorem watch (f : Form) : Statement (.watch f) := statement_wide rfl rfl (by decide) rfl
theorem mbxw (f : Form) : Statement (.mbxw f) := statement_wide rfl rfl (by decide) rfl
theorem mbxr (f : Form) : Statement (.mbxr f) := statement_wide rfl rfl (by decide) rfl
theorem ill (word : W32) : Statement (.ill word) := statement_event rfl
theorem lateReply (reply : Nat) : Statement (.lateReply reply) := statement_event rfl
theorem registerMissFill (team reg word : Nat) : Statement (.registerMissFill team reg word) := statement_event rfl
theorem teamActivation (core : Nat) : Statement (.teamActivation core) := statement_event rfl
theorem teamEviction (core part : Nat) : Statement (.teamEviction core part) := statement_event rfl
theorem readyListSteal (core : Nat) : Statement (.readyListSteal core) := statement_event rfl
theorem starvationPick (core part : Nat) : Statement (.starvationPick core part) := statement_event rfl
theorem requestRetry (team : Nat) : Statement (.requestRetry team) := statement_event rfl
theorem teamResume (team : Nat) : Statement (.teamResume team) := statement_event rfl
theorem sleepWake (team : Nat) : Statement (.sleepWake team) := statement_event rfl
theorem teamRetirement (team : Nat) : Statement (.teamRetirement team) := statement_event rfl
theorem contextImageFree (team : Nat) : Statement (.contextImageFree team) := statement_event rfl
theorem cancelledPendingRetire (team : Nat) : Statement (.cancelledPendingRetire team) := statement_event rfl
theorem blockPlacement (job : Nat) (images : Option Nat) : Statement (.blockPlacement job images) := statement_event rfl
theorem turnEnd (cluster : Nat) : Statement (.turnEnd cluster) := statement_event rfl
theorem mmaArrayExecution (core part : Nat) : Statement (.mmaArrayExecution core part) := statement_event rfl
theorem oculusMerge (block : Nat) : Statement (.oculusMerge block) := statement_event rfl
theorem copyRow (request : Nat) : Statement (.copyRow request) := statement_event rfl
theorem pushAccept (request : Nat) : Statement (.pushAccept request) := statement_event rfl
theorem popServe (request : Nat) : Statement (.popServe request) := statement_event rfl
theorem rdxDepositArrival (deposit : Nat) : Statement (.rdxDepositArrival deposit) := statement_event rfl
theorem bucketFlush (job stage bucket : Nat) : Statement (.bucketFlush job stage bucket) := statement_event rfl
theorem stageDrain (job stage : Nat) : Statement (.stageDrain job stage) := statement_event rfl
theorem spireBatch (batch : Nat) : Statement (.spireBatch batch) := statement_event rfl
theorem spireVerdict (verdict : Nat) : Statement (.spireVerdict verdict) := statement_event rfl
theorem kvRelease (group sibling : Nat) : Statement (.kvRelease group sibling) := statement_event rfl
theorem campanilePost (post : Nat) : Statement (.campanilePost post) := statement_event rfl
theorem finishedSiblingCheck (group : Nat) : Statement (.finishedSiblingCheck group) := statement_event rfl
theorem tailLineInvalidation (fe queue : Nat) : Statement (.tailLineInvalidation fe queue) := statement_event rfl
theorem descriptorConsume (fe queue : Nat) : Statement (.descriptorConsume fe queue) := statement_event rfl
theorem launchDescriptor (job : Nat) : Statement (.launchDescriptor job) := statement_event rfl
theorem directoryUpdate (job : Nat) : Statement (.directoryUpdate job) := statement_event rfl
theorem queueDescriptor (job : Nat) : Statement (.queueDescriptor job) := statement_event rfl
theorem cancel (job : Nat) : Statement (.cancel job) := statement_event rfl
theorem signal (job : Nat) : Statement (.signal job) := statement_event rfl
theorem groupOpen (job : Nat) : Statement (.groupOpen job) := statement_event rfl
theorem groupFree (job : Nat) : Statement (.groupFree job) := statement_event rfl
theorem groupFreeCompletion (job : Nat) : Statement (.groupFreeCompletion job) := statement_event rfl
theorem waitCounterWrite (job : Nat) : Statement (.waitCounterWrite job) := statement_event rfl
theorem launchCompletion (job : Nat) : Statement (.launchCompletion job) := statement_event rfl
theorem invalidationComplete (fn : Nat) : Statement (.invalidationComplete fn) := statement_event rfl
theorem quotaLimitExpiry (team : Nat) : Statement (.quotaLimitExpiry team) := statement_event rfl
theorem blockAccess (acc : BlockAcc) : Statement (.blockAccess acc) := statement_event rfl
theorem discardComplete (fn : Nat) : Statement (.discardComplete fn) := statement_event rfl
theorem heldWriteRelease (die : Nat) : Statement (.heldWriteRelease die) := statement_event rfl
theorem heldWriteExpiry (die : Nat) : Statement (.heldWriteExpiry die) := statement_event rfl
theorem reclamationRound (die : Nat) : Statement (.reclamationRound die) := statement_event rfl
theorem balwaitExpiry (die : Nat) : Statement (.balwaitExpiry die) := statement_event rfl
theorem promotion (frame : Nat) : Statement (.promotion frame) := statement_event rfl
theorem rds (msg : CohMsg) : Statement (.rds msg) := statement_event rfl
theorem rdxMsg (msg : CohMsg) : Statement (.rdxMsg msg) := statement_event rfl
theorem ownnd (msg : CohMsg) : Statement (.ownnd msg) := statement_event rfl
theorem upg (msg : CohMsg) : Statement (.upg msg) := statement_event rfl
theorem atomicreq (msg : CohMsg) : Statement (.atomicreq msg) := statement_event rfl
theorem wb (msg : CohMsg) : Statement (.wb msg) := statement_event rfl
theorem snps (msg : CohMsg) : Statement (.snps msg) := statement_event rfl
theorem snpx (msg : CohMsg) : Statement (.snpx msg) := statement_event rfl
theorem inv (msg : CohMsg) : Statement (.inv msg) := statement_event rfl
theorem bi (msg : CohMsg) : Statement (.bi msg) := statement_event rfl
theorem data (msg : CohMsg) : Statement (.data msg) := statement_event rfl
theorem rsp (msg : CohMsg) : Statement (.rsp msg) := statement_event rfl
theorem atomicrsp (msg : CohMsg) : Statement (.atomicrsp msg) := statement_event rfl
theorem retry (msg : CohMsg) : Statement (.retry msg) := statement_event rfl
theorem poison (msg : CohMsg) : Statement (.poison msg) := statement_event rfl
theorem reservedOpcode (word : W32) : Statement (.reservedOpcode word) := statement_event rfl
theorem invcmd : Statement (.invcmd) := statement_event rfl
theorem fsresolve : Statement (.fsresolve) := statement_event rfl
theorem pquotaWrite : Statement (.pquotaWrite) := statement_event rfl
theorem dlheadWrite : Statement (.dlheadWrite) := statement_event rfl
theorem discard : Statement (.discard) := statement_event rfl
theorem logicalTimeTick : Statement (.logicalTimeTick) := statement_event rfl
theorem rdshared : Statement (.rdshared) := statement_event rfl
theorem rdown : Statement (.rdown) := statement_event rfl
theorem dirtyevict : Statement (.dirtyevict) := statement_event rfl
theorem cleanevict : Statement (.cleanevict) := statement_event rfl
theorem snpdata : Statement (.snpdata) := statement_event rfl
theorem snpinv : Statement (.snpinv) := statement_event rfl
theorem snpcur : Statement (.snpcur) := statement_event rfl
theorem bisnpinv : Statement (.bisnpinv) := statement_event rfl
theorem bisnpdata : Statement (.bisnpdata) := statement_event rfl
theorem birsp : Statement (.birsp) := statement_event rfl
theorem memrd : Statement (.memrd) := statement_event rfl
theorem memwr : Statement (.memwr) := statement_event rfl
theorem flit : Statement (.flit) := statement_event rfl
theorem portTraining : Statement (.portTraining) := statement_event rfl
theorem portDown : Statement (.portDown) := statement_event rfl
theorem lockInterfaceRequest : Statement (.lockInterfaceRequest) := statement_event rfl
theorem startInterfaceRequest : Statement (.startInterfaceRequest) := statement_event rfl
theorem stopInterfaceRequest : Statement (.stopInterfaceRequest) := statement_event rfl
theorem getDeviceInterfaceReport : Statement (.getDeviceInterfaceReport) := statement_event rfl
theorem getDeviceInterfaceState : Statement (.getDeviceInterfaceState) := statement_event rfl
theorem algorithmNegotiation : Statement (.algorithmNegotiation) := statement_event rfl
theorem keyExchange : Statement (.keyExchange) := statement_event rfl
theorem finish : Statement (.finish) := statement_event rfl
theorem heartbeat : Statement (.heartbeat) := statement_event rfl
theorem keyUpdate : Statement (.keyUpdate) := statement_event rfl
theorem endSession : Statement (.endSession) := statement_event rfl
theorem getMeasurements : Statement (.getMeasurements) := statement_event rfl
theorem bind : Statement (.bind) := statement_event rfl
theorem sessionOpen : Statement (.sessionOpen) := statement_event rfl
theorem sessionClose : Statement (.sessionClose) := statement_event rfl
theorem sessionKeyUpdate : Statement (.sessionKeyUpdate) := statement_event rfl
theorem update : Statement (.update) := statement_event rfl
theorem updateReadComplete : Statement (.updateReadComplete) := statement_event rfl
theorem commit : Statement (.commit) := statement_event rfl
theorem warmReset : Statement (.warmReset) := statement_event rfl
theorem coldReset : Statement (.coldReset) := statement_event rfl
theorem functionLevelReset : Statement (.functionLevelReset) := statement_event rfl
theorem d3hotEntry : Statement (.d3hotEntry) := statement_event rfl
theorem d3hotExit : Statement (.d3hotExit) := statement_event rfl
theorem d3cold : Statement (.d3cold) := statement_event rfl
theorem d0IdleEntry : Statement (.d0IdleEntry) := statement_event rfl
theorem d0IdleExit : Statement (.d0IdleExit) := statement_event rfl
theorem sensorWarning : Statement (.sensorWarning) := statement_event rfl
theorem shutdown : Statement (.shutdown) := statement_event rfl
theorem clockStepDown : Statement (.clockStepDown) := statement_event rfl
theorem clockStepUp : Statement (.clockStepUp) := statement_event rfl
theorem lantentHighWrite : Statement (.lantentHighWrite) := statement_event rfl
theorem lantentHighRead : Statement (.lantentHighRead) := statement_event rfl
theorem lantasgWrite : Statement (.lantasgWrite) := statement_event rfl
theorem lqcfgWrite : Statement (.lqcfgWrite) := statement_event rfl
theorem fsqcfgWrite : Statement (.fsqcfgWrite) := statement_event rfl
theorem fsqheadWrite : Statement (.fsqheadWrite) := statement_event rfl
theorem rrheadWrite : Statement (.rrheadWrite) := statement_event rfl
theorem ptrootWrite : Statement (.ptrootWrite) := statement_event rfl
theorem ncwinWrite : Statement (.ncwinWrite) := statement_event rfl
theorem l2cfgWrite : Statement (.l2cfgWrite) := statement_event rfl
theorem aliasWrite : Statement (.aliasWrite) := statement_event rfl
theorem registerWrite : Statement (.registerWrite) := statement_event rfl
theorem debuggerHalt : Statement (.debuggerHalt) := statement_event rfl
theorem debuggerResume : Statement (.debuggerResume) := statement_event rfl
theorem sensorWarningEnd : Statement (.sensorWarningEnd) := statement_event rfl

end Sys2Proof.Laws.Rows
end

