-- ==== Sys2Proof/Laws/Runs.lean ====
section
/-!
SUPPORT. Every instruction of a team but PREF acts through the shared checks: its meaning is `runIns` of it for some action.
-/
namespace Sys2Proof.Machine

theorem execIadd_runs (f : Form) (s : State) : ∃ k, execIadd f s = runIns (insW 0x001 f) s k := by unfold execIadd runAlu; exact ⟨_, rfl⟩
theorem execIsub_runs (f : Form) (s : State) : ∃ k, execIsub f s = runIns (insW 0x002 f) s k := by unfold execIsub runAlu; exact ⟨_, rfl⟩
theorem execImul_runs (f : Form) (s : State) : ∃ k, execImul f s = runIns (insW 0x003 f) s k := by unfold execImul runAlu; exact ⟨_, rfl⟩
theorem execImulh_runs (f : Form) (s : State) : ∃ k, execImulh f s = runIns (insW 0x004 f) s k := by unfold execImulh runAlu; exact ⟨_, rfl⟩
theorem execImad_runs (f : Form) (s : State) : ∃ k, execImad f s = runIns (insW 0x005 f) s k := by unfold execImad runAlu; exact ⟨_, rfl⟩
theorem execIdiv_runs (f : Form) (s : State) : ∃ k, execIdiv f s = runIns (insW 0x006 f) s k := by unfold execIdiv runAlu; exact ⟨_, rfl⟩
theorem execIrem_runs (f : Form) (s : State) : ∃ k, execIrem f s = runIns (insW 0x007 f) s k := by unfold execIrem runAlu; exact ⟨_, rfl⟩
theorem execImin_runs (f : Form) (s : State) : ∃ k, execImin f s = runIns (insW 0x008 f) s k := by unfold execImin runAlu; exact ⟨_, rfl⟩
theorem execImax_runs (f : Form) (s : State) : ∃ k, execImax f s = runIns (insW 0x009 f) s k := by unfold execImax runAlu; exact ⟨_, rfl⟩
theorem execIabsS_runs (f : SForm) (s : State) : ∃ k, execIabsS f s = runIns (insS 0x00A f) s k := by unfold execIabsS runAlu; exact ⟨_, rfl⟩
theorem execIabsL_runs (f : Form) (s : State) : ∃ k, execIabsL f s = runIns (insW 0x00A f) s k := by unfold execIabsL runAlu; exact ⟨_, rfl⟩
theorem execInegS_runs (f : SForm) (s : State) : ∃ k, execInegS f s = runIns (insS 0x00B f) s k := by unfold execInegS runAlu; exact ⟨_, rfl⟩
theorem execInegL_runs (f : Form) (s : State) : ∃ k, execInegL f s = runIns (insW 0x00B f) s k := by unfold execInegL runAlu; exact ⟨_, rfl⟩
theorem execIadds_runs (f : Form) (s : State) : ∃ k, execIadds f s = runIns (insW 0x00C f) s k := by unfold execIadds runAlu; exact ⟨_, rfl⟩
theorem execIsubs_runs (f : Form) (s : State) : ∃ k, execIsubs f s = runIns (insW 0x00D f) s k := by unfold execIsubs runAlu; exact ⟨_, rfl⟩
theorem execAnd_runs (f : Form) (s : State) : ∃ k, execAnd f s = runIns (insW 0x00E f) s k := by unfold execAnd runAlu; exact ⟨_, rfl⟩
theorem execOr_runs (f : Form) (s : State) : ∃ k, execOr f s = runIns (insW 0x00F f) s k := by unfold execOr runAlu; exact ⟨_, rfl⟩
theorem execXor_runs (f : Form) (s : State) : ∃ k, execXor f s = runIns (insW 0x010 f) s k := by unfold execXor runAlu; exact ⟨_, rfl⟩
theorem execAndn_runs (f : Form) (s : State) : ∃ k, execAndn f s = runIns (insW 0x011 f) s k := by unfold execAndn runAlu; exact ⟨_, rfl⟩
theorem execNotS_runs (f : SForm) (s : State) : ∃ k, execNotS f s = runIns (insS 0x012 f) s k := by unfold execNotS runAlu; exact ⟨_, rfl⟩
theorem execNotL_runs (f : Form) (s : State) : ∃ k, execNotL f s = runIns (insW 0x012 f) s k := by unfold execNotL runAlu; exact ⟨_, rfl⟩
theorem execShl_runs (f : Form) (s : State) : ∃ k, execShl f s = runIns (insW 0x013 f) s k := by unfold execShl runAlu; exact ⟨_, rfl⟩
theorem execShr_runs (f : Form) (s : State) : ∃ k, execShr f s = runIns (insW 0x014 f) s k := by unfold execShr runAlu; exact ⟨_, rfl⟩
theorem execSar_runs (f : Form) (s : State) : ∃ k, execSar f s = runIns (insW 0x015 f) s k := by unfold execSar runAlu; exact ⟨_, rfl⟩
theorem execRol_runs (f : Form) (s : State) : ∃ k, execRol f s = runIns (insW 0x016 f) s k := by unfold execRol runAlu; exact ⟨_, rfl⟩
theorem execBfx_runs (f : Form) (s : State) : ∃ k, execBfx f s = runIns (insW 0x017 f) s k := by unfold execBfx runAlu; exact ⟨_, rfl⟩
theorem execBfi_runs (f : Form) (s : State) : ∃ k, execBfi f s = runIns (insW 0x018 f) s k := by unfold execBfi runAlu; exact ⟨_, rfl⟩
theorem execPopcS_runs (f : SForm) (s : State) : ∃ k, execPopcS f s = runIns (insS 0x019 f) s k := by unfold execPopcS runAlu; exact ⟨_, rfl⟩
theorem execPopcL_runs (f : Form) (s : State) : ∃ k, execPopcL f s = runIns (insW 0x019 f) s k := by unfold execPopcL runAlu; exact ⟨_, rfl⟩
theorem execClzS_runs (f : SForm) (s : State) : ∃ k, execClzS f s = runIns (insS 0x01A f) s k := by unfold execClzS runAlu; exact ⟨_, rfl⟩
theorem execClzL_runs (f : Form) (s : State) : ∃ k, execClzL f s = runIns (insW 0x01A f) s k := by unfold execClzL runAlu; exact ⟨_, rfl⟩
theorem execCtzS_runs (f : SForm) (s : State) : ∃ k, execCtzS f s = runIns (insS 0x01B f) s k := by unfold execCtzS runAlu; exact ⟨_, rfl⟩
theorem execCtzL_runs (f : Form) (s : State) : ∃ k, execCtzL f s = runIns (insW 0x01B f) s k := by unfold execCtzL runAlu; exact ⟨_, rfl⟩
theorem execBrevS_runs (f : SForm) (s : State) : ∃ k, execBrevS f s = runIns (insS 0x01C f) s k := by unfold execBrevS runAlu; exact ⟨_, rfl⟩
theorem execBrevL_runs (f : Form) (s : State) : ∃ k, execBrevL f s = runIns (insW 0x01C f) s k := by unfold execBrevL runAlu; exact ⟨_, rfl⟩
theorem execSel_runs (f : Form) (s : State) : ∃ k, execSel f s = runIns (insW 0x01D f) s k := by unfold execSel runAlu; exact ⟨_, rfl⟩
theorem execMovS_runs (f : SForm) (s : State) : ∃ k, execMovS f s = runIns (insS 0x01E f) s k := by unfold execMovS runAlu; exact ⟨_, rfl⟩
theorem execMovL_runs (f : Form) (s : State) : ∃ k, execMovL f s = runIns (insW 0x01E f) s k := by unfold execMovL runAlu; exact ⟨_, rfl⟩
theorem execMovi_runs (f : Form) (s : State) : ∃ k, execMovi f s = runIns (insW 0x01F f) s k := by unfold execMovi runAlu; exact ⟨_, rfl⟩
theorem execPrmt_runs (f : Form) (s : State) : ∃ k, execPrmt f s = runIns (insW 0x020 f) s k := by unfold execPrmt runAlu; exact ⟨_, rfl⟩
theorem execIaddc_runs (f : Form) (s : State) : ∃ k, execIaddc f s = runIns (insW 0x023 f) s k := by unfold execIaddc; exact ⟨_, rfl⟩
theorem execFadd_runs (f : Form) (s : State) : ∃ k, execFadd f s = runIns (insW 0x040 f) s k := by unfold execFadd runAlu; exact ⟨_, rfl⟩
theorem execFsub_runs (f : Form) (s : State) : ∃ k, execFsub f s = runIns (insW 0x041 f) s k := by unfold execFsub runAlu; exact ⟨_, rfl⟩
theorem execFmul_runs (f : Form) (s : State) : ∃ k, execFmul f s = runIns (insW 0x042 f) s k := by unfold execFmul runAlu; exact ⟨_, rfl⟩
theorem execFfma_runs (f : Form) (s : State) : ∃ k, execFfma f s = runIns (insW 0x043 f) s k := by unfold execFfma runAlu; exact ⟨_, rfl⟩
theorem execFmin_runs (f : Form) (s : State) : ∃ k, execFmin f s = runIns (insW 0x044 f) s k := by unfold execFmin runAlu; exact ⟨_, rfl⟩
theorem execFmax_runs (f : Form) (s : State) : ∃ k, execFmax f s = runIns (insW 0x045 f) s k := by unfold execFmax runAlu; exact ⟨_, rfl⟩
theorem execFabsS_runs (f : SForm) (s : State) : ∃ k, execFabsS f s = runIns (insS 0x046 f) s k := by unfold execFabsS runAlu; exact ⟨_, rfl⟩
theorem execFabsL_runs (f : Form) (s : State) : ∃ k, execFabsL f s = runIns (insW 0x046 f) s k := by unfold execFabsL runAlu; exact ⟨_, rfl⟩
theorem execFnegS_runs (f : SForm) (s : State) : ∃ k, execFnegS f s = runIns (insS 0x047 f) s k := by unfold execFnegS runAlu; exact ⟨_, rfl⟩
theorem execFnegL_runs (f : Form) (s : State) : ∃ k, execFnegL f s = runIns (insW 0x047 f) s k := by unfold execFnegL runAlu; exact ⟨_, rfl⟩
theorem execFdiv_runs (f : Form) (s : State) : ∃ k, execFdiv f s = runIns (insW 0x048 f) s k := by unfold execFdiv runAlu; exact ⟨_, rfl⟩
theorem execFsqrtS_runs (f : SForm) (s : State) : ∃ k, execFsqrtS f s = runIns (insS 0x049 f) s k := by unfold execFsqrtS runAlu; exact ⟨_, rfl⟩
theorem execFsqrtL_runs (f : Form) (s : State) : ∃ k, execFsqrtL f s = runIns (insW 0x049 f) s k := by unfold execFsqrtL runAlu; exact ⟨_, rfl⟩
theorem execFrcpS_runs (f : SForm) (s : State) : ∃ k, execFrcpS f s = runIns (insS 0x04A f) s k := by unfold execFrcpS runAlu; exact ⟨_, rfl⟩
theorem execFrcpL_runs (f : Form) (s : State) : ∃ k, execFrcpL f s = runIns (insW 0x04A f) s k := by unfold execFrcpL runAlu; exact ⟨_, rfl⟩
theorem execFrintS_runs (f : SForm) (s : State) : ∃ k, execFrintS f s = runIns (insS 0x04B f) s k := by unfold execFrintS runAlu; exact ⟨_, rfl⟩
theorem execFrintL_runs (f : Form) (s : State) : ∃ k, execFrintL f s = runIns (insW 0x04B f) s k := by unfold execFrintL runAlu; exact ⟨_, rfl⟩
theorem execFclassS_runs (f : SForm) (s : State) : ∃ k, execFclassS f s = runIns (insS 0x04C f) s k := by unfold execFclassS runAlu32; exact ⟨_, rfl⟩
theorem execFclassL_runs (f : Form) (s : State) : ∃ k, execFclassL f s = runIns (insW 0x04C f) s k := by unfold execFclassL runAlu32; exact ⟨_, rfl⟩
theorem execFscale_runs (f : Form) (s : State) : ∃ k, execFscale f s = runIns (insW 0x04D f) s k := by unfold execFscale runAlu; exact ⟨_, rfl⟩
theorem execFdot2_runs (f : Form) (s : State) : ∃ k, execFdot2 f s = runIns (insW 0x04E f) s k := by unfold execFdot2 runAlu; exact ⟨_, rfl⟩
theorem execCvt_runs (f : Form) (s : State) : ∃ k, execCvt f s = runIns (insW 0x080 f) s k := by unfold execCvt runSr; exact ⟨_, rfl⟩
theorem execPack_runs (f : Form) (s : State) : ∃ k, execPack f s = runIns (insW 0x081 f) s k := by unfold execPack runSr; exact ⟨_, rfl⟩
theorem execUnpk_runs (f : Form) (s : State) : ∃ k, execUnpk f s = runIns (insW 0x082 f) s k := by unfold execUnpk runAlu; exact ⟨_, rfl⟩
theorem execSbq_runs (f : Form) (s : State) : ∃ k, execSbq f s = runIns (insW 0x083 f) s k := by unfold execSbq; exact ⟨_, rfl⟩
theorem execSbdq_runs (f : Form) (s : State) : ∃ k, execSbdq f s = runIns (insW 0x084 f) s k := by unfold execSbdq; exact ⟨_, rfl⟩
theorem execIcmp_runs (f : Form) (s : State) : ∃ k, execIcmp f s = runIns (insW 0x0A0 f) s k := by unfold execIcmp runTest; exact ⟨_, rfl⟩
theorem execFcmp_runs (f : Form) (s : State) : ∃ k, execFcmp f s = runIns (insW 0x0A1 f) s k := by unfold execFcmp runTest; exact ⟨_, rfl⟩
theorem execPlop_runs (f : Form) (s : State) : ∃ k, execPlop f s = runIns (insW 0x0A2 f) s k := by unfold execPlop runTest; exact ⟨_, rfl⟩
theorem execShfl_runs (f : Form) (s : State) : ∃ k, execShfl f s = runIns (insW 0x0C0 f) s k := by unfold execShfl runProduce; exact ⟨_, rfl⟩
theorem execBcst_runs (f : Form) (s : State) : ∃ k, execBcst f s = runIns (insW 0x0C1 f) s k := by unfold execBcst runProduce; exact ⟨_, rfl⟩
theorem execVote_runs (f : Form) (s : State) : ∃ k, execVote f s = runIns (insW 0x0C2 f) s k := by unfold execVote runProduce; exact ⟨_, rfl⟩
theorem execMbalS_runs (f : SForm) (s : State) : ∃ k, execMbalS f s = runIns (insS 0x0C3 f) s k := by unfold execMbalS runProduce; exact ⟨_, rfl⟩
theorem execMbalL_runs (f : Form) (s : State) : ∃ k, execMbalL f s = runIns (insW 0x0C3 f) s k := by unfold execMbalL runProduce; exact ⟨_, rfl⟩
theorem execScanS_runs (f : SForm) (s : State) : ∃ k, execScanS f s = runIns (insS 0x0C4 f) s k := by unfold execScanS runScan; exact ⟨_, rfl⟩
theorem execScanL_runs (f : Form) (s : State) : ∃ k, execScanL f s = runIns (insW 0x0C4 f) s k := by unfold execScanL runScan; exact ⟨_, rfl⟩
theorem execRedS_runs (f : SForm) (s : State) : ∃ k, execRedS f s = runIns (insS 0x0C5 f) s k := by unfold execRedS runScan; exact ⟨_, rfl⟩
theorem execRedL_runs (f : Form) (s : State) : ∃ k, execRedL f s = runIns (insW 0x0C5 f) s k := by unfold execRedL runScan; exact ⟨_, rfl⟩
theorem execTsort_runs (f : Form) (s : State) : ∃ k, execTsort f s = runIns (insW 0x0C6 f) s k := by unfold execTsort runProduce; exact ⟨_, rfl⟩
theorem execTselk_runs (f : Form) (s : State) : ∃ k, execTselk f s = runIns (insW 0x0C7 f) s k := by unfold execTselk runProduce; exact ⟨_, rfl⟩
theorem execCexp2_runs (f : Form) (s : State) : ∃ k, execCexp2 f s = runIns (insW 0x0E0 f) s k := by unfold execCexp2 runFu; exact ⟨_, rfl⟩
theorem execClog2_runs (f : Form) (s : State) : ∃ k, execClog2 f s = runIns (insW 0x0E1 f) s k := by unfold execClog2 runFu; exact ⟨_, rfl⟩
theorem execCsin_runs (f : Form) (s : State) : ∃ k, execCsin f s = runIns (insW 0x0E2 f) s k := by unfold execCsin runFu; exact ⟨_, rfl⟩
theorem execCcos_runs (f : Form) (s : State) : ∃ k, execCcos f s = runIns (insW 0x0E3 f) s k := by unfold execCcos runFu; exact ⟨_, rfl⟩
theorem execCsincos_runs (f : Form) (s : State) : ∃ k, execCsincos f s = runIns (insW 0x0E4 f) s k := by unfold execCsincos; exact ⟨_, rfl⟩
theorem execCatan2_runs (f : Form) (s : State) : ∃ k, execCatan2 f s = runIns (insW 0x0E5 f) s k := by unfold execCatan2 runFu; exact ⟨_, rfl⟩
theorem execCtanh_runs (f : Form) (s : State) : ∃ k, execCtanh f s = runIns (insW 0x0E6 f) s k := by unfold execCtanh runFu; exact ⟨_, rfl⟩
theorem execCsigm_runs (f : Form) (s : State) : ∃ k, execCsigm f s = runIns (insW 0x0E7 f) s k := by unfold execCsigm runFu; exact ⟨_, rfl⟩
theorem execCrsq_runs (f : Form) (s : State) : ∃ k, execCrsq f s = runIns (insW 0x0E8 f) s k := by unfold execCrsq runFu; exact ⟨_, rfl⟩
theorem execCsqrt_runs (f : Form) (s : State) : ∃ k, execCsqrt f s = runIns (insW 0x0E9 f) s k := by unfold execCsqrt runFu; exact ⟨_, rfl⟩
theorem execLd_runs (f : Form) (s : State) : ∃ k, execLd f s = runIns (insW 0x100 f) s k := by unfold execLd; exact ⟨_, rfl⟩
theorem execSt_runs (f : Form) (s : State) : ∃ k, execSt f s = runIns (insW 0x101 f) s k := by unfold execSt; exact ⟨_, rfl⟩
theorem execLdb_runs (f : Form) (s : State) : ∃ k, execLdb f s = runIns (insW 0x102 f) s k := by unfold execLdb; exact ⟨_, rfl⟩
theorem execStb_runs (f : Form) (s : State) : ∃ k, execStb f s = runIns (insW 0x103 f) s k := by unfold execStb; exact ⟨_, rfl⟩
theorem execAmo_runs (f : Form) (s : State) : ∃ k, execAmo f s = runIns (insW 0x104 f) s k := by unfold execAmo runAmo; exact ⟨_, rfl⟩
theorem execAmn_runs (f : Form) (s : State) : ∃ k, execAmn f s = runIns (insW 0x105 f) s k := by unfold execAmn runAmo; exact ⟨_, rfl⟩
theorem execAcas_runs (f : Form) (s : State) : ∃ k, execAcas f s = runIns (insW 0x106 f) s k := by unfold execAcas runAmo; exact ⟨_, rfl⟩
theorem execFence_runs (f : Form) (s : State) : ∃ k, execFence f s = runIns (insW 0x107 f) s k := by unfold execFence runUni; exact ⟨_, rfl⟩
theorem execLdc_runs (f : Form) (s : State) : ∃ k, execLdc f s = runIns (insW 0x109 f) s k := by unfold execLdc; exact ⟨_, rfl⟩
theorem execTlook_runs (f : Form) (s : State) : ∃ k, execTlook f s = runIns (insW 0x140 f) s k := by unfold execTlook runTable; exact ⟨_, rfl⟩
theorem execTins_runs (f : Form) (s : State) : ∃ k, execTins f s = runIns (insW 0x141 f) s k := by unfold execTins runTable; exact ⟨_, rfl⟩
theorem execTdel_runs (f : Form) (s : State) : ∃ k, execTdel f s = runIns (insW 0x142 f) s k := by unfold execTdel runTable; exact ⟨_, rfl⟩
theorem execTmod_runs (f : Form) (s : State) : ∃ k, execTmod f s = runIns (insW 0x143 f) s k := by unfold execTmod runTable; exact ⟨_, rfl⟩
theorem execTset_runs (f : Form) (s : State) : ∃ k, execTset f s = runIns (insW 0x144 f) s k := by unfold execTset runTable; exact ⟨_, rfl⟩
theorem execTopen_runs (f : Form) (s : State) : ∃ k, execTopen f s = runIns (insW 0x145 f) s k := by unfold execTopen runTable; exact ⟨_, rfl⟩
theorem execTnext_runs (f : Form) (s : State) : ∃ k, execTnext f s = runIns (insW 0x146 f) s k := by unfold execTnext runTable; exact ⟨_, rfl⟩
theorem execTseek_runs (f : Form) (s : State) : ∃ k, execTseek f s = runIns (insW 0x147 f) s k := by unfold execTseek runTable; exact ⟨_, rfl⟩
theorem execTclose_runs (f : Form) (s : State) : ∃ k, execTclose f s = runIns (insW 0x148 f) s k := by unfold execTclose; exact ⟨_, rfl⟩
theorem execTcnt_runs (f : Form) (s : State) : ∃ k, execTcnt f s = runIns (insW 0x149 f) s k := by unfold execTcnt runTable; exact ⟨_, rfl⟩
theorem execTstat_runs (f : Form) (s : State) : ∃ k, execTstat f s = runIns (insW 0x14A f) s k := by unfold execTstat runTable; exact ⟨_, rfl⟩
theorem execMma_runs (f : Form) (s : State) : ∃ k, execMma f s = runIns (insW 0x160 f) s k := by unfold execMma; exact ⟨_, rfl⟩
theorem execMflushS_runs (f : SForm) (s : State) : ∃ k, execMflushS f s = runIns (insS 0x161 f) s k := by unfold execMflushS runMflush runUni; exact ⟨_, rfl⟩
theorem execMflushL_runs (f : Form) (s : State) : ∃ k, execMflushL f s = runIns (insW 0x161 f) s k := by unfold execMflushL runMflush runUni; exact ⟨_, rfl⟩
theorem execKvx_runs (f : Form) (s : State) : ∃ k, execKvx f s = runIns (insW 0x162 f) s k := by unfold execKvx runTable; exact ⟨_, rfl⟩
theorem execQmc_runs (f : Form) (s : State) : ∃ k, execQmc f s = runIns (insW 0x163 f) s k := by unfold execQmc runUni; exact ⟨_, rfl⟩
theorem execCredS_runs (f : SForm) (s : State) : ∃ k, execCredS f s = runIns (insS 0x164 f) s k := by unfold execCredS runCred; exact ⟨_, rfl⟩
theorem execCredL_runs (f : Form) (s : State) : ∃ k, execCredL f s = runIns (insW 0x164 f) s k := by unfold execCredL runCred; exact ⟨_, rfl⟩
theorem execCpk_runs (f : Form) (s : State) : ∃ k, execCpk f s = runIns (insW 0x180 f) s k := by unfold execCpk runUni; exact ⟨_, rfl⟩
theorem execBinit_runs (f : Form) (s : State) : ∃ k, execBinit f s = runIns (insW 0x181 f) s k := by unfold execBinit runBar; exact ⟨_, rfl⟩
theorem execBarr_runs (f : Form) (s : State) : ∃ k, execBarr f s = runIns (insW 0x182 f) s k := by unfold execBarr runBar; exact ⟨_, rfl⟩
theorem execBwait_runs (f : Form) (s : State) : ∃ k, execBwait f s = runIns (insW 0x183 f) s k := by unfold execBwait runBar; exact ⟨_, rfl⟩
theorem execWaitt_runs (f : Form) (s : State) : ∃ k, execWaitt f s = runIns (insW 0x184 f) s k := by unfold execWaitt runBar; exact ⟨_, rfl⟩
theorem execQpush_runs (f : Form) (s : State) : ∃ k, execQpush f s = runIns (insW 0x185 f) s k := by unfold execQpush; exact ⟨_, rfl⟩
theorem execQpop_runs (f : Form) (s : State) : ∃ k, execQpop f s = runIns (insW 0x186 f) s k := by unfold execQpop; exact ⟨_, rfl⟩
theorem execRdx_runs (f : Form) (s : State) : ∃ k, execRdx f s = runIns (insW 0x187 f) s k := by unfold execRdx; exact ⟨_, rfl⟩
theorem execQstat_runs (f : Form) (s : State) : ∃ k, execQstat f s = runIns (insW 0x188 f) s k := by unfold execQstat runUni; exact ⟨_, rfl⟩
theorem execBra_runs (f : Form) (s : State) : ∃ k, execBra f s = runIns (insW 0x1A0 f) s k := by unfold execBra runUni; exact ⟨_, rfl⟩
theorem execBrv_runs (f : Form) (s : State) : ∃ k, execBrv f s = runIns (insW 0x1A1 f) s k := by unfold execBrv; exact ⟨_, rfl⟩
theorem execBany_runs (f : Form) (s : State) : ∃ k, execBany f s = runIns (insW 0x1A2 f) s k := by unfold execBany; exact ⟨_, rfl⟩
theorem execBall_runs (f : Form) (s : State) : ∃ k, execBall f s = runIns (insW 0x1A3 f) s k := by unfold execBall; exact ⟨_, rfl⟩
theorem execCall_runs (f : Form) (s : State) : ∃ k, execCall f s = runIns (insW 0x1A4 f) s k := by unfold execCall runUni; exact ⟨_, rfl⟩
theorem execRetS_runs (f : SForm) (s : State) : ∃ k, execRetS f s = runIns (insS 0x1A5 f) s k := by unfold execRetS runRet runUni; exact ⟨_, rfl⟩
theorem execRetL_runs (f : Form) (s : State) : ∃ k, execRetL f s = runIns (insW 0x1A5 f) s k := by unfold execRetL runRet runUni; exact ⟨_, rfl⟩
theorem execJmpi_runs (f : Form) (s : State) : ∃ k, execJmpi f s = runIns (insW 0x1A6 f) s k := by unfold execJmpi runUni; exact ⟨_, rfl⟩
theorem execLoop_runs (f : Form) (s : State) : ∃ k, execLoop f s = runIns (insW 0x1A7 f) s k := by unfold execLoop runUni; exact ⟨_, rfl⟩
theorem execExitS_runs (f : SForm) (s : State) : ∃ k, execExitS f s = runIns (insS 0x1A8 f) s k := by unfold execExitS runExit; exact ⟨_, rfl⟩
theorem execExitL_runs (f : Form) (s : State) : ∃ k, execExitL f s = runIns (insW 0x1A8 f) s k := by unfold execExitL runExit; exact ⟨_, rfl⟩
theorem execBar_runs (f : SForm) (s : State) : ∃ k, execBar f s = runIns (insS 0x1A9 f) s k := by unfold execBar runUni; exact ⟨_, rfl⟩
theorem execSleepS_runs (f : SForm) (s : State) : ∃ k, execSleepS f s = runIns (insS 0x1AA f) s k := by unfold execSleepS runSleep runUni; exact ⟨_, rfl⟩
theorem execSleepL_runs (f : Form) (s : State) : ∃ k, execSleepL f s = runIns (insW 0x1AA f) s k := by unfold execSleepL runSleep runUni; exact ⟨_, rfl⟩
theorem execYield_runs (f : SForm) (s : State) : ∃ k, execYield f s = runIns (insS 0x1AB f) s k := by unfold execYield runUni; exact ⟨_, rfl⟩
theorem execTrap_runs (f : Form) (s : State) : ∃ k, execTrap f s = runIns (insW 0x1AC f) s k := by unfold execTrap runUni; exact ⟨_, rfl⟩
theorem execSgpost_runs (f : Form) (s : State) : ∃ k, execSgpost f s = runIns (insW 0x1C0 f) s k := by unfold execSgpost runUni; exact ⟨_, rfl⟩
theorem execSgpoll_runs (f : Form) (s : State) : ∃ k, execSgpoll f s = runIns (insW 0x1C1 f) s k := by unfold execSgpoll runUni; exact ⟨_, rfl⟩
theorem execSgchk_runs (f : Form) (s : State) : ∃ k, execSgchk f s = runIns (insW 0x1C2 f) s k := by unfold execSgchk runUni; exact ⟨_, rfl⟩
theorem execLaunch_runs (f : Form) (s : State) : ∃ k, execLaunch f s = runIns (insW 0x1C3 f) s k := by unfold execLaunch runUni; exact ⟨_, rfl⟩
theorem execEvsig_runs (f : Form) (s : State) : ∃ k, execEvsig f s = runIns (insW 0x1C4 f) s k := by unfold execEvsig runUni; exact ⟨_, rfl⟩
theorem execEvwait_runs (f : Form) (s : State) : ∃ k, execEvwait f s = runIns (insW 0x1C5 f) s k := by unfold execEvwait runUni; exact ⟨_, rfl⟩
theorem execRte_runs (f : SForm) (s : State) : ∃ k, execRte f s = runIns (insS 0x1E0 f) s k := by unfold execRte runUni; exact ⟨_, rfl⟩
theorem execTsbS_runs (f : SForm) (s : State) : ∃ k, execTsbS f s = runIns (insS 0x1E1 f) s k := by unfold execTsbS runTsb runUni; exact ⟨_, rfl⟩
theorem execTsbL_runs (f : Form) (s : State) : ∃ k, execTsbL f s = runIns (insW 0x1E1 f) s k := by unfold execTsbL runTsb runUni; exact ⟨_, rfl⟩
theorem execHaltb_runs (f : SForm) (s : State) : ∃ k, execHaltb f s = runIns (insS 0x1E2 f) s k := by unfold execHaltb runUni; exact ⟨_, rfl⟩
theorem execStep_runs (f : SForm) (s : State) : ∃ k, execStep f s = runIns (insS 0x1E3 f) s k := by unfold execStep runUni; exact ⟨_, rfl⟩
theorem execBkpt_runs (f : SForm) (s : State) : ∃ k, execBkpt f s = runIns (insS 0x1E4 f) s k := by unfold execBkpt runUni; exact ⟨_, rfl⟩
theorem execWatch_runs (f : Form) (s : State) : ∃ k, execWatch f s = runIns (insW 0x1E5 f) s k := by unfold execWatch runUni; exact ⟨_, rfl⟩
theorem execMbxw_runs (f : Form) (s : State) : ∃ k, execMbxw f s = runIns (insW 0x1E6 f) s k := by unfold execMbxw runUni; exact ⟨_, rfl⟩
theorem execMbxr_runs (f : Form) (s : State) : ∃ k, execMbxr f s = runIns (insW 0x1E7 f) s k := by unfold execMbxr runUni; exact ⟨_, rfl⟩

theorem execSrd_runs (f : Form) (s : State) (h : srHandler f.a.toNat = true → (s.team s.cur).hmode = true) :
    ∃ k, execSrd f s = runIns (insW 0x021 f) s k := by
  have : (srHandler f.a.toNat && !(s.team s.cur).hmode) = false := by cases e : srHandler f.a.toNat <;> simp_all
  unfold execSrd; simp only [this, Bool.false_eq_true, if_false]; exact ⟨_, rfl⟩

theorem execSwr_runs (f : Form) (s : State) (h : srHandler f.d.toNat = true → (s.team s.cur).hmode = true) :
    ∃ k, execSwr f s = runIns (insW 0x022 f) s k := by
  have : (srHandler f.d.toNat && !(s.team s.cur).hmode) = false := by cases e : srHandler f.d.toNat <;> simp_all
  unfold execSwr runUni; simp only [this, Bool.false_eq_true, if_false]; exact ⟨_, rfl⟩

theorem execPmov_runs (f : Form) (s : State) : ∃ k, execPmov f s = runIns (insW 0x0A3 f) s k := by
  unfold execPmov runTest runAlu32; split <;> exact ⟨_, rfl⟩

/-- The meaning of an instruction of a team, PREF apart, where its mode may run it. -/
theorem exec_runs (x : Instr) (i : Ins) (s : State) (hi : insOf x = some i) (hp : i.op ≠ 0x108)
    (hs : ∀ f, x = .srd f → srHandler f.a.toNat = true → (s.team s.cur).hmode = true)
    (hw : ∀ f, x = .swr f → srHandler f.d.toNat = true → (s.team s.cur).hmode = true) : ∃ k, exec x s = runIns i s k := by
  cases x <;> simp only [insOf, rawOf, reduceCtorEq, Option.some.injEq] at hi
  · subst hi; exact execIadd_runs _ s
  · subst hi; exact execIsub_runs _ s
  · subst hi; exact execImul_runs _ s
  · subst hi; exact execImulh_runs _ s
  · subst hi; exact execImad_runs _ s
  · subst hi; exact execIdiv_runs _ s
  · subst hi; exact execIrem_runs _ s
  · subst hi; exact execImin_runs _ s
  · subst hi; exact execImax_runs _ s
  · subst hi; exact execIabsS_runs _ s
  · subst hi; exact execIabsL_runs _ s
  · subst hi; exact execInegS_runs _ s
  · subst hi; exact execInegL_runs _ s
  · subst hi; exact execIadds_runs _ s
  · subst hi; exact execIsubs_runs _ s
  · subst hi; exact execAnd_runs _ s
  · subst hi; exact execOr_runs _ s
  · subst hi; exact execXor_runs _ s
  · subst hi; exact execAndn_runs _ s
  · subst hi; exact execNotS_runs _ s
  · subst hi; exact execNotL_runs _ s
  · subst hi; exact execShl_runs _ s
  · subst hi; exact execShr_runs _ s
  · subst hi; exact execSar_runs _ s
  · subst hi; exact execRol_runs _ s
  · subst hi; exact execBfx_runs _ s
  · subst hi; exact execBfi_runs _ s
  · subst hi; exact execPopcS_runs _ s
  · subst hi; exact execPopcL_runs _ s
  · subst hi; exact execClzS_runs _ s
  · subst hi; exact execClzL_runs _ s
  · subst hi; exact execCtzS_runs _ s
  · subst hi; exact execCtzL_runs _ s
  · subst hi; exact execBrevS_runs _ s
  · subst hi; exact execBrevL_runs _ s
  · subst hi; exact execSel_runs _ s
  · subst hi; exact execMovS_runs _ s
  · subst hi; exact execMovL_runs _ s
  · subst hi; exact execMovi_runs _ s
  · subst hi; exact execPrmt_runs _ s
  · subst hi; exact execSrd_runs _ s (hs _ rfl)
  · subst hi; exact execSwr_runs _ s (hw _ rfl)
  · subst hi; exact execIaddc_runs _ s
  · subst hi; exact execFadd_runs _ s
  · subst hi; exact execFsub_runs _ s
  · subst hi; exact execFmul_runs _ s
  · subst hi; exact execFfma_runs _ s
  · subst hi; exact execFmin_runs _ s
  · subst hi; exact execFmax_runs _ s
  · subst hi; exact execFabsS_runs _ s
  · subst hi; exact execFabsL_runs _ s
  · subst hi; exact execFnegS_runs _ s
  · subst hi; exact execFnegL_runs _ s
  · subst hi; exact execFdiv_runs _ s
  · subst hi; exact execFsqrtS_runs _ s
  · subst hi; exact execFsqrtL_runs _ s
  · subst hi; exact execFrcpS_runs _ s
  · subst hi; exact execFrcpL_runs _ s
  · subst hi; exact execFrintS_runs _ s
  · subst hi; exact execFrintL_runs _ s
  · subst hi; exact execFclassS_runs _ s
  · subst hi; exact execFclassL_runs _ s
  · subst hi; exact execFscale_runs _ s
  · subst hi; exact execFdot2_runs _ s
  · subst hi; exact execCvt_runs _ s
  · subst hi; exact execPack_runs _ s
  · subst hi; exact execUnpk_runs _ s
  · subst hi; exact execSbq_runs _ s
  · subst hi; exact execSbdq_runs _ s
  · subst hi; exact execIcmp_runs _ s
  · subst hi; exact execFcmp_runs _ s
  · subst hi; exact execPlop_runs _ s
  · subst hi; exact execPmov_runs _ s
  · subst hi; exact execShfl_runs _ s
  · subst hi; exact execBcst_runs _ s
  · subst hi; exact execVote_runs _ s
  · subst hi; exact execMbalS_runs _ s
  · subst hi; exact execMbalL_runs _ s
  · subst hi; exact execScanS_runs _ s
  · subst hi; exact execScanL_runs _ s
  · subst hi; exact execRedS_runs _ s
  · subst hi; exact execRedL_runs _ s
  · subst hi; exact execTsort_runs _ s
  · subst hi; exact execTselk_runs _ s
  · subst hi; exact execCexp2_runs _ s
  · subst hi; exact execClog2_runs _ s
  · subst hi; exact execCsin_runs _ s
  · subst hi; exact execCcos_runs _ s
  · subst hi; exact execCsincos_runs _ s
  · subst hi; exact execCatan2_runs _ s
  · subst hi; exact execCtanh_runs _ s
  · subst hi; exact execCsigm_runs _ s
  · subst hi; exact execCrsq_runs _ s
  · subst hi; exact execCsqrt_runs _ s
  · subst hi; exact execLd_runs _ s
  · subst hi; exact execSt_runs _ s
  · subst hi; exact execLdb_runs _ s
  · subst hi; exact execStb_runs _ s
  · subst hi; exact execAmo_runs _ s
  · subst hi; exact execAmn_runs _ s
  · subst hi; exact execAcas_runs _ s
  · subst hi; exact execFence_runs _ s
  · subst hi; exact absurd rfl hp
  · subst hi; exact execLdc_runs _ s
  · subst hi; exact execTlook_runs _ s
  · subst hi; exact execTins_runs _ s
  · subst hi; exact execTdel_runs _ s
  · subst hi; exact execTmod_runs _ s
  · subst hi; exact execTset_runs _ s
  · subst hi; exact execTopen_runs _ s
  · subst hi; exact execTnext_runs _ s
  · subst hi; exact execTseek_runs _ s
  · subst hi; exact execTclose_runs _ s
  · subst hi; exact execTcnt_runs _ s
  · subst hi; exact execTstat_runs _ s
  · subst hi; exact execMma_runs _ s
  · subst hi; exact execMflushS_runs _ s
  · subst hi; exact execMflushL_runs _ s
  · subst hi; exact execKvx_runs _ s
  · subst hi; exact execQmc_runs _ s
  · subst hi; exact execCredS_runs _ s
  · subst hi; exact execCredL_runs _ s
  · subst hi; exact execCpk_runs _ s
  · subst hi; exact execBinit_runs _ s
  · subst hi; exact execBarr_runs _ s
  · subst hi; exact execBwait_runs _ s
  · subst hi; exact execWaitt_runs _ s
  · subst hi; exact execQpush_runs _ s
  · subst hi; exact execQpop_runs _ s
  · subst hi; exact execRdx_runs _ s
  · subst hi; exact execQstat_runs _ s
  · subst hi; exact execBra_runs _ s
  · subst hi; exact execBrv_runs _ s
  · subst hi; exact execBany_runs _ s
  · subst hi; exact execBall_runs _ s
  · subst hi; exact execCall_runs _ s
  · subst hi; exact execRetS_runs _ s
  · subst hi; exact execRetL_runs _ s
  · subst hi; exact execJmpi_runs _ s
  · subst hi; exact execLoop_runs _ s
  · subst hi; exact execExitS_runs _ s
  · subst hi; exact execExitL_runs _ s
  · subst hi; exact execBar_runs _ s
  · subst hi; exact execSleepS_runs _ s
  · subst hi; exact execSleepL_runs _ s
  · subst hi; exact execYield_runs _ s
  · subst hi; exact execTrap_runs _ s
  · subst hi; exact execSgpost_runs _ s
  · subst hi; exact execSgpoll_runs _ s
  · subst hi; exact execSgchk_runs _ s
  · subst hi; exact execLaunch_runs _ s
  · subst hi; exact execEvsig_runs _ s
  · subst hi; exact execEvwait_runs _ s
  · subst hi; exact execRte_runs _ s
  · subst hi; exact execTsbS_runs _ s
  · subst hi; exact execTsbL_runs _ s
  · subst hi; exact execHaltb_runs _ s
  · subst hi; exact execStep_runs _ s
  · subst hi; exact execBkpt_runs _ s
  · subst hi; exact execWatch_runs _ s
  · subst hi; exact execMbxw_runs _ s
  · subst hi; exact execMbxr_runs _ s

end Sys2Proof.Machine
end

