-- ==== Sys2Proof/Tests/Slice0.lean ====
section
/-!
SUPPORT. Tests: words written out from the encoding tables of the spec with the instructions they stand for; ill-formed terms that the checks
refuse; single steps with results from the spec's own words; and for every statement with hypotheses a state and operands that meet them.
-/
open Sys2Proof Sys2Proof.Machine

namespace Sys2Proof.Tests

-- One theorem after another: each would else be checked in a thread of its own.
set_option Elab.async false

/-- A form, a uniform form and a short form with every field zero and a true guard. -/
def fm : Form := { uni := false, gp := 7, gn := false, d := 0, a := 0, b := 0, c := 0, wa := false, wb := false, wc := false, ka := false, kb := false, kc := false, ty := .s32, mod := 0, xl := 0, lit := none }
def fu : Form := { fm with uni := true }
def sm : SForm := { uni := false, gp := 7, gn := false, d := 0, a := 0 }
def su : SForm := { sm with uni := true }

/-- A machine that has just been given a team of one lane with every register, and the same with its team or block changed. -/
def st0 : State := State.reset.withFetchWord 0 0
def tm (f : Team → Team) : State := st0.setTeam 0 (f (st0.team 0))
def bl (f : Block → Block) : State := st0.setBlock 0 (f (st0.block 0))

/-- The words decode, at the widest limits, to the instruction. -/
def decodes (w0 w1 w2 : W32) (x : Instr) : Bool := decodeWords Limits.widest w0 w1 w2 == .ok x

/-- `Clear` as a test that evaluates. -/
def clearB (i : Ins) (t : Team) (ls : List Nat) : Bool :=
  (!i.reserved || t.hmode) && (i.passLanes t == some ls) && ls.all (fun l => (i.srcRefs t l).all (fun r => !t.empty r.1 && !t.bad r.1))
    && (i.written t ls).all (fun r => !t.empty r) && (i.laneDsts t ls).all (fun r => decide (r ∉ t.mmaHolds))

theorem clear_iff (i : Ins) (t : Team) (ls : List Nat) : Clear i t ls ↔ clearB i t ls = true := by
  unfold Clear clearB
  cases i.reserved <;> cases t.hmode <;> simp [and_assoc]

/-- `Settled` as a test that evaluates. -/
def settledB (s : State) (i : Ins) (t : Team) (p : Plan) (n : Nat) (rd wr : Bool) : Bool :=
  p.fails.isEmpty && p.pages.isEmpty && (s.watchTrap i t i.f.b.toNat n rd wr p.accs).isNone
    && p.accs.all (fun a => !s.placeOwned a.place n && !s.ownLater s.cur a.place n wr) && (decide (lineCount p.accs = 0) || s.mayEnter t.core s.cur)
    && (!(i.op == 0x101 || i.op == 0x103) || !s.unbound s.cur)

theorem settled_iff (s : State) (i : Ins) (t : Team) (p : Plan) (n : Nat) (rd wr : Bool) :
    Settled s i t p n rd wr ↔ settledB s i t p n rd wr = true := by
  have h : (i.op = 0x101 ∨ i.op = 0x103 → s.unbound s.cur = false) ↔ (!(i.op == 0x101 || i.op == 0x103) || !s.unbound s.cur) = true := by
    cases s.unbound s.cur <;> simp
  unfold Settled settledB
  rw [h]
  simp [and_assoc, Option.isNone_iff_eq_none]

/-- `Owned` as a test that evaluates. -/
def ownedB (s : State) (n : Nat) (us : List AUnit) : Bool :=
  us.all (fun u => (s.unowned (s.team s.cur).core u.tr n).isEmpty
    && (match u.sc with | some c => (s.unowned (s.team s.cur).core c.1 2).isEmpty | none => true))

theorem owned_iff (s : State) (n : Nat) (us : List AUnit) : Owned s n us ↔ ownedB s n us = true := by
  unfold Owned ownedB
  simp only [List.all_eq_true, Bool.and_eq_true, List.isEmpty_iff]
  refine forall_congr' fun u => forall_congr' fun _ => and_congr_right fun _ => ?_
  cases u.sc <;> simp [List.isEmpty_iff]

/-- The bits of a table record (11 R208): kind, key width, encoding, layout of scales, ILOG2, IBASE, HLOG2, ROWB, ROWLIM 16, BASE, every
permission. -/
def recBits (kind keyw enc slayout ilog2 ibase hlog2 rowb base : Nat) : Nat :=
  2 ^ 63 + base + ibase / 65536 * 2 ^ 64 + ilog2 * 2 ^ 122 + enc * 2 ^ 131 + keyw * 2 ^ 135 + kind * 2 ^ 137 + rowb * 2 ^ 139 + 16 * 2 ^ 152
    + 31 * 2 ^ 199 + slayout * 2 ^ 204 + hlog2 * 2 ^ 219

/-- The team's launch has a directory at 0x500000 (slot 0 words, 1 e4m3 blocks, 2 ordered, 3 hash, 4 hash of sequence keys, 5 f16 rows) and a
parameter block of 64 bytes at 0x600000. -/
def stTab : State :=
  (st0.setJob 0 { st0.job 0 with words := [0, BitVec.ofNat 64 benchText, 0xFFFFFFFC, 0x0001000100000001, 0x600000, 64, 0x500000] }).seed 0x500000
    (natLe 40 (recBits 0 0 0 0 0 0 0 64 0x8000000) ++ natLe 40 (recBits 0 0 8 1 0 0 0 68 0x8010000) ++ natLe 40 (recBits 1 0 0 0 20 0x9000000 0 64 0x8020000)
      ++ natLe 40 (recBits 2 0 0 0 20 0x9100000 4 64 0x8030000) ++ natLe 40 (recBits 3 2 0 0 20 0x9200000 4 64 0x8040000)
      ++ natLe 40 (recBits 0 0 2 0 0 0 0 64 0x8050000))

/-- The state after an instruction, or the base state where it stops. -/
def after (i : Instr) (s : State) : State := match exec i s with | .next t => t | _ => st0

/-! One word for every instruction of a team, laid out from the fields of 03 R48–R51 and the opcodes of R63. -/

theorem test_decode_integer : ([
    decodes 0x10400089 0x01C10030 0 (.iadd { uni := false, gp := 1, gn := false, d := 64, a := 16, b := 48, c := 0, wa := true, wb := false, wc := false, ka := false, kb := false, kc := false, ty := .n8x4, mod := 0, xl := 0, lit := none }),
    decodes 0x10500165 0x01C20030 0 (.isub { uni := true, gp := 4, gn := true, d := 80, a := 16, b := 48, c := 0, wa := false, wb := true, wc := false, ka := false, kb := false, kc := false, ty := .n8x4, mod := 0, xl := 0, lit := none }),
    decodes 0x104001BA 0x01490000 0x1234567A (.imul { uni := false, gp := 7, gn := false, d := 64, a := 16, b := 0, c := 0, wa := true, wb := false, wc := false, ka := true, kb := false, kc := false, ty := .n16x2, mod := 0, xl := 0, lit := some 0x1234567A }),
    decodes 0x10500251 0x00D20030 0 (.imulh { uni := false, gp := 2, gn := true, d := 80, a := 16, b := 48, c := 0, wa := false, wb := true, wc := false, ka := false, kb := true, kc := false, ty := .n64, mod := 0, xl := 0, lit := none }),
    decodes 0x104002AD 0x00C56030 0 (.imad { uni := true, gp := 5, gn := false, d := 64, a := 16, b := 48, c := 96, wa := true, wb := false, wc := true, ka := false, kb := false, kc := false, ty := .n64, mod := 0, xl := 0, lit := none }),
    decodes 0x10500341 0x00C20030 0 (.idiv { uni := false, gp := 0, gn := true, d := 80, a := 16, b := 48, c := 0, wa := false, wb := true, wc := false, ka := false, kb := false, kc := false, ty := .n64, mod := 0, xl := 0, lit := none }),
    decodes 0x1040039A 0x00C10000 0x1234567E (.irem { uni := false, gp := 3, gn := false, d := 64, a := 16, b := 0, c := 0, wa := true, wb := false, wc := false, ka := false, kb := false, kc := false, ty := .n64, mod := 0, xl := 0, lit := some 0x1234567E }),
    decodes 0x10500475 0x01C20030 0 (.imin { uni := true, gp := 6, gn := true, d := 80, a := 16, b := 48, c := 0, wa := false, wb := true, wc := false, ka := false, kb := false, kc := false, ty := .n8x4, mod := 0, xl := 0, lit := none }),
    decodes 0x10400489 0x01D10030 0 (.imax { uni := false, gp := 1, gn := false, d := 64, a := 16, b := 48, c := 0, wa := true, wb := false, wc := false, ka := false, kb := true, kc := false, ty := .n8x4, mod := 0, xl := 0, lit := none }),
    decodes 0x10500560 0 0 (.iabsS { uni := false, gp := 4, gn := true, d := 80, a := 16 }),
    decodes 0x1040053D 0x01810000 0 (.iabsL { uni := true, gp := 7, gn := false, d := 64, a := 16, b := 0, c := 0, wa := true, wb := false, wc := false, ka := false, kb := false, kc := false, ty := .s8x4, mod := 0, xl := 0, lit := none }),
    decodes 0x105005D0 0 0 (.inegS { uni := false, gp := 2, gn := true, d := 80, a := 16 }),
    decodes 0x104005A9 0x01C90000 0 (.inegL { uni := false, gp := 5, gn := false, d := 64, a := 16, b := 0, c := 0, wa := true, wb := false, wc := false, ka := true, kb := false, kc := false, ty := .n8x4, mod := 0, xl := 0, lit := none }),
    decodes 0x10500645 0x01C20030 0 (.iadds { uni := true, gp := 0, gn := true, d := 80, a := 16, b := 48, c := 0, wa := false, wb := true, wc := false, ka := false, kb := false, kc := false, ty := .n8x4, mod := 0, xl := 0, lit := none }),
    decodes 0x1040069A 0x01C10000 0x12345686 (.isubs { uni := false, gp := 3, gn := false, d := 64, a := 16, b := 0, c := 0, wa := true, wb := false, wc := false, ka := false, kb := false, kc := false, ty := .n8x4, mod := 0, xl := 0, lit := some 0x12345686 }),
    decodes 0x10500771 0x00C20030 0 (.and { uni := false, gp := 6, gn := true, d := 80, a := 16, b := 48, c := 0, wa := false, wb := true, wc := false, ka := false, kb := false, kc := false, ty := .n64, mod := 0, xl := 0, lit := none }),
    decodes 0x1040078D 0x00C10030 0 (.or { uni := true, gp := 1, gn := false, d := 64, a := 16, b := 48, c := 0, wa := true, wb := false, wc := false, ka := false, kb := false, kc := false, ty := .n64, mod := 0, xl := 0, lit := none }),
    decodes 0x10500861 0x00CA0030 0 (.xor { uni := false, gp := 4, gn := true, d := 80, a := 16, b := 48, c := 0, wa := false, wb := true, wc := false, ka := true, kb := false, kc := false, ty := .n64, mod := 0, xl := 0, lit := none }),
    decodes 0x104008BA 0x00C10000 0x1234568A (.andn { uni := false, gp := 7, gn := false, d := 64, a := 16, b := 0, c := 0, wa := true, wb := false, wc := false, ka := false, kb := false, kc := false, ty := .n64, mod := 0, xl := 0, lit := some 0x1234568A }),
    decodes 0x10500954 0 0 (.notS { uni := true, gp := 2, gn := true, d := 80, a := 16 }),
    decodes 0x10400929 0x00C10000 0 (.notL { uni := false, gp := 5, gn := false, d := 64, a := 16, b := 0, c := 0, wa := true, wb := false, wc := false, ka := false, kb := false, kc := false, ty := .n64, mod := 0, xl := 0, lit := none }),
    decodes 0x105009C1 0x00C20030 0 (.shl { uni := false, gp := 0, gn := true, d := 80, a := 16, b := 48, c := 0, wa := false, wb := true, wc := false, ka := false, kb := false, kc := false, ty := .n64, mod := 0, xl := 0, lit := none }),
    decodes 0x10400A1E 0x00C10000 0x1234568E (.shr { uni := true, gp := 3, gn := false, d := 64, a := 16, b := 0, c := 0, wa := true, wb := false, wc := false, ka := false, kb := false, kc := false, ty := .n64, mod := 0, xl := 0, lit := some 0x1234568E }),
    decodes 0x10500AF1 0x00D20030 0 (.sar { uni := false, gp := 6, gn := true, d := 80, a := 16, b := 48, c := 0, wa := false, wb := true, wc := false, ka := false, kb := true, kc := false, ty := .n64, mod := 0, xl := 0, lit := none }),
    decodes 0x10400B09 0x00C10030 0 (.rol { uni := false, gp := 1, gn := false, d := 64, a := 16, b := 48, c := 0, wa := true, wb := false, wc := false, ka := false, kb := false, kc := false, ty := .n64, mod := 0, xl := 0, lit := none }),
    decodes 0x10500BE5 0x00C20030 0 (.bfx { uni := true, gp := 4, gn := true, d := 80, a := 16, b := 48, c := 0, wa := false, wb := true, wc := false, ka := false, kb := false, kc := false, ty := .n64, mod := 0, xl := 0, lit := none }),
    decodes 0x10400C3A 0x00C56000 0x12345692 (.bfi { uni := false, gp := 7, gn := false, d := 64, a := 16, b := 0, c := 96, wa := true, wb := false, wc := true, ka := false, kb := false, kc := false, ty := .n64, mod := 0, xl := 0, lit := some 0x12345692 }),
    decodes 0x10500CD0 0 0 (.popcS { uni := false, gp := 2, gn := true, d := 80, a := 16 }),
    decodes 0x10400CAD 0x00C10000 0 (.popcL { uni := true, gp := 5, gn := false, d := 64, a := 16, b := 0, c := 0, wa := true, wb := false, wc := false, ka := false, kb := false, kc := false, ty := .n64, mod := 0, xl := 0, lit := none }),
    decodes 0x10500D40 0 0 (.clzS { uni := false, gp := 0, gn := true, d := 80, a := 16 }),
    decodes 0x10400D19 0x00C10000 0 (.clzL { uni := false, gp := 3, gn := false, d := 64, a := 16, b := 0, c := 0, wa := true, wb := false, wc := false, ka := false, kb := false, kc := false, ty := .n64, mod := 0, xl := 0, lit := none }),
    decodes 0x10500DF4 0 0 (.ctzS { uni := true, gp := 6, gn := true, d := 80, a := 16 }),
    decodes 0x10400D89 0x00C90000 0 (.ctzL { uni := false, gp := 1, gn := false, d := 64, a := 16, b := 0, c := 0, wa := true, wb := false, wc := false, ka := true, kb := false, kc := false, ty := .n64, mod := 0, xl := 0, lit := none }),
    decodes 0x10500E60 0 0 (.brevS { uni := false, gp := 4, gn := true, d := 80, a := 16 }),
    decodes 0x10400E3D 0x00C10000 0 (.brevL { uni := true, gp := 7, gn := false, d := 64, a := 16, b := 0, c := 0, wa := true, wb := false, wc := false, ka := false, kb := false, kc := false, ty := .n64, mod := 0, xl := 0, lit := none }),
    decodes 0x10500ED1 0x02C20330 0 (.sel { uni := false, gp := 2, gn := true, d := 80, a := 16, b := 48, c := 3, wa := false, wb := true, wc := false, ka := false, kb := false, kc := false, ty := .f64, mod := 0, xl := 0, lit := none }),
    decodes 0x10400F28 0 0 (.movS { uni := false, gp := 5, gn := false, d := 64, a := 16 }),
    decodes 0x10500F45 0x02C00000 0 (.movL { uni := true, gp := 0, gn := true, d := 80, a := 16, b := 0, c := 0, wa := false, wb := false, wc := false, ka := false, kb := false, kc := false, ty := .f64, mod := 0, xl := 0, lit := none }),
    decodes 0x00400F9A 0x02C00000 0x1234569E (.movi { uni := false, gp := 3, gn := false, d := 64, a := 0, b := 0, c := 0, wa := false, wb := false, wc := false, ka := false, kb := false, kc := false, ty := .f64, mod := 0, xl := 0, lit := some 0x1234569E }),
    decodes 0x10501071 0x00626030 0 (.prmt { uni := false, gp := 6, gn := true, d := 80, a := 16, b := 48, c := 96, wa := false, wb := true, wc := false, ka := false, kb := false, kc := true, ty := .n32, mod := 0, xl := 0, lit := none }),
    decodes 0x1840108D 0x00C00000 0 (.srd { uni := true, gp := 1, gn := false, d := 64, a := 24, b := 0, c := 0, wa := false, wb := false, wc := false, ka := false, kb := false, kc := false, ty := .n64, mod := 0, xl := 0, lit := none }),
    decodes 0x10161165 0x00C00000 0 (.swr { uni := true, gp := 4, gn := true, d := 22, a := 16, b := 0, c := 0, wa := false, wb := false, wc := false, ka := false, kb := false, kc := false, ty := .n64, mod := 0, xl := 0, lit := none }),
    decodes 0x104011BA 0x00490300 0x123456A2 (.iaddc { uni := false, gp := 7, gn := false, d := 64, a := 16, b := 0, c := 3, wa := true, wb := false, wc := false, ka := true, kb := false, kc := false, ty := .n32, mod := 0, xl := 0, lit := some 0x123456A2 })] : List Bool).all id = true := by decide +kernel

theorem test_decode_floating : ([
    decodes 0x10502055 0x0EC20030 0 (.fadd { uni := true, gp := 2, gn := true, d := 80, a := 16, b := 48, c := 0, wa := false, wb := true, wc := false, ka := false, kb := false, kc := false, ty := .f64, mod := 3, xl := 0, lit := none }),
    decodes 0x104020A9 0x0EC10030 0 (.fsub { uni := false, gp := 5, gn := false, d := 64, a := 16, b := 48, c := 0, wa := true, wb := false, wc := false, ka := false, kb := false, kc := false, ty := .f64, mod := 3, xl := 0, lit := none }),
    decodes 0x10502141 0x0EC20030 0 (.fmul { uni := false, gp := 0, gn := true, d := 80, a := 16, b := 48, c := 0, wa := false, wb := true, wc := false, ka := false, kb := false, kc := false, ty := .f64, mod := 3, xl := 0, lit := none }),
    decodes 0x1040219E 0x0EC56000 0x123456A6 (.ffma { uni := true, gp := 3, gn := false, d := 64, a := 16, b := 0, c := 96, wa := true, wb := false, wc := true, ka := false, kb := false, kc := false, ty := .f64, mod := 3, xl := 0, lit := some 0x123456A6 }),
    decodes 0x10502271 0x02CA0030 0 (.fmin { uni := false, gp := 6, gn := true, d := 80, a := 16, b := 48, c := 0, wa := false, wb := true, wc := false, ka := true, kb := false, kc := false, ty := .f64, mod := 0, xl := 0, lit := none }),
    decodes 0x10402289 0x02D10030 0 (.fmax { uni := false, gp := 1, gn := false, d := 64, a := 16, b := 48, c := 0, wa := true, wb := false, wc := false, ka := false, kb := true, kc := false, ty := .f64, mod := 0, xl := 0, lit := none }),
    decodes 0x10502364 0 0 (.fabsS { uni := true, gp := 4, gn := true, d := 80, a := 16 }),
    decodes 0x10402339 0x02C10000 0 (.fabsL { uni := false, gp := 7, gn := false, d := 64, a := 16, b := 0, c := 0, wa := true, wb := false, wc := false, ka := false, kb := false, kc := false, ty := .f64, mod := 0, xl := 0, lit := none }),
    decodes 0x105023D0 0 0 (.fnegS { uni := false, gp := 2, gn := true, d := 80, a := 16 }),
    decodes 0x104023AD 0x02C10000 0 (.fnegL { uni := true, gp := 5, gn := false, d := 64, a := 16, b := 0, c := 0, wa := true, wb := false, wc := false, ka := false, kb := false, kc := false, ty := .f64, mod := 0, xl := 0, lit := none }),
    decodes 0x10502441 0x0ED20030 0 (.fdiv { uni := false, gp := 0, gn := true, d := 80, a := 16, b := 48, c := 0, wa := false, wb := true, wc := false, ka := false, kb := true, kc := false, ty := .f64, mod := 3, xl := 0, lit := none }),
    decodes 0x10402498 0 0 (.fsqrtS { uni := false, gp := 3, gn := false, d := 64, a := 16 }),
    decodes 0x105024F5 0x0EC00000 0 (.fsqrtL { uni := true, gp := 6, gn := true, d := 80, a := 16, b := 0, c := 0, wa := false, wb := false, wc := false, ka := false, kb := false, kc := false, ty := .f64, mod := 3, xl := 0, lit := none }),
    decodes 0x10402508 0 0 (.frcpS { uni := false, gp := 1, gn := false, d := 64, a := 16 }),
    decodes 0x10502561 0x0EC80000 0 (.frcpL { uni := false, gp := 4, gn := true, d := 80, a := 16, b := 0, c := 0, wa := false, wb := false, wc := false, ka := true, kb := false, kc := false, ty := .f64, mod := 3, xl := 0, lit := none }),
    decodes 0x104025BC 0 0 (.frintS { uni := true, gp := 7, gn := false, d := 64, a := 16 }),
    decodes 0x105025D1 0x0EC00000 0 (.frintL { uni := false, gp := 2, gn := true, d := 80, a := 16, b := 0, c := 0, wa := false, wb := false, wc := false, ka := false, kb := false, kc := false, ty := .f64, mod := 3, xl := 0, lit := none }),
    decodes 0x10402628 0 0 (.fclassS { uni := false, gp := 5, gn := false, d := 64, a := 16 }),
    decodes 0x10502645 0x02C00000 0 (.fclassL { uni := true, gp := 0, gn := true, d := 80, a := 16, b := 0, c := 0, wa := false, wb := false, wc := false, ka := false, kb := false, kc := false, ty := .f64, mod := 0, xl := 0, lit := none }),
    decodes 0x1040269A 0x0EC90000 0x123456B6 (.fscale { uni := false, gp := 3, gn := false, d := 64, a := 16, b := 0, c := 0, wa := true, wb := false, wc := false, ka := true, kb := false, kc := false, ty := .f64, mod := 3, xl := 0, lit := some 0x123456B6 }),
    decodes 0x10502771 0x0E926030 0 (.fdot2 { uni := false, gp := 6, gn := true, d := 80, a := 16, b := 48, c := 96, wa := false, wb := true, wc := false, ka := false, kb := true, kc := false, ty := .bf16x2, mod := 3, xl := 0, lit := none })] : List Bool).all id = true := by decide +kernel

theorem test_decode_conversion : ([
    decodes 0x1040400D 0x04010B00 0 (.cvt { uni := true, gp := 1, gn := false, d := 64, a := 16, b := 0, c := 11, wa := true, wb := false, wc := false, ka := false, kb := false, kc := false, ty := .s32, mod := 1, xl := 0, lit := none }),
    decodes 0x105040E1 0x0B020930 0 (.pack { uni := false, gp := 4, gn := true, d := 80, a := 16, b := 48, c := 9, wa := false, wb := true, wc := false, ka := false, kb := false, kc := false, ty := .e4m3, mod := 2, xl := 0, lit := none }),
    decodes 0x10404139 0x07010E00 0 (.unpk { uni := false, gp := 7, gn := false, d := 64, a := 16, b := 0, c := 14, wa := true, wb := false, wc := false, ka := false, kb := false, kc := false, ty := .e4m3, mod := 1, xl := 0, lit := none }),
    decodes 0x105041D1 0x0FC80000 0 (.sbq { uni := false, gp := 2, gn := true, d := 80, a := 16, b := 0, c := 0, wa := false, wb := false, wc := false, ka := true, kb := false, kc := false, ty := .i4x, mod := 3, xl := 0, lit := none }),
    decodes 0x10404229 0x03C10000 0 (.sbdq { uni := false, gp := 5, gn := false, d := 64, a := 16, b := 0, c := 0, wa := true, wb := false, wc := false, ka := false, kb := false, kc := false, ty := .i4x, mod := 0, xl := 0, lit := none })] : List Bool).all id = true := by decide +kernel

theorem test_decode_predicate : ([
    decodes 0x10115041 0x14C20030 0 (.icmp { uni := false, gp := 0, gn := true, d := 17, a := 16, b := 48, c := 0, wa := false, wb := true, wc := false, ka := false, kb := false, kc := false, ty := .n64, mod := 5, xl := 0, lit := none }),
    decodes 0x1011509E 0x1EC10000 0x123456BE (.fcmp { uni := true, gp := 3, gn := false, d := 17, a := 16, b := 0, c := 0, wa := true, wb := false, wc := false, ka := false, kb := false, kc := false, ty := .f64, mod := 7, xl := 0, lit := some 0x123456BE }),
    decodes 0x05115171 0x1C010006 0 (.plop { uni := false, gp := 6, gn := true, d := 17, a := 5, b := 6, c := 0, wa := true, wb := false, wc := false, ka := false, kb := false, kc := false, ty := .s32, mod := 7, xl := 0, lit := none }),
    decodes 0x02255189 0x00000000 0 (.pmov { uni := false, gp := 1, gn := false, d := 37, a := 2, b := 0, c := 0, wa := false, wb := false, wc := false, ka := false, kb := false, kc := false, ty := .s32, mod := 0, xl := 0, lit := none })] : List Bool).all id = true := by decide +kernel

theorem test_decode_crosslane : ([
    decodes 0x10506061 0x0ED20030 0 (.shfl { uni := false, gp := 4, gn := true, d := 80, a := 16, b := 48, c := 0, wa := false, wb := true, wc := false, ka := false, kb := true, kc := false, ty := .f64, mod := 3, xl := 0, lit := none }),
    decodes 0x104060BA 0x02C10000 0x123456C2 (.bcst { uni := false, gp := 7, gn := false, d := 64, a := 16, b := 0, c := 0, wa := true, wb := false, wc := false, ka := false, kb := false, kc := false, ty := .f64, mod := 0, xl := 0, lit := some 0x123456C2 }),
    decodes 0x040A6151 0x04010000 0 (.vote { uni := false, gp := 2, gn := true, d := 10, a := 4, b := 0, c := 0, wa := true, wb := false, wc := false, ka := false, kb := false, kc := false, ty := .s32, mod := 1, xl := 0, lit := none }),
    decodes 0x104061A8 0 0 (.mbalS { uni := false, gp := 5, gn := false, d := 64, a := 16 }),
    decodes 0x105061C1 0x02C80000 0 (.mbalL { uni := false, gp := 0, gn := true, d := 80, a := 16, b := 0, c := 0, wa := false, wb := false, wc := false, ka := true, kb := false, kc := false, ty := .f64, mod := 0, xl := 0, lit := none }),
    decodes 0x10406218 0 0 (.scanS { uni := false, gp := 3, gn := false, d := 64, a := 16 }),
    decodes 0x10506271 0x1AC00000 0 (.scanL { uni := false, gp := 6, gn := true, d := 80, a := 16, b := 0, c := 0, wa := false, wb := false, wc := false, ka := false, kb := false, kc := false, ty := .f64, mod := 6, xl := 0, lit := none }),
    decodes 0x10406288 0 0 (.redS { uni := false, gp := 1, gn := false, d := 64, a := 16 }),
    decodes 0x105062E1 0x0CC00000 0 (.redL { uni := false, gp := 4, gn := true, d := 80, a := 16, b := 0, c := 0, wa := false, wb := false, wc := false, ka := false, kb := false, kc := false, ty := .n64, mod := 3, xl := 0, lit := none }),
    decodes 0x1040633A 0x06090000 0x123456CA (.tsort { uni := false, gp := 7, gn := false, d := 64, a := 16, b := 0, c := 0, wa := true, wb := false, wc := false, ka := true, kb := false, kc := false, ty := .f32, mod := 1, xl := 0, lit := some 0x123456CA }),
    decodes 0x105063D1 0x06120030 0 (.tselk { uni := false, gp := 2, gn := true, d := 80, a := 16, b := 48, c := 0, wa := false, wb := true, wc := false, ka := false, kb := true, kc := false, ty := .f32, mod := 1, xl := 0, lit := none })] : List Bool).all id = true := by decide +kernel

theorem test_decode_functionunit : ([
    decodes 0x10407029 0x02011A00 0 (.cexp2 { uni := false, gp := 5, gn := false, d := 64, a := 16, b := 0, c := 26, wa := true, wb := false, wc := false, ka := false, kb := false, kc := false, ty := .f32, mod := 0, xl := 0, lit := none }),
    decodes 0x105070C1 0x02001A00 0 (.clog2 { uni := false, gp := 0, gn := true, d := 80, a := 16, b := 0, c := 26, wa := false, wb := false, wc := false, ka := false, kb := false, kc := false, ty := .f32, mod := 0, xl := 0, lit := none }),
    decodes 0x10407119 0x02011A00 0 (.csin { uni := false, gp := 3, gn := false, d := 64, a := 16, b := 0, c := 26, wa := true, wb := false, wc := false, ka := false, kb := false, kc := false, ty := .f32, mod := 0, xl := 0, lit := none }),
    decodes 0x105071F1 0x02081A00 0 (.ccos { uni := false, gp := 6, gn := true, d := 80, a := 16, b := 0, c := 26, wa := false, wb := false, wc := false, ka := true, kb := false, kc := false, ty := .f32, mod := 0, xl := 0, lit := none }),
    decodes 0x10407209 0x02011A00 0 (.csincos { uni := false, gp := 1, gn := false, d := 64, a := 16, b := 0, c := 26, wa := true, wb := false, wc := false, ka := false, kb := false, kc := false, ty := .f32, mod := 0, xl := 0, lit := none }),
    decodes 0x105072E1 0x02021A30 0 (.catan2 { uni := false, gp := 4, gn := true, d := 80, a := 16, b := 48, c := 26, wa := false, wb := true, wc := false, ka := false, kb := false, kc := false, ty := .f32, mod := 0, xl := 0, lit := none }),
    decodes 0x10407339 0x02011A00 0 (.ctanh { uni := false, gp := 7, gn := false, d := 64, a := 16, b := 0, c := 26, wa := true, wb := false, wc := false, ka := false, kb := false, kc := false, ty := .f32, mod := 0, xl := 0, lit := none }),
    decodes 0x105073D1 0x02001A00 0 (.csigm { uni := false, gp := 2, gn := true, d := 80, a := 16, b := 0, c := 26, wa := false, wb := false, wc := false, ka := false, kb := false, kc := false, ty := .f32, mod := 0, xl := 0, lit := none }),
    decodes 0x10407429 0x02091A00 0 (.crsq { uni := false, gp := 5, gn := false, d := 64, a := 16, b := 0, c := 26, wa := true, wb := false, wc := false, ka := true, kb := false, kc := false, ty := .f32, mod := 0, xl := 0, lit := none }),
    decodes 0x105074C1 0x02001A00 0 (.csqrt { uni := false, gp := 0, gn := true, d := 80, a := 16, b := 0, c := 26, wa := false, wb := false, wc := false, ka := false, kb := false, kc := false, ty := .f32, mod := 0, xl := 0, lit := none })] : List Bool).all id = true := by decide +kernel

theorem test_decode_memory : ([
    decodes 0x1040801E 0x03C10007 0x123456D6 (.ld { uni := true, gp := 3, gn := false, d := 64, a := 16, b := 7, c := 0, wa := true, wb := false, wc := false, ka := false, kb := false, kc := false, ty := .i4x, mod := 0, xl := 0, lit := some 0x123456D6 }),
    decodes 0x104280F1 0x0FC20707 0 (.st { uni := false, gp := 6, gn := true, d := 66, a := 16, b := 7, c := 7, wa := false, wb := true, wc := false, ka := false, kb := false, kc := false, ty := .i4x, mod := 3, xl := 0, lit := none }),
    decodes 0x10408109 0x03C10707 0 (.ldb { uni := false, gp := 1, gn := false, d := 64, a := 16, b := 7, c := 7, wa := true, wb := false, wc := false, ka := false, kb := false, kc := false, ty := .i4x, mod := 0, xl := 0, lit := none }),
    decodes 0x104281E1 0x0FCA0707 0 (.stb { uni := false, gp := 4, gn := true, d := 66, a := 16, b := 7, c := 7, wa := false, wb := true, wc := false, ka := true, kb := false, kc := false, ty := .i4x, mod := 3, xl := 0, lit := none }),
    decodes 0x1048823A 0x1CD10007 0x123456DA (.amo { uni := false, gp := 7, gn := false, d := 72, a := 16, b := 7, c := 0, wa := true, wb := false, wc := false, ka := false, kb := true, kc := false, ty := .n64, mod := 7, xl := 0, lit := some 0x123456DA }),
    decodes 0x104282D1 0x1CC20707 0 (.amn { uni := false, gp := 2, gn := true, d := 66, a := 16, b := 7, c := 7, wa := false, wb := true, wc := false, ka := false, kb := false, kc := false, ty := .n64, mod := 7, xl := 0, lit := none }),
    decodes 0x1048832D 0x00C10707 0 (.acas { uni := true, gp := 5, gn := false, d := 72, a := 16, b := 7, c := 7, wa := true, wb := false, wc := false, ka := false, kb := false, kc := false, ty := .n64, mod := 0, xl := 0, lit := none }),
    decodes 0x1F0083C5 0x14000103 0 (.fence { uni := true, gp := 0, gn := true, d := 0, a := 31, b := 3, c := 1, wa := false, wb := false, wc := false, ka := false, kb := false, kc := false, ty := .s32, mod := 5, xl := 0, lit := none }),
    decodes 0x1000841A 0x04090007 0x123456DE (.pref { uni := false, gp := 3, gn := false, d := 0, a := 16, b := 7, c := 0, wa := true, wb := false, wc := false, ka := true, kb := false, kc := false, ty := .s32, mod := 1, xl := 0, lit := some 0x123456DE }),
    decodes 0x105084F5 0x02C00700 0 (.ldc { uni := true, gp := 6, gn := true, d := 80, a := 16, b := 0, c := 7, wa := false, wb := false, wc := false, ka := false, kb := false, kc := false, ty := .f64, mod := 0, xl := 0, lit := none })] : List Bool).all id = true := by decide +kernel

theorem test_decode_table : ([
    decodes 0x2011A009 0x18010007 0 (.tlook { uni := false, gp := 1, gn := false, d := 17, a := 32, b := 7, c := 0, wa := true, wb := false, wc := false, ka := false, kb := false, kc := false, ty := .s32, mod := 6, xl := 0, lit := none }),
    decodes 0x2011A0E1 0x18000007 0 (.tins { uni := false, gp := 4, gn := true, d := 17, a := 32, b := 7, c := 0, wa := false, wb := false, wc := false, ka := false, kb := false, kc := false, ty := .s32, mod := 6, xl := 0, lit := none }),
    decodes 0x2011A13E 0x08010007 0x00000000 (.tdel { uni := true, gp := 7, gn := false, d := 17, a := 32, b := 7, c := 0, wa := true, wb := false, wc := false, ka := false, kb := false, kc := false, ty := .s32, mod := 2, xl := 0, lit := some 0x00000000 }),
    decodes 0x2011A1D1 0x08000007 0 (.tmod { uni := false, gp := 2, gn := true, d := 17, a := 32, b := 7, c := 0, wa := false, wb := false, wc := false, ka := false, kb := false, kc := false, ty := .s32, mod := 2, xl := 0, lit := none }),
    decodes 0x2011A229 0x18010007 0 (.tset { uni := false, gp := 5, gn := false, d := 17, a := 32, b := 7, c := 0, wa := true, wb := false, wc := false, ka := false, kb := false, kc := false, ty := .s32, mod := 6, xl := 0, lit := none }),
    decodes 0x2011A2C1 0x00000007 0 (.topen { uni := false, gp := 0, gn := true, d := 17, a := 32, b := 7, c := 0, wa := false, wb := false, wc := false, ka := false, kb := false, kc := false, ty := .s32, mod := 0, xl := 0, lit := none }),
    decodes 0x2011A31A 0x00010007 0x123456E6 (.tnext { uni := false, gp := 3, gn := false, d := 17, a := 32, b := 7, c := 0, wa := true, wb := false, wc := false, ka := false, kb := false, kc := false, ty := .s32, mod := 0, xl := 0, lit := some 0x123456E6 }),
    decodes 0x2011A3F1 0x00000007 0 (.tseek { uni := false, gp := 6, gn := true, d := 17, a := 32, b := 7, c := 0, wa := false, wb := false, wc := false, ka := false, kb := false, kc := false, ty := .s32, mod := 0, xl := 0, lit := none }),
    decodes 0x2000A409 0x00010007 0 (.tclose { uni := false, gp := 1, gn := false, d := 0, a := 32, b := 7, c := 0, wa := true, wb := false, wc := false, ka := false, kb := false, kc := false, ty := .s32, mod := 0, xl := 0, lit := none }),
    decodes 0x2050A4E5 0x18000007 0 (.tcnt { uni := true, gp := 4, gn := true, d := 80, a := 32, b := 7, c := 0, wa := false, wb := false, wc := false, ka := false, kb := false, kc := false, ty := .s32, mod := 6, xl := 0, lit := none }),
    decodes 0x2040A53E 0x14010007 0x123456EA (.tstat { uni := true, gp := 7, gn := false, d := 64, a := 32, b := 7, c := 0, wa := true, wb := false, wc := false, ka := false, kb := false, kc := false, ty := .s32, mod := 5, xl := 0, lit := some 0x123456EA })] : List Bool).all id = true := by decide +kernel

theorem test_decode_matrix : ([
    decodes 0x1050B051 0x02120030 0 (.mma { uni := false, gp := 2, gn := true, d := 80, a := 16, b := 48, c := 0, wa := false, wb := true, wc := false, ka := false, kb := true, kc := false, ty := .f32, mod := 0, xl := 0, lit := none }),
    decodes 0x0040B0AC 0 0 (.mflushS { uni := true, gp := 5, gn := false, d := 64, a := 0 }),
    decodes 0x0050B0C5 0x00000000 0 (.mflushL { uni := true, gp := 0, gn := true, d := 80, a := 0, b := 0, c := 0, wa := false, wb := false, wc := false, ka := false, kb := false, kc := false, ty := .s32, mod := 0, xl := 0, lit := none }),
    decodes 0x2011B119 0x00016207 0 (.kvx { uni := false, gp := 3, gn := false, d := 17, a := 32, b := 7, c := 98, wa := true, wb := false, wc := false, ka := false, kb := false, kc := false, ty := .s32, mod := 0, xl := 0, lit := none }),
    decodes 0x1050B1F5 0x00020030 0 (.qmc { uni := true, gp := 6, gn := true, d := 80, a := 16, b := 48, c := 0, wa := false, wb := true, wc := false, ka := false, kb := false, kc := false, ty := .s32, mod := 0, xl := 0, lit := none }),
    decodes 0x2000B208 0 0 (.credS { uni := false, gp := 1, gn := false, d := 0, a := 32 }),
    decodes 0x2000B261 0x02000000 0 (.credL { uni := false, gp := 4, gn := true, d := 0, a := 32, b := 0, c := 0, wa := false, wb := false, wc := false, ka := false, kb := false, kc := false, ty := .f32, mod := 0, xl := 0, lit := none })] : List Bool).all id = true := by decide +kernel

theorem test_decode_copyqueue : ([
    decodes 0x1040C03E 0x00010000 0x123456F2 (.cpk { uni := true, gp := 7, gn := false, d := 64, a := 16, b := 0, c := 0, wa := true, wb := false, wc := false, ka := false, kb := false, kc := false, ty := .s32, mod := 0, xl := 0, lit := some 0x123456F2 }),
    decodes 0x1042C0D5 0x00020707 0 (.binit { uni := true, gp := 2, gn := true, d := 66, a := 16, b := 7, c := 7, wa := false, wb := true, wc := false, ka := false, kb := false, kc := false, ty := .s32, mod := 0, xl := 0, lit := none }),
    decodes 0x1042C12D 0x00010707 0 (.barr { uni := true, gp := 5, gn := false, d := 66, a := 16, b := 7, c := 7, wa := true, wb := false, wc := false, ka := false, kb := false, kc := false, ty := .s32, mod := 0, xl := 0, lit := none }),
    decodes 0x1000C1C5 0x00000707 0 (.bwait { uni := true, gp := 0, gn := true, d := 0, a := 16, b := 7, c := 7, wa := false, wb := false, wc := false, ka := false, kb := false, kc := false, ty := .s32, mod := 0, xl := 0, lit := none }),
    decodes 0x1042C21E 0x00010007 0x123456F6 (.waitt { uni := true, gp := 3, gn := false, d := 66, a := 16, b := 7, c := 0, wa := true, wb := false, wc := false, ka := false, kb := false, kc := false, ty := .s32, mod := 0, xl := 0, lit := some 0x123456F6 }),
    decodes 0x1000C2F5 0x00020030 0 (.qpush { uni := true, gp := 6, gn := true, d := 0, a := 16, b := 48, c := 0, wa := false, wb := true, wc := false, ka := false, kb := false, kc := false, ty := .s32, mod := 0, xl := 0, lit := none }),
    decodes 0x0011C309 0x00106230 0 (.qpop { uni := false, gp := 1, gn := false, d := 17, a := 0, b := 48, c := 98, wa := false, wb := false, wc := false, ka := false, kb := true, kc := false, ty := .s32, mod := 0, xl := 0, lit := none }),
    decodes 0x1000C3E1 0x00020030 0 (.rdx { uni := false, gp := 4, gn := true, d := 0, a := 16, b := 48, c := 0, wa := false, wb := true, wc := false, ka := false, kb := false, kc := false, ty := .s32, mod := 0, xl := 0, lit := none }),
    decodes 0x0040C43E 0x10000000 0x123456FA (.qstat { uni := true, gp := 7, gn := false, d := 64, a := 0, b := 0, c := 0, wa := false, wb := false, wc := false, ka := false, kb := false, kc := false, ty := .s32, mod := 4, xl := 0, lit := some 0x123456FA })] : List Bool).all id = true := by decide +kernel

theorem test_decode_control : ([
    decodes 0x0000D056 0x00000000 0x00000104 (.bra { uni := true, gp := 2, gn := true, d := 0, a := 0, b := 0, c := 0, wa := false, wb := false, wc := false, ka := false, kb := false, kc := false, ty := .s32, mod := 0, xl := 0, lit := some 0x00000104 }),
    decodes 0x0500D0AA 0x00010000 0x00000104 (.brv { uni := false, gp := 5, gn := false, d := 0, a := 5, b := 0, c := 0, wa := true, wb := false, wc := false, ka := false, kb := false, kc := false, ty := .s32, mod := 0, xl := 0, lit := some 0x00000104 }),
    decodes 0x0500D142 0x00010000 0x00000104 (.bany { uni := false, gp := 0, gn := true, d := 0, a := 5, b := 0, c := 0, wa := true, wb := false, wc := false, ka := false, kb := false, kc := false, ty := .s32, mod := 0, xl := 0, lit := some 0x00000104 }),
    decodes 0x0500D19A 0x00010000 0x00000104 (.ball { uni := false, gp := 3, gn := false, d := 0, a := 5, b := 0, c := 0, wa := true, wb := false, wc := false, ka := false, kb := false, kc := false, ty := .s32, mod := 0, xl := 0, lit := some 0x00000104 }),
    decodes 0x0050D276 0x00000000 0x00000104 (.call { uni := true, gp := 6, gn := true, d := 80, a := 0, b := 0, c := 0, wa := false, wb := false, wc := false, ka := false, kb := false, kc := false, ty := .s32, mod := 0, xl := 0, lit := some 0x00000104 }),
    decodes 0x1000D28C 0 0 (.retS { uni := true, gp := 1, gn := false, d := 0, a := 16 }),
    decodes 0x1000D2E5 0x00000000 0 (.retL { uni := true, gp := 4, gn := true, d := 0, a := 16, b := 0, c := 0, wa := false, wb := false, wc := false, ka := false, kb := false, kc := false, ty := .s32, mod := 0, xl := 0, lit := none }),
    decodes 0x1000D33E 0x00010000 0x00000104 (.jmpi { uni := true, gp := 7, gn := false, d := 0, a := 16, b := 0, c := 0, wa := true, wb := false, wc := false, ka := false, kb := false, kc := false, ty := .s32, mod := 0, xl := 0, lit := some 0x00000104 }),
    decodes 0x0050D3D6 0x00000000 0x00000104 (.loop { uni := true, gp := 2, gn := true, d := 80, a := 0, b := 0, c := 0, wa := false, wb := false, wc := false, ka := false, kb := false, kc := false, ty := .s32, mod := 0, xl := 0, lit := some 0x00000104 }),
    decodes 0x0000D428 0 0 (.exitS { uni := false, gp := 5, gn := false, d := 0, a := 0 }),
    decodes 0x0000D441 0x00000000 0 (.exitL { uni := false, gp := 0, gn := true, d := 0, a := 0, b := 0, c := 0, wa := false, wb := false, wc := false, ka := false, kb := false, kc := false, ty := .s32, mod := 0, xl := 0, lit := none }),
    decodes 0x0000D49C 0 0 (.bar { uni := true, gp := 3, gn := false, d := 0, a := 0 }),
    decodes 0x1000D574 0 0 (.sleepS { uni := true, gp := 6, gn := true, d := 0, a := 16 }),
    decodes 0x1000D50D 0x00010000 0 (.sleepL { uni := true, gp := 1, gn := false, d := 0, a := 16, b := 0, c := 0, wa := true, wb := false, wc := false, ka := false, kb := false, kc := false, ty := .s32, mod := 0, xl := 0, lit := none }),
    decodes 0x0000D5E4 0 0 (.yield { uni := true, gp := 4, gn := true, d := 0, a := 0 }),
    decodes 0x0000D63E 0x00000000 0x80000004 (.trap { uni := true, gp := 7, gn := false, d := 0, a := 0, b := 0, c := 0, wa := false, wb := false, wc := false, ka := false, kb := false, kc := false, ty := .s32, mod := 0, xl := 0, lit := some 0x80000004 })] : List Bool).all id = true := by decide +kernel

theorem test_decode_ballot : ([
    decodes 0x1050E055 0x00000000 0 (.sgpost { uni := true, gp := 2, gn := true, d := 80, a := 16, b := 0, c := 0, wa := false, wb := false, wc := false, ka := false, kb := false, kc := false, ty := .s32, mod := 0, xl := 0, lit := none }),
    decodes 0x1040E0AD 0x1C010000 0 (.sgpoll { uni := true, gp := 5, gn := false, d := 64, a := 16, b := 0, c := 0, wa := true, wb := false, wc := false, ka := false, kb := false, kc := false, ty := .s32, mod := 7, xl := 0, lit := none }),
    decodes 0x0011E145 0x08000000 0 (.sgchk { uni := true, gp := 0, gn := true, d := 17, a := 0, b := 0, c := 0, wa := false, wb := false, wc := false, ka := false, kb := false, kc := false, ty := .s32, mod := 2, xl := 0, lit := none }),
    decodes 0x1040E19E 0x00010000 0x1234570E (.launch { uni := true, gp := 3, gn := false, d := 64, a := 16, b := 0, c := 0, wa := true, wb := false, wc := false, ka := false, kb := false, kc := false, ty := .s32, mod := 0, xl := 0, lit := some 0x1234570E }),
    decodes 0x1042E275 0x14020707 0 (.evsig { uni := true, gp := 6, gn := true, d := 66, a := 16, b := 7, c := 7, wa := false, wb := true, wc := false, ka := false, kb := false, kc := false, ty := .s32, mod := 5, xl := 0, lit := none }),
    decodes 0x1042E28D 0x14010707 0 (.evwait { uni := true, gp := 1, gn := false, d := 66, a := 16, b := 7, c := 7, wa := true, wb := false, wc := false, ka := false, kb := false, kc := false, ty := .s32, mod := 5, xl := 0, lit := none })] : List Bool).all id = true := by decide +kernel

theorem test_decode_trap : ([
    decodes 0x0000F064 0 0 (.rte { uni := true, gp := 4, gn := true, d := 0, a := 0 }),
    decodes 0x1040F0BC 0 0 (.tsbS { uni := true, gp := 7, gn := false, d := 64, a := 16 }),
    decodes 0x1050F0D5 0x00000000 0 (.tsbL { uni := true, gp := 2, gn := true, d := 80, a := 16, b := 0, c := 0, wa := false, wb := false, wc := false, ka := false, kb := false, kc := false, ty := .s32, mod := 0, xl := 0, lit := none }),
    decodes 0x0000F12C 0 0 (.haltb { uni := true, gp := 5, gn := false, d := 0, a := 0 }),
    decodes 0x0000F1C4 0 0 (.step { uni := true, gp := 0, gn := true, d := 0, a := 0 }),
    decodes 0x0000F21C 0 0 (.bkpt { uni := true, gp := 3, gn := false, d := 0, a := 0 }),
    decodes 0x1050F2F5 0x00026030 0 (.watch { uni := true, gp := 6, gn := true, d := 80, a := 16, b := 48, c := 96, wa := false, wb := true, wc := false, ka := false, kb := false, kc := false, ty := .s32, mod := 0, xl := 0, lit := none }),
    decodes 0x1040F30D 0x00056030 0 (.mbxw { uni := true, gp := 1, gn := false, d := 64, a := 16, b := 48, c := 96, wa := true, wb := false, wc := true, ka := false, kb := false, kc := false, ty := .s32, mod := 0, xl := 0, lit := none }),
    decodes 0x1050F3E5 0x00000000 0 (.mbxr { uni := true, gp := 4, gn := true, d := 80, a := 16, b := 0, c := 0, wa := false, wb := false, wc := false, ka := false, kb := false, kc := false, ty := .s32, mod := 0, xl := 0, lit := none })] : List Bool).all id = true := by decide +kernel

/-! Witnesses: states and operands that meet the hypotheses of the statements. -/

theorem witness_DecodeOfEncode : (Instr.iadd { fm with d := 5, a := 6, b := 7 }).wellFormedAt Limits.widest = true
    ∧ encode (.iadd { fm with d := 5, a := 6, b := 7 }) ≠ [] := by decide

def stAdd : State := State.reset.withFetchWord 64 0x00430007060500B9

theorem witness_StepRunsDecoded : let s := stAdd
    let x : Instr := .iadd { fm with d := 5, a := 6, b := 7, wa := true, wb := true, ty := .n32 }
    let f := (s.fetch s.cur).1
    (s.agenda = [] ∧ (s.bel.power = .d0 ∨ s.bel.power = .d0idle) ∧ s.picked = true ∧ s.mayIssue s.cur = true ∧ s.boundary s.cur = none ∧ s.fetchWaits s.cur = false
      ∧ (s.fetch s.cur).2 = .ok 0x060500B9 0x00430007 0 ∧ decodeWords ((s.team s.cur).limits f) 0x060500B9 0x00430007 0 = .ok x
      ∧ (∃ i, insOf x = some i ∧ (f.absentPage (s.team s.cur).vf ((s.team s.cur).windowVas (some i))).2 = none
        ∧ (f.absentPage (s.team s.cur).vf ((s.team s.cur).windowVas (some i))).1.missing s.cur i = true
        ∧ (f.absentPage (s.team s.cur).vf ((s.team s.cur).windowVas (some i))).1.mayEnter (s.team s.cur).core s.cur = true ∧ i.accesses = false))
    ∧ (({ st0 with agenda := [(.coldReset, Input.none)] } : State).agenda = [(.coldReset, Input.none)] ∧ insOf .coldReset = none
        ∧ st0.teamFirst (.coldReset, Input.none) = false ∧ (st0.setBel { st0.bel with power := .off }).hears .coldReset = true ∧ st0.hears .memrd = true
        ∧ (st0.setBel { st0.bel with power := .off }).hears .memrd = false ∧ (st0.setBel { st0.bel with power := .d3cold }).hears .d3hotExit = false)
    ∧ ((st0.walk (st0.team 0).vf (st0.ktext (st0.team 0) + (st0.team 0).pc.toNat) true false).2
        = .ok { sys := false, addr := 4194304, cls := 1, grain := 1, cmp := true, fn := 0 }
        ∧ ((st0.walk (st0.team 0).vf (st0.ktext (st0.team 0) + (st0.team 0).pc.toNat) true false).1.readTr
            { sys := false, addr := 4194304, cls := 1, grain := 1, cmp := true, fn := 0 } 4) = ([0, 0, 0, 0], false)
        ∧ (BitVec.ofNat 32 (leNat [0, 0, 0, 0])).toNat % 4 = 0) := by
  refine ⟨⟨by decide +kernel, by decide +kernel, by decide +kernel, by decide +kernel, by decide +kernel, by decide +kernel, by decide +kernel,
    by decide +kernel, _, rfl, by decide +kernel, by decide +kernel, by decide +kernel, by decide +kernel⟩, by decide +kernel, by decide +kernel⟩

/-- LD, which reaches memory, with no read of the Campanile under way. -/
theorem witness_StepRunsDecoded_access : (insW 0x100 fm).accesses = true ∧ stAdd.polls stAdd.cur = false := by decide +kernel

/-- The picked team stands at an MBXW of entry 0, which the host writes too. -/
theorem witness_StepRunsDecoded_lantern : let s := State.reset.withFetchWord 64 0x000560301040F30D
    s.teamFirst (.lantentHighWrite, Input.none) = true ∧ s.bel.power = .d0 := by decide +kernel

def stWord (w : Nat) : State := State.reset.withFetchWord 32 w

/-- MOVI in the S-form fails the check FORM (03 R64). -/
theorem witness_PrivilegeTraps :
    (insOf (.rte su) = some (insS 0x1E0 su) ∧ reservedToHandler (insS 0x1E0 su) = true ∧ (st0.team st0.cur).hmode = false)
    ∧ (insOf (.srd { fm with a := 20 }) = some (insW 0x021 { fm with a := 20 }) ∧ reservedToHandler (insW 0x021 { fm with a := 20 }) = true)
    ∧ ((stWord 0x00000FB8).fetchWaits (stWord 0x00000FB8).cur = false ∧ ((stWord 0x00000FB8).fetch 0).2 = .ok 0x00000FB8 0 0
        ∧ decodeWords (((stWord 0x00000FB8).team 0).limits ((stWord 0x00000FB8).fetch 0).1) 0x00000FB8 0 0 = .bad .form) := by
  decide +kernel

theorem witness_EmptyRegisters :
    let i := insW 0x001 { fm with gp := 0, d := 3, a := 1, b := 2 }
    let w := insW 0x001 { fm with gp := 0, d := 3, a := 1, b := 2, wa := true }
    let tp := (tm (fun t => t.markAll [.p 0 0])).team 0
    let ta := (tm (fun t => (t.setP 0 0 true).markAll [.v 1 0])).team 0
    let td := (tm (fun t => (t.setP 0 0 true).markAll [.v 3 0])).team 0
    insOf (.iadd i.f) = some i ∧ i.op ≠ 0x108 ∧ reservedToHandler i = false
    ∧ i.passLanes tp = none
    ∧ (i.passLanes ta = some [0] ∧ (∀ r ∈ i.written ta [0], ta.empty r = false)
        ∧ ([0].filter (fun l => (i.srcRefs ta l).any (fun r => ta.empty r.1 && !r.2))) ≠ [])
    ∧ (w.passLanes ta = some [0] ∧ (∀ r ∈ w.written ta [0], ta.empty r = false) ∧ ([0].filter (fun l => (w.srcRefs ta l).any (fun r => ta.empty r.1 && !r.2))) = []
        ∧ [0].any (fun l => (w.srcRefs ta l).any (fun r => ta.empty r.1)) = true)
    ∧ (i.passLanes td = some [0] ∧ ∃ r ∈ i.written td [0], td.empty r = true) := by
  decide +kernel

/-- The smallest and the largest element of s8x4 stand beside each other. -/
theorem witness_ElementsStayApart : (tySigned .s8x4 = true ∧ 1 < tyCount .s8x4 ∧ tyLo .s8x4 ≤ (fun j => if j = 0 then -128 else 127 : Nat → Int) 0
    ∧ (fun j => if j = 0 then -128 else 127 : Nat → Int) 0 ≤ tyHi .s8x4) ∧ tySigned .n16x2 = false := by decide +kernel

theorem witness_IntegerBinaryResults : (∃ g, intBinary (.iadd { fm with d := 3, a := 1, b := 2 }) = some (0x001, { fm with d := 3, a := 1, b := 2 }, g))
    ∧ Clear (insW 0x001 { fm with d := 3, a := 1, b := 2 }) (st0.team st0.cur) [0] :=
  ⟨⟨_, rfl⟩, by simp only [clear_iff]; decide +kernel⟩

theorem witness_BitwiseResults : (∃ g, bitwise (.shl { fm with d := 3, a := 1, b := 2 }) = some (insW 0x013 { fm with d := 3, a := 1, b := 2 }, g))
    ∧ Clear (insW 0x013 { fm with d := 3, a := 1, b := 2 }) (st0.team st0.cur) [0]
    ∧ (insW 0x013 { fm with d := 3, a := 1, b := 2 }).opb ((tm (fun t => t.setV 2 0 32)).team 0) false 0 = tyWidth .s32 :=
  ⟨⟨_, rfl⟩, by simp only [clear_iff]; decide +kernel, by decide +kernel⟩

/-- 1 / 0 raises the division flag; FPCTL's bit 5 enables it (06 R122). -/
def stFpx : State := tm (fun t => { (t.setV 1 0 0x3F800000) with fpctl := 0x1F0 })

theorem witness_LaneValueResults : let i := insW 0x048 { fm with d := 3, a := 1, b := 2, ty := .f32 }
    (∃ g, laneValue (.fdiv i.f) = some (i, g) ∧ (st0.team 0).fpx (flagsOf (laneOuts g (st0.team 0) [0])) = 0
        ∧ (stFpx.team 0).fpx (flagsOf (laneOuts g (stFpx.team 0) [0])) ≠ 0)
    ∧ Clear i (st0.team st0.cur) [0] ∧ Clear i (stFpx.team stFpx.cur) [0] :=
  ⟨⟨_, rfl, by decide +kernel, by decide +kernel⟩, by simp only [clear_iff]; decide +kernel, by simp only [clear_iff]; decide +kernel⟩

theorem witness_RegisterFrame : let i := insW 0x001 { fm with d := 4, a := 2, b := 6, ty := .n64 }
    (valueIns (.iadd i.f) = some i ∧ Clear i (st0.team st0.cur) [0] ∧ ∀ n, (st0.team st0.cur).fpx n = 0)
    ∧ (i.f.uni = false ∧ ([0, 1023] : List Nat).Nodup ∧ (∀ k ∈ [0, 1023], k < 1024) ∧ 1023 ∈ [0, 1023]) ∧ (insW 0x001 fu).f.uni = true := by
  refine ⟨⟨rfl, by simp only [clear_iff]; decide +kernel, fun n => ?_⟩, by decide +kernel, rfl⟩
  have : (st0.team st0.cur).enables = 0 := by decide +kernel
  simp [Team.fpx, this]

theorem witness_CarryConversionResults : let t := st0.team st0.cur
    Clear (insW 0x023 { fm with d := 3, a := 1, b := 2, c := 0 }) t [0]
    ∧ (Clear (insW 0x021 { fm with d := 3, a := 2, ty := .n32 }) t [0] ∧ srHandler 2 = false)
    ∧ (Clear (insW 0x021 { fm with d := 3, a := 25, ty := .n64 }) ((tm (fun t => { t with hmode := true })).team 0) [0] ∧ srHandler 25 = true)
    ∧ Clear (insS 0x04C { sm with d := 3, a := 1 }) t [0] ∧ Clear (insW 0x04C { fm with d := 3, a := 1, ty := .f32 }) t [0]
    ∧ Clear (insW 0x080 { fm with d := 3, a := 1, c := 8, ty := .s32 }) t [0]
    ∧ Clear (insW 0x081 { fm with d := 3, a := 1, b := 2, c := 8, ty := .f16x2, mod := 4 }) t [0] ∧ t.fpctl = 0 := by
  simp only [clear_iff]; decide +kernel

/-- An MMA under way, or stopped. -/
def mmaJob (stopped : Bool) : MmaJob :=
  { f := fu, pc := 0, lanes := [], keys := [], fmt := [], ra := recOf 0, rb := recOf 0, sa := none, sb := none, stopped := stopped, trapped := false,
    poison := [], step := 0, acc := [] }

theorem witness_SpecialRegisterWrites : let t := st0.team st0.cur
    (Clear (insW 0x022 { fu with d := 13, a := 1 }) t [0] ∧ srHandler 13 = false)
    ∧ (Clear (insW 0x022 { fu with d := 25, a := 1 }) ((tm (fun t => { t with hmode := true })).team 0) [0])
    ∧ (let t := (tm (fun t => { t with hmode := true })).team 0
       Clear (insW 0x022 { fu with d := 16, a := 1 }) t [0] ∧ t.mma = none)
    ∧ (∀ b ∈ [false, true], let t := (tm (fun t => { t with hmode := true, mma := some (mmaJob b) })).team 0
        Clear (insW 0x022 { fu with d := 16, a := 1 }) t [0] ∧ (t.mma = some (mmaJob b) ∧ (mmaJob b).stopped = b)) := by
  simp only [clear_iff]; decide +kernel

theorem witness_PredicateResults : let t := st0.team st0.cur
    ((∃ g, tested (.icmp { fm with d := 8, a := 1, b := 2 }) = some (insW 0x0A0 { fm with d := 8, a := 1, b := 2 }, g))
      ∧ Clear (insW 0x0A0 { fm with d := 8, a := 1, b := 2 }) t [0] ∧ t.fpctl = 0)
    ∧ Clear (insW 0x0A3 { fm with d := 3, mod := 1 }) t [0] ∧ Clear (insW 0x0A3 { fm with a := 3, mod := 2 }) t [0] :=
  ⟨⟨⟨_, rfl⟩, by simp only [clear_iff]; decide +kernel, by decide +kernel⟩, by simp only [clear_iff]; decide +kernel, by simp only [clear_iff]; decide +kernel⟩

theorem witness_ProducersSend : let t := st0.team st0.cur
    ((∃ g, producer (.shfl { fm with d := 3, a := 1, b := 2 }) = some (insW 0x0C0 { fm with d := 3, a := 1, b := 2 }, g))
      ∧ Clear (insW 0x0C0 { fm with d := 3, a := 1, b := 2 }) t [0] ∧ Clear (insW 0x0C0 { fm with gp := 0, d := 3, a := 1, b := 2 }) t [])
    ∧ (∃ g, flaggedProducer (.scanS { sm with d := 3, a := 1 }) = some (insS 0x0C4 { sm with d := 3, a := 1 }, g)
        ∧ t.fpx (flagsOf (g t [0]).1) = 0)
    ∧ Clear (insS 0x0C4 { sm with d := 3, a := 1 }) t [0] ∧ ([0] : List Nat) ≠ [] :=
  ⟨⟨⟨_, rfl⟩, by simp only [clear_iff]; decide +kernel, by simp only [clear_iff]; decide +kernel⟩, ⟨_, rfl, by decide +kernel⟩, by simp only [clear_iff]; decide +kernel, by decide⟩

/-- Two lanes, p0 true in lane 0 alone; and a team whose s1 is 8 or 2. -/
def stTwo : State := tm (fun t => { t.setP 0 0 true with nlanes := 2, mask := 3 })
def stS1 (n : Nat) : State := tm (fun t => (t.setS 1 n))

theorem witness_BranchTargets : let t := st0.team st0.cur
    (Clear (insW 0x1A0 { fu with lit := some 4 }) t [0] ∧ Clear (insW 0x1A4 { fu with d := 3, lit := some 4 }) t [0])
    ∧ (∀ i ∈ [insS 0x1A5 { su with a := 1 }, insW 0x1A5 { fu with a := 1 }], Clear i ((stS1 8).team 0) [0])
    ∧ ((stS1 8).team 0).sr 1 = 8 ∧ 8 < (stS1 8).klen ((stS1 8).team 0)
    ∧ (Clear (insW 0x1A6 { fu with a := 1, b := 2 }) ((stS1 8).team 0) [0] ∧ Clear (insW 0x1A6 { fu with a := 1, b := 2 }) ((stS1 2).team 0) [0]
        ∧ ((stS1 2).team 0).sr 1 % 4 ≠ 0 ∧ ((stS1 2).team 0).sr 2 = 0)
    ∧ (Clear (insW 0x1A7 { fu with d := 1, lit := some 4 }) ((stS1 2).team 0) [0] ∧ Clear (insW 0x1A7 { fu with d := 1, lit := some 4 }) ((stS1 1).team 0) [0]
        ∧ BitVec.ofNat 64 (((stS1 2).team 0).sr 1) - 1 ≠ 0 ∧ BitVec.ofNat 64 (((stS1 1).team 0).sr 1) - 1 = 0)
    ∧ (∀ i ∈ [insW 0x1A1 { fm with a := 0, lit := some 4 }, insW 0x1A2 { fm with a := 0, lit := some 4 }, insW 0x1A3 { fm with a := 0, lit := some 4 }],
        Clear i (stTwo.team 0) [0, 1] ∧ Clear i t [0] ∧ Clear i ((tm (fun t => t.setP 0 0 true)).team 0) [0])
    ∧ ((stTwo.team 0).pr 0 0 ≠ (stTwo.team 0).pr 0 1 ∧ t.pr 0 0 = false ∧ ((tm (fun t => t.setP 0 0 true)).team 0).pr 0 0 = true)
    ∧ Clear (insW 0x1A3 { fm with gp := 0, a := 1, lit := some 4 }) t [] := by
  simp only [clear_iff]; decide +kernel

/-- Team 0 has two lanes and, in its block, a sibling that has not arrived at the barrier. -/
def stPair : State := (stTwo.setTeam 1 { stTwo.team 0 with slot := 1, teamid := 1 }).setBlock 0 { stTwo.block 0 with teams := [0, 1] }

/-- The last lane of a team with no access pending, the first of two; a block of one team, whose barrier its arrival meets, and of two. -/
theorem witness_ExitSleepYieldBar : let t := st0.team st0.cur
    (∀ i ∈ [insS 0x1A8 sm, insW 0x1A8 fm, insS 0x1AA su, insW 0x1AA { fu with lit := some 5 }, insS 0x1AB su, insS 0x1A9 su], Clear i t [0])
    ∧ t.mma = none ∧ st0.busy st0.cur = false
    ∧ Clear (insW 0x1A8 { fm with gp := 0 }) (stPair.team stPair.cur) [0] ∧ ((stPair.team stPair.cur).removeLanes [0]).mask ≠ 0
    ∧ (let b := st0.block t.block
       (st0.setBlock t.block { b with arrived := b.arrived ++ [st0.cur] }).barrierMet t.block = true)
    ∧ (let t := stPair.team stPair.cur
       let b := stPair.block t.block
       Clear (insS 0x1A9 su) t [0] ∧ stPair.busy stPair.cur = false
         ∧ (stPair.setBlock t.block { b with arrived := b.arrived ++ [stPair.cur] }).barrierMet t.block = false) := by
  simp only [clear_iff]; decide +kernel

theorem witness_TrapInstructions : let t := st0.team st0.cur
    Clear (insW 0x1AC { fu with lit := some 9 }) t [0] ∧ Clear (insS 0x1E4 su) t [0] ∧ (0x1238 : W32).toNat % 4 ≠ 3 ∧ (3 : W32).toNat % 4 = 3 := by
  simp only [clear_iff]; decide +kernel

/-- A team with a handler for every class, and the cause of a TRAP. -/
def stHandler : State := tm (fun t => { t with trapbase := 0x1000 })
def softTrap : TrapInfo := { cls := cSOFT, sub := 7, causes := [(0, cSOFT)], pc := 0, ipc := 0, ilen := 2, key := 0, off := 0 }

theorem witness_TrapEntry : ((stHandler.team 0).hmode = false ∧ stHandler.noHandler (stHandler.team 0) softTrap.cls = false)
    ∧ (st0.team 0).hmode = false ∧ st0.noHandler (st0.team 0) softTrap.cls = true
    ∧ ((tm (fun t => { t with hmode := true })).team 0).hmode = true := by decide +kernel

theorem witness_TrapCauseFields : softTrap.cls < 16 ∧ softTrap.ilen < 4 ∧ (st0.team 0).slot < 16 ∧ (3 : W32).toNat % 4 = 3
    ∧ (st0.team st0.cur).hmode = false ∧ { fm with a := 21 }.a.toNat = 21 := by decide +kernel

theorem witness_ReturnFromTrap : let s := tm (fun t => { t with hmode := true })
    Clear (insS 0x1E0 su) (s.team s.cur) [0] ∧ (s.team s.cur).mma = none ∧ (s.team s.cur).st ≠ .parked := by
  simp only [clear_iff]; decide +kernel

theorem witness_TrapThenReturn : let s := stHandler
    (s.team s.cur).hmode = false ∧ s.noHandler (s.team s.cur) softTrap.cls = false ∧ softTrap.pc = (s.team s.cur).pc ∧ (s.team s.cur).pc &&& 3 = 0
    ∧ (s.team s.cur).mma = none ∧ (s.team s.cur).st = .active ∧ (s.block (s.team s.cur).block).dead = false
    ∧ Clear (insS 0x1E0 su) ((s.takeTrap s.cur softTrap).team s.cur) [0] := by
  simp only [clear_iff]; decide +kernel

/-- In handler mode, with s1 the WATCH word of a range, another block's range at index 1, and Lantern entry 63 assigned to function 0. -/
def stH (n : Nat) : State :=
  (tm (fun t => { (t.setS 1 n) with hmode := true })).setBel { st0.bel with lantasg := SMap.put [] 63 ((1 : W64) <<< 63) 0 }

theorem witness_HandlerInstructions :
    (∀ i ∈ [insS 0x1E1 { su with d := 3, a := 1 }, insW 0x1E1 { fu with d := 3, a := 1 }, insS 0x1E2 su, insS 0x1E3 su, insW 0x1E5 { fu with d := 3, a := 1, b := 4, c := 5 }],
      Clear i ((stH 71).team 0) [0] ∧ Clear i ((stH 72).team 0) [0] ∧ Clear i ((stH 0x801).team 0) [0])
    ∧ (let s := { stH 1 with watches := SMap.put [] 1 { Watch.blank with en := true, block := 7 } Watch.blank }
       Clear (insW 0x1E5 { fu with d := 3, a := 1, b := 4, c := 5 }) (s.team 0) [0] ∧ (s.watchOf 0 1).en = true ∧ (s.watchOf 0 1).block ≠ (s.team 0).block)
    ∧ ((stH 0x801).watchOf 0 1).en = false
    ∧ (∀ i ∈ [insW 0x1E6 { fu with d := 3, a := 1, b := 4, c := 5 }, insW 0x1E7 { fu with d := 4, a := 1 }],
        Clear i ((stH 63).team 0) [0] ∧ ((stH 63).team 0).sr 1 < 64 ∧ (stH 63).lanternOwned ((stH 63).team 0).vf 63 = true)
    ∧ (stH 63).pending 0 31 true = false := by
  simp only [clear_iff]; decide +kernel

def q0 (i : Ins) (s : State) : State × Plan × Nat :=
  s.plan i (s.team s.cur) [0] { rd := true, wr := false, width := plainWidth (decide (64 ≤ i.f.b.toNat)) i.f.ty, cls := fun _ => true, both := false }
def q1 (i : Ins) (s : State) : State × Plan × Nat :=
  s.plan i (s.team s.cur) [0] { rd := false, wr := true, width := plainWidth (decide (64 ≤ i.f.b.toNat)) i.f.ty, cls := fun _ => true, both := false }
def qa (i : Ins) (s : State) : State × Plan × Nat :=
  s.plan i (s.team s.cur) [0] { rd := i.op != 0x105, wr := true, width := amoWidth i.f.ty, cls := amoClass i.f.ty, both := true }

/-- The state an access leaves the issue in: the destinations empty, or none. -/
def gone (i : Ins) (s q : State) (empties : Bool) : State :=
  q.useFresh.issued i (if empties then (s.team s.cur).markAll (i.dstRefs 0) else s.team s.cur)

theorem witness_LoadsComplete_core : let s := stTab
    let i := insW 0x100 { fm with d := 3, a := 1, b := 0x40 }
    Clear i (s.team s.cur) [0] ∧ Settled (q0 i s).1 i (s.team s.cur) (q0 i s).2.1 4 true false ∧ ∀ a ∈ (q0 i s).2.1.accs, (s.loadPlace a.place 4).2 = 0 := by
  simp only [clear_iff, settled_iff]; decide +kernel

theorem witness_LoadsComplete_table : let s := stTab
    let t := s.team s.cur
    let i := insW 0x100 { fm with d := 3, a := 1 }
    let us := accUnits (q0 i s).2.1.accs (fun _ => []) (fun _ => 0) (fun _ => 0)
    let s0 := gone i s (q0 i s).1 true
    let v := s0.readUnits t.core (16 * t.part + t.slot) 4 us
    Clear i t [0] ∧ Settled (q0 i s).1 i t (q0 i s).2.1 4 true false ∧ us ≠ [] ∧ Roomy s0 us ∧ (∀ x ∈ v.2, x.2.2.2 = false)
      ∧ v.1.held.length = s0.held.length := by
  simp only [clear_iff, settled_iff, Roomy]; decide +kernel

theorem witness_LoadsComplete_parameters : let s := stTab
    let t := s.team s.cur
    let i := insW 0x109 { fm with d := 3, a := 1 }
    let q := s.planParam i t [0] 4
    let us := accUnits q.2.accs (fun _ => []) (fun _ => 0) (fun _ => 0)
    let s0 := gone i s q.1 true
    let v := s0.readUnits t.core (16 * t.part + t.slot) 4 us
    Clear i t [0] ∧ Settled q.1 i t q.2 4 true false ∧ us ≠ [] ∧ Roomy s0 us ∧ (∀ x ∈ v.2, x.2.2.2 = false) ∧ v.1.held.length = s0.held.length := by
  simp only [clear_iff, settled_iff, Roomy]; decide +kernel

theorem witness_StoresComplete_core : let s := stTab
    let t := s.team s.cur
    ∀ i ∈ [insW 0x101 { fm with d := 3, a := 1, b := 0x40 }, insW 0x101 { fm with d := 3, a := 1, b := 0x41 }],
      Clear i t [0] ∧ Settled (q1 i s).1 i t (q1 i s).2.1 4 false true
      ∧ t.fpx (storeConv i.f.ty (q1 i s).2.2 i.f.mod.toNat t.ftz (i.opd t i.wide 0)).2 = 0 := by
  simp only [clear_iff, settled_iff]; decide +kernel

/-- Die 0's L2 has the grain at the start of a table's first row in M. -/
def stMine (a : Nat) : State := stTab.setL2 0 (lineKey false a) { L2Line.absent with st := .m }

theorem witness_StoresComplete_table : let s := stMine 0x8000000
    let t := s.team s.cur
    let i := insW 0x101 { fm with d := 3, a := 1 }
    let val := storeConv i.f.ty (q1 i s).2.2 i.f.mod.toNat t.ftz (i.opd t i.wide 0)
    let us := accUnits (q1 i s).2.1.accs (fun _ => natLe 4 val.1) (fun _ => 0) (fun _ => 0)
    let s0 := (q1 i s).1.useFresh.issued i (t.addFlags val.2)
    let z := us.foldl (fun u x => (u.coreStore t.core x.tr x.bytes (.team s.cur t.pc i.len) x.va).1) s0
    Clear i t [0] ∧ Settled (q1 i s).1 i t (q1 i s).2.1 4 false true ∧ t.fpx val.2 = 0 ∧ us ≠ [] ∧ Roomy s0 us ∧ Owned s0 4 us
      ∧ z.held.length = s0.held.length := by
  simp only [clear_iff, settled_iff, owned_iff, Roomy]; decide +kernel

/-- The stored word of lane 0 stands at byte 0 of core 0's memory; byte 4 lies outside it. -/
theorem witness_CoreStoreFrame : let s := stTab
    let t := s.team s.cur
    let i := insW 0x101 { fm with d := 3, a := 1, b := 0x40 }
    Clear i t [0] ∧ 64 ≤ i.f.b.toNat ∧ Settled s i t (q1 i s).2.1 ((plainWidth true i.f.ty 0).getD 4) false true
    ∧ (match exec (.st i.f) s with | .next _ => true | _ => false) = true
    ∧ (∀ l ∈ [0], t.fpx (storeConv i.f.ty 0 i.f.mod.toNat t.ftz (i.opd t i.wide l)).2 = 0)
    ∧ s.coreByte t (i.f.b == 0x41) (i.memKey t 0 % 2 ^ 32) i.offset 4 = some 0 := by
  simp only [clear_iff, settled_iff]; decide +kernel

/-- The last four bytes of a block in DATA, in a frame that is not demoted, and in one that is. -/
theorem witness_BlockWriteReadsBack : let s := st0
    ((benchText + 252) % 256 + ([1, 2, 3, 4] : List Byte).length ≤ 256 ∧ s.poisoned (benchText + 252) = false ∧ s.blockHeld (benchText + 252) = false
      ∧ s.poolLow (homeDie (benchText + 252)) = false ∧ s.dlOn 0 = false ∧ (s.frameOf (benchText + 252)).slot = none)
    ∧ s.uniformHolds (benchText + 252) :=
  ⟨by decide +kernel, fun h => absurd (by decide +kernel) h⟩

theorem witness_BlockWriteReadsBack_demoted : let s := { st0 with frames := SMap.put [] (benchText / 65536) { ref := true, slot := some 0 } Frame.fresh }
    ((s.frameOf (benchText + 252)).slot = some 0 ∧ s.poisoned (benchText + 252) = false ∧ s.blockHeld (benchText + 252) = false
      ∧ s.poolLow (homeDie (benchText + 252)) = false ∧ s.dlOn 0 = false)
    ∧ s.uniformHolds (benchText + 252) :=
  ⟨by decide +kernel, fun h => absurd (by decide +kernel) h⟩

theorem witness_BlockAccessesComplete_load : let s := stTab
    let t := s.team s.cur
    let i := insW 0x102 { fm with d := 3, a := 1, b := 1, ty := .e4m3 }
    let q := s.planBlocks i t [0] false
    let us := blockUnits (pairAccs q.2.1.accs (wordLanes t [0])) (fun _ => []) (fun _ => 0)
    let s0 := gone i s q.1 true
    let v := s0.readUnits t.core (16 * t.part + t.slot) 32 us
    Clear i t [0] ∧ (match q.2.2 with | some r => scaledBytes r.enc == 32 | none => false) = true ∧ Settled q.1 i t q.2.1 32 true false ∧ us ≠ []
      ∧ Roomy s0 us ∧ (∀ x ∈ v.2, x.2.2.2 = false) ∧ v.1.held.length = s0.held.length := by
  simp only [clear_iff, settled_iff, Roomy]; decide +kernel

theorem witness_BlockAccessesComplete_store : let s := stMine 0x8010000
    let t := s.team s.cur
    let i := insW 0x103 { fm with d := 3, a := 1, b := 1, ty := .e4m3 }
    let q := s.planBlocks i t [0] true
    let us := blockUnits (pairAccs q.2.1.accs (wordLanes t [0])) (fun l => natLe 2 (i.opd t false l / 65536)) (i.opd t false)
    let s0 := gone i s q.1 false
    let k : Rest := { opc := i.op, f := i.f, len := i.len, pc := t.pc, enc := 8, ilv := 0, n := 32, ins := q.1.fresh + 1, moved := 0,
                      inside := [], out := us }
    let z := us.foldl (fun u x => (u.storeUnit t.core k (.team s.cur t.pc i.len) x).1) s0
    Clear i t [0] ∧ (match q.2.2 with | some r => r.enc == 8 && r.ilv == k.ilv && scaledBytes r.enc == 32 && !badScaleWord r.enc (i.opd t false 0 / 65536) | none => false) = true
      ∧ Settled q.1 i t q.2.1 32 false true ∧ us ≠ [] ∧ Roomy s0 us ∧ Owned s0 32 us
      ∧ z.held.length = s0.held.length := by
  simp only [clear_iff, settled_iff, owned_iff, Roomy]; decide +kernel

/-- A block of a coherent page with its scale, good, POISON, and with no storage left for it. -/
theorem witness_BlockAccessesComplete_unit : let s := stMine 0x8010000
    let i := insW 0x103 { fm with d := 3, a := 1, b := 1, ty := .e4m3 }
    let t := s.team s.cur
    let q := s.planBlocks i t [0] true
    let bad := { s with blk := SMap.put s.blk (0x8010000 / 256) { st := .poison, value := 0, nc := false } Blk.fresh }
    let full := { s with poolFree := [] }
    let w := Writer.team 0 0 1
    let k : Rest := { opc := i.op, f := i.f, len := i.len, pc := t.pc, enc := 8, ilv := 0, n := 32, ins := 1, moved := 0, inside := [], out := [] }
    (blockUnits (pairAccs q.2.1.accs (wordLanes t [0])) (fun l => natLe 2 (i.opd t false l / 65536)) (fun _ => 5)).any (fun u =>
      match u.sc with
      | some c => u.tr.cls != 0 && c.1.cls != 0 && (bad.readTr u.tr 32).2 && !(s.readTr u.tr 32).2 && !(s.readTr c.1 2).2
          && (s.storeUnit 0 k w u).2 == .done && (full.storeUnit 0 k w u).2 == .held
      | none => false) = true := by decide +kernel

theorem witness_AtomicsComplete_core : let s := stTab
    let i := insW 0x104 { fm with d := 4, a := 1, b := 0x40, ty := .n64 }
    Clear i (s.team s.cur) [0] ∧ Settled (qa i s).1 i (s.team s.cur) (qa i s).2.1 8 true true := by
  simp only [clear_iff, settled_iff]; decide +kernel

theorem witness_AtomicsComplete_table : let s := stTab
    let t := s.team s.cur
    ∀ i ∈ [insW 0x104 { fm with d := 3, a := 1, c := 0, ty := .n32 }, insW 0x105 { fm with d := 3, a := 1, ty := .n32 }, insW 0x106 { fm with d := 4, a := 1, ty := .n32 }],
      let us := accUnits (qa i s).2.1.accs (fun _ => []) (fun l => (i.amoOperands t l).1) (fun l => (i.amoOperands t l).2)
      Clear i t [0] ∧ Settled (qa i s).1 i t (qa i s).2.1 4 (i.op != 0x105) true ∧ us ≠ [] ∧ Roomy (gone i s (qa i s).1 (i.op != 0x105)) us := by
  simp only [clear_iff, settled_iff, Roomy]; decide +kernel

/-- A compare that fails, one that succeeds, and an addition. -/
theorem witness_AtomicAtCoreMemory : (st0.loadPlace (.core 0) 4).2 = 0 ∧ leNat (readMem st0.cm 0 4) = 0
    ∧ ((8 : Nat) = 8 ∧ (0 : Nat) ≠ (5 : W64).toNat) ∧ ¬((8 : Nat) = 8 ∧ (0 : Nat) ≠ (0 : W64).toNat) ∧ ¬((0 : Nat) = 8 ∧ (0 : Nat) ≠ (5 : W64).toNat) := by decide +kernel

/-- A reply of set R is on its way to the team. -/
def stPending : State :=
  { st0 with replies := [{ team := 0, dsts := [.v 1 0 5], entry := none, completes := true, bytes := 4, set := 0, trap := none }] }

/-- Core 0's L1 holds a dirty sector of a non-coherent page, and the dirty log of its function is full. -/
def stFull : State :=
  ((st0.setReg 0 oDLBASE 1).setReg 0 oDLTAIL 4096).setNc 0 0x40000 { bytes := List.replicate 32 7, dirty := 1, cmp := true }

theorem witness_FencesAndPrefetches :
    (Clear (insW 0x107 { fu with a := 0, b := 1 }) (st0.team 0) [0] ∧ ((0 : BitVec 8).toNat % 32 = 0))
    ∧ (Clear (insW 0x107 { fu with a := 1, b := 1 }) (stPending.team 0) [0] ∧ ¬((1 : BitVec 8).toNat % 32 = 0) ∧ stPending.pending 0 1 (nbit 1 4) = true
        ∧ stPending.fenceWaits 0 { fu with a := 1, b := 1 } = true)
    ∧ (Clear (insW 0x107 { fu with a := 31, b := 31, mod := 1 }) (st0.team 0) [0] ∧ st0.fenceWaits 0 { fu with a := 31, b := 31, mod := 1 } = false
        ∧ (((st0.flushNc 0 0).dropNc 0 0).syncLt 0).fenceWaits 0 { fu with a := 31, b := 31, mod := 1 } = false)
    ∧ (Clear (insW 0x107 { fu with a := 31, b := 31, mod := 1 }) (stFull.team 0) [0] ∧ stFull.fenceWaits 0 { fu with a := 31, b := 31, mod := 1 } = false
        ∧ (((stFull.flushNc 0 0).dropNc 0 0).syncLt 0).fenceWaits 0 { fu with a := 31, b := 31, mod := 1 } = true) := by
  simp only [clear_iff]; decide +kernel

/-- A verdict that accepts the batch of team 0, an instruction of two words. -/
def stVerdict : State :=
  { st0 with verdicts := [{ batch := { team := 0, vf := 0, die := 0, core := 0, op := 0x140, len := 1, f := fm, dir := 0, slot := 0, arrive := 0, lanes := [] }, out := .accepted }] }

theorem witness_TableInstructions : let s := stTab
    let t := s.team s.cur
    (∀ i ∈ [insW 0x140 { fm with d := 8, a := 16, b := 3 }, insW 0x141 { fm with d := 8, a := 16, b := 2 }, insW 0x145 { fm with d := 8, a := 16, b := 2 }, insW 0x149 { fu with d := 8, a := 16, b := 3 },
        insW 0x162 { fm with d := 8, a := 16, b := 4, c := 32 }],
      let q := s.planTable i t [0]
      Clear i t [0] ∧ q.2.fails.isEmpty = true ∧ q.2.pages.isEmpty = true ∧ (q.1.tableWatch i t [0]).isNone = true ∧ q.1.mayEnter t.core s.cur = true
        ∧ q.1.spireRoom (q.1.spireOf i t) = true)
    ∧ batched (.tlook fm) = some (insW 0x140 fm)
    ∧ (stVerdict.verdicts[0]?.map Verdict.out = some .accepted ∧ (stVerdict.team 0).skid = none ∧ (stVerdict.team 0).stepping = false ∧ (stVerdict.team 0).vBad = [])
    ∧ (let i := insW 0x148 { fm with a := 16, b := 2 }
       Clear i t [0] ∧ (s.planTable i t [0]).2.fails.isEmpty = true ∧ (s.planTable i t [0]).2.pages.isEmpty = true) := by
  simp only [clear_iff]; decide +kernel

/-- The format block of MMA in s4 to s7: f16 rows of slot 5, K = 16 (15 R259). -/
def stMma : State :=
  stTab.setTeam 0 ((((stTab.team 0).setS 4 (16 * 2 ^ 32)).setS 5 5).setS 6 5)

theorem witness_MatrixInstructions : let s := stMma
    let t := s.team s.cur
    (let i := insW 0x160 { fm with d := 32, a := 1, b := 4, kb := true, ty := .f32 }
     let q := s.planMma i t [0] (Fmt4.of ((upTo 4).map (fun j => BitVec.ofNat 64 (t.sr (4 + j)))))
     Clear i t [0] ∧ t.mma = none ∧ (s.arrayOf t.partKey).length < 2 ∧ q.2.fails.isEmpty = true ∧ q.2.pages.isEmpty = true)
    ∧ Clear (insS 0x161 { su with d := 3 }) t [0] ∧ Clear (insW 0x161 { fu with d := 3 }) t [0] := by
  simp only [clear_iff]; decide +kernel

/-- s1 names the start of the block's memory, s2 128 bytes for no other core or for core 1 of the cluster. -/
def stQmc (m : Nat) : State := tm (fun t => t.setS 2 (128 + m * 2 ^ 32))

theorem witness_CreditInstructions :
    (let i := insW 0x163 { fu with d := 3, a := 1, b := 2 }
     (Clear i ((stQmc 0).team 0) [0] ∧ qmcCheck ((stQmc 0).block 0).size 0 128 = none ∧ (upTo 4).filter (fun c => nbit 128 (32 + c) && c != 0) = [])
     ∧ (Clear i ((stQmc 2).team 0) [0] ∧ qmcCheck ((stQmc 2).block 0).size 0 (128 + 2 * 2 ^ 32) = none
        ∧ (upTo 4).filter (fun c => nbit (128 + 2 * 2 ^ 32) (32 + c) && c != 0) ≠ [] ∧ (stQmc 2).mayEnter 0 0 = true
        ∧ ((stQmc 2).team 0).sr 2 = 128 + 2 * 2 ^ 32))
    ∧ (∀ i ∈ [insS 0x164 { sm with a := 16 }, insW 0x164 { fm with a := 16, ty := .f32 }], Clear i (st0.team 0) [0]) := by
  simp only [clear_iff]; decide +kernel

/-- A copy of four bytes from the start of slot 0's table to offset 0x1000 of the block's memory, whose record stands at offset 0; s2 is 1. -/
def stCopy : State :=
  { stTab.setTeam 0 ((stTab.team 0).setS 2 1) with
      cm := writeMem stTab.cm 0 (natLe 64 (0x1000 * 2 ^ 128 + 4 * 2 ^ 256 + 1 * 2 ^ 288)) }

theorem witness_CopyListsStart : let s := stCopy
    let i := insW 0x180 { fu with d := 3, a := 1, b := 2 }
    let t := s.team s.cur
    let cs := [copyOf (leNat (wordsLe (leWords 8 (readMem s.cm 0 64))))]
    Clear i t [0] ∧ i.opbRaw t true 0 % 2 ^ 32 = 1 ∧ (s.block t.block).at 0 = 0 ∧ cpkList (s.block t.block) 0 1 = none
    ∧ s.placeOwned (.core 0) 64 = false ∧ s.qmcMeets s.cur 0 64 false = false ∧ (s.loadPlace (.core 0) 64).2 = 0 ∧ (cs.map Copy.bytes).sum ≤ 4194304
    ∧ (match (s.cpkScan t cs).2 with | .inl rs => rs.length == 1 | .inr _ => false) = true
    ∧ (s.copies.filter (fun c => c.core == t.core)).length + 1 ≤ 64 ∧ (s.cpkScan t cs).1.mayEnter t.core s.cur = true := by
  simp only [clear_iff]; decide +kernel

/-- A barrier object at offset 0 with COUNT n. -/
def stBar (n : Nat) : State := { st0 with cm := writeMem st0.cm 0 (natLe 8 n) }

theorem witness_BarrierObjects :
    (∀ op ∈ [0x181, 0x182, 0x183, 0x184], let i := insW op { fu with d := if op = 0x183 then 0 else 3, a := 1, b := 0x40 }
      let t := (stBar 1).team 0
      Clear i t [0] ∧ ((stBar 1).planBar i t [0]).fails.isEmpty = true ∧ ((stBar 1).planBar i t [0]).accs.length = 1
      ∧ (∀ a ∈ ((stBar 1).planBar i t [0]).accs, (stBar 1).placeOwned a.place 16 = false ∧ (stBar 1).qmcMeets 0 a.place.byte 16 true = false ∧ a.place.byte = 0))
    ∧ st0.busy 0 = false
    ∧ ((stBar 1).barWord 0 0 % 2 ^ 32 ≠ 0 ∧ (stBar 0).barWord 0 0 % 2 ^ 32 = 0 ∧ nfld ((stBar 0).barWord 0 1) 23 16 = 0)
    ∧ (st0.clock.toNat = 0 ∧ ((tm (fun t => t.setS 3 1)).team 0).sr 3 = 1 ∧ (st0.team 0).sr 3 = 0) := by
  simp only [clear_iff]; decide +kernel

/-- Function 0 has one queue, enabled, and its group range has one group; the team's launch has two stages. -/
def stUnits : State :=
  ((({ st0 with queues := SMap.put [] 0 { Queue.blank with en := true } Queue.blank }).setReg 0 oQRANGE (BitVec.ofNat 64 (2 ^ 16))).setReg 0 oGRANGE
    (BitVec.ofNat 64 (2 ^ 16))).setJob 0 { st0.job 0 with stages := [[], []] }

theorem witness_QueueInstructions : let s := stUnits
    let t := s.team 0
    (∀ i ∈ [insW 0x185 { fm with a := 2, b := 4 }, insW 0x186 { fm with d := 8, b := 4, c := 6 }, insW 0x188 { fu with d := 3, b := 4 }],
      Clear i t [0] ∧ s.badQueues i t [0] = [])
    ∧ (Clear (insW 0x187 { fm with a := 1, b := 2 }) t [0] ∧ t.stage < (s.job t.job).stages.length ∧ s.busy s.cur = false) := by
  simp only [clear_iff]; decide +kernel

/-- The same with team 0 grouped. -/
def stGroup : State := stUnits.setTeam 0 { stUnits.team 0 with sgid := (1 : W64) <<< 63 }

/-- The counters of EVSIG and EVWAIT lie in slot 0's table, and are 0. -/
def stEvent (v : Nat) : State := stTab.setTeam 0 ((stTab.team 0).setS 3 v)

theorem witness_GroupAndEventInstructions :
    (Clear (insW 0x1C0 { fu with d := 3, a := 1 }) (stGroup.team 0) [0] ∧ (stGroup.team 0).grouped = true ∧ stGroup.pending stGroup.cur 31 true = false)
    ∧ (Clear (insW 0x1C1 { fu with d := 3, a := 1 }) (stGroup.team 0) [0] ∧ fld (BitVec.ofNat 64 ((stGroup.team 0).sr 1)) 11 0 < stGroup.groupCount 0)
    ∧ Clear (insW 0x1C2 { fu with d := 8 }) (stGroup.team 0) [0]
    ∧ (let i := insW 0x1C4 { fu with d := 3, a := 1 }
       let q := (stEvent 0).planEvent i ((stEvent 0).team 0) true
       Clear i ((stEvent 0).team 0) [0] ∧ Settled q.1 i ((stEvent 0).team 0) q.2 8 true true ∧ q.1.pending 0 31 true = false
        ∧ accUnits q.2.accs (fun _ => []) (fun _ => i.opd ((stEvent 0).team 0) true 0) (fun _ => 0) ≠ []
        ∧ Roomy (gone i (stEvent 0) q.1 false) (accUnits q.2.accs (fun _ => []) (fun _ => i.opd ((stEvent 0).team 0) true 0) (fun _ => 0)))
    ∧ (∀ v ∈ [0, 1], let i := insW 0x1C5 { fu with d := 3, a := 1 }
       let s := stEvent v
       let q := s.planEvent i (s.team 0) false
       Clear i (s.team 0) [0] ∧ q.2.accs.length = 1 ∧ Settled q.1 i (s.team 0) q.2 8 true false
        ∧ (∀ a ∈ q.2.accs, (q.1.loadPlace a.place 8).2 = 0 ∧ leNat (q.1.loadPlace a.place 8).1 = 0) ∧ s.busy 0 = false)
    ∧ reached 0 0 = true ∧ reached 0 1 = false := by
  simp only [clear_iff, settled_iff, Roomy]; decide +kernel

/-- A request of SGCHK on its way. -/
def stPost (k : Nat) : State :=
  { stGroup with posts := [{ kind := k, team := 0, vf := 0, group := 0, sib := 0, valid := true, word := 0, sel := 0, dst := 3, pd := 0, pe := 1 }] }

theorem witness_SgchkAnswers_words :
    opOf 0x003BE13D = 0x1C2 ∧ (0x003BE13D : W32).toNat % 4 = 1
    ∧ (3 ≤ (parseWide 0x003BE13D 0x0C000000 none).mod.toNat ∧ 3 ≤ (parseWide 0x003BE13D 0x1C000000 none).mod.toNat)
    ∧ checkForm 0x1C2 Limits.widest false { parseWide 0x003BE13D 0x0C000000 none with mod := 0 } = none
    ∧ checkForm 0x1C2 Limits.widest false { parseWide 0x003BE13D 0x1C000000 none with mod := 0 } = none :=
  ⟨by decide +kernel, by decide +kernel, by decide +kernel, by decide +kernel, by decide +kernel⟩

theorem witness_SgchkAnswers : Clear (insW 0x1C2 { fu with d := 8 }) (stGroup.team 0) [0]
    ∧ ((stPost 2).posts[0]?.map Post.kind = some 2 ∧ (stPost 2).postReady 0 = true) := by
  simp only [clear_iff]; decide +kernel

/-- Queue 0 of front end 0 is enabled. -/
def stLq : State := st0.setReg 0 (oLQCFG 0) (BitVec.ofNat 64 (2 ^ 31 + 4))

theorem witness_LaunchAppends : let s := stLq
    let i := insW 0x1C3 { fu with d := 3, a := 1, b := 2 }
    let t := s.team 0
    Clear i t [0] ∧ t.sr 1 % 2 ^ 32 % 64 = 0 ∧ s.coreByte t false 0 0 256 = some 0 ∧ i.opbRaw t true 0 < 8 ∧ s.lqOn t.vf 0 = true
    ∧ s.pending 0 31 true = false ∧ s.placeOwned (.core 0) 256 = false ∧ (s.loadPlace (.core 0) 256).2 = 0
    ∧ ((s.loadPlace (.core 0) 256).1.headD 0).toNat % 16 = 0 := by
  simp only [clear_iff]; decide +kernel

theorem witness_LateRepliesLand : stPending.replies.length = 1 ∧ ∀ r ∈ stPending.replies, r.trap = none ∧ r.due ≤ stPending.clock.toNat := by decide +kernel

/-- The team is READY out of its slot. -/
def stReady : State := tm (fun t => { t with st := .ready, inSlot := false })
/-- The 512 slots of core 0 hold parked teams, and a team is READY. -/
def stCrowd : State :=
  { st0 with teams := (upTo 512).map (fun n => (n, { benchTeam 0 with part := n / 16, slot := n % 16, st := .parked, parkedAt := n }))
      ++ [(512, { benchTeam 0 with st := .ready, inSlot := false })] }

/-- A store whose grain its L2 does not own has begun, and may be tried again. -/
def stPart : State :=
  let s := after (.st { fm with d := 3, a := 1 }) stTab
  s.setTeam 0 { s.team 0 with retryAt := some 0 }

theorem witness_SlotEvents :
    ((st0.team 0).inSlot = true ∧ 255 < (st0.team 0).vregs ∧ 0 < (st0.team 0).words)
    ∧ ((stReady.readyList 0).map Prod.fst = [0] ∧ stReady.placeFor 0 0 = some 0
        ∧ (stReady.absentPage 0 (benchImage :: (stReady.team 0).windowVas (stReady.nextIns 0))).2 = none
        ∧ ((stReady.absentPage 0 (benchImage :: (stReady.team 0).windowVas (stReady.nextIns 0))).1.partialEvict 16 0 0 0 0).freeSlot 0 0 = some 0)
    ∧ (({ stReady with clock := 4096 } : State).stealFrom 1 = some 0)
    ∧ (({ st0 with clock := 63 } : State).starved 0 0 = none ∧ ({ stAdd with clock := 64 } : State).starved 0 0 = some 0)
    ∧ (let t := (tm (fun t => { t with retryAt := some 0 })).team 0; t.retryAt = some 0 ∧ t.rest = none ∧ 0 ≤ st0.clock.toNat)
    ∧ ((stPart.team 0).retryAt = some 0 ∧ (stPart.team 0).rest.isSome = true) := by decide +kernel

theorem witness_SlotEvents_eviction : (stCrowd.longestParked 0).map Prod.fst = some 0 ∧ stCrowd.evictionReady 0 0 = true
    ∧ ((leftSlot stCrowd 0).team 0).unsaved = [] ∧ ((leftSlot stCrowd 0).team 0).unsavedCtl = false := by decide +kernel

/-- The longest parked team has its control page in an image that no address translates. -/
def stStuck : State := stCrowd.setTeam 0 { stCrowd.team 0 with ctxbase := 2 ^ 50 }

theorem witness_SlotEvents_stuck : (stStuck.longestParked 0).map Prod.fst = some 0 ∧ stStuck.evictionReady 0 0 = true
    ∧ ((leftSlot stStuck 0).team 0).unsavedCtl = true := by decide +kernel

/-- Team 0 parked with a cause; c clocks have passed since. -/
def stPark (c : Cause) (n : Nat) (f : Team → Team) : State := { tm (fun t => f { t with st := .parked, cause := c }) with clock := BitVec.ofNat 64 n }

/-- No halt holds the block; a sleeper's clocks have passed; the four causes of a park are resolved. -/
theorem witness_TeamsResumeAndRetire_resume :
    ((st0.block 0).dead = false ∧ (st0.block 0).halted = false ∧ (st0.block 0).debug = false ∧ ((stPark .sleep 5 id).team 0).st = .parked)
    ∧ (let s := stPark .sleep 5 (fun t => { t with arg := 5 })
       ((s.team 0).arg - BitVec.ofNat 64 (s.team 0).parkedAt).toNat ≤ (s.clock - BitVec.ofNat 64 (s.team 0).parkedAt).toNat)
    ∧ (let s := stPark .page 0 id; s.faults = [] ∧ s.ownHolds 0 = false)
    ∧ (let s := (stPark .event 0 (fun t => { t with arg := BitVec.ofNat 64 benchImage, evTarget := 7 })).seed benchImage (natLe 8 7)
       reached (s.vword 0 (s.team 0).arg.toNat) (s.team 0).evTarget = true)
    ∧ (let s := { stPark .quota 0 (fun t => { t with quotaUsed := 3 }) with falls := SMap.put [] 0 4 0 }
       (s.team 0).arg.getLsbD 63 = false ∧ SMap.get s.falls 0 0 ≠ (s.team 0).quotaUsed)
    ∧ (let s := stPark .space 0 id; s.ownHolds 0 = false ∧ s.poolLow (homeDie (s.team 0).arg.toNat) = false) := by decide +kernel

theorem witness_TeamsResumeAndRetire_retire :
    (let s := tm (fun t => { t with mask := 0 })
     let t := s.team 0
     t.st = .active ∧ t.mask = 0 ∧ t.pend = none ∧ t.cancelPend = false ∧ t.parkNext = none ∧ t.verdict = false ∧ t.rest = none
      ∧ s.busy 0 = false ∧ s.ownHolds 0 = false)
    ∧ (stPark .cancelledPending 0 id).awaited 0 = 0
    ∧ (let s := tm (fun t => { t with st := .retired }); (s.team 0).freed = false ∧ s.awaited 0 = 0 ∧ s.busy 0 = false ∧ s.ownHolds 0 = false) := by decide +kernel

/-- The input's number is the block's: its one team ACTIVE, READY out of its slot, ACTIVE with a verdict to come, or parked by the debugger. -/
theorem witness_TeamsResumeAndRetire_debugger :
    ((st0.block st0.inp.num).teams = [0] ∧ (st0.team 0).st = .active ∧ (st0.team 0).verdict = false ∧ (st0.team 0).rest = none ∧ (st0.team 0).pend = none
      ∧ (st0.team 0).parkNext = none ∧ (st0.team 0).cancelPend = false ∧ (stReady.team 0).st = .ready)
    ∧ ((tm (fun t => { t with verdict := true })).team 0).verdict = true ∧ (1 ∉ (st0.block st0.inp.num).teams)
    ∧ (let s := stPark .debug 0 id
       (s.block s.inp.num).dead = false ∧ (s.block s.inp.num).halted = false ∧ (∀ i ∈ (s.block s.inp.num).teams, (s.team i).block = s.inp.num)
        ∧ (s.team 0).cause = .debug) := by decide +kernel

/-- A launch of one block that has not been placed, and one whose blocks are gone; words as 19 R304 lays them. -/
def stLaunch : State :=
  { st0 with jobs := [(0, { Job.blank with words := [0, BitVec.ofNat 64 benchText, 0xFFFFFFFC, 0x0001000100000001], phase := .started })], teams := [], blocks := [] }
/-- Its front end's turn on cluster 0 is over, and front end 1 wants it. -/
def stTurn : State :=
  { stLaunch with jobs := [(0, { Job.blank with fn := 1, words := [0, BitVec.ofNat 64 benchText, 0xFFFFFFFC, 0x0001000100000001], phase := .started })],
                  regs := SMap.put (SMap.put stLaunch.regs (65536 + oPTROOT) 1 0) (65536 + oCTXSIZE) 0x10000000 0,
                  clusters := SMap.put [] 0 { Cluster.blank with holder := some 0 } Cluster.blank }

/-- Block 0, one team and no scratch, has left its cluster; its launch is started. -/
def stAway : State :=
  { (stLaunch.setBlock 0 { st0.block 0 with saved := some (0, [], []) }).setTeam 0 { st0.team 0 with st := .ready, inSlot := false } with
      jobs := [(0, { stLaunch.job 0 with nextBlock := 1 })] }

/-- A block of the grid that has its spot, and a block that comes back. -/
theorem witness_BlocksArePlaced : stLaunch.placesNext = some 0
    ∧ (match stLaunch.spot 0 none with | some p => p.out.isEmpty && (match p.what with | .grid k => k == 0 && p.images.length == 1 | _ => false) | none => false) = true
    ∧ stAway.placesNext = some 0
    ∧ (match stAway.spot 0 none with | some p => (match p.what with | .back b => b == 0 | _ => false) | none => false) = true := by decide +kernel

/-- A bucket of one entry stands ready for stage 1. -/
def stBucket : State :=
  { stLaunch with jobs := [(0, { stLaunch.job 0 with
      nextBlock := 1, stages := [[8 * 2 ^ 32]], ready := [(1, [{ job := 0, stage := 1, key := 5, val := 7, team := 0, die := 0, at_ := 0 }])] })] }

theorem witness_BlocksArePlaced_bucket : stBucket.placesNext = some 0
    ∧ (match stBucket.spot 0 none with
       | some p => (match p.what with | .later k es => k == 1 && es.length == 1 && p.images.length == 1 | _ => false) | none => false) = true := by decide +kernel

/-- On cluster 0, where it is front end 1's turn, a block of front end 0 stands in the way of one that needs nearly all core memory; its one team is as in `s`. -/
def stHeld (s : State) : State :=
  { s with
    blocks := [(0, { st0.block 0 with cluster := 0, base := 256, size := 16 })]
    clusters := (upTo 24).map (fun c => (c, { Cluster.blank with holder := some (if c = 0 then 1 else 2) }))
    jobs := s.jobs ++ [(1, { Job.blank with
      fn := 1, words := [6142 * 2 ^ 43, BitVec.ofNat 64 benchText, 0xFFFFFFFC, 0x0001000100000001], phase := .started })]
    regs := SMap.put (SMap.put s.regs (65536 + oPTROOT) 1 0) (65536 + oCTXSIZE) 0x10000000 0 }

/-- A block must leave first, and is saved; its team's control page can not be written, and it stays. -/
theorem witness_BlocksArePlaced_out :
    (let s := stHeld stReady
     s.placesNext = some 1 ∧ (s.spot 1 none).map Spot.out = some [0] ∧ ((s.saveBlock 0).block 0).saved.isNone = false)
    ∧ (let s := stHeld (tm (fun t => { t with ctxbase := 2 ^ 50 }))
       s.placesNext = some 1 ∧ (s.spot 1 none).map Spot.out = some [0] ∧ ((s.saveBlock 0).block 0).saved.isNone = true) := by decide +kernel

/-- The holder's slice has passed and front end 1 wants the cluster; none does. -/
theorem witness_BlocksArePlaced_turns :
    (let s := { stTurn with time := 10 ^ 15 }
     (s.clusterAt 0).holder = some 0 ∧ (s.clusterAt 0).since + s.slice 0 ≤ s.time ∧ s.nextWanting 0 0 = some 1)
    ∧ (let s := { stTurn with clusters := SMap.put [] 0 { Cluster.blank with holder := some 1 } Cluster.blank, time := 10 ^ 15 }
       (s.clusterAt 0).holder = some 1 ∧ (s.clusterAt 0).since + s.slice 1 ≤ s.time ∧ s.nextWanting 1 0 = none) := by decide +kernel

/-- Queue 0 at 0x500000 of 16 slots, its tail word at 0x600000 read as 1; its first descriptor is a launch, or a command of type t. -/
def stQueue (w0 : Nat) : State :=
  { ((((stLq.setReg 0 (oLQBASE 0) 0x500000).setReg 0 (oLQTAILA 0) 0x600000).seed 0x600000 (natLe 8 1)).seed 0x500000
      (natLe 8 (128 + w0))) with tails := SMap.put [] (feKey 0 0) 1 0 }
/-- A descriptor of type t that waits, its counters met. -/
def stCmd (t : Nat) (ws : List W64) : State :=
  { st0 with jobs := [(0, { Job.blank with words := BitVec.ofNat 64 t :: ws, met := true })] }

theorem witness_FrontEndEvents_tail : (stQueue 0).feFree 0 0 = true ∧ ((stQueue 0).feRead 0 0x600000 8).2 = .ok (natLe 8 1)
    ∧ (stQueue 0).regN 0 (oLQTAILA 0) = 0x600000 ∧ (stQueue 0).appends = [] := by decide +kernel

/-- A descriptor without OWN, one that a check rejects, and a command that none does. -/
theorem witness_FrontEndEvents_consume :
    (∀ w ∈ ([2 ^ 64 - 128, 0, 4] : List Nat), (stQueue w).consumeReady 0 0 = true ∧ (stQueue w).lqSlot 0 0 ((stQueue w).regN 0 (oLQHEAD 0)) = 0x500000
      ∧ (match ((stQueue w).feRead 0 0x500000 256).2 with | .ok _ => true | _ => false) = true)
    ∧ (match ((stQueue (2 ^ 64 - 128)).feRead 0 0x500000 256).2 with | .ok bs => !nbit (leNat (bs.take 8)) 7 | _ => false) = true
    ∧ (let q := (stQueue 0).feRead 0 0x500000 256
       (match q.2 with | .ok bs => nbit (leNat (bs.take 8)) 7 && q.1.descStatus 0 (leWords 32 bs) != 0 | _ => false) = true)
    ∧ (let q := (stQueue 4).feRead 0 0x500000 256
       (match q.2 with
        | .ok bs =>
          let w := leWords 32 bs
          let x := q.1.descTables 0 0 w
          nbit (leNat (bs.take 8)) 7 && q.1.descStatus 0 w == 0 && (match x.2 with | .inl e => e.2 == 0 | .inr _ => false)
            && (match (x.1.feWrite 0 (x.1.lqSlot 0 0 (x.1.regN 0 (oLQHEAD 0))) (natLe 8 (setFld (dw w 0) 7 7 0).toNat)).2 with | .ok _ => true | _ => false)
        | _ => false) = true) := by decide +kernel

/-- A descriptor that carries sibling 3 of its group, alone. -/
theorem witness_FrontEndEvents_jobs :
    ((stCmd 0 []).headOfQueue 0 = true ∧ (stCmd 0 []).jobWaits 0 = false
        ∧ (match ((stCmd 0 []).waitCheck ((stCmd 0 []).job 0)).2 with | .inl b => b | .inr _ => false) = true)
    ∧ (stCmd 0 []).startReady 0 0 = true
    ∧ (let s := stCmd (2 * 2 ^ 14) ((upTo 9).map (fun _ => (0 : W64)) ++ [0x300000000])
       s.startReady 0 0 = true ∧ (s.job 0).sgmode ≠ 0 ∧ (s.job 0).carries 3 = true)
    ∧ (let s := stLaunch.setJob 0 { stLaunch.job 0 with nextBlock := 1 }
       s.completionReady 0 = true ∧ fld ((s.job 0).word 8) 56 0 = 0) := by decide +kernel

def stMmaRun : State := after (.mma { fm with d := 32, a := 1, b := 4, kb := true, ty := .f32 }) stMma
def stCred : State := after (.credS { sm with a := 16 }) st0
def stCopyRun : State := after (.cpk { fu with d := 3, a := 1, b := 2 }) stCopy
def stQmcRun : State := after (.qmc { fu with d := 3, a := 1, b := 2 }) (stQmc 2)
def stPush : State := after (.qpush { fm with a := 2, b := 4 }) stUnits
def stPop : State := after (.qpop { fm with d := 8, b := 4, c := 6 }) stUnits
def stStat : State := after (.qstat { fu with d := 3, b := 4 }) stUnits
def stHead : State := after (.qpop { fm with d := 8, b := 4, c := 6 }) { stUnits with queues := SMap.put [] 0 { Queue.blank with en := true, head := [7] } Queue.blank }
def stRdx : State := after (.rdx { fm with a := 1, b := 2 }) stUnits

/-- A deposit in a bucket of two lanes whose FLUSH is 1 clock. -/
def stDep : State :=
  after (.rdxDepositArrival 0) { stRdx with jobs := [(0, { stRdx.job 0 with words := 2 ^ 17 :: (stRdx.job 0).words.drop 1, stages := [[0, 8 * 2 ^ 32 + 1], []] })] }

/-- A copy from the block's memory into the first row of slot 0's table has started. -/
def stCopyOut : State :=
  after (.cpk { fu with d := 3, a := 1, b := 2 }) { stCopy with cm := writeMem stTab.cm 0 (natLe 64 (1 + 0x1000 * 2 ^ 64 + 4 * 2 ^ 256 + 1 * 2 ^ 288)) }

/-- The one request may perform its row, whose bytes are found; its L2 lacks what it writes, or it does not. -/
def rowGoes (s : State) (waits : Bool) : Bool :=
  match s.copies with
  | [c] =>
    let x := (s.quiet (c.core + 1)).copySource c 0
    let q := x.1.copyRead c x.2
    s.copyOfId c.id == some c && s.copyReady c.id && c.todo == [0] && !c.qmc
      && (match q.2 with | .inl bs => (s.trialWaits (q.1.copyWrite c 0 bs 0) c.vf).isSome == waits | .inr _ => false)
  | _ => false

theorem witness_EngineEvents :
    (stMmaRun.arrayOf 0 = [0] ∧ stMmaRun.mmaWaits 0 = false)
    ∧ (stCred.credRound 0 = some 0 ∧ ∀ d ∈ (stCred.block 0).cred, d.round = 0 ∧ d.lanes ≠ [])
    ∧ rowGoes stCopyRun false = true ∧ rowGoes stCopyOut true = true
    ∧ (∀ c ∈ stQmcRun.copies, stQmcRun.copyOfId c.id = some c ∧ stQmcRun.copyReady c.id = true ∧ c.todo = [1] ∧ c.qmc = true)
    ∧ stQmcRun.copies.length = 1 := by decide +kernel

theorem witness_EngineEvents_push : stPush.pushReady 0 = true ∧ stPush.qreqs.length = 1
    ∧ ∀ r ∈ stPush.qreqs,
        let s0 := (stPush.quiet 0).refill 64 r.queue
        let q := s0.queue r.queue
        let x := s0.pushFinds 0 r
        let y : State := { x.1.setQueue r.queue { q with head := q.head ++ [r.val], pushes := q.pushes + 1 } with qreqs := dropAt x.1.qreqs 0 }
        let e := (if y.qreqs.any (fun e => e.kind == 0 && e.ins == r.ins) then y else y.account r.team 1 0 0).wakeHeld r.team
        q.refilling = false ∧ x.2 = .head ∧ stPush.trialWaits e r.vf = none := by decide +kernel

theorem witness_EngineEvents_queues :
    (stStat.popReady 0 = true ∧ stStat.qreqs.map QReq.kind = [2])
    ∧ (stPop.popReady 0 = true ∧ stPop.qreqs.map QReq.kind = [1] ∧ (((stPop.quiet 0).refill 64 0).queue 0).head = [])
    ∧ (stHead.popReady 0 = true ∧ stHead.qreqs.map QReq.kind = [1] ∧ (((stHead.quiet 0).refill 64 0).queue 0).head = [7])
    ∧ (stRdx.depositReady 0 = true ∧ stRdx.deposits.length = 1)
    ∧ ({ stDep with clock := 1 } : State).flushDue 0 1 0 = true
    ∧ (({ st0 with teams := [], jobs := [(0, { st0.job 0 with stages := [[]] })] } : State).stageDrained 0 1 = true) := by decide +kernel

/-- A lookup of table 3, and an insertion whose lines its Spire's L2 lacks, have reached their Spire; a group that is open. -/
def stBatch : State := after (.tlook { fm with d := 8, a := 16, b := 3 }) stTab
def stInsert : State := after (.tins { fm with d := 8, a := 16, b := 3, mod := 4 }) stTab
def stOpen : State := { stUnits with groups := SMap.put [] 0 { Group.blank with st := 1, n := 1, q := 1, posted := 1 } Group.blank }
/-- One decided with sibling 0 cancelled: its KV slot holds no key, or one of that sibling. -/
def stDecided : State :=
  { stTab with groups := SMap.put [] 0 { Group.blank with st := 2, n := 1, q := 1, cancelled := 1, kven := 1, kv0 := 4, kvdir := 0x500000 } Group.blank }
def stKeyed : State :=
  match (stDecided.record 0 0x500000 4).2 with
  | .ok r => (stDecided.seed 0x9200000 (natLe 8 1)).setTable 0 0x9200000 ((Table.format r).addKey 5 0)
  | _ => stDecided

theorem witness_SpireAndCampanileEvents :
    (stBatch.batches.length = 1 ∧ stBatch.spireReady 0 = true
      ∧ ∀ b ∈ stBatch.batches, stBatch.trialWaits (spBatch b (stBatch.quiet (Config.cores + 1 + (b.target stBatch).2))).s b.vf = none ∧ (spBatch b (stBatch.quiet (Config.cores + 1 + (b.target stBatch).2))).out = .accepted)
    ∧ (stInsert.batches.length = 1 ∧ stInsert.spireReady 0 = true
      ∧ ∀ b ∈ stInsert.batches, (stInsert.trialWaits (spBatch b (stInsert.quiet (Config.cores + 1 + (b.target stInsert).2))).s b.vf).isSome = true)
    ∧ ((stPost 1).postReady 0 = true ∧ (stPost 1).posts.map Post.kind = [1]) ∧ stOpen.allFinished 0 = true := by decide +kernel

theorem witness_SpireAndCampanileEvents_release :
    (stDecided.releaseReady 0 0 = true ∧ stDecided.trialWaits ((stDecided.quiet 0).releaseSlots 4 0 0) 0 = none)
    ∧ (stKeyed.releaseReady 0 0 = true ∧ (stKeyed.trialWaits ((stKeyed.quiet 0).releaseSlots 4 0 0) 0).isSome = true) := by decide +kernel

theorem witness_CommandEvents :
    (let s := stCmd 1 [0x500000, 0, BitVec.ofNat 64 (recBits 0 0 0 0 0 0 0 64 0x8000000), BitVec.ofNat 64 (recBits 0 0 0 0 0 0 0 64 0x8000000 / 2 ^ 64),
        BitVec.ofNat 64 (recBits 0 0 0 0 0 0 0 64 0x8000000 / 2 ^ 128), BitVec.ofNat 64 (recBits 0 0 0 0 0 0 0 64 0x8000000 / 2 ^ 192)]
     let w := s.feWrite 0 0x500000 (wordsLe (((s.job 0).words.drop 3).take 5))
     s.startReady 0 1 = true ∧ (match w.2 with | .ok _ => true | _ => false) = true ∧ (match (w.1.record 0 0x500000 0).2 with | .ok _ => true | _ => false) = true)
    ∧ ((stCmd 2 []).startReady 0 2 = true ∧ (stCmd 2 []).qreqs = [] ∧ ((stCmd 2 []).queue 0).ringLen = 0)
    ∧ (stCmd 3 []).startReady 0 3 = true ∧ (stCmd 4 []).startReady 0 4 = true
    ∧ ((stCmd 5 []).startReady 0 5 = true ∧ (stCmd 5 []).groupCount 0 = 0)
    ∧ (let s := { stUnits with jobs := [(0, { Job.blank with words := [5, 0, 0, 0, 0x700000], met := true })] }
       s.startReady 0 5 = true ∧ (s.job 0).groupNo < s.groupCount 0 ∧ (s.group 0).st = 0
        ∧ (match (s.feWrite 0 0x700000 blankRecords).2 with | .ok _ => true | _ => false) = true)
    ∧ (let s := { stOpen with jobs := [(0, { Job.blank with words := [6], met := true })] }
       s.startReady 0 6 = true ∧ (s.job 0).groupNo < s.groupCount 0 ∧ (s.group 0).st = 1)
    ∧ (let s := { st0 with jobs := [(0, { Job.blank with words := [6], met := true, phase := .started })] }
       s.freeReady 0 = true ∧ (s.group (s.groupKey 0 0)).st = 0) := by decide +kernel

/-- The input names function 0 with a value. -/
def stIn (v : W64) : State := { st0 with inp := { Input.none with value := v } }
def aFault : FaultRec := { faultRec 0 1 1 false 0 0 0 0 0x700000 (.team 0) with written := true }

theorem witness_WindowCommands :
    (let s := { stIn (2 * 2 ^ 32) with faults := [aFault] }
     firstIdx (fun r => r.fn == 0 && r.written && r.seq == fld s.inp.value 31 0) s.faults = some 0 ∧ s.faults[0]? = some aFault ∧ fld s.inp.value 35 32 ≤ 2)
    ∧ (let s := { st0 with invs := [(0, 0, 1)] }
       firstIdx (fun (e : Nat × W64 × W64) => e.1 == 0) s.invs = some 0 ∧ s.invs[0]? = some (0, 0, 1) ∧ s.invReady 0 = true) := by decide +kernel

def aHeld : Held :=
  { fn := 0, parts := [{ sys := false, addr := 0x700000, bytes := [1], cmp := true }], writer := .l2, since := 0, log := false, va := 0x700000, op := .put }
/-- Die 0's pool is at 10 frames, its watermarks high and low at h. -/
def stPool (h : W64) : State :=
  { ((st0.setReg 0 (oPOOLHIGH 0) h).setReg 0 (oPOOLLOW 0) h).setReg 0 (oPOOLFLOOR 0) 1 with poolFree := SMap.put st0.poolFree 0 10 0 }

theorem witness_MemoryControllerEvents :
    (st0.dmBytes ≤ 576 * 2 ^ 30 ∧ 576 * 2 ^ 30 - 1 < st0.dmBytes ∧ st0.ownerOf 0x700000 = some 0)
    ∧ (({ st0 with held := [aHeld] } : State).heldNext 0 = some 0
        ∧ ({ st0 with held := [aHeld] } : State).logShort 0 (({ st0 with held := [aHeld] } : State).heldParts aHeld) = false)
    ∧ (({ st0 with held := [aHeld], time := 10 ^ 12 } : State).heldLate 0 = some 0)
    ∧ (let s := { tm (fun t => { t with st := .parked, cause := .quota }) with time := 10 ^ 12, faults := [aFault] }
       s.quotaExpired 0 = true ∧ s.faults.find? (fun r => r.waiter == .team 0) = some aFault)
    ∧ (let s := { st0 with discards := [(0, 0x700000)] }
       firstIdx (fun (d : Nat × W64) => d.1 == 0) s.discards = some 0 ∧ s.discards[0]? = some (0, 0x700000) ∧ s.discardReady 0 = true
        ∧ (s.discardRange 0 0x700000).2 ≤ (s.discardFrames 65537 0 (s.discardRange 0 0x700000).1 (s.discardRange 0 0x700000).2).2)
    ∧ ((stPool 11).roundDue 0 = true ∧ ((stPool 11).recompact 0).poolShort 0 = false)
    ∧ ((stPool 1000).roundDue 0 = true ∧ ((stPool 1000).recompact 0).poolShort 0 = true)
    ∧ ({ st0 with rounds := SMap.put [] 0 { active := true, waiting := true, since := 0 } Round.idle } : State).balwaitOver 0 = true
    ∧ ({ st0 with frames := SMap.put [] 112 { ref := true, slot := some 0 } Frame.fresh } : State).promotionDue 112 = true := by decide +kernel

/-- A message about the 128-byte grain at 0x700000 of die 0, for no core or for core 0. -/
def msg (core : Nat) (g : L2St) : CohMsg :=
  { die := 0, grain := 0x700000, size := 128, sys := false, colour := 0, core := core, grant := g, dirty := false, op := 0, ty := .n32, addr := 0x700000, x := 0, y := 0 }
/-- Die 0's L2 holds the grain in a state, and the directory has a state with die 0 its owner. -/
def stLine (x : L2St) (d : DirSt) : State :=
  (st0.setL2 0 (msgKey (msg 0 .s)) { L2Line.absent with st := x }).setDir (msgKey (msg 0 .s)) { DirLine.absent with st := d }
/-- A read of the grain, or a back-invalidation of its 512 bytes, is in progress at its home. -/
def stReads : State := { stLine .m .em with coh := { (stLine .m .em).coh with txns := [{ req := .rds (msg 0 .s), grain := 0x700000, waits := 1 }] } }
def stBi : State := { st0 with coh := { st0.coh with txns := [{ req := .bi (msg 0 .s), grain := 0x700000, waits := 1 }] } }

/-- Its L2 has the grain for it. -/
def stCopyPend : State := stCopyOut.setL2 0 (lineKey false 0x8000000) { L2Line.absent with st := .m, size := 128 }

/-- The grant of the grain is on its way to die 0. -/
def stComing (g : L2St) : State := { st0 with coh := { st0.coh with net := [.data (msg 0 g)] } }

/-- A WB of a grain that its L2 holds dirty, its home knowing it as owner or not; of one already lost, whose home still waits for it or does not. -/
theorem witness_CoherenceMessages_wb : let m := msg 0 .s
    let sent (s : State) : State := { s with coh := { s.coh with net := [.wb m] } }
    (((stLine .m .em).takeMsg (.wb m)).l2 0 (msgKey m)).st = .m ∧ (((stLine .m .em).takeMsg (.wb m)).dirAt (msgKey m)).st = .em
    ∧ (((stLine .m .em).takeMsg (.wb m)).dirAt (msgKey m)).owner = m.die
    ∧ ((((stLine .m .s).takeMsg (.wb m)).l2 0 (msgKey m)).st = .m ∧ (((stLine .m .s).takeMsg (.wb m)).dirAt (msgKey m)).st = .s)
    ∧ (let s := sent (stLine .i .em)
       ((s.takeMsg (.wb m)).l2 0 (msgKey m)).st = .i ∧ ((s.takeMsg (.wb m)).dirAt (msgKey m)).st = .em ∧ s.coh.net.contains (.wb m) = true)
    ∧ ((((stLine .i .i).takeMsg (.wb m)).l2 0 (msgKey m)).st = .i ∧ (stLine .i .i).coh.net.contains (.wb m) = false) := by decide +kernel

theorem witness_CoherenceMessages_snoops : let m := msg 0 .s
    (st0.snoopWaits m = false ∧ ((stLine .e .em).takeMsg (.snps m)).probed m = true ∧ ((stLine .i .i).takeMsg (.snps m)).probed m = false)
    ∧ stCopyPend.snoopWaits { m with grain := 0x8000000 } = true
    ∧ (st0.biWaits m = false ∧ (stComing .e).biWaits m = true)
    ∧ (((((stLine .i .i).takeMsg (.poison m)).endFill (dieKey m.die (msgKey m))).l2 m.die (msgKey m)).st = .i ∧ ((((stLine .m .em).takeMsg (.poison m)).endFill (dieKey m.die (msgKey m))).l2 m.die (msgKey m)).st ≠ .i) := by
  decide +kernel

/-- An answer for an engine or of ownership, and one for a core that reads; the answer to a back-invalidation, to no read, and to a read from the owner. -/
theorem witness_CoherenceMessages_answers : let m := msg 0 .s
    (Config.cores ≤ (msg 96 .s).core ∧ (msg 95 .m).core < Config.cores ∧ (msg 95 .m).grant = .m ∧ m.core < Config.cores ∧ m.grant ≠ .m
        ∧ (stComing .e).coh.voided.contains (dieKey m.die (msgKey m)) = false
        ∧ ({ stComing .e with coh := { (stComing .e).coh with voided := [dieKey m.die (msgKey m)] } } : State).coh.voided.contains (dieKey m.die (msgKey m)) = true)
    ∧ ((stBi.takeMsg (.rsp m)).biInProgress m = true ∧ { m with size := 512 }.size = 512)
    ∧ ((st0.takeMsg (.rsp m)).biInProgress m = false ∧ (st0.takeMsg (.rsp m)).readsGrain m = false)
    ∧ ((stReads.takeMsg (.rsp m)).biInProgress m = false ∧ (stReads.takeMsg (.rsp m)).readsGrain m = true
        ∧ ((stReads.takeMsg (.rsp m)).dirAt (msgKey m)).st = .em ∧ ((stReads.takeMsg (.rsp m)).dirAt (msgKey m)).owner = m.die) := by decide +kernel

/-- A copy under way writes host memory, its L2 having the line: the leaf of its table's page names the system space (21 R331). -/
def stSysCopy : State :=
  (stCopyOut.seed benchNode (natLe 8 0x26CF)).setL2 0 (lineKey true 0x8000000) { L2Line.absent with st := .m, size := 32 }

/-- The same of a line of a peer's memory. -/
def stPeerCopy : State :=
  (stCopyOut.seed benchNode (natLe 8 (0x26CF + 2 ^ 51))).setL2 0 (lineKey true (2 ^ 51 + 0x8000000)) { L2Line.absent with st := .m, size := 32 }

/-- The hub owns line 0 of host memory. -/
def stOwned : State := st0.setHub 0 { dies := 1, owned := true }

/-- The host has been asked for the line at 0x700000, which a peer reads. -/
def stAsked : State := { st0 with coh := { st0.coh with txns := [{ req := .memrd, grain := 0x700000, waits := 1 }] } }

theorem witness_HostLineEvents :
    ((stOwned.hubLine 0).owned = true ∧ (st0.hubLine 0).owned = false ∧ st0.hostWaits true 0 = false ∧ stSysCopy.hostWaits true 0x8000000 = true)
    ∧ (stReads.coh.txns.find? (txnOfLine 0x700000)).any (fun t => (reqOf t.req).isSome) = true
    ∧ (stAsked.coh.txns.find? (txnOfLine 0x700000)).any (fun t => (reqOf t.req).isNone) = true
    ∧ st0.coh.txns.find? (txnOfLine 0) = none
    ∧ (nbit (2 ^ 51) 51 = true ∧ st0.hostWaits true (2 ^ 51) = false ∧ ((st0.setHub (2 ^ 51) { dies := 1, owned := true }).hubLine (2 ^ 51)).owned = true
        ∧ (st0.hubLine (2 ^ 51)).owned = false ∧ stPeerCopy.hostWaits true (2 ^ 51 + 0x8000000) = true)
    ∧ (nbit (2 ^ 51 - 1) 51 = false) := by decide +kernel

/-- A port is up, with a request of a line of function 0's window, or of none. -/
def stPort (a : Nat) : State :=
  (({ st0 with inp := { Input.none with link := { Input.none.link with addr := a } } } : State).train 0 0xFFFFFFFF).setPort 0 { lanes := 16, up := true, replays := 0, fails := 8 }

theorem witness_LinkAccessesAndPorts :
    ((stPort 0x700000).port 0).up = true ∧ (stPort (2 ^ 51 - 1)).linkAddr (stPort (2 ^ 51 - 1)).inp.link = none ∧ nbit (2 ^ 51 - 1) 51 = false
    ∧ ((stPort 0x700000).linkAddr (stPort 0x700000).inp.link = some 0x700000 ∧ (stPort 0x700000).homeBusy 0x700000 = false
        ∧ (stPort 0x700000).poisoned 0x700000 = false)
    ∧ (let s := stPort 0x700000
       let u := s.setHost 0x700000 3 (some true)
       (s.hostPorts (0x700000 / 64 * 64) 64 true).filter (fun q => q != hostPort s.inp.link.port) = []
        ∧ (s.hostPorts (0x700000 / 64 * 64) 64 false).filter (fun q => q != hostPort s.inp.link.port) = []
        ∧ (u.hostPorts (0x700000 / 64 * 64) 64 true).filter (fun q => q != hostPort u.inp.link.port) ≠ []
        ∧ (u.hostPorts (0x700000 / 64 * 64) 64 false).filter (fun q => q != hostPort u.inp.link.port) ≠ [] ∧ u.homeBusy 0x700000 = false
        ∧ ({ s with coh := { s.coh with txns := [{ req := .memrd, grain := 0x700000, waits := 1 }] } } : State).homeBusy 0x700000 = true)
    ∧ ({ stPort 0x700000 with blk := SMap.put st0.blk (0x700000 / 256) { Blk.fresh with st := .poison } Blk.fresh } : State).poisoned 0x700000 = true
    ∧ ((stPort 0).inp.ok = true ∧ (stPort 0).inp.link.sealed = false ∧ 8 ≤ ((stPort 0).port 0).fails ∧ ((st0.train 0 1).port 0).fails < 8)
    ∧ st0.inp.num < 8 := by decide +kernel

/-- Function 1's interface in state n; function 0's only team stands. -/
def stTdisp (n : Nat) : State := ({ st0 with inp := { Input.none with fn := 1 } } : State).setTdisp 1 n

theorem witness_TdispAndSpdmRequests_interface :
    ((stTdisp 0).tdispOn 1 = true ∧ (stTdisp 0).ifst 1 = 0 ∧ (stTdisp 0).fnLive 1 = false ∧ (stTdisp 0).fnStarted 1 = false)
    ∧ ((stTdisp 1).ifst 1 = 1 ∧ (stTdisp 1).tdispOn 1 = true)
    ∧ (((stTdisp 2).scrub 1 0).2 = none ∧ (stTdisp 2).tdispOn 1 = true) := by decide +kernel

/-- Port 0 carries SPDM; a requester that offers SM3; session 0 in state n on it, its share 5. -/
def stSpdm (n : Nat) : State :=
  ((({ st0 with inp := { Input.none with partner := { Input.none.partner with offers := { Input.none.partner.offers with sm3 := true } } } } : State).setPort 0
    { lanes := 16, up := true, replays := 0, fails := 0 }).setSession 0 { port := 0, st := n, share := 5, epoch := 0 })

theorem witness_TdispAndSpdmRequests :
    ((stSpdm 0).spdmOn 0 = true ∧ offersAny (stSpdm 0).inp.partner.offers = true)
    ∧ (((stSpdm 0).setSession 64 { Sess.none with port := 0, st := 1 }).session 64).st = 1
    ∧ ((stSpdm 0).setSession 64 { Sess.none with port := 0, st := 1 }).freeSession = some 0
    ∧ ((stSpdm 3).sessionIn 3 = true ∧ (stSpdm 3).inp.num < 32) := by decide +kernel

theorem witness_TdispAndSpdmRequests_finish : let s := { stSpdm 2 with inp := { (stSpdm 2).inp with value := Config.finishMac 5 } }
    s.sessionIn 2 = true ∧ s.inp.value = Config.finishMac (s.session s.inp.num).share :=
  ⟨by decide +kernel, congrArg Config.finishMac (by decide +kernel)⟩

/-- Port 2 exports 1 GiB of function 0's window, bound and running, on an established session of the port. -/
def stExport : State :=
  ((((({ st0 with inp := { Input.none with link := { Input.none.link with port := 2 } } } : State).setReg 0 (oEXPBASE 2) 0).setReg 0 (oEXPSIZE 2) (2 ^ 30)).setReg 0 (oEXPCFG 2)
    (((1 : W64) <<< 63) + 0x100)).setPort 2 { lanes := 8, up := true, replays := 0, fails := 0 }).setSession 31 { port := 2, st := 3, share := 0, epoch := 0 }

theorem witness_TdispAndSpdmRequests_bind : let s := stExport.setTdisp 0 2
    s.spdmOn 2 = true ∧ s.exportOf 2 = some 0 ∧ nbit (s.regN 0 (oEXPCFG 2)) 8 = true ∧ s.ifst 0 = 2 ∧ (s.session 31).st = 3 ∧ (s.session 31).port = 2 := by
  decide +kernel

def stBel (f : Belfry → Belfry) : State := st0.setBel (f st0.bel)

/-- An update is under way from host memory that reads as zeros. -/
def stUpdate : State :=
  ({ stBel (fun b => { b with busy := true, source := 0x1000 }) with inp := { Input.none with ok := true } } : State).setPort 0 { lanes := 16, up := true, replays := 0, fails := 0 }

theorem witness_FirmwareAndResets :
    st0.bel.busy = false
    ∧ (stUpdate.bel.busy = true ∧ stUpdate.bel.stage ≠ 0 ∧ (stUpdate.imageAt stUpdate.bel.source.toNat).isSome = true)
    ∧ (let s := stBel (fun b => { b with newBoot := true }); s.bel.busy = false ∧ s.bel.newBoot = true ∧ s.bel.stage = 9)
    ∧ (let s := { stBel (fun b => { b with busy := true, stage := 0 }) with teams := [], jobs := [], inp := { Input.none with low := 1 } }
       s.warming = true ∧ s.anyLive = false ∧ s.launching = false)
    ∧ ((stTdisp 2).inp.fn < 64 ∧ ((stTdisp 2).scrub 1 0).2 = none) := by decide +kernel

theorem witness_PowerAndSensors :
    (let s := { st0 with jobs := [] }; s.bel.power = .d0 ∧ ∀ j ∈ s.jobs, j.2.type = 0 → j.2.phase ≠ .started)
    ∧ (stBel (fun b => { b with power := .d3hot })).bel.power = .d3hot
    ∧ ({ st0 with teams := [], time := 10 ^ 12 } : State).idleReady = true
    ∧ (stBel (fun b => { b with power := .d0idle })).idleOver = true
    ∧ ({ stBel (fun b => { b with powerAt := some 0 }) with time := msUnits } : State).stepDownReady = true
    ∧ (st0.shutdownDue = none ∧ (stBel (fun b => { b with crit := [(0, 0)] })).shutdownDue = some 0)
    ∧ ({ stBel (fun b => { b with step := 1 }) with time := 10 ^ 12 } : State).stepUpReady = true
    ∧ (19 < 20 ∧ st0.inp.num < 20)
    ∧ (sensorCritical 18 3001 = true ∧ sensorCritical 18 3000 = false ∧ sensorCritical 17 43999 = true ∧ sensorCritical 17 44000 = false
        ∧ sensorCritical 16 1050 = true ∧ sensorCritical 16 1049 = false ∧ sensorCritical 20 1150 = false) := by decide +kernel

theorem witness_RegisterWrites : let s := st0
    (s.inp.num < 64 ∧ (s.lantern 1).getLsbD 63 = false ∧ ((s.setLantern 1 ((1 : W64) <<< 63)).lantern 1).getLsbD 63 = true)
    ∧ (s.inp.num < 8 ∧ s.inp.offset < 0x1000 ∧ s.inp.window = .belfry)
    ∧ (({ s with inp := { Input.none with window := .fn 63 } } : State).inp.window = .fn 63) := by decide +kernel

/-- The state after reset meets both invariants, and its step answers a next state. -/
theorem witness_FusesNeverFall : Memory.wf State.reset.mem = true ∧ Memory.wf State.reset.sysmem = true ∧ Memory.wf State.reset.cm = true
    ∧ (3 ≤ (stBel (fun b => { b with fuses := 3 })).bel.fuses)
    ∧ (match step State.reset with | .next _ => true | _ => false) = true ∧ (match step stAdd with | .next _ => true | _ => false) = true := by decide +kernel

theorem witness_MemoryStaysCanonical : stAdd.memoryCanonical ∧ (match step stAdd with | .next _ => true | _ => false) = true :=
  ⟨by unfold State.memoryCanonical; decide +kernel, by decide +kernel⟩

/-! Ill-formed terms: each check of 03 R66 refuses one; and events that name what does not exist. -/

theorem test_ill_form : (Instr.movi fm).wellFormed = false ∧ (Instr.movi fm).check Limits.widest = some .form := by decide
theorem test_ill_field : (Instr.iadd { fm with c := 1 }).wellFormed = false ∧ (Instr.iadd { fm with c := 1 }).check Limits.widest = some .field := by decide
theorem test_ill_type : (Instr.iadd { fm with ty := .e4m3 }).wellFormed = false ∧ (Instr.iadd { fm with ty := .e4m3 }).check Limits.widest = some .type := by decide
theorem test_ill_mod : (Instr.iadd { fm with mod := 1 }).wellFormed = false ∧ (Instr.iadd { fm with mod := 1 }).check Limits.widest = some .mod := by decide
theorem test_ill_xl : (Instr.iadd { fm with ka := true, xl := 1 }).wellFormed = false ∧ (Instr.iadd { fm with ka := true, xl := 1 }).check Limits.widest = some .xl := by decide
theorem test_ill_reg : (Instr.iadd { fm with d := 3, ty := .n64 }).wellFormed = false ∧ (Instr.iadd { fm with d := 3, ty := .n64 }).check Limits.widest = some .reg
    ∧ (Instr.iadd { fm with d := 8 }).wellFormedAt { Limits.widest with vregs := 8 } = false ∧ (Instr.iadd { fm with d := 7 }).wellFormedAt { Limits.widest with vregs := 8 } = true := by decide
theorem test_ill_words : (Instr.ill 1).wellFormed = false ∧ (Instr.reservedOpcode 0x80).wellFormed = false ∧ (Instr.reservedOpcode 0x1238).wellFormed = true
    ∧ (Instr.reservedOpcode 3).wellFormed = true := by decide
theorem test_ill_events : (Instr.teamActivation 96).wellFormed = false ∧ (Instr.teamEviction 0 32).wellFormed = false ∧ (Instr.turnEnd 24).wellFormed = false
    ∧ (Instr.heldWriteRelease 4).wellFormed = false ∧ (Instr.tailLineInvalidation 64 0).wellFormed = false ∧ (Instr.descriptorConsume 0 8).wellFormed = false
    ∧ (Instr.invalidationComplete 64).wellFormed = false ∧ (Instr.blockAccess { fn := 0, addr := 255, bytes := some [0, 0], cmp := true }).wellFormed = false
    ∧ (Instr.rds { die := 0, grain := 0, size := 64, sys := false, colour := 0, core := 0, grant := .s, dirty := false, op := 0, ty := .n32, addr := 0, x := 0, y := 0 }).wellFormed = false := by decide

/-! The words of the spec's own worked encodings, family by family (03 R68, R69; 06 R137; 07; 08 R166; 09 R199; 12; 15; 17; 19). -/

theorem test_spec_arithmetic : ([
    decodes 0x0302008D 0x00C30004 0 (.iadd { fu with gp := 1, d := 2, a := 3, b := 4, wa := true, wb := true, ty := .n64 }),
    decodes 0x0F1001BE 0x00C10000 0x9E3779B9 (.imul { fu with d := 16, a := 15, wa := true, ty := .n64, lit := some 0x9E3779B9 }),
    decodes 0x04050F68 0 0 (.movS { sm with gp := 5, gn := true, d := 5, a := 4 }),
    decodes 0x09044039 0x04010800 0 (.cvt { fm with d := 4, a := 9, c := 8, wa := true, mod := 1 }),
    decodes 0x03115039 0x08030004 0 (.icmp { fm with d := 0x11, a := 3, b := 4, wa := true, wb := true, mod := 2 }),
    decodes 0x02067139 0x02010C00 0 (.csin { fm with d := 6, a := 2, c := 12, wa := true, ty := .f32 })] : List Bool).all id = true := by decide +kernel
theorem test_spec_control : ([
    decodes 0x0300D08A 0x00010000 0x80 (.brv { fm with gp := 1, a := 3, wa := true, lit := some 0x80 }),
    decodes 0x0000D016 0 0x40 (.bra { fu with gp := 2, lit := some 0x40 }),
    decodes 0x0000F03C 0 0 (.rte su), decodes 0x0000F13C 0 0 (.haltb su), decodes 0x0000F1BC 0 0 (.step su), decodes 0x0000F23C 0 0 (.bkpt su),
    decodes 0x0204F0BC 0 0 (.tsbS { su with d := 4, a := 2 })] : List Bool).all id = true := by decide +kernel
theorem test_spec_memory : ([
    decodes 0x00018039 0x02010000 0 (.ld { fm with d := 1, wa := true, ty := .f32 }),
    decodes 0x000380B9 0x02030001 0 (.st { fm with d := 3, b := 1, wa := true, wb := true, ty := .f32 }),
    decodes 0x0204823A 0x00430041 0x00100008 (.amo { fm with d := 4, a := 2, b := 0x41, wa := true, wb := true, ty := .n32, lit := some 0x00100008 }),
    decodes 0x020083BD 0x10000101 0 (.fence { fu with a := 2, b := 1, c := 1, mod := 4 })] : List Bool).all id = true := by decide +kernel
theorem test_spec_tables_and_matrix : ([
    decodes 0x0811A0B9 0x10010403 0 (.tins { fm with d := 0x11, a := 8, b := 3, c := 4, wa := true, mod := 4 }),
    decodes 0x0A39A339 0x00010845 0 (.tnext { fm with d := 0x39, a := 10, b := 0x45, c := 8, wa := true }),
    decodes 0x0820B039 0x02130004 0 (.mma { fm with d := 32, a := 8, b := 4, wa := true, wb := true, kb := true, ty := .f32 }),
    decodes 0x0C11B139 0x00011406 0 (.kvx { fm with d := 0x11, a := 12, b := 6, c := 20, wa := true }),
    decodes 0x030741B9 0x03810000 0 (.sbq { fm with d := 7, a := 3, wa := true, ty := .e2m1 }),
    decodes 0x0006B0BC 0 0 (.mflushS { su with d := 6 }), decodes 0x0400B238 0 0 (.credS { sm with a := 4 }),
    decodes 0x000FB1BD 0x00030003 0 (.qmc { fu with d := 15, b := 3, wa := true, wb := true })] : List Bool).all id = true := by decide +kernel
theorem test_spec_engines : ([
    decodes 0x0103C03E 0x00010000 1 (.cpk { fu with d := 3, a := 1, wa := true, lit := some 1 }),
    decodes 0x0000C1BE 0x00010040 0xF00 (.bwait { fu with b := 0x40, wa := true, lit := some 0xF00 }),
    decodes 0x0600C2B9 0x00030004 0 (.qpush { fm with a := 6, b := 4, wa := true, wb := true }),
    decodes 0x0200C3B9 0x00030004 0 (.rdx { fm with a := 2, b := 4, wa := true, wb := true }),
    decodes 0x0405E03D 0x00010000 0 (.sgpost { fu with d := 5, a := 4, wa := true }),
    decodes 0x0809E0BD 0x18010000 0 (.sgpoll { fu with d := 9, a := 8, wa := true, mod := 6 }),
    decodes 0x003BE13D 0x08000000 0 (.sgchk { fu with d := 0x3B, mod := 2 }),
    decodes 0x0207E1BD 0x00030003 0 (.launch { fu with d := 7, a := 2, b := 3, wa := true, wb := true }),
    decodes 0x0106E2BD 0x10030802 0 (.evwait { fu with d := 6, a := 1, b := 2, c := 8, wa := true, wb := true, mod := 4 })] : List Bool).all id = true := by decide +kernel
theorem test_spec_refused : decodeWords Limits.widest 0x060500B9 0x03030007 0 = .bad .type ∧ decodeWords Limits.widest 0x060500B9 0x200B0007 0 = .bad .xl
    ∧ decodes 0 0 0 (.ill 0) = true ∧ decodes 3 0 0 (.reservedOpcode 3) = true ∧ decodes 0x1238 0 0 (.reservedOpcode 0x1238) = true := by decide +kernel

/-! Single steps with results from the spec's words. Registers v1, v2 (and s1, s2) hold the operands. -/

def vv (a b : W32) : State := tm (fun t => (t.setV 1 0 a.toNat).setV 2 0 b.toNat)
def ss (a b : Nat) : State := tm (fun t => (t.setS 1 a).setS 2 b)
def vOf (i : Instr) (s : State) : Nat := ((after i s).team 0).vr 3 0
def sOf (i : Instr) (s : State) : Nat := ((after i s).team 0).sr 3
def flOf (i : Instr) (s : State) : W32 := ((after i s).team 0).fpflags
def ff : Form := { fm with d := 3, a := 1, b := 2 }
def gg : Form := { ff with uni := true }

-- 06 R126: elements wrap modulo 2^w and nothing crosses from one to the next; the saturating forms stop at the type's limits.
theorem test_iadd_wraps : vOf (.iadd { ff with ty := .s8x4 }) (vv 0x7FFF00FF 0x01010001) = 0x80000000 := by decide +kernel
theorem test_iadds_saturates : vOf (.iadds { ff with ty := .s16x2 }) (vv 0x7FFF8000 0x0001FFFF) = 0x7FFF8000 := by decide +kernel
theorem test_isub_borrow : vOf (.isub { ff with ty := .n16x2 }) (vv 0x00010000 0x00000001) = 0x0001FFFF := by decide +kernel
theorem test_imulh : vOf (.imulh { ff with ty := .s32 }) (vv 0xFFFFFFFF 2) = 0xFFFFFFFF ∧ vOf (.imulh { ff with ty := .n32 }) (vv 0xFFFFFFFF 2) = 1 := by decide +kernel
theorem test_idiv_zero : vOf (.idiv ff) (vv 7 0) = 0xFFFFFFFF ∧ vOf (.irem ff) (vv 7 0) = 7 := by decide +kernel
theorem test_shifts_by_width : vOf (.shl ff) (vv 1 32) = 0 ∧ vOf (.sar ff) (vv 0x80000000 32) = 0xFFFFFFFF ∧ vOf (.shr ff) (vv 0x80000000 31) = 1 := by decide +kernel
theorem test_rol : vOf (.rol ff) (vv 0x80000001 33) = 3 := by decide +kernel
theorem test_wide_pair : let s := tm (fun t => ((t.setV 4 0 0xFFFFFFFF).setV 6 0 1))
    ((after (.iadd { fm with d := 8, a := 4, b := 6, ty := .n64 }) s).team 0).vr 9 0 = 1 ∧ ((after (.iadd { fm with d := 8, a := 4, b := 6, ty := .n64 }) s).team 0).vr 8 0 = 0 := by decide +kernel
theorem test_counts_of_zero : vOf (.clzL { ff with b := 0 }) (vv 0 0) = 32 ∧ vOf (.ctzL { ff with b := 0 }) (vv 0 0) = 32 ∧ vOf (.brevL { ff with b := 0 }) (vv 1 0) = 0x80000000 := by decide +kernel
theorem test_uniform_64 : sOf (.isub { gg with ty := .n64 }) (ss 0 1) = 2 ^ 64 - 1 := by decide +kernel
theorem test_source_is_destination : ((after (.iadd { fm with d := 1, a := 1, b := 1 }) (vv 21 0)).team 0).vr 1 0 = 42 := by decide +kernel

-- 06: the corner cases of floating point that the chapter lists, the example of R137, the worked case of R119, the example of R139.
theorem test_fdiv_zeros : vOf (.fdiv { ff with ty := .f16x2 }) (vv 0x3C003C00 0x80000000) = 0xFC007C00 := by decide +kernel
theorem test_fsqrt_minus_zero : vOf (.fsqrtL { ff with b := 0, ty := .f32 }) (vv 0x80000000 0) = 0x80000000 ∧ flOf (.fsqrtL { ff with b := 0, ty := .f32 }) (vv 0x80000000 0) = 0 := by decide +kernel
theorem test_frint_rtz : vOf (.frintL { ff with b := 0, ty := .f32, mod := 1 }) (vv 0xBF000000 0) = 0x80000000 := by decide +kernel
theorem test_fscale_overflow : vOf (.fscale { ff with ty := .f32, mod := 1 }) (vv 0x3F800000 200) = 0x7F7FFFFF := by decide +kernel
theorem test_fmax_snan : vOf (.fmax { ff with ty := .f32 }) (vv 0xFF800001 0x40000000) = 0x40000000 := by decide +kernel
theorem test_fabs_snan : vOf (.fabsL { ff with b := 0, ty := .f32 }) (vv 0xFF800001 0) = 0x7F800001 ∧ flOf (.fabsL { ff with b := 0, ty := .f32 }) (vv 0xFF800001 0) = 0 := by decide +kernel
theorem test_cvt_example : let s := fun (x : W32) => tm (fun t => t.setV 9 0 x.toNat)
    ((after (.cvt { fm with d := 4, a := 9, c := 8, wa := true, mod := 1 }) (s 0xC0300000)).team 0).vr 4 0 = 0xFFFFFFFE
    ∧ ((after (.cvt { fm with d := 4, a := 9, c := 8, wa := true, mod := 1 }) (s 0x4F32D05E)).team 0).vr 4 0 = 0x7FFFFFFF := by decide +kernel
theorem test_cvt_stochastic : let u := ((after (.cvt { fm with d := 3, a := 1, c := 8, ty := .f16x2, mod := 4 }) (tm (fun t => { (t.setV 1 0 0x33000000) with seed := 1 }))).team 0)
    u.vr 3 0 = 1 ∧ u.seed = 0x00042021 := by decide +kernel
theorem test_unpk_example : vOf (.unpk { ff with b := 0, c := 4, ty := .n32 }) (vv 0x0000FFFF 0) = 0xFFFFFFFF := by decide +kernel

-- 07 R141, R148, R149.
theorem test_icmp_pair : let t := (after (.icmp { ff with d := 0x11, mod := 2 }) (vv 0xFFFFFFFF 0)).team 0
    t.pr 1 0 = true ∧ t.pr 2 0 = false := by decide +kernel
theorem test_vote_count : ((after (.vote { fm with d := 3, a := 0, mod := 3 }) stTwo).replies.map Reply.dsts) = [[.v 3 0 1, .v 3 1 1]] := by decide +kernel
theorem test_red_tree : let s := tm (fun t => { (((t.setV 1 0 0x4B800000).setV 1 1 0x3F800000).setV 1 2 0x3F800000).setV 1 3 0xCB800000 with nlanes := 4, mask := 15 })
    ((after (.redL { ff with b := 0, ty := .f32 }) s).replies.map Reply.dsts) = [[.v 3 0 0x3F800000, .v 3 1 0x3F800000, .v 3 2 0x3F800000, .v 3 3 0x3F800000]] := by decide +kernel
theorem test_bra_target : ((after (.bra { fu with lit := some 0x40 }) st0).team 0).pc = 0x40 ∧ ((after (.call { fu with d := 3, lit := some 0x40 }) st0).team 0).sr 3 = 12 := by decide +kernel
theorem test_loop_counts : ((after (.loop { fu with d := 1, lit := some 0x40 }) (ss 2 0)).team 0).pc = 0x40 ∧ ((after (.loop { fu with d := 1, lit := some 0x40 }) (ss 1 0)).team 0).pc = 12 := by decide +kernel

-- 09 R182: the handler of class SOFT (14) stands at TRAPBASE + 14 × 0x40; 09 R184: TRAPCAUSE of that trap.
theorem test_trap_vector : let t := (after (.trap { fu with lit := some 7 }) stHandler).team 0
    t.pc = 0x1380 ∧ t.hmode = true ∧ t.trappc = 0 ∧ t.trapcause = 0x000000070000002E := by decide +kernel
theorem test_privilege : ((after (.step su) stHandler).team 0).pc = 0x1040 := by decide +kernel

-- 08 R166, R171; 17 R283: bytes stand in little-endian order; an atomic answers the old value; BINIT sets COUNT and EXP.
theorem test_store_bytes : readMem (after (.st { fm with d := 3, a := 1, b := 0x40 }) (tm (fun t => t.setV 3 0 0x11223344))).cm 0 4 = [0x44, 0x33, 0x22, 0x11] := by decide +kernel
theorem test_amo_old_value : let s := { tm (fun t => t.setV 3 0 5) with cm := writeMem [] 0 [7, 0, 0, 0] }
    readMem (after (.amo { fm with d := 3, a := 1, b := 0x40, ty := .n32 }) s).cm 0 4 = [12, 0, 0, 0]
      ∧ (after (.amo { fm with d := 3, a := 1, b := 0x40, ty := .n32 }) s).replies.map Reply.dsts = [[.v 3 0 7]] := by decide +kernel
theorem test_binit : (after (.binit { fu with d := 3, a := 1, b := 0x40 }) (tm (fun t => t.setS 3 4))).barWord 0 0 = 4 + 4 * 2 ^ 32 := by decide +kernel
theorem test_exit_retires : ((after (.exitS sm) st0).team 0).mask = 0 := by decide +kernel

-- 24 R395: the first step after reset brings the device up; 01 R17 and 03 R69: a step runs the instruction at the PC.
theorem test_step_runs_iadd : (match step { stAdd.setTeam 0 (((stAdd.team 0).setV 6 0 2).setV 7 0 3) with rcache := [(0, [(0, 6, true), (0, 7, true)])] } with
    | .next u => (u.team 0).vr 5 0 == 5 && (u.team 0).pc == 8 && u.clock == 1
    | _ => false) = true := by decide +kernel

end Sys2Proof.Tests
end

section
/-!
Handler mode and undecodable words (03 R66–R69).
-/
namespace Sys2Proof.Machine

/-- PREF, whose meaning does not begin with the shared checks (08 R175), is open to either mode. -/
theorem Ins.reserved_pref {i : Ins} (h : i.op = 0x108) : i.reserved = false := by
  have hrow : ((rowOf descTable 0x108).getD descBase).handler = false := by decide
  simp [Ins.reserved, Ins.desc_handler, h, hrow]

/-- 06 R132: SRD of a register marked H, outside handler mode. -/
theorem execSrd_priv {f : Form} {s : State} (hr : srHandler f.a.toNat = true) (hm : (s.team s.cur).hmode = false) :
    execSrd f s = .next (s.trapLanes (insW 0x021 f) cPRIV 0 (s.team s.cur).lanes) := by
  simp [execSrd, hr, hm]

/-- 06 R133: SWR of a register marked H, outside handler mode. -/
theorem execSwr_priv {f : Form} {s : State} (hr : srHandler f.d.toNat = true) (hm : (s.team s.cur).hmode = false) :
    execSwr f s = .next (s.trapLanes (insW 0x022 f) cPRIV 0 (s.team s.cur).lanes) := by
  simp [execSwr, hr, hm]

/-- 03 R69: the mode is asked before the guard and the registers are. SRD and SWR of a register marked H ask it themselves; any other
reserved instruction meets it in the shared checks. -/
theorem exec_priv {x : Instr} {i : Ins} {s : State} (hi : insOf x = some i) (hr : i.reserved = true) (hm : (s.team s.cur).hmode = false) :
    exec x s = .next (s.trapLanes i cPRIV 0 (s.team s.cur).lanes) := by
  by_cases hsrd : ∃ f, x = .srd f ∧ srHandler f.a.toNat = true
  · obtain ⟨f, rfl, hf⟩ := hsrd
    obtain rfl : insW 0x021 f = i := Option.some.inj hi
    exact execSrd_priv hf hm
  by_cases hswr : ∃ f, x = .swr f ∧ srHandler f.d.toNat = true
  · obtain ⟨f, rfl, hf⟩ := hswr
    obtain rfl : insW 0x022 f = i := Option.some.inj hi
    exact execSwr_priv hf hm
  have hpref : i.op ≠ 0x108 := fun h => by simp [Ins.reserved_pref h] at hr
  obtain ⟨k, hk⟩ := exec_runs x i s hi hpref (fun f hx hf => (hsrd ⟨f, hx, hf⟩).elim) (fun f hx hf => (hswr ⟨f, hx, hf⟩).elim)
  rw [hk]
  exact runIns_trap k (prep_priv hr hm)

/-- 03 R66: a fetched instruction that fails decoding takes ILLENC instead of issuing, in either mode. -/
theorem State.ready_undecodable {s f : State} {w0 w1 w2 : W32} {e : IllSub} (hw : s.fetchWaits s.cur = false)
    (hf : s.fetch s.cur = (f, .ok w0 w1 w2)) (hd : decodeWords ((s.team s.cur).limits f) w0 w1 w2 = .bad e) :
    s.ready = (f.illegal (w0.toNat % 4) (illCode e), none) := by
  simp [State.ready, hw, hf, hd]

/-- 03 R67: the words that decode to an instruction without meaning take ILLENC when it issues. -/
theorem exec_ill (s : State) (w : W32) : exec (.ill w) s = .next (s.illegal (w.toNat % 4) 2) := rfl

theorem exec_reservedOpcode (s : State) (w : W32) :
    exec (.reservedOpcode w) s = .next (if w.toNat % 4 = 3 then s.illegal 0 1 else s.illegal (w.toNat % 4) 2) := rfl

/-- Settles O4: the mode comes before every other check of a reserved instruction, and no fate of an undecodable word asks the mode. -/
theorem privilegeTraps : Obligations.PrivilegeTraps := by
  unfold Obligations.PrivilegeTraps
  refine ⟨fun x i s hi hr hm => exec_priv hi hr hm, fun s f w0 w1 w2 e hw hf hd => State.ready_undecodable hw hf hd, fun s w => ⟨exec_ill s w, ?_, ?_⟩, ?_⟩
  · intro hlen
    rw [exec_reservedOpcode, if_neg hlen]
  · intro hlen
    rw [exec_reservedOpcode, if_pos hlen]
  · decide +kernel

end Sys2Proof.Machine
end

section
/-!
Compares, predicate functions and predicate moves (07 R141–R144).
-/
namespace Sys2Proof.Machine

/-! p7 and q7 (03 R55). -/

@[simp] theorem Team.pr_seven (t : Team) (l : Nat) : t.pr 7 l = true := rfl

@[simp] theorem Team.qr_seven (t : Team) : t.qr 7 = true := rfl

@[simp] theorem Team.setP_seven (t : Team) (l : Nat) (b : Bool) : t.setP 7 l b = t := rfl

@[simp] theorem Team.setQ_seven (t : Team) (b : Bool) : t.setQ 7 b = t := rfl

theorem Team.predOf_seven (t : Team) (uni : Bool) (l : Nat) : t.predOf uni 7 l = true := by
  cases uni <;> simp [Team.predOf]

/-- With pD = 7 only the complement is written. -/
theorem Team.setPair_seven (t : Team) (uni : Bool) (e l : Nat) (c : Bool) :
    t.setPair uni 7 e l c = if uni then t.setQ e (!c) else t.setP e l (!c) := by
  simp [Team.setPair]

/-! The meaning of PMOV by its mode (07 R144). -/

theorem exec_pmov_copy {f : Form} (s : State) (hm : f.mod.toNat = 0) :
    exec (.pmov f) s = runTest (insW 0x0A3 f) s (fun t l => (t.predOf f.uni f.a.toNat l, 0)) := by
  change execPmov f s = _
  simp [execPmov, hm]

theorem exec_pmov_toReg {f : Form} (s : State) (hm : f.mod.toNat = 1) :
    exec (.pmov f) s = runAlu32 (insW 0x0A3 f) s (fun t l => (predWord t f.uni l, 0)) := by
  change execPmov f s = _
  simp [execPmov, hm]

theorem exec_pmov_fromReg {f : Form} (s : State) (hm : f.mod.toNat = 2) :
    exec (.pmov f) s = runIns (insW 0x0A3 f) s (fun t ls =>
      s.finish (insW 0x0A3 f) (ls.foldl (fun u l => (upTo 7).foldl (fun u n =>
        if f.uni then u.setQ n (nbit ((insW 0x0A3 f).opa t false l) n) else u.setP n l (nbit ((insW 0x0A3 f).opa t false l) n)) u) t)) := by
  change execPmov f s = _
  simp [execPmov, hm]

/-! Results. -/

/-- Each compare or predicate function is the shared frame that writes a predicate and its complement, with the test of its own. -/
theorem exec_tested {x : Instr} {i : Ins} {g : Team → Nat → Bool × Nat} (s : State) (h : tested x = some (i, g)) :
    exec x s = runTest i s g := by
  unfold tested at h
  split at h
  case h_1 f => cases h; rfl
  case h_2 f => cases h; rfl
  case h_3 f => cases h; rfl
  case h_4 f =>
    split_ifs at h with hm
    cases h
    exact exec_pmov_copy s hm
  case h_5 => cases h

/-- 07 R143: each MOD's function; exclusive or with a predicate that reads 1 negates. -/
theorem plopTest_eq (a b : Bool) :
    plopTest 0 a b = (a && b) ∧ plopTest 1 a b = (a || b) ∧ plopTest 2 a b = (a ^^ b) ∧ plopTest 3 a b = (a && !b)
      ∧ plopTest 4 a b = (a || !b) ∧ plopTest 5 a b = !(a && b) ∧ plopTest 6 a b = !(a || b) ∧ plopTest 7 a b = !(a ^^ b)
      ∧ plopTest 2 a true = !a := by
  cases a <;> cases b <;> decide

/-- Settles O13: every tested instruction runs in the one frame that writes a predicate pair, and PMOV's other modes in theirs. -/
theorem predicateResults : Obligations.PredicateResults := by
  unfold Obligations.PredicateResults
  refine ⟨fun x i g s ls hx hc => ?_, fun f s ls hc => ⟨fun hm => ?_, fun hm => ?_⟩, plopTest_eq,
    fun t uni e l c => ⟨t.predOf_seven uni l, t.setPair_seven uni e l c⟩⟩
  · intro t fl hf
    rw [exec_tested s hx]
    exact runTest_go g hc hf
  · rw [exec_pmov_toReg s hm]
    exact runAlu32_clear _ hc (fun _ _ => rfl)
  · rw [exec_pmov_fromReg s hm]
    exact runIns_go _ hc

end Sys2Proof.Machine
end

section
/-!
TRAPCAUSE (09 R184) and the handler and mailbox instructions (09 R199–R204; 24 R389).
-/
namespace Sys2Proof.Machine

/-! Bits and fields of words. -/

/-- Bit i of a number, as the library has it. -/
theorem nbit_eq_testBit (x i : Nat) : nbit x i = x.testBit i := by
  rw [nbit, beq_eq_decide, Nat.testBit_eq_decide_div_mod_eq]

/-- A field of a masked word is the field masked by the mask's own field. -/
theorem fld_and (x m : W64) (hi lo : Nat) : fld (x &&& m) hi lo = fld x hi lo &&& fld m hi lo := by
  simp only [fld, BitVec.toNat_and, Nat.and_div_two_pow, Nat.and_mod_two_pow]

/-- A field whose bits the mask keeps. -/
theorem fld_and_ones {m : W64} {hi lo : Nat} (x : W64) (h : fld m hi lo = 2 ^ (hi - lo + 1) - 1) : fld (x &&& m) hi lo = fld x hi lo := by
  rw [fld_and, h, Nat.and_two_pow_sub_one_eq_mod, fld, Nat.mod_mod]

/-- A field whose bits the mask clears. -/
theorem fld_and_zero {m : W64} {hi lo : Nat} (x : W64) (h : fld m hi lo = 0) : fld (x &&& m) hi lo = 0 := by
  rw [fld_and, h, Nat.and_zero]

theorem getLsbD_and_one {m : W64} {i : Nat} (x : W64) (h : m.getLsbD i = true) : (x &&& m).getLsbD i = x.getLsbD i := by
  rw [BitVec.getLsbD_and, h, Bool.and_true]

theorem bnat_le_one (b : Bool) : bnat b ≤ 1 := by cases b <;> decide

theorem decide_bnat_eq_one (b : Bool) : decide (bnat b = 1) = b := by cases b <;> decide

/-! TRAPCAUSE. -/

/-- The word as a number: with each field in its range none is cut off or runs into the next. -/
theorem trapWord_toNat {cls ilen slot : Nat} (sub : Nat) (m d : Bool) (hc : cls < 16) (hi : ilen < 4) (hs : slot < 16) :
    (trapWord cls sub ilen slot m d).toNat
      = cls + 16 * ilen + 256 * slot + 2 ^ 16 * bnat m + 2 ^ 17 * bnat d + 2 ^ 32 * (sub % 2 ^ 32) := by
  have hm := bnat_le_one m
  have hd := bnat_le_one d
  rw [trapWord, BitVec.toNat_ofNat, Nat.mod_eq_of_lt (by omega)]

/-- 09 R184: where each field of the word stands, and that the bits between them are 0. -/
theorem trapWord_fields {cls ilen slot : Nat} (sub : Nat) (m d : Bool) (hc : cls < 16) (hi : ilen < 4) (hs : slot < 16) :
    let w := trapWord cls sub ilen slot m d
    fld w 63 32 = sub % 2 ^ 32 ∧ w.getLsbD 17 = d ∧ w.getLsbD 16 = m ∧ fld w 11 8 = slot ∧ fld w 5 4 = ilen ∧ fld w 3 0 = cls
      ∧ fld w 31 18 = 0 ∧ fld w 15 12 = 0 ∧ fld w 7 6 = 0 := by
  have hw := trapWord_toNat sub m d hc hi hs
  have hm := bnat_le_one m
  have hd := bnat_le_one d
  refine ⟨?_, ?_, ?_, ?_, ?_, ?_, ?_, ?_, ?_⟩
  case refine_2 =>
    rw [← BitVec.testBit_toNat, Nat.testBit_eq_decide_div_mod_eq, hw]
    exact (decide_eq_decide.2 (by omega)).trans (decide_bnat_eq_one d)
  case refine_3 =>
    rw [← BitVec.testBit_toNat, Nat.testBit_eq_decide_div_mod_eq, hw]
    exact (decide_eq_decide.2 (by omega)).trans (decide_bnat_eq_one m)
  all_goals
    rw [fld, hw]
    omega

/-- Comparing every lane's class with the first lane's finds any two that differ. -/
theorem multiCause_iff (cs : List (Nat × Nat)) : multiCause cs = true ↔ ∃ a ∈ cs, ∃ b ∈ cs, a.2 ≠ b.2 := by
  cases cs with
  | nil => simp [multiCause]
  | cons c r =>
    simp only [multiCause, List.any_eq_true, bne_iff_ne]
    constructor
    · rintro ⟨d, hd, hne⟩
      exact ⟨d, List.mem_cons_of_mem _ hd, c, List.mem_cons_self, hne⟩
    · rintro ⟨a, ha, b, hb, hne⟩
      by_contra hall
      push Not at hall
      have same : ∀ x ∈ c :: r, x.2 = c.2 := List.forall_mem_cons.2 ⟨rfl, hall⟩
      exact hne ((same a ha).trans (same b hb).symm)

/-- SWR of TRAPCAUSE drops the reserved bits (06 R133). -/
theorem Team.setSpecial_trapcause (t : Team) (y : W64) : (t.setSpecial 21 y).trapcause = y &&& 0xFFFFFFFF00030F3F := rfl

/-- A precise trap stands at the instruction's PC with its LEN. -/
theorem State.trapLanes_eq_takeTrap (s : State) (i : Ins) (cls sub : Nat) (ls : List Nat) : ∃ x, s.trapLanes i cls sub ls = s.takeTrap s.cur x
    ∧ x.cls = cls ∧ x.sub = sub ∧ x.ilen = i.len ∧ x.pc = (s.team s.cur).pc := ⟨_, rfl, rfl, rfl, rfl, rfl⟩

theorem State.illegal_eq_takeTrap (s : State) (len sub : Nat) :
    ∃ x, s.illegal len sub = s.takeTrap s.cur x ∧ x.cls = cILLENC ∧ x.ilen = len := ⟨_, rfl, rfl, rfl⟩

/-- Settles O20: every trap leaves `trapWord` in TRAPCAUSE, whose fields do not overlap; a write keeps the same bits by its mask. -/
theorem trapCauseFields : Obligations.TrapCauseFields := by
  unfold Obligations.TrapCauseFields
  refine ⟨?_, ?_, fun s l => rfl, State.trapLanes_eq_takeTrap, ?_, ?_, rfl⟩
  · intro s i x hc hi hs
    dsimp only
    rw [State.takeTrap_cause, ← multiCause_iff]
    obtain ⟨hsub, hdouble, hmulti, hfields⟩ :=
      trapWord_fields x.sub (multiCause x.causes) (s.team i).hmode hc hi hs
    exact ⟨hsub, hdouble, by rw [hmulti], hfields⟩
  · intro t y
    dsimp only
    rw [Team.setSpecial_trapcause]
    exact ⟨fld_and_ones y (by decide), getLsbD_and_one y (by decide), getLsbD_and_one y (by decide), fld_and_ones y (by decide),
      fld_and_ones y (by decide), fld_and_ones y (by decide), fld_and_zero y (by decide), fld_and_zero y (by decide), fld_and_zero y (by decide)⟩
  · intro s w hw
    rw [exec_reservedOpcode, if_pos hw]
    obtain ⟨x, hx, hcls, hlen⟩ := s.illegal_eq_takeTrap 0 1
    exact ⟨x, congrArg _ hx, hcls, hlen⟩
  · intro s f hm
    exact ⟨fun ha => execSrd_priv (by rw [ha]; decide) hm, fun hd => execSwr_priv (by rw [hd]; decide) hm⟩

/-! The handler instructions with a true guard. -/

/-- 09 R199: the side buffer's word at the literal or at sa. -/
theorem runTsb_go {i : Ins} {s : State} (h : Clear i (s.team s.cur) [0]) :
    runTsb i s = .next (s.finish i ((s.team s.cur).setS i.f.d.toNat
      (let n := match i.f.lit with | some l => l.toNat | none => (s.team s.cur).sr i.f.a.toNat
       if n < 72 then (SMap.get (s.team s.cur).side n (0 : W64)).toNat else 0))) :=
  runUni_go _ h

/-- 09 R200: the team goes on, whatever halt of a sibling had reached it, with its TRAPSKID as the origin; then its block halts. -/
theorem execHaltb_go {f : SForm} {s : State} (h : Clear (insS 0x1E2 f) (s.team s.cur) [0]) :
    execHaltb f s = .next ((s.finish (insS 0x1E2 f)
      { s.team s.cur with skid := none, trapskid := s.originSkid s.cur (s.team s.cur).trappc }).haltBlock s.cur) := by
  rw [execHaltb, runUni_go _ h]

/-- 09 R201: bit 0 of STEPCTL. -/
theorem execStep_go {f : SForm} {s : State} (h : Clear (insS 0x1E3 f) (s.team s.cur) [0]) :
    execStep f s = .next (s.finish (insS 0x1E3 f) { s.team s.cur with stepctl := (s.team s.cur).stepctl ||| 1 }) := by
  rw [execStep, runUni_go _ h]

/-- 09 R203: another block's range turns the request away. -/
theorem execWatch_taken {f : Form} {s : State} (h : Clear (insW 0x1E5 f) (s.team s.cur) [0])
    (hen : (s.watchOf (s.team s.cur).core ((s.team s.cur).sr f.a.toNat % 4)).en = true)
    (hblock : (s.watchOf (s.team s.cur).core ((s.team s.cur).sr f.a.toNat % 4)).block ≠ (s.team s.cur).block) :
    execWatch f s = .next (s.finish (insW 0x1E5 f) ((s.team s.cur).setS f.d.toNat 0)) := by
  rw [execWatch, runUni_go _ h]
  dsimp only
  rw [if_pos (by simp [hen, hblock])]

/-- 09 R203: a range that is off or the block's own is replaced, by one that is off where bit 11 of sa is clear. -/
theorem execWatch_free {f : Form} {s : State} (h : Clear (insW 0x1E5 f) (s.team s.cur) [0])
    (hfree : ¬((s.watchOf (s.team s.cur).core ((s.team s.cur).sr f.a.toNat % 4)).en = true
      ∧ (s.watchOf (s.team s.cur).core ((s.team s.cur).sr f.a.toNat % 4)).block ≠ (s.team s.cur).block)) :
    let t := s.team s.cur
    let a := t.sr f.a.toNat
    let w : Watch := if a.testBit 11 then
        { core := a.testBit 2, slot := nfld a 8 3, rd := a.testBit 9, wr := a.testBit 10, en := true, lo := t.sr f.b.toNat, hi := t.sr f.c.toNat, block := t.block }
      else Watch.blank
    execWatch f s = .next
      (({ s with watches := SMap.put s.watches (4 * t.core + a % 4) w Watch.blank }).finish (insW 0x1E5 f) (t.setS f.d.toNat 1)) := by
  rw [execWatch, runUni_go _ h]
  dsimp only
  rw [if_neg (by simpa using hfree)]
  simp only [nbit_eq_testBit]

/-! The Lantern mailbox. -/

/-- 24 R389: an entry whose FULL is set stays as it is. -/
theorem State.lanternPut_full {s : State} {i : Nat} (low high : W64) (h : (s.lantern (2 * i + 1)).getLsbD 63 = true) :
    s.lanternPut i low high = (s, false) := by
  rw [State.lanternPut, if_pos h]

/-- 24 R389: an empty entry takes both words, and its FULL is set. -/
theorem State.lanternPut_empty {s : State} {i : Nat} (low high : W64) (h : (s.lantern (2 * i + 1)).getLsbD 63 = false) :
    s.lanternPut i low high = ((s.setLantern (2 * i) low).setLantern (2 * i + 1) (high ||| ((1 : W64) <<< 63)), true) := by
  rw [State.lanternPut, if_neg (by rw [h]; exact Bool.false_ne_true)]

section
variable {f : Form} {s : State} (hn : (s.team s.cur).sr f.a.toNat < 64)
  (howned : s.lanternOwned (s.team s.cur).vf ((s.team s.cur).sr f.a.toNat) = true) (hdone : s.pending s.cur 31 true = false)
include hn howned hdone

/-- 09 R204: MBXW of an entry of the team's function, with no earlier access under way. -/
theorem execMbxw_go (h : Clear (insW 0x1E6 f) (s.team s.cur) [0]) :
    let t := s.team s.cur
    let r := s.lanternPut (t.sr f.a.toNat) (BitVec.ofNat 64 (t.sr f.b.toNat)) (BitVec.ofNat 64 (t.sr f.c.toNat))
    execMbxw f s = .next (r.1.produce (insW 0x1E6 f) t ((insW 0x1E6 f).dstRefs 0) [.s f.d.toNat (BitVec.ofNat 64 (bnat r.2))] 5) := by
  rw [execMbxw, runUni_go _ h]
  simp [hn, howned, hdone]

/-- 09 R204: MBXR of an entry of the team's function, with no earlier access under way, clears FULL and answers the words as they were. -/
theorem execMbxr_go (h : Clear (insW 0x1E7 f) (s.team s.cur) [0]) :
    let t := s.team s.cur
    let n := t.sr f.a.toNat
    let hi := s.lantern (2 * n + 1)
    execMbxr f s = .next ((s.setLantern (2 * n + 1) (hi &&& ~~~((1 : W64) <<< 63))).produce (insW 0x1E7 f) t ((insW 0x1E7 f).dstRefs 0)
      [.s f.d.toNat (s.lantern (2 * n)), .s (f.d.toNat + 1) hi] 5) := by
  rw [execMbxr, runUni_go _ h]
  simp [hn, howned, hdone]

end

/-- Settles O23: each instruction is the uniform frame with its own effect; WATCH by whether another block holds the range, MBXW by the
entry's FULL. -/
theorem handlerInstructions : Obligations.HandlerInstructions := by
  unfold Obligations.HandlerInstructions
  intro s
  refine ⟨fun f h => runTsb_go h, fun f h => runTsb_go h, fun f h => execHaltb_go h, fun f h => execStep_go h,
    fun f h => ⟨fun ⟨hen, hblock⟩ => execWatch_taken h hen hblock, execWatch_free h⟩, ?_,
    fun f h hn howned hdone => execMbxr_go hn howned hdone h⟩
  intro f h hn howned hdone
  change execMbxw f s = _
  rw [execMbxw_go hn howned hdone h]
  by_cases hfull : (s.lantern (2 * (s.team s.cur).sr f.a.toNat + 1)).getLsbD 63 = true
  · rw [State.lanternPut_full _ _ hfull]
    dsimp only
    rw [if_pos hfull, if_pos hfull]
    rfl
  · rw [State.lanternPut_empty _ _ (by rwa [Bool.not_eq_true] at hfull)]
    dsimp only
    rw [if_neg hfull, if_neg hfull]
    rfl

end Sys2Proof.Machine
end

section
/-!
What every step keeps: the canonical form of the memories (log entry 1).
-/
namespace Sys2Proof.Machine

/-- Every row of the opcode table keeps it: the dispatch, arm by arm. -/
theorem exec_ok {n : Nat} (i : Instr) (s : State) (h : s.Ok n) : okOut n (exec i s) :=
  match i with
  | .iadd f => execIadd_ok f s h
  | .isub f => execIsub_ok f s h
  | .imul f => execImul_ok f s h
  | .imulh f => execImulh_ok f s h
  | .imad f => execImad_ok f s h
  | .idiv f => execIdiv_ok f s h
  | .irem f => execIrem_ok f s h
  | .imin f => execImin_ok f s h
  | .imax f => execImax_ok f s h
  | .iabsS f => execIabsS_ok f s h
  | .iabsL f => execIabsL_ok f s h
  | .inegS f => execInegS_ok f s h
  | .inegL f => execInegL_ok f s h
  | .iadds f => execIadds_ok f s h
  | .isubs f => execIsubs_ok f s h
  | .and f => execAnd_ok f s h
  | .or f => execOr_ok f s h
  | .xor f => execXor_ok f s h
  | .andn f => execAndn_ok f s h
  | .notS f => execNotS_ok f s h
  | .notL f => execNotL_ok f s h
  | .shl f => execShl_ok f s h
  | .shr f => execShr_ok f s h
  | .sar f => execSar_ok f s h
  | .rol f => execRol_ok f s h
  | .bfx f => execBfx_ok f s h
  | .bfi f => execBfi_ok f s h
  | .popcS f => execPopcS_ok f s h
  | .popcL f => execPopcL_ok f s h
  | .clzS f => execClzS_ok f s h
  | .clzL f => execClzL_ok f s h
  | .ctzS f => execCtzS_ok f s h
  | .ctzL f => execCtzL_ok f s h
  | .brevS f => execBrevS_ok f s h
  | .brevL f => execBrevL_ok f s h
  | .sel f => execSel_ok f s h
  | .movS f => execMovS_ok f s h
  | .movL f => execMovL_ok f s h
  | .movi f => execMovi_ok f s h
  | .prmt f => execPrmt_ok f s h
  | .srd f => execSrd_ok f s h
  | .swr f => execSwr_ok f s h
  | .iaddc f => execIaddc_ok f s h
  | .fadd f => execFadd_ok f s h
  | .fsub f => execFsub_ok f s h
  | .fmul f => execFmul_ok f s h
  | .ffma f => execFfma_ok f s h
  | .fmin f => execFmin_ok f s h
  | .fmax f => execFmax_ok f s h
  | .fabsS f => execFabsS_ok f s h
  | .fabsL f => execFabsL_ok f s h
  | .fnegS f => execFnegS_ok f s h
  | .fnegL f => execFnegL_ok f s h
  | .fdiv f => execFdiv_ok f s h
  | .fsqrtS f => execFsqrtS_ok f s h
  | .fsqrtL f => execFsqrtL_ok f s h
  | .frcpS f => execFrcpS_ok f s h
  | .frcpL f => execFrcpL_ok f s h
  | .frintS f => execFrintS_ok f s h
  | .frintL f => execFrintL_ok f s h
  | .fclassS f => execFclassS_ok f s h
  | .fclassL f => execFclassL_ok f s h
  | .fscale f => execFscale_ok f s h
  | .fdot2 f => execFdot2_ok f s h
  | .cvt f => execCvt_ok f s h
  | .pack f => execPack_ok f s h
  | .unpk f => execUnpk_ok f s h
  | .sbq f => execSbq_ok f s h
  | .sbdq f => execSbdq_ok f s h
  | .icmp f => execIcmp_ok f s h
  | .fcmp f => execFcmp_ok f s h
  | .plop f => execPlop_ok f s h
  | .pmov f => execPmov_ok f s h
  | .shfl f => execShfl_ok f s h
  | .bcst f => execBcst_ok f s h
  | .vote f => execVote_ok f s h
  | .mbalS f => execMbalS_ok f s h
  | .mbalL f => execMbalL_ok f s h
  | .scanS f => execScanS_ok f s h
  | .scanL f => execScanL_ok f s h
  | .redS f => execRedS_ok f s h
  | .redL f => execRedL_ok f s h
  | .tsort f => execTsort_ok f s h
  | .tselk f => execTselk_ok f s h
  | .cexp2 f => execCexp2_ok f s h
  | .clog2 f => execClog2_ok f s h
  | .csin f => execCsin_ok f s h
  | .ccos f => execCcos_ok f s h
  | .csincos f => execCsincos_ok f s h
  | .catan2 f => execCatan2_ok f s h
  | .ctanh f => execCtanh_ok f s h
  | .csigm f => execCsigm_ok f s h
  | .crsq f => execCrsq_ok f s h
  | .csqrt f => execCsqrt_ok f s h
  | .ld f => execLd_ok f s h
  | .st f => execSt_ok f s h
  | .ldb f => execLdb_ok f s h
  | .stb f => execStb_ok f s h
  | .amo f => execAmo_ok f s h
  | .amn f => execAmn_ok f s h
  | .acas f => execAcas_ok f s h
  | .fence f => execFence_ok f s h
  | .pref f => execPref_ok f s h
  | .ldc f => execLdc_ok f s h
  | .tlook f => execTlook_ok f s h
  | .tins f => execTins_ok f s h
  | .tdel f => execTdel_ok f s h
  | .tmod f => execTmod_ok f s h
  | .tset f => execTset_ok f s h
  | .topen f => execTopen_ok f s h
  | .tnext f => execTnext_ok f s h
  | .tseek f => execTseek_ok f s h
  | .tclose f => execTclose_ok f s h
  | .tcnt f => execTcnt_ok f s h
  | .tstat f => execTstat_ok f s h
  | .mma f => execMma_ok f s h
  | .mflushS f => execMflushS_ok f s h
  | .mflushL f => execMflushL_ok f s h
  | .kvx f => execKvx_ok f s h
  | .qmc f => execQmc_ok f s h
  | .credS f => execCredS_ok f s h
  | .credL f => execCredL_ok f s h
  | .cpk f => execCpk_ok f s h
  | .binit f => execBinit_ok f s h
  | .barr f => execBarr_ok f s h
  | .bwait f => execBwait_ok f s h
  | .waitt f => execWaitt_ok f s h
  | .qpush f => execQpush_ok f s h
  | .qpop f => execQpop_ok f s h
  | .rdx f => execRdx_ok f s h
  | .qstat f => execQstat_ok f s h
  | .bra f => execBra_ok f s h
  | .brv f => execBrv_ok f s h
  | .bany f => execBany_ok f s h
  | .ball f => execBall_ok f s h
  | .call f => execCall_ok f s h
  | .retS f => execRetS_ok f s h
  | .retL f => execRetL_ok f s h
  | .jmpi f => execJmpi_ok f s h
  | .loop f => execLoop_ok f s h
  | .exitS f => execExitS_ok f s h
  | .exitL f => execExitL_ok f s h
  | .bar f => execBar_ok f s h
  | .sleepS f => execSleepS_ok f s h
  | .sleepL f => execSleepL_ok f s h
  | .yield f => execYield_ok f s h
  | .trap f => execTrap_ok f s h
  | .sgpost f => execSgpost_ok f s h
  | .sgpoll f => execSgpoll_ok f s h
  | .sgchk f => execSgchk_ok f s h
  | .launch f => execLaunch_ok f s h
  | .evsig f => execEvsig_ok f s h
  | .evwait f => execEvwait_ok f s h
  | .rte f => execRte_ok f s h
  | .tsbS f => execTsbS_ok f s h
  | .tsbL f => execTsbL_ok f s h
  | .haltb f => execHaltb_ok f s h
  | .step f => execStep_ok f s h
  | .bkpt f => execBkpt_ok f s h
  | .watch f => execWatch_ok f s h
  | .mbxw f => execMbxw_ok f s h
  | .mbxr f => execMbxr_ok f s h
  | .ill word => execIll_ok word s h
  | .lateReply reply => execLateReply_ok reply s h
  | .registerMissFill team reg word => execRegisterMissFill_ok team reg word s h
  | .teamActivation core => execTeamActivation_ok core s h
  | .teamEviction core part => execTeamEviction_ok core part s h
  | .readyListSteal core => execReadyListSteal_ok core s h
  | .starvationPick core part => execStarvationPick_ok core part s h
  | .requestRetry team => execRequestRetry_ok team s h
  | .teamResume team => execTeamResume_ok team s h
  | .sleepWake team => execSleepWake_ok team s h
  | .teamRetirement team => execTeamRetirement_ok team s h
  | .contextImageFree team => execContextImageFree_ok team s h
  | .cancelledPendingRetire team => execCancelledPendingRetire_ok team s h
  | .blockPlacement job images => execBlockPlacement_ok job images s h
  | .turnEnd cluster => execTurnEnd_ok cluster s h
  | .mmaArrayExecution core part => execMmaArrayExecution_ok core part s h
  | .oculusMerge block => execOculusMerge_ok block s h
  | .copyRow request => execCopyRow_ok request s h
  | .pushAccept request => execPushAccept_ok request s h
  | .popServe request => execPopServe_ok request s h
  | .rdxDepositArrival deposit => execRdxDepositArrival_ok deposit s h
  | .bucketFlush job stage bucket => execBucketFlush_ok job stage bucket s h
  | .stageDrain job stage => execStageDrain_ok job stage s h
  | .spireBatch batch => execSpireBatch_ok batch s h
  | .spireVerdict verdict => execSpireVerdict_ok verdict s h
  | .kvRelease group sibling => execKvRelease_ok group sibling s h
  | .campanilePost post => execCampanilePost_ok post s h
  | .finishedSiblingCheck group => execFinishedSiblingCheck_ok group s h
  | .tailLineInvalidation fe queue => execTailLineInvalidation_ok fe queue s h
  | .descriptorConsume fe queue => execDescriptorConsume_ok fe queue s h
  | .launchDescriptor job => execLaunchDescriptor_ok job s h
  | .directoryUpdate job => execDirectoryUpdate_ok job s h
  | .queueDescriptor job => execQueueDescriptor_ok job s h
  | .cancel job => execCancel_ok job s h
  | .signal job => execSignal_ok job s h
  | .groupOpen job => execGroupOpen_ok job s h
  | .groupFree job => execGroupFree_ok job s h
  | .groupFreeCompletion job => execGroupFreeCompletion_ok job s h
  | .waitCounterWrite job => execWaitCounterWrite_ok job s h
  | .launchCompletion job => execLaunchCompletion_ok job s h
  | .invalidationComplete fn => execInvalidationComplete_ok fn s h
  | .quotaLimitExpiry team => execQuotaLimitExpiry_ok team s h
  | .blockAccess acc => execBlockAccess_ok acc s h
  | .discardComplete fn => execDiscardComplete_ok fn s h
  | .heldWriteRelease die => execHeldWriteRelease_ok die s h
  | .heldWriteExpiry die => execHeldWriteExpiry_ok die s h
  | .reclamationRound die => execReclamationRound_ok die s h
  | .balwaitExpiry die => execBalwaitExpiry_ok die s h
  | .promotion frame => execPromotion_ok frame s h
  | .rds msg => execRds_ok msg s h
  | .rdxMsg msg => execRdxMsg_ok msg s h
  | .ownnd msg => execOwnnd_ok msg s h
  | .upg msg => execUpg_ok msg s h
  | .atomicreq msg => execAtomicreq_ok msg s h
  | .wb msg => execWb_ok msg s h
  | .snps msg => execSnps_ok msg s h
  | .snpx msg => execSnpx_ok msg s h
  | .inv msg => execInv_ok msg s h
  | .bi msg => execBi_ok msg s h
  | .data msg => execData_ok msg s h
  | .rsp msg => execRsp_ok msg s h
  | .atomicrsp msg => execAtomicrsp_ok msg s h
  | .retry msg => execRetry_ok msg s h
  | .poison msg => execPoison_ok msg s h
  | .reservedOpcode word => execReservedOpcode_ok word s h
  | .invcmd => execInvcmd_ok s h
  | .fsresolve => execFsresolve_ok s h
  | .pquotaWrite => execPquotaWrite_ok s h
  | .dlheadWrite => execDlheadWrite_ok s h
  | .discard => execDiscard_ok s h
  | .logicalTimeTick => execLogicalTimeTick_ok s h
  | .rdshared => execRdshared_ok s h
  | .rdown => execRdown_ok s h
  | .dirtyevict => execDirtyevict_ok s h
  | .cleanevict => execCleanevict_ok s h
  | .snpdata => execSnpdata_ok s h
  | .snpinv => execSnpinv_ok s h
  | .snpcur => execSnpcur_ok s h
  | .bisnpinv => execBisnpinv_ok s h
  | .bisnpdata => execBisnpdata_ok s h
  | .birsp => execBirsp_ok s h
  | .memrd => execMemrd_ok s h
  | .memwr => execMemwr_ok s h
  | .flit => execFlit_ok s h
  | .portTraining => execPortTraining_ok s h
  | .portDown => execPortDown_ok s h
  | .lockInterfaceRequest => execLockInterfaceRequest_ok s h
  | .startInterfaceRequest => execStartInterfaceRequest_ok s h
  | .stopInterfaceRequest => execStopInterfaceRequest_ok s h
  | .getDeviceInterfaceReport => execGetDeviceInterfaceReport_ok s h
  | .getDeviceInterfaceState => execGetDeviceInterfaceState_ok s h
  | .algorithmNegotiation => execAlgorithmNegotiation_ok s h
  | .keyExchange => execKeyExchange_ok s h
  | .finish => execFinish_ok s h
  | .heartbeat => execHeartbeat_ok s h
  | .keyUpdate => execKeyUpdate_ok s h
  | .endSession => execEndSession_ok s h
  | .getMeasurements => execGetMeasurements_ok s h
  | .bind => execBind_ok s h
  | .sessionOpen => execSessionOpen_ok s h
  | .sessionClose => execSessionClose_ok s h
  | .sessionKeyUpdate => execSessionKeyUpdate_ok s h
  | .update => execUpdate_ok s h
  | .updateReadComplete => execUpdateReadComplete_ok s h
  | .commit => execCommit_ok s h
  | .warmReset => execWarmReset_ok s h
  | .coldReset => execColdReset_ok s h
  | .functionLevelReset => execFunctionLevelReset_ok s h
  | .d3hotEntry => execD3hotEntry_ok s h
  | .d3hotExit => execD3hotExit_ok s h
  | .d3cold => execD3cold_ok s h
  | .d0IdleEntry => execD0IdleEntry_ok s h
  | .d0IdleExit => execD0IdleExit_ok s h
  | .sensorWarning => execSensorWarning_ok s h
  | .shutdown => execShutdown_ok s h
  | .clockStepDown => execClockStepDown_ok s h
  | .clockStepUp => execClockStepUp_ok s h
  | .lantentHighWrite => execLantentHighWrite_ok s h
  | .lantentHighRead => execLantentHighRead_ok s h
  | .lantasgWrite => execLantasgWrite_ok s h
  | .lqcfgWrite => execLqcfgWrite_ok s h
  | .fsqcfgWrite => execFsqcfgWrite_ok s h
  | .fsqheadWrite => execFsqheadWrite_ok s h
  | .rrheadWrite => execRrheadWrite_ok s h
  | .ptrootWrite => execPtrootWrite_ok s h
  | .ncwinWrite => execNcwinWrite_ok s h
  | .l2cfgWrite => execL2cfgWrite_ok s h
  | .aliasWrite => execAliasWrite_ok s h
  | .registerWrite => execRegisterWrite_ok s h
  | .debuggerHalt => execDebuggerHalt_ok s h
  | .debuggerResume => execDebuggerResume_ok s h
  | .sensorWarningEnd => execSensorWarningEnd_ok s h
/-! The step around the instructions. -/

theorem State.afterExec_ok {n : Nat} (x : Instr) (s : State) {r : Ran} (h : okOut n r) : okOut n (afterExec x s r) := by
  cases r with
  | next t => exact State.clocked_ok _ (State.completed_ok _ _ _ _ h)
  | fault e => trivial
  | refused e => trivial

theorem State.issue_ok {n : Nat} (s : State) (h : s.Ok n) : okOut n s.issue := by
  unfold State.issue
  split
  · exact h
  cases hb : s.boundary s.cur with
  | some t => exact State.clocked_ok _ (State.boundary_ok s s.cur h t hb)
  | none =>
    have hr := State.ready_ok s h
    dsimp only
    cases s.ready.2 with
    | none => exact State.clocked_ok _ hr
    | some x => exact State.afterExec_ok _ _ (exec_ok x _ hr)

theorem State.outside_ok {n : Nat} (s : State) (e : Instr × Input) (h : s.Ok n) : okOut n (s.outside e) := by
  unfold State.outside
  split
  · exact h
  split
  · exact h
  have hx := exec_ok e.1 { s with inp := e.2 } h
  split
  case h_1 t ht =>
    rw [ht] at hx
    exact hx
  case h_2 => exact hx

theorem State.make_ok {n : Nat} (s : State) (m : Move) (h : s.Ok n) : ∀ r, s.make m = some r → okOut n r := by
  intro r hr
  cases m with
  | resume k =>
    simp only [State.make] at hr
    split at hr
    · cases hr
      exact State.outside_ok _ _ h
    · cases hr
  | event i =>
    have hx := exec_ok i s h
    simp only [State.make] at hr
    split at hr
    · split at hr <;> cases hr
      simpa [*] using hx
    · cases hr
      exact hx
  | pick i =>
    cases hr
    exact h
  | clock =>
    cases hr
    exact State.passClock_ok s h

theorem State.turn_ok {n : Nat} (s : State) (h : s.Ok n) : okOut n s.turn := by
  unfold State.turn
  split
  · split
    · exact exec_ok .shutdown s h
    · exact State.tick_ok s h
  split
  · exact State.issue_ok s h
  split
  · cases hm : s.moves.findSome? s.make with
    | none => exact State.passClock_ok s h
    | some r =>
      obtain ⟨m, -, hr⟩ := List.exists_of_findSome?_eq_some hm
      exact State.make_ok s m h r hr
  · next k rest _ =>
    dsimp only
    cases hm : State.make { s with order := rest } (State.moves { s with order := rest } |>.getD k .clock) with
    | none => exact h
    | some r => exact State.make_ok { s with order := rest } _ h r hm

/-- The step lemma of the invariant. -/
theorem step_ok {n : Nat} (s : State) (h : s.Ok n) : okOut n (step s) := by
  unfold step
  split
  · split
    · exact State.turn_ok s h
    · exact State.outside_ok _ _ h
  · exact State.turn_ok s h

/-- Settles O58: the step lemma, with no fuse asked for. -/
theorem memoryStaysCanonical : Obligations.MemoryStaysCanonical := by
  unfold Obligations.MemoryStaysCanonical
  intro s t h hs
  have ht := step_ok (n := 0) s ⟨Nat.zero_le _, h⟩
  rw [hs] at ht
  exact ht.2

end Sys2Proof.Machine
end

section
/-!
Encoding and decoding (03 R44–R51, R66).
-/
namespace Sys2Proof.Laws.Rows

open Sys2Proof Sys2Proof.Machine

/-- The statement of each row, together. -/
theorem statement (i : Instr) : Statement i :=
  match i with
  | .iadd f => iadd f
  | .isub f => isub f
  | .imul f => imul f
  | .imulh f => imulh f
  | .imad f => imad f
  | .idiv f => idiv f
  | .irem f => irem f
  | .imin f => imin f
  | .imax f => imax f
  | .iabsS f => iabsS f
  | .iabsL f => iabsL f
  | .inegS f => inegS f
  | .inegL f => inegL f
  | .iadds f => iadds f
  | .isubs f => isubs f
  | .and f => and f
  | .or f => or f
  | .xor f => xor f
  | .andn f => andn f
  | .notS f => notS f
  | .notL f => notL f
  | .shl f => shl f
  | .shr f => shr f
  | .sar f => sar f
  | .rol f => rol f
  | .bfx f => bfx f
  | .bfi f => bfi f
  | .popcS f => popcS f
  | .popcL f => popcL f
  | .clzS f => clzS f
  | .clzL f => clzL f
  | .ctzS f => ctzS f
  | .ctzL f => ctzL f
  | .brevS f => brevS f
  | .brevL f => brevL f
  | .sel f => sel f
  | .movS f => movS f
  | .movL f => movL f
  | .movi f => movi f
  | .prmt f => prmt f
  | .srd f => srd f
  | .swr f => swr f
  | .iaddc f => iaddc f
  | .fadd f => fadd f
  | .fsub f => fsub f
  | .fmul f => fmul f
  | .ffma f => ffma f
  | .fmin f => fmin f
  | .fmax f => fmax f
  | .fabsS f => fabsS f
  | .fabsL f => fabsL f
  | .fnegS f => fnegS f
  | .fnegL f => fnegL f
  | .fdiv f => fdiv f
  | .fsqrtS f => fsqrtS f
  | .fsqrtL f => fsqrtL f
  | .frcpS f => frcpS f
  | .frcpL f => frcpL f
  | .frintS f => frintS f
  | .frintL f => frintL f
  | .fclassS f => fclassS f
  | .fclassL f => fclassL f
  | .fscale f => fscale f
  | .fdot2 f => fdot2 f
  | .cvt f => cvt f
  | .pack f => pack f
  | .unpk f => unpk f
  | .sbq f => sbq f
  | .sbdq f => sbdq f
  | .icmp f => icmp f
  | .fcmp f => fcmp f
  | .plop f => plop f
  | .pmov f => pmov f
  | .shfl f => shfl f
  | .bcst f => bcst f
  | .vote f => vote f
  | .mbalS f => mbalS f
  | .mbalL f => mbalL f
  | .scanS f => scanS f
  | .scanL f => scanL f
  | .redS f => redS f
  | .redL f => redL f
  | .tsort f => tsort f
  | .tselk f => tselk f
  | .cexp2 f => cexp2 f
  | .clog2 f => clog2 f
  | .csin f => csin f
  | .ccos f => ccos f
  | .csincos f => csincos f
  | .catan2 f => catan2 f
  | .ctanh f => ctanh f
  | .csigm f => csigm f
  | .crsq f => crsq f
  | .csqrt f => csqrt f
  | .ld f => ld f
  | .st f => st f
  | .ldb f => ldb f
  | .stb f => stb f
  | .amo f => amo f
  | .amn f => amn f
  | .acas f => acas f
  | .fence f => fence f
  | .pref f => pref f
  | .ldc f => ldc f
  | .tlook f => tlook f
  | .tins f => tins f
  | .tdel f => tdel f
  | .tmod f => tmod f
  | .tset f => tset f
  | .topen f => topen f
  | .tnext f => tnext f
  | .tseek f => tseek f
  | .tclose f => tclose f
  | .tcnt f => tcnt f
  | .tstat f => tstat f
  | .mma f => mma f
  | .mflushS f => mflushS f
  | .mflushL f => mflushL f
  | .kvx f => kvx f
  | .qmc f => qmc f
  | .credS f => credS f
  | .credL f => credL f
  | .cpk f => cpk f
  | .binit f => binit f
  | .barr f => barr f
  | .bwait f => bwait f
  | .waitt f => waitt f
  | .qpush f => qpush f
  | .qpop f => qpop f
  | .rdx f => rdx f
  | .qstat f => qstat f
  | .bra f => bra f
  | .brv f => brv f
  | .bany f => bany f
  | .ball f => ball f
  | .call f => call f
  | .retS f => retS f
  | .retL f => retL f
  | .jmpi f => jmpi f
  | .loop f => loop f
  | .exitS f => exitS f
  | .exitL f => exitL f
  | .bar f => bar f
  | .sleepS f => sleepS f
  | .sleepL f => sleepL f
  | .yield f => yield f
  | .trap f => trap f
  | .sgpost f => sgpost f
  | .sgpoll f => sgpoll f
  | .sgchk f => sgchk f
  | .launch f => launch f
  | .evsig f => evsig f
  | .evwait f => evwait f
  | .rte f => rte f
  | .tsbS f => tsbS f
  | .tsbL f => tsbL f
  | .haltb f => haltb f
  | .step f => step f
  | .bkpt f => bkpt f
  | .watch f => watch f
  | .mbxw f => mbxw f
  | .mbxr f => mbxr f
  | .ill word => ill word
  | .lateReply reply => lateReply reply
  | .registerMissFill team reg word => registerMissFill team reg word
  | .teamActivation core => teamActivation core
  | .teamEviction core part => teamEviction core part
  | .readyListSteal core => readyListSteal core
  | .starvationPick core part => starvationPick core part
  | .requestRetry team => requestRetry team
  | .teamResume team => teamResume team
  | .sleepWake team => sleepWake team
  | .teamRetirement team => teamRetirement team
  | .contextImageFree team => contextImageFree team
  | .cancelledPendingRetire team => cancelledPendingRetire team
  | .blockPlacement job images => blockPlacement job images
  | .turnEnd cluster => turnEnd cluster
  | .mmaArrayExecution core part => mmaArrayExecution core part
  | .oculusMerge block => oculusMerge block
  | .copyRow request => copyRow request
  | .pushAccept request => pushAccept request
  | .popServe request => popServe request
  | .rdxDepositArrival deposit => rdxDepositArrival deposit
  | .bucketFlush job stage bucket => bucketFlush job stage bucket
  | .stageDrain job stage => stageDrain job stage
  | .spireBatch batch => spireBatch batch
  | .spireVerdict verdict => spireVerdict verdict
  | .kvRelease group sibling => kvRelease group sibling
  | .campanilePost post => campanilePost post
  | .finishedSiblingCheck group => finishedSiblingCheck group
  | .tailLineInvalidation fe queue => tailLineInvalidation fe queue
  | .descriptorConsume fe queue => descriptorConsume fe queue
  | .launchDescriptor job => launchDescriptor job
  | .directoryUpdate job => directoryUpdate job
  | .queueDescriptor job => queueDescriptor job
  | .cancel job => cancel job
  | .signal job => signal job
  | .groupOpen job => groupOpen job
  | .groupFree job => groupFree job
  | .groupFreeCompletion job => groupFreeCompletion job
  | .waitCounterWrite job => waitCounterWrite job
  | .launchCompletion job => launchCompletion job
  | .invalidationComplete fn => invalidationComplete fn
  | .quotaLimitExpiry team => quotaLimitExpiry team
  | .blockAccess acc => blockAccess acc
  | .discardComplete fn => discardComplete fn
  | .heldWriteRelease die => heldWriteRelease die
  | .heldWriteExpiry die => heldWriteExpiry die
  | .reclamationRound die => reclamationRound die
  | .balwaitExpiry die => balwaitExpiry die
  | .promotion frame => promotion frame
  | .rds msg => rds msg
  | .rdxMsg msg => rdxMsg msg
  | .ownnd msg => ownnd msg
  | .upg msg => upg msg
  | .atomicreq msg => atomicreq msg
  | .wb msg => wb msg
  | .snps msg => snps msg
  | .snpx msg => snpx msg
  | .inv msg => inv msg
  | .bi msg => bi msg
  | .data msg => data msg
  | .rsp msg => rsp msg
  | .atomicrsp msg => atomicrsp msg
  | .retry msg => retry msg
  | .poison msg => poison msg
  | .reservedOpcode word => reservedOpcode word
  | .invcmd => invcmd
  | .fsresolve => fsresolve
  | .pquotaWrite => pquotaWrite
  | .dlheadWrite => dlheadWrite
  | .discard => discard
  | .logicalTimeTick => logicalTimeTick
  | .rdshared => rdshared
  | .rdown => rdown
  | .dirtyevict => dirtyevict
  | .cleanevict => cleanevict
  | .snpdata => snpdata
  | .snpinv => snpinv
  | .snpcur => snpcur
  | .bisnpinv => bisnpinv
  | .bisnpdata => bisnpdata
  | .birsp => birsp
  | .memrd => memrd
  | .memwr => memwr
  | .flit => flit
  | .portTraining => portTraining
  | .portDown => portDown
  | .lockInterfaceRequest => lockInterfaceRequest
  | .startInterfaceRequest => startInterfaceRequest
  | .stopInterfaceRequest => stopInterfaceRequest
  | .getDeviceInterfaceReport => getDeviceInterfaceReport
  | .getDeviceInterfaceState => getDeviceInterfaceState
  | .algorithmNegotiation => algorithmNegotiation
  | .keyExchange => keyExchange
  | .finish => finish
  | .heartbeat => heartbeat
  | .keyUpdate => keyUpdate
  | .endSession => endSession
  | .getMeasurements => getMeasurements
  | .bind => bind
  | .sessionOpen => sessionOpen
  | .sessionClose => sessionClose
  | .sessionKeyUpdate => sessionKeyUpdate
  | .update => update
  | .updateReadComplete => updateReadComplete
  | .commit => commit
  | .warmReset => warmReset
  | .coldReset => coldReset
  | .functionLevelReset => functionLevelReset
  | .d3hotEntry => d3hotEntry
  | .d3hotExit => d3hotExit
  | .d3cold => d3cold
  | .d0IdleEntry => d0IdleEntry
  | .d0IdleExit => d0IdleExit
  | .sensorWarning => sensorWarning
  | .shutdown => shutdown
  | .clockStepDown => clockStepDown
  | .clockStepUp => clockStepUp
  | .lantentHighWrite => lantentHighWrite
  | .lantentHighRead => lantentHighRead
  | .lantasgWrite => lantasgWrite
  | .lqcfgWrite => lqcfgWrite
  | .fsqcfgWrite => fsqcfgWrite
  | .fsqheadWrite => fsqheadWrite
  | .rrheadWrite => rrheadWrite
  | .ptrootWrite => ptrootWrite
  | .ncwinWrite => ncwinWrite
  | .l2cfgWrite => l2cfgWrite
  | .aliasWrite => aliasWrite
  | .registerWrite => registerWrite
  | .debuggerHalt => debuggerHalt
  | .debuggerResume => debuggerResume
  | .sensorWarningEnd => sensorWarningEnd
end Sys2Proof.Laws.Rows

namespace Sys2Proof

open Machine

theorem tyOfCode_tyCode (t : Ty) : tyOfCode (tyCode t) = t := by cases t <;> rfl

theorem tyCode_lt (t : Ty) : tyCode t < 16 := by cases t <;> decide

theorem boolNat_lt (b : Bool) : boolNat b < 2 := by cases b <;> decide

theorem boolNat_beq_one (b : Bool) : (boolNat b == 1) = b := by cases b <;> rfl

/-- A field of `n` bits that stands where its value does. -/
theorem ofNat_natBits {n x hi lo : Nat} {v : BitVec n} (h : x / 2 ^ lo % 2 ^ (hi - lo + 1) = v.toNat) :
    BitVec.ofNat n (natBits x hi lo) = v := by
  rw [natBits, h, BitVec.ofNat_toNat, BitVec.setWidth_eq]

/-- A flag that stands where its bit does. -/
theorem natBit_flag {x k : Nat} {b : Bool} (h : x / 2 ^ k % 2 = boolNat b) : natBit x k = b := by
  rw [natBit, h, boolNat_beq_one]

/-! Word 0. -/

section
variable {op len : Nat} (uni gn : Bool) (gp : BitVec 3) (d a : BitVec 8) (hop : op < 512) (hlen : len < 4)
include hop hlen

/-- The fields fill word 0, so none is cut off. -/
theorem word0_toNat : (word0 op len uni gp gn d a).toNat
    = len + 4 * boolNat uni + 8 * gp.toNat + 64 * boolNat gn + 128 * op + 65536 * d.toNat + 16777216 * a.toNat := by
  have hu := boolNat_lt uni
  have hn := boolNat_lt gn
  have hg := gp.isLt
  have hd := d.isLt
  have ha := a.isLt
  rw [word0, BitVec.toNat_ofNat, Nat.mod_eq_of_lt (by omega)]

theorem word0_len : (word0 op len uni gp gn d a).toNat % 4 = len := by
  rw [word0_toNat uni gn gp d a hop hlen]
  omega

theorem opOf_word0 : opOf (word0 op len uni gp gn d a) = op := by
  have hu := boolNat_lt uni
  have hn := boolNat_lt gn
  have hg := gp.isLt
  rw [opOf, natBits, word0_toNat uni gn gp d a hop hlen]
  omega

/-- Every field of word 0 stands at its bits (R48). -/
theorem parseShort_word0 : parseShort (word0 op len uni gp gn d a) = { uni := uni, gp := gp, gn := gn, d := d, a := a } := by
  have hu := boolNat_lt uni
  have hn := boolNat_lt gn
  have hg := gp.isLt
  have hd := d.isLt
  have ha := a.isLt
  rw [parseShort, word0_toNat uni gn gp d a hop hlen]
  simp only [SForm.mk.injEq]
  refine ⟨natBit_flag ?_, ofNat_natBits ?_, natBit_flag ?_, ofNat_natBits ?_, ofNat_natBits ?_⟩
  all_goals omega

end

/-! Word 1. -/

theorem word1_toNat (f : Form) : (word1 f).toNat
    = f.b.toNat + 256 * f.c.toNat + 65536 * boolNat f.wa + 131072 * boolNat f.wb + 262144 * boolNat f.wc
      + 524288 * boolNat f.ka + 1048576 * boolNat f.kb + 2097152 * boolNat f.kc + 4194304 * tyCode f.ty
      + 67108864 * f.mod.toNat + 536870912 * f.xl.toNat := by
  have h1 := f.b.isLt
  have h2 := f.c.isLt
  have h3 := boolNat_lt f.wa
  have h4 := boolNat_lt f.wb
  have h5 := boolNat_lt f.wc
  have h6 := boolNat_lt f.ka
  have h7 := boolNat_lt f.kb
  have h8 := boolNat_lt f.kc
  have h9 := tyCode_lt f.ty
  have h10 := f.mod.isLt
  have h11 := f.xl.isLt
  rw [word1, BitVec.toNat_ofNat, Nat.mod_eq_of_lt (by omega)]

/-- The fields of word 0 are those of the S-form (R48). -/
theorem parseWide_eq (w0 w1 : W32) (lit : Option W32) : parseWide w0 w1 lit
    = { uni := (parseShort w0).uni, gp := (parseShort w0).gp, gn := (parseShort w0).gn, d := (parseShort w0).d, a := (parseShort w0).a,
        b := BitVec.ofNat 8 (natBits w1.toNat 7 0), c := BitVec.ofNat 8 (natBits w1.toNat 15 8),
        wa := natBit w1.toNat 16, wb := natBit w1.toNat 17, wc := natBit w1.toNat 18,
        ka := natBit w1.toNat 19, kb := natBit w1.toNat 20, kc := natBit w1.toNat 21,
        ty := tyOfCode (natBits w1.toNat 25 22), mod := BitVec.ofNat 3 (natBits w1.toNat 28 26),
        xl := BitVec.ofNat 3 (natBits w1.toNat 31 29), lit := lit } := rfl

/-- Every field of word 1 stands at its bits (R49). -/
theorem parseWide_words {op len : Nat} (f : Form) (hop : op < 512) (hlen : len < 4) :
    parseWide (word0 op len f.uni f.gp f.gn f.d f.a) (word1 f) f.lit = f := by
  obtain ⟨uni, gp, gn, d, a, b, c, wa, wb, wc, ka, kb, kc, ty, mod, xl, lit⟩ := f
  have h1 := b.isLt
  have h2 := c.isLt
  have h3 := boolNat_lt wa
  have h4 := boolNat_lt wb
  have h5 := boolNat_lt wc
  have h6 := boolNat_lt ka
  have h7 := boolNat_lt kb
  have h8 := boolNat_lt kc
  have h9 := tyCode_lt ty
  have h10 := mod.isLt
  have h11 := xl.isLt
  rw [parseWide_eq, parseShort_word0 _ _ _ _ _ hop hlen, word1_toNat]
  simp only [Form.mk.injEq, true_and, and_true]
  refine ⟨ofNat_natBits ?_, ofNat_natBits ?_, natBit_flag ?_, natBit_flag ?_, natBit_flag ?_, natBit_flag ?_, natBit_flag ?_, natBit_flag ?_,
    (congrArg tyOfCode ?_).trans (tyOfCode_tyCode ty), ofNat_natBits ?_, ofNat_natBits ?_⟩
  case refine_9 =>
    rw [natBits]
    omega
  all_goals omega

/-! Decoding the words of a form whose row is its own. -/

section
variable {op : Nat} {lim : Limits} (hpos : 0 < op) (hop : op < 512) (hrow : (rowOf descTable op).isSome = true)
include hpos hop hrow

theorem decodeWords_short {f : SForm} {i : Instr} (hmk : (rowOf shortRows op).map (fun mk => mk f) = some i)
    (hc : checkForm op lim true (expandShort op f) = none) (w1 w2 : W32) :
    decodeWords lim (word0 op 0 f.uni f.gp f.gn f.d f.a) w1 w2 = .ok i := by
  obtain ⟨mk, hmk', rfl⟩ := Option.map_eq_some_iff.1 hmk
  have hne : (rowOf descTable op).isNone = false := by simpa [Option.isSome_iff_ne_none] using hrow
  unfold decodeWords
  dsimp only
  rw [opOf_word0 _ _ _ _ _ hop (by decide), word0_len _ _ _ _ _ hop (by decide), if_neg (by decide), if_neg (by omega), hne,
    if_neg Bool.false_ne_true, if_pos rfl, parseShort_word0 _ _ _ _ _ hop (by decide), hc, hmk']

theorem decodeWords_wide {f : Form} {i : Instr} {len : Nat} {w2 : W32} (hmk : (rowOf wideRows op).map (fun mk => mk f) = some i)
    (hc : checkForm op lim false f = none) (hlen : len = 1 ∧ f.lit = none ∨ len = 2 ∧ f.lit = some w2) :
    decodeWords lim (word0 op len f.uni f.gp f.gn f.d f.a) (word1 f) w2 = .ok i := by
  obtain ⟨mk, hmk', rfl⟩ := Option.map_eq_some_iff.1 hmk
  have hne : (rowOf descTable op).isNone = false := by simpa [Option.isSome_iff_ne_none] using hrow
  have hlt : len < 4 := by omega
  have hlit : (if len = 2 then some w2 else none) = f.lit := by
    obtain ⟨rfl, hl⟩ | ⟨rfl, hl⟩ := hlen <;> simp [hl]
  unfold decodeWords
  dsimp only
  rw [opOf_word0 _ _ _ _ _ hop hlt, word0_len _ _ _ _ _ hop hlt, if_neg (by omega), if_neg (by omega), hne,
    if_neg Bool.false_ne_true, if_neg (by omega), hlit, parseWide_words f hop hlt, hc, hmk']

end

/-- A reserved word decodes to RESERVED_OPCODE (R66). -/
theorem decodeWords_reserved {lim : Limits} {w : W32} (h : reservedWord w = true) (w1 w2 : W32) :
    decodeWords lim w w1 w2 = .ok (.reservedOpcode w) := by
  have hop : w.toNat / 128 % 512 = opOf w := rfl
  simp only [reservedWord, hop, Bool.or_eq_true, Bool.and_eq_true, beq_iff_eq, bne_iff_ne] at h
  unfold decodeWords
  dsimp only
  obtain (hlen | ⟨hzero, hw⟩) | ⟨hpos, hnone⟩ := h
  · rw [if_pos hlen]
  · rw [if_pos hzero, if_neg hw, ite_self]
  · rw [if_neg hpos, if_pos hnone, ite_self]

/-! Well-formed instructions of a row. -/

theorem Instr.wellFormedAt_row {lim : Limits} {x : Instr} (hx : rawOf x ≠ none) (h : x.wellFormedAt lim = true) : x.check lim = none := by
  unfold Instr.wellFormedAt at h
  split at h
  case h_1 => exact absurd rfl hx
  case h_2 => exact absurd rfl hx
  case h_3 => exact Option.isNone_iff_eq_none.1 (Bool.and_eq_true_iff.1 h).1

theorem decodeList_encode_short {lim : Limits} {x : Instr} {op : Nat} {f : SForm} (hr : rawOf x = some (.s op f))
    (h : x.wellFormedAt lim = true) : decodeList lim (encode x) = .ok x := by
  obtain ⟨hmk, hpos, hop, hrow⟩ := (Laws.Rows.statement x).2 op f hr
  have hc := Instr.wellFormedAt_row (by simp [hr]) h
  simp only [Instr.check, hr] at hc
  simp only [encode, hr]
  exact decodeWords_short hpos hop hrow hmk hc _ _

theorem decodeList_encode_wide {lim : Limits} {x : Instr} {op : Nat} {f : Form} (hr : rawOf x = some (.w op f))
    (h : x.wellFormedAt lim = true) : decodeList lim (encode x) = .ok x := by
  obtain ⟨hmk, hpos, hop, hrow⟩ := (Laws.Rows.statement x).1 op f hr
  have hc := Instr.wellFormedAt_row (by simp [hr]) h
  simp only [Instr.check, hr] at hc
  simp only [encode, hr]
  cases hl : f.lit with
  | none => exact decodeWords_wide hpos hop hrow hmk hc (.inl ⟨rfl, hl⟩)
  | some l => exact decodeWords_wide hpos hop hrow hmk hc (.inr ⟨rfl, hl⟩)

/-- Settles O1, by the row that the instruction has: an S-form, an L- or X-form, or one of the two rows that keep their word. -/
theorem decodeOfEncode : Obligations.DecodeOfEncode := by
  unfold Obligations.DecodeOfEncode
  intro lim x h hne
  cases hr : rawOf x with
  | some r =>
    cases r with
    | s op f => exact decodeList_encode_short hr h
    | w op f => exact decodeList_encode_wide hr h
  | none =>
    simp only [encode, hr] at hne ⊢
    split at hne
    case h_1 w =>
      obtain rfl : w = 0 := by simpa [Instr.wellFormedAt] using h
      rfl
    case h_2 w => exact decodeWords_reserved h _ _
    case h_3 => exact absurd rfl hne

end Sys2Proof
end

section
/-!
Elements of integer types (03 R58, R59; 06 R113, R114) and the instructions of one value per lane (06 R122–R139).
-/
namespace Sys2Proof.Machine

/-! Elements. -/

theorem tyWidth_pos (ty : Ty) : 0 < tyWidth ty := by cases ty <;> decide

theorem wrapInt_lt (w : Nat) (x : Int) : wrapInt w x < 2 ^ w := by
  have hpos : (0 : Int) < 2 ^ w := by positivity
  have hlt := Int.emod_lt_of_pos x hpos
  have hnn := Int.emod_nonneg x hpos.ne'
  zify
  rw [wrapInt, Int.toNat_of_nonneg hnn]
  exact hlt

/-- A wrapped integer stands for itself modulo the width. -/
theorem wrapInt_coe (w : Nat) (x : Int) : (wrapInt w x : Int) = x % 2 ^ w := by
  rw [wrapInt, Int.toNat_of_nonneg (Int.emod_nonneg x (by positivity))]

theorem elem_lt (ty : Ty) (x j : Nat) : elem ty x j < 2 ^ tyWidth ty := Nat.mod_lt _ (by positivity)

/-- The range of two's complement. -/
theorem toSigned_range {w n : Nat} (hw : 0 < w) (h : n < 2 ^ w) :
    -(2 : Int) ^ (w - 1) ≤ toSigned w n ∧ toSigned w n ≤ (2 : Int) ^ (w - 1) - 1 := by
  obtain ⟨k, rfl⟩ : ∃ k, w = k + 1 := ⟨w - 1, by omega⟩
  rw [toSigned, Nat.add_sub_cancel]
  have hn : (n : Int) < 2 ^ (k + 1) := by exact_mod_cast h
  rw [pow_succ] at hn ⊢
  have hp : (0 : Int) < 2 ^ k := by positivity
  split_ifs with hlt
  · have : (n : Int) < 2 ^ k := by exact_mod_cast hlt
    omega
  · have : (2 : Int) ^ k ≤ n := by exact_mod_cast not_lt.1 hlt
    omega

/-- A remainder differs from the number by a multiple of the divisor. -/
theorem emod_sub_self_emod (x m : Int) : (x % m - x) % m = 0 :=
  Int.emod_eq_zero_of_dvd ⟨-(x / m), by rw [Int.emod_def]; ring⟩

/-- Two's complement of a wrapped integer differs from it by a multiple of 2^w. -/
theorem toSigned_wrapInt_mod (w : Nat) (x : Int) : (toSigned w (wrapInt w x) - x) % (2 : Int) ^ w = 0 := by
  have hx := emod_sub_self_emod x (2 ^ w)
  rw [toSigned, wrapInt_coe]
  split_ifs
  · exact hx
  · rw [show x % 2 ^ w - 2 ^ w - x = (x % 2 ^ w - x) - (2 : Int) ^ w by ring, Int.sub_emod_right]
    exact hx

/-- Two numbers of one range of 2^w that differ by a multiple of 2^w are equal. -/
theorem eq_of_mod_range {w : Nat} {a b lo : Int} (h : (a - b) % (2 : Int) ^ w = 0) (ha : lo ≤ a ∧ a < lo + 2 ^ w) (hb : lo ≤ b ∧ b < lo + 2 ^ w) :
    a = b := by
  have hdvd := Int.dvd_of_emod_eq_zero h
  have hlt : |a - b| < 2 ^ w := abs_lt.2 ⟨by omega, by omega⟩
  have := Int.eq_zero_of_abs_lt_dvd hdvd hlt
  omega

/-! Values made of elements. -/

/-- The value of a list of digits of width w. -/
theorem joinElems_lt (w : Nat) (es : List (Nat × Nat)) : (joinElems w es).1 < 2 ^ (w * es.length) := by
  induction es with
  | nil => simp [joinElems]
  | cons e r ih =>
    have he : e.1 % 2 ^ w < 2 ^ w := Nat.mod_lt _ (by positivity)
    rw [joinElems, List.length_cons, Nat.mul_succ, Nat.add_comm (w * r.length), pow_add]
    calc e.1 % 2 ^ w + 2 ^ w * (joinElems w r).1 < 2 ^ w * ((joinElems w r).1 + 1) := by rw [Nat.mul_succ]; omega
      _ ≤ 2 ^ w * 2 ^ (w * r.length) := Nat.mul_le_mul_left _ ih

/-- Digit j of the value. -/
theorem joinElems_digit (w : Nat) (es : List (Nat × Nat)) (j : Nat) (h : j < es.length) :
    (joinElems w es).1 / 2 ^ (w * j) % 2 ^ w = es[j].1 % 2 ^ w := by
  induction es generalizing j with
  | nil => exact absurd h (Nat.not_lt_zero _)
  | cons e r ih =>
    have hpos : 0 < 2 ^ w := by positivity
    cases j with
    | zero => simp [joinElems, Nat.add_mul_mod_self_left]
    | succ j =>
      have hdiv : (joinElems w (e :: r)).1 / 2 ^ w = (joinElems w r).1 := by
        rw [joinElems, Nat.add_mul_div_left _ _ hpos, Nat.div_eq_of_lt (Nat.mod_lt _ hpos), Nat.zero_add]
      rw [Nat.mul_succ, Nat.add_comm, pow_add, ← Nat.div_div_eq_div_mul, hdiv]
      exact ih j (Nat.lt_of_succ_lt_succ h)

theorem joinElems_map_eq_sum (w : Nat) (g : Nat → Nat) (hg : ∀ j, g j < 2 ^ w) (n k : Nat) :
    (joinElems w ((List.range' k n).map (fun j => (g j, 0)))).1 * 2 ^ (w * k) = ((List.range' k n).map (fun j => g j * 2 ^ (w * j))).sum := by
  induction n generalizing k with
  | zero => simp [joinElems]
  | succ n ih =>
    rw [List.range'_succ, List.map_cons, List.map_cons, List.sum_cons, joinElems, ← ih (k + 1), Nat.mod_eq_of_lt (hg k), Nat.mul_succ, pow_add]
    ring

theorem joinElems_flags_zero (w : Nat) (g : Nat → Nat) (js : List Nat) : (joinElems w (js.map (fun j => (g j, 0)))).2 = 0 := by
  induction js with
  | nil => rfl
  | cons j r ih => simp [joinElems, ih]

/-- Wrapped elements put together, with no flag, are the value of those elements (06 R113). -/
theorem mapElems_wrapInt (ty : Ty) (g : Nat → Int) : mapElems ty (fun j => (wrapInt (tyWidth ty) (g j), 0)) = (ofElems ty g, 0) := by
  have hval := joinElems_map_eq_sum (tyWidth ty) (fun j => wrapInt (tyWidth ty) (g j)) (fun j => wrapInt_lt _ _) (tyCount ty) 0
  rw [Nat.mul_zero, pow_zero, Nat.mul_one, ← List.range_eq_range'] at hval
  exact Prod.ext hval (joinElems_flags_zero ..)

/-- Element j of the value is the wrapped integer of its place. -/
theorem elem_ofElems (ty : Ty) (g : Nat → Int) {j : Nat} (h : j < tyCount ty) : elem ty (ofElems ty g) j = wrapInt (tyWidth ty) (g j) := by
  have hval : ofElems ty g = (mapElems ty (fun j => (wrapInt (tyWidth ty) (g j), 0))).1 := by rw [mapElems_wrapInt]
  rw [elem, hval, mapElems, joinElems_digit _ _ _ (by simpa [upTo] using h)]
  simp [upTo, Nat.mod_eq_of_lt (wrapInt_lt _ _)]

/-- The range of an element, whatever the value (06 R113). -/
theorem elemInt_range (ty : Ty) (x j : Nat) : tyLo ty ≤ elemInt ty x j ∧ elemInt ty x j ≤ tyHi ty := by
  rw [tyLo, tyHi, elemInt]
  split_ifs
  · exact toSigned_range (tyWidth_pos ty) (elem_lt ty x j)
  · have h : (elem ty x j : Int) < 2 ^ tyWidth ty := by exact_mod_cast elem_lt ty x j
    omega

theorem tyHi_eq (ty : Ty) : tyHi ty = tyLo ty + 2 ^ tyWidth ty - 1 := by cases ty <;> rfl

theorem elemInt_ofElems_mod (ty : Ty) (g : Nat → Int) {j : Nat} (h : j < tyCount ty) :
    (elemInt ty (ofElems ty g) j - g j) % (2 : Int) ^ tyWidth ty = 0 := by
  rw [elemInt, elem_ofElems ty g h]
  split_ifs
  · exact toSigned_wrapInt_mod _ _
  · rw [wrapInt_coe]
    exact emod_sub_self_emod _ _

/-- Settles O6: each element is a digit of its own, and a number within the type's range is the one of its class there. -/
theorem elementsStayApart : Obligations.ElementsStayApart := by
  unfold Obligations.ElementsStayApart
  intro ty
  dsimp only
  refine ⟨fun h => ?_, fun h => ?_, elemInt_range ty, fun g j hj => ⟨fun hg => ?_, elemInt_ofElems_mod ty g hj⟩⟩
  · simp [tyLo, tyHi, h]
  · simp [tyLo, tyHi, h]
  · have hr := elemInt_range ty (ofElems ty g) j
    rw [tyHi_eq] at hg hr
    exact eq_of_mod_range (elemInt_ofElems_mod ty g hj) ⟨hr.1, by omega⟩ ⟨hg.1, by omega⟩

/-! Instructions of two integer operands. -/

/-- Values of lanes that are wrapped elements. -/
def intLane (i : Ins) (g : Int → Int → Int) (t : Team) (l : Nat) : Nat × Nat :=
  (ofElems i.f.ty (fun j => g (elemInt i.f.ty (i.opa t i.wide l) j) (elemInt i.f.ty (i.opb t i.wide l) j)), 0)

theorem int2_eq_intLane (i : Ins) (g : Int → Int → Int) : int2 i g = intLane i g := by
  funext t l
  exact mapElems_wrapInt _ _

theorem ofElems_congr {ty : Ty} {g h : Nat → Int} (e : ∀ j, wrapInt (tyWidth ty) (g j) = wrapInt (tyWidth ty) (h j)) : ofElems ty g = ofElems ty h := by
  simp only [ofElems, e]

/-- 06 R114: 2^w − 1 and −1 are the same bits. -/
theorem wrapInt_divInt (w : Nat) (a b : Int) : wrapInt w (divInt w a b) = wrapInt w (if b = 0 then -1 else Int.tdiv a b) := by
  unfold divInt
  split_ifs
  · rw [wrapInt, wrapInt, show (2 : Int) ^ w - 1 = -1 + 2 ^ w by ring, Int.add_emod_right]
  · rfl

theorem satInt_eq {lo hi : Int} (x : Int) (h : lo ≤ hi) : satInt x lo hi = max lo (min hi x) := by
  unfold satInt
  split_ifs <;> omega

theorem tyLo_le_tyHi (ty : Ty) : tyLo ty ≤ tyHi ty := (elemInt_range ty 0 0).1.trans (elemInt_range ty 0 0).2

theorem ite_lt_eq_min (a b : Int) : (if b < a then b else a) = min a b := by omega

theorem ite_lt_eq_max (a b : Int) : (if a < b then b else a) = max a b := by omega

/-- Each integer instruction of two operands is the shared frame of one value per lane. -/
theorem exec_intBinary {x : Instr} {op : Nat} {f : Form} {g : Int → Int → Int} (s : State) (h : intBinary x = some (op, f, g)) :
    exec x s = runAlu (insW op f) s (intLane (insW op f) g) := by
  unfold intBinary at h
  split at h <;> cases h
  case h_1 => exact congrArg (runAlu _ s) (int2_eq_intLane _ _)
  case h_2 => exact congrArg (runAlu _ s) (int2_eq_intLane _ _)
  case h_3 => exact congrArg (runAlu _ s) (int2_eq_intLane _ _)
  case h_4 => exact congrArg (runAlu _ s) (int2_eq_intLane _ _)
  case h_5 =>
    refine (congrArg (runAlu _ s) (int2_eq_intLane _ _)).trans (congrArg (runAlu _ s) ?_)
    funext t l
    exact Prod.ext (ofElems_congr fun j => wrapInt_divInt _ _ _) rfl
  case h_6 => exact congrArg (runAlu _ s) (int2_eq_intLane _ _)
  case h_7 =>
    simp only [← ite_lt_eq_min]
    exact congrArg (runAlu _ s) (int2_eq_intLane _ _)
  case h_8 =>
    simp only [← ite_lt_eq_max]
    exact congrArg (runAlu _ s) (int2_eq_intLane _ _)
  case h_9 =>
    simp only [← satInt_eq _ (tyLo_le_tyHi f.ty)]
    exact congrArg (runAlu _ s) (int2_eq_intLane _ _)
  case h_10 =>
    simp only [← satInt_eq _ (tyLo_le_tyHi f.ty)]
    exact congrArg (runAlu _ s) (int2_eq_intLane _ _)

/-- Settles O7: each of them in the shared frame, which raises no flag. -/
theorem integerBinaryResults : Obligations.IntegerBinaryResults := by
  unfold Obligations.IntegerBinaryResults
  intro x op f g s ls hx hc
  rw [exec_intBinary s hx]
  exact runAlu_clear _ hc (fun _ _ => rfl)

/-! Bitwise instructions, shifts and counts. -/

/-- Values of lanes that are a function of the whole operands. -/
def bitLane (i : Ins) (g : Nat → Nat → Nat → Nat) (t : Team) (l : Nat) : Nat × Nat :=
  (g (tyWidth i.f.ty) (i.opa t i.wide l) (i.opb t i.wide l) % 2 ^ tyWidth i.f.ty, 0)

theorem shlNat_eq (w a b : Nat) : shlNat w a b = if w ≤ b then 0 else a <<< b := by
  rw [shlNat, Nat.shiftLeft_eq]

theorem shrNat_eq (w a b : Nat) : shrNat w a b = if w ≤ b then 0 else a >>> b := by
  rw [shrNat, Nat.shiftRight_eq_div_pow]

theorem sarNat_eq (w a b : Nat) : sarNat w a b = wrapInt w (toSigned w a / (2 : Int) ^ min b w) := by
  rw [sarNat]
  congr 3
  split_ifs <;> omega

theorem popNat_eq (w a : Nat) : popNat w a = ((upTo w).filter (Nat.testBit a)).length :=
  congrArg (fun p => (List.filter p (upTo w)).length) (funext fun k => nbit_eq_testBit a k)

/-- Each bitwise instruction, shift or count is the shared frame of one value per lane. -/
theorem exec_bitwise {x : Instr} {i : Ins} {g : Nat → Nat → Nat → Nat} (s : State) (h : bitwise x = some (i, g)) :
    exec x s = runAlu i s (bitLane i g) := by
  unfold bitwise at h
  split at h <;> cases h
  case h_7 => simp only [← shlNat_eq]; rfl
  case h_8 => simp only [← shrNat_eq]; rfl
  case h_9 => simp only [← sarNat_eq]; rfl
  case h_12 => simp only [← popNat_eq]; rfl
  case h_13 => simp only [← popNat_eq]; rfl
  all_goals rfl

/-- Settles O8: each of them in the shared frame, which raises no flag. -/
theorem bitwiseResults : Obligations.BitwiseResults := by
  unfold Obligations.BitwiseResults
  intro x i g s ls hx hc
  rw [exec_bitwise s hx]
  exact runAlu_clear _ hc (fun _ _ => rfl)

/-! The other instructions of one value per lane. -/

theorem int1_eq (i : Ins) (g : Int → Int) (t : Team) (l : Nat) : int1 i g t l = (ofElems i.f.ty (fun j => g (elemInt i.f.ty (i.opa t i.wide l) j)), 0) :=
  mapElems_wrapInt _ _

/-- Each of them is the shared frame, with its own value and flags. -/
theorem exec_laneValue {x : Instr} {i : Ins} {g : Team → Nat → Nat × Nat} (s : State) (h : laneValue x = some (i, g)) :
    exec x s = runAlu i s g := by
  unfold laneValue at h
  split at h <;> cases h
  case h_2 => exact congrArg (runAlu _ s) (funext fun t => funext fun l => int1_eq _ _ t l)
  case h_3 => exact congrArg (runAlu _ s) (funext fun t => funext fun l => int1_eq _ _ t l)
  case h_4 => exact congrArg (runAlu _ s) (funext fun t => funext fun l => int1_eq _ _ t l)
  case h_5 => exact congrArg (runAlu _ s) (funext fun t => funext fun l => int1_eq _ _ t l)
  all_goals rfl

/-- Settles O9: the shared frame completes or traps by the enabled flags raised. -/
theorem laneValueResults : Obligations.LaneValueResults := by
  unfold Obligations.LaneValueResults
  refine ⟨fun x i g s ls hx hc hf => ?_, fun x i g s ls hx hc => ?_⟩
  · rw [exec_laneValue s hx]
    exact runAlu_go g hc hf
  · intro t fl hf
    rw [exec_laneValue s hx]
    exact runAlu_trap g hc hf

end Sys2Proof.Machine
end

section
/-!
Registers read back, the frame of the value instructions (03 R54, R55; 06 R122), carries, conversions and special registers (06 R131–R138), and
what empty registers do (03 R56, R57, R70).
-/
namespace Sys2Proof.Machine

/-! One register after a write. -/

/-- Vector registers of two lanes below 1,024 are the same entry only where register and lane are. -/
theorem vkey_inj {r l r' l' : Nat} (h : l < 1024) (h' : l' < 1024) : vkey r l = vkey r' l' ↔ r = r' ∧ l = l' := by
  unfold vkey
  omega

theorem Team.vr_setV (t : Team) {r l r' l' : Nat} (x : Nat) (h : l < 1024) (h' : l' < 1024) :
    (t.setV r l x).vr r' l' = if r' = r ∧ l' = l then x % 2 ^ 32 else t.vr r' l' := by
  simp only [Team.vr, Team.setV, SMap.get_put, vkey_inj h' h]
  split_ifs <;> simp

theorem Team.sr_setS (t : Team) (r x r' : Nat) : (t.setS r x).sr r' = if r' = r then x % 2 ^ 64 else t.sr r' := by
  simp only [Team.sr, Team.setS, SMap.get_put]
  split_ifs <;> simp

theorem Team.sameRegs_setV (t : Team) {r l : Nat} (x : Nat) (h : l < 1024) {rs : List Ref} (hr : Ref.v r l ∈ rs) : t.sameRegs (t.setV r l x) rs := by
  refine ⟨fun r' l' hl' hn => ?_, fun _ _ => rfl, fun _ _ _ _ => rfl, fun _ _ => rfl⟩
  rw [Team.vr_setV t x h hl', if_neg]
  rintro ⟨rfl, rfl⟩
  exact hn hr

theorem Team.sameRegs_setS (t : Team) (r x : Nat) {rs : List Ref} (hr : Ref.s r ∈ rs) : t.sameRegs (t.setS r x) rs := by
  refine ⟨fun _ _ _ _ => rfl, fun r' hn => ?_, fun _ _ _ _ => rfl, fun _ _ => rfl⟩
  rw [Team.sr_setS, if_neg]
  rintro rfl
  exact hn hr

theorem Team.sameControl.refl (t : Team) : t.sameControl t := ⟨rfl, rfl, rfl, rfl, rfl, rfl, rfl, rfl, rfl, rfl, rfl, rfl, rfl, rfl, rfl, rfl, rfl, rfl, rfl⟩

/-! Field D. -/

theorem Ins.writeD_uni {i : Ins} (h : i.f.uni = true) (t : Team) (l x : Nat) : i.writeD t l x = t.setS i.f.d.toNat (scalarOf i.f.ty x) := by
  simp [Ins.writeD, Team.writeReg, h]

theorem Ins.writeD_wide {i : Ins} (h : i.f.uni = false) (hw : tyWide i.f.ty = true) (t : Team) (l x : Nat) :
    i.writeD t l x = (t.setV i.f.d.toNat l (x % 2 ^ 32)).setV (i.f.d.toNat + 1) l (x / 2 ^ 32) := by
  simp [Ins.writeD, Team.writeReg, h, hw]

theorem Ins.writeD_single {i : Ins} (h : i.f.uni = false) (hw : tyWide i.f.ty = false) (t : Team) (l x : Nat) :
    i.writeD t l x = t.setV i.f.d.toNat l x := by
  simp [Ins.writeD, Team.writeReg, h, hw]

theorem Ins.valueRegs_uni {i : Ins} (h : i.f.uni = true) (l : Nat) : i.valueRegs l = [.s i.f.d.toNat] := by
  simp [Ins.valueRegs, refSpan, upTo, h]

theorem Ins.valueRegs_wide {i : Ins} (h : i.f.uni = false) (hw : tyWide i.f.ty = true) (l : Nat) :
    i.valueRegs l = [.v i.f.d.toNat l, .v (i.f.d.toNat + 1) l] := by
  simp [Ins.valueRegs, refSpan, upTo, h, hw, List.range_succ]

theorem Ins.valueRegs_single {i : Ins} (h : i.f.uni = false) (hw : tyWide i.f.ty = false) (l : Nat) : i.valueRegs l = [.v i.f.d.toNat l] := by
  simp [Ins.valueRegs, refSpan, upTo, h, hw]

/-- A value written to D changes the registers of D alone. -/
theorem Ins.writeD_sameRegs (i : Ins) (t : Team) {l : Nat} (x : Nat) (h : l < 1024) {rs : List Ref} (hr : i.valueRegs l ⊆ rs) :
    t.sameRegs (i.writeD t l x) rs := by
  cases hu : i.f.uni with
  | true =>
    rw [Ins.valueRegs_uni hu] at hr
    rw [Ins.writeD_uni hu]
    exact t.sameRegs_setS _ _ (hr (by simp))
  | false =>
    cases hw : tyWide i.f.ty with
    | true =>
      rw [Ins.valueRegs_wide hu hw] at hr
      rw [Ins.writeD_wide hu hw]
      exact (t.sameRegs_setV _ h (hr (by simp))).trans (Team.sameRegs_setV _ _ h (hr (by simp)))
    | false =>
      rw [Ins.valueRegs_single hu hw] at hr
      rw [Ins.writeD_single hu hw]
      exact t.sameRegs_setV _ h (hr (by simp))

/-- Everything of the team but its registers and their full and empty bits stays. -/
theorem Ins.writeD_sameControl (i : Ins) (t : Team) (l x : Nat) : t.sameControl (i.writeD t l x) ∧ (i.writeD t l x).fpflags = t.fpflags
    ∧ (i.writeD t l x).pc = t.pc := by
  cases hu : i.f.uni with
  | true => rw [Ins.writeD_uni hu]; exact ⟨Team.sameControl.refl t, rfl, rfl⟩
  | false =>
    cases hw : tyWide i.f.ty with
    | true => rw [Ins.writeD_wide hu hw]; exact ⟨Team.sameControl.refl t, rfl, rfl⟩
    | false => rw [Ins.writeD_single hu hw]; exact ⟨Team.sameControl.refl t, rfl, rfl⟩

theorem Team.sameControl.trans {t u v : Team} (h : t.sameControl u) (k : u.sameControl v) : t.sameControl v := by
  unfold Team.sameControl at *
  simp only [h, k, and_self]

theorem laneWrites_snoc (i : Ins) (t : Team) (ls : List Nat) (l : Nat) (v : Nat → Nat) :
    laneWrites i t (ls ++ [l]) v = i.writeD (laneWrites i t ls v) l (v l) := by simp [laneWrites]

theorem laneWrites_sameRegs (i : Ins) (t : Team) (ls : List Nat) (v : Nat → Nat) (h : ∀ l ∈ ls, l < 1024) :
    t.sameRegs (laneWrites i t ls v) (ls.flatMap i.valueRegs) := by
  suffices hs : ∀ rs, ls.flatMap i.valueRegs ⊆ rs → t.sameRegs (laneWrites i t ls v) rs from hs _ fun _ => id
  intro rs hrs
  induction ls using List.reverseRecOn with
  | nil => exact Team.sameRegs.refl t rs
  | append_singleton ls l ih =>
    rw [List.flatMap_append, List.append_subset] at hrs
    rw [laneWrites_snoc]
    exact (ih (fun k hk => h k (by simp [hk])) hrs.1).trans (i.writeD_sameRegs _ _ (h l (by simp)) (by simpa using hrs.2))

theorem laneWrites_sameControl (i : Ins) (t : Team) (ls : List Nat) (v : Nat → Nat) : t.sameControl (laneWrites i t ls v)
    ∧ (laneWrites i t ls v).fpflags = t.fpflags ∧ (laneWrites i t ls v).pc = t.pc := by
  induction ls using List.reverseRecOn with
  | nil => exact ⟨Team.sameControl.refl t, rfl, rfl⟩
  | append_singleton ls l ih =>
    obtain ⟨hc, hf, hp⟩ := ih
    obtain ⟨kc, kf, kp⟩ := i.writeD_sameControl (laneWrites i t ls v) l (v l)
    rw [laneWrites_snoc]
    exact ⟨hc.trans kc, kf.trans hf, kp.trans hp⟩

/-! Reading back. -/

theorem Ins.opnd_writeD_same (i : Ins) (t : Team) {l : Nat} (x : Nat) (hu : i.f.uni = false) (h : l < 1024) :
    (i.writeD t l x).opnd false (tyWide i.f.ty) i.f.d.toNat l = x % 2 ^ (if tyWide i.f.ty then 64 else 32) := by
  cases hw : tyWide i.f.ty with
  | true =>
    rw [Ins.writeD_wide hu hw]
    simp only [Team.opnd, Team.vr_setV _ _ h h]
    simp
    omega
  | false =>
    rw [Ins.writeD_single hu hw]
    simp [Team.opnd, Team.vr_setV _ _ h h]

theorem Ins.opnd_writeD_ne (i : Ins) (t : Team) {l k : Nat} (x : Nat) (hu : i.f.uni = false) (h : l < 1024) (hk : k < 1024) (hne : l ≠ k) :
    (i.writeD t k x).opnd false (tyWide i.f.ty) i.f.d.toNat l = t.opnd false (tyWide i.f.ty) i.f.d.toNat l := by
  cases hw : tyWide i.f.ty with
  | true =>
    rw [Ins.writeD_wide hu hw]
    simp [Team.opnd, Team.vr_setV _ _ hk h, hne]
  | false =>
    rw [Ins.writeD_single hu hw]
    simp [Team.opnd, Team.vr_setV _ _ hk h, hne]

/-- A value of each lane reads back from field D, a pair in a lane form of a 64-bit type (03 R54). -/
theorem laneWrites_opnd (i : Ins) (t : Team) (ls : List Nat) (v : Nat → Nat) {l : Nat} (hu : i.f.uni = false) (h : ∀ k ∈ ls, k < 1024) (hl : l ∈ ls) :
    (laneWrites i t ls v).opnd false (tyWide i.f.ty) i.f.d.toNat l = v l % 2 ^ (if tyWide i.f.ty then 64 else 32) := by
  induction ls using List.reverseRecOn with
  | nil => cases hl
  | append_singleton ls k ih =>
    rw [laneWrites_snoc]
    by_cases hk : l = k
    · subst hk
      exact i.opnd_writeD_same _ _ hu (h l hl)
    · rw [i.opnd_writeD_ne _ _ hu (h l hl) (h k (by simp)) hk]
      exact ih (fun j hj => h j (by simp [hj])) (by simpa [hk] using hl)

theorem scalarOf_lt (ty : Ty) (x : Nat) : scalarOf ty x < 2 ^ 64 := by
  unfold scalarOf
  split_ifs
  · exact Nat.mod_lt _ (by positivity)
  · exact BitVec.isLt _
  · exact (Nat.mod_lt _ (by positivity)).trans (by norm_num)

/-! The lanes that an instruction acts on. -/

theorem Ins.passLanes_lt {i : Ins} {t : Team} {ls : List Nat} (h : i.passLanes t = some ls) : ∀ l ∈ ls, l < 1024 := by
  unfold Ins.passLanes at h
  intro l hl
  split_ifs at h <;> cases h
  · rw [List.mem_singleton.1 hl]
    decide
  · cases hl
  · have hact := (List.mem_filter.1 (List.mem_filter.1 hl).1).2
    rw [Team.active, Bool.and_eq_true] at hact
    exact BitVec.lt_of_getLsbD hact.2

/-! Completion. -/

/-- What a completed instruction leaves of the machine: the team as the instruction made it, past it (07 R154). -/
theorem State.finish_frame (s : State) (i : Ins) (t : Team) : ((s.finish i t).team s.cur).pc = t.pc + BitVec.ofNat 64 (4 * (i.len + 1))
    ∧ t.sameRegs ((s.finish i t).team s.cur) [] ∧ t.sameControl ((s.finish i t).team s.cur) ∧ ((s.finish i t).team s.cur).fpflags = t.fpflags
    ∧ s.sameBeyond (s.finish i t) s.cur := by
  obtain ⟨w, hw⟩ := s.finish_spec i t
  rw [hw, State.team_setTeam_same]
  exact ⟨rfl, Team.sameRegs_of_maps rfl rfl rfl rfl _, Team.sameControl.refl t, rfl, State.sameBeyond_setTeam ..⟩

theorem Team.sameRegs.mono {t u : Team} {rs rs' : List Ref} (h : t.sameRegs u rs) (hs : rs ⊆ rs') : t.sameRegs u rs' :=
  ⟨fun r l hl hn => h.1 r l hl fun hm => hn (hs hm), fun r hn => h.2.1 r fun hm => hn (hs hm), fun n l hl hn => h.2.2.1 n l hl fun hm => hn (hs hm),
    fun n hn => h.2.2.2 n fun hm => hn (hs hm)⟩

/-! The frame of the value instructions. -/

/-- Every value instruction is the shared frame of one value per lane; the integer and bitwise ones raise no flag. -/
theorem exec_valueIns {x : Instr} {i : Ins} (s : State) (h : valueIns x = some i) :
    ∃ g, exec x s = runAlu i s g ∧ (laneValue x = none → ∀ t l, (g t l).2 = 0) := by
  unfold valueIns at h
  split at h
  case h_1 hx => cases h; exact ⟨_, exec_intBinary s hx, fun _ _ _ => rfl⟩
  case h_2 hx => cases h; exact ⟨_, exec_bitwise s hx, fun _ _ _ => rfl⟩
  case h_3 hx => cases h; exact ⟨_, exec_laneValue s hx, fun hn => by simp [hn] at hx⟩
  case h_4 => cases h

/-- Flags once set stay set (06 R122). -/
theorem Team.addFlags_keeps (t : Team) (n : Nat) : (t.addFlags n).fpflags &&& t.fpflags = t.fpflags := by
  rw [Team.addFlags, BitVec.and_comm]
  ext k
  simp only [BitVec.getElem_and, BitVec.getElem_or]
  cases t.fpflags[k] <;> simp

/-- Settles O10: the lane writes change D alone, and completing changes no register. -/
theorem registerFrame : Obligations.RegisterFrame := by
  unfold Obligations.RegisterFrame
  refine ⟨?_, fun i t ls v l hu _ h hl => laneWrites_opnd i t ls v hu h hl, ?_⟩
  · intro x i s ls hx hc hf
    obtain ⟨g, hg, hz⟩ := exec_valueIns s hx
    have hlt := Ins.passLanes_lt hc.2.1
    dsimp only
    rw [hg, runAlu_go g hc (hf _)]
    refine ⟨_, rfl, ?_⟩
    generalize hfl : flagsOf _ = fl
    obtain ⟨fpc, fregs, fctl, ffl, fbeyond⟩ :=
      s.finish_frame i (laneWrites i ((s.team s.cur).addFlags fl) ls (fun l => (g (s.team s.cur) l).1))
    obtain ⟨lctl, lfl, lpc⟩ := laneWrites_sameControl i ((s.team s.cur).addFlags fl) ls (fun l => (g (s.team s.cur) l).1)
    have lregs := laneWrites_sameRegs i ((s.team s.cur).addFlags fl) ls (fun l => (g (s.team s.cur) l).1) hlt
    refine ⟨by rw [fpc, lpc]; rfl, lregs.trans (fregs.mono (List.nil_subset _)), lctl.trans fctl, fbeyond, ?_, fun hn => ?_⟩
    · rw [ffl, lfl]
      exact Team.addFlags_keeps _ _
    · rw [ffl, lfl, ← hfl, flagsOf_zero _ (by simp [hz hn]), Team.addFlags_zero]
  · intro i t v hu
    simp only [laneWrites, List.foldl_cons, List.foldl_nil, Ins.writeD_uni hu, Team.sr_setS, if_pos, Nat.mod_eq_of_lt (scalarOf_lt _ _)]

/-! Carries, special registers, classes and conversions. -/

theorem execSrd_go {f : Form} {s : State} {ls : List Nat} (h : Clear (insW 0x021 f) (s.team s.cur) ls)
    (hm : srHandler f.a.toNat = true → (s.team s.cur).hmode = true) :
    execSrd f s = .next (s.finish (insW 0x021 f) (ls.foldl (fun t l =>
      if f.uni then t.setS f.d.toNat (s.special s.cur f.a.toNat l) else (insW 0x021 f).writeD t l (s.special s.cur f.a.toNat l)) (s.team s.cur))) := by
  have hmay : (srHandler f.a.toNat && !(s.team s.cur).hmode) = false := by
    cases hr : srHandler f.a.toNat <;> simp_all
  simp only [execSrd, hmay, Bool.false_eq_true, if_false]
  exact runIns_go _ h

/-- Settles O11: each in its frame. -/
theorem carryConversionResults : Obligations.CarryConversionResults := by
  unfold Obligations.CarryConversionResults
  refine ⟨fun f s ls h => ?_, fun f s ls h hm => execSrd_go h hm, fun f s ls h => runAlu32_clear _ h (fun _ _ => rfl),
    fun f s ls h => runAlu32_clear _ h (fun _ _ => rfl), ?_⟩
  · change execIaddc f s = _
    rw [execIaddc, runIns_go _ h]
    simp only [List.foldl_map]
  · intro x f i g s ls hx h hf t u
    have hrun : exec x s = runSr i s g ∧ i.f = f := by
      obtain ⟨rfl, rfl, rfl⟩ | ⟨rfl, rfl, rfl⟩ := hx <;> exact ⟨rfl, rfl⟩
    rw [hrun.1, ← hrun.2]
    exact runSr_go g h hf

/-- 06 R133: a write of RPROG by the MMA of the team, any other at once. -/
theorem execSwr_go {f : Form} {s : State} (h : Clear (insW 0x022 f) (s.team s.cur) [0])
    (hm : srHandler f.d.toNat = true → (s.team s.cur).hmode = true) :
    let t := s.team s.cur
    let x := BitVec.ofNat 64 (t.sr f.a.toNat)
    execSwr f s = .next (if f.d.toNat = 16 then
        (match t.mma with
         | some m => if m.stopped then s.finish (insW 0x022 f) (t.setRprog x) else s
         | none => s.finish (insW 0x022 f) (t.setRprog x))
      else s.finish (insW 0x022 f) (t.setSpecial f.d.toNat x)) := by
  have hmay : (srHandler f.d.toNat && !(s.team s.cur).hmode) = false := by
    cases hr : srHandler f.d.toNat <;> simp_all
  simp only [execSwr, hmay, Bool.false_eq_true, if_false]
  exact runUni_go _ h

/-- Settles O12: by the register that D names and by the MMA of the team. -/
theorem specialRegisterWrites : Obligations.SpecialRegisterWrites := by
  unfold Obligations.SpecialRegisterWrites
  intro f s h hm
  have hx : exec (.swr f) s = _ := execSwr_go h hm
  dsimp only
  rw [hx]
  refine ⟨fun hd => by rw [if_neg hd], fun hd hn => ?_, fun m hd hn hs => ?_, fun m hd hn hs => ?_⟩
  · simp [hd, hn, Team.setRprog]
  · simp [hd, hn, hs]
  · simp [hd, hn, hs]

/-! Empty registers. -/

/-- SRD and SWR of a register marked H are reserved to handler mode (06 R132, R133). -/
theorem Ins.reserved_special {i : Ins} (h : (i.op = 0x021 ∧ srHandler i.f.a.toNat = true) ∨ (i.op = 0x022 ∧ srHandler i.f.d.toNat = true)) :
    i.reserved = true := by
  obtain ⟨ho, hr⟩ | ⟨ho, hr⟩ := h <;> simp [Ins.reserved, ho, hr]

/-- Settles O5: the shared checks in their order, which every instruction but PREF begins with. -/
theorem emptyRegisters : Obligations.EmptyRegisters := by
  unfold Obligations.EmptyRegisters
  intro x i s hi hp t hmode
  obtain ⟨k, hk⟩ := exec_runs x i s hi hp
    (fun f hx hr => by
      subst hx
      obtain rfl : insW 0x021 f = i := Option.some.inj hi
      exact hmode (Ins.reserved_special (.inl ⟨rfl, hr⟩)))
    (fun f hx hr => by
      subst hx
      obtain rfl : insW 0x022 f = i := Option.some.inj hi
      exact hmode (Ins.reserved_special (.inr ⟨rfl, hr⟩)))
  rw [hk]
  refine ⟨fun hg => runIns_stall k (prep_guard hmode hg), fun ls hg => ⟨fun hd => runIns_stall k (prep_dest hmode hg hd),
    fun hd => ⟨fun hh => ?_, fun hh hw => ?_⟩⟩⟩
  · exact runIns_trap k (prep_hurt hmode hg hd hh)
  · exact runIns_stall k (prep_waits hmode hg hd hh hw)

end Sys2Proof.Machine
end

section
/-!
Producers of late replies (05 R97; 06 R122; 07 R147–R153; 15 R267, R268), control flow (07 R154–R159) and traps (09 R182–R198).
-/
namespace Sys2Proof.Machine

/-! Producers. -/

/-- Each producer without flags is the shared frame of one late reply. -/
theorem exec_producer {x : Instr} {i : Ins} {g : Team → List Nat → List Dst} (s : State) (h : producer x = some (i, g)) :
    exec x s = runProduce i s g := by
  unfold producer at h
  split at h <;> cases h
  case h_5 f =>
    change execVote f s = _
    refine congrArg (runProduce (insW 0x0C2 f) s) (funext fun t => funext fun ls => ?_)
    dsimp only
    split
    case h_1 hm => rw [if_pos hm]
    case h_2 hm => rw [if_neg (by omega), if_pos hm]
    case h_3 hm => rw [if_neg (by omega), if_neg (by omega), if_pos hm]
    case h_4 h0 h1 h2 => rw [if_neg h0, if_neg h1, if_neg h2]
  all_goals rfl

/-- A producer that may raise flags: nothing is marked when no lane contributes. -/
def runFlagged (i : Ins) (s : State) (g : Team → List Nat → List LaneOut × List Dst) : Host.Outcome State Fault Refusal :=
  runIns i s (fun t ls =>
    if ls.isEmpty then s.finish i t else s.withFlags i t (g t ls).1 (fun u => s.produce i u (ls.flatMap i.dstRefs) (g t ls).2 5))

theorem runFu_eq (i : Ins) (s : State) (g : Bool → Nat → Nat → Nat → Nat × Nat) :
    runFu i s g = runFlagged i s (fun t ls =>
      let r := fun l => g t.ftz i.f.c.toNat (i.opa t false l) (t.opnd i.f.kb false i.f.b.toNat l)
      (ls.map (fun l => { lane := l, val := (r l).1, fl := (r l).2 }), ls.map (fun l => Dst.v i.f.d.toNat l (BitVec.ofNat 32 (r l).1)))) := by
  simp only [runFu, runFlagged, List.map_map, Function.comp_def]

/-- Each producer that may raise flags is that frame. -/
theorem exec_flaggedProducer {x : Instr} {i : Ins} {g : Team → List Nat → List LaneOut × List Dst} (s : State)
    (h : flaggedProducer x = some (i, g)) : exec x s = runFlagged i s g := by
  unfold flaggedProducer at h
  dsimp only at h
  split at h <;> cases h
  case h_9 f =>
    change execCsincos f s = _
    simp only [execCsincos, runFlagged, List.map_map, List.flatMap_map, Function.comp_def]
  case h_16 f =>
    change execSbdq f s = _
    simp [execSbdq, runFlagged, State.withFlags, flagsOf, Team.fpx_zero, Team.addFlags_zero]
  case h_1 => rfl
  case h_2 => rfl
  case h_3 => rfl
  case h_4 => rfl
  case h_15 => rfl
  case h_5 => exact runFu_eq _ s (fun z n a _ => fuExp2 z n a)
  case h_6 => exact runFu_eq _ s (fun z n a _ => fuLog2 z n a)
  case h_7 => exact runFu_eq _ s (fun z n a _ => fuSinCos true (Config.cordic 0x0E2 (BitVec.ofNat 32 (flushCode z a)) 0 n) z n a)
  case h_8 => exact runFu_eq _ s (fun z n a _ => fuSinCos false (Config.cordic 0x0E3 (BitVec.ofNat 32 (flushCode z a)) 0 n) z n a)
  case h_10 => exact runFu_eq _ s fuAtan2
  case h_11 => exact runFu_eq _ s (fun z n a _ => fuTanh z n a)
  case h_12 => exact runFu_eq _ s (fun z n a _ => fuSigm z n a)
  case h_13 => exact runFu_eq _ s (fun z n a _ => fuRoot true z n a)
  case h_14 => exact runFu_eq _ s (fun z n a _ => fuRoot false z n a)

/-- Settles O14: both frames by whether a lane contributes. -/
theorem producersSend : Obligations.ProducersSend := by
  unfold Obligations.ProducersSend
  refine ⟨fun x i g s ls hx hc => ?_, fun x i g s ls hx hc hne => ?_⟩
  · dsimp only
    rw [exec_producer s hx, runProduce, runIns_go _ hc]
    cases ls <;> rfl
  · intro t fl hf
    rw [exec_flaggedProducer s hx, runFlagged, runIns_go _ hc, if_neg (by simpa using hne)]
    exact congrArg _ (State.withFlags_none _ hf)

/-! Control flow. -/

theorem State.badTarget_iff (s : State) (t : Team) (x : W64) : s.badTarget t x = true ↔ ¬(x.toNat % 4 = 0 ∧ x.toNat < s.klen t) := by
  simp [State.badTarget]
  omega

theorem Team.sr_lt (t : Team) (r : Nat) : t.sr r < 2 ^ 64 := BitVec.isLt _

theorem runRet_go {i : Ins} {s : State} (h : Clear i (s.team s.cur) [0]) (h4 : (s.team s.cur).sr i.f.a.toNat % 4 = 0)
    (hk : (s.team s.cur).sr i.f.a.toNat < s.klen (s.team s.cur)) :
    runRet i s = .next (s.jump (s.team s.cur) (BitVec.ofNat 64 ((s.team s.cur).sr i.f.a.toNat))) := by
  have hx : (BitVec.ofNat 64 ((s.team s.cur).sr i.f.a.toNat)).toNat = (s.team s.cur).sr i.f.a.toNat := by
    rw [BitVec.toNat_ofNat, Nat.mod_eq_of_lt (Team.sr_lt _ _)]
  rw [runRet, runUni_go _ h]
  dsimp only
  rw [if_neg]
  rw [State.badTarget_iff, hx]
  exact fun hn => hn ⟨h4, hk⟩

/-- 07 R155: of lanes that differ the ones that differ from the lowest are recorded. -/
theorem execBrv_differ {f : Form} {s : State} {ls : List Nat} (h : Clear (insW 0x1A1 f) (s.team s.cur) ls) {l k : Nat} (hl : l ∈ ls) (hk : k ∈ ls)
    (hne : (s.team s.cur).pr f.a.toNat l ≠ (s.team s.cur).pr f.a.toNat k) :
    ∃ bad, bad ≠ [] ∧ (∀ x ∈ bad, x ∈ ls) ∧ execBrv f s = .next (s.trapLanes (insW 0x1A1 f) cNUB 0 bad) := by
  rw [execBrv, runIns_go _ h]
  cases ls with
  | nil => cases hl
  | cons m r =>
    dsimp only
    have hbad : ((m :: r).filter (fun j => (s.team s.cur).pr f.a.toNat j != (s.team s.cur).pr f.a.toNat m)) ≠ [] := by
      intro hnil
      rw [List.filter_eq_nil_iff] at hnil
      have same : ∀ j ∈ m :: r, (s.team s.cur).pr f.a.toNat j = (s.team s.cur).pr f.a.toNat m := by simpa using hnil
      exact hne ((same l hl).trans (same k hk).symm)
    exact ⟨_, hbad, fun x hx => List.mem_of_mem_filter hx, by rw [if_pos (by simpa using hbad)]⟩

/-- Where the lanes agree none is recorded. -/
theorem execBrv_agree {f : Form} {s : State} {ls : List Nat} (h : Clear (insW 0x1A1 f) (s.team s.cur) ls) {b : Bool}
    (hb : ∀ l ∈ ls, (s.team s.cur).pr f.a.toNat l = b) (hne : ls = [] → b = false) :
    execBrv f s = .next (if b then s.jump (s.team s.cur) (litTarget f) else s.finish (insW 0x1A1 f) (s.team s.cur)) := by
  rw [execBrv, runIns_go _ h]
  cases ls with
  | nil => simp [hne rfl]
  | cons m r =>
    have hm := hb m (by simp)
    have hnil : (m :: r).filter (fun j => (s.team s.cur).pr f.a.toNat j != (s.team s.cur).pr f.a.toNat m) = [] := by
      rw [List.filter_eq_nil_iff]
      intro j hj
      simp [hb j hj, hm]
    dsimp only
    rw [hnil, if_neg (by simp), hm]

theorem execBany_go {f : Form} {s : State} {ls : List Nat} (h : Clear (insW 0x1A2 f) (s.team s.cur) ls) :
    execBany f s = .next (if ls.any (fun l => (s.team s.cur).pr f.a.toNat l) then s.jump (s.team s.cur) (litTarget f)
      else s.finish (insW 0x1A2 f) (s.team s.cur)) := by
  rw [execBany, runIns_go _ h]

theorem execBall_go {f : Form} {s : State} {ls : List Nat} (h : Clear (insW 0x1A3 f) (s.team s.cur) ls) :
    execBall f s = .next (if !ls.isEmpty && ls.all (fun l => (s.team s.cur).pr f.a.toNat l) then s.jump (s.team s.cur) (litTarget f)
      else s.finish (insW 0x1A3 f) (s.team s.cur)) := by
  rw [execBall, runIns_go _ h]

theorem execBra_go {f : Form} {s : State} (h : Clear (insW 0x1A0 f) (s.team s.cur) [0]) :
    execBra f s = .next (s.jump (s.team s.cur) (litTarget f)) := by
  rw [execBra, runUni_go _ h]

theorem execCall_go {f : Form} {s : State} (h : Clear (insW 0x1A4 f) (s.team s.cur) [0]) :
    execCall f s = .next (s.jump ((s.team s.cur).setS f.d.toNat ((s.team s.cur).pc + 12).toNat) (litTarget f)) := by
  rw [execCall, runUni_go _ h]

theorem execJmpi_go {f : Form} {s : State} (h : Clear (insW 0x1A6 f) (s.team s.cur) [0]) :
    let t := s.team s.cur
    let x := BitVec.ofNat 64 (t.sr f.a.toNat) + (match f.lit with | some l => l.signExtend 64 | none => BitVec.ofNat 64 (t.sr f.b.toNat))
    execJmpi f s = .next (if s.badTarget t x then s.illegal (insW 0x1A6 f).len 4 else s.jump t x) := by
  exact runUni_go _ h

theorem execLoop_go {f : Form} {s : State} (h : Clear (insW 0x1A7 f) (s.team s.cur) [0]) :
    let t := s.team s.cur
    let x := BitVec.ofNat 64 (t.sr f.d.toNat) - 1
    execLoop f s = .next (if x = 0 then s.finish (insW 0x1A7 f) (t.setS f.d.toNat x.toNat) else s.jump (t.setS f.d.toNat x.toNat) (litTarget f)) := by
  rw [execLoop, runUni_go _ h]

/-- Settles O15: each in its frame, by the target or by the predicate of its lanes. -/
theorem branchTargets : Obligations.BranchTargets := by
  unfold Obligations.BranchTargets
  refine ⟨fun s => ⟨fun f h => execBra_go h, fun f h => execCall_go h, fun f h => runRet_go h, fun f h => runRet_go h, fun f h => ?_, fun f h => ?_⟩,
    fun f s ls => ⟨fun h => ⟨fun hne hp => ?_, fun hp => ?_, fun l k hl hk hne => execBrv_differ h hl hk hne⟩, fun h => ⟨?_, fun hp => ?_⟩,
      fun h => ⟨fun hne hp => ?_, ?_⟩⟩⟩
  · intro x
    have hgo : exec (.jmpi f) s = .next (if s.badTarget (s.team s.cur) x then s.illegal (insW 0x1A6 f).len 4 else s.jump (s.team s.cur) x) :=
      execJmpi_go h
    rw [hgo]
    exact ⟨fun hx => by rw [if_neg (by rw [State.badTarget_iff]; exact not_not.2 hx)], fun hx => by rw [if_pos ((State.badTarget_iff ..).2 hx)]⟩
  · have hgo : exec (.loop f) s = _ := execLoop_go h
    dsimp only at hgo ⊢
    rw [hgo]
    exact ⟨fun hx => by rw [if_neg hx], fun hx => by rw [if_pos hx]⟩
  · exact execBrv_agree (b := true) h hp (fun hn => absurd hn hne)
  · exact execBrv_agree (b := false) h hp (fun _ => rfl)
  · rintro ⟨l, hl, hp⟩
    refine (execBany_go h).trans ?_
    rw [if_pos (List.any_eq_true.2 ⟨l, hl, hp⟩)]
  · refine (execBany_go h).trans ?_
    rw [if_neg (by simpa using hp)]
  · refine (execBall_go h).trans ?_
    rw [if_pos (by simpa [hne] using hp)]
  · intro hp
    refine (execBall_go h).trans ?_
    rw [if_neg]
    obtain rfl | ⟨l, hl, hp⟩ := hp
    · simp
    · simp only [Bool.and_eq_true, List.all_eq_true, not_and]
      exact fun _ hall => absurd (hall l hl) (by simp [hp])

/-- Settles O16: finishing and jumping each set one team. -/
theorem completionFrame : Obligations.CompletionFrame := by
  unfold Obligations.CompletionFrame
  intro s i t target
  obtain ⟨w, hw⟩ := s.finish_spec i t
  obtain ⟨x, hx⟩ := s.jump_spec t target
  have same : ∀ {u : Team}, u.v = t.v → u.s = t.s → u.p = t.p → u.q = t.q → t.sameRegs u [] := fun h1 h2 h3 h4 => Team.sameRegs_of_maps h1 h2 h3 h4 _
  dsimp only
  rw [hw, hx, State.team_setTeam_same, State.team_setTeam_same]
  exact ⟨⟨w, rfl⟩, ⟨x, rfl⟩, ⟨same rfl rfl rfl rfl, Team.sameControl.refl t, rfl, rfl, rfl, rfl, rfl⟩,
    ⟨same rfl rfl rfl rfl, Team.sameControl.refl t, rfl, rfl, rfl, rfl, rfl⟩, State.sameBeyond_setTeam .., State.sameBeyond_setTeam ..⟩

theorem runExit_go {i : Ins} {s : State} {ls : List Nat} (h : Clear i (s.team s.cur) ls) (hne : ls ≠ []) (hmma : (s.team s.cur).mma = none)
    (hb : ((s.team s.cur).removeLanes (if i.f.uni then (s.team s.cur).lanes else ls)).mask ≠ 0 ∨ s.busy s.cur = false) :
    runExit i s = .next (s.finish i ((s.team s.cur).removeLanes (if i.f.uni then (s.team s.cur).lanes else ls))) := by
  rw [runExit, runIns_go _ h, if_neg (by simpa using hne)]
  dsimp only
  rw [if_neg]
  obtain hm | hm := hb
  · simpa [hmma] using fun h0 => absurd h0 hm
  · simp [hmma, hm]

theorem runSleep_go {i : Ins} {s : State} (h : Clear i (s.team s.cur) [0]) (hb : s.busy s.cur = false) :
    let n : W64 := match i.f.lit with | some l => l.zeroExtend 64 | none => BitVec.ofNat 64 ((s.team s.cur).sr i.f.a.toNat)
    runSleep i s = .next (if n = 0 then s.finish i (s.team s.cur)
      else (s.setTeam s.cur { (s.team s.cur).advance i with countOnWake := true }).park s.cur .sleep (s.clock + n)) := by
  refine (runUni_go _ h).trans (congrArg Host.Outcome.next ?_)
  dsimp only
  rw [hb]
  exact congrArg (ite _ _) (if_neg Bool.false_ne_true)

theorem execYield_go {f : SForm} {s : State} (h : Clear (insS 0x1AB f) (s.team s.cur) [0]) :
    execYield f s = .next (s.finish (insS 0x1AB f) { s.team s.cur with age := s.clock.toNat + 1 }) := by
  rw [execYield, runUni_go _ h]

theorem execBar_go {f : SForm} {s : State} (h : Clear (insS 0x1A9 f) (s.team s.cur) [0]) (hb : s.busy s.cur = false) :
    let t := s.team s.cur
    let b := s.block t.block
    let s1 := s.setBlock t.block { b with arrived := b.arrived ++ [s.cur] }
    execBar f s = .next (if s1.barrierMet t.block then (s1.finish (insS 0x1A9 f) t).barrierStep t.block
      else (s1.setTeam s.cur { t.advance (insS 0x1A9 f) with countOnWake := true }).park s.cur .barrier (BitVec.ofNat 64 b.gen)) := by
  rw [execBar, runUni_go _ h]
  dsimp only
  rw [hb, if_neg Bool.false_ne_true]

/-- Settles O17: each in its frame. -/
theorem exitSleepYieldBar : Obligations.ExitSleepYieldBar := by
  unfold Obligations.ExitSleepYieldBar
  intro s
  refine ⟨fun f ls h hne hm hb => runExit_go h hne hm hb, fun f ls h hne hm hb => runExit_go h hne hm hb, fun f h hb => runSleep_go h hb,
    fun f h hb => runSleep_go h hb, fun f h => execYield_go h, fun f h hb => ?_⟩
  have hgo : exec (.bar f) s = _ := execBar_go h hb
  dsimp only at hgo ⊢
  rw [hgo]
  exact ⟨fun hx => by rw [if_pos hx], fun hx => by rw [if_neg (by simp [hx])]⟩

/-! Traps. -/

theorem execTrap_go {f : Form} {s : State} (h : Clear (insW 0x1AC f) (s.team s.cur) [0]) :
    execTrap f s = .next (s.trapLanes (insW 0x1AC f) cSOFT (f.lit.getD 0).toNat [0]) := by
  rw [execTrap, runUni_go _ h]

theorem execBkpt_go {f : SForm} {s : State} (h : Clear (insS 0x1E4 f) (s.team s.cur) [0]) :
    execBkpt f s = .next (s.trapLanes (insS 0x1E4 f) cDEBUG 1 [0]) := by
  rw [execBkpt, runUni_go _ h]

/-- Settles O18: each takes its trap in its frame, or in every active lane. -/
theorem trapInstructions : Obligations.TrapInstructions := by
  unfold Obligations.TrapInstructions
  intro s
  refine ⟨fun f h => execTrap_go h, fun f h => execBkpt_go h, exec_ill s, fun w hw => ?_, fun w hw => ?_⟩
  · rw [exec_reservedOpcode, if_neg hw]
  · rw [exec_reservedOpcode, if_pos hw]

/-- Settles O19, by whether the team has a handler for the class. -/
theorem trapEntry : Obligations.TrapEntry := by
  unfold Obligations.TrapEntry
  refine ⟨fun s i x hm hh => ?_, fun s i x h => ?_⟩
  · obtain ⟨h1, h2, h3, h4, h5, h6, h7, h8, hv, hs, hp, hq, -, -, -, -, hmask, hbase, hfl, hic, -⟩ := s.takeTrap_entry i x hm hh
    exact ⟨h1, h2, h3, h4, h5, h6, h7, h8, Team.sameRegs_of_maps hv hs hp hq _, hmask, hbase, hfl, hic⟩
  · obtain ⟨hst, hc, hpc, hv, hs, hp, hq, -, -, -, -, hmode, -, -, -, hd⟩ := s.takeTrap_fatal i x h
    exact ⟨hst, hc, hpc, Team.sameRegs_of_maps hv hs hp hq _, hmode, hd⟩

/-- Where only teams differ, the turn is the same. -/
theorem State.Calm.cur {s t : State} (h : s.Calm t) : t.cur = s.cur :=
  State.Apart.cur (s := { s with teams := t.teams }) h

/-- A trap changes no team's turn. -/
theorem State.takeTrap_cur (s : State) (i : Nat) (x : TrapInfo) : (s.takeTrap i x).cur = s.cur := by
  have haltBlock_cur : ∀ (u : State) (o : Nat), (u.haltBlock o).cur = u.cur := fun u o => by
    obtain ⟨-, b, hc, -⟩ := u.haltBlock_spec o
    exact hc.cur
  have noted : ∀ (u : State) (t : Team), (u.noteTeam i t).cur = u.cur := fun u t => (u.noteTeam_calm i t).cur
  have parked : ∀ (u : State) (c : Cause) (a : W64), (u.parkNoted i c a).cur = u.cur := fun u c a => (u.parkNoted_calm i c a).cur
  have fatal_cur : ∀ (u : State) (c : Nat) (a : W64), (u.fatal i c a).cur = u.cur := fun u c a => by
    rw [State.fatal, (State.report_cached ..).cur, haltBlock_cur, State.setBlock_cur, parked]
  unfold State.takeTrap
  dsimp only
  split
  · rw [fatal_cur, noted, State.setTeam_cur]
  split
  · rw [fatal_cur, noted, State.setTeam_cur]
  have hs2 : ∀ c : Bool, (State.noteTeam (if c = true then s.setTeam i ((s.trapped i x).entered x.cls)
      else (s.setTeam i ((s.trapped i x).entered x.cls)).haltBlock i) i (s.team i)).cur = s.cur := fun c => by
    rw [noted]
    split
    · rw [State.setTeam_cur]
    · rw [haltBlock_cur, State.setTeam_cur]
  split
  · rw [parked, hs2]
  · rw [hs2]

/-- What RTE with no MMA under way leaves of its team (09 R198): the team as it returns, of which a halt may yet change state and skid. -/
theorem execRte_team {f : SForm} {s : State} (h : Clear (insS 0x1E0 f) (s.team s.cur) [0]) (hmma : (s.team s.cur).mma = none)
    (hst : (s.team s.cur).st ≠ .parked) :
    ∃ u, execRte f s = .next u ∧
      let t := s.team s.cur
      let v := u.team s.cur
      v.q = t.savedQ ∧ v.qE = t.savedQE ∧ v.fpctl = t.savedFpctl ∧ v.hmode = false ∧ v.side = [] ∧ v.pc = t.trappc &&& ~~~(3 : W64)
      ∧ v.v = t.v ∧ v.s = t.s ∧ v.p = t.p ∧ v.icount = t.icount + 1 ∧ v.mask = t.mask := by
  have hback := s.returnTrap_team s.cur hst
  dsimp only at hback
  have hm : ((s.returnTrap s.cur).team s.cur).mma = none := by
    obtain ⟨k, e⟩ | ⟨a, w, m, k, e⟩ := hback <;> rw [e] <;> exact hmma
  have hrte : (s.returnTrap s.cur).rteMma s.cur = s.returnTrap s.cur := by simp only [State.rteMma, hm]
  rw [execRte, runUni_go _ h, hrte]
  refine ⟨_, rfl, ?_⟩
  dsimp only
  obtain e | ⟨w, e⟩ := (s.returnTrap s.cur).account_spec s.cur 1 0 0 <;> rw [e]
  · obtain ⟨k, e⟩ | ⟨a, w, m, k, e⟩ := hback <;> rw [e] <;> exact ⟨rfl, rfl, rfl, rfl, rfl, rfl, rfl, rfl, rfl, rfl, rfl⟩
  · rw [State.team_setTeam_same]
    obtain ⟨k, e⟩ | ⟨a, w, m, k, e⟩ := hback <;> rw [e] <;> exact ⟨rfl, rfl, rfl, rfl, rfl, rfl, rfl, rfl, rfl, rfl, rfl⟩

/-- Settles O21. -/
theorem returnFromTrap : Obligations.ReturnFromTrap := by
  unfold Obligations.ReturnFromTrap
  exact fun f s h hmma hst => execRte_team h hmma hst

/-- A word-aligned PC has no bit to clear. -/
theorem and_not_three {x : W64} (h : x &&& 3 = 0) : x &&& ~~~(3 : W64) = x := by
  calc x &&& ~~~(3 : W64) = (x &&& ~~~(3 : W64)) ||| (x &&& 3) := by rw [h]; exact BitVec.or_zero.symm
    _ = x &&& (~~~(3 : W64) ||| 3) := BitVec.and_or_distrib_left.symm
    _ = x := BitVec.and_allOnes

/-- Settles O22: what the return restores is what the entry saved. -/
theorem trapThenReturn : Obligations.TrapThenReturn := by
  unfold Obligations.TrapThenReturn
  intro f s x hm hh hpc hal hmma hst hd h
  obtain ⟨-, -, htrappc, -, hsq, -, hsf, -, hv, hs, hp, -, -, -, -, -, -, -, -, -, -, hmma', -, -, -, -, -, hst'⟩ := s.takeTrap_entry s.cur x hm hh
  have hcur := s.takeTrap_cur s.cur x
  generalize s.takeTrap s.cur x = s1 at *
  have hactive : (s1.team s1.cur).st ≠ .parked := by
    rw [hcur, hst' hd, hst, if_neg (by decide)]
    decide
  rw [← hcur] at h
  obtain ⟨u, hu, hq, -, hf, hmode, -, hupc, huv, hus, hup, -⟩ := execRte_team h (by rw [hcur, hmma', hmma]) hactive
  dsimp only at *
  rw [hcur] at *
  refine ⟨u, hu, ?_, hmode, by rw [hf, hsf], by rw [huv, hv], by rw [hus, hs], by rw [hup, hp], by rw [hq, hsq]⟩
  rw [hupc, htrappc, hpc]
  exact and_not_three hal

end Sys2Proof.Machine
end

section
/-!
Loads and stores (08 R160–R178): what performing an instruction's units at tables leaves, then LD, LDC, ST, LDB, STB, the atomics, fences and
prefetches.
-/
namespace Sys2Proof.Machine

/-! What marking destinations leaves of a team. -/

/-- Marking destinations empty changes no field but the empty bits. -/
theorem Team.markAll_emptied (t : Team) (rs : List Ref) :
    ∃ a b c d, t.markAll rs = { t with vE := a, sE := b, pE := c, qE := d } := by
  have one : ∀ (t : Team) (r : Ref), ∃ a b c d, t.markEmpty r = { t with vE := a, sE := b, pE := c, qE := d } := fun t r => by
    cases r with
    | v r l => exact ⟨_, _, _, _, rfl⟩
    | s r => exact ⟨_, _, _, _, rfl⟩
    | p n l => by_cases h : n = 7 <;> simp only [Team.markEmpty, h, if_true, if_false] <;> exact ⟨_, _, _, _, rfl⟩
    | q n => by_cases h : n = 7 <;> simp only [Team.markEmpty, h, if_true, if_false] <;> exact ⟨_, _, _, _, rfl⟩
  induction rs generalizing t with
  | nil => exact ⟨_, _, _, _, rfl⟩
  | cons r rs ih =>
    obtain ⟨a, b, c, d, h⟩ := one t r
    obtain ⟨a', b', c', d', h'⟩ := ih (t.markEmpty r)
    exact ⟨a', b', c', d', by rw [show t.markAll (r :: rs) = (t.markEmpty r).markAll rs from rfl, h', h]⟩

/-- The team of the turn right after it issues. -/
theorem State.issued_team (s : State) (i : Ins) (t : Team) : (s.issued i t).team s.cur = t.advance i := State.team_setTeam_same ..

/-! Plans. -/

/-- A plan of core or cluster memory leaves the machine as it is, with encoding 0. -/
theorem State.plan_core {s : State} {i : Ins} (t : Team) (ls : List Nat) (w : Want) (h : 64 ≤ i.f.b.toNat) :
    s.plan i t ls w = (s, ls.foldl (fun p l => s.planCore i t ((w.width 0).getD 4) l p) Plan.empty, 0) := by
  rw [State.plan, if_pos h]

/-! Replies of core memory. -/

/-- An access of core memory that found good data goes on past itself, its reply under way. -/
theorem State.landCore_left (s : State) (i : Ins) (ls : List Nat) (set : Nat) (dsts : List Dst) :
    Left i s (s.landCore i (s.team s.cur) ls set dsts []) ls set dsts := by
  have ht : (s.landCore i (s.team s.cur) ls set dsts []).team s.cur = ((s.team s.cur).markAll (ls.flatMap i.dstRefs)).advance i :=
    s.issued_team i _
  refine ⟨?_, ?_, _, List.getLast?_concat .., rfl, rfl, rfl, rfl⟩
  · rw [ht]
    exact congrArg (· + _) (Team.markAll_pc ..)
  · rw [ht]
    exact Team.awaits_markAll _ i ls

/-! Units at tables. -/

/-- The record of an instruction's units as it issues. -/
def Ins.restOf (i : Ins) (s : State) (t : Team) (enc ilv n : Nat) (us : List AUnit) : Rest :=
  let r : Rest := { opc := i.op, f := i.f, len := i.len, pc := t.pc, enc := enc, ilv := ilv, n := n, ins := s.fresh + 1, moved := 0, inside := [], out := us }
  { r with moved := r.bytes us }

theorem State.runUnits_eq (s : State) (i : Ins) (t : Team) (enc ilv n : Nat) (us : List AUnit) :
    s.runUnits i t enc ilv n us = (s.useFresh.issued i t).runRest s.cur (i.restOf s t enc ilv n us) := rfl

/-- The values that units read whole carry to their destinations. -/
def Ins.unitDsts (i : Ins) (enc ilv n : Nat) (x : AUnit × List Byte × List Byte × Bool) : List Dst :=
  ({ opc := i.op, f := i.f, len := 0, pc := 0, enc := enc, ilv := ilv, n := n, ins := 0, moved := 0, inside := [], out := [] } : Rest).dsts x

/-- A load whose lines all find their entries, and whose data are good, has gone on past itself; its last reply carries what its core read. -/
theorem State.runUnits_loads {s q : State} {i : Ins} {ls : List Nat} {enc ilv n : Nat} {us : List AUnit} (hq : s.Apart q)
    (hop : i.op = 0x100 ∨ i.op = 0x102 ∨ i.op = 0x109) (hne : us ≠ [])
    (hroom : Roomy (q.useFresh.issued i ((s.team s.cur).markAll (ls.flatMap i.dstRefs))) us) :
    let t := s.team s.cur
    let s0 := q.useFresh.issued i (t.markAll (ls.flatMap i.dstRefs))
    let v := s0.readUnits t.core (16 * t.part + t.slot) n us
    let u := q.runUnits i (t.markAll (ls.flatMap i.dstRefs)) enc ilv n us
    (∀ x ∈ v.2, x.2.2.2 = false) →
    (v.1.held.length = s0.held.length → u.mem = v.1.mem) ∧ u.cm = s.cm
      ∧ Left i s u ls (if i.op = 0x109 then 5 else 0) (v.2.flatMap (i.unitDsts enc ilv n)) := by
  intro t s0 v u hgood
  have hcur : s0.cur = s.cur := hq.cur
  have hteam : s0.team s.cur = (t.markAll (ls.flatMap i.dstRefs)).advance i := by
    rw [← hq.cur]
    exact State.issued_team ..
  obtain ⟨a, b, c, d, hmark⟩ := t.markAll_emptied (ls.flatMap i.dstRefs)
  have hcore : (s0.team s.cur).core = t.core ∧ 16 * (s0.team s.cur).part + (s0.team s.cur).slot = 16 * t.part + t.slot := by
    rw [hteam, hmark]
    exact ⟨rfl, rfl⟩
  obtain ⟨hretry, hlines⟩ := hroom
  rw [show (q.useFresh.issued i (t.markAll (ls.flatMap i.dstRefs))).cur = s.cur from hq.cur] at hretry hlines
  have hns : (i.restOf q (t.markAll (ls.flatMap i.dstRefs)) enc ilv n us).stores = false := by
    rcases hop with h | h | h <;> simp [Ins.restOf, Rest.stores, h]
  obtain ⟨e, l, hrep, hmem, hcm, x, hut⟩ := s0.runRest_loads s.cur (i.restOf q (t.markAll (ls.flatMap i.dstRefs)) enc ilv n us) rfl hretry hlines hns hop hne
  rw [hcore.1, hcore.2] at hrep hmem
  have hu : u = s0.runRest s.cur (i.restOf q (t.markAll (ls.flatMap i.dstRefs)) enc ilv n us) := by
    rw [← hq.cur]
    rfl
  rw [← hu] at hrep hmem hcm hut
  refine ⟨hmem, hcm.trans hq.cm, ?_, ?_, _, by rw [hrep, List.getLast?_concat], rfl, rfl, ?_, rfl⟩
  · rw [hut, hteam, hmark]
    rfl
  · rw [hut, hteam]
    exact Team.awaits_markAll t i ls
  · have hnone : v.2.filter (fun x => x.2.2.2) = [] := by simpa using hgood
    show Rest.ecc _ ((v.2.filter (fun x => x.2.2.2)).map (fun x => x.1)) = none
    rw [hnone]
    rfl
/-! LD and LDC. -/

/-- A clear LD, settled, whose base names core or cluster memory. -/
theorem execLd_core {f : Form} {s : State} {ls : List Nat} (h : Clear (insW 0x100 f) (s.team s.cur) ls) (hne : ls ≠ [])
    (hb : 64 ≤ f.b.toNat) :
    let i := insW 0x100 f
    let t := s.team s.cur
    let q := s.plan i t ls { rd := true, wr := false, width := plainWidth (decide (64 ≤ f.b.toNat)) f.ty, cls := fun _ => true, both := false }
    let n := (plainWidth (decide (64 ≤ f.b.toNat)) f.ty q.2.2).getD 4
    Settled q.1 i t q.2.1 n true false → (∀ a ∈ q.2.1.accs, (s.loadPlace a.place n).2 = 0) →
    execLd f s = .next (s.landCore i t ls 0
      (q.2.1.accs.flatMap (fun a => i.laneDst a.lane (loadConv f.ty q.2.2 (leNat (s.loadPlace a.place n).1)))) []) := by
  intro i t q n hset hgood
  have hq : q.1 = s := by
    show (s.plan i t ls _).1 = s
    rw [State.plan_core _ _ _ hb]
  rw [execLd, runIns_go _ h, if_neg (by simpa using hne)]
  refine congrArg Host.Outcome.next ((State.settle_go _ hset).trans ?_)
  rw [if_pos (decide_eq_true hb)]
  dsimp only
  rw [show (s.plan (insW 0x100 f) (s.team s.cur) ls _).1 = s from hq]
  have hbad : ((q.2.1.accs.map (fun a => (a, s.loadPlace a.place n))).filter (fun e => e.2.2 != 0)) = [] := by
    simpa [List.filter_eq_nil_iff] using hgood
  rw [List.flatMap_map]
  refine congrArg₂ (s.landCore i t ls 0) ?_ (congrArg (List.map _) hbad)
  exact congrArg List.flatten (List.map_congr_left fun a ha => by rw [if_pos (hgood a ha)])

/-- A clear LD, settled, whose base names a table. -/
theorem execLd_table {f : Form} {s : State} {ls : List Nat} (h : Clear (insW 0x100 f) (s.team s.cur) ls) (hne : ls ≠ [])
    (hb : f.b.toNat < 64) :
    let i := insW 0x100 f
    let t := s.team s.cur
    let q := s.plan i t ls { rd := true, wr := false, width := plainWidth (decide (64 ≤ f.b.toNat)) f.ty, cls := fun _ => true, both := false }
    let n := (plainWidth (decide (64 ≤ f.b.toNat)) f.ty q.2.2).getD 4
    Settled q.1 i t q.2.1 n true false →
    execLd f s = .next (q.1.runUnits i (t.markAll (ls.flatMap i.dstRefs)) q.2.2 0 n (accUnits q.2.1.accs (fun _ => []) (fun _ => 0) (fun _ => 0))) := by
  intro i t q n hset
  rw [execLd, runIns_go _ h, if_neg (by simpa using hne)]
  refine congrArg Host.Outcome.next ((State.settle_go _ hset).trans ?_)
  rw [if_neg (by simpa using hb)]

theorem execLdc_go {f : Form} {s : State} {ls : List Nat} (h : Clear (insW 0x109 f) (s.team s.cur) ls) (hne : ls ≠ []) :
    let i := insW 0x109 f
    let t := s.team s.cur
    let n := if tyWide f.ty then 8 else 4
    let q := s.planParam i t ls n
    Settled q.1 i t q.2 n true false →
    execLdc f s = .next (q.1.runUnits i (t.markAll (ls.flatMap i.dstRefs)) 0 0 n (accUnits q.2.accs (fun _ => []) (fun _ => 0) (fun _ => 0))) := by
  intro i t n q hset
  rw [execLdc, runIns_go _ h, if_neg (by simpa using hne)]
  exact congrArg Host.Outcome.next (State.settle_go _ hset)

/-- The units of plain accesses each have one lane and no scale word. -/
theorem accUnits_lanes {accs : List Acc} {bytes : Nat → List Byte} {x y : Nat → Nat} {u : AUnit} (h : u ∈ accUnits accs bytes x y) :
    u.lanes = [u.lane] ∧ u.sc = none := by
  obtain ⟨a, -, ha⟩ := List.mem_filterMap.1 h
  split at ha <;> cases ha
  exact ⟨rfl, rfl⟩

/-- What the units of plain accesses, read whole and good, carry: one value for each one's lane. -/
theorem unitDsts_accUnits {i : Ins} {enc n : Nat} {accs : List Acc} {s : State} {c k : Nat} {val : List Byte → Nat}
    (hv : ∀ x : AUnit × List Byte × List Byte × Bool, x.1.lanes = [x.1.lane] → x.2.2.2 = false →
      i.unitDsts enc 0 n x = i.laneDst x.1.lane (val x.2.1)) :
    let v := s.readUnits c k n (accUnits accs (fun _ => []) (fun _ => 0) (fun _ => 0))
    (∀ x ∈ v.2, x.2.2.2 = false) → v.2.flatMap (i.unitDsts enc 0 n) = v.2.flatMap (fun x => i.laneDst x.1.lane (val x.2.1)) := by
  intro v hgood
  refine congrArg List.flatten (List.map_congr_left fun x hx => hv x ?_ (hgood x hx))
  refine (accUnits_lanes (accs := accs) (bytes := fun _ => []) (x := fun _ => 0) (y := fun _ => 0) ?_).1
  rw [← s.readUnits_units c k n (accUnits accs (fun _ => []) (fun _ => 0) (fun _ => 0))]
  exact List.mem_map_of_mem hx

/-- Settles O24: core memory answers at once, a table once all the lines have their entries. -/
theorem loadsComplete : Obligations.LoadsComplete := by
  unfold Obligations.LoadsComplete
  refine ⟨fun f s ls h hne => ?_, fun f s ls h hne => ?_⟩
  · intro i t core q n us s0 v hset
    refine ⟨fun hb hgood => ?_, fun hb hus hroom hgood => ?_⟩
    · exact ⟨_, execLd_core h hne hb hset hgood, rfl, rfl, s.landCore_left i ls 0 _⟩
    · obtain ⟨hmem, hcm, hleft⟩ := State.runUnits_loads (enc := q.2.2) (ilv := 0) (s.plan_apart i t ls _) (Or.inl rfl) hus hroom hgood
      refine ⟨_, execLd_table h hne hb hset, hmem, hcm, ?_⟩
      rw [unitDsts_accUnits (val := fun bs => loadConv f.ty q.2.2 (leNat bs)) (fun x hl hb => ?_) hgood] at hleft
      · exact hleft
      · simp [Ins.unitDsts, Rest.dsts, hl, hb, i, Ins.laneDst]
  · intro i t n q us s0 v hset hus hroom hgood
    obtain ⟨hmem, hcm, hleft⟩ := State.runUnits_loads (enc := 0) (ilv := 0) (s.planParam_apart i t ls n) (Or.inr (Or.inr rfl)) hus hroom hgood
    refine ⟨_, execLdc_go h hne hset, hmem, ?_⟩
    rw [unitDsts_accUnits (val := leNat) (fun x hl hb => ?_) hgood] at hleft
    · exact hleft
    · simp [Ins.unitDsts, Rest.dsts, hl, hb, i, Ins.laneDst]
/-! Stores performed whole. -/

theorem Team.addPend_spec (t : Team) (x : Option PendTrap) : ∃ p m, t.addPend x = { t with pend := p, pendMore := m } := by
  unfold Team.addPend
  split
  · exact ⟨_, _, rfl⟩
  · exact ⟨_, _, rfl⟩
  · split_ifs <;> exact ⟨_, _, rfl⟩

/-- What counting a store changes. -/
theorem State.stored_spec (s : State) (i b : Nat) :
    (s.stored i b).mem = s.mem ∧ (s.stored i b).sysmem = s.sysmem ∧ ∃ o w, (s.stored i b).team i = { s.team i with owes := o, waste := w } := by
  unfold State.stored
  split
  · exact ⟨rfl, rfl, some b, _, by rw [State.team_setTeam_same]⟩
  · obtain h | ⟨w, h⟩ := s.account_spec i 1 0 b <;> rw [h]
    · exact ⟨rfl, rfl, _, _, rfl⟩
    · exact ⟨rfl, rfl, _, w, by rw [State.team_setTeam_same]⟩

/-- The end of a store's rest: nothing is left of it, and it is counted. -/
theorem State.restDone_spec (s : State) (i b : Nat) :
    let u := ((s.setTeam i { s.team i with rest := none }).entered i).stored i b
    u.mem = s.mem ∧ u.sysmem = s.sysmem ∧ ∃ o w, u.team i = { s.team i with rest := none, rejects := 0, owes := o, waste := w } := by
  intro u
  obtain ⟨hm, hsm, o, w, h⟩ := ((s.setTeam i { s.team i with rest := none }).entered i).stored_spec i b
  rw [State.entered_team, State.team_setTeam_same] at h
  exact ⟨hm.trans (State.entered_mem ..), hsm.trans (State.entered_sysmem ..), o, w, h⟩

/-- A fold that carries a list beside the state folds the state alone. -/
theorem foldl_state_eq {α β : Type} (g : State → α → State) (k : State × β → α → β) (l : List α) (s : State) (b : β) :
    (l.foldl (fun a u => (g a.1 u, k a u)) (s, b)).1 = l.foldl g s := by
  induction l generalizing s b with
  | nil => rfl
  | cons x r ih => exact ih ..

/-- One unit's store looks at the encoding, the interleave and the width of its instruction's rest. -/
theorem State.storeUnit_congr {r k : Rest} (he : r.enc = k.enc) (hi : r.ilv = k.ilv) (hn : r.n = k.n) (s : State) (c : Nat) (w : Writer) (u : AUnit) :
    s.storeUnit c r w u = s.storeUnit c k w u := by
  unfold State.storeUnit
  rw [he, hi, hn]

/-- The stores of units in turn: the machine they leave, and their team. -/
theorem State.storeUnits_spec (s : State) (i : Nat) (r : Rest) (us : List AUnit) :
    let z := us.foldl (fun u x => (u.storeUnit (s.team i).core r (.team i r.pc r.len) x).1) s
    s.Cached z ∧ ∃ p m, s.storeUnits i r us = z.setTeam i { s.team i with pend := p, pendMore := m } := by
  intro z
  have hz : s.Cached z := .foldl _ (fun s u => s.storeUnit_cached ..) _ _
  refine ⟨hz, ?_⟩
  unfold State.storeUnits
  dsimp only
  rw [foldl_state_eq (fun u x => (u.storeUnit (s.team i).core r (.team i r.pc r.len) x).1), show us.foldl _ s = z from rfl, hz.team_eq]
  obtain ⟨p, m, hp⟩ := (s.team i).addPend_spec _
  exact ⟨p, m, by rw [hp]⟩

theorem State.doUnits_stores (s : State) (i : Nat) {r : Rest} {us : List AUnit} (hr : r.stores = true) (hne : us ≠ []) :
    s.doUnits i r us = s.storeUnits i r us := by
  unfold State.doUnits
  rw [if_neg (by simpa using hne), if_pos hr]

/-- A store whose lines all find their entries and whose grains its L2 may write completes past itself, its units performed in turn. -/
theorem State.runUnits_stores {s q : State} {i : Ins} {t : Team} {enc ilv n : Nat} {us : List AUnit} (hq : s.Apart q)
    (hop : i.op = 0x101 ∨ i.op = 0x103) (hne : us ≠ []) (hroom : Roomy (q.useFresh.issued i t) us) (hown : Owned (q.useFresh.issued i t) n us) :
    let s0 := q.useFresh.issued i t
    let z := us.foldl (fun u x => (u.storeUnit t.core (i.restOf q t enc ilv n us) (.team s.cur t.pc i.len) x).1) s0
    let u := q.runUnits i t enc ilv n us
    (u.team s.cur).pc = t.pc + BitVec.ofNat 64 (4 * (i.len + 1)) ∧ t.sameRegs (u.team s.cur) [] ∧ (u.team s.cur).rest = none
      ∧ (z.held.length = s0.held.length → u.mem = z.mem ∧ u.sysmem = z.sysmem) := by
  intro s0 z u
  have hteam : s0.team s.cur = t.advance i := by
    rw [← hq.cur]
    exact State.issued_team ..
  obtain ⟨hretry, hlines⟩ := hroom
  unfold Owned at hown
  rw [show (q.useFresh.issued i t).cur = s.cur from hq.cur] at hretry hlines hown
  have hst : (i.restOf q t enc ilv n us).stores = true := by
    rcases hop with h | h <;> simp [Ins.restOf, Rest.stores, h]
  have howned : ∀ x ∈ (i.restOf q t enc ilv n us).out, s0.unitOwned (s0.team s.cur).core (i.restOf q t enc ilv n us) x = true := fun x hx => by
    obtain ⟨h1, h2⟩ := hown x hx
    unfold State.unitOwned
    rw [show (i.restOf q t enc ilv n us).n = n from rfl, h1]
    cases hc : x.sc with
    | none => rfl
    | some c => exact congrArg List.isEmpty (h2 c hc)
  have hu : u = s0.runRest s.cur (i.restOf q t enc ilv n us) := by
    rw [← hq.cur]
    rfl
  rw [hu, s0.runRest_whole s.cur _ rfl hretry hlines (fun _ => howned)]
  dsimp only
  rw [if_pos hst]
  have hdo : s0.doUnits s.cur { i.restOf q t enc ilv n us with inside := us, out := [] } us
      = s0.storeUnits s.cur { i.restOf q t enc ilv n us with inside := us, out := [] } us := State.doUnits_stores _ _ hst hne
  rw [show (i.restOf q t enc ilv n us).out = us from rfl, hdo]
  obtain ⟨hz, p, m, hsto⟩ := s0.storeUnits_spec s.cur { i.restOf q t enc ilv n us with inside := us, out := [] } us
  have hzeq : us.foldl (fun u x => (u.storeUnit (s0.team s.cur).core { i.restOf q t enc ilv n us with inside := us, out := [] }
      (.team s.cur t.pc i.len) x).1) s0 = z := by
    rw [hteam]
    simp only [State.storeUnit_congr (r := { i.restOf q t enc ilv n us with inside := us, out := [] }) (k := i.restOf q t enc ilv n us) rfl rfl rfl]
    rfl
  replace hsto := hsto.trans (congrArg (fun z => State.setTeam z s.cur { s0.team s.cur with pend := p, pendMore := m }) hzeq)
  rw [hsto]
  generalize hL : z.setTeam s.cur { s0.team s.cur with pend := p, pendMore := m } = L
  have hLt : L.team s.cur = { s0.team s.cur with pend := p, pendMore := m } := by rw [← hL, State.team_setTeam_same]
  generalize hG : (if L.held.length = s0.held.length then L else (L.noteLogs s0.held.length).noteHeld s.cur) = s2
  have hs2 : (z.held.length = s0.held.length → s2.mem = z.mem ∧ s2.sysmem = z.sysmem) ∧ ∃ x, s2.team s.cur = { L.team s.cur with parkNext := x } := by
    subst hG
    split
    next heq => exact ⟨fun _ => by rw [← hL]; exact ⟨rfl, rfl⟩, _, rfl⟩
    next hneq =>
      refine ⟨fun hh => absurd (by rw [← hL]; exact hh) hneq, ?_⟩
      have hlog := L.noteLogs_cached s0.held.length
      obtain h | ⟨x, h⟩ := (L.noteLogs s0.held.length).noteHeld_spec s.cur <;> rw [h]
      · exact ⟨_, hlog.team_eq _⟩
      · exact ⟨x, by rw [State.team_setTeam_same, hlog.team_eq]⟩
  obtain ⟨hmem, x, hx⟩ := hs2
  have hs2t : s2.team s.cur = { t.advance i with pend := p, pendMore := m, parkNext := x } := by rw [hx, hLt, hteam]
  obtain ⟨hm, hsm, o, w, hfin⟩ := s2.restDone_spec s.cur (i.restOf q t enc ilv n us).moved
  replace hfin := hfin.trans (by rw [hs2t])
  exact ⟨congrArg Team.pc hfin,
    Team.sameRegs_of_maps (congrArg Team.v hfin) (congrArg Team.s hfin) (congrArg Team.p hfin) (congrArg Team.q hfin) _, congrArg Team.rest hfin,
    fun hh => ⟨hm.trans (hmem hh).1, hsm.trans (hmem hh).2⟩⟩

/-! ST. -/

/-- A clear ST, settled, that raises no enabled flag. -/
theorem execSt_go {f : Form} {s : State} {ls : List Nat} (h : Clear (insW 0x101 f) (s.team s.cur) ls) (hne : ls ≠ []) :
    let i := insW 0x101 f
    let t := s.team s.cur
    let q := s.plan i t ls { rd := false, wr := true, width := plainWidth (decide (64 ≤ f.b.toNat)) f.ty, cls := fun _ => true, both := false }
    let n := (plainWidth (decide (64 ≤ f.b.toNat)) f.ty q.2.2).getD 4
    let val := fun l => storeConv f.ty q.2.2 f.mod.toNat t.ftz (i.opd t i.wide l)
    let fl := ls.foldl (fun x l => x ||| (val l).2) 0
    Settled q.1 i t q.2.1 n false true → (∀ l ∈ ls, t.fpx (val l).2 = 0) →
    execSt f s = .next (if 64 ≤ f.b.toNat then (q.1.storeCore (q.2.1.accs.map (fun a => (a, natLe n (val a.lane).1)))).finish i (t.addFlags fl)
      else q.1.runUnits i (t.addFlags fl) q.2.2 0 n (accUnits q.2.1.accs (fun l => natLe n (val l).1) (fun _ => 0) (fun _ => 0))) := by
  intro i t q n val fl hset hfpx
  have hok : ls.filter (fun l => !q.2.1.fails.any (fun x => x.lane == l)) = ls := by
    rw [hset.1]
    simp
  have hfp : (ls.filter (fun l => t.fpx (val l).2 != 0)) = [] := by
    simpa [List.filter_eq_nil_iff] using hfpx
  rw [execSt, runIns_go _ h, if_neg (by simpa using hne)]
  refine congrArg Host.Outcome.next ?_
  dsimp only
  rw [show (ls.filter fun l => !(s.plan (insW 0x101 f) (s.team s.cur) ls _).2.1.fails.any (fun x => x.lane == l)) = ls from hok]
  rw [show (ls.filter fun l => (s.team s.cur).fpx _ != 0) = [] from hfp]
  refine (State.settle_go _ hset).trans ?_
  simp only [ge_iff_le, decide_eq_true_eq]
  rfl

/-- What the lanes of a plan store in core memory, in lane order. -/
theorem State.storeCore_spec (s : State) (accs : List Acc) (v : Nat → List Byte) :
    (s.storeCore (accs.map (fun a => (a, v a.lane)))).mem = s.mem
      ∧ (s.storeCore (accs.map (fun a => (a, v a.lane)))).cur = s.cur
      ∧ (s.storeCore (accs.map (fun a => (a, v a.lane)))).cm
        = accs.foldl (fun m a => match a.place with | .core k => writeMem m k (v a.lane) | .tab _ _ => m) s.cm := by
  unfold State.storeCore
  rw [List.foldl_map]
  induction accs generalizing s with
  | nil => exact ⟨rfl, rfl, rfl⟩
  | cons a r ih =>
    obtain ⟨h1, h2, h3⟩ := ih (match a.place with | .core k => s.putCore k (v a.lane) | .tab _ _ => s)
    rw [List.foldl_cons, List.foldl_cons]
    cases ha : a.place <;> rw [ha] at h1 h2 h3 <;> exact ⟨h1, h2, h3⟩

/-- Settles O25: core memory takes the bytes in lane order, a table unit after unit. -/
theorem storesComplete : Obligations.StoresComplete := by
  unfold Obligations.StoresComplete
  intro f s ls h hne i t core q n val us s0 z hset hfpx
  have hgo : exec (.st f) s = _ := execSt_go h hne hset hfpx
  refine ⟨fun hb => ?_, fun hb hus hroom hown => ?_⟩
  · have hq : q.1 = s := by
      show (s.plan i t ls _).1 = s
      rw [State.plan_core _ _ _ hb]
    obtain ⟨hm, hc, hcm⟩ := s.storeCore_spec q.2.1.accs (fun l => natLe n (val l).1)
    rw [if_pos hb] at hgo
    refine ⟨_, hgo, ?_⟩
    obtain ⟨w, hw⟩ := (q.1.storeCore (q.2.1.accs.map (fun a => (a, natLe n (val a.lane).1)))).finish_spec i (t.addFlags (ls.foldl (fun x l => x ||| (val l).2) 0))
    rw [hw, hq, hc, State.team_setTeam_same]
    exact ⟨rfl, Team.sameRegs_of_maps rfl rfl rfl rfl _, hm, hcm⟩
  · rw [if_neg (by omega)] at hgo
    refine ⟨_, hgo, ?_⟩
    obtain ⟨hpc, hregs, hrest, hmem⟩ := State.runUnits_stores (t := t.addFlags (ls.foldl (fun x l => x ||| (val l).2) 0)) (enc := q.2.2) (ilv := 0)
      (s.plan_apart i t ls _) (Or.inl rfl) hus hroom hown
    have hz : us.foldl (fun u x => (u.storeUnit t.core (i.restOf q.1 (t.addFlags (ls.foldl (fun x l => x ||| (val l).2) 0)) q.2.2 0 n us)
        (.team s.cur t.pc i.len) x).1) s0 = z :=
      List.foldl_ext _ _ _ fun u x hx => by rw [State.storeUnit, (accUnits_lanes hx).2]
    exact ⟨hpc, hregs, hrest, hz ▸ hmem⟩

/-- Every access that a plan of core or cluster memory lets through lies where the block's allocation gives its lane's address. -/
theorem State.planCore_accs (s : State) (i : Ins) (t : Team) (n : Nat) (ls : List Nat) (p : Plan) :
    ∀ a ∈ (ls.foldl (fun p l => s.planCore i t n l p) p).accs, a ∈ p.accs
      ∨ ∃ l ∈ ls, ∃ k, a.place = .core k ∧ s.coreByte t (i.f.b == 0x41) (i.memKey t l % 2 ^ 32) i.offset n = some k := by
  have one : ∀ (p : Plan) (l : Nat), ∀ a ∈ (s.planCore i t n l p).accs, a ∈ p.accs
      ∨ ∃ k, a.place = .core k ∧ s.coreByte t (i.f.b == 0x41) (i.memKey t l % 2 ^ 32) i.offset n = some k := fun p l a ha => by
    unfold State.planCore at ha
    dsimp only at ha
    split at ha
    · exact .inl ha
    · next k hk =>
      split at ha
      · exact .inl ha
      · obtain h | h := List.mem_append.1 ha
        · exact .inl h
        · exact .inr ⟨k, by rw [List.mem_singleton.1 h], hk⟩
  induction ls generalizing p with
  | nil => exact fun a ha => .inl ha
  | cons l r ih =>
    intro a ha
    obtain h | ⟨m, hm, h⟩ := ih _ a ha
    · obtain h | h := one p l a h
      · exact .inl h
      · exact .inr ⟨l, List.mem_cons_self, h⟩
    · exact .inr ⟨m, List.mem_cons_of_mem _ hm, h⟩

@[simp] theorem natLe_length (n x : Nat) : (natLe n x).length = n := by
  induction n generalizing x with
  | zero => rfl
  | succ k ih => exact congrArg Nat.succ (ih _)

/-- Bytes outside all of a list of writes of `n` bytes stay. -/
theorem get_foldl_writeMem {accs : List Acc} {n b : Nat} {v : Acc → List Byte} (hv : ∀ a, (v a).length = n)
    (h : ∀ a ∈ accs, ∀ k, a.place = .core k → b < k ∨ k + n ≤ b) (m : SMap Byte) :
    SMap.get (accs.foldl (fun m a => match a.place with | .core k => writeMem m k (v a) | .tab _ _ => m) m) b memDefault
      = SMap.get m b memDefault := by
  induction accs generalizing m with
  | nil => rfl
  | cons a r ih =>
    rw [List.foldl_cons, ih (fun x hx => h x (List.mem_cons_of_mem _ hx))]
    cases ha : a.place with
    | tab t va => rfl
    | core k => exact get_writeMem_of_outside _ _ _ (by rw [hv]; exact h a List.mem_cons_self k ha)

/-- Completing leaves core memory. -/
theorem State.finish_cm {s u : State} {i : Ins} {t : Team} (h : s.finish i t = u) : u.cm = s.cm := by
  obtain ⟨w, hw⟩ := s.finish_spec i t
  rw [← h, hw]
  rfl

/-- Settles O26: the bytes written are those of the plan's accesses, each at the place the allocation gives. -/
theorem coreStoreFrame : Obligations.CoreStoreFrame := by
  unfold Obligations.CoreStoreFrame
  intro f s ls u h hb i t n p hset hu hfpx b hout
  by_cases hne : ls = []
  · subst hne
    have hgo : exec (.st f) s = .next (s.finish i t) := by
      refine Eq.trans (b := execSt f s) rfl ?_
      rw [execSt, runIns_go _ h]
      rfl
    obtain ⟨w, hw⟩ := s.finish_spec i t
    rw [hgo, hw] at hu
    cases hu
    rfl
  have hd : decide (64 ≤ f.b.toNat) = true := decide_eq_true hb
  have hplan := s.plan_core (i := i) t ls { rd := false, wr := true, width := plainWidth true f.ty, cls := fun _ => true, both := false } hb
  simp only [p, hplan] at hset
  have hgo : exec (.st f) s = _ := execSt_go h hne (by rw [hd, hplan]; exact hset) (by rw [hd, hplan]; exact hfpx)
  dsimp only at hgo
  rw [if_pos hb, hd, hplan] at hgo
  dsimp only at hgo
  have hcm : u.cm = _ := (State.finish_cm (Host.Outcome.next.inj (hgo.symm.trans hu))).trans (s.storeCore_spec _ (fun l => natLe n (storeConv f.ty 0 f.mod.toNat t.ftz (i.opd t i.wide l)).1)).2.2
  rw [hcm]
  refine get_foldl_writeMem (fun a => natLe_length ..) (fun a ha k hk => ?_) s.cm
  obtain h0 | ⟨l, hl, k', hk', hc⟩ := s.planCore_accs i t n ls Plan.empty a ha
  · exact absurd h0 List.not_mem_nil
  · exact hout l hl k (hc.trans (congrArg some (Place.core.inj (hk'.symm.trans hk))))

end Sys2Proof.Machine
end

section
/-!
Device memory's home controller (21 R345, R349, R352), scaled blocks and atomics (08 R168–R173), fences and prefetches (08 R174, R175).
-/
namespace Sys2Proof.Machine

/-! A write within one block. -/

/-- A map reads at other keys as before, whatever either default is. -/
theorem SMap.get_put_elsewhere {α : Type} [DecidableEq α] (m : SMap α) {k j : Nat} (v d e : α) (h : j ≠ k) :
    SMap.get (SMap.put m k v d) j e = SMap.get m j e := by
  unfold SMap.put
  split
  · exact SMap.get_drop_ne m e h
  · rw [SMap.get_ins _ _ _ _ _ (fun x hx => (SMap.mem_drop.1 hx).2), if_neg h, SMap.get_drop_ne m e h]

/-- Only counters of storage differ, and DEMBASE stays: what taking and giving back storage changes. -/
def State.Pooled (s t : State) : Prop :=
  t = { s with regs := t.regs, fresh := t.fresh, poolFree := t.poolFree, rsvFree := t.rsvFree, rsvLow := t.rsvLow, rounds := t.rounds, falls := t.falls }
    ∧ t.regN 0 oDEMBASE = s.regN 0 oDEMBASE

theorem State.Pooled.refl (s : State) : s.Pooled s := ⟨rfl, rfl⟩

theorem State.Pooled.trans {s t u : State} (h : s.Pooled t) (k : t.Pooled u) : s.Pooled u := by
  obtain ⟨h1, h2⟩ := h
  obtain ⟨k1, k2⟩ := k
  refine ⟨?_, k2.trans h2⟩
  rw [h1] at k1
  exact k1

theorem State.addReg_pooled (s : State) (f : Nat) (v : W64) : s.Pooled (s.addReg f oQUSED v) := by
  refine ⟨rfl, congrArg BitVec.toNat ?_⟩
  unfold State.addReg State.setReg State.reg
  dsimp only
  rw [SMap.get_put_elsewhere]
  show 65536 * 0 + 0xD00 ≠ 65536 * f + 0x860
  omega

theorem State.falls_pooled (s : State) (m : SMap Nat) : s.Pooled { s with falls := m } := ⟨rfl, rfl⟩

theorem State.addUsed_pooled (s : State) (a : Nat) (up : Bool) : s.Pooled (s.addUsed a up) := by
  unfold State.addUsed
  cases s.ownerOf a with
  | none => exact .refl s
  | some f =>
    cases up
    · exact (s.addReg_pooled f (-1)).trans (State.falls_pooled ..)
    · exact s.addReg_pooled f 1

theorem State.freeStorage_pooled (s : State) (d : Nat) : s.Pooled (s.freeStorage d) := by
  unfold State.freeStorage
  split <;> exact ⟨rfl, rfl⟩

theorem State.takeStorage_pooled (s : State) (d : Nat) : s.Pooled (s.takeStorage d) := by
  unfold State.takeStorage
  split <;> exact ⟨rfl, rfl⟩

/-- Where a block's bytes stand when it has storage: its place in the frame's demotion slot, or none of those. -/
def State.slotPlace (s : State) (da : Nat) : Option Nat := (s.frameOf da).slot.map (fun n => s.regN 0 oDEMBASE + 65536 * n + da % 65536)

theorem State.slotAddr_data {s : State} {da : Nat} (h : (s.blkOf da).st = .data) : s.slotAddr da = s.slotPlace da := by
  unfold State.slotAddr State.slotPlace
  cases (s.frameOf da).slot with
  | none => rfl
  | some n => exact if_pos h

theorem State.slotAddr_not_data {s : State} {da : Nat} (h : (s.blkOf da).st ≠ .data) : s.slotAddr da = none := by
  unfold State.slotAddr
  cases (s.frameOf da).slot with
  | none => rfl
  | some n => exact if_neg h

/-- What a write to a block leaves: its bytes in device memory or, where it has storage in a demoted frame, in its slot. -/
def State.PutIn (s u : State) (da : Nat) (bs : List Byte) : Prop :=
  u.frames = s.frames ∧ u.held = s.held ∧ u.regN 0 oDEMBASE = s.regN 0 oDEMBASE
    ∧ (((u.blkOf da).st ≠ .data ∧ u.mem = writeMem s.mem da bs)
      ∨ ((u.blkOf da).st = .data ∧ (s.slotPlace da = none → u.mem = writeMem s.mem da bs)
          ∧ (∀ b, s.slotPlace da = some b → ∃ m, u.sysmem = writeMem m b bs)))

theorem State.PutIn.pooled {s u v : State} {da : Nat} {bs : List Byte} (h : s.PutIn u da bs) (k : u.Pooled v) : s.PutIn v da bs := by
  obtain ⟨hv, hreg⟩ := k
  unfold State.PutIn at h ⊢
  rw [hreg]
  rw [hv]
  exact h

theorem blkMove_keep {b : Blk} {a : Nat} {bs : List Byte} {cmp : Bool} (h : blkMove b a bs cmp = .keep) : b.st ≠ .data := by
  unfold blkMove at h
  split at h
  next hk => exact hk.1
  next =>
    split at h <;> split at h <;> cases h

theorem blkMove_inPlace {b : Blk} {a : Nat} {bs : List Byte} {cmp : Bool} (h : blkMove b a bs cmp = .inPlace) : b.st = .data := by
  unfold blkMove at h
  split at h
  · cases h
  · split at h <;> split at h
    next hk => exact hk.1
    · cases h
    next hk => exact hk
    · cases h

theorem blkMove_expand {b : Blk} {a : Nat} {bs : List Byte} {cmp : Bool} (h : blkMove b a bs cmp = .expand) : b.st ≠ .data := by
  unfold blkMove at h
  split at h
  · cases h
  · split at h <;> split at h
    · cases h
    · cases h
    · cases h
    next hk => exact hk

/-- Bytes written where a block's storage is. -/
theorem State.writeDev_putIn {s t : State} {da : Nat} (bs : List Byte) (hf : t.frames = s.frames) (hh : t.held = s.held)
    (hr : t.regN 0 oDEMBASE = s.regN 0 oDEMBASE) (hst : (t.blkOf da).st = .data) (hm : s.slotPlace da = none → t.mem = s.mem) :
    s.PutIn (t.writeDev da bs) da bs := by
  have hplace : t.slotAddr da = s.slotPlace da := by
    rw [State.slotAddr_data hst]
    unfold State.slotPlace State.frameOf
    rw [hf, hr]
  unfold State.writeDev
  rw [hplace]
  cases hp : s.slotPlace da with
  | none => exact ⟨hf, hh, hr, .inr ⟨hst, fun _ => congrArg (writeMem · da bs) (hm hp), fun b h => absurd (hp.symm.trans h) nofun⟩⟩
  | some b => exact ⟨hf, hh, hr, .inr ⟨hst, fun h => absurd (hp.symm.trans h) nofun, fun c h => ⟨t.sysmem, by rw [← Option.some.inj (hp.symm.trans h)]⟩⟩⟩

/-- A block's record may be replaced by another one with storage. -/
theorem State.PutIn.reblk {s u : State} {da : Nat} {bs : List Byte} (h : s.PutIn u da bs) (hu : (u.blkOf da).st = .data) (m : SMap Blk) {nb : Blk}
    (hb : nb.st = .data) : s.PutIn { u with blk := SMap.put m (da / 256) nb Blk.fresh } da bs := by
  obtain ⟨hf, hh, hr, ⟨hst, -⟩ | ⟨-, hm, hs⟩⟩ := h
  · exact absurd hu hst
  · exact ⟨hf, hh, hr, .inr ⟨by simpa only [State.blkOf, SMap.get_put_same] using hb, hm, hs⟩⟩

theorem State.writeDev_blk (s : State) (a : Nat) (bs : List Byte) : (s.writeDev a bs).blk = s.blk := by
  unfold State.writeDev
  split <;> rfl

/-- A write to a block (21 R345). -/
theorem State.blockPut_putIn (s : State) (da : Nat) (bs : List Byte) (cmp : Bool) : s.PutIn (s.blockPut da bs cmp) da bs := by
  unfold State.blockPut
  dsimp only
  split
  case h_1 hm =>
    have hst := blkMove_keep hm
    exact ⟨rfl, rfl, rfl, .inl ⟨by simpa only [State.blkOf, SMap.get_put_same] using hst, rfl⟩⟩
  case h_2 w hm =>
    have hu : ∀ nb : Blk, nb.st ≠ .data → s.PutIn { s with mem := writeMem s.mem da bs, blk := SMap.put s.blk (da / 256) nb Blk.fresh } da bs :=
      fun nb hb => ⟨rfl, rfl, rfl, .inl ⟨by simpa only [State.blkOf, SMap.get_put_same] using hb, rfl⟩⟩
    have hw := hu (if w = 0 then { st := .zero, value := 0, nc := !cmp } else { st := .const, value := w, nc := !cmp }) (by split <;> (intro h; cases h))
    split
    · refine State.PutIn.pooled ?_ (State.addUsed_pooled ..)
      split
      · exact hw
      · exact hw.pooled (State.freeStorage_pooled ..)
    · exact hw
  case h_3 hm =>
    have hst := blkMove_inPlace hm
    exact (s.writeDev_putIn bs rfl rfl rfl hst (fun _ => rfl)).reblk (by rw [State.blkOf, s.writeDev_blk]; exact hst) _ hst
  case h_4 hm =>
    have hst : ∀ t : State, t.blk = SMap.put s.blk (da / 256) { st := .data, value := Config.freeStorage s.fresh, nc := !cmp } Blk.fresh →
        (t.blkOf da).st = .data := fun t h => by rw [State.blkOf, h, SMap.get_put_same]
    generalize h2 : State.useFresh _ = s2
    have hb2 : s2.blk = SMap.put s.blk (da / 256) { st := .data, value := Config.freeStorage s.fresh, nc := !cmp } Blk.fresh := by
      subst h2
      rfl
    have hf2 : s2.frames = s.frames ∧ s2.held = s.held ∧ s2.regN 0 oDEMBASE = s.regN 0 oDEMBASE ∧ s2.mem = s.mem := by
      subst h2
      exact ⟨rfl, rfl, rfl, rfl⟩
    obtain ⟨hf, hh, hr, hm2⟩ := hf2
    split
    next hd =>
      refine State.PutIn.pooled ?_ (State.addUsed_pooled ..)
      have hw : ∀ a bs, (s2.writeDev a bs).frames = s2.frames ∧ (s2.writeDev a bs).held = s2.held ∧ (s2.writeDev a bs).regN 0 oDEMBASE = s2.regN 0 oDEMBASE :=
        fun a bs => by unfold State.writeDev; split <;> exact ⟨rfl, rfl, rfl⟩
      obtain ⟨hwf, hwh, hwr⟩ := hw (256 * (da / 256)) (readMem s.mem (256 * (da / 256)) 256)
      refine State.writeDev_putIn bs (hwf.trans hf) (hwh.trans hh) (hwr.trans hr) (hst _ ((State.writeDev_blk ..).trans hb2)) (fun hp => ?_)
      unfold State.slotPlace at hp
      rw [Option.map_eq_none_iff] at hp
      rw [hp] at hd
      cases hd
    next =>
      exact State.PutIn.pooled (State.writeDev_putIn bs hf hh hr (hst _ hb2) (fun _ => hm2)) ((State.takeStorage_pooled ..).trans (State.addUsed_pooled ..))

theorem cutRange_within {a n : Nat} (k : Nat) (h : a % 256 + n ≤ 256) (hn : 0 < n) : cutRange (k + 2) 256 a n = [(a, n)] := by
  have hm : min n (256 - a % 256) = n := by omega
  simp only [cutRange, if_neg (Nat.ne_of_gt hn), hm, Nat.sub_self, if_true]

/-- Within one block a read is one run of bytes (21 R352). -/
theorem State.readDev_within (s : State) {a n : Nat} (h : a % 256 + n ≤ 256) (hn : 0 < n) :
    s.readDev a n = match s.slotAddr a with | some b => readMem s.sysmem b n | none => readMem s.mem a n := by
  unfold State.readDev
  rw [show 4097 = 4095 + 2 from rfl, cutRange_within _ h hn]
  exact List.append_nil _

/-- What a write within one block left reads back. -/
theorem State.PutIn.readDev {s u : State} {da : Nat} {bs : List Byte} (h : s.PutIn u da bs) (hb : da % 256 + bs.length ≤ 256) :
    u.readDev da bs.length = bs := by
  obtain ⟨hfr, -, hreg, hcase⟩ := h
  by_cases hn : bs = []
  · subst hn
    rfl
  rw [u.readDev_within hb (List.length_pos_iff.2 hn)]
  have hplace : u.slotPlace da = s.slotPlace da := by
    unfold State.slotPlace State.frameOf
    rw [hfr, hreg]
  obtain ⟨hst, hmem⟩ | ⟨hst, hmem, hslot⟩ := hcase
  · rw [State.slotAddr_not_data hst, hmem]
    exact readMem_writeMem ..
  · rw [State.slotAddr_data hst, hplace]
    cases hp : s.slotPlace da with
    | none =>
      rw [hmem hp]
      exact readMem_writeMem ..
    | some b =>
      obtain ⟨m, hm⟩ := hslot b hp
      rw [hm]
      exact readMem_writeMem ..

/-- With the dirty log off nothing is appended. -/
theorem State.dlAppend_off {s : State} {f da : Nat} (h : s.dlOn f = false) : s.dlAppend f da = s := by
  unfold State.dlAppend State.dlNeeds
  simp only [h, Bool.false_and, Bool.false_eq_true, if_false]

/-- A write of one part, where neither poison, an earlier write, storage nor the dirty log holds it up, is performed at once (21 R343, R349). -/
theorem State.storeBlock_done {s : State} {fn da va : Nat} {bs : List Byte} {cmp : Bool} {w : Writer}
    (hp : s.poisoned da = false) (hh : s.blockHeld da = false) (hl : s.poolLow (homeDie da) = false) (hd : s.dlOn fn = false) :
    s.storeBlock fn da bs cmp false w va = ((((s.touchFrame da).loseLines false da bs.length).blockPut da bs cmp), .done) := by
  have hlogs : ∀ ps, s.logAsks fn ps = [] := fun ps => by
    unfold State.logAsks State.dlNeeds
    rw [hd]
    generalize devParts ps = l
    induction l with
    | nil => rfl
    | cons p r ih => exact ih
  have hshort : s.shortDies (s.storageAsks fn [{ sys := false, addr := da, bytes := bs, cmp := cmp }]) = [] := by
    have hpool : (s.watermarks (homeDie da)).1 < s.pool (homeDie da) := by simpa [State.poolLow] using hl
    have hasks : s.storageAsks fn [{ sys := false, addr := da, bytes := bs, cmp := cmp }] = [] ∨
        s.storageAsks fn [{ sys := false, addr := da, bytes := bs, cmp := cmp }] = [da] := by
      unfold State.storageAsks State.logBlocks
      rw [hlogs]
      cases hn : s.needsStorage da bs cmp <;> simp [devParts, hn]
    unfold State.shortDies
    obtain h | h := hasks <;> rw [h]
    · simp
    · refine List.filter_eq_nil_iff.2 fun d _ => ?_
      by_cases hdd : homeDie da = d
      · subst hdd
        simp
        omega
      · simp [hdd]
  have hlogp : s.logShort fn [{ sys := false, addr := da, bytes := bs, cmp := cmp }] = false := by
    unfold State.logShort
    rw [hlogs]
    rfl
  have happend : ((s.touchFrame da).loseLines false da bs.length).dlAppend fn da = (s.touchFrame da).loseLines false da bs.length := State.dlAppend_off hd
  unfold State.storeBlock State.storeParts State.storeWith
  have hdev : devParts [{ sys := false, addr := da, bytes := bs, cmp := cmp }] = [{ sys := false, addr := da, bytes := bs, cmp := cmp }] := rfl
  rw [hdev]
  simp only [List.any_cons, List.any_nil, hp, hh, Bool.or_false, Bool.false_eq_true, if_false, hshort, List.isEmpty_nil, Bool.not_true, hlogp]
  refine congrArg (·, Stored.done) ?_
  show (((s.touchFrame da).loseLines false da bs.length).dlAppend fn da).blockPut da bs cmp = _
  rw [happend]

/-- Settles O27: what the home controller's write leaves in the block reads back. -/
theorem blockWriteReadsBack : Obligations.BlockWriteReadsBack := by
  unfold Obligations.BlockWriteReadsBack
  intro s fn da va bs cmp w hb hp hh hl hd _ r
  have hr : r = _ := State.storeBlock_done (w := w) (va := va) (cmp := cmp) (bs := bs) hp hh hl hd
  have hput := ((s.touchFrame da).loseLines false da bs.length).blockPut_putIn da bs cmp
  have hcalm : s.Apart r.1 := s.storeBlock_apart fn da bs cmp false w va
  rw [hr] at hcalm ⊢
  refine ⟨rfl, hput.readDev hb, fun hslot b hout => ?_, hcalm.teams, hput.2.1, hcalm.cm⟩
  have hplace : ((s.touchFrame da).loseLines false da bs.length).slotPlace da = none := by
    refine Option.map_eq_none_iff.2 (Eq.trans ?_ hslot)
    show (SMap.get (SMap.put s.frames (da / 65536) { s.frameOf da with ref := true } Frame.fresh) (da / 65536) Frame.fresh).slot = _
    rw [SMap.get_put_same]
  have hmem : (((s.touchFrame da).loseLines false da bs.length).blockPut da bs cmp).mem = writeMem s.mem da bs := by
    obtain ⟨-, -, -, ⟨-, h⟩ | ⟨-, h, -⟩⟩ := hput
    · exact h
    · exact h hplace
  dsimp only
  rw [hmem]
  exact get_writeMem_of_outside _ _ _ hout

/-! LDB and STB. -/

/-- A word of the mask names one of its lanes. -/
theorem wordLanes_headD_mem {t : Team} {ls : List Nat} {e : Nat × List Nat} (h : e ∈ wordLanes t ls) : e.2.headD 0 ∈ ls := by
  obtain ⟨hm, hne⟩ := List.mem_filter.1 h
  obtain ⟨w, -, rfl⟩ := List.mem_map.1 hm
  cases hf : ls.filter (fun l => l / 32 == w) with
  | nil => simp [hf] at hne
  | cons l r => exact (List.mem_filter.1 (hf ▸ List.mem_cons_self)).1

theorem execLdb_go {f : Form} {s : State} {ls : List Nat} {r : Rec} (h : Clear (insW 0x102 f) (s.team s.cur) ls) (hne : ls ≠ [])
    (hb : f.b.toNat < 64) :
    let i := insW 0x102 f
    let t := s.team s.cur
    let q := s.planBlocks i t ls false
    q.2.2 = some r → Settled q.1 i t q.2.1 (scaledBytes r.enc) true false →
    execLdb f s = .next (q.1.runUnits i (t.markAll (ls.flatMap i.dstRefs)) r.enc r.ilv (scaledBytes r.enc)
      (blockUnits (pairAccs q.2.1.accs (wordLanes t ls)) (fun _ => []) (fun _ => 0))) := by
  intro i t q hr hset
  rw [execLdb, runIns_go _ h, if_neg (by simpa using hne), if_neg (by omega)]
  refine congrArg Host.Outcome.next ?_
  dsimp only
  rw [show (s.planBlocks (insW 0x102 f) (s.team s.cur) ls false).2.2 = some r from hr]
  exact State.settle_go _ hset

theorem execStb_go {f : Form} {s : State} {ls : List Nat} {r : Rec} (h : Clear (insW 0x103 f) (s.team s.cur) ls) (hne : ls ≠ [])
    (hb : f.b.toNat < 64) :
    let i := insW 0x103 f
    let t := s.team s.cur
    let q := s.planBlocks i t ls true
    q.2.2 = some r → Settled q.1 i t q.2.1 (scaledBytes r.enc) false true → (∀ l ∈ ls, badScaleWord r.enc (i.opd t false l / 65536) = false) →
    execStb f s = .next (q.1.runUnits i t r.enc r.ilv (scaledBytes r.enc)
      (blockUnits (pairAccs q.2.1.accs (wordLanes t ls)) (fun l => natLe 2 (i.opd t false l / 65536)) (i.opd t false))) := by
  intro i t q hr hset hgood
  rw [execStb, runIns_go _ h, if_neg (by simpa using hne), if_neg (by omega)]
  refine congrArg Host.Outcome.next ?_
  dsimp only
  rw [show (s.planBlocks (insW 0x103 f) (s.team s.cur) ls true).2.2 = some r from hr]
  dsimp only
  have hextra : ((wordLanes t ls).flatMap (fun e =>
      let l := e.2.headD 0
      if (some r).isSome && badScaleWord r.enc (i.opd t false l / 65536) then
        e.2.map (fun m => ({ lane := m, cls := cTABLE, sub := 4, key := i.memKey t l, off := i.offset } : Fail))
      else [])) = [] := by
    refine List.flatMap_eq_nil_iff.2 fun e he => ?_
    dsimp only
    rw [hgood _ (wordLanes_headD_mem he)]
    rfl
  dsimp only at hextra
  rw [show (List.flatMap _ (wordLanes (s.team s.cur) ls)) = [] from hextra]
  exact State.settle_go _ hset

/-- Settles O28. -/
theorem blockAccessesComplete : Obligations.BlockAccessesComplete := by
  unfold Obligations.BlockAccessesComplete
  refine ⟨fun f s ls r h hne hb => ?_, fun f s ls r h hne hb => ?_, fun s core r w u c hc hu hc0 => ?_⟩
  · intro i t q n us s0 v hr hset hus hroom hgood
    obtain ⟨hmem, -, hleft⟩ := State.runUnits_loads (enc := r.enc) (ilv := r.ilv) (s.planBlocks_apart i t ls false) (Or.inr (Or.inl rfl)) hus hroom hgood
    refine ⟨_, execLdb_go h hne hb hr hset, hmem, ?_⟩
    have hd : v.2.flatMap (i.unitDsts r.enc r.ilv n) = v.2.flatMap (fun x => x.1.lanes.flatMap (fun l =>
        i.laneDst l (blockLane f.ty r.enc (leNat x.2.2.1) (blockCode r.enc r.ilv (leNat x.2.1)) (l % 32)))) :=
      congrArg List.flatten (List.map_congr_left fun x hx => by simp [Ins.unitDsts, Rest.dsts, hgood x hx, i, Ins.laneDst])
    rw [← hd]
    exact hleft
  · intro i t q n us s0 k z hr hset hgood hus hroom hown
    refine ⟨_, execStb_go h hne hb hr hset hgood, ?_⟩
    obtain ⟨hpc, hregs, hrest, hmem⟩ := State.runUnits_stores (t := t) (enc := r.enc) (ilv := r.ilv) (s.planBlocks_apart i t ls true) (Or.inr rfl) hus hroom hown
    have hz : us.foldl (fun u x => (u.storeUnit t.core (i.restOf q.1 t r.enc r.ilv n us) (.team s.cur t.pc i.len) x).1) s0 = z :=
      List.foldl_ext _ _ _ fun u x _ => congrArg Prod.fst (State.storeUnit_congr rfl rfl rfl u _ _ x)
    exact ⟨hpc, hregs, hrest, hz ▸ hmem⟩
  · intro old x
    have hx : x = if old.2 || (s.readTr c.1 2).2 then (s, Stored.poison) else
        let q := s.storeDirty u.tr.fn (u.tr.parts (mergeElems r.enc r.ilv old.1 u.elems) ++ c.1.parts u.bytes) w u.va (.stb r.enc r.ilv u.elems)
        (if q.2 = .done then q.1.coreWroteBoth core u.tr r.n c.1 2 else q.1, q.2) := by
      show s.storeUnit core r w u = _
      rw [State.storeUnit, hc]
      exact if_neg (by simp [hu, hc0])
    rw [hx]
    refine ⟨fun hbad => by rw [if_pos (by simpa using hbad)], fun h1 h2 => ?_⟩
    rw [h1, h2]
    exact ⟨rfl, fun hd => if_pos hd, fun hd => if_neg hd⟩

/-! Atomics. -/

/-- One atomic at core memory leaves everything but core memory. -/
theorem State.amoAt_core (s : State) (k n : Nat) (a : HeldAmo) (w : Writer) :
    (s.amoAt (.core k) n a w).1 = s ∨ ∃ bs, (s.amoAt (.core k) n a w).1 = s.putCore k bs := by
  unfold State.amoAt
  dsimp only
  split
  · exact .inl rfl
  · split
    · exact .inl rfl
    · exact .inr ⟨_, rfl⟩

/-- The atomic that a lane of the instruction performs. -/
def Ins.heldAmo (i : Ins) (t : Team) (l : Nat) : HeldAmo :=
  { opc := i.op, op := if i.op = 0x106 then 8 else i.f.mod.toNat, f := i.f, lane := l, x := BitVec.ofNat 64 (i.amoOperands t l).1,
    y := BitVec.ofNat 64 (i.amoOperands t l).2 }

/-- One lane's atomic: the state, the values so far, the lanes with bad data. -/
def Ins.amoLane (i : Ins) (t : Team) (n cur : Nat) (r : State × List Dst × List (Acc × Nat)) (a : Acc) : State × List Dst × List (Acc × Nat) :=
  let e := r.1.amoAt a.place n (i.heldAmo t a.lane) (.team cur t.pc i.len)
  match e.2 with
  | .old x => (e.1, r.2.1 ++ amoDsts i.op i.f a.lane x (x == (i.amoOperands t a.lane).1), r.2.2)
  | .bad sub => (e.1, r.2.1 ++ amoDsts i.op i.f a.lane 0 false, r.2.2 ++ [(a, sub)])
  | .held => (e.1, r.2.1, r.2.2)

/-- All lanes' atomics in turn. -/
def Ins.amoLanes (i : Ins) (t : Team) (n : Nat) (s : State) (accs : List Acc) : State × List Dst × List (Acc × Nat) :=
  accs.foldl (i.amoLane t n s.cur) (s, [], [])

theorem Ins.amoLane_fst (i : Ins) (t : Team) (n cur : Nat) (r : State × List Dst × List (Acc × Nat)) (a : Acc) :
    (i.amoLane t n cur r a).1 = (r.1.amoAt a.place n (i.heldAmo t a.lane) (.team cur t.pc i.len)).1 := by
  unfold Ins.amoLane
  dsimp only
  split <;> rfl

/-- Atomics at core memory leave device memory and the turn. -/
theorem Ins.amoLanes_core (i : Ins) (t : Team) (n : Nat) (s : State) (accs : List Acc) (h : ∀ a ∈ accs, ∃ k, a.place = .core k) :
    (i.amoLanes t n s accs).1.mem = s.mem ∧ (i.amoLanes t n s accs).1.cur = s.cur := by
  have gen : ∀ (c : Nat) (r : State × List Dst × List (Acc × Nat)),
      (accs.foldl (i.amoLane t n c) r).1.mem = r.1.mem ∧ (accs.foldl (i.amoLane t n c) r).1.cur = r.1.cur := fun c => by
    induction accs with
    | nil => exact fun r => ⟨rfl, rfl⟩
    | cons a l ih =>
      intro r
      obtain ⟨h1, h2⟩ := ih (fun x hx => h x (List.mem_cons_of_mem _ hx)) (i.amoLane t n c r a)
      obtain ⟨k, hk⟩ := h a List.mem_cons_self
      rw [i.amoLane_fst, hk] at h1 h2
      obtain e | ⟨bs, e⟩ := r.1.amoAt_core k n (i.heldAmo t a.lane) (.team c t.pc i.len) <;> rw [e] at h1 h2 <;> exact ⟨h1, h2⟩
  exact gen s.cur (s, [], [])

theorem runAmo_go {i : Ins} {s : State} {ls : List Nat} (h : Clear i (s.team s.cur) ls) (hne : ls ≠ []) :
    let t := s.team s.cur
    let n := if tyWide i.f.ty then 8 else 4
    let q := s.plan i t ls { rd := i.op != 0x105, wr := true, width := amoWidth i.f.ty, cls := amoClass i.f.ty, both := true }
    Settled q.1 i t q.2.1 n (i.op != 0x105) true →
    runAmo i s = .next (if i.f.b.toNat < 64 then
        q.1.runUnits i (if i.op = 0x105 then t else t.markAll (ls.flatMap i.dstRefs)) q.2.2 0 n
          (accUnits q.2.1.accs (fun _ => []) (fun l => (i.amoOperands t l).1) (fun l => (i.amoOperands t l).2))
      else
        let r := i.amoLanes t n q.1 q.2.1.accs
        if i.op = 0x105 then r.1.finish i (t.addPend (eccPend i t r.2.2)) else r.1.landCore i t ls 2 r.2.1 r.2.2) := by
  intro t n q hset
  rw [runAmo, runIns_go _ h, if_neg (by simpa using hne)]
  exact congrArg Host.Outcome.next (State.settle_go _ hset)

/-- The atomic of one unit, with the entries it takes of its core. -/
def State.atomOf (s : State) (i : Nat) (t : Team) (r : Rest) (u : AUnit) (entries : Nat) : Atom :=
  { tag := s.atomTag + 1, ins := r.ins, team := i, core := t.core, pc := r.pc, len := r.len, opc := r.opc, f := r.f, n := r.n, u := u,
    entries := entries, moved := r.moved, done := none }

/-- One unit's atomic is sent. -/
def State.sendAtom (i : Nat) (t : Team) (r : Rest) (a : State × List (Nat × Bool × Nat)) (u : AUnit) : State × List (Nat × Bool × Nat) :=
  let new := u.lines.filter (fun l => !a.2.contains l)
  let x := a.1.atomOf i t r u new.length
  (({ a.1 with atoms := a.1.atoms ++ [x], atomTag := a.1.atomTag + 1 }).sendMsg (.atomicreq { a.1.atomMsg x with slot := 16 * t.part + t.slot }), a.2 ++ new)

theorem State.sendAtoms_eq (s : State) (i : Nat) (r : Rest) (us : List AUnit) :
    s.sendAtoms i r us = (us.foldl (State.sendAtom i (s.team i) r) (s, [])).1 := rfl

/-- Atomics sent to their homes: one of each unit, in order; nothing else changes but what is under way. -/
theorem State.sendAtoms_spec (s : State) (i : Nat) (r : Rest) (us : List AUnit) :
    ∃ as, (s.sendAtoms i r us).atoms = s.atoms ++ as ∧ as.map Atom.u = us
      ∧ (∀ a ∈ as, a.team = i ∧ a.opc = r.opc ∧ a.f = r.f ∧ a.n = r.n ∧ a.done = none)
      ∧ (s.sendAtoms i r us).mem = s.mem ∧ (s.sendAtoms i r us).teams = s.teams ∧ (s.sendAtoms i r us).held = s.held := by
  rw [State.sendAtoms_eq]
  generalize s.team i = t
  generalize ([] : List (Nat × Bool × Nat)) = e
  induction us generalizing s e with
  | nil => exact ⟨[], (List.append_nil _).symm, rfl, fun a h => absurd h List.not_mem_nil, rfl, rfl, rfl⟩
  | cons u l ih =>
    obtain ⟨as, h1, h2, h3, h4, h5, h6⟩ := ih (State.sendAtom i t r (s, e) u).1 (State.sendAtom i t r (s, e) u).2
    refine ⟨s.atomOf i t r u (u.lines.filter (fun l => !e.contains l)).length :: as, ?_, congrArg (u :: ·) h2, ?_, h4, h5, h6⟩
    · rw [List.foldl_cons, h1]
      exact List.append_assoc ..
    · intro a hmem
      obtain rfl | h := List.mem_cons.1 hmem
      · exact ⟨rfl, rfl, rfl, rfl, rfl⟩
      · exact h3 a h

theorem State.doUnits_atoms (s : State) (i : Nat) {r : Rest} {us : List AUnit} (hr : r.stores = false)
    (ho : ((decide (0x104 ≤ r.opc) && decide (r.opc ≤ 0x106)) || r.opc == 0x1C4) = true) (hne : us ≠ []) :
    s.doUnits i r us = s.sendAtoms i r us := by
  unfold State.doUnits
  rw [if_neg (by simpa using hne), hr, if_neg Bool.false_ne_true, if_pos ho]

/-- An atomic whose lines all find their entries sends its units and has gone on past itself. -/
theorem State.runUnits_atoms {s q : State} {i : Ins} {t : Team} {enc ilv n : Nat} {us : List AUnit} (hq : s.Apart q)
    (hop : i.op = 0x104 ∨ i.op = 0x105 ∨ i.op = 0x106 ∨ i.op = 0x1C4) (hne : us ≠ []) (hroom : Roomy (q.useFresh.issued i t) us) :
    let s0 := q.useFresh.issued i t
    let u := q.runUnits i t enc ilv n us
    ∃ as, u.atoms = s0.atoms ++ as ∧ as.map Atom.u = us ∧ (∀ a ∈ as, a.team = s.cur ∧ a.opc = i.op ∧ a.f = i.f ∧ a.n = n ∧ a.done = none)
      ∧ u.mem = q.mem ∧ u.team s.cur = { t.advance i with rest := none, rejects := 0 } := by
  intro s0 u
  have hteam : s0.team s.cur = t.advance i := by
    rw [← hq.cur]
    exact State.issued_team ..
  obtain ⟨hretry, hlines⟩ := hroom
  rw [show (q.useFresh.issued i t).cur = s.cur from hq.cur] at hretry hlines
  have hst : (i.restOf q t enc ilv n us).stores = false := by
    rcases hop with h | h | h | h <;> simp [Ins.restOf, Rest.stores, h]
  have hu : u = s0.runRest s.cur (i.restOf q t enc ilv n us) := by
    rw [← hq.cur]
    rfl
  have hdo : s0.doUnits s.cur { i.restOf q t enc ilv n us with inside := us, out := [] } us
      = s0.sendAtoms s.cur { i.restOf q t enc ilv n us with inside := us, out := [] } us := by
    refine State.doUnits_atoms _ _ hst ?_ hne
    rcases hop with h | h | h | h <;> simp [Ins.restOf, h]
  obtain ⟨as, h1, h2, h3, hm, hts, hh⟩ := s0.sendAtoms_spec s.cur { i.restOf q t enc ilv n us with inside := us, out := [] } us
  rw [hu, s0.runRest_whole s.cur _ rfl hretry hlines (fun h => absurd (hst.symm.trans h) nofun)]
  dsimp only
  rw [if_neg (by rw [hst]; exact Bool.false_ne_true), show (i.restOf q t enc ilv n us).out = us from rfl, hdo, if_pos (congrArg List.length hh)]
  refine ⟨as, ?_, h2, h3, ?_, ?_⟩
  · rw [State.entered_atoms]
    exact h1
  · rw [State.entered_mem]
    exact hm
  · rw [State.entered_team, State.team_setTeam_same, State.team, hts]
    rw [← hteam]
    rfl

/-- The end of the atomics at core memory. -/
theorem State.amoEnd_core {s A : State} {i : Ins} {ls : List Nat} {dsts : List Dst} {bad : List (Acc × Nat)} (hc : A.cur = s.cur) :
    let t := s.team s.cur
    let u := if i.op = 0x105 then A.finish i (t.addPend (eccPend i t bad)) else A.landCore i t ls 2 dsts bad
    (u.team s.cur).pc = t.pc + BitVec.ofNat 64 (4 * (i.len + 1)) ∧ u.mem = A.mem
      ∧ (i.op ≠ 0x105 → Awaits i (u.team s.cur) ls ∧ ∃ r, u.replies.getLast? = some r ∧ r.team = s.cur ∧ r.set = 2)
      ∧ (i.op = 0x105 → t.sameRegs (u.team s.cur) []) := by
  intro t u
  by_cases h : i.op = 0x105
  · obtain ⟨w, hw⟩ := A.finish_spec i (t.addPend (eccPend i t bad))
    obtain ⟨p, m, hp⟩ := t.addPend_spec (eccPend i t bad)
    have hu : u = _ := (if_pos h).trans hw
    rw [hu, hc, hp, State.team_setTeam_same]
    exact ⟨rfl, rfl, fun hn => absurd h hn, fun _ => Team.sameRegs_of_maps rfl rfl rfl rfl _⟩
  · have hu : u = A.landCore i t ls 2 dsts bad := if_neg h
    have ht : (A.landCore i t ls 2 dsts bad).team s.cur = (t.markAll (ls.flatMap i.dstRefs)).advance i := by
      rw [← hc]
      exact A.issued_team i _
    rw [hu, ht]
    exact ⟨congrArg (· + _) (Team.markAll_pc ..), rfl, fun _ => ⟨t.awaits_markAll i ls, _, List.getLast?_concat .., hc, rfl⟩, fun hn => absurd hn h⟩

/-- Settles O29. -/
theorem atomicsComplete : Obligations.AtomicsComplete := by
  unfold Obligations.AtomicsComplete
  intro x i f s ls hx h hne t n q us s0 hset
  have hf : i.f = f := by obtain ⟨-, rfl⟩ | ⟨-, rfl⟩ | ⟨-, rfl⟩ := hx <;> rfl
  have hop : i.op = 0x104 ∨ i.op = 0x105 ∨ i.op = 0x106 ∨ i.op = 0x1C4 := by
    obtain ⟨-, rfl⟩ | ⟨-, rfl⟩ | ⟨-, rfl⟩ := hx <;> simp
  have hexec : exec x s = runAmo i s := by obtain ⟨rfl, rfl⟩ | ⟨rfl, rfl⟩ | ⟨rfl, rfl⟩ := hx <;> rfl
  subst hf
  rw [hexec, runAmo_go h hne hset]
  refine ⟨fun hb => ⟨_, rfl, ?_⟩, fun hb hus hroom => ?_⟩
  · rw [if_neg (by omega)]
    have hplan : q = _ := s.plan_core t ls _ hb
    have hplaces : ∀ a ∈ q.2.1.accs, ∃ k, a.place = .core k := fun a ha => by
      rw [hplan] at ha
      obtain h0 | ⟨l, -, k, hk, -⟩ := s.planCore_accs i t _ ls Plan.empty a ha
      · exact absurd h0 List.not_mem_nil
      · exact ⟨k, hk⟩
    have hq1 : q.1 = s := by rw [hplan]
    obtain ⟨hmem, hcur⟩ := i.amoLanes_core t n q.1 q.2.1.accs hplaces
    obtain ⟨h1, h2, h3, h4⟩ := State.amoEnd_core (i := i) (ls := ls) (dsts := (i.amoLanes t n q.1 q.2.1.accs).2.1)
      (bad := (i.amoLanes t n q.1 q.2.1.accs).2.2) (hcur.trans (congrArg State.cur hq1))
    exact ⟨h1, h2.trans (hmem.trans (congrArg State.mem hq1)), h3, h4⟩
  · rw [if_pos hb]
    obtain ⟨as, h1, h2, h3, hm, ht⟩ := State.runUnits_atoms (enc := q.2.2) (ilv := 0) (n := n) (s.plan_apart i t ls _) hop hus hroom
    have hpc : (if i.op = 0x105 then t else t.markAll (ls.flatMap i.dstRefs)).pc = t.pc := by split <;> simp
    refine ⟨_, as, rfl, ?_, h1, h2, fun a ha => ?_, hm, fun h105 => ?_, fun h105 => ?_⟩
    · exact (congrArg Team.pc ht).trans (congrArg (· + _) hpc)
    · obtain ⟨k1, k2, k3, -, k5⟩ := h3 a ha
      exact ⟨k1, k2, k3, k5⟩
    · rw [if_neg h105] at ht
      rw [if_neg h105, ht]
      exact t.awaits_markAll i ls
    · rw [if_pos h105] at ht
      rw [if_pos h105, ht]
      exact Team.sameRegs_of_maps rfl rfl rfl rfl _

/-- Settles O30: the place is good, so the old bytes are read; a new value is written unless a compare fails. -/
theorem atomicAtCoreMemory : Obligations.AtomicAtCoreMemory := by
  unfold Obligations.AtomicAtCoreMemory
  intro s k n a w hgood old r
  have hr : r = if a.op = 8 ∧ old ≠ a.x.toNat then (s, AmoEnd.old old)
      else (s.putCore k (natLe n (amoNew a.op a.f.ty old a.x.toNat a.y.toNat)), AmoEnd.old old) := by
    show s.amoAt (.core k) n a w = _
    unfold State.amoAt
    exact if_neg (by rw [hgood]; exact not_not.2 rfl)
  rw [hr]
  refine ⟨by split <;> rfl, fun h => by rw [if_pos h], fun h => ?_⟩
  rw [if_neg h]
  have hback := readMem_writeMem s.cm k (natLe n (amoNew a.op a.f.ty old a.x.toNat a.y.toNat))
  rw [natLe_length] at hback
  exact hback

/-! FENCE and PREF. -/

theorem execFence_go {f : Form} {s : State} (h : Clear (insW 0x107 f) (s.team s.cur) [0]) :
    let i := insW 0x107 f
    let t := s.team s.cur
    let p := f.a.toNat % 32
    let q := f.b.toNat % 32
    let m := s.maintain t.core t.vf p q f.mod.toNat
    execFence f s = .next (if p = 0 ∨ q = 0 then s.finish i t else if s.fenceWaits s.cur f then s else if m.fenceWaits s.cur f then m else m.finish i t) := by
  exact runUni_go _ h

/-- The maintenance of a fence, case by case. -/
theorem State.maintain_eq (s : State) (core vf p q scope : Nat) : s.maintain core vf p q scope =
    if 1 ≤ scope then
      (if nbit q 0 then (if nbit p 1 then s.flushNc core vf else s).dropNc core vf else (if nbit p 1 then s.flushNc core vf else s)).syncLt core
    else s := by
  unfold State.maintain
  by_cases h : 1 ≤ scope <;> simp [h]

theorem State.engineWrite_cached (s : State) (d : Nat) (sys : Bool) (a : Nat) : s.Cached (s.engineWrite d sys a) := by
  exact ((s.setL2_cached ..).trans (State.touchTag_cached ..)).trans (State.setLt_cached ..)

theorem State.touchEngine_cached (s : State) (die : Nat) (t : Tr) (n : Nat) (wr : Bool) : s.Cached (s.touchEngine die t n wr) := by
  unfold State.touchEngine
  dsimp only
  have hs := (s.touchIf_apart t.sys t.addr).cached
  split
  · exact hs
  · refine hs.trans (.foldl _ (fun s e => ?_) _ _)
    split
    · exact .refl s
    · split
      · split
        · exact s.engineWrite_cached ..
        · exact s.askGrain_cached ..
      · split
        · exact s.askGrain_cached ..
        · exact s.touchTag_cached ..

/-- PREF completes past itself, whatever it finds; only the caches and what is under way differ. -/
theorem execPref_finish (f : Form) (s : State) :
    ∃ v : State, execPref f s = .next (v.finish (insW 0x108 f) (s.team s.cur)) ∧ v.cur = s.cur ∧ v.cm = s.cm := by
  unfold execPref
  dsimp only
  split
  · exact ⟨s, rfl, rfl, rfl⟩
  · refine ⟨_, rfl, ?_⟩
    generalize List.filter _ _ = keyed
    generalize Rest.inside _ = go
    have hq : s.Apart (s.plan (insW 0x108 f) (s.team s.cur) keyed
      { rd := true, wr := false, width := fun _ => some 1, cls := fun _ => true, both := false }).1 := s.plan_apart ..
    generalize (s.plan _ _ keyed _).1 = q at hq ⊢
    generalize hg : List.foldl _ q go = s1
    have hs1 : s.Cached s1 := by
      subst hg
      refine hq.cached.trans (.foldl _ (fun s u => ?_) _ _)
      split
      · exact s.coreRead_cached ..
      · exact s.touchEngine_cached ..
    split <;> exact ⟨hs1.cur, hs1.cm⟩

/-- Settles O31. -/
theorem fencesAndPrefetches : Obligations.FencesAndPrefetches := by
  unfold Obligations.FencesAndPrefetches
  refine ⟨fun f s h => ?_, fun f s => ?_⟩
  · intro i t p q none_ u
    have hgo : exec (.fence f) s = _ := execFence_go h
    rw [State.maintain_eq] at hgo
    rw [hgo]
    refine ⟨fun hn => by rw [if_pos hn], fun hn hp => ?_, fun hn hw => by rw [if_neg hn, if_pos hw], fun hn hw hu => ?_, fun hn hw hu => ?_⟩
    · have hw : s.fenceWaits s.cur f = true := by
        obtain ⟨hp0, hq0⟩ := not_or.1 hn
        unfold State.fenceWaits
        dsimp only
        rw [show State.pending _ _ _ _ = true from hp, Bool.true_or, Bool.and_true]
        simpa [p, q, none_] using hn
      rw [if_neg hn, if_pos hw]
    · rw [if_neg hn, if_neg (by rw [hw]; exact Bool.false_ne_true), if_pos hu]
    · rw [if_neg hn, if_neg (by rw [hw]; exact Bool.false_ne_true), if_neg (by rw [show State.fenceWaits _ _ _ = false from hu]; exact Bool.false_ne_true)]
  · have hfin : ∀ v : State, v.cur = s.cur → v.cm = s.cm →
        ((v.finish (insW 0x108 f) (s.team s.cur)).team s.cur).pc = (s.team s.cur).pc + BitVec.ofNat 64 (4 * ((insW 0x108 f).len + 1))
          ∧ (s.team s.cur).sameRegs ((v.finish (insW 0x108 f) (s.team s.cur)).team s.cur) [] ∧ (v.finish (insW 0x108 f) (s.team s.cur)).cm = s.cm := fun v hc hcm => by
      obtain ⟨hpc, hregs, -⟩ := v.finish_frame (insW 0x108 f) (s.team s.cur)
      rw [hc] at hpc hregs
      exact ⟨hpc, hregs, (State.finish_cm rfl).trans hcm⟩
    obtain ⟨v, hv, hc, hcm⟩ := execPref_finish f s
    exact ⟨_, hv, hfin v hc hcm⟩

end Sys2Proof.Machine
end

section
/-!
Table, matrix and engine instructions (11, 12, 15, 17), and what the register cache changes of a team (05 R104–R107).
-/
namespace Sys2Proof.Machine

/-! Lines of the register cache. -/

/-- Only the caches, memories and what is held differ, and of each team its write-back buffer and its marks of bad lanes. -/
def State.Lined (s u : State) : Prop :=
  u.verdicts = s.verdicts ∧ u.cur = s.cur ∧ u.replies = s.replies ∧ u.blocks = s.blocks
    ∧ ∀ i, ∃ x y, u.team i = { s.team i with unsaved := x, vBad := y }

theorem State.Lined.refl (s : State) : s.Lined s := ⟨rfl, rfl, rfl, rfl, fun _ => ⟨_, _, rfl⟩⟩

theorem State.Lined.trans {s t u : State} (h : s.Lined t) (k : t.Lined u) : s.Lined u := by
  obtain ⟨hv, hc, hr, hb, ht⟩ := h
  obtain ⟨kv, kc, kr, kb, kt⟩ := k
  refine ⟨kv.trans hv, kc.trans hc, kr.trans hr, kb.trans hb, fun i => ?_⟩
  obtain ⟨x, y, e⟩ := ht i
  obtain ⟨x', y', e'⟩ := kt i
  exact ⟨x', y', by rw [e', e]⟩

theorem State.Lined.foldl {α : Type} (g : State → α → State) (h : ∀ (s : State) (a : α), s.Lined (g s a)) (l : List α) (s : State) : s.Lined (l.foldl g s) := by
  induction l generalizing s with
  | nil => exact .refl s
  | cons a r ih => exact (h s a).trans (ih _)

theorem State.Cached.lined {s t : State} (h : s.Cached t) : s.Lined t :=
  ⟨State.Apart.verdicts (s := { s with coh := t.coh }) h, h.cur, h.replies, State.Apart.blocks (s := { s with coh := t.coh }) h,
    fun i => ⟨_, _, h.team_eq i⟩⟩

theorem State.setRlines_lined (s : State) (k : Nat) (l : List (Nat × Nat × Bool)) : s.Lined (s.setRlines k l) := ⟨rfl, rfl, rfl, rfl, fun _ => ⟨_, _, rfl⟩⟩

/-- One team may change these two of its fields. -/
theorem State.setTeam_lined {s : State} {i : Nat} {t : Team} (h : ∃ x y, t = { s.team i with unsaved := x, vBad := y }) : s.Lined (s.setTeam i t) := by
  refine ⟨rfl, rfl, rfl, rfl, fun j => ?_⟩
  by_cases hj : j = i
  · subst hj
    rw [State.team_setTeam_same]
    exact h
  · rw [State.team_setTeam_ne _ _ hj]
    exact ⟨_, _, rfl⟩

theorem State.ctxTag_cached (s : State) (core f line : Nat) : s.Cached (s.ctxTag core f line) := by
  unfold State.ctxTag
  split
  · exact .refl s
  · exact (s.l1Room_cached ..).trans (State.setCtxTags_cached ..)

theorem State.ctxLines_cached (s : State) (core f va n : Nat) (wr : Bool) : s.Cached (s.ctxLines core f va n wr) := by
  unfold State.ctxLines
  refine (State.Cached.foldl _ (fun s e => s.ctxTag_cached ..) _ s).trans (.foldl _ (fun s e => ?_) _ _)
  have hw := s.walk_apart f e.1 false false
  dsimp only
  split
  · exact hw.cached.trans (State.touchEngine_cached ..)
  · exact hw.cached

theorem State.writeLine_lined (s : State) (i n w : Nat) : s.Lined (s.writeLine i n w) := by
  unfold State.writeLine
  dsimp only
  refine State.Lined.trans ?_ (State.setTeam_lined ⟨_, _, rfl⟩)
  exact ((s.ctxLines_cached ..).trans ((State.ctxPut_apart ..).trans (State.ctxPut_apart ..)).cached).lined

theorem State.leaveLine_lined (s : State) (e : Nat × Nat × Bool) : s.Lined (s.leaveLine e) := by
  unfold State.leaveLine
  dsimp only
  split
  · exact s.writeLine_lined ..
  · split
    · exact .refl s
    · exact State.setTeam_lined ⟨_, _, rfl⟩

theorem State.rvictim_lined (s : State) (k : Nat) (locked : Nat × Nat × Bool → Bool) : s.Lined (s.rvictim k locked) := by
  unfold State.rvictim
  dsimp only
  split
  · exact (s.leaveLine_lined _).trans (State.setRlines_lined ..)
  · exact .refl s

theorem State.placeLine_lined (s : State) (i n w : Nat) (wr : Bool) (ns : List Nat) : s.Lined (s.placeLine i n w wr ns id) := by
  unfold State.placeLine
  dsimp only
  split
  · exact s.setRlines_lined ..
  · refine State.Lined.trans ?_ (State.setRlines_lined ..)
    split
    · exact s.rvictim_lined ..
    · exact .refl s

theorem State.dirtied_lined (s : State) (i : Nat) (x : Instr) (t0 : Team) : s.Lined (s.dirtied i x t0) := by
  unfold State.dirtied
  dsimp only
  split
  · exact .refl s
  · split
    · exact .refl s
    · exact .foldl _ (fun s e => s.placeLine_lined ..) _ s

/-! Batches. -/

/-- The batch that a table instruction sends. -/
def Ins.batchOf (i : Ins) (s : State) (ls : List Nat) : Batch :=
  let t := s.team s.cur
  { team := s.cur, vf := t.vf, die := dieOf t.core, core := t.core, op := i.op, len := i.len, f := i.f,
    dir := s.tdir t, slot := i.slot, arrive := s.clock.toNat, lanes := ls.map (i.batchLane t (s.tableWidth i t)) }

theorem State.team_withBatches (s : State) (l : List Batch) (i : Nat) : ({ s with batches := l } : State).team i = s.team i := rfl

theorem runTable_go {i : Ins} {s : State} {ls : List Nat} (h : Clear i (s.team s.cur) ls) (hne : ls ≠ []) :
    let t := s.team s.cur
    let q := s.planTable i t ls
    q.2.fails = [] → q.2.pages = [] → q.1.tableWatch i t ls = none → q.1.mayEnter t.core s.cur = true → q.1.spireRoom (q.1.spireOf i t) = true →
    runTable i s = .next { (q.1.entered s.cur).setTeam s.cur { ((q.1.entered s.cur).team s.cur).markAll (ls.flatMap i.dstRefs) with verdict := true } with
      batches := (q.1.entered s.cur).batches ++ [i.batchOf s ls] } := by
  intro t q hf hp hw hm hr
  rw [runTable, runIns_go _ h, if_neg (by simpa using hne)]
  refine congrArg Host.Outcome.next ?_
  dsimp only
  rw [hf, hp, hw, hm, hr]
  rfl

theorem State.planTable_apart (s : State) (i : Ins) (t : Team) (ls : List Nat) : s.Apart (s.planTable i t ls).1 := by
  have hr := s.record_apart t.vf (s.tdir t) i.slot
  unfold State.planTable
  dsimp only
  split <;> exact hr

theorem State.entered_batches (s : State) (i : Nat) : (s.entered i).batches = s.batches := by
  obtain h | ⟨rs, h⟩ := s.entered_spec i <;> rw [h]
  rfl

theorem exec_batched {x : Instr} {i : Ins} (s : State) (h : batched x = some i) : exec x s = runTable i s := by
  unfold batched at h
  split at h <;> cases h <;> rfl

/-- What follows an instruction of a team that was not stepping, has no skid and had no bad register lanes: little of the team changes. -/
theorem State.completed_quiet {s : State} {i : Nat} {x : Instr} {t0 : Team} (hsk : (s.team i).skid = none) (hst : t0.stepping = false)
    (hv : t0.vBad = []) :
    (s.completed i x t0).verdicts = s.verdicts
      ∧ ∃ a b c d, (s.completed i x t0).team i = { s.team i with unsaved := a, vBad := b, age := c, noWatch := d } := by
  obtain ⟨hver, -, -, -, hteam⟩ := (s.setTeam i { s.team i with age := max s.clock.toNat (s.team i).age }).dirtied_lined i x t0
  obtain ⟨a, b, ht⟩ := hteam i
  rw [State.team_setTeam_same] at ht
  unfold State.completed
  dsimp only
  generalize hs0 : State.dirtied _ i x t0 = s0 at hver ht
  split
  · exact ⟨hver, a, b, _, _, ht⟩
  · have hlog : s0.logUnread i x t0 = s0 := by
      unfold State.logUnread Ins.unread
      cases insOf x with
      | none => rfl
      | some y =>
        rw [hv]
        rfl
    rw [hlog, hst, Bool.false_and, if_neg Bool.false_ne_true]
    have hskid : ∀ u : State, (u.team i).skid = none → u.countSkid i = u := fun u hu => by
      unfold State.countSkid
      dsimp only
      rw [hu]
    rw [hskid]
    · exact ⟨hver, a, b, _, _, by rw [State.team_setTeam_same, ht]⟩
    · rw [State.team_setTeam_same, ht]
      exact hsk

/-- An accepted verdict takes its instruction past itself. -/
theorem execSpireVerdict_accepted {s : State} {n : Nat} {v : Verdict} (h : s.verdicts[n]? = some v) (ho : v.out = .accepted)
    (hsk : (s.team v.batch.team).skid = none) (hst : (s.team v.batch.team).stepping = false) (hv : (s.team v.batch.team).vBad = []) :
    ∃ u, execSpireVerdict n s = .next u ∧ (u.team v.batch.team).pc = (s.team v.batch.team).pc + BitVec.ofNat 64 (4 * (v.batch.len + 1))
      ∧ (u.team v.batch.team).verdict = false ∧ u.verdicts = dropAt s.verdicts n ∧ u.cur = s.cur := by
  unfold execSpireVerdict
  rw [h]
  refine ⟨_, rfl, ?_⟩
  dsimp only
  have hact : State.verdictActs { s with verdicts := dropAt s.verdicts n, cur := v.batch.team } v
      = ({ s with verdicts := dropAt s.verdicts n, cur := v.batch.team } : State).setTeam v.batch.team
          ({ s.team v.batch.team with verdict := false }.advance v.batch.ins) := by
    unfold State.verdictActs
    rw [ho]
    rfl
  rw [hact]
  obtain ⟨hver, a, b, c, d, ht⟩ := State.completed_quiet (x := v.batch.instr) (t0 := s.team v.batch.team)
    (s := ({ s with verdicts := dropAt s.verdicts n, cur := v.batch.team } : State).setTeam v.batch.team
          ({ s.team v.batch.team with verdict := false }.advance v.batch.ins)) (i := v.batch.team)
    (by rw [State.team_setTeam_same]; exact hsk) hst hv
  rw [State.team_setTeam_same] at ht
  generalize State.completed _ _ _ _ = u at hver ht ⊢
  have hu : ∀ c, ({ u with cur := c } : State).team v.batch.team = u.team v.batch.team := fun _ => rfl
  rw [hu, ht]
  exact ⟨rfl, rfl, hver, rfl⟩

/-- A team with the empty bits of one whose destinations were marked awaits them. -/
theorem Team.awaits_of_marked {t u : Team} {i : Ins} {ls : List Nat} (h1 : u.vE = (t.markAll (ls.flatMap i.dstRefs)).vE)
    (h2 : u.sE = (t.markAll (ls.flatMap i.dstRefs)).sE) (h3 : u.pE = (t.markAll (ls.flatMap i.dstRefs)).pE)
    (h4 : u.qE = (t.markAll (ls.flatMap i.dstRefs)).qE) : Awaits i u ls := by
  intro l hl r hr hp hq
  have hm := t.empty_markAll _ r (List.mem_flatMap.2 ⟨l, hl, hr⟩) hp hq
  rw [← hm]
  cases r <;> simp only [Team.empty, h1, h2, h3, h4]

/-- Settles O32. -/
theorem tableInstructions : Obligations.TableInstructions := by
  unfold Obligations.TableInstructions
  refine ⟨fun x i s ls hx h hne => ?_, fun s n v h ho => ?_, fun f s ls h hne => ?_⟩
  · intro t q hf hp hw hm hr
    have hq : s.Apart q.1 := s.planTable_apart i t ls
    refine ⟨_, i.batchOf s ls, (exec_batched s hx).trans (runTable_go h hne hf hp hw hm hr), ?_, rfl, rfl, rfl, rfl, ?_⟩
    · exact congrArg (· ++ [i.batchOf s ls]) (State.entered_batches q.1 s.cur)
    · have ht : (q.1.entered s.cur).team s.cur = { t with rejects := 0 } := by rw [State.entered_team, hq.team_eq]
      have hu : ∀ u : State, u.team s.cur = { ((q.1.entered s.cur).team s.cur).markAll (ls.flatMap i.dstRefs) with verdict := true } →
          (u.team s.cur).verdict = true ∧ (u.team s.cur).pc = t.pc ∧ Awaits i (u.team s.cur) ls := fun u hu => by
        rw [hu, ht]
        exact ⟨rfl, Team.markAll_pc .., Team.awaits_of_marked (t := { t with rejects := 0 }) rfl rfl rfl rfl⟩
      refine hu _ ?_
      rw [State.team_withBatches, State.team_setTeam_same]
  · intro t hsk hst hv
    exact execSpireVerdict_accepted h ho hsk hst hv
  · intro i t q hf hp
    refine Eq.trans (b := execTclose f s) rfl ?_
    rw [execTclose, runIns_go _ h, if_neg (by simpa using hne)]
    refine congrArg Host.Outcome.next ?_
    dsimp only
    rw [show (s.planTable (insW 0x148 f) (s.team s.cur) ls).2.fails = [] from hf, show (s.planTable (insW 0x148 f) (s.team s.cur) ls).2.pages = [] from hp]
    rfl

/-! Matrices. -/

theorem State.pipeCheck_apart (s : State) (vf l key off : Nat) (rs : List (Nat × Nat)) (p : Plan) : s.Apart (s.pipeCheck vf l key off rs p).1 := by
  unfold State.pipeCheck
  refine .foldl_fst _ (fun a e => ?_) _ (s, p)
  have hw := a.1.walk_apart vf e.1 true false
  dsimp only
  split <;> exact hw

theorem State.operands_apart (s : State) (t : Team) (x : Fmt4) : s.Apart (s.operands t x).1 := by
  have one : ∀ (s : State) (slot : Nat) (blk : Bool), s.Apart (match (s.record t.vf (s.tdir t) slot).2 with
      | .ok r => if blk then (s.record t.vf (s.tdir t) slot).1.scaleRecord t r else ((s.record t.vf (s.tdir t) slot).1, .bad)
      | _ => ((s.record t.vf (s.tdir t) slot).1, .bad)).1 := fun s slot blk => by
    have hr := s.record_apart t.vf (s.tdir t) slot
    split
    · split
      · exact hr.trans (State.scaleRecord_apart ..)
      · exact hr
    · exact hr
  exact (one s (fld x.w1 5 0) (x.w0.getLsbD 4)).trans (one _ (fld x.w2 5 0) (x.w0.getLsbD 20))

theorem State.planMma_apart (s : State) (i : Ins) (t : Team) (ls : List Nat) (x : Fmt4) : s.Apart (s.planMma i t ls x).1 := by
  have ho := s.operands_apart t x
  unfold State.planMma
  dsimp only
  split
  · exact ho
  · split
    · split
      · exact ho
      · refine ho.trans ?_
        have step : ∀ (l k o : Nat) (rs : List (Nat × Nat)) (q : State × Plan), q.1.Apart (q.1.pipeCheck t.vf l k o rs q.2).1 := fun l k o rs q =>
          q.1.pipeCheck_apart ..
        split
        · exact .foldl_fst _ (fun q l => step ..) _ ((s.operands t x).1, _)
        · exact (State.Apart.foldl_fst _ (fun q l => step ..) _ ((s.operands t x).1, _)).trans (.foldl_fst _ (fun q c => step ..) _ (_, Plan.empty))
    · exact ho

/-- RPROG of an MMA under way says so, whatever word, k-step and PC it holds. -/
theorem rprogWord_pend {w k m : Nat} (hw : w < 32) (hk : k < 1024) : (rprogWord true w k m).getLsbD 63 = true := by
  have hm : m % 2 ^ 32 < 2 ^ 32 := Nat.mod_lt _ (by decide)
  unfold rprogWord
  simp only [bnat, if_true]
  rw [BitVec.getLsbD_ofNat, Nat.testBit_eq_decide_div_mod_eq]
  simp
  omega

/-- The job that an MMA of team `t` starts, by what its operands are in `q`. -/
def mmaJobOf (q : State) (f : Form) (t : Team) (ls : List Nat) : MmaJob :=
  let ws := (upTo 4).map (fun j => BitVec.ofNat 64 (t.sr (f.b.toNat + j)))
  let o := q.operands t (Fmt4.of ws)
  { f := f, pc := t.pc, lanes := ls, keys := ls.map (fun l => (l, (insW 0x160 f).rowKey t l)), fmt := ws,
    ra := o.2.1.get.getD (recOf 0), rb := o.2.2.get.getD (recOf 0), sa := o.2.1.sc.dense, sb := o.2.2.sc.dense,
    stopped := false, trapped := false, poison := [], step := 0, acc := [] }

theorem execMma_go {f : Form} {s : State} {ls : List Nat} (h : Clear (insW 0x160 f) (s.team s.cur) ls) (hne : ls ≠ [])
    (hmma : (s.team s.cur).mma = none) :
    let i := insW 0x160 f
    let t := s.team s.cur
    let q := s.planMma i t ls (Fmt4.of ((upTo 4).map (fun j => BitVec.ofNat 64 (t.sr (f.b.toNat + j)))))
    (s.arrayOf t.partKey).length < 2 → q.2.fails = [] → q.2.pages = [] →
    execMma f s = .next ((q.1.issued i { t.markAll (ls.flatMap i.dstRefs) with
        mma := some (mmaJobOf q.1 f t ls), rprog := rprogWord true (ls.headD 0 / 32) 0 t.pc.toNat }).setArray t.partKey
          (q.1.arrayOf t.partKey ++ [s.cur])) := by
  intro i t q hroom hf hp
  rw [execMma, runIns_go _ h]
  refine congrArg Host.Outcome.next ?_
  dsimp only
  rw [if_neg (by simp [hmma]), if_neg (by simpa using hne), if_neg (Nat.not_le.2 hroom)]
  rw [State.causes_nil (p := (s.planMma _ _ ls _).2) hf hp, show (s.planMma _ _ ls _).2.pages = [] from hp]
  rfl

theorem runMflush_go {i : Ins} {s : State} (h : Clear i (s.team s.cur) [0]) (hmma : (s.team s.cur).mma = none) :
    runMflush i s = .next (s.produce i { s.team s.cur with ksteps := 0 } (i.dstRefs 0) [.s i.f.d.toNat (s.team s.cur).ksteps] 5) := by
  exact (runUni_go _ h).trans (congrArg Host.Outcome.next (if_neg (by simp [hmma])))

/-- Settles O33. -/
theorem matrixInstructions : Obligations.MatrixInstructions := by
  unfold Obligations.MatrixInstructions
  refine ⟨fun f s ls h hne hmma => ?_, fun f s h hmma => runMflush_go h hmma, fun f s h hmma => runMflush_go h hmma⟩
  intro i t q hroom hf hp
  have hq : s.Apart q.1 := s.planMma_apart ..
  refine ⟨_, mmaJobOf q.1 f t ls, execMma_go h hne hmma hroom hf hp, ?_⟩
  have hteam : ∀ T : Team, (q.1.issued i T).team s.cur = T.advance i := fun T => by
    rw [← hq.cur]
    exact State.issued_team ..
  have hword : ls.headD 0 / 32 < 32 := by
    have hhead : ls.headD 0 ∈ ls := by cases ls with
      | nil => exact absurd rfl hne
      | cons a r => exact List.mem_cons_self
    have := Ins.passLanes_lt h.2.1 _ hhead
    omega
  rw [State.team_setArray, hteam]
  exact ⟨rfl, rfl, rfl, rfl, rfl, rprogWord_pend hword (by decide), congrArg (· + _) (Team.markAll_pc ..),
    Team.awaits_of_marked (t := t) rfl rfl rfl rfl, State.arrayOf_setArray_same ..⟩

/-! Credits. -/

theorem State.issued_team_of {s : State} {c : Nat} {i : Ins} {t : Team} (h : s.cur = c) : (s.issued i t).team c = t.advance i := by
  rw [← h]
  exact s.issued_team i t

theorem State.entered_copies (s : State) (i : Nat) : (s.entered i).copies = s.copies := by
  obtain h | ⟨rs, h⟩ := s.entered_spec i <;> rw [h]
  rfl

theorem State.team_withCopies (s : State) (l : List CopyReq) (i : Nat) : ({ s with copies := l } : State).team i = s.team i := rfl

/-- The engine request of a QMC. -/
def qmcReq (s : State) (t : Team) (sa sb dst : Nat) (cores : List Nat) : CopyReq :=
  { id := s.copies.foldl (fun n c => max n (c.id + 1)) 0, src := none, dest := none, core := t.core, team := s.cur, block := t.block, vf := t.vf, dir := s.tdir t,
    words := [BitVec.ofNat 64 (sa % 2 ^ 32), BitVec.ofNat 64 (sb % 2 ^ 32)], qmc := true, dst := dst, todo := cores, waiting := [], bytes := 0 }

theorem execQmc_go {f : Form} {s : State} (h : Clear (insW 0x163 f) (s.team s.cur) [0]) :
    let i := insW 0x163 f
    let t := s.team s.cur
    let sa := t.sr f.a.toNat
    let sb := t.sr f.b.toNat
    let cores := (upTo 4).filter (fun c => nbit sb (32 + c) && c != t.core % 4)
    qmcCheck (s.block t.block).size sa sb = none →
    execQmc f s = .next (if cores.isEmpty then s.produce i t (i.dstRefs 0) [.s f.d.toNat 0] 4
      else if !s.mayEnter t.core s.cur then s.reject s.cur
      else { (s.entered s.cur).issued i (((s.entered s.cur).team s.cur).markAll (i.dstRefs 0)) with
        copies := (s.entered s.cur).copies ++ [{ qmcReq s t sa sb f.d.toNat cores with
          id := (s.entered s.cur).copies.foldl (fun n c => max n (c.id + 1)) 0, dir := s.tdir t }] }) := by
  intro i t sa sb cores hc
  rw [execQmc, runUni_go _ h]
  refine congrArg Host.Outcome.next ?_
  dsimp only
  rw [show qmcCheck (s.block (s.team s.cur).block).size _ _ = none from hc]
  rfl

theorem runCred_go {i : Ins} {s : State} {ls : List Nat} (h : Clear i (s.team s.cur) ls) :
    let t := s.team s.cur
    let d : CredDep := { team := s.cur, round := t.creds, a := i.f.a.toNat,
                         lanes := ls.map (fun l => (l, (upTo 34).map (fun j => BitVec.ofNat 32 (t.vr (i.f.a.toNat + j) l)))) }
    let s1 := s.setBlock t.block { s.block t.block with cred := (s.block t.block).cred ++ [d] }
    let t1 : Team := { t.markAll (ls.flatMap i.dstRefs) with creds := t.creds + 1 }
    runCred i s = .next (if ls.isEmpty then s1.finish i t1 else s1.issued i t1) := by
  exact runIns_go _ h

/-- Settles O34. -/
theorem creditInstructions : Obligations.CreditInstructions := by
  unfold Obligations.CreditInstructions
  refine ⟨fun f s h => ?_, fun x i s ls hx h => ?_⟩
  · intro i t sa sb cores hcheck
    have hgo : exec (.qmc f) s = _ := execQmc_go h hcheck
    refine ⟨fun hnil => hgo.trans (congrArg Host.Outcome.next (if_pos (List.isEmpty_iff.2 hnil))), fun hcores hm => ?_⟩
    refine ⟨_, _, hgo.trans (congrArg Host.Outcome.next ((if_neg (fun e => hcores (List.isEmpty_iff.1 e))).trans
        (if_neg (by simp [show s.mayEnter (s.team s.cur).core s.cur = true from hm])))),
      congrArg (· ++ [_]) (s.entered_copies s.cur), rfl, rfl, rfl, ?_⟩
    have hteam : ∀ T : Team, ((s.entered s.cur).issued i T).team s.cur = T.advance i := fun T =>
      State.issued_team_of (State.entered_cur ..)
    rw [State.team_withCopies, hteam, State.entered_team]
    have hmark : (insW 0x163 f).dstRefs 0 = [0].flatMap (insW 0x163 f).dstRefs := (List.append_nil _).symm
    rw [hmark]
    exact ⟨congrArg (· + _) (Team.markAll_pc ..), Team.awaits_of_marked (t := { t with rejects := 0 }) rfl rfl rfl rfl⟩
  · have hgo : exec x s = runCred i s := by obtain ⟨f, rfl, rfl⟩ | ⟨f, rfl, rfl⟩ := hx <;> rfl
    intro t d
    refine ⟨_, hgo.trans (runCred_go h), ?_⟩
    dsimp only
    split
    · obtain ⟨w, hw⟩ := (s.setBlock t.block { s.block t.block with cred := (s.block t.block).cred ++ [d] }).finish_spec i
        { t.markAll (ls.flatMap i.dstRefs) with creds := t.creds + 1 }
      rw [hw, State.setBlock_cur, State.team_setTeam_same]
      exact ⟨State.block_setBlock_same .., rfl, congrArg (· + _) (Team.markAll_pc ..), Team.awaits_of_marked (t := t) rfl rfl rfl rfl⟩
    · rw [State.issued_team_of (State.setBlock_cur ..)]
      exact ⟨State.block_setBlock_same .., rfl, congrArg (· + _) (Team.markAll_pc ..), Team.awaits_of_marked (t := t) rfl rfl rfl rfl⟩

/-! Copy lists. -/

theorem State.cpkSide_apart (s : State) (t : Team) (used : Bool) (slot : Nat) : s.Apart (s.cpkSide t used slot).1 := by
  have hr := s.record_apart t.vf (s.tdir t) slot
  unfold State.cpkSide
  split
  · exact .refl s
  · dsimp only
    split <;> exact hr

theorem State.cpkCheck_apart (s : State) (t : Team) (c : Copy) : s.Apart (s.cpkCheck t c).1 := by
  have hx := s.cpkSide_apart t c.srcTable c.fslot
  have hy := (s.cpkSide t c.srcTable c.fslot).1.cpkSide_apart t c.dstTable c.tslot
  unfold State.cpkCheck
  dsimp only
  split
  · split <;> exact hx.trans hy
  · exact hx

/-- One record of a scan. -/
def cpkNext (t : Team) (a : State × ((List (Option Rec × Option Rec)) ⊕ (Nat × CpkEnd))) (c : Copy) :
    State × ((List (Option Rec × Option Rec)) ⊕ (Nat × CpkEnd)) :=
  match a.2 with
  | .inr _ => a
  | .inl rs =>
    let q := a.1.cpkCheck t c
    (q.1, match q.2 with
          | .ok x y => .inl (rs ++ [(x, y)])
          | e => .inr (rs.length, e))

theorem State.cpkScan_eq (s : State) (t : Team) (cs : List Copy) : s.cpkScan t cs = cs.foldl (cpkNext t) (s, .inl []) := rfl

theorem cpkNext_apart (t : Team) (a : State × ((List (Option Rec × Option Rec)) ⊕ (Nat × CpkEnd))) (c : Copy) : a.1.Apart (cpkNext t a c).1 := by
  unfold cpkNext
  split
  · exact .refl _
  · exact State.cpkCheck_apart ..

/-- A scan that fails nowhere has one pair of records for each request. -/
theorem State.cpkScan_length {s : State} {t : Team} {cs : List Copy} {rs : List (Option Rec × Option Rec)} (h : (s.cpkScan t cs).2 = .inl rs) :
    rs.length = cs.length := by
  have gen : ∀ (cs : List Copy) (a : State × ((List (Option Rec × Option Rec)) ⊕ (Nat × CpkEnd))), (cs.foldl (cpkNext t) a).2 = .inl rs →
      ∃ ps, a.2 = .inl ps ∧ rs.length = ps.length + cs.length := fun cs => by
    induction cs with
    | nil => exact fun a h => ⟨rs, h, rfl⟩
    | cons c r ih =>
      intro a h
      obtain ⟨ps, hps, hlen⟩ := ih _ h
      unfold cpkNext at hps
      split at hps
      next e he => rw [he] at hps; cases hps
      next qs hqs =>
        dsimp only at hps
        split at hps <;> cases hps
        refine ⟨qs, hqs, ?_⟩
        rw [hlen, List.length_append, List.length_cons]
        simp only [List.length_cons, List.length_nil]
        omega
  rw [State.cpkScan_eq] at h
  obtain ⟨ps, hps, hlen⟩ := gen cs _ h
  cases hps
  simpa using hlen

/-- The requests of a list whose records were scanned. -/
def State.cpkReqs (s : State) (s1 : State) (t : Team) (recs : List (List W64)) (rs : List (Option Rec × Option Rec)) (n : Nat) : List CopyReq :=
  let id := s1.copies.foldl (fun m c => max m (c.id + 1)) 0
  ((recs.zip rs).zip (upTo n)).map (fun e =>
    let c := copyOf (leNat (wordsLe e.1.1))
    ({ id := id + e.2, core := t.core, team := s.cur, block := t.block, vf := t.vf, dir := s.tdir t, words := e.1.1,
       qmc := false, src := e.1.2.1, dest := e.1.2.2, dst := 0, todo := upTo c.nrows, waiting := [], bytes := 0 } : CopyReq))

/-- Requests start, their promise on its way to the destination. -/
def State.cpkStart (q : State) (i : Ins) (c : Nat) (reqs : List CopyReq) (core p : Nat) : State :=
  let s1 := q.entered c
  let s2 := reqs.foldl (fun s c => s.ownDests (dieOf core) c) { s1 with copies := s1.copies ++ reqs, promise := SMap.put s1.promise core p 0 }
  s2.produce i (s2.team c) (i.dstRefs 0) [.s i.f.d.toNat (BitVec.ofNat 64 p)] 5

/-- A clear CPK whose list and records pass starts its requests, its promise under way. -/
theorem execCpk_go {f : Form} {s : State} {rs : List (Option Rec × Option Rec)} {cs : List Copy} (h : Clear (insW 0x180 f) (s.team s.cur) [0]) :
    let i := insW 0x180 f
    let t := s.team s.cur
    let sa := t.sr f.a.toNat
    let n := i.opbRaw t true 0 % 2 ^ 32
    let k := (s.block t.block).at sa
    let recs := (upTo n).map (fun j => leWords 8 (readMem s.cm (k + 64 * j) 64))
    let q := s.cpkScan t cs
    recs.map (fun w => copyOf (leNat (wordsLe w))) = cs → cpkList (s.block t.block) sa n = none → s.placeOwned (.core k) (64 * n) = false → s.qmcMeets s.cur k (64 * n) false = false →
    (s.loadPlace (.core k) (64 * n)).2 = 0 →
    (cs.map Copy.bytes).sum ≤ 4194304 → q.2 = .inl rs → (s.copies.filter (fun c => c.core == t.core)).length + n ≤ 64 →
    q.1.mayEnter t.core s.cur = true →
    ∃ p, execCpk f s = .next (q.1.cpkStart i s.cur (s.cpkReqs (q.1.entered s.cur) t recs rs n) t.core p) := by
  intro i t sa n k recs q hcs hlist hown hqmc hgood hsum hq hroom hmay
  refine ⟨max s.clock.toNat (SMap.get (q.1.entered s.cur).promise t.core 0) + 32
    + ((cs.zip rs).map (fun e => (e.1.bytes + 127) / 128 + copyLat e.1 e.2.1)).sum, ?_⟩
  rw [execCpk, runUni_go _ h]
  refine congrArg Host.Outcome.next ?_
  dsimp only
  rw [show cpkList (s.block (s.team s.cur).block) _ _ = none from hlist]
  dsimp only
  rw [if_neg (by rw [show s.placeOwned _ _ = false from hown, show s.qmcMeets _ _ _ _ = false from hqmc]; exact Bool.false_ne_true),
    if_neg (not_not.2 hgood), show List.map _ (List.map _ _) = cs from hcs, if_neg (Nat.not_lt.2 hsum), show (s.cpkScan _ _).2 = .inl rs from hq]
  dsimp only
  rw [if_neg]
  · rfl
  · rw [Bool.or_eq_true, not_or]
    exact ⟨fun e => absurd (of_decide_eq_true e) (Nat.not_lt.2 hroom), by rw [show (s.cpkScan _ cs).1.mayEnter _ _ = true from hmay]; exact Bool.false_ne_true⟩

theorem State.destGrains_apart (s : State) (c : CopyReq) : s.Apart (s.destGrains c).1 := by
  unfold State.destGrains
  refine .foldl_fst _ (fun a r => ?_) _ (s, [])
  split
  · exact .refl _
  · refine .foldl_fst _ (fun a e => ?_) _ a
    have hw := a.1.walk_apart c.vf e.1 false true
    dsimp only
    split
    · split
      · exact hw
      · refine hw.trans (.foldl_fst _ (fun a x => ?_) _ (_, a.2))
        split
        · split <;> exact .refl _
        · exact .refl _
    · exact hw

theorem State.ownDests_cached (s : State) (die : Nat) (c : CopyReq) : s.Cached (s.ownDests die c) := by
  unfold State.ownDests
  refine (s.destGrains_apart c).cached.trans (.foldl _ (fun s x => ?_) _ _)
  dsimp only
  split
  · exact .refl s
  · exact s.sendMsg_cached _

theorem State.produce_team_of {s : State} {c : Nat} {i : Ins} {t : Team} {rs : List Ref} {ds : List Dst} {k : Nat} (h : s.cur = c) :
    (s.produce i t rs ds k).team c = (t.markAll rs).advance i := State.issued_team_of h

theorem State.cpkStart_spec (q : State) {i : Ins} {c : Nat} (hc : q.cur = c) (reqs : List CopyReq) (core p : Nat) :
    (q.cpkStart i c reqs core p).copies = q.copies ++ reqs
      ∧ ((q.cpkStart i c reqs core p).team c).pc = (q.team c).pc + BitVec.ofNat 64 (4 * (i.len + 1))
      ∧ Awaits i ((q.cpkStart i c reqs core p).team c) [0] := by
  unfold State.cpkStart
  dsimp only
  have hcop : (q.entered c).copies = q.copies := State.entered_copies ..
  have hcur : (q.entered c).cur = c := (State.entered_cur ..).trans hc
  have hteam : (q.entered c).team c = { q.team c with rejects := 0 } := State.entered_team ..
  generalize q.entered c = s1 at hcop hcur hteam ⊢
  have hown : ({ s1 with copies := s1.copies ++ reqs, promise := SMap.put s1.promise core p 0 } : State).Cached
      (reqs.foldl (fun s c => s.ownDests (dieOf core) c) { s1 with copies := s1.copies ++ reqs, promise := SMap.put s1.promise core p 0 }) :=
    .foldl _ (fun s c => s.ownDests_cached ..) _ _
  generalize reqs.foldl (fun (s : State) (c : CopyReq) => s.ownDests (dieOf core) c) _ = s2 at hown ⊢
  have hcop2 : s2.copies = q.copies ++ reqs := (State.Apart.copies hown).trans (congrArg (· ++ reqs) hcop)
  have hteam2 : s2.team c = { q.team c with rejects := 0 } := (hown.team_eq _).trans hteam
  have hmark : i.dstRefs 0 = [0].flatMap i.dstRefs := (List.append_nil _).symm
  rw [State.produce_team_of (hown.cur.trans hcur), hteam2, hmark]
  exact ⟨hcop2, congrArg (· + _) (Team.markAll_pc ..), Team.awaits_of_marked (t := { q.team c with rejects := 0 }) rfl rfl rfl rfl⟩

/-- Settles O35. -/
theorem copyListsStart : Obligations.CopyListsStart := by
  unfold Obligations.CopyListsStart
  intro f s rs h i t sa n k cs q hlist hown hqmc hgood hsum hq hroom hmay
  obtain ⟨p, hgo⟩ := execCpk_go (cs := cs) h (List.map_map ..) hlist hown hqmc hgood hsum hq hroom hmay
  have hqa : s.Apart q.1 := .foldl_fst _ (fun a c => cpkNext_apart t a c) cs (s, .inl [])
  refine ⟨_, s.cpkReqs (q.1.entered s.cur) t ((upTo n).map (fun j => leWords 8 (readMem s.cm (k + 64 * j) 64))) rs n, hgo, ?_⟩
  have hrs : rs.length = n := (State.cpkScan_length hq).trans (by simp [cs, upTo])
  obtain ⟨hcop, hpc, haw⟩ := q.1.cpkStart_spec (i := i) hqa.cur (s.cpkReqs (q.1.entered s.cur) t
    ((upTo n).map (fun j => leWords 8 (readMem s.cm (k + 64 * j) 64))) rs n) t.core p
  rw [hqa.team_eq] at hpc
  refine ⟨hcop, by simp [State.cpkReqs, hrs, upTo], fun c hc => ?_, hpc, haw⟩
  obtain ⟨e, -, rfl⟩ := List.mem_map.1 hc
  exact ⟨rfl, rfl⟩

end Sys2Proof.Machine
end

section
/-!
Barrier objects, queues, the scheduler's instructions and LAUNCH (17 R282–R296; 19 R318–R323).
-/
namespace Sys2Proof.Machine

/-! Barrier objects. -/

theorem runBar_go {i : Ins} {s : State} {ls : List Nat} (k : Team → List Acc → State) (h : Clear i (s.team s.cur) ls) (hne : ls ≠ []) :
    let p := s.planBar i (s.team s.cur) ls
    p.fails = [] → (∀ a ∈ p.accs, s.placeOwned a.place 16 = false ∧ s.qmcMeets s.cur a.place.byte 16 true = false) →
    runBar i s k = .next (k (s.team s.cur) p.accs) := by
  intro p hf hfree
  have hwait : (p.accs.any (fun a => s.placeOwned a.place 16 || s.qmcMeets s.cur a.place.byte 16 true)) = false := by
    simp only [List.any_eq_false, Bool.or_eq_true, not_or, Bool.not_eq_true]
    exact hfree
  refine (runIns_go _ h).trans (congrArg Host.Outcome.next ?_)
  rw [if_neg (by simpa using hne)]
  dsimp only
  rw [show (s.planBar i (s.team s.cur) ls).fails = [] from hf, if_neg (by simp), if_neg (by rw [show List.any _ _ = false from hwait]; exact Bool.false_ne_true)]

/-- One object, free, that the instruction names. -/
theorem runBar_one {i : Ins} {s : State} {a : Acc} (g : Team → State → Acc → State) (u : Team → State) (h : Clear i (s.team s.cur) [0])
    (hf : (s.planBar i (s.team s.cur) [0]).fails = []) (ha : (s.planBar i (s.team s.cur) [0]).accs = [a])
    (ho : s.placeOwned a.place 16 = false) (hq : s.qmcMeets s.cur a.place.byte 16 true = false) :
    runBar i s (fun t as => as.foldl (g t) (u t)) = .next (g (s.team s.cur) (u (s.team s.cur)) a) := by
  rw [runBar_go _ h (List.cons_ne_nil _ _) hf (by rw [ha]; intro x hx; rw [List.mem_singleton.1 hx]; exact ⟨ho, hq⟩), ha]
  rfl

/-- An object at COUNT 0 with no error lets the wait complete. -/
theorem State.barDone_at_zero {s : State} (i : Ins) (t : Team) {a : Acc} (h : nfld (s.barWord a.place.byte 1) 23 16 = 0) :
    s.barDone i t a = (s.finish i t).syncLt t.core := by
  unfold State.barDone
  exact if_pos h

theorem execBwait_go {f : Form} {s : State} {a : Acc} (h : Clear (insW 0x183 f) (s.team s.cur) [0])
    (hf : (s.planBar (insW 0x183 f) (s.team s.cur) [0]).fails = []) (ha : (s.planBar (insW 0x183 f) (s.team s.cur) [0]).accs = [a])
    (ho : s.placeOwned a.place 16 = false) (hq : s.qmcMeets s.cur a.place.byte 16 true = false) :
    let t := s.team s.cur
    let k := a.place.byte
    execBwait f s = .next (if s.barWord k 0 % 2 ^ 32 = 0 then s.barDone (insW 0x183 f) t a
      else (if nbit (s.barWord k 1) t.teamid then s else s.setBar k (s.barWord k 0) (s.barWord k 1 + 2 ^ t.teamid)).parkHere .barrier
        (BitVec.ofNat 64 (clOffset (s.block t.block) k))) := by
  exact runBar_one (fun t s a => if s.barWord a.place.byte 0 % 2 ^ 32 = 0 then s.barDone (insW 0x183 f) t a
      else (if nbit (s.barWord a.place.byte 1) t.teamid then s
        else s.setBar a.place.byte (s.barWord a.place.byte 0) (s.barWord a.place.byte 1 + 2 ^ t.teamid)).parkHere .barrier
          (BitVec.ofNat 64 (clOffset (s.block t.block) a.place.byte))) (fun _ => s) h hf ha ho hq

theorem execWaitt_go {f : Form} {s : State} {a : Acc} (h : Clear (insW 0x184 f) (s.team s.cur) [0])
    (hf : (s.planBar (insW 0x184 f) (s.team s.cur) [0]).fails = []) (ha : (s.planBar (insW 0x184 f) (s.team s.cur) [0]).accs = [a])
    (ho : s.placeOwned a.place 16 = false) (hq : s.qmcMeets s.cur a.place.byte 16 true = false) :
    let t := s.team s.cur
    let i := insW 0x184 f
    let p := i.opd t true 0
    execWaitt f s = .next (if s.clock.toNat < p then s.parkHere .sleep (BitVec.ofNat 64 p)
      else if s.barWord a.place.byte 0 % 2 ^ 32 = 0 then s.barDone i t a
      else s.takeTrap s.cur { cls := cPROMISE, sub := 0, causes := [(0, cPROMISE)], pc := t.pc + BitVec.ofNat 64 (4 * (i.len + 1)), ipc := t.pc,
                              ilen := i.len, key := a.key + a.off, off := 0 }) := by
  exact runBar_one (fun t s a => if s.clock.toNat < (insW 0x184 f).opd t true 0 then s.parkHere .sleep (BitVec.ofNat 64 ((insW 0x184 f).opd t true 0))
      else if s.barWord a.place.byte 0 % 2 ^ 32 = 0 then s.barDone (insW 0x184 f) t a
      else s.takeTrap s.cur { cls := cPROMISE, sub := 0, causes := [(0, cPROMISE)], pc := t.pc + BitVec.ofNat 64 (4 * ((insW 0x184 f).len + 1)), ipc := t.pc,
                              ilen := (insW 0x184 f).len, key := a.key + a.off, off := 0 }) (fun _ => s) h hf ha ho hq

/-- Settles O36. -/
theorem barrierObjects : Obligations.BarrierObjects := by
  unfold Obligations.BarrierObjects
  intro f s t
  refine ⟨fun a h hf ha ho hq => ?_, fun ls h hne => ?_, fun a h hf ha ho hq => ⟨fun h0 he => ?_, fun h0 => ?_⟩, fun a h hf ha ho hq => ?_⟩
  · exact runBar_one (fun t s a => (s.setBar a.place.byte ((insW 0x181 f).opd t true 0 % 2 ^ 32 + 2 ^ 32 * ((insW 0x181 f).opd t true 0 % 2 ^ 32))
      (s.barWord a.place.byte 1 % 256 + (nfld (s.barWord a.place.byte 1) 63 48 + 1) % 65536 * 2 ^ 48)).barRelease t.block a.place.byte)
      (fun t => s.finish (insW 0x181 f) t) h hf ha ho hq
  · intro p hf hfree hb
    show execBarr f s = _
    rw [execBarr, runBar_go _ h hne hf hfree]
    refine congrArg Host.Outcome.next ?_
    exact if_neg (by rw [show s.busy s.cur = false from hb]; exact Bool.false_ne_true)
  · exact (execBwait_go h hf ha ho hq).trans (congrArg Host.Outcome.next ((if_pos h0).trans (State.barDone_at_zero _ _ he)))
  · refine ⟨_, (execBwait_go h hf ha ho hq).trans (congrArg Host.Outcome.next (if_neg h0)), ?_⟩
    have hkeep : ∀ b : Bool, (if b then s else s.setBar a.place.byte (s.barWord a.place.byte 0) (s.barWord a.place.byte 1 + 2 ^ (s.team s.cur).teamid)).cur = s.cur
        ∧ (if b then s else s.setBar a.place.byte (s.barWord a.place.byte 0) (s.barWord a.place.byte 1 + 2 ^ (s.team s.cur).teamid)).team s.cur = t := fun b => by
      cases b <;> exact ⟨rfl, rfl⟩
    obtain ⟨hc, ht⟩ := hkeep (nbit (s.barWord a.place.byte 1) (s.team s.cur).teamid)
    rw [State.parkHere, hc, State.park_team]
    refine ⟨rfl, rfl, ?_⟩
    dsimp only
    rw [ht]
  · exact ⟨fun hp => (execWaitt_go h hf ha ho hq).trans (congrArg Host.Outcome.next (if_pos hp)),
      fun hp h0 he => (execWaitt_go h hf ha ho hq).trans
        (congrArg Host.Outcome.next ((if_neg (Nat.not_lt.2 hp)).trans ((if_pos h0).trans (State.barDone_at_zero _ _ he))))⟩

/-! Queues. -/

/-- Settles O37. -/
theorem queueInstructions : Obligations.QueueInstructions := by
  unfold Obligations.QueueInstructions
  intro f s ls t
  refine ⟨fun h hne hq => ?_, fun h hne hq => ?_, fun h hq => ?_, fun h hne hst hb => ?_⟩
  · show execQpush f s = _
    rw [execQpush, runIns_go _ h]
    refine congrArg Host.Outcome.next ?_
    dsimp only
    rw [show s.badQueues (insW 0x185 f) (s.team s.cur) ls = [] from hq, if_neg (by simp), if_neg (by simpa using hne)]
  · show execQpop f s = _
    rw [execQpop, runIns_go _ h]
    refine congrArg Host.Outcome.next ?_
    dsimp only
    rw [show s.badQueues (insW 0x186 f) (s.team s.cur) ls = [] from hq, if_neg (by simpa using hne), if_neg (by simp)]
  · show execQstat f s = _
    rw [execQstat, runUni_go _ h]
    refine congrArg Host.Outcome.next ?_
    dsimp only
    rw [show s.badQueues (insW 0x188 f) (s.team s.cur) [0] = [] from hq, if_neg (by simp)]
  · show execRdx f s = _
    rw [execRdx, runIns_go _ h]
    refine congrArg Host.Outcome.next ?_
    dsimp only
    rw [if_neg (by simpa using hne), if_neg (show ¬(s.team s.cur).stage + 1 > (s.job (s.team s.cur).job).stages.length from Nat.not_lt.2 hst),
      if_neg (by rw [show s.busy s.cur = false from hb]; exact Bool.false_ne_true)]

/-! Groups and events. -/

theorem State.planEvent_apart (s : State) (i : Ins) (t : Team) (wr : Bool) : s.Apart (s.planEvent i t wr).1 := by
  unfold State.planEvent
  split
  · exact .refl s
  · exact s.plan_apart ..

theorem execEvsig_go {f : Form} {s : State} (h : Clear (insW 0x1C4 f) (s.team s.cur) [0]) :
    let i := insW 0x1C4 f
    let t := s.team s.cur
    let q := s.planEvent i t true
    Settled q.1 i t q.2 8 true true → q.1.pending s.cur 31 true = false →
    execEvsig f s = .next (q.1.runUnits { i with f := { f with ty := .n64 } } t 0 0 8
      (accUnits q.2.accs (fun _ => []) (fun _ => i.opd t true 0) (fun _ => 0))) := by
  intro i t q hset hp
  have hq : s.Apart q.1 := s.planEvent_apart ..
  rw [execEvsig, runUni_go _ h]
  refine congrArg Host.Outcome.next ((State.settle_go _ hset).trans ?_)
  rw [← hq.cur] at hp
  exact if_neg (by rw [show State.pending _ _ _ _ = false from hp]; exact Bool.false_ne_true)

/-- The VA of a place in a table. -/
def Place.tableVa (x : Place) : Nat := match x with | .tab _ va => va | .core _ => 0

theorem execEvwait_go {f : Form} {s : State} {a : Acc} (h : Clear (insW 0x1C5 f) (s.team s.cur) [0]) :
    let i := insW 0x1C5 f
    let t := s.team s.cur
    let q := s.planEvent i t false
    let v := BitVec.ofNat 64 (i.opd t true 0)
    q.2.accs = [a] → Settled q.1 i t q.2 8 true false → (q.1.loadPlace a.place 8).2 = 0 →
    execEvwait f s = .next (
      if reached (BitVec.ofNat 64 (leNat (q.1.loadPlace a.place 8).1)) v then ((q.1.entered s.cur).syncLt t.core).finish i t
      else if s.busy s.cur then s
      else (q.1.setTeam s.cur { t with evTarget := v }).parkHere .event (BitVec.ofNat 64 a.place.tableVa)) := by
  intro i t q v ha hset hgood
  rw [execEvwait, runUni_go _ h]
  refine congrArg Host.Outcome.next ((State.settle_go _ hset).trans ?_)
  rw [show (s.planEvent (insW 0x1C5 f) (s.team s.cur) false).2.accs = [a] from ha]
  exact if_neg (not_not.2 hgood)

/-- Settles O38. -/
theorem groupAndEventInstructions : Obligations.GroupAndEventInstructions := by
  unfold Obligations.GroupAndEventInstructions
  intro f s t
  refine ⟨fun h hg hp => ?_, fun h hlt => ?_, fun h => ?_, fun h => ?_, fun a h => ?_⟩
  · show execSgpost f s = _
    rw [execSgpost, runUni_go _ h]
    refine congrArg Host.Outcome.next ?_
    rw [show (s.team s.cur).grouped = true from hg, if_neg (by decide), if_neg (by rw [hp]; exact Bool.false_ne_true)]
  · show execSgpoll f s = _
    rw [execSgpoll, runUni_go _ h]
    exact congrArg Host.Outcome.next (if_neg (Nat.not_le.2 hlt))
  · show execSgchk f s = _
    rw [execSgchk, runUni_go _ h]
  · intro i q us s0 hset hp hus hroom
    obtain ⟨as, h1, h2, h3, hm, ht⟩ := State.runUnits_atoms (i := { i with f := { f with ty := .n64 } }) (enc := 0) (ilv := 0) (n := 8)
      (s.planEvent_apart i t true) (Or.inr (Or.inr (Or.inr rfl))) hus hroom
    refine ⟨_, as, execEvsig_go h hset hp, congrArg Team.pc ht, ?_, h1, h2, fun a ha => ?_, hm⟩
    · exact Team.sameRegs_of_maps (congrArg Team.v ht) (congrArg Team.s ht) (congrArg Team.p ht) (congrArg Team.q ht) _
    · obtain ⟨k1, k2, -, k4, k5⟩ := h3 a ha
      refine ⟨k1, ?_, k4, k5⟩
      unfold Atom.op
      rw [k2]
      rfl
  · intro q ha hset hgood v now
    have hgo := execEvwait_go h ha hset hgood
    have hq : s.Apart q.1 := s.planEvent_apart ..
    refine ⟨fun hr => Eq.trans hgo (congrArg Host.Outcome.next (if_pos hr)), fun hr hb => ?_⟩
    refine ⟨_, Eq.trans hgo (congrArg Host.Outcome.next ((if_neg (by rw [show reached _ _ = false from hr]; exact Bool.false_ne_true)).trans
      (if_neg (by rw [hb]; exact Bool.false_ne_true)))), ?_⟩
    have hpark : ((q.1.setTeam s.cur { t with evTarget := v }).parkHere .event (BitVec.ofNat 64 a.place.tableVa)).team s.cur
        = { { t with evTarget := v } with st := .parked, cause := .event, arg := BitVec.ofNat 64 a.place.tableVa, parkedAt := q.1.clock.toNat } := by
      rw [State.parkHere, State.setTeam_cur, hq.cur, State.park_team, State.team_setTeam_same]
      rfl
    rw [hpark]
    exact ⟨rfl, rfl, rfl, rfl⟩

/-! SGCHK. -/

theorem descOf_sgchk (f : Form) : descOf 0x1C2 f = some { descUni .preds .zero .zero .zero with mods := [0, 1, 2] } := rfl

theorem fieldOk_sgchk (ds : Desc) (lim : Limits) (f : Form) (m : BitVec 3) : fieldOk 0x1C2 ds lim { f with mod := m } = fieldOk 0x1C2 ds lim f := rfl

/-- Checks whose first three find nothing fail at the fourth where it finds something. -/
theorem mod_of_first_three (a b c : Bool) {x y : Option IllSub}
    (h : (if a then some IllSub.form else if b then some .field else if c then some .type else x) = none) :
    (if a then some IllSub.form else if b then some .field else if c then some .type else if !false then some .mod else y) = some .mod := by
  cases a with
  | true => cases h
  | false =>
    cases b with
    | true => cases h
    | false =>
      cases c with
      | true => cases h
      | false => rfl

/-- A MOD of 3 or more is what keeps an SGCHK from being well formed whose form, fields and type are right. -/
theorem checkForm_sgchk {lim : Limits} {f : Form} (hm : 3 ≤ f.mod.toNat) (h : checkForm 0x1C2 lim false { f with mod := 0 } = none) :
    checkForm 0x1C2 lim false f = some .mod := by
  have hmod : modOk 0x1C2 { descUni .preds .zero .zero .zero with mods := [0, 1, 2] } f = false := by
    have : ([0, 1, 2] : List Nat).contains f.mod.toNat = false := by simp; omega
    exact (congrArg (· && true) this)
  unfold checkForm at h ⊢
  rw [descOf_sgchk] at h ⊢
  dsimp only at h ⊢
  rw [fieldOk_sgchk] at h
  rw [hmod]
  exact mod_of_first_three _ _ _ h

theorem decodeWords_sgchk {lim : Limits} {w0 w1 : W32} (w2 : W32) (hop : opOf w0 = 0x1C2) (hl : w0.toNat % 4 = 1)
    (hm : 3 ≤ (parseWide w0 w1 none).mod.toNat) (h : checkForm 0x1C2 lim false { parseWide w0 w1 none with mod := 0 } = none) :
    decodeWords lim w0 w1 w2 = .bad .mod := by
  have hrow : (rowOf descTable 0x1C2).isNone = false := rfl
  unfold decodeWords
  dsimp only
  rw [hop, hl, hrow, if_neg (by decide), if_neg (by decide), if_neg (by decide), if_neg (by decide), if_neg (by decide), checkForm_sgchk hm h]
/-- What SGCHK finds of a group, by its MOD. -/
theorem Group.check_eq (g : Group) (i sel : Nat) :
    g.check i sel = if sel = 0 then g.st == 2 else if sel = 1 then g.st == 2 && g.winnerOf i else g.cancelled.getLsbD i := by
  match sel with
  | 0 => rfl
  | 1 => rfl
  | n + 2 => rfl

/-- Settles O39. -/
theorem sgchkAnswers : Obligations.SgchkAnswers := by
  unfold Obligations.SgchkAnswers
  refine ⟨fun f s h => ?_, fun s n p hp hr hk => ?_, fun lim w0 w1 w2 => ?_⟩
  · exact ⟨_, _, (show execSgchk f s = _ by rw [execSgchk, runUni_go _ h]), rfl, rfl, rfl, rfl, rfl, rfl, rfl, rfl, rfl, rfl⟩
  · intro g b r u
    show execCampanilePost n s = _
    unfold execCampanilePost
    rw [hp]
    dsimp only
    rw [hr, if_neg (by decide), hk, if_neg (by decide), if_pos rfl, if_neg (by decide), Group.check_eq]
    rfl
  · exact fun hop hl hm h => ⟨decodeWords_sgchk w2 hop hl hm h, rfl⟩

/-! LAUNCH. -/

/-- Settles O40. -/
theorem launchAppends : Obligations.LaunchAppends := by
  unfold Obligations.LaunchAppends
  intro f s k h i t sa q bytes b0 hal hk hq8 hon hp hown hgood hb0 a r
  show execLaunch f s = _
  rw [execLaunch, runUni_go _ h]
  refine congrArg Host.Outcome.next ?_
  dsimp only
  rw [if_neg (not_not.2 hal), show s.coreByte _ _ _ _ _ = some k from hk]
  dsimp only
  rw [if_neg, hp, show s.placeOwned _ _ = false from hown, if_neg (by decide), if_neg (not_not.2 hgood), if_neg]
  · exact fun ⟨h0, h4⟩ => hb0.elim h0 h4
  · exact not_or.2 ⟨Nat.not_le.2 hq8, by rw [show s.lqOn _ _ = true from hon]; exact Bool.false_ne_true⟩

end Sys2Proof.Machine
end

section
/-!
Events of teams and slots (05 R97, R102–R112; 09 R186): what the scheduler's bookkeeping leaves of a team, and that each event acts where it is due.
-/
namespace Sys2Proof.Machine

/-! The scheduler's bookkeeping. -/

/-- Only what the scheduler keeps about a team differs: its write-back buffer, marks of bad lanes, counts, argument, save records and MMA. -/
def Team.Booked (t v : Team) : Prop :=
  ∃ a b c d e f g h, v = { t with unsaved := a, unsavedCtl := b, vBad := c, waste := d, arg := e, saveRec := f, mma := g, sideSave := h }

theorem Team.Booked.refl (t : Team) : t.Booked t := ⟨_, _, _, _, _, _, _, _, rfl⟩

theorem Team.Booked.trans {t v w : Team} (h : t.Booked v) (k : v.Booked w) : t.Booked w := by
  obtain ⟨_, _, _, _, _, _, _, _, rfl⟩ := h
  obtain ⟨_, _, _, _, _, _, _, _, rfl⟩ := k
  exact ⟨_, _, _, _, _, _, _, _, rfl⟩

/-- Late replies, blocks and, but for that bookkeeping, the teams stay. -/
def State.Booked (s u : State) : Prop := u.replies = s.replies ∧ u.blocks = s.blocks ∧ ∀ i, (s.team i).Booked (u.team i)

theorem State.Booked.refl (s : State) : s.Booked s := ⟨rfl, rfl, fun _ => .refl _⟩

theorem State.Booked.trans {s t u : State} (h : s.Booked t) (k : t.Booked u) : s.Booked u := by
  obtain ⟨hr, hb, ht⟩ := h
  obtain ⟨kr, kb, kt⟩ := k
  exact ⟨kr.trans hr, kb.trans hb, fun i => (ht i).trans (kt i)⟩

theorem State.Booked.foldl {α : Type} (g : State → α → State) (h : ∀ (s : State) (a : α), s.Booked (g s a)) (l : List α) (s : State) :
    s.Booked (l.foldl g s) := by
  induction l generalizing s with
  | nil => exact .refl s
  | cons a r ih => exact (h s a).trans (ih _)

theorem State.Booked.foldl_fst {α β : Type} (g : State × β → α → State × β) (h : ∀ (s : State × β) (a : α), s.1.Booked (g s a).1) (l : List α)
    (s : State × β) : s.1.Booked (l.foldl g s).1 := by
  induction l generalizing s with
  | nil => exact .refl s.1
  | cons a r ih => exact (h s a).trans (ih _)

theorem State.Lined.booked {s u : State} (h : s.Lined u) : s.Booked u := by
  obtain ⟨-, -, hr, hb, ht⟩ := h
  refine ⟨hr, hb, fun i => ?_⟩
  obtain ⟨_, _, e⟩ := ht i
  exact ⟨_, _, _, _, _, _, _, _, e⟩

theorem State.Cached.booked {s u : State} (h : s.Cached u) : s.Booked u := h.lined.booked

theorem State.setTeam_booked {s : State} {i : Nat} {t : Team} (h : (s.team i).Booked t) : s.Booked (s.setTeam i t) := by
  refine ⟨rfl, rfl, fun j => ?_⟩
  by_cases hj : j = i
  · subst hj
    rw [State.team_setTeam_same]
    exact h
  · rw [State.team_setTeam_ne _ _ hj]
    exact .refl _

theorem State.noteTeam_booked (s : State) (i : Nat) (t0 : Team) : s.Booked (s.noteTeam i t0) := by
  obtain ⟨u, hu, e | e⟩ := s.noteTeam_spec i t0 <;> rw [e]
  · exact hu.cached.booked
  · exact hu.cached.booked.trans (State.setTeam_booked ⟨_, _, _, _, _, _, _, _, by rw [hu.team_eq]⟩)

theorem State.account_booked (s : State) (i n k b : Nat) : s.Booked (s.account i n k b) := by
  rcases s.account_spec i n k b with e | ⟨w, e⟩ <;> rw [e]
  · exact .refl s
  · exact State.setTeam_booked ⟨_, _, _, _, _, _, _, _, rfl⟩

theorem State.writeControl_booked (s : State) (i : Nat) : s.Booked (s.writeControl i) :=
  (State.ctxPut_apart ..).cached.booked.trans (State.setTeam_booked ⟨_, _, _, _, _, _, _, _, rfl⟩)

theorem State.setArray_booked (s : State) (k : Nat) (l : List Nat) : s.Booked (s.setArray k l) := ⟨rfl, rfl, fun _ => .refl _⟩

theorem State.putWords_cached (s : State) (f va : Nat) (bs : List Byte) (op : HeldOp) : s.Cached (s.putWords f va bs op) := by
  have hp := s.partsAt_apart f va bs
  unfold State.putWords
  dsimp only
  split
  · next ps _ =>
    have hs := (s.partsAt f va bs).1.storeParts_apart f ps false .l2 va op
    split
    · exact (hp.trans hs).cached.trans (State.dropParts_cached ..)
    · exact (hp.trans hs).cached.trans (State.Cached.foldl _ (fun s h => s.dlogRecord_cached _) _ _)
    · exact (hp.trans hs).cached
  · exact hp.cached

theorem State.addWaste_cached (s : State) (k i : Nat) (w : Waste) : s.Cached (s.addWaste k i w) := by
  unfold State.addWaste
  dsimp only
  split
  · exact .refl s
  · refine State.Cached.foldl _ (fun s e => ?_) _ s
    split
    · exact .refl s
    · exact s.putWords_cached ..

theorem State.recordWaste_booked (s : State) (i : Nat) : s.Booked (s.recordWaste i) := by
  have ha := s.addWaste_cached (s.ownGroup (s.team i)) (s.team i).sgidx.toNat (s.team i).waste
  unfold State.recordWaste
  dsimp only
  split
  · exact .refl s
  · exact ha.booked.trans (State.setTeam_booked ⟨_, _, _, _, _, _, _, _, by rw [ha.team_eq]⟩)

theorem State.stopMma_booked (s : State) (i : Nat) : s.Booked (s.stopMma i) := by
  unfold State.stopMma
  dsimp only
  split
  · exact .refl s
  · exact (State.setTeam_booked ⟨_, _, _, _, _, _, _, _, rfl⟩).trans (State.setArray_booked ..)

theorem State.requeueMma_booked (s : State) (i : Nat) : s.Booked (s.requeueMma i) := by
  unfold State.requeueMma
  dsimp only
  split
  · exact .refl s
  · split
    · exact .refl s
    · exact (State.setTeam_booked ⟨_, _, _, _, _, _, _, _, rfl⟩).trans (State.setArray_booked ..)

theorem State.redecodeMma_booked (s : State) (i : Nat) : s.Booked (s.redecodeMma i) := by
  unfold State.redecodeMma
  dsimp only
  split
  · exact .refl s
  · split
    · split
      · exact .refl s
      · exact State.setTeam_booked ⟨_, _, _, _, _, _, _, _, rfl⟩
    · exact .refl s

theorem State.saveSide_booked (s : State) (i : Nat) : s.Booked (s.saveSide i) := by
  unfold State.saveSide
  dsimp only
  split
  · exact .refl s
  · split
    · exact .refl s
    · split
      · exact (State.imagePut_apart ..).cached.booked.trans (State.setTeam_booked ⟨_, _, _, _, _, _, _, _, rfl⟩)
      · exact (State.imagePut_apart ..).cached.booked

theorem State.dropLines_booked (s : State) (i : Nat) : s.Booked (s.dropLines i) := (State.setRlines_lined ..).booked

theorem State.saveLines_booked (s : State) (i : Nat) : s.Booked (s.saveLines i) :=
  ((State.Lined.foldl _ State.leaveLine_lined _ s).booked.trans (State.dropLines_booked ..)).trans (State.writeControl_booked ..)

theorem State.restoreAway_booked (s : State) (i : Nat) : s.Booked (s.restoreAway i) := by
  unfold State.restoreAway
  dsimp only
  split
  · exact .refl s
  · exact (State.setTeam_booked ⟨_, _, _, _, _, _, _, _, rfl⟩).trans (State.Booked.foldl _ (fun s no => (s.writeLine_lined ..).booked) _ _)

theorem State.writeLanes_booked (s : State) (i n w : Nat) (ls : List Nat) : s.Booked (s.writeLanes i n w ls) := by
  unfold State.writeLanes
  dsimp only
  generalize hr : List.foldl _ (s, true) ls = r
  have hA : s.Apart r.1 := by
    rw [← hr]
    refine State.Apart.foldl_fst _ (fun a k => ?_) _ (s, true)
    exact State.ctxPut_apart ..
  have hB : ∀ off bs, s.Booked (r.1.ctxPut i off bs).1 := fun off bs => (hA.trans (State.ctxPut_apart ..)).cached.booked
  split_ifs
  · exact hB ..
  · exact (hB ..).trans (State.setTeam_booked ⟨_, _, _, _, _, _, _, _, rfl⟩)

theorem State.landed_booked (s : State) (i : Nat) (t0 : Team) (rs : List Ref) : s.Booked (s.landed i t0 rs) := by
  unfold State.landed
  dsimp only
  split
  · exact .refl s
  · refine (State.Booked.foldl _ (fun s e => ?_) _ s).trans (State.noteTeam_booked ..)
    split
    · exact (State.setRlines_lined ..).booked
    · split
      · exact .refl s
      · exact s.writeLanes_booked ..

theorem State.logErr_booked (s : State) (kind die vf : Nat) (w2 w3 : Option W64) (l : List W64) : s.Booked (s.logErr kind die vf w2 w3 l) :=
  ⟨rfl, rfl, fun _ => .refl _⟩

theorem State.logLost_booked (s : State) (i : Nat) (t0 : Team) (rs : List Ref) : s.Booked (s.logLost i t0 rs) := by
  unfold State.logLost
  split
  · exact .refl s
  · refine State.Booked.foldl _ (fun s r => ?_) _ s
    cases r with
    | v n l => exact s.logErr_booked ..
    | _ => exact .refl s

theorem State.recount_booked (s : State) (i : Nat) : s.Booked (s.recount i) := by
  unfold State.recount
  dsimp only
  split
  · exact (State.setTeam_booked ⟨_, _, _, _, _, _, _, _, rfl⟩).trans (State.noteTeam_booked ..)
  · exact .refl s

/-! Late replies. -/

/-- Settles O41: landing writes the reply's values, and what follows it is the scheduler's bookkeeping. -/
theorem lateRepliesLand : Obligations.LateRepliesLand := by
  unfold Obligations.LateRepliesLand
  intro s n r hr htrap hdue
  let s1 : State := { s with replies := dropAt s.replies n }
  let t := r.dsts.foldl Team.land (s.team r.team)
  have key : ∀ u : State, (s1.setTeam r.team t).Booked u → u.replies = dropAt s.replies n ∧
      let v := u.team r.team
      v.v = t.v ∧ v.vE = t.vE ∧ v.s = t.s ∧ v.sE = t.sE ∧ v.p = t.p ∧ v.pE = t.pE ∧ v.q = t.q ∧ v.qE = t.qE ∧ v.pc = t.pc := by
    rintro u ⟨hu, -, ht⟩
    obtain ⟨a, b, c, d, e, f, g, h, hv⟩ := ht r.team
    rw [State.team_setTeam_same] at hv
    exact ⟨hu, by rw [hv]; exact ⟨rfl, rfl, rfl, rfl, rfl, rfl, rfl, rfl, rfl⟩⟩
  have hb : ∀ rs : List Ref, (s1.setTeam r.team t).Booked
      ((((s1.setTeam r.team t).landed r.team (s.team r.team) rs).logLost r.team (s.team r.team) rs).recount r.team) := fun rs =>
    ((State.landed_booked ..).trans (State.logLost_booked ..)).trans (State.recount_booked ..)
  have hex : exec (.lateReply n) s = execLateReply n s := rfl
  rw [hex, execLateReply]
  dsimp only
  rw [hr]
  dsimp only
  rw [if_neg (Nat.not_lt.mpr hdue), htrap]
  refine ⟨_, rfl, key _ ?_⟩
  split
  · exact (hb (r.dsts.map Dst.ref)).trans (State.account_booked ..)
  · exact hb (r.dsts.map Dst.ref)

/-! Slots and ready lists. -/

/-- A line that is placed is there. -/
theorem State.mem_placeLine (s : State) (i n w : Nat) (wr : Bool) (ns : List Nat) (fetch : State → State) :
    ∃ d, (i, lineNo (s.team i) n w, d) ∈ (s.placeLine i n w wr ns fetch).rlines (s.team i).partKey := by
  unfold State.placeLine
  dsimp only
  split
  · exact ⟨_, by rw [State.rlines_setRlines, if_pos rfl]; exact List.mem_append_right _ List.mem_cons_self⟩
  · exact ⟨_, by rw [State.rlines_setRlines, if_pos rfl]; exact List.mem_append_right _ List.mem_cons_self⟩

theorem State.syncLt_booked (s : State) (core : Nat) : s.Booked (s.syncLt core) := ⟨rfl, rfl, fun _ => .refl _⟩

/-- A team given its slot is ACTIVE there, whatever its MMA does next. -/
theorem State.seated_team {u : State} {x : Team} {i core p n : Nat} (h1 : x.st = .active) (h2 : x.inSlot = true) (h3 : x.part = p) (h4 : x.slot = n) :
    ((((((u.setTeam i x).redecodeMma i).requeueMma i).syncLt core).team i).st = .active)
      ∧ ((((((u.setTeam i x).redecodeMma i).requeueMma i).syncLt core).team i).inSlot = true)
      ∧ ((((((u.setTeam i x).redecodeMma i).requeueMma i).syncLt core).team i).part = p)
      ∧ ((((((u.setTeam i x).redecodeMma i).requeueMma i).syncLt core).team i).slot = n) := by
  obtain ⟨-, -, hb⟩ := ((State.redecodeMma_booked (u.setTeam i x) i).trans (State.requeueMma_booked _ i)).trans (State.syncLt_booked _ core)
  obtain ⟨_, _, _, _, _, _, _, _, e⟩ := hb i
  rw [State.team_setTeam_same] at e
  rw [e]
  exact ⟨h1, h2, h3, h4⟩

theorem State.leftSlot_inSlot (s : State) (i : Nat) : ((leftSlot s i).team i).inSlot = false := by
  obtain ⟨-, -, h⟩ := State.saveLines_booked ((((s.recordWaste i).stopMma i).saveSide i).setTeam i { (((s.recordWaste i).stopMma i).saveSide i).team i with
    inSlot := false, st := if ((((s.recordWaste i).stopMma i).saveSide i).team i).st = .active then .ready else ((((s.recordWaste i).stopMma i).saveSide i).team i).st,
    readyAt := s.clock.toNat }) i
  obtain ⟨_, _, _, _, _, _, _, _, e⟩ := h i
  rw [State.team_setTeam_same] at e
  exact congrArg Team.inSlot e

/-- An eviction that is no preemption leaves the slot where everything could be written, and else changes nothing. -/
theorem State.evictTeam_kept (s : State) (i : Nat) : s.evictTeam i false =
    if ((leftSlot s i).team i).unsaved.isEmpty && !((leftSlot s i).team i).unsavedCtl then leftSlot s i else s := rfl

theorem execTeamEviction_due {s : State} {core part : Nat} {t : Nat × Team} (h : s.evictionReady core part = true) (hl : s.longestParked core = some t) :
    execTeamEviction core part s = .next (s.evictTeam t.1 false) := by
  rw [execTeamEviction, if_pos h, hl]

theorem State.retried_due {s : State} {i c : Nat} (h : (s.team i).retryAt = some c) (hc : c ≤ s.clock.toNat) :
    s.retried i = s.setTeam i { s.team i with retryAt := none, age := s.clock.toNat } := by
  rw [State.retried]
  dsimp only
  rw [h]
  exact if_pos hc

/-- Settles O42: each event of slots and ready lists acts where it is due. -/
theorem slotEvents : Obligations.SlotEvents := by
  unfold Obligations.SlotEvents
  refine fun s => ⟨fun i n w hs hn hw => ?_, fun core i t r p n hl hp => ?_, fun core part t hr hl => ⟨fun hu hc => ⟨?_, s.leftSlot_inSlot t.1⟩, fun h => ?_⟩,
    fun core i hf => ?_, fun core part i hf => ?_, fun i c hc hle hr => ?_, fun i c r hc hle hr => ?_⟩
  · have hex : exec (.registerMissFill i n w) s = .next (s.fillLine i n w [n] false) := by
      show execRegisterMissFill i n w s = _
      rw [execRegisterMissFill, hs, decide_eq_true hn, decide_eq_true hw]
      rfl
    obtain ⟨d, hd⟩ := s.mem_placeLine i n w false [n] (fun s => s.fetchLine i n w false)
    exact ⟨_, d, hex, hd⟩
  · intro q hq hn
    have hex : exec (.teamActivation core) s = execTeamActivation core s := rfl
    rw [execTeamActivation, hl] at hex
    dsimp only at hex
    rw [hp] at hex
    dsimp only at hex
    rw [show (State.absentPage s t.vf _).2 = none from hq] at hex
    dsimp only at hex
    generalize hs1 : State.partialEvict 16 _ core p t.vf _ = s1 at hex
    have hslot : s1.freeSlot core p = some n := by
      subst hs1
      exact hn
    rw [hslot] at hex
    exact ⟨_, hex, State.seated_team rfl rfl rfl rfl⟩
  · show execTeamEviction core part s = _
    rw [execTeamEviction_due hr hl, State.evictTeam_kept, hu, hc]
    rfl
  · show execTeamEviction core part s = _
    rw [execTeamEviction_due hr hl, State.evictTeam_kept, if_neg]
    rcases h with h | h
    · simp [h]
    · simp [h]
  · show execReadyListSteal core s = _
    rw [execReadyListSteal, hf]
  · show execStarvationPick core part s = _
    rw [execStarvationPick, hf]
  · show execRequestRetry i s = _
    rw [execRequestRetry, State.retried_due hc hle, State.goOn, State.team_setTeam_same]
    dsimp only
    rw [hr]
  · show execRequestRetry i s = _
    rw [execRequestRetry, State.retried_due hc hle, State.goOn, State.team_setTeam_same]
    dsimp only
    rw [hr]

/-! Resuming and retiring. -/

theorem State.requeueMma_team (s : State) (i : Nat) : ∃ m, (s.requeueMma i).team i = { s.team i with mma := m } := by
  unfold State.requeueMma
  dsimp only
  split
  · exact ⟨_, rfl⟩
  · split
    · exact ⟨_, rfl⟩
    · exact ⟨_, State.team_setTeam_same ..⟩

theorem State.requeueMma_team_ne (s : State) {i j : Nat} (h : j ≠ i) : (s.requeueMma i).team j = s.team j := by
  unfold State.requeueMma
  dsimp only
  split
  · rfl
  · split
    · rfl
    · exact s.team_setTeam_ne _ h

theorem goesOn_unpark {s : State} {i : Nat} (hc : (s.team i).cause ≠ .cancelledPending) (hd : (s.block (s.team i).block).dead = false)
    (hh : (s.block (s.team i).block).halted = false) (hg : (s.block (s.team i).block).debug = false) : goesOn s (s.unpark i) i := by
  obtain ⟨w, m, e⟩ := s.unpark_team i hc hd hh hg
  unfold goesOn
  dsimp only
  rw [e]
  exact ⟨rfl, rfl, rfl, rfl, rfl, rfl, Team.sameRegs_of_maps rfl rfl rfl rfl [], fun j hj => s.unpark_team_ne hj⟩

theorem goesOn.requeueMma {s u : State} {i : Nat} (h : goesOn s u i) : goesOn s (u.requeueMma i) i := by
  obtain ⟨m, e⟩ := u.requeueMma_team i
  obtain ⟨h1, h2, h3, h4, h5, h6, h7, h8⟩ := h
  unfold goesOn
  dsimp only
  rw [e]
  exact ⟨h1, h2, h3, h4, h5, h6, h7, fun j hj => (u.requeueMma_team_ne hj).trans (h8 j hj)⟩

/-- A barrier's step leaves every team that is not parked. -/
theorem State.barrierStep_team (s : State) (b : Nat) {i : Nat} (h : (s.team i).st ≠ .parked) : (s.barrierStep b).team i = s.team i := by
  have wake : ∀ (l : List Nat) (u : State), u.team i = s.team i →
      (l.foldl (fun s i => if (s.team i).st = .parked ∧ (s.team i).cause = .barrier then s.unpark i else s) u).team i = s.team i := by
    intro l
    induction l with
    | nil => exact fun u hu => hu
    | cons j r ih =>
      intro u hu
      refine ih _ ?_
      dsimp only
      split
      · next hj =>
        have hne : i ≠ j := fun e => h (by rw [← hu, e]; exact hj.1)
        rw [u.unpark_team_ne hne, hu]
      · exact hu
  have sync : ∀ (l : List Nat) (u : State), (l.foldl (fun s j => s.syncLt (s.team j).core) u).team i = u.team i := by
    intro l
    induction l with
    | nil => exact fun u => rfl
    | cons j r ih => exact fun u => ih _
  unfold State.barrierStep
  dsimp only
  split
  · exact wake _ _ (sync _ _)
  · rfl

/-- A team that retires: no slot, cause, MMA or save record is its any more, and its PC and registers stay. -/
theorem State.retireTeam_team (s : State) (i : Nat) : ∃ u : Team, (s.team i).Booked u ∧ ∃ c, (s.retireTeam i).team i =
    { u with st := .retired, sideSave := 0, cause := .none, arg := 0, inSlot := false, mma := none, skid := none, pend := none, pendMore := [],
             parkNext := none, cancelPend := false, retryAt := none, verdict := false, countOnWake := false, unsavedCtl := c } := by
  obtain ⟨-, -, hb⟩ := (s.restoreAway_booked i).trans (State.recordWaste_booked _ i)
  have hb := hb i
  unfold State.retireTeam
  dsimp only
  generalize (s.restoreAway i).recordWaste i = s0 at hb ⊢
  refine ⟨_, hb, ?_⟩
  generalize State.dropLines (s0.setArray _ _) i = s1
  generalize hx : ({ s0.team i with st := .retired, sideSave := 0, cause := .none, arg := 0, inSlot := false, mma := none, skid := none, pend := none,
                                    pendMore := [], parkNext := none, cancelPend := false, retryAt := none, verdict := false,
                                    countOnWake := false } : Team) = x
  have h2 : ∀ l, ({ s1.setTeam i x with reserved := l } : State).team i = x := fun l => s1.team_setTeam_same i x
  have h3 : ∀ l, (State.barrierStep { s1.setTeam i x with reserved := l } (s0.team i).block).team i = x := fun l => by
    rw [State.barrierStep_team _ _ (by rw [h2, ← hx]; exact fun e => nomatch e), h2]
  have h4 : ∀ u : State, u.team i = x → (u.writeControl i).team i = { x with unsavedCtl := !(u.ctxPut i 0 (u.controlOf i (u.team i))).2 } := fun u hu => by
    unfold State.writeControl
    dsimp only
    rw [State.team_setTeam_same, (u.ctxPut_apart ..).team_eq, hu]
  subst hx
  split
  · exact ⟨_, h4 _ (h3 _)⟩
  · exact ⟨_, h4 _ (h3 _)⟩

/-- A fold whose steps each change one team: those in the list that `A` holds of are changed once, all others stay. -/
theorem State.foldl_teams {g : State → Nat → State} {L : List Nat} {P : State → Prop} {A : Team → Prop} {R : Team → Team → Prop}
    (hP : ∀ s i, P s → i ∈ L → P (g s i)) (hne : ∀ s i j, P s → j ≠ i → (g s i).team j = s.team j)
    (hA : ∀ s i, P s → i ∈ L → A (s.team i) → R (s.team i) ((g s i).team i) ∧ ¬A ((g s i).team i))
    (hB : ∀ s i, P s → i ∈ L → ¬A (s.team i) → (g s i).team i = s.team i) :
    ∀ (l : List Nat) (s : State), (∀ i ∈ l, i ∈ L) → P s →
      P (l.foldl g s) ∧ ∀ i, (i ∈ l → A (s.team i) → R (s.team i) ((l.foldl g s).team i)) ∧ (i ∉ l ∨ ¬A (s.team i) → (l.foldl g s).team i = s.team i) := by
  intro l
  induction l with
  | nil => exact fun s _ hs => ⟨hs, fun i => ⟨fun h => absurd h List.not_mem_nil, fun _ => rfl⟩⟩
  | cons a r ih =>
    intro s hl hs
    have ha := hl a List.mem_cons_self
    obtain ⟨h1, h2⟩ := ih (g s a) (fun i hi => hl i (List.mem_cons_of_mem _ hi)) (hP s a hs ha)
    refine ⟨h1, fun i => ?_⟩
    obtain ⟨k1, k2⟩ := h2 i
    by_cases hi : i = a
    · subst hi
      refine ⟨fun _ hAi => ?_, fun h => ?_⟩
      · obtain ⟨hR, hN⟩ := hA s i hs ha hAi
        rw [List.foldl_cons, k2 (.inr hN)]
        exact hR
      · have hN : ¬A (s.team i) := h.resolve_left (fun h => h List.mem_cons_self)
        have he := hB s i hs ha hN
        rw [List.foldl_cons, k2 (.inr (by rw [he]; exact hN)), he]
    · have he := hne s a i hs hi
      rw [he] at k1 k2
      refine ⟨fun hm hAi => k1 ((List.mem_cons.mp hm).resolve_left hi) hAi, fun h => ?_⟩
      exact k2 (h.imp_left (fun h hm => h (List.mem_cons_of_mem _ hm)))

/-- A team that the debugger's halt stops (R202). -/
def Team.stopsNow (t : Team) : Prop :=
  (t.st = .active ∧ t.verdict = false ∧ t.rest = none ∧ t.pend = none ∧ t.parkNext = none ∧ t.cancelPend = false) ∨ t.st = .ready

/-- One team of a block that the debugger halts. -/
def State.debugStop (s : State) (i : Nat) : State :=
  match (s.team i).st with
  | .active =>
    let t := s.team i
    if t.verdict || t.rest.isSome || t.pend.isSome || t.parkNext.isSome || t.cancelPend then s else s.park i .debug 0
  | .ready => s.parkNoted i .debug 0
  | _ => s

theorem State.debugStop_calm (s : State) (i : Nat) : s.Calm (s.debugStop i) := by
  unfold State.debugStop
  split
  · dsimp only
    split
    · exact .refl s
    · exact .setTeam ..
  · exact s.parkNoted_calm ..
  · exact .refl s

theorem State.debugStop_team_ne (s : State) {i j : Nat} (h : j ≠ i) : (s.debugStop i).team j = s.team j := by
  unfold State.debugStop
  split
  · dsimp only
    split
    · rfl
    · exact s.team_setTeam_ne _ h
  · exact s.parkNoted_team_ne _ _ h
  · rfl

theorem State.debugStop_stops {s : State} {i : Nat} (h : (s.team i).stopsNow) :
    ((s.debugStop i).team i).st = .parked ∧ ((s.debugStop i).team i).cause = .debug ∧ ((s.debugStop i).team i).pc = (s.team i).pc
      ∧ (s.team i).sameRegs ((s.debugStop i).team i) [] := by
  unfold State.debugStop
  obtain ⟨ha, hv, hr, hp, hn, hc⟩ | ha := h <;> rw [ha] <;> dsimp only
  · rw [hv, hr, hp, hn, hc]
    simp only [Option.isSome_none, Bool.or_self, Bool.false_eq_true, if_false]
    rw [State.park_team]
    exact ⟨rfl, rfl, rfl, Team.sameRegs_of_maps rfl rfl rfl rfl []⟩
  · obtain ⟨m, e⟩ := s.parkNoted_team i .debug 0
    rw [e]
    exact ⟨rfl, rfl, rfl, Team.sameRegs_of_maps rfl rfl rfl rfl []⟩

theorem State.debugStop_goes {s : State} {i : Nat} (h : ¬(s.team i).stopsNow) : s.debugStop i = s := by
  unfold State.debugStop
  split
  · next ha =>
    dsimp only
    rw [if_pos]
    by_contra hn
    simp only [Bool.or_eq_true, not_or, Bool.not_eq_true, Option.isSome_eq_false_iff, Option.isNone_iff_eq_none] at hn
    obtain ⟨⟨⟨⟨hv, hr⟩, hp⟩, hk⟩, hc⟩ := hn
    exact h (.inl ⟨ha, hv, hr, hp, hk, hc⟩)
  · next ha => exact absurd (.inr ha) h
  · rfl

theorem execDebuggerHalt_eq (s : State) : execDebuggerHalt s =
    .next ((s.block s.inp.num).teams.foldl State.debugStop (s.setBlock s.inp.num { s.block s.inp.num with debug := true })) := rfl

/-- One team that the debugger lets go on. -/
def State.debugGo (s : State) (i : Nat) : State := if (s.team i).st = .parked ∧ (s.team i).cause = .debug then s.unpark i else s

theorem execDebuggerResume_eq (s : State) : execDebuggerResume s =
    .next ((s.block s.inp.num).teams.foldl State.debugGo (s.setBlock s.inp.num { s.block s.inp.num with debug := false })) := rfl

theorem State.unpark_calm (s : State) (i : Nat) : s.Calm (s.unpark i) := by
  have hw : s.Calm (s.countWake i) := by
    unfold State.countWake
    dsimp only
    split
    · exact (State.Calm.setTeam ..).trans (State.account_calm ..)
    · exact .refl s
  have hn : ∀ x t, s.Calm ((s.setTeam i x).noteTeam i t) := fun x t => (State.Calm.setTeam ..).trans (State.noteTeam_calm ..)
  unfold State.unpark
  dsimp only
  split
  · exact .refl s
  · split
    · split
      · exact .refl s
      · exact hw.trans (State.parkHalted_calm ..)
    · split
      · exact hw.trans (State.parkNoted_calm ..)
      · split
        · exact (hn ..).trans (State.account_calm ..)
        · exact hn ..

theorem State.sleepOver_of {s : State} {i : Nat} (h1 : (s.team i).st = .parked) (h2 : (s.team i).cause = .sleep)
    (h3 : ((s.team i).arg - BitVec.ofNat 64 (s.team i).parkedAt).toNat ≤ (s.clock - BitVec.ofNat 64 (s.team i).parkedAt).toNat) :
    s.sleepOver i = true := by
  unfold State.sleepOver
  dsimp only
  rw [h1, h2, decide_eq_true h3]
  rfl

/-- Each cause that is resolved lets its team go on (05 R108). -/
theorem State.resolved_of {s : State} {i : Nat} (hp : (s.team i).st = .parked)
    (h : ((s.team i).cause = .page ∧ (∀ r ∈ s.faults, r.waiter ≠ .team i) ∧ s.ownHolds i = false)
      ∨ ((s.team i).cause = .event ∧ reached (s.vword (s.team i).vf (s.team i).arg.toNat) (s.team i).evTarget = true)
      ∨ ((s.team i).cause = .quota ∧ (s.team i).arg.getLsbD 63 = false ∧ SMap.get s.falls (s.team i).vf 0 ≠ (s.team i).quotaUsed)
      ∨ ((s.team i).cause = .space ∧ s.ownHolds i = false ∧ s.poolLow (homeDie (s.team i).arg.toNat) = false)) :
    s.resolved i = true := by
  unfold State.resolved
  dsimp only
  rw [hp]
  rcases h with ⟨hc, hf, ho⟩ | ⟨hc, hr⟩ | ⟨hc, hl, hq⟩ | ⟨hc, ho, hl⟩ <;> rw [hc]
  · have : (s.faults.any fun r => r.waiter == Waiter.team i) = false :=
      List.any_eq_false.mpr (fun r hr => by simpa using hf r hr)
    simp [this, ho]
  · simp [hr]
  · rw [hl]
    simpa using hq
  · simp [ho, hl]

theorem State.retirementReady_of {s : State} {i : Nat} (h1 : (s.team i).st = .active) (h2 : (s.team i).mask = 0) (h3 : (s.team i).pend = none)
    (h4 : (s.team i).cancelPend = false) (h5 : (s.team i).parkNext = none) (h6 : (s.team i).verdict = false) (h7 : (s.team i).rest = none)
    (h8 : s.busy i = false) (h9 : s.ownHolds i = false) : s.retirementReady i = true := by
  unfold State.retirementReady
  dsimp only
  rw [h1, h2, h3, h4, h5, h6, h7, h8, h9, beq_self_eq_true, beq_self_eq_true]
  rfl

theorem State.pendingOver_of {s : State} {i : Nat} (h1 : (s.team i).st = .parked) (h2 : (s.team i).cause = .cancelledPending) (h3 : s.awaited i = 0) :
    s.pendingOver i = true := by
  unfold State.pendingOver
  dsimp only
  rw [h1, h2, h3]
  rfl

theorem State.imageFreeReady_of {s : State} {i : Nat} (h1 : (s.team i).st = .retired) (h2 : (s.team i).freed = false) (h3 : s.awaited i = 0)
    (h4 : s.busy i = false) (h5 : s.ownHolds i = false) : s.imageFreeReady i = true := by
  unfold State.imageFreeReady
  dsimp only
  rw [h1, h2, h3, h4, h5]
  rfl

/-- A retired team's state, PC and registers. -/
theorem State.retireTeam_left (s : State) (i : Nat) : let v := (s.retireTeam i).team i
    v.st = .retired ∧ v.inSlot = false ∧ v.cause = .none ∧ v.arg = 0 ∧ v.mma = none ∧ v.sideSave = 0 ∧ v.pc = (s.team i).pc ∧ (s.team i).sameRegs v [] := by
  obtain ⟨u, ⟨_, _, _, _, _, _, _, _, hu⟩, c, e⟩ := s.retireTeam_team i
  dsimp only
  rw [e, hu]
  exact ⟨rfl, rfl, rfl, rfl, rfl, rfl, rfl, Team.sameRegs_of_maps rfl rfl rfl rfl []⟩

/-- The debugger's halt of a block. -/
theorem debuggerHalt_stops (s : State) : ∃ u, exec .debuggerHalt s = .next u ∧ (u.block s.inp.num).debug = true
    ∧ ∀ i, (i ∈ (s.block s.inp.num).teams → (s.team i).stopsNow →
        (u.team i).st = .parked ∧ (u.team i).cause = .debug ∧ (u.team i).pc = (s.team i).pc ∧ (s.team i).sameRegs (u.team i) [])
      ∧ (i ∉ (s.block s.inp.num).teams ∨ ¬(s.team i).stopsNow → u.team i = s.team i) := by
  obtain ⟨hb, ht⟩ := State.foldl_teams (g := State.debugStop) (L := (s.block s.inp.num).teams)
    (P := fun u => (u.block s.inp.num).debug = true) (A := Team.stopsNow)
    (R := fun t v => v.st = .parked ∧ v.cause = .debug ∧ v.pc = t.pc ∧ t.sameRegs v [])
    (fun u i hu _ => by rw [(u.debugStop_calm i).block_eq]; exact hu) (fun u i j _ hj => u.debugStop_team_ne hj)
    (fun u i _ _ hA => ⟨State.debugStop_stops hA, fun h => by
      obtain ⟨hp, -⟩ := State.debugStop_stops hA
      rcases h with ⟨h, -⟩ | h <;> rw [hp] at h <;> exact nomatch h⟩)
    (fun u i _ _ hA => by rw [State.debugStop_goes hA])
    (s.block s.inp.num).teams (s.setBlock s.inp.num { s.block s.inp.num with debug := true }) (fun i hi => hi)
    (by rw [State.block_setBlock_same])
  exact ⟨_, execDebuggerHalt_eq s, hb, ht⟩

/-- The debugger's resume of a block. -/
theorem debuggerResume_goes (s : State) (hd : (s.block s.inp.num).dead = false) (hh : (s.block s.inp.num).halted = false)
    (hb : ∀ i ∈ (s.block s.inp.num).teams, (s.team i).block = s.inp.num) : ∃ u, exec .debuggerResume s = .next u ∧ (u.block s.inp.num).debug = false
    ∧ ∀ i ∈ (s.block s.inp.num).teams, (s.team i).st = .parked → (s.team i).cause = .debug →
        (u.team i).st = (if (s.team i).inSlot then .active else .ready) ∧ (u.team i).cause = .none ∧ (u.team i).pc = (s.team i).pc
          ∧ (s.team i).sameRegs (u.team i) [] := by
  have go : ∀ (u : State) (i : Nat), (u.block (u.team i).block).debug = false ∧ (u.block (u.team i).block).dead = false
      ∧ (u.block (u.team i).block).halted = false → (u.team i).st = .parked ∧ (u.team i).cause = .debug →
      ∃ w m, (u.debugGo i).team i = { u.team i with st := if (u.team i).inSlot then .active else .ready, cause := .none, arg := 0, countOnWake := false,
                                                    age := u.clock.toNat, readyAt := u.clock.toNat, waste := w, unsavedCtl := m } := by
    rintro u i ⟨h1, h2, h3⟩ hA
    rw [State.debugGo, if_pos hA]
    exact u.unpark_team i (by rw [hA.2]; exact fun e => nomatch e) h2 h3 h1
  have calm : ∀ (u : State) (i : Nat), u.Calm (u.debugGo i) := fun u i => by
    unfold State.debugGo
    split
    · exact u.unpark_calm i
    · exact .refl u
  have other : ∀ (u : State) (i j : Nat), j ≠ i → (u.debugGo i).team j = u.team j := fun u i j hj => by
    unfold State.debugGo
    split
    · exact u.unpark_team_ne hj
    · rfl
  obtain ⟨⟨hdbg, -⟩, ht⟩ := State.foldl_teams (g := State.debugGo) (L := (s.block s.inp.num).teams)
    (P := fun u => (u.block s.inp.num).debug = false ∧ (u.block s.inp.num).dead = false ∧ (u.block s.inp.num).halted = false
      ∧ ∀ i ∈ (s.block s.inp.num).teams, (u.team i).block = s.inp.num)
    (A := fun t => t.st = .parked ∧ t.cause = .debug)
    (R := fun t v => v.st = (if t.inSlot then .active else .ready) ∧ v.cause = .none ∧ v.pc = t.pc ∧ t.sameRegs v [])
    (fun u i hu hi => by
      obtain ⟨h1, h2, h3, h4⟩ := hu
      rw [(calm u i).block_eq]
      refine ⟨h1, h2, h3, fun j hj => ?_⟩
      by_cases hji : j = i
      · subst hji
        by_cases hA : (u.team j).st = .parked ∧ (u.team j).cause = .debug
        · obtain ⟨w, m, e⟩ := go u j (by rw [h4 j hj]; exact ⟨h1, h2, h3⟩) hA
          rw [e]
          exact h4 j hj
        · rw [State.debugGo, if_neg hA]
          exact h4 j hj
      · rw [other u i j hji]
        exact h4 j hj)
    (fun u i j _ hj => other u i j hj)
    (fun u i hu hi hA => by
      obtain ⟨h1, h2, h3, h4⟩ := hu
      obtain ⟨w, m, e⟩ := go u i (by rw [h4 i hi]; exact ⟨h1, h2, h3⟩) hA
      rw [e]
      exact ⟨⟨rfl, rfl, rfl, Team.sameRegs_of_maps rfl rfl rfl rfl []⟩, fun h => nomatch h.2⟩)
    (fun u i _ _ hA => by rw [State.debugGo, if_neg hA])
    (s.block s.inp.num).teams (s.setBlock s.inp.num { s.block s.inp.num with debug := false }) (fun i hi => hi)
    (by rw [State.block_setBlock_same]; exact ⟨rfl, hd, hh, hb⟩)
  exact ⟨_, execDebuggerResume_eq s, hdbg, fun i hi hp hc => (ht i).1 hi ⟨hp, hc⟩⟩

/-- Settles O43: teams resume, retire, are freed, and stop and go on for the debugger. -/
theorem teamsResumeAndRetire : Obligations.TeamsResumeAndRetire := by
  unfold Obligations.TeamsResumeAndRetire
  refine ⟨fun s i => ?_, fun s i => ?_, fun s => ?_⟩
  · intro t b hd hh hg hp
    refine ⟨fun hc ha => ?_, fun hc => ?_⟩
    · have hex : exec (.sleepWake i) s = execSleepWake i s := rfl
      rw [execSleepWake, if_pos (State.sleepOver_of hp hc ha)] at hex
      exact ⟨_, hex, goesOn_unpark (by rw [show (s.team i).cause = _ from hc]; exact fun e => nomatch e) hd hh hg⟩
    · have hex : exec (.teamResume i) s = execTeamResume i s := rfl
      rw [execTeamResume, if_pos (State.resolved_of hp hc)] at hex
      have hne : (s.team i).cause ≠ .cancelledPending := by
        rcases hc with ⟨h, -⟩ | ⟨h, -⟩ | ⟨h, -⟩ | ⟨h, -⟩ <;> rw [show (s.team i).cause = _ from h] <;> exact fun e => nomatch e
      have hgo := goesOn_unpark (s := s.forgetTeam i) (i := i) hne hd hh hg
      exact ⟨_, hex, goesOn.requeueMma hgo⟩
  · intro t left
    refine ⟨fun h1 h2 h3 h4 h5 h6 h7 h8 h9 => ?_, fun h1 h2 h3 => ?_, fun h1 h2 h3 h4 h5 => ?_⟩
    · have hex : exec (.teamRetirement i) s = execTeamRetirement i s := rfl
      rw [execTeamRetirement, if_pos (State.retirementReady_of h1 h2 h3 h4 h5 h6 h7 h8 h9)] at hex
      exact ⟨_, hex, s.retireTeam_left i⟩
    · have hex : exec (.cancelledPendingRetire i) s = execCancelledPendingRetire i s := rfl
      rw [execCancelledPendingRetire, if_pos (State.pendingOver_of h1 h2 h3)] at hex
      exact ⟨_, hex, s.retireTeam_left i⟩
    · show execContextImageFree i s = _
      rw [execContextImageFree, if_pos (State.imageFreeReady_of h1 h2 h3 h4 h5)]
  · intro b
    refine ⟨?_, debuggerResume_goes s⟩
    obtain ⟨u, he, hg, ht⟩ := debuggerHalt_stops s
    refine ⟨u, he, hg, fun i => ?_⟩
    obtain ⟨h1, h2⟩ := ht i
    intro t stops
    refine ⟨fun hi h => h1 hi (h.imp_left (fun h => ⟨h.1, h.2⟩)), fun h => h2 ?_⟩
    rcases h with h | ⟨h, hs⟩ | h | h
    · exact .inl h
    · refine .inr (fun k => ?_)
      rcases k with ⟨-, k⟩ | k
      · exact hs k
      · exact nomatch h.symm.trans k
    · refine .inr (fun k => ?_)
      rcases k with ⟨k, -⟩ | k <;> exact nomatch h.symm.trans k
    · refine .inr (fun k => ?_)
      rcases k with ⟨k, -⟩ | k <;> exact nomatch h.symm.trans k

end Sys2Proof.Machine
end

section
/-!
Placement and the front ends (04 R75; 17 R297; 19 R302–R309): a bucket wider than a register, and the front end's events where they are due.
-/
namespace Sys2Proof.Machine

/-! A launch with one bucket to place. -/

/-- A launch of function 0 with nothing left of its grid and a bucket of stage 1 to place. -/
def bucketJob (es : List Deposit) : Job := { Job.blank with phase := .started, ready := [(1, es)] }

/-- A device where that launch alone has started, its function's context region at 4096. -/
def bucketState (es : List Deposit) : State :=
  { State.reset with jobs := [(0, bucketJob es)], regs := [(oCLRANGE, 0), (oCTXBASE, 4096), (oCTXSIZE, 1048576), (oPTROOT, 1)] }

theorem bucketState_job (es : List Deposit) : (bucketState es).job 0 = bucketJob es := rfl

theorem bucketJob_type (es : List Deposit) : (bucketJob es).type = 0 := (show fld 0 3 0 = 0 by decide)

theorem bucketJob_grid (es : List Deposit) : (bucketJob es).grid = 0 :=
  (show fld 0 30 0 * fld 0 47 32 * fld 0 63 48 = 0 by decide)

theorem bucketState_ptOn (es : List Deposit) : (bucketState es).ptOn 0 = true := (show nbit (1 : W64).toNat 0 = true by decide)

theorem bucketState_nextBlocks (es : List Deposit) : (bucketState es).nextBlocks 0 = [.later 1 es] := by
  unfold State.nextBlocks
  dsimp only
  rw [bucketState_job, if_neg, if_neg (by rw [show (bucketState es).away 0 = [] from rfl]; exact Bool.false_ne_true), if_neg]
  · rfl
  · rw [bucketJob_grid]
    exact Nat.not_lt_zero _
  · rw [bucketJob_type, show (bucketJob es).fn = 0 from rfl, bucketState_ptOn]
    simp [bucketJob]

theorem bucketState_clOrder (es : List Deposit) : (bucketState es).clOrder 0 = [0] := by
  have hr : (bucketState es).clRange 0 = (0, 0) := (show (nfld (0 : W64).toNat 4 0, nfld (0 : W64).toNat 12 8) = (0, 0) by decide)
  unfold State.clOrder
  dsimp only
  rw [hr]
  rfl

theorem bucketState_launches (es : List Deposit) : (bucketState es).launches = [0] := by
  have h : (bucketState es).jobs.filter (fun e => e.2.type == 0 && e.2.phase == .started && !e.2.ended) = [(0, bucketJob es)] := by
    rw [show (bucketState es).jobs = [(0, bucketJob es)] from rfl, List.filter_cons_of_pos]
    · rfl
    · rw [bucketJob_type]
      rfl
  rw [State.launches, h]
  rfl

/-- The image of a team of 1,025 lanes. -/
theorem bucketJob_imageSize (es : List Deposit) : (bucketJob es).imageSize 1025 = 40960 := 
  (show ((4096 + (8 * (fld 0 34 30 + 1)) * ((1025 + 31) / 32) * 128 + ((8 * (fld 0 34 30 + 1)) * ((1025 + 31) / 32) * 4 + 127) / 128 * 128) + 4095) / 4096 * 4096 = 40960 by decide)

theorem bucketState_images (es : List Deposit) (h : es.length = 1025) : (bucketState es).images 0 (.later 1 es) none = some [4096] := by
  have hk : (bucketState es).images 0 (.later 1 es) none = (bucketState es).imagePlaces 1 0 ((bucketJob es).imageSize es.length) [] := rfl
  have hb : (bucketState es).regN 0 oCTXBASE = 4096 := rfl
  have hs : (bucketState es).regN 0 oCTXSIZE = 1048576 := rfl
  rw [hk, h, bucketJob_imageSize]
  simp only [State.imagePlaces, hb, hs]
  decide

theorem bucketState_spotAt (es : List Deposit) (h : es.length = 1025) :
    (bucketState es).spotAt 0 (.later 1 es) none 0 = some { what := .later 1 es, cluster := 0, base := 0, out := [], images := [4096] } := by
  have hr : SMap.get (bucketState es).rsvLow (0 / 6) false = false := rfl
  have hz : (bucketState es).scratchOf 0 (.later 1 es) = 0 := (show fld 0 55 43 * 128 = 0 by decide)
  rw [State.spotAt, hr, if_neg Bool.false_ne_true, bucketState_images es h, hz]
  rfl

theorem bucketState_spot (es : List Deposit) (h : es.length = 1025) :
    (bucketState es).spot 0 none = some { what := .later 1 es, cluster := 0, base := 0, out := [], images := [4096] } := by
  have hc : (bucketState es).clChoices 0 (.later 1 es) = [0] := bucketState_clOrder es
  have ht : (bucketState es).hasTurn ((bucketState es).job 0).fn 0 = true := rfl
  rw [State.spot, bucketState_nextBlocks, List.findSome?_cons, hc, List.findSome?_cons, if_pos ht, bucketState_spotAt es h]

theorem bucketState_placesNext (es : List Deposit) (h : es.length = 1025) : (bucketState es).placesNext = some 0 := by
  rw [State.placesNext, bucketState_launches, List.find?_cons, bucketState_spot es h]
  rfl

/-! What a bucket of more entries than a team has lanes leaves in its registers. -/

/-- An entry of stage 1 that carries `v`. -/
def plainDeposit (v : W64) : Deposit := { job := 0, stage := 1, key := 0, val := v, team := 0, die := 0, at_ := 0 }

theorem depositRegs_append (es : List Deposit) (d : Deposit) : depositRegs (es ++ [d]) =
    SMap.put (SMap.put (SMap.put (depositRegs es) (vkey 0 es.length) (BitVec.ofNat 32 d.val.toNat) 0) (vkey 1 es.length)
      (BitVec.ofNat 32 (d.val.toNat / 2 ^ 32)) 0) (vkey 2 es.length) (BitVec.ofNat 32 d.key.toNat) 0 := by
  unfold depositRegs
  rw [show (es ++ [d]).zip (upTo (es ++ [d]).length) = es.zip (upTo es.length) ++ [(d, es.length)] by
    rw [List.length_append, upTo, upTo, List.length_singleton, List.range_succ, List.zip_append (by rw [List.length_range])]
    rfl, List.foldl_append]
  rfl

/-- The entry after the 1,024th lands in lane 0 of the next register. -/
theorem get_depositRegs_spill (es : List Deposit) (d : Deposit) (h : es.length = 1024) :
    SMap.get (depositRegs (es ++ [d])) (vkey 1 0) 0 = BitVec.ofNat 32 d.val.toNat := by
  rw [depositRegs_append, h, SMap.get_put, SMap.get_put, SMap.get_put]
  rfl

/-! A new image's first writes leave the registers that its team was created with. -/

theorem State.zeroRange_cached (s : State) (lo hi : Nat) : s.Cached (s.zeroRange lo hi) := by
  unfold State.zeroRange
  dsimp only
  generalize hs : List.foldl _ s _ = s1
  have h1 : s.Apart s1 := by
    rw [← hs]
    refine State.Apart.foldl _ (fun s b => ?_) _ s
    have ht := s.touchFrame_apart (256 * b.1)
    split
    · split
      · exact ht.trans (State.addUsed_apart ..)
      · exact (ht.trans (State.freeStorage_apart ..)).trans (State.addUsed_apart ..)
    · exact ht
  refine (h1.cached.trans ?_).trans (State.clearLate_cached ..)
  exact State.Apart.cached rfl

theorem State.keepLines_booked (s : State) (i lo hi : Nat) : s.Booked (s.keepLines i lo hi) := State.setTeam_booked ⟨_, _, _, _, _, _, _, _, rfl⟩

theorem State.clearImage_booked (s : State) (i : Nat) : s.Booked (s.clearImage i) := by
  have put : ∀ (s : State) (f va n : Nat), s.Booked (if (s.imagePut f va (List.replicate n 0)).2 then (s.imagePut f va (List.replicate n 0)).1
      else (s.imagePut f va (List.replicate n 0)).1.keepLines i va (va + n)) := fun s f va n => by
    split
    · exact (s.imagePut_apart ..).cached.booked
    · exact (s.imagePut_apart ..).cached.booked.trans (State.keepLines_booked ..)
  have zero : ∀ (s : State) (f a lo hi lo' hi' : Nat), s.Booked (((s.dlAppend f a).dropLinesIn lo hi).zeroRange lo' hi') := fun s f a lo hi lo' hi' =>
    (((s.dlAppend_apart ..).cached.trans (State.dropLinesIn_cached ..)).trans (State.zeroRange_cached ..)).booked
  unfold State.clearImage
  dsimp only
  refine State.Booked.foldl _ (fun s e => ?_) _ s
  split
  · split
    · exact .refl s
    · split
      · exact s.keepLines_booked ..
      · split
        · exact zero ..
        · exact (zero ..).trans (put ..)
  · exact put ..
  · exact .refl s

theorem State.writeFirst_booked (s : State) (i : Nat) : s.Booked (s.writeFirst i) := by
  unfold State.writeFirst
  dsimp only
  split
  · exact .refl s
  · exact State.Booked.foldl _ (fun s e => (s.writeLine_lined ..).booked) _ s

theorem State.firstImage_v (s : State) (i : Nat) (t : Team) : (((((s.setTeam i t).clearImage i).writeControl i).writeFirst i).team i).v = t.v := by
  obtain ⟨-, -, hb⟩ := ((State.clearImage_booked (s.setTeam i t) i).trans (State.writeControl_booked _ i)).trans (State.writeFirst_booked _ i)
  obtain ⟨_, _, _, _, _, _, _, _, e⟩ := hb i
  rw [State.team_setTeam_same] at e
  rw [e]

/-- A bucket's only team holds what its deposits wrote to its registers. -/
theorem State.createBlock_later (s : State) (n : Nat) (p : Spot) {k a : Nat} {es : List Deposit} (hw : p.what = .later k es) (hi : p.images = [a]) :
    ((s.createBlock n p).team (SMap.freshKey s.teams)).v = depositRegs es := by
  unfold State.createBlock
  dsimp only
  rw [hw, hi, show [a].zip (upTo [a].length) = [(a, 0)] from rfl, List.foldl_cons, List.foldl_nil, Nat.add_zero]
  exact State.firstImage_v ..

theorem State.team_withFePrev (s : State) (m : SMap Nat) (i : Nat) : ({ s with fePrev := m } : State).team i = s.team i := rfl

theorem execBlockPlacement_later {s : State} {n : Nat} {c : Option Nat} {p : Spot} {k : Nat} {es : List Deposit} (hn : s.placesNext = some n)
    (hp : s.spot n c = some p) (ho : p.out = []) (hw : p.what = .later k es) :
    execBlockPlacement n c s = .next { (s.takeTurn (s.job n).fn p.cluster).createBlock n p with
      fePrev := SMap.put ((s.takeTurn (s.job n).fn p.cluster).createBlock n p).fePrev (s.job n).fn p.cluster 24 } := by
  rw [execBlockPlacement, if_neg (not_not.mpr hn), hp]
  dsimp only
  rw [ho, hw]
  rfl

/-- What the statement would say of a bucket with an entry more than a register has lanes. -/
theorem spill_of_blocksArePlaced (h : Obligations.BlocksArePlaced) {es : List Deposit} {d0 : Deposit} (d1 : Deposit) (hl : es.length = 1024)
    (h0 : es[0]? = some d0) : (BitVec.ofNat 32 d1.val.toNat).toNat = d0.val.toNat / 2 ^ 32 := by
  obtain ⟨h, -⟩ := h
  have hl1 : (es ++ [d1]).length = 1025 := by rw [List.length_append, hl, List.length_singleton]
  have hp := bucketState_spot _ hl1
  have hn := bucketState_placesNext _ hl1
  have h := h (bucketState (es ++ [d1])) 0 none _ hn hp
  simp only [List.foldl_nil, List.any_nil, Bool.false_eq_true, if_false] at h
  obtain ⟨-, -, h⟩ := h
  obtain ⟨u, hu, -, -, hv⟩ := h 1 (es ++ [d1]) rfl
  obtain ⟨-, hv, -⟩ := hv 0 4096 0 d0 rfl (by rw [List.getElem?_append_left (by omega), h0]) (by decide)
  have hex := execBlockPlacement_later hn hp rfl rfl
  rw [show execBlockPlacement 0 none (bucketState (es ++ [d1])) = .next u from hu] at hex
  injection hex with hex
  rw [hex] at hv
  rw [← get_depositRegs_spill es d1 hl]
  rwa [State.team_withFePrev, Nat.add_zero, Team.vr, State.createBlock_later _ _ _ rfl rfl] at hv

theorem exists_plainDeposits (n : Nat) (hn : 0 < n) : ∃ es : List Deposit, es.length = n ∧ es[0]? = some (plainDeposit 0) :=
  ⟨List.replicate n (plainDeposit 0), List.length_replicate, by rw [List.getElem?_replicate, if_pos hn]⟩

/-- Refutes O60: the statement is of every state, and in one whose next bucket has 1,025 entries the team has as many lanes where a register has 1,024
(05 R92): the payload of the last entry lands in lane 0 of v1, over what the statement asks for there. -/
theorem not_blocksArePlaced : ¬ Obligations.BlocksArePlaced := by
  intro h
  obtain ⟨es, hl, h0⟩ := exists_plainDeposits 1024 (Nat.zero_lt_succ _)
  exact absurd (spill_of_blocksArePlaced h (plainDeposit 1) hl h0) (by decide)

/-! The front end. -/

theorem SMap.find_drop_same {α : Type} (m : SMap α) (k : Nat) : SMap.find (SMap.drop m k) k = none := by
  induction m with
  | nil => rfl
  | cons e r ih =>
    obtain ⟨j, v⟩ := e
    rw [SMap.drop]
    split
    · exact ih
    · next h => rw [SMap.find, if_neg h, ih]

theorem bitsOf_succ (n : Nat) (p : Nat → Bool) : bitsOf (n + 1) p = bitsOf n p + bnat (p n) * 2 ^ n := by
  rw [bitsOf, upTo, List.range_succ, List.foldl_append]
  rfl

theorem bitsOf_lt (n : Nat) (p : Nat → Bool) : bitsOf n p < 2 ^ n := by
  induction n with
  | zero => exact Nat.one_pos
  | succ n ih =>
    rw [bitsOf_succ, pow_succ]
    cases p n <;> simp [bnat] <;> omega

theorem testBit_bitsOf {n i : Nat} (p : Nat → Bool) (h : i < n) : (bitsOf n p).testBit i = p i := by
  induction n with
  | zero => exact absurd h (Nat.not_lt_zero i)
  | succ n ih =>
    have hlt := bitsOf_lt n p
    rw [bitsOf_succ, Nat.add_comm]
    by_cases hi : i = n
    · subst hi
      cases hp : p i with
      | false =>
        simp only [bnat, Bool.false_eq_true, if_false, Nat.zero_mul, Nat.zero_add]
        exact Nat.testBit_lt_two_pow hlt
      | true =>
        simp only [bnat, if_true, Nat.one_mul]
        rw [Nat.testBit_two_pow_add_eq, Nat.testBit_lt_two_pow hlt]
        rfl
    · have hin : i < n := by omega
      cases hp : p n with
      | false =>
        simp only [bnat, Bool.false_eq_true, if_false, Nat.zero_mul, Nat.zero_add]
        exact ih hin
      | true =>
        simp only [bnat, if_true, Nat.one_mul]
        rw [Nat.testBit_two_pow_add_gt hin, ih hin]

/-! The memory a front end reads and writes. -/

section
variable {s t : State} (h : s.Cached t)
include h
theorem State.Cached.jobs : t.jobs = s.jobs := State.Apart.jobs (s := { s with coh := t.coh }) h
theorem State.Cached.blocks : t.blocks = s.blocks := State.Apart.blocks (s := { s with coh := t.coh }) h
theorem State.Cached.tails : t.tails = s.tails := State.Apart.tails (s := { s with coh := t.coh }) h
theorem State.Cached.appends : t.appends = s.appends := State.Apart.appends (s := { s with coh := t.coh }) h
theorem State.Cached.job_eq (n : Nat) : t.job n = s.job n := by rw [State.job, State.job, h.jobs]
end

theorem State.feRead_apart (s : State) (f va n : Nat) : s.Apart (s.feRead f va n).1 := by
  unfold State.feRead
  split
  · exact .refl s
  · exact s.vread_apart f va n

theorem State.feReach_apart (s : State) (f va n : Nat) : s.Apart (s.feReach f va n).1 := by
  unfold State.feReach
  refine State.Apart.foldl_fst _ (fun a e => ?_) _ (s, FeRead.ok [])
  split
  · exact a.1.walk_apart f e.1 true true
  · exact .refl a.1

theorem State.feWrite_cached (s : State) (f va : Nat) (bs : List Byte) : s.Cached (s.feWrite f va bs).1 := by
  have hr := (s.feReach_apart f va bs.length).cached
  unfold State.feWrite
  dsimp only
  split
  · split
    · exact hr
    · exact hr.trans (State.tryPut_cached ..)
  · exact hr

theorem State.withFeLines_cached (s : State) (l : List (Nat × Bool × Nat)) : s.Cached { s with feLines := l } := State.Apart.cached rfl

theorem State.holdLine_cached (s : State) (f va k : Nat) : s.Cached (s.holdLine f va k) := by
  have hw := (s.walk_apart f va true false).cached
  unfold State.holdLine
  dsimp only
  split
  · exact (hw.trans (State.touchEngine_cached ..)).trans (State.withFeLines_cached ..)
  · exact hw

theorem State.holdWaits_cached (s : State) (n : Nat) : s.Cached (s.holdWaits n) := .foldl _ (fun s _ => s.holdLine_cached ..) _ s

theorem State.waitCheck_apart (s : State) (j : Job) : s.Apart (s.waitCheck j).1 := by
  unfold State.waitCheck
  refine State.Apart.foldl_fst _ (fun a i => ?_) _ (s, Sum.inl true)
  split
  · exact .refl a.1
  · exact a.1.feRead_apart ..

theorem State.descTables_apart (s : State) (f q : Nat) (w : List W64) : s.Apart (s.descTables f q w).1 := by
  have hr := s.feRead_apart f (dw w 7).toNat (32 * fld (dw w 0) 42 39)
  unfold State.descTables
  split
  · exact .refl s
  · split
    · dsimp only
      split
      · split
        · exact hr
        · exact hr.trans (State.feRead_apart ..)
        · exact hr.trans (State.feRead_apart ..)
      · exact hr
    · dsimp only
      split
      · exact s.feReach_apart ..
      · exact s.feReach_apart ..
    · exact .refl s

theorem firstIdx_none {α : Type} {p : α → Bool} {l : List α} (h : ∀ a ∈ l, p a = false) : firstIdx p l = none := by
  induction l with
  | nil => rfl
  | cons a r ih =>
    rw [firstIdx, h a List.mem_cons_self, if_neg Bool.false_ne_true, ih (fun b hb => h b (List.mem_cons_of_mem _ hb))]
    rfl

/-- With no append to a queue there is none to advance. -/
theorem State.tryAppends_none (k : Nat) {s : State} {f q : Nat} (h : ∀ a ∈ s.appends, a.fn = f → a.level ≠ q) : s.tryAppends k f q = s := by
  cases k with
  | zero => rfl
  | succ k =>
    rw [State.tryAppends]
    split
    · rfl
    · rw [firstIdx_none (fun a ha => ?_)]
      by_cases hf : a.fn = f
      · simp [h a ha hf]
      · simp [hf]

/-! The events. -/

theorem State.withTails_appends (s : State) (m : SMap Nat) : ({ s with tails := m } : State).appends = s.appends := rfl

theorem execTailLineInvalidation_read {s t : State} {f q : Nat} {bs : List Byte} (hf : s.feFree f q = true)
    (hr : s.feRead f (s.regN f (oLQTAILA q)) 8 = (t, .ok bs)) (ha : ∀ a ∈ s.appends, a.fn = f → a.level ≠ q) :
    execTailLineInvalidation f q s = .next (({ t with tails := SMap.put t.tails (feKey f q) (leNat bs) 0 } : State).holdLine f (s.regN f (oLQTAILA q))
      (2 * feKey f q)) := by
  have hT := s.feRead_apart f (s.regN f (oLQTAILA q)) 8
  rw [hr] at hT
  rw [execTailLineInvalidation, hf, Bool.not_true, if_neg Bool.false_ne_true]
  dsimp only
  rw [hr]
  refine congrArg Host.Outcome.next (State.tryAppends_none _ ?_)
  rw [(State.holdLine_cached ..).appends, State.withTails_appends, hT.appends]
  exact ha

/-- What the taking of a descriptor that no check rejects leaves. -/
theorem State.takeDescriptor_waits {s : State} {f q : Nat} {w : List W64} {ds : List (List W64)}
    (hw : (s.feWrite f (s.lqSlot f q (s.regN f (oLQHEAD q))) (natLe 8 (setFld (dw w 0) 7 7 0).toNat)).2 ≠ .wait)
    (ha : ∀ a ∈ s.appends, a.fn = f → a.level ≠ q) :
    (s.takeDescriptor f q w ds 0).job (SMap.freshKey s.jobs) = { Job.blank with
      fn := f, level := q, num := s.regN f (oLQHEAD q), words := w, stages := ds, met := fld (dw w 0) 13 11 == 0 }
      ∧ (s.takeDescriptor f q w ds 0).teams = s.teams := by
  have hW := s.feWrite_cached f (s.lqSlot f q (s.regN f (oLQHEAD q))) (natLe 8 (setFld (dw w 0) 7 7 0).toNat)
  unfold State.takeDescriptor
  dsimp only
  rw [if_neg hw, if_pos rfl]
  generalize (s.feWrite f (s.lqSlot f q (s.regN f (oLQHEAD q))) (natLe 8 (setFld (dw w 0) 7 7 0).toNat)).1 = s1 at hW ⊢
  have hA := s1.addReg_apart f (oLQHEAD q) 1
  generalize s1.addReg f (oLQHEAD q) 1 = s2 at hA ⊢
  rw [State.tryAppends_none _ (s := State.setJob _ _ _) (by rw [← hW.appends, ← hA.appends] at ha; exact ha)]
  exact ⟨SMap.get_put_same .., hA.teams.trans hW.teams⟩

theorem execLaunchDescriptor_due {s : State} {n : Nat} (h : s.startReady n 0 = true) : ∃ u, execLaunchDescriptor n s = .next u
    ∧ u.job n = { s.job n with phase := .started, order := s.orders } ∧ u.orders = s.orders + 1
    ∧ ((s.job n).sgmode ≠ 0 → ∀ i, i < 64 → (s.job n).carries i = true →
        (u.group (s.groupKey (s.job n).fn (s.job n).groupNo)).launched.getLsbD i = true) := by
  rw [execLaunchDescriptor, h, if_neg (by decide)]
  refine ⟨_, rfl, ?_⟩
  split
  · next h0 => exact ⟨SMap.get_put_same .., rfl, fun hne => absurd h0 hne⟩
  · refine ⟨SMap.get_put_same .., rfl, fun _ i hi hc => ?_⟩
    rw [State.group, State.setGroup]
    refine (congrArg (fun g : Group => g.launched.getLsbD i) (SMap.get_put_same ..)).trans ?_
    dsimp only
    rw [BitVec.getLsbD_or, BitVec.getLsbD_ofNat, testBit_bitsOf _ hi, hc, decide_eq_true hi, Bool.and_true, Bool.or_true]

/-- A completed descriptor is gone, with its blocks and teams. -/
theorem State.reportDone_gone (s : State) (n : Nat) :
    SMap.find (s.reportDone n).jobs n = none ∧ (∀ t ∈ (s.reportDone n).teams, t.2.job ≠ n) ∧ ∀ b ∈ (s.reportDone n).blocks, b.2.job ≠ n := by
  unfold State.reportDone State.dropJob
  refine ⟨SMap.find_drop_same .., fun t ht => ?_, fun b hb => ?_⟩
  · have := (List.mem_filter.mp ht).2
    simpa using this
  · have := (List.mem_filter.mp hb).2
    simpa using this

theorem State.completeJob_plain {s : State} {n : Nat} (h : fld ((s.job n).word 8) 56 0 = 0 ∨ (s.job n).noDone = true) : s.completeJob n = s.reportDone n := by
  unfold State.completeJob
  dsimp only
  rw [if_pos h]

/-- Settles O44: each of a front end's events acts where it is due. -/
theorem frontEndEvents : Obligations.FrontEndEvents := by
  unfold Obligations.FrontEndEvents
  refine fun s => ⟨fun f q bs t hf hr ha => ?_, fun f q bs t hc hr => ?_, fun n t b hh hw hc => ?_, fun n h => ?_, fun n h => ?_⟩
  · have hT := s.feRead_apart f (s.regN f (oLQTAILA q)) 8
    rw [hr] at hT
    have hL := State.holdLine_cached ({ t with tails := SMap.put t.tails (feKey f q) (leNat bs) 0 } : State) f (s.regN f (oLQTAILA q)) (2 * feKey f q)
    refine ⟨_, execTailLineInvalidation_read hf hr ha, ?_, hL.jobs.trans hT.jobs, hL.teams.trans hT.teams⟩
    rw [hL.tails]
    exact SMap.get_put_same ..
  · have hT := s.feRead_apart f (s.lqSlot f q (s.regN f (oLQHEAD q))) 256
    rw [hr] at hT
    have hex : exec (.descriptorConsume f q) s = execDescriptorConsume f q s := rfl
    rw [execDescriptorConsume, hc, if_neg (by decide)] at hex
    dsimp only at hex
    rw [hr] at hex
    dsimp only at hex
    refine ⟨fun hb => ?_, fun hb hst => ?_, fun x ds hb hst hx ha hown => ?_⟩
    · rw [hb, Bool.not_false, if_pos rfl] at hex
      have hL := t.holdLine_cached f (s.lqSlot f q (s.regN f (oLQHEAD q))) (2 * feKey f q + 1)
      exact ⟨_, hex, hL.jobs.trans hT.jobs, hL.tails.trans hT.tails, hL.teams.trans hT.teams⟩
    · rw [hb, Bool.not_true, if_neg Bool.false_ne_true, if_pos (show t.descStatus f _ ≠ 0 from hst)] at hex
      exact hex
    · have hX := t.descTables_apart f q (leWords 32 bs)
      rw [show t.descTables f q _ = _ from hx] at hX
      rw [hb, Bool.not_true, if_neg Bool.false_ne_true, if_neg (not_not.mpr (show t.descStatus f _ = 0 from hst)), show t.descTables f q _ = _ from hx] at hex
      obtain ⟨hj, ht⟩ := State.takeDescriptor_waits (ds := ds) hown (by rw [hX.appends, hT.appends]; exact ha)
      rw [hX.jobs, hT.jobs] at hj
      exact ⟨_, hex, hj, ht.trans (hX.teams.trans hT.teams)⟩
  · have hT := s.waitCheck_apart (s.job n)
    rw [hc] at hT
    have hex : exec (.waitCounterWrite n) s = execWaitCounterWrite n s := rfl
    rw [execWaitCounterWrite, hh, hw, if_neg (by decide)] at hex
    dsimp only at hex
    rw [hc] at hex
    have hL := (t.setJob n { s.job n with met := b }).holdWaits_cached n
    refine ⟨_, hex, ?_, hL.teams.trans hT.teams⟩
    rw [hL.job_eq]
    exact SMap.get_put_same ..
  · exact execLaunchDescriptor_due h
  · have hex : exec (.launchCompletion n) s = execLaunchCompletion n s := rfl
    rw [execLaunchCompletion, if_pos h] at hex
    refine ⟨hex, fun hd => ?_⟩
    rw [State.completeJob_plain hd]
    exact s.reportDone_gone n

end Sys2Proof.Machine
end

section
/-!
Events of the engines, the Spires, the Campanile and the commands (11 R217; 15 R256, R271; 17 R277–R296; 19 R303, R310–R321; 21 R335).
-/
namespace Sys2Proof.Machine

/-! Sorted lists. -/

theorem mem_insertBy {α : Type} (lt : α → α → Bool) (x y : α) (l : List α) : y ∈ insertBy lt x l ↔ y = x ∨ y ∈ l := by
  induction l with
  | nil => simp [insertBy]
  | cons z r ih =>
    rw [insertBy]
    split
    · rw [List.mem_cons]
    · rw [List.mem_cons, ih, List.mem_cons]
      tauto

theorem mem_sortBy {α : Type} (lt : α → α → Bool) (y : α) (l : List α) : y ∈ sortBy lt l ↔ y ∈ l := by
  have key : ∀ (l a : List α), y ∈ l.foldl (fun acc x => insertBy lt x acc) a ↔ y ∈ a ∨ y ∈ l := by
    intro l
    induction l with
    | nil => simp
    | cons x r ih =>
      intro a
      rw [List.foldl_cons, ih, mem_insertBy, List.mem_cons]
      tauto
  rw [sortBy, key]
  simp

/-! Trial runs of the engines. -/

theorem State.newAsks_cached (s : State) (is : List Instr) : s.Cached (s.newAsks is) := .foldl _ State.sendMsg_cached _ s

section
variable {s t : State} (h : s.Cached t)
include h
theorem State.Cached.queues : t.queues = s.queues := State.Apart.queues (s := { s with coh := t.coh }) h
theorem State.Cached.qreqs : t.qreqs = s.qreqs := State.Apart.qreqs (s := { s with coh := t.coh }) h
theorem State.Cached.queue_eq (k : Nat) : t.queue k = s.queue k := by rw [State.queue, State.queue, h.queues]
end

/-- The queues, their requests and the replies are those of the engine's trial. -/
theorem State.unquiet_kept (s e : State) : (s.unquiet e).queues = e.queues ∧ (s.unquiet e).replies = e.replies ∧ (s.unquiet e).qreqs = e.qreqs := by
  have h := State.newAsks_cached ({ e with who := s.who, coh := { e.coh with net := s.coh.net, waiting := s.coh.waiting, txns := s.coh.txns } } : State)
    e.coh.net
  exact ⟨h.queues, h.replies, h.qreqs⟩

theorem State.refill_replies (n : Nat) (s : State) (k : Nat) : (s.refill n k).replies = s.replies := by
  induction n generalizing s with
  | zero => rfl
  | succ n ih =>
    rw [State.refill]
    dsimp only
    split
    · rfl
    · split
      · rfl
      · have hw := (s.walk_apart (s.queue k).vf ((s.queue k).entry (s.queue k).ringHead) true false).cached
        split
        · rw [ih]
          refine (State.touchEngine_cached ..).replies.trans ?_
          split
          · exact (hw.trans (State.useFresh_apart _).cached).replies
          · exact hw.replies
        · split
          · exact hw.replies
          · exact (State.addFault_cached ..).replies.trans hw.replies
        · exact hw.replies

theorem State.wakeHeld_calm (s : State) (i : Nat) : s.Calm (s.wakeHeld i) := by
  unfold State.wakeHeld
  dsimp only
  split
  · exact .refl s
  · split
    · exact (State.Calm.setTeam ..).trans (State.unpark_calm ..)
    · exact .setTeam ..

theorem State.Calm.queue_eq {s t : State} (h : s.Calm t) (k : Nat) : t.queue k = s.queue k :=
  State.Apart.queue_eq (s := { s with teams := t.teams }) h k

/-! The events. -/

theorem execOculusMerge_round {s : State} {b r : Nat} (h : s.credRound b = some r) : ∃ u, execOculusMerge b s = .next u
    ∧ (u.block b).cred = (s.block b).cred.filter (fun e => e.round != r)
    ∧ ∀ d ∈ (s.block b).cred, d.round = r → d.lanes ≠ [] → ∃ p ∈ u.replies, p.team = d.team ∧ p.set = 4 := by
  rw [execOculusMerge, h]
  refine ⟨_, rfl, congrArg Block.cred (State.block_setBlock_same ..), fun d hd hr hl => ?_⟩
  have hm : d ∈ sortBy (fun x y => decide ((s.team x.team).teamid < (s.team y.team).teamid)) ((s.block b).cred.filter (fun e => e.round == r)) :=
    (mem_sortBy ..).mpr (List.mem_filter.mpr ⟨hd, by simpa using hr⟩)
  exact ⟨_, List.mem_append_right _ (List.mem_map_of_mem (List.mem_filter.mpr ⟨hm, by simpa using hl⟩)), rfl, rfl⟩

theorem execCopyRow_core {s : State} {id r : Nat} {rest : List Nat} {c : CopyReq} (hc : s.copyOfId id = some c) (hr : s.copyReady id = true)
    (ht : c.todo = r :: rest) (hq : c.qmc = true) : execCopyRow id s = .next (s.qmcRow c r) := by
  rw [execCopyRow, hc]
  dsimp only
  rw [hr, ht, Bool.not_true, if_neg Bool.false_ne_true]
  exact if_pos hq

/-- A copy's row whose source bytes are there: written where the die owns its place, else asked for. -/
theorem execCopyRow_table {s : State} {id r : Nat} {rest : List Nat} {c : CopyReq} {y : State} {bs : List Byte} (hc : s.copyOfId id = some c)
    (hr : s.copyReady id = true) (ht : c.todo = r :: rest) (hq : c.qmc = false)
    (hy : ((s.quiet (c.core + 1)).copySource c r).1.copyRead c ((s.quiet (c.core + 1)).copySource c r).2 = (y, .inl bs)) :
    let e := y.copyWrite c r bs (if ((s.quiet (c.core + 1)).copySource c r).2 = .absent then 1 else 0)
    execCopyRow id s = .next ((s.trialWaits e c.vf).getD (s.unquiet e)) := by
  rw [execCopyRow, hc]
  dsimp only
  rw [hr, ht, hq, Bool.not_true, if_neg Bool.false_ne_true]
  dsimp only
  rw [if_neg Bool.false_ne_true, hy]
  dsimp only
  cases s.trialWaits _ c.vf <;> rfl

theorem State.tried_next {s e : State} {f : Nat} (h : s.trialWaits e f = none) :
    (Host.Outcome.next (match s.trialWaits e f with | some w => w | none => s.unquiet e) : Host.Outcome State Fault Refusal) = .next (s.unquiet e) := by
  rw [h]

/-- A push that its queue's head buffer takes. -/
theorem execPushAccept_head {s : State} {n : Nat} {r : QReq} (hr : s.qreqs[n]? = some r) (hp : s.pushReady n = true) :
    let s0 := (s.quiet 0).refill 64 r.queue
    let q := s0.queue r.queue
    let x := s0.pushFinds n r
    let y : State := { x.1.setQueue r.queue { q with head := q.head ++ [r.val], pushes := q.pushes + 1 } with qreqs := dropAt x.1.qreqs n }
    let e := (if y.qreqs.any (fun e => e.kind == 0 && e.ins == r.ins) then y else y.account r.team 1 0 0).wakeHeld r.team
    q.refilling = false → x.2 = .head → s.trialWaits e r.vf = none → execPushAccept n s = .next (s.unquiet e) ∧ e.queue r.queue = { q with
      head := q.head ++ [r.val], pushes := q.pushes + 1 } := by
  intro s0 q x y e hf hx hw
  have hy : y.queue r.queue = { q with head := q.head ++ [r.val], pushes := q.pushes + 1 } := SMap.get_put_same ..
  have he : e.queue r.queue = y.queue r.queue := by
    rw [show e.queue r.queue = _ from (State.wakeHeld_calm _ r.team).queue_eq r.queue]
    split
    · rfl
    · exact (State.account_calm ..).queue_eq _
  refine ⟨?_, he.trans hy⟩
  rw [execPushAccept, hr]
  dsimp only
  rw [hp, Bool.not_true, if_neg Bool.false_ne_true, show (State.queue _ r.queue).refilling = false from hf, if_neg Bool.false_ne_true,
    show (State.pushFinds _ n r).2 = .head from hx]
  exact State.tried_next hw

theorem execPopServe_stat {s : State} {n : Nat} {r : QReq} (hr : s.qreqs[n]? = some r) (hp : s.popReady n = true) (hk : r.kind = 2) :
    execPopServe n s = .next { s with qreqs := dropAt s.qreqs n,
                                      replies := s.replies ++ [r.reply [.s r.dst (BitVec.ofNat 64 (s.queueStat r.queue r.val.toNat))]] } := by
  rw [execPopServe, hr]
  dsimp only
  rw [hp, Bool.not_true, if_neg Bool.false_ne_true, if_pos hk]

/-- A pop of a queue that has an entry, or none. -/
theorem execPopServe_pop {s : State} {n : Nat} {r : QReq} (hr : s.qreqs[n]? = some r) (hp : s.popReady n = true) (hk : r.kind ≠ 2) :
    (((s.quiet 0).refill 64 r.queue).queue r.queue).head = [] → ∃ u, execPopServe n s = .next (s.unquiet u)
      ∧ u.replies = ((s.quiet 0).refill 64 r.queue).replies ++
            [r.reply (dstsOf r.uni .n64 r.dst r.lane r.val.toNat ++ pairDsts r.uni r.pd r.pe r.lane false true)] := by
  intro hh
  have hex : execPopServe n s = execPopServe n s := rfl
  conv_rhs at hex =>
    rw [execPopServe, hr]
    dsimp only
    rw [hp, Bool.not_true, if_neg Bool.false_ne_true, if_neg hk, hh]
  exact ⟨_, hex, rfl⟩

theorem execPopServe_entry {s : State} {n : Nat} {r : QReq} {x : W64} {rest : List W64} (hr : s.qreqs[n]? = some r) (hp : s.popReady n = true)
    (hk : r.kind ≠ 2) (hh : (((s.quiet 0).refill 64 r.queue).queue r.queue).head = x :: rest) : ∃ u, execPopServe n s = .next (s.unquiet u)
      ∧ r.reply (dstsOf r.uni .n64 r.dst r.lane x.toNat ++ pairDsts r.uni r.pd r.pe r.lane true false) ∈ u.replies := by
  have hex : execPopServe n s = execPopServe n s := rfl
  conv_rhs at hex =>
    rw [execPopServe, hr]
    dsimp only
    rw [hp, Bool.not_true, if_neg Bool.false_ne_true, if_neg hk, hh]
  refine ⟨_, hex, ?_⟩
  dsimp only
  rw [State.refill_replies]
  exact List.mem_append_right _ List.mem_cons_self

/-- Settles O45: each of the engines' events acts where it is due. -/
theorem engineEvents : Obligations.EngineEvents := by
  unfold Obligations.EngineEvents
  refine ⟨fun s => ⟨fun core part i r ha hw => ?_, fun b r h => execOculusMerge_round h, fun id c r rest hc hr ht => ⟨fun hq => execCopyRow_core hc hr ht hq,
    fun x y bs hq hx hy => ?_⟩⟩, fun s => ⟨fun n r hr hp => ?_, fun n r hr hp hk => ⟨_, execPopServe_stat hr hp hk, rfl, rfl⟩, fun n r hr hp hk hh => ?_,
    fun n r x rest hr hp hk hh => ?_, fun n d hd hr => ?_, fun n k b h => ?_, fun n k h => ?_⟩⟩
  · intro t0 s1 tile
    show execMmaArrayExecution core part s = _
    rw [execMmaArrayExecution, ha]
    exact if_neg (by rw [hw]; exact Bool.false_ne_true)
  · subst hx
    have h := execCopyRow_table hc hr ht hq hy
    intro e
    refine ⟨fun hw => ?_, fun w hw => ?_⟩
    · exact h.trans (by rw [show s.trialWaits _ c.vf = none from hw]; rfl)
    · exact h.trans (by rw [show s.trialWaits _ c.vf = some w from hw]; rfl)
  · intro s0 q x y e hf hx hw
    obtain ⟨h, hq⟩ := execPushAccept_head hr hp hf hx hw
    obtain ⟨hqs, -, -⟩ := s.unquiet_kept e
    have hu : (s.unquiet e).queue r.queue = e.queue r.queue := congrArg (fun m => SMap.get m r.queue Queue.blank) hqs
    rw [show e.queue r.queue = _ from hq] at hu
    exact ⟨_, h, rfl, by rw [show (s.unquiet e).queue r.queue = _ from hu], by rw [show (s.unquiet e).queue r.queue = _ from hu],
      by rw [show (s.unquiet e).queue r.queue = _ from hu]⟩
  · obtain ⟨u, h, hu⟩ := execPopServe_pop hr hp hk hh
    exact ⟨_, h, (s.unquiet_kept u).2.1.trans hu⟩
  · obtain ⟨u, h, hu⟩ := execPopServe_entry hr hp hk hh
    obtain ⟨-, hrep, -⟩ := s.unquiet_kept u
    exact ⟨_, h, by rw [hrep]; exact hu⟩
  · intro s1 j
    show execRdxDepositArrival n s = _
    rw [execRdxDepositArrival, hd]
    dsimp only
    rw [hr, Bool.not_true, if_neg Bool.false_ne_true]
    exact (apply_ite Host.Outcome.next ..).symm
  · show execBucketFlush n k b s = _
    rw [execBucketFlush, if_pos h]
  · show execStageDrain n k s = _
    rw [execStageDrain, if_pos h]

/-! Reads do not see the requests of the Campanile. -/

/-- A state with other requests of the Campanile. -/
def State.withPosts (s : State) (l : List Post) : State := { s with posts := l }

section
variable (s : State) (l : List Post)

theorem State.foldl_withPosts {α : Type} (g : State → α → State) (h : ∀ (s : State) (a : α), g (s.withPosts l) a = (g s a).withPosts l) (as : List α) :
    as.foldl g (s.withPosts l) = (as.foldl g s).withPosts l := by
  induction as generalizing s with
  | nil => rfl
  | cons a r ih => rw [List.foldl_cons, h, ih, List.foldl_cons]

theorem State.ite_withPosts (c : Prop) [Decidable c] (a b : State) : (if c then a else b).withPosts l = (if c then a.withPosts l else b.withPosts l) :=
  apply_ite (fun s : State => s.withPosts l) c a b

theorem State.addReg_withPosts (f o : Nat) (v : W64) : (s.withPosts l).addReg f o v = (s.addReg f o v).withPosts l := rfl

theorem State.addUsed_withPosts (a : Nat) (up : Bool) : (s.withPosts l).addUsed a up = (s.addUsed a up).withPosts l := by
  have ho : (s.withPosts l).ownerOf a = s.ownerOf a := rfl
  rw [State.addUsed, State.addUsed, ho]
  cases s.ownerOf a with
  | none => rfl
  | some f =>
    dsimp only
    rw [State.ite_withPosts, State.addReg_withPosts, State.addReg_withPosts]
    exact rfl

theorem State.freeStorage_withPosts (d : Nat) : (s.withPosts l).freeStorage d = (s.freeStorage d).withPosts l := by
  rw [State.freeStorage, State.freeStorage, State.ite_withPosts]
  exact rfl

theorem State.takeStorage_withPosts (d : Nat) : (s.withPosts l).takeStorage d = (s.takeStorage d).withPosts l := by
  rw [State.takeStorage, State.takeStorage, State.ite_withPosts]
  exact rfl

theorem State.writeDev_withPosts (a : Nat) (bs : List Byte) : (s.withPosts l).writeDev a bs = (s.writeDev a bs).withPosts l := by
  have ho : (s.withPosts l).slotAddr a = s.slotAddr a := rfl
  rw [State.writeDev, State.writeDev, ho]
  cases s.slotAddr a <;> rfl

theorem State.blockPut_withPosts (da : Nat) (bs : List Byte) (cmp : Bool) : (s.withPosts l).blockPut da bs cmp = (s.blockPut da bs cmp).withPosts l := by
  have hb : (s.withPosts l).blkOf da = s.blkOf da := rfl
  have hf : (s.withPosts l).frameOf da = s.frameOf da := rfl
  rw [State.blockPut, State.blockPut, hb, hf]
  cases blkMove (s.blkOf da) da bs cmp with
  | keep => rfl
  | uniform w =>
    dsimp only
    rw [State.ite_withPosts, ← State.addUsed_withPosts, State.ite_withPosts, ← State.freeStorage_withPosts]
    exact rfl
  | inPlace =>
    dsimp only
    rw [State.writeDev_withPosts]
    exact rfl
  | expand =>
    dsimp only
    rw [State.ite_withPosts, ← State.addUsed_withPosts, ← State.addUsed_withPosts, ← State.writeDev_withPosts, ← State.writeDev_withPosts,
      ← State.takeStorage_withPosts, ← State.writeDev_withPosts]
    exact rfl

theorem State.touchFrame_withPosts (a : Nat) : (s.withPosts l).touchFrame a = (s.touchFrame a).withPosts l := rfl

theorem State.rawPut_withPosts (da : Nat) (bs : List Byte) : (s.withPosts l).rawPut da bs = (s.rawPut da bs).withPosts l := by
  refine State.foldl_withPosts s l _ (fun s e => ?_) _
  dsimp only
  rw [State.touchFrame_withPosts, State.ite_withPosts, State.blockPut_withPosts]
  exact rfl

theorem State.dlAppend_withPosts (f da : Nat) : (s.withPosts l).dlAppend f da = (s.dlAppend f da).withPosts l := by
  have hs : (if (s.withPosts l).dlOn f then (s.withPosts l).touchFrame ((s.withPosts l).regN f oDBMAP + (s.withPosts l).dlFrame f da / 8) else s.withPosts l)
      = (if s.dlOn f then s.touchFrame (s.regN f oDBMAP + s.dlFrame f da / 8) else s).withPosts l := by
    rw [State.ite_withPosts]
    exact rfl
  rw [State.dlAppend, State.dlAppend]
  dsimp only
  rw [hs]
  generalize (if s.dlOn f then s.touchFrame (s.regN f oDBMAP + s.dlFrame f da / 8) else s) = s1
  rw [State.ite_withPosts, ← State.addReg_withPosts, ← State.rawPut_withPosts, ← State.rawPut_withPosts]
  exact rfl

theorem State.putPart_withPosts (f : Nat) (p : Part) : (s.withPosts l).putPart f p = (s.putPart f p).withPosts l := by
  rw [State.putPart, State.putPart]
  rw [State.ite_withPosts, ← State.blockPut_withPosts, ← State.dlAppend_withPosts]
  exact rfl

theorem State.touchFrames_withPosts (ps : List Part) :
    ps.foldl (fun s p => s.touchFrame p.addr) (s.withPosts l) = (ps.foldl (fun s p => s.touchFrame p.addr) s).withPosts l :=
  State.foldl_withPosts s l _ (fun s p => s.touchFrame_withPosts l p.addr) ps

theorem State.holdWrite_withPosts (f : Nat) (ps : List Part) (w : Writer) (log : Bool) (va : Nat) (op : HeldOp) :
    (s.withPosts l).holdWrite f ps w log va op = (s.holdWrite f ps w log va op).withPosts l := rfl

theorem State.storeParts_withPosts (f : Nat) (ps : List Part) (ctx : Bool) (w : Writer) (va : Nat) (op : HeldOp) :
    (s.withPosts l).storeParts f ps ctx w va op = ((s.storeParts f ps ctx w va op).1.withPosts l, (s.storeParts f ps ctx w va op).2) := by
  have hput : ∀ s : State, (s.withPosts l).putParts f ps = (s.putParts f ps).withPosts l := fun s =>
    State.foldl_withPosts s l _ (fun s p => s.putPart_withPosts l f p) ps
  have hask : ∀ (s : State) (ds : List Nat), ds.foldl State.askRound (s.withPosts l) = (ds.foldl State.askRound s).withPosts l := fun s ds =>
    State.foldl_withPosts s l _ (fun _ _ => rfl) ds
  have hc : ∀ (c : Prop) [Decidable c] (a b : State × Stored), ((if c then a else b).1.withPosts l, (if c then a else b).2)
      = if c then (a.1.withPosts l, a.2) else (b.1.withPosts l, b.2) := fun c _ a b => by split <;> rfl
  rw [State.storeParts, State.storeParts, State.storeWith, State.storeWith, State.touchFrames_withPosts]
  rw [hc, hc, hc, hc, ← hput, ← hask, ← State.holdWrite_withPosts, ← State.holdWrite_withPosts, ← State.holdWrite_withPosts]
  exact rfl

theorem State.setAccessed_withPosts (f ea e : Nat) : (s.withPosts l).setAccessed f ea e = (s.setAccessed f ea e).withPosts l := by
  rw [State.setAccessed, State.setAccessed, State.storeParts_withPosts]
  dsimp only
  rw [State.ite_withPosts, State.ite_withPosts]
  exact rfl

theorem State.useLeaf_withPosts (f va ea e lvl : Nat) (fill : Bool) (da : Option Nat) :
    (s.withPosts l).useLeaf f va ea e lvl fill da = (s.useLeaf f va ea e lvl fill da).withPosts l := by
  have hl : ∀ (s : State) (x : Nat × Nat), (s.withPosts l).cacheLeaf f va x = (s.cacheLeaf f va x).withPosts l := fun s x => by
    rw [State.cacheLeaf, State.cacheLeaf, State.ite_withPosts]
    exact rfl
  unfold State.useLeaf
  rw [State.ite_withPosts, ← hl, ← State.setAccessed_withPosts]
  cases da <;> exact rfl

theorem State.leafFor_withPosts (f va : Nat) : (s.withPosts l).leafFor f va = ((s.leafFor f va).1.withPosts l, (s.leafFor f va).2) := by
  have hf : ∀ root lvl, (s.withPosts l).findLeaf f va root lvl 4 = s.findLeaf f va root lvl 4 := fun _ _ => rfl
  have hr : (s.withPosts l).rootOf f = s.rootOf f := rfl
  have ha : (s.withPosts l).agent = s.agent := rfl
  have ht : (s.withPosts l).tlb = s.tlb := rfl
  have hn : (s.withPosts l).fresh = s.fresh := rfl
  rw [State.leafFor, State.leafFor, hf, hr, ha, ht, hn]
  cases (if s.agent = 0 then none else SMap.find s.tlb (tlbKey s.agent f va)) with
  | none => rfl
  | some c =>
    dsimp only
    cases s.findLeaf f va (s.rootOf f) 0 4 with
    | inl x => dsimp only; split_ifs <;> rfl
    | inr c => dsimp only; split_ifs <;> rfl

theorem State.walk_withPosts (f va : Nat) (rd wr : Bool) : (s.withPosts l).walk f va rd wr = ((s.walk f va rd wr).1.withPosts l, (s.walk f va rd wr).2) := by
  have h0 : (s.withPosts l).regN f oPTROOT = s.regN f oPTROOT := rfl
  rw [State.walk, State.walk, State.leafFor_withPosts, h0]
  split_ifs
  · rfl
  · dsimp only
    generalize s.leafFor f va = r
    have hs : (if r.2.2 then ((r.1.withPosts l).leafPath f va ((r.1.withPosts l).rootOf f) 0 4).foldl State.touchFrame (r.1.withPosts l) else r.1.withPosts l)
        = (if r.2.2 then (r.1.leafPath f va (r.1.rootOf f) 0 4).foldl State.touchFrame r.1 else r.1).withPosts l := by
      rw [State.ite_withPosts, ← State.foldl_withPosts r.1 l State.touchFrame (fun _ _ => rfl)]
      exact rfl
    rw [hs]
    generalize (if r.2.2 then (r.1.leafPath f va (r.1.rootOf f) 0 4).foldl State.touchFrame r.1 else r.1) = s1
    have hn : ∀ g, (s1.withPosts l).inNcwin f g = s1.inNcwin f g := fun _ => rfl
    have hx : ∀ g, (s1.withPosts l).sysReach f g = s1.sysReach f g := fun _ => rfl
    have hg : ∀ o, (s1.withPosts l).regN f o = s1.regN f o := fun _ => rfl
    cases r.2.1 with
    | inr c => rfl
    | inl x =>
      dsimp only
      simp only [hn, hx, hg, State.useLeaf_withPosts]
      split_ifs <;> rfl

theorem State.foldl_withPosts_pair {α β : Type} (g : State × β → α → State × β)
    (h : ∀ (s : State) (b : β) (x : α), g (s.withPosts l, b) x = ((g (s, b) x).1.withPosts l, (g (s, b) x).2)) (xs : List α) (b : β) :
    xs.foldl g (s.withPosts l, b) = ((xs.foldl g (s, b)).1.withPosts l, (xs.foldl g (s, b)).2) := by
  induction xs generalizing s b with
  | nil => rfl
  | cons x r ih => rw [List.foldl_cons, h, ih, List.foldl_cons]

theorem State.vread_withPosts (f va n : Nat) : ((s.withPosts l).vread f va n).2 = (s.vread f va n).2 := by
  have hr : ∀ (s : State) t k, (s.withPosts l).readTr t k = s.readTr t k := fun _ _ _ => rfl
  unfold State.vread
  refine Eq.trans (congrArg Prod.snd (State.foldl_withPosts_pair s l _ (fun s b e => ?_) _ (VRead.ok [] false))) rfl
  cases b with
  | ok bs p =>
    dsimp only
    rw [State.walk_withPosts]
    cases (s.walk f e.1 true false).2 with
    | ok t => simp only [hr]
    | fault c => rfl
    | perm => rfl
  | _ => rfl

theorem State.vword_withPosts (f va : Nat) : (s.withPosts l).vword f va = s.vword f va := by
  rw [State.vword, State.vword, State.vread_withPosts]

/-- What SGPOLL answers of a group does not depend on the requests that are still to be answered. -/
theorem State.pollGroup_withPosts (k sel : Nat) (word : W64) : (s.withPosts l).pollGroup k sel word = s.pollGroup k sel word := by
  have hg : (s.withPosts l).group k = s.group k := rfl
  unfold State.pollGroup
  simp only [hg, State.vword_withPosts]
end
/-! Spires and the Campanile. -/

/-- A batch whose L2 owns what it writes. -/
theorem execSpireBatch_goes {s : State} {n : Nat} {b : Batch} (hb : s.batches[n]? = some b) (hr : s.spireReady n = true) :
    let e := spBatch b (s.quiet (Config.cores + 1 + (b.target s).2))
    let w := s.unquiet e.s
    s.trialWaits e.s b.vf = none → ∃ u, execSpireBatch n s = .next u ∧ u.batches = dropAt w.batches n
      ∧ u.verdicts = w.verdicts ++ [{ batch := b, out := e.out }]
      ∧ (e.out = .accepted → ∃ r, u.replies.getLast? = some r ∧ r.team = b.team ∧ r.dsts = e.dsts) := by
  intro e w hw
  have hex : execSpireBatch n s = execSpireBatch n s := rfl
  conv_rhs at hex =>
    rw [execSpireBatch, hb]
    dsimp only
    rw [hr, Bool.not_true, if_neg Bool.false_ne_true, show s.trialWaits (spBatch b _).s b.vf = none from hw]
    dsimp only
  rcases ho : e.out with _ | _ | _ | _ | _
  all_goals rw [show (spBatch b (s.quiet (Config.cores + 1 + (b.target s).2))).out = _ from ho] at hex
  · exact ⟨_, hex, rfl, rfl, fun _ => ⟨_, List.getLast?_concat .., rfl, rfl⟩⟩
  all_goals exact ⟨_, hex, rfl, rfl, fun h => nomatch h⟩

theorem execSpireBatch_waits {s x : State} {n : Nat} {b : Batch} (hb : s.batches[n]? = some b) (hr : s.spireReady n = true)
    (hx : s.trialWaits (spBatch b (s.quiet (Config.cores + 1 + (b.target s).2))).s b.vf = some x) : execSpireBatch n s = .next x := by
  rw [execSpireBatch, hb]
  dsimp only
  rw [hr, Bool.not_true, if_neg Bool.false_ne_true, hx]

theorem execCampanilePost_answers {s : State} {n : Nat} {p : Post} (hp : s.posts[n]? = some p) (hr : s.postReady n = true) :
    ∃ u r, execCampanilePost n s = .next u ∧ u.replies.getLast? = some r ∧ r.team = p.team ∧ r.set = 5 ∧ r.due = s.clock.toNat + 80
        ∧ (p.kind = 1 → r.dsts = [.s p.dst (s.pollGroup (s.groupKey p.vf p.group) p.sel p.word)]) := by
  have hex : execCampanilePost n s = execCampanilePost n s := rfl
  conv_rhs at hex =>
    rw [execCampanilePost, hp]
    dsimp only
    rw [hr, Bool.not_true, if_neg Bool.false_ne_true]
  refine ⟨_, _, hex, List.getLast?_concat .., rfl, rfl, rfl, fun hk => ?_⟩
  dsimp only
  rw [if_neg (by omega), if_neg (by omega)]
  exact congrArg (fun x => [Dst.s p.dst x]) (s.pollGroup_withPosts (dropAt s.posts n) _ p.sel p.word)

theorem execKvRelease_due {s : State} {k i : Nat} (h : s.releaseReady k i = true) : execKvRelease k i s =
    .next ((s.trialWaits ((s.quiet 0).releaseSlots 4 k i) (s.group k).vf).getD (s.unquiet ((s.quiet 0).releaseSlots 4 k i))) := by
  rw [execKvRelease, if_pos h]
  dsimp only
  cases s.trialWaits _ (s.group k).vf <;> rfl

/-- Settles O46: batches, posts, releases and decisions take place where they are due. -/
theorem spireAndCampanileEvents : Obligations.SpireAndCampanileEvents := by
  unfold Obligations.SpireAndCampanileEvents
  refine fun s => ⟨fun n b hb hr => ?_, fun n p hp hr => execCampanilePost_answers hp hr, fun k i h => ?_, fun k h => ?_⟩
  · intro e w
    exact ⟨execSpireBatch_goes hb hr, fun x hx => execSpireBatch_waits hb hr hx⟩
  · intro e
    refine ⟨fun hw => ?_, fun w hw => ?_⟩
    · exact (execKvRelease_due h).trans (by rw [show s.trialWaits _ (s.group k).vf = none from hw]; rfl)
    · exact (execKvRelease_due h).trans (by rw [show s.trialWaits _ (s.group k).vf = some w from hw]; rfl)
  · show execFinishedSiblingCheck k s = _
    rw [execFinishedSiblingCheck, if_pos h]
    cases (s.group k).plurality <;> rfl

/-! Commands. -/

/-- Settles O47: each command of a front end acts where it may start. -/
theorem commandEvents : Obligations.CommandEvents := by
  unfold Obligations.CommandEvents
  intro s n j
  refine ⟨fun w bs r x hr hw hx => ?_, fun hr hq hl => ?_, fun hr => ?_, fun hr => ?_, fun hr hg => ?_, fun w bs hr hg hst hw => ?_, fun hr hg hst => ?_,
    fun hr hst => ?_⟩
  · show execDirectoryUpdate n s = _
    rw [execDirectoryUpdate, hr, Bool.not_true, if_neg Bool.false_ne_true]
    dsimp only
    rw [show State.feWrite s _ _ _ = _ from hw]
    dsimp only
    rw [show w.record _ _ _ = _ from hx]
  · have hnone : (s.qreqs.any fun r => r.kind == 0 && r.queue == s.qbase j.fn + (j.word 1).toNat && r.hold != .none) = false :=
      List.any_eq_false.mpr (fun r hr => by simp [hq r hr])
    have hex : exec (.queueDescriptor n) s = execQueueDescriptor n s := rfl
    rw [execQueueDescriptor, hr, Bool.not_true, if_neg Bool.false_ne_true] at hex
    dsimp only at hex
    rw [show (s.qreqs.any _) = false from hnone, show (s.queue (s.qbase (s.job n).fn + ((s.job n).word 1).toNat)).ringLen = 0 from hl,
      if_neg (by simp), if_pos (.inl rfl)] at hex
    refine ⟨_, _, hex, rfl, rfl, ?_, rfl, rfl⟩
    rw [BitVec.getLsbD, ← nbit_eq_testBit]
  · show execCancel n s = _
    rw [execCancel, hr, Bool.not_true, if_neg Bool.false_ne_true]
  · show execSignal n s = _
    rw [execSignal, if_pos hr]
  · show execGroupOpen n s = _
    rw [execGroupOpen, hr, Bool.not_true, if_neg Bool.false_ne_true]
    exact if_pos (hg.imp_left (fun h => h))
  · have hex : exec (.groupOpen n) s = execGroupOpen n s := rfl
    rw [execGroupOpen, hr, Bool.not_true, if_neg Bool.false_ne_true] at hex
    dsimp only at hex
    have hw' : s.feWrite (s.job n).fn ((s.job n).word 4).toNat blankRecords = (w, .ok bs) := hw
    rw [if_neg (not_or.mpr ⟨Nat.not_le.mpr hg, not_not.mpr hst⟩), hw'] at hex
    exact ⟨_, hex, rfl, rfl, rfl, rfl, rfl⟩
  · show execGroupFree n s = _
    rw [execGroupFree, hr, Bool.not_true, if_neg Bool.false_ne_true]
    dsimp only
    rw [if_neg (not_or.mpr ⟨Nat.not_le.mpr hg, by rw [show (s.group (s.groupKey (s.job n).fn (s.job n).groupNo)).st = 1 from hst]; exact Nat.one_ne_zero⟩)]
    exact congrArg Host.Outcome.next (if_pos hst)
  · show execGroupFreeCompletion n s = _
    rw [execGroupFreeCompletion, hr, Bool.not_true, if_neg Bool.false_ne_true]
    exact congrArg (fun u : State => Host.Outcome.next (u.finishJob n 0)) (if_pos hst)

/-! Commands of a function's window. -/

/-- Settles O48: each command of a window and a ready invalidation act. -/
theorem windowCommands : Obligations.WindowCommands := by
  unfold Obligations.WindowCommands
  intro s f
  refine ⟨⟨_, rfl, rfl⟩, rfl, fun k r hk hr ho => ?_, fun g k e hk he hr => ?_⟩
  · show execFsresolve s = _
    rw [execFsresolve, show firstIdx _ s.faults = some k from hk]
    dsimp only
    rw [if_neg (Nat.not_lt.mpr ho), hr]
  · show execInvalidationComplete g s = _
    rw [execInvalidationComplete, hk]
    dsimp only
    rw [hr, he, Bool.not_true, if_neg Bool.false_ne_true]

end Sys2Proof.Machine
end

section
/-!
Events of the memory controller, the coherence network and the link (21 R342–R353; 22 R354–R369; 23 R374–R375).
-/
namespace Sys2Proof.Machine

/-! The memory controller. -/

theorem execBlockAccess_inside {s : State} {a : BlockAcc} (ha : a.addr < s.dmBytes) (ho : s.ownerOf a.addr = some a.fn) (h : a.ecc = true ∨ a.bytes = none) :
    execBlockAccess a s = .next (if a.ecc then (s.touchFrame a.addr).poisonBlock a.fn a.addr else s.touchFrame a.addr) := by
  rw [execBlockAccess, if_neg (Nat.not_le.mpr ha), if_neg (not_not.mpr ho)]
  dsimp only
  cases he : a.ecc with
  | true => rfl
  | false =>
    have hb : a.bytes = none := h.resolve_left (by rw [he]; exact Bool.false_ne_true)
    rw [hb]
    rfl

theorem execReclamationRound_due {s : State} {d : Nat} (h : s.roundDue d = true) : execReclamationRound d s = .next
    (if (s.recompact d).poolShort d then { (s.recompact d).askBalloons d with
        rounds := SMap.put ((s.recompact d).askBalloons d).rounds d { active := true, waiting := true, since := ((s.recompact d).askBalloons d).time }
          Round.idle }
      else { s.recompact d with rounds := SMap.drop (s.recompact d).rounds d }) := by
  rw [execReclamationRound, h, Bool.not_true, if_neg Bool.false_ne_true]
  dsimp only
  cases (s.recompact d).poolShort d <;> rfl

theorem execPromotion_due {s : State} {n : Nat} (h : s.promotionDue n = true) :
    ∃ u, execPromotion n s = .next u ∧ (u.frameOf (65536 * n)).slot = none := by
  rw [execPromotion, h, Bool.not_true, if_neg Bool.false_ne_true]
  refine ⟨_, rfl, ?_⟩
  rw [State.frameOf, Nat.mul_div_cancel_left n (by omega)]
  exact congrArg Frame.slot (SMap.get_put_same ..)

theorem execDiscardComplete_whole {s : State} {f k : Nat} {d : Nat × W64} (hk : firstIdx (fun (d : Nat × W64) => d.1 == f) s.discards = some k)
    (hd : s.discards[k]? = some d) (hr : s.discardReady f = true) :
    let r := s.discardRange f d.2
    let x := s.discardFrames 65537 f r.1 r.2
    r.2 ≤ x.2 → execDiscardComplete f s = .next ({ x.1 with discards := dropAt x.1.discards k }.addReg f oDISDONE 1) := by
  rw [execDiscardComplete, hk]
  dsimp only
  rw [hr, hd, Bool.not_true, if_neg Bool.false_ne_true]
  dsimp only
  generalize s.discardFrames 65537 f _ _ = x
  intro hx
  exact if_pos hx

/-- Settles O49: each event of the memory controller acts where it is due. -/
theorem memoryControllerEvents : Obligations.MemoryControllerEvents := by
  unfold Obligations.MemoryControllerEvents
  refine fun s => ⟨fun a ha => if_pos ha, fun a ha ho hb he => ?_, fun a ha ho he => ?_, fun d k h hn hk hs => ?_, fun d k h => ?_, fun i r hq hf => ?_,
    fun f k d hk hd hr => ?_, fun d h => ⟨fun hp => ?_, fun hp => ?_⟩, fun d h => ?_, fun n h => execPromotion_due h⟩
  · exact (execBlockAccess_inside ha ho (.inr hb)).trans (by rw [he]; rfl)
  · exact (execBlockAccess_inside ha ho (.inl he)).trans (by rw [he]; rfl)
  · show execHeldWriteRelease d s = _
    rw [execHeldWriteRelease, hn]
    dsimp only
    rw [hk]
    exact if_neg (by rw [hs]; exact Bool.false_ne_true)
  · show execHeldWriteExpiry d s = _
    rw [execHeldWriteExpiry, h]
  · show execQuotaLimitExpiry i s = _
    rw [execQuotaLimitExpiry, hq, hf, Bool.not_true, if_neg Bool.false_ne_true]
  · exact execDiscardComplete_whole hk hd hr
  · exact (execReclamationRound_due h).trans (by rw [hp]; rfl)
  · intro t
    exact (execReclamationRound_due h).trans (by rw [hp]; rfl)
  · have hex : exec (.balwaitExpiry d) s = execBalwaitExpiry d s := rfl
    rw [execBalwaitExpiry, h, Bool.not_true, if_neg Bool.false_ne_true] at hex
    exact ⟨_, hex, rfl⟩

/-! Messages of the coherence network. -/

theorem L2St.beq_mo (x : L2St) : (x == .m || x == .o) = decide (x = .m ∨ x = .o) := by cases x <;> rfl

/-- A directory entry that names the die as owner. -/
theorem DirLine.beq_owns (d : DirLine) (n : Nat) : ((d.st == .em || d.st == .os) && d.owner == n) = decide ((d.st = .em ∨ d.st = .os) ∧ d.owner = n) := by
  rw [Bool.decide_and]
  cases d.st <;> rfl

theorem execWb_eq (m : CohMsg) (s : State) (hb ob : Bool)
    (hh : decide (((s.takeMsg (.wb m)).l2 m.die (msgKey m)).st = .m ∨ ((s.takeMsg (.wb m)).l2 m.die (msgKey m)).st = .o) = hb)
    (ho : decide ((((s.takeMsg (.wb m)).dirAt (msgKey m)).st = .em ∨ ((s.takeMsg (.wb m)).dirAt (msgKey m)).st = .os)
      ∧ ((s.takeMsg (.wb m)).dirAt (msgKey m)).owner = m.die) = ob) :
    let s0 := s.takeMsg (.wb m)
    let d := s0.dirAt (msgKey m)
    let lost := if hb then s0.loseGrain m.die (msgKey m) else s0
    let stored := if ob && !m.sys then lost.writeBack m.grain m.size else lost
    execWb m s = .next (if ob && (hb || s.coh.net.contains (.wb m)) then stored.setDir (msgKey m) { d with st := if d.sharers = 0 then .i else .s, owner := 0 }
      else stored) := by
  rw [execWb]
  dsimp only
  rw [L2St.beq_mo, DirLine.beq_owns, hh, ho]

theorem execSnps_goes {m : CohMsg} {s : State} (h : s.snoopWaits m = false) : execSnps m s = .next (if (s.takeMsg (.snps m)).probed m then
    ((s.takeMsg (.snps m)).setL2 m.die (msgKey m) { (s.takeMsg (.snps m)).l2 m.die (msgKey m) with
      st := snooped ((s.takeMsg (.snps m)).l2 m.die (msgKey m)).st }).respond m ((s.takeMsg (.snps m)).l2 m.die (msgKey m)).st
    else (s.takeMsg (.snps m)).respond m .i) := by
  rw [execSnps, h, if_neg Bool.false_ne_true]
  dsimp only
  cases (s.takeMsg (.snps m)).probed m <;> rfl

theorem execSnpx_goes {m : CohMsg} {s : State} (h : s.snoopWaits m = false) : execSnpx m s = .next (if (s.takeMsg (.snpx m)).probed m then
    ((s.takeMsg (.snpx m)).loseGrain m.die (msgKey m)).respond m ((s.takeMsg (.snpx m)).l2 m.die (msgKey m)).st
    else (s.takeMsg (.snpx m)).respond m .i) := by
  rw [execSnpx, h, if_neg Bool.false_ne_true]
  dsimp only
  cases (s.takeMsg (.snpx m)).probed m <;> rfl

theorem execInv_goes {m : CohMsg} {s : State} (h : s.snoopWaits m = false) : execInv m s = .next (if (s.takeMsg (.inv m)).probed m then
    ((s.takeMsg (.inv m)).loseGrain m.die (msgKey m)).respond m ((s.takeMsg (.inv m)).l2 m.die (msgKey m)).st
    else (s.takeMsg (.inv m)).respond m .i) := by
  rw [execInv, h, if_neg Bool.false_ne_true]
  dsimp only
  cases (s.takeMsg (.inv m)).probed m <;> rfl

/-- Each core's logical time is advanced once (22 R359). -/
theorem State.lt_foldl_tick (s : State) (n c : Nat) :
    ((upTo n).foldl (fun s c => s.setLt c (s.lt c + 1)) s).lt c = if c < n then s.lt c + 1 else s.lt c := by
  have hset : ∀ (u : State) (a : Nat) (x : W64), (u.setLt a x).lt c = if c = a then x else u.lt c := fun u a x => SMap.get_put ..
  induction n with
  | zero => rfl
  | succ n ih =>
    rw [upTo, List.range_succ, List.foldl_append, List.foldl_cons, List.foldl_nil, hset]
    by_cases h : c = n
    · subst h
      rw [if_pos rfl, if_pos (Nat.lt_succ_self c), show (List.foldl _ s (List.range c)).lt c = _ from ih, if_neg (Nat.lt_irrefl c)]
    · rw [if_neg h, show (List.foldl _ s (List.range n)).lt c = _ from ih]
      congr 1
      exact propext ⟨fun hc => by omega, fun hc => by omega⟩

theorem State.ticks_foldl_setLt (s : State) (cs : List Nat) : (cs.foldl (fun s c => s.setLt c (s.lt c + 1)) s).coh.ticks = s.coh.ticks := by
  induction cs generalizing s with
  | nil => rfl
  | cons c r ih => exact ih _

theorem State.lt_withTicks (s : State) (n c : Nat) : ({ s with coh := { s.coh with ticks := n } } : State).lt c = s.lt c := rfl

theorem execLogicalTimeTick_ticks (s : State) : ∃ u, execLogicalTimeTick s = .next u ∧ (∀ c, c < Config.cores → u.lt c = s.lt c + 1)
    ∧ u.coh.ticks = s.coh.ticks + 1 := by
  have ht := s.ticks_foldl_setLt (upTo Config.cores)
  have hl := s.lt_foldl_tick Config.cores
  rw [execLogicalTimeTick]
  generalize (upTo Config.cores).foldl (fun s c => s.setLt c (s.lt c + 1)) s = s1 at ht hl ⊢
  refine ⟨_, rfl, fun c hc => ?_, congrArg (· + 1) ht⟩
  rw [State.lt_withTicks, hl, if_pos hc]

/-- Settles O50: each message of the coherence network has its effect, and the tick advances every core. -/
theorem coherenceMessages : Obligations.CoherenceMessages := by
  unfold Obligations.CoherenceMessages
  intro s m
  refine ⟨⟨rfl, rfl, rfl, rfl, rfl⟩, ?_, fun h => ⟨?_, ?_, ?_⟩, fun h => ?_, fun h => ?_, fun h => ⟨?_, ?_, ?_⟩, ?_, ?_, rfl, rfl, ?_, ?_⟩
  · intro s0 d held own left stored
    refine ⟨fun hh ho => ?_, fun hh ho => ?_, fun hh ho hc => ?_, fun hh ho hc => ?_, fun hh ho => ?_⟩
    · refine (execWb_eq m s true true (decide_eq_true hh) (decide_eq_true ho)).trans ?_
      cases hs : m.sys <;> simp [stored, hs, s0, left, d]
    · exact execWb_eq m s true false (decide_eq_true hh) (decide_eq_false ho)
    · refine (execWb_eq m s false true (decide_eq_false hh) (decide_eq_true ho)).trans ?_
      rw [hc]
      cases hs : m.sys <;> simp [stored, hs, s0, left, d]
    · refine (execWb_eq m s false true (decide_eq_false hh) (decide_eq_true ho)).trans ?_
      rw [hc]
      cases hs : m.sys <;> simp [stored, hs, s0]
    · exact execWb_eq m s false false (decide_eq_false hh) (decide_eq_false ho)
  · exact if_pos h
  · exact if_pos h
  · exact if_pos h
  · exact if_pos h
  · show execBi m s = _
    rw [execBi, h, if_neg Bool.false_ne_true]
  · intro s0 x
    exact ⟨fun hp => (execSnps_goes h).trans (by rw [show (s.takeMsg (.snps m)).probed m = true from hp]; rfl),
      fun hp => (execSnps_goes h).trans (by rw [show (s.takeMsg (.snps m)).probed m = false from hp]; rfl)⟩
  · intro s0
    exact ⟨fun hp => (execSnpx_goes h).trans (by rw [show (s.takeMsg (.snpx m)).probed m = true from hp]; rfl),
      fun hp => (execSnpx_goes h).trans (by rw [show (s.takeMsg (.snpx m)).probed m = false from hp]; rfl)⟩
  · intro s0
    exact ⟨fun hp => (execInv_goes h).trans (by rw [show (s.takeMsg (.inv m)).probed m = true from hp]; rfl),
      fun hp => (execInv_goes h).trans (by rw [show (s.takeMsg (.inv m)).probed m = false from hp]; rfl)⟩
  · intro k s0 s1 lease
    refine ⟨fun hv => ?_, fun hv hg => ?_, fun hv hc hg => ?_⟩
    · exact if_pos hv
    · refine (if_neg (by rw [show s.coh.voided.contains (dieKey m.die (msgKey m)) = false from hv]; exact Bool.false_ne_true)).trans ?_
      rw [if_neg (by rcases hg with hg | hg; exact fun h => absurd h.1 (Nat.not_lt.mpr hg); exact fun h => h.2 hg)]
      exact rfl
    · refine (if_neg (by rw [show s.coh.voided.contains (dieKey m.die (msgKey m)) = false from hv]; exact Bool.false_ne_true)).trans ?_
      rw [if_pos ⟨hc, hg⟩]
      exact rfl
  · intro s0 d reads owner leaves
    refine ⟨fun hb => if_pos hb, fun hb => ?_⟩
    have hex : exec (.rsp m) s = execRsp m s := rfl
    rw [execRsp, if_neg hb] at hex
    dsimp only at hex
    rw [DirLine.beq_owns] at hex
    refine ⟨fun hn => ?_, fun hr ho => ?_⟩
    · rw [hex, if_neg (fun h => hn (by simpa using h))]
    · rw [if_pos (by rw [Bool.and_eq_true, decide_eq_true_eq]; exact ⟨hr, ho⟩)] at hex
      refine ⟨fun hg => ?_, fun hg => ?_, fun hg => ?_⟩
      · rcases hg with hg | hg <;> rw [hg] at hex <;> exact hex
      · rw [hg] at hex
        exact hex
      · rcases hg with hg | hg <;> rw [hg] at hex <;> exact hex
  · intro s0
    refine ⟨fun hi => ?_, fun hi => ?_⟩
    · exact congrArg (fun u : State => Host.Outcome.next ((u.atomBack m.tag).goDie m.die)) (if_pos hi)
    · exact congrArg (fun u : State => Host.Outcome.next ((u.atomBack m.tag).goDie m.die)) (if_neg hi)
  · exact execLogicalTimeTick_ticks s

end Sys2Proof.Machine
end

section
/-!
PROOFS. O51 to O56: lines of host and peer memory, the link and its ports, TDISP and SPDM, the Belfry, and writes of window registers.
-/
namespace Sys2Proof.Machine

/-! Lines of host and peer memory (O51). -/

theorem execSnp_eq (s : State) :
    (s.hostWaits true s.inp.link.addr = true → exec .snpdata s = .next (s.defer .snpdata) ∧ exec .snpinv s = .next (s.defer .snpinv)
      ∧ exec .snpcur s = .next (s.defer .snpcur))
    ∧ (s.hostWaits true s.inp.link.addr = false → exec .snpdata s = .next (s.shareLine s.inp.link.addr)
      ∧ exec .snpinv s = .next (s.loseLine s.inp.link.addr s.inp.link.bytes)
      ∧ exec .snpcur s = .next ((s.probeLine s.inp.link.addr none).retryLine s.inp.link.addr false)) := by
  refine ⟨fun h => ⟨if_pos h, if_pos h, if_pos h⟩, fun h => ⟨?_, ?_, ?_⟩⟩
  all_goals exact if_neg (by rw [h]; exact Bool.false_ne_true)

/-- Of a line of a peer's memory the CXL requests and back-invalidations are the snoops and reads of a host's line. -/
theorem exec_peerLine (s : State) (h : peerLine s.inp.link.addr = true) :
    exec .memrd s = .next (s.takeLine s.inp.link.die s.inp.link.addr s.inp.link.excl)
    ∧ exec .memwr s = .next (if (s.hubLine s.inp.link.addr).owned == s.inp.link.dirty then s.giveLine s.inp.link.addr else s)
    ∧ exec .bisnpinv s = (if s.hostWaits true s.inp.link.addr then .next (s.defer .bisnpinv)
        else .next (s.loseLine s.inp.link.addr s.inp.link.bytes))
    ∧ exec .bisnpdata s = (if s.hostWaits true s.inp.link.addr then .next (s.defer .bisnpdata) else .next (s.shareLine s.inp.link.addr)) :=
  ⟨if_pos h, if_pos h, if_pos h, if_pos h⟩

/-- Of a line of device memory a back-invalidation ends what the partner of its port holds. -/
theorem exec_bisnp_device (s : State) (h : peerLine s.inp.link.addr = false) :
    exec .bisnpinv s = .next (s.giveHosts (hostPort s.inp.link.port) s.inp.link.addr true)
    ∧ exec .bisnpdata s = .next (s.giveHosts (hostPort s.inp.link.port) s.inp.link.addr false) := by
  constructor
  all_goals exact if_neg (by rw [h]; exact Bool.false_ne_true)

theorem execBirsp_eq (s s1 : State)
    (hs : (if s.inp.link.dirty then s.linkStore s.inp.link.addr (s.inp.link.bytes.take (64 - s.inp.link.addr % 64)) else s) = s1) :
    exec .birsp s = match s1.coh.txns.find? (txnOfLine s.inp.link.addr) with
      | some t => .next (if (reqOf t.req).isSome then s1.answered false false t.grain else s1.hostAnswered t.grain)
      | none => .next s1 := by
  subst hs
  rfl

/-- Settles O51: each event is the branch of its definition that the line's state picks. -/
theorem hostLineEvents : Obligations.HostLineEvents := by
  unfold Obligations.HostLineEvents
  intro s l brought owned gone shared taken
  refine ⟨rfl, rfl, fun h => ?_, fun h => ?_, (execSnp_eq s).1, (execSnp_eq s).2, fun hp => ?_, fun hd => ?_, ?_⟩
  · exact congrArg Host.Outcome.next (if_pos h)
  · exact congrArg Host.Outcome.next (if_neg (by rw [h]; exact Bool.false_ne_true))
  · obtain ⟨hrd, hwr, hinv, hdata⟩ := exec_peerLine s hp
    refine ⟨fun h => hrd.trans ?_, fun h => hrd.trans ?_, fun h => hwr.trans (congrArg Host.Outcome.next (if_pos (beq_iff_eq.mpr h))),
      fun h => ⟨hinv.trans (if_pos h), hdata.trans (if_pos h)⟩,
      fun h => ⟨hinv.trans (if_neg (by rw [h]; exact Bool.false_ne_true)), hdata.trans (if_neg (by rw [h]; exact Bool.false_ne_true))⟩⟩
    · rw [show s.inp.link.excl = false from h]
      rfl
    · rw [show s.inp.link.excl = true from h]
      rfl
  · intro p g less
    exact exec_bisnp_device s hd
  · intro s1
    have hex := execBirsp_eq s s1 rfl
    refine ⟨fun h => ?_, fun t ht => ⟨fun hr => ?_, fun hr => ?_⟩⟩
    · rw [hex, h]
    · rw [hex, ht]
      exact congrArg Host.Outcome.next (if_pos hr)
    · rw [hex, ht]
      exact congrArg Host.Outcome.next (if_neg (by rw [hr]; exact Bool.false_ne_true))

/-! Requests of the link, flits and ports (O52). -/

section
variable {s : State} {a : Nat} (hd : peerLine s.inp.link.addr = false) (hu : (s.port s.inp.link.port).up = true)
include hd hu

/-- A request of the link for a line of HBM on an up port: what the address it reaches decides. -/
theorem exec_memrd_up : exec .memrd s = match s.linkAddr s.inp.link with
    | none => .next (s.answer (256 + s.inp.link.port) [1])
    | some a =>
      if s.homeBusy a then .next (s.defer .memrd)
      else if s.poisoned a then .next (s.answer (256 + s.inp.link.port) [1])
      else if !(s.otherHosts a (hostPort s.inp.link.port) s.inp.link.excl).isEmpty then
        .next (s.askHosts .memrd a (s.otherHosts a (hostPort s.inp.link.port) s.inp.link.excl) s.inp.link.excl)
      else .next (((s.touchFrame a).hostTakes a (hostPort s.inp.link.port) s.inp.link.excl).answer (256 + s.inp.link.port)
        (0 :: leWords 8 (s.readDev (a / 64 * 64) 64))) := by
  refine (if_neg (by rw [hd]; exact Bool.false_ne_true)).trans ((if_neg (by rw [hu]; exact Bool.false_ne_true)).trans ?_)
  cases s.linkAddr s.inp.link with
  | none => rfl
  | some a => rfl

theorem exec_memwr_up : exec .memwr s = match s.linkAddr s.inp.link with
    | none => .next (s.answer (256 + s.inp.link.port) [1])
    | some a =>
      if s.homeBusy a then .next (s.defer .memwr)
      else if !(s.otherHosts a (hostPort s.inp.link.port) true).isEmpty then
        .next (s.askHosts .memwr a (s.otherHosts a (hostPort s.inp.link.port) true) true)
      else .next ((((s.hostTakes a (hostPort s.inp.link.port) true).setHost a (hostPort s.inp.link.port)
        (if s.inp.link.excl then some true else none)).linkStore a (s.inp.link.bytes.take (64 - a % 64))).answer (256 + s.inp.link.port) [0]) := by
  refine (if_neg (by rw [hd]; exact Bool.false_ne_true)).trans ((if_neg (by rw [hu]; exact Bool.false_ne_true)).trans ?_)
  cases s.linkAddr s.inp.link with
  | none => rfl
  | some a => rfl

end

theorem isEmpty_false_of_ne {α : Type} {l : List α} (h : l ≠ []) : l.isEmpty = false := by
  rw [← Bool.not_eq_true]
  exact fun e => h (List.isEmpty_iff.mp e)

theorem execFlit_down (s : State) (hu : (s.port s.inp.link.port).up = true) (ho : s.inp.ok = false) :
    exec .flit s = if 8 ≤ (s.port s.inp.link.port).fails then .next (s.portDown s.inp.link.port)
      else .next (s.setPort s.inp.link.port { s.port s.inp.link.port with
        fails := (s.port s.inp.link.port).fails + 1, replays := satInc (s.port s.inp.link.port).replays }) := by
  refine (if_neg (show ¬ (!(s.port s.inp.link.port).up) = true from ?_)).trans (if_pos ?_)
  · rw [hu]
    exact Bool.false_ne_true
  · rw [ho]
    rfl

theorem execFlit_up (s : State) (hu : (s.port s.inp.link.port).up = true) (ho : s.inp.ok = true) (hs : s.inp.link.sealed = false) :
    exec .flit s = .next (s.setPort s.inp.link.port { s.port s.inp.link.port with fails := 0 }) := by
  refine (if_neg (show ¬ (!(s.port s.inp.link.port).up) = true from ?_)).trans ((if_neg (show ¬ (!s.inp.ok) = true from ?_)).trans
    (congrArg Host.Outcome.next (if_neg ?_)))
  · rw [hu]
    exact Bool.false_ne_true
  · rw [ho]
    exact Bool.false_ne_true
  · rw [hs]
    exact Bool.false_ne_true

/-- Settles O52: each answer is the branch that the line's address, its home, POISON and the other partners pick. -/
theorem linkAccessesAndPorts : Obligations.LinkAccessesAndPorts := by
  unfold Obligations.LinkAccessesAndPorts
  constructor
  · intro s a l hd hu
    have hrd := exec_memrd_up hd hu
    have hwr := exec_memwr_up hd hu
    refine ⟨fun h => ?_, fun h hb hp => ?_, fun h hb => ?_, fun h hb hp => ?_, fun h hb => ?_⟩
    all_goals rw [show s.linkAddr s.inp.link = _ from h] at hrd hwr
    all_goals dsimp only at hrd hwr
    · exact ⟨hrd, hwr⟩
    · rw [hrd, hb, if_neg Bool.false_ne_true, hp]
      exact if_pos rfl
    · rw [hrd, hwr, hb]
      exact ⟨if_pos rfl, if_pos rfl⟩
    · rw [hb, if_neg Bool.false_ne_true, hp, if_neg Bool.false_ne_true] at hrd
      intro p others
      refine ⟨fun ho => hrd.trans (if_neg ?_), fun ho => hrd.trans (if_pos ?_)⟩
      · rw [show s.otherHosts a (hostPort s.inp.link.port) s.inp.link.excl = [] from ho]
        exact Bool.false_ne_true
      · rw [show (s.otherHosts a (hostPort s.inp.link.port) s.inp.link.excl).isEmpty = false from isEmpty_false_of_ne ho]
        rfl
    · rw [hb, if_neg Bool.false_ne_true] at hwr
      intro p others
      refine ⟨fun ho => hwr.trans (if_neg ?_), fun ho => hwr.trans (if_pos ?_)⟩
      · rw [show s.otherHosts a (hostPort s.inp.link.port) true = [] from ho]
        exact Bool.false_ne_true
      · rw [show (s.otherHosts a (hostPort s.inp.link.port) true).isEmpty = false from isEmpty_false_of_ne ho]
        rfl
  · intro s p
    exact ⟨execFlit_up s, fun hu ho hf => (execFlit_down s hu ho).trans (if_neg (Nat.not_le.mpr hf)),
      fun hu ho hf => (execFlit_down s hu ho).trans (if_pos hf),
      fun hn => ⟨congrArg Host.Outcome.next (if_pos hn), congrArg Host.Outcome.next (if_pos hn)⟩⟩

/-! TDISP and SPDM (O53). -/

/-- Where no opening has begun, the event that ends one has no effect. -/
theorem exec_sessionOpen_end {s : State} (hv : s.inp.hv = true) (hl : s.inp.low = 1) (hp : (s.peer s.inp.num).st ≠ 1) :
    exec .sessionOpen s = .next s := by
  show execSessionOpen s = _
  rw [execSessionOpen, hv, hl, beq_self_eq_true, Bool.and_self, if_pos rfl, if_neg hp]

/-- SESS's command 1 with hypervisor authority puts the opening's end among the events to come. -/
theorem sessEvent_one_deferred {s : State} (hv : s.inp.hv = true) (hlo : 2 ≤ s.inp.num) (hhi : s.inp.num < 8) (hx : s.inp.value = 0) :
    (s.sessEvent 1).deferred.length = s.deferred.length + 1 := by
  rw [State.sessEvent, if_pos hv, State.sessCommand, if_neg (by omega), hx,
    show fld (setFld 0 1 0 1) 1 0 = 1 from by decide]
  exact List.length_append

/-- The current event is the end of an opening on port 2, where none has begun. -/
def strayOpening : State := { State.reset with inp := { State.reset.inp with num := 2, low := 1, value := 0, hv := true } }

/-- Refutes O53: SESSION_OPEN that ends an opening where none has begun has no effect, and does not begin one. -/
theorem not_tdispAndSpdmRequests : ¬ Obligations.TdispAndSpdmRequests := by
  unfold Obligations.TdispAndSpdmRequests
  intro h
  obtain ⟨-, -, -, -, -, -, hopen, -, -⟩ := h.2 strayOpening
  have hend : exec .sessionOpen strayOpening = .next strayOpening := exec_sessionOpen_end rfl rfl (by decide)
  have hsame : strayOpening = strayOpening.sessEvent 1 := Host.Outcome.next.inj (hend.symm.trans hopen)
  have hlen := sessEvent_one_deferred (s := strayOpening) rfl (by decide) (by decide) rfl
  rw [← hsame] at hlen
  exact absurd hlen (Nat.ne_of_lt (Nat.lt_succ_self _))

/-! The Lantern from the host's side and the register windows (O56). -/

theorem State.setLantern_lantern (s : State) (k j : Nat) (x : W64) : (s.setLantern k x).lantern j = if j = k then x else s.lantern j :=
  SMap.get_put s.bel.lantent k j x 0

/-- A write of a Lantern entry that is empty stores both words, FULL set. -/
theorem lanternPut_empty {s : State} {i : Nat} (lo hi : W64) (h : (s.lantern (2 * i + 1)).getLsbD 63 = false) :
    ((s.lanternPut i lo hi).1.lantern (2 * i) = lo) ∧ (s.lanternPut i lo hi).1.lantern (2 * i + 1) = (hi ||| ((1 : W64) <<< 63)) := by
  rw [State.lanternPut, h, if_neg Bool.false_ne_true]
  dsimp only
  rw [State.setLantern_lantern, if_neg (by omega), State.setLantern_lantern, if_pos rfl, State.setLantern_lantern, if_pos rfl]
  exact ⟨rfl, rfl⟩

theorem lanternPut_full {s : State} {i : Nat} (lo hi : W64) (h : (s.lantern (2 * i + 1)).getLsbD 63 = true) : (s.lanternPut i lo hi).1 = s := by
  rw [State.lanternPut, if_pos h]

theorem exec_lantentHighWrite {s : State} (hn : s.inp.num < 64) :
    exec .lantentHighWrite s = .next (s.lanternPut s.inp.num s.inp.low s.inp.value).1 := congrArg Host.Outcome.next (if_pos hn)

theorem exec_registerWrite_fn {s : State} {f : Nat} (hw : s.inp.window = .fn f) (hf : f < 64) :
    exec .registerWrite s = .next (s.writeWin f s.inp.offset s.inp.value s.inp.hv) := by
  show execRegisterWrite s = _
  rw [execRegisterWrite, hw]
  exact congrArg Host.Outcome.next (if_pos hf)

theorem exec_registerWrite_belfry {s : State} (hw : s.inp.window = .belfry) :
    exec .registerWrite s = .next (s.writeBel s.inp.offset s.inp.value s.inp.low s.inp.hv) := by
  show execRegisterWrite s = _
  rw [execRegisterWrite, hw]

/-- Settles O56: the Lantern by FULL, and each named register's write as the write at its offset. -/
theorem registerWrites : Obligations.RegisterWrites := by
  unfold Obligations.RegisterWrites
  constructor
  · intro s n hn
    refine ⟨fun h => ⟨_, exec_lantentHighWrite hn, lanternPut_empty _ _ h⟩, fun h => ?_, if_neg (Nat.not_le.mpr hn), rfl⟩
    rw [exec_lantentHighWrite hn, lanternPut_full _ _ h]
  · exact fun s => ⟨rfl, rfl, rfl, rfl, rfl, rfl, rfl, fun h => congrArg Host.Outcome.next (if_pos h), fun h => congrArg Host.Outcome.next (if_pos h),
      fun h => congrArg Host.Outcome.next (if_pos h), fun f => exec_registerWrite_fn, exec_registerWrite_belfry⟩

/-! Power states, the clock step and sensors (O55). -/

/-! What a reading of a sensor leaves in the Belfry. -/

/-- Two states whose sensors stand alike. -/
def State.SensorsAs (s u : State) : Prop := u.bel.sensor = s.bel.sensor ∧ u.bel.warn = s.bel.warn ∧ u.bel.powerAt = s.bel.powerAt

theorem State.setSensor_reads {s u : State} {n : Nat} {x : W32} (h : (s.setSensor n x).SensorsAs u) :
    SMap.get u.bel.sensor n 0 = x ∧ (n ≠ 18 → u.warns n = sensorWarns n x)
      ∧ (n = 18 → u.bel.powerAt = if sensorWarns 18 x then some (s.bel.powerAt.getD s.time) else none) := by
  obtain ⟨hsensor, hwarn, hpower⟩ := h
  refine ⟨?_, fun hn => ?_, fun hn => ?_⟩
  · rw [hsensor]
    exact SMap.get_put_same _ _ _ _
  · rw [State.warns, if_neg hn, hwarn]
    show SMap.get (if n = 18 then s.bel.warn else SMap.put s.bel.warn n (sensorWarns n x) false) n false = _
    rw [if_neg hn, SMap.get_put_same]
  · rw [hpower]
    subst hn
    show (if 18 = 18 then if sensorWarns 18 x then some (s.bel.powerAt.getD s.time) else none else s.bel.powerAt) = _
    exact if_pos rfl

theorem exec_sensorWarning {s : State} (hn : s.inp.num < 20) :
    exec .sensorWarning s = .next (if sensorWarns s.inp.num (s.inp.value.setWidth 32) && !s.warns s.inp.num && !stepSensor s.inp.num then
      (s.setSensor s.inp.num (s.inp.value.setWidth 32)).logErr 7 4 0 (some (BitVec.ofNat 64 s.inp.num))
        (some ((s.inp.value.setWidth 32 : W32).setWidth 64)) s.bel.sameStep
      else s.setSensor s.inp.num (s.inp.value.setWidth 32)) := if_neg (Nat.not_le.mpr hn)

theorem exec_sensorWarningEnd {s s1 : State} (hn : s.inp.num < 20) (hs : s.setSensor s.inp.num (s.inp.value.setWidth 32) = s1) :
    exec .sensorWarningEnd s = .next (if s.stepWarning.isSome && s1.stepWarning.isNone then s1.setBel { s1.bel with warnAt := s1.time } else s1) := by
  subst hs
  exact if_neg (Nat.not_le.mpr hn)

theorem sensorsAs_ite {s a b : State} (c : Bool) (ha : s.SensorsAs a) (hb : s.SensorsAs b) : s.SensorsAs (if c then a else b) := by
  cases c
  · exact hb
  · exact ha

theorem State.warns_power (s : State) : s.warns 18 = true ↔ ∃ t, s.bel.powerAt = some t ∧ t + msUnits ≤ s.time := by
  rw [State.warns, if_pos rfl]
  cases s.bel.powerAt <;> simp

/-! Shutdown and power states. -/

theorem exec_shutdown_none {s : State} (h : s.critical = none) : exec .shutdown s = .next s := by
  show execShutdown s = _
  rw [execShutdown, h]

theorem exec_shutdown_some {s : State} {e : Nat × W32} (h : s.critical = some e) :
    ∃ u, exec .shutdown s = .next u ∧ u.bel.power = .off ∧ u.bel.logtail = s.bel.logtail + 1 := by
  have hex : exec .shutdown s = execShutdown s := rfl
  rw [execShutdown, h] at hex
  exact ⟨_, hex, rfl, rfl⟩

theorem State.critical_isSome (s : State) :
    s.critical.isSome = (sensorCritical s.inp.num (s.inp.value.setWidth 32) || s.shutdownDue.isSome) := by
  rw [State.critical]
  cases sensorCritical s.inp.num (s.inp.value.setWidth 32)
  · exact Option.isSome_map
  · rfl

theorem exec_d3hotEntry {s : State} (hp : s.bel.power = .d0 ∨ s.bel.power = .d0idle) (hj : ∀ j ∈ s.jobs, j.2.type = 0 → j.2.phase ≠ .started) :
    exec .d3hotEntry s = .next { s.cleanCaches.lost { s.cleanCaches.bel with power := .d3hot } with
      time := s.cleanCaches.time, mem := s.cleanCaches.mem, blk := s.cleanCaches.blk, poolFree := s.cleanCaches.poolFree,
      rsvFree := s.cleanCaches.rsvFree, rsvLow := s.cleanCaches.rsvLow, frames := s.cleanCaches.frames, tables := s.cleanCaches.tables,
      sess := s.cleanCaches.sess, doe := s.cleanCaches.doe } := by
  refine if_neg ?_
  have hany : s.jobs.any (fun j => j.2.type == 0 && j.2.phase == .started) = false := by
    rw [List.any_eq_false]
    intro j hm hb
    obtain ⟨htype, hphase⟩ := Bool.and_eq_true_iff.mp hb
    exact hj j hm (beq_iff_eq.mp htype) (eq_of_beq hphase)
  rw [hany, Bool.or_false]
  rcases hp with h | h
  all_goals rw [h]
  all_goals decide

/-- Settles O55: each event is the branch of its definition that its guard picks, and a reading's fields survive the log. -/
theorem powerAndSensors : Obligations.PowerAndSensors := by
  unfold Obligations.PowerAndSensors
  intro s n x
  refine ⟨fun hp hj => ?_, fun h => congrArg Host.Outcome.next (if_pos h), rfl, fun h => congrArg Host.Outcome.next (if_pos h),
    fun h => congrArg Host.Outcome.next (if_pos h), fun h => congrArg Host.Outcome.next (if_pos h), fun h => congrArg Host.Outcome.next (if_pos h),
    fun hn => ⟨_, exec_sensorWarning hn, ?_⟩, fun hn => ⟨_, exec_sensorWarningEnd hn rfl, ?_⟩, s.warns_power, fun h => ?_, fun hc hd => ?_⟩
  · intro x
    exact ⟨_, exec_d3hotEntry hp hj, rfl, rfl, rfl, rfl, rfl, rfl, rfl, rfl⟩
  · exact State.setSensor_reads (sensorsAs_ite _ ⟨rfl, rfl, rfl⟩ ⟨rfl, rfl, rfl⟩)
  · exact State.setSensor_reads (sensorsAs_ite _ ⟨rfl, rfl, rfl⟩ ⟨rfl, rfl, rfl⟩)
  · have hsome : s.critical.isSome = true := by
      rw [s.critical_isSome, Bool.or_eq_true]
      exact h
    obtain ⟨e, he⟩ := Option.isSome_iff_exists.mp hsome
    exact exec_shutdown_some he
  · refine exec_shutdown_none (Option.isSome_eq_false_iff.mp ?_ |> Option.isNone_iff_eq_none.mp)
    rw [s.critical_isSome, hd, show sensorCritical s.inp.num (s.inp.value.setWidth 32) = false from hc]
    rfl

end Sys2Proof.Machine
end

section
/-!
The instructions of a core, and the operations that they share, latch nothing: the blown fuses and the states of the interfaces stay.
-/
namespace Sys2Proof.Machine

/-- What only the firmware's commands, resets and TDISP requests change: the blown fuses and the states of the interfaces. -/
def State.latched (s : State) : Nat × SMap Nat := (s.bel.fuses, s.tdisp)

@[simp] theorem State.latched_ite (c : Prop) [Decidable c] (a b : State) : (if c then a else b).latched = if c then a.latched else b.latched :=
  apply_ite _ c a b

@[simp] theorem State.latched_ite_fst {α : Type} (c : Prop) [Decidable c] (a b : State × α) :
    (if c then a else b).1.latched = if c then a.1.latched else b.1.latched := apply_ite (fun x => x.1.latched) c a b

@[simp] theorem State.latched_foldl {α : Type} {g : State → α → State} (hg : ∀ s a, (g s a).latched = s.latched) (l : List α) (s : State) :
    (l.foldl g s).latched = s.latched := by
  induction l generalizing s with
  | nil => rfl
  | cons a r ih => exact (ih _).trans (hg s a)

@[simp] theorem State.latched_foldl_fst {α β : Type} {g : State × β → α → State × β} (hg : ∀ x a, (g x a).1.latched = x.1.latched) (l : List α)
    (x : State × β) : (l.foldl g x).1.latched = x.1.latched := by
  induction l generalizing x with
  | nil => rfl
  | cons a r ih => exact (ih _).trans (hg x a)

@[simp] theorem State.latched_mk
    (clock : W64) (time : Nat) (cur : Nat) (picked : Bool) (agenda : List (Instr × Input)) (deferred : List (Instr × Input)) (inp : Input)
    (order : List Nat) (fresh : Nat) (teams : SMap Team) (blocks : SMap Block) (jobs : SMap Job) (orders : Nat) (cm : List Host.Cell)
    (cmBad : SMap Bool) (mem : List Host.Cell) (blk : SMap Blk) (sysmem : List Host.Cell) (regs : SMap W64) (tails : SMap Nat)
    (feLines : List (Nat × Bool × Nat)) (feFail : SMap Bool) (reports : List (Nat × List W64)) (faults : List FaultRec)
    (replies : List Reply) (reserved : List (Nat × Nat)) (rcache : SMap (List (Nat × Nat × Bool))) (batches : List Batch)
    (verdicts : List Verdict) (tables : SMap Table) (spireRot : SMap (Nat × Nat × Nat)) (copies : List CopyReq) (promise : SMap Nat)
    (queues : SMap Queue) (qreqs : List QReq) (deposits : List Deposit) (groups : SMap Group) (posts : List Post) (appends : List Append)
    (watches : SMap Watch) (arrays : SMap (List Nat)) (clusters : SMap Cluster) (fePrev : SMap Nat) (held : List Held) (atoms : List Atom)
    (atomTag : Nat) (falls : SMap Nat) (poolFree : SMap Nat) (rsvFree : SMap Nat) (rsvLow : SMap Bool) (rounds : SMap Round)
    (frames : SMap Frame) (tlb : SMap (Nat × Nat)) (who : Nat) (invs : List (Nat × W64 × W64)) (discards : List (Nat × W64)) (coh : Coh)
    (ports : SMap Port) (sess : SMap Sess) (peers : SMap Peer) (tdisp : SMap Nat) (doe : SMap (List W64)) (bel : Belfry) :
    (State.mk
      clock time cur picked agenda deferred inp order fresh teams blocks jobs orders cm cmBad mem blk sysmem regs tails feLines feFail
      reports faults replies reserved rcache batches verdicts tables spireRot copies promise queues qreqs deposits groups posts appends
      watches arrays clusters fePrev held atoms atomTag falls poolFree rsvFree rsvLow rounds frames tlb who invs discards coh ports sess
      peers tdisp doe bel).latched = (bel.fuses, tdisp) := Prod.ext rfl rfl

@[simp] theorem State.latched_eta (s : State) : (s.bel.fuses, s.tdisp) = s.latched := Prod.ext rfl rfl

/-- What is latched after an outcome: the next state's, or, where there is none, what was before. -/
def State.latchedBy (s : State) (o : Host.Outcome State Fault Refusal) : Nat × SMap Nat :=
  match o with
  | .next t => t.latched
  | _ => s.latched

@[simp] theorem State.latchedBy_next (s t : State) : s.latchedBy (.next t) = t.latched := rfl
@[simp] theorem State.latchedBy_fault (s : State) (e : Fault) : s.latchedBy (.fault e) = s.latched := rfl
@[simp] theorem State.latchedBy_ite (s : State) (c : Prop) [Decidable c] (a b : Host.Outcome State Fault Refusal) :
    s.latchedBy (if c then a else b) = if c then s.latchedBy a else s.latchedBy b := apply_ite _ c a b

/-! Registers. -/

@[simp] theorem State.setReg_latched (s : State) (f off : Nat) (v : W64) : (State.setReg s f off v).latched = s.latched := by simp [State.setReg]

@[simp] theorem State.addReg_latched (s : State) (f off : Nat) (v : W64) : (State.addReg s f off v).latched = s.latched := by simp [State.addReg]

@[simp] theorem State.tick_latched (s : State) : (State.tick s).latched = s.latched := by
  unfold State.tick
  repeat' split
  all_goals simp

/-! Fabric. -/

@[simp] theorem State.setTeam_latched (s : State) (i : Nat) (t : Team) : (State.setTeam s i t).latched = s.latched := by simp [State.setTeam]

@[simp] theorem State.setBlock_latched (s : State) (i : Nat) (b : Block) : (State.setBlock s i b).latched = s.latched := by simp [State.setBlock]

@[simp] theorem State.setJob_latched (s : State) (i : Nat) (j : Job) : (State.setJob s i j).latched = s.latched := by simp [State.setJob]

@[simp] theorem State.useFresh_latched (s : State) : (State.useFresh s).latched = s.latched := by simp [State.useFresh]

@[simp] theorem State.logErr_latched (s : State) (kind die vf : Nat) (w2 w3 : Option W64) (detail : List W64) :
    (State.logErr s kind die vf w2 w3 detail).latched = s.latched := by simp [State.logErr]

@[simp] theorem State.addUsed_latched (s : State) (da : Nat) (up : Bool) : (State.addUsed s da up).latched = s.latched := by
  unfold State.addUsed
  split
  · rfl
  · simp only [State.latched_ite, State.addReg_latched, State.latched_mk, State.latched_eta, ite_self]

@[simp] theorem State.setRsv_latched (s : State) (d n : Nat) : (State.setRsv s d n).latched = s.latched := by simp [State.setRsv]

@[simp] theorem State.askRound_latched (s : State) (d : Nat) : (State.askRound s d).latched = s.latched := by simp [State.askRound]

@[simp] theorem State.freeStorage_latched (s : State) (d : Nat) : (State.freeStorage s d).latched = s.latched := by simp [State.freeStorage]

@[simp] theorem State.takeStorage_latched (s : State) (d : Nat) : (State.takeStorage s d).latched = s.latched := by simp [State.takeStorage]

@[simp] theorem State.touchFrame_latched (s : State) (da : Nat) : (State.touchFrame s da).latched = s.latched := by simp [State.touchFrame]

@[simp] theorem State.writeDev_latched (s : State) (da : Nat) (bs : List Byte) : (State.writeDev s da bs).latched = s.latched := by
  rw [State.writeDev]
  split <;> simp

@[simp] theorem State.blockPut_latched (s : State) (da : Nat) (bs : List Byte) (cmp : Bool) : (State.blockPut s da bs cmp).latched = s.latched := by
  rw [State.blockPut]
  split <;> simp

@[simp] theorem State.rawPut_latched (s : State) (da : Nat) (bs : List Byte) : (State.rawPut s da bs).latched = s.latched := by simp [State.rawPut]

@[simp] theorem State.dlAppend_latched (s0 : State) (f da : Nat) : (State.dlAppend s0 f da).latched = s0.latched := by simp [State.dlAppend]

@[simp] theorem State.loseLines_latched (s : State) (sys : Bool) (a n : Nat) : (State.loseLines s sys a n).latched = s.latched := by
  simp [State.loseLines]

@[simp] theorem State.putPart_latched (s0 : State) (f : Nat) (p : Part) : (State.putPart s0 f p).latched = s0.latched := by simp [State.putPart]

@[simp] theorem State.putParts_latched (s : State) (f : Nat) (ps : List Part) : (State.putParts s f ps).latched = s.latched := by
  simp [State.putParts]

@[simp] theorem State.clearLate_latched (s : State) (lo hi : Nat) : (State.clearLate s lo hi).latched = s.latched := by simp [State.clearLate]

@[simp] theorem State.latePart_latched (s0 : State) (f : Nat) (p : Part) : (State.latePart s0 f p).latched = s0.latched := by simp [State.latePart]

@[simp] theorem State.lateParts_latched (s : State) (f : Nat) (ps : List Part) : (State.lateParts s f ps).latched = s.latched := by
  simp [State.lateParts]

@[simp] theorem State.holdWrite_latched (s : State) (f : Nat) (ps : List Part) (w : Writer) (log : Bool) (va : Nat) (op : HeldOp) :
    (State.holdWrite s f ps w log va op).latched = s.latched := by simp [State.holdWrite]

@[simp] theorem State.storeWith_latched (s : State) (f : Nat) (ps : List Part) (ctx : Bool) (w : Writer) (va : Nat) (op : HeldOp) (put : State → State) (hput : ∀ u : State, (put u).latched = u.latched) :
    (State.storeWith s f ps ctx w va op put).1.latched = s.latched := by
  simp [State.storeWith, hput]

@[simp] theorem State.storeParts_latched (s : State) (f : Nat) (ps : List Part) (ctx : Bool) (w : Writer) (va : Nat) (op : HeldOp) :
    (State.storeParts s f ps ctx w va op).1.latched = s.latched := by simp [State.storeParts]

@[simp] theorem State.storeDirty_latched (s : State) (f : Nat) (ps : List Part) (w : Writer) (va : Nat) (op : HeldOp) :
    (State.storeDirty s f ps w va op).1.latched = s.latched := by simp [State.storeDirty]

@[simp] theorem State.storeBlock_latched (s : State) (f da : Nat) (bs : List Byte) (cmp ctx : Bool) (w : Writer) (va : Nat) :
    (State.storeBlock s f da bs cmp ctx w va).1.latched = s.latched := by simp [State.storeBlock]

@[simp] theorem State.askLog_latched (s : State) (f : Nat) : (State.askLog s f).latched = s.latched := by simp [State.askLog]

@[simp] theorem State.setAccessed_latched (s : State) (f ea e : Nat) : (State.setAccessed s f ea e).latched = s.latched := by simp [State.setAccessed]

@[simp] theorem State.as_latched (s : State) (a : Nat) (k : State → State) (hk : ∀ u : State, (k u).latched = u.latched) :
    (State.as s a k).latched = s.latched := (hk _).trans rfl

@[simp] theorem State.leafFor_latched (s : State) (f va : Nat) : (State.leafFor s f va).1.latched = s.latched := by
  unfold State.leafFor
  dsimp only
  repeat' split
  all_goals simp

@[simp] theorem State.cacheLeaf_latched (s : State) (f va : Nat) (x : Nat × Nat) : (State.cacheLeaf s f va x).latched = s.latched := by
  simp [State.cacheLeaf]

@[simp] theorem State.useLeaf_latched (s : State) (f va ea e lvl : Nat) (fill : Bool) (da : Option Nat) :
    (State.useLeaf s f va ea e lvl fill da).latched = s.latched := by
  unfold State.useLeaf
  repeat' split
  all_goals simp

@[simp] theorem State.walk_latched (s : State) (f va : Nat) (rd wr : Bool) : (State.walk s f va rd wr).1.latched = s.latched := by
  unfold State.walk
  dsimp only
  repeat' split
  all_goals simp

@[simp] theorem State.storeTr_latched (s : State) (t : Tr) (bs : List Byte) (ctx : Bool) (w : Writer) (va : Nat) :
    (State.storeTr s t bs ctx w va).1.latched = s.latched := by simp [State.storeTr]

@[simp] theorem State.vread_latched (s : State) (f va n : Nat) : (State.vread s f va n).1.latched = s.latched := by
  refine State.latched_foldl_fst (fun x a => ?_) _ _
  split
  · dsimp only
    split <;> simp
  · rfl

@[simp] theorem State.partsAt_latched (s : State) (f va : Nat) (bs : List Byte) : (State.partsAt s f va bs).1.latched = s.latched := by
  refine State.latched_foldl_fst (fun x a => ?_) _ _
  split
  · rfl
  · dsimp only
    split <;> simp

@[simp] theorem State.wbBlock_latched (s : State) (a n : Nat) : (State.wbBlock s a n).latched = s.latched := by
  unfold State.wbBlock
  dsimp only
  repeat' split
  all_goals simp

@[simp] theorem State.writeBack_latched (s : State) (a n : Nat) : (State.writeBack s a n).latched = s.latched := by simp [State.writeBack]

@[simp] theorem State.dropLinesIn_latched (s0 : State) (lo hi : Nat) : (State.dropLinesIn s0 lo hi).latched = s0.latched := by
  simp [State.dropLinesIn]

@[simp] theorem State.dropParts_latched (s : State) (ps : List Part) : (State.dropParts s ps).latched = s.latched := by simp [State.dropParts]

@[simp] theorem State.tryPut_latched (s : State) (f va : Nat) (bs : List Byte) : (State.tryPut s f va bs).1.latched = s.latched := by
  rw [State.tryPut]
  split <;> simp

@[simp] theorem State.vput_latched (s : State) (f va : Nat) (bs : List Byte) : (State.vput s f va bs).latched = s.latched := by
  rw [State.vput]
  split <;> simp

@[simp] theorem State.drainFaults_latched (fuel : Nat) (s : State) (f : Nat) : (State.drainFaults fuel s f).latched = s.latched := by
  induction fuel generalizing s with
  | zero => rfl
  | succ k ih =>
    unfold State.drainFaults
    dsimp only
    repeat' split
    all_goals simp [ih]

@[simp] theorem State.addFault_latched (s : State) (r : FaultRec) : (State.addFault s r).latched = s.latched := by simp [State.addFault]

@[simp] theorem State.dlogRecord_latched (s : State) (f : Nat) : (State.dlogRecord s f).latched = s.latched := by simp [State.dlogRecord]

@[simp] theorem State.drainReports_latched (fuel : Nat) (s : State) (f : Nat) : (State.drainReports fuel s f).latched = s.latched := by
  induction fuel generalizing s with
  | zero => rfl
  | succ k ih =>
    unfold State.drainReports
    dsimp only
    repeat' split
    all_goals simp [ih]

@[simp] theorem State.report_latched (s : State) (f kind level status : Nat) (tag : W64) (num : Nat) (ctx : W64) :
    (State.report s f kind level status tag num ctx).latched = s.latched := by simp [State.report]

/-! Image. -/

@[simp] theorem State.imagePut_latched (s : State) (f va : Nat) (bs : List Byte) : (State.imagePut s f va bs).1.latched = s.latched := by
  rw [State.imagePut]
  split <;> simp

@[simp] theorem State.ctxPut_latched (s : State) (i off : Nat) (bs : List Byte) : (State.ctxPut s i off bs).1.latched = s.latched := by
  rw [State.ctxPut]
  split <;> simp

@[simp] theorem State.writeControl_latched (s : State) (i : Nat) : (State.writeControl s i).latched = s.latched := by simp [State.writeControl]

@[simp] theorem State.noteTeam_latched (s : State) (i : Nat) (t0 : Team) : (State.noteTeam s i t0).latched = s.latched := by simp [State.noteTeam]

@[simp] theorem State.noteHalted_latched (s : State) (i : Nat) : (State.noteHalted s i).latched = s.latched := by simp [State.noteHalted]

/-! Ops. -/

@[simp] theorem State.setLt_latched (s : State) (core : Nat) (x : W64) : (State.setLt s core x).latched = s.latched := by simp [State.setLt]

@[simp] theorem State.syncLt_latched (s : State) (core : Nat) : (State.syncLt s core).latched = s.latched := by simp [State.syncLt]

@[simp] theorem State.account_latched (s : State) (i : Nat) (instr ksteps bytes : Nat) : (State.account s i instr ksteps bytes).latched = s.latched := by
  simp [State.account]

@[simp] theorem State.finish_latched (s : State) (i : Ins) (t : Team) : (State.finish s i t).latched = s.latched := by simp [State.finish]

@[simp] theorem State.finishBytes_latched (s : State) (i : Ins) (t : Team) (bytes : Nat) : (State.finishBytes s i t bytes).latched = s.latched := by
  simp [State.finishBytes]

@[simp] theorem State.issued_latched (s : State) (i : Ins) (t : Team) : (State.issued s i t).latched = s.latched := by simp [State.issued]

@[simp] theorem State.sendReply_latched (s : State) (dsts : List Dst) (set : Nat) (entry : Option (Nat × Nat)) (bytes : Nat) (trap : Option PendTrap) :
    (State.sendReply s dsts set entry bytes trap).latched = s.latched := by simp [State.sendReply]

@[simp] theorem State.produce_latched (s : State) (i : Ins) (t : Team) (marks : List Ref) (dsts : List Dst) (set : Nat) :
    (State.produce s i t marks dsts set).latched = s.latched := by simp [State.produce]

@[simp] theorem State.park_latched (s : State) (i : Nat) (c : Cause) (arg : W64) : (State.park s i c arg).latched = s.latched := by simp [State.park]

@[simp] theorem State.parkHere_latched (s : State) (c : Cause) (arg : W64) : (State.parkHere s c arg).latched = s.latched := by simp [State.parkHere]

@[simp] theorem State.parkNoted_latched (s : State) (i : Nat) (c : Cause) (arg : W64) : (State.parkNoted s i c arg).latched = s.latched := by
  simp [State.parkNoted]

@[simp] theorem State.parkHalted_latched (s : State) (i skid : Nat) : (State.parkHalted s i skid).latched = s.latched := by simp [State.parkHalted]

@[simp] theorem State.countWake_latched (s : State) (i : Nat) : (State.countWake s i).latched = s.latched := by simp [State.countWake]

@[simp] theorem State.unpark_latched (s : State) (i : Nat) : (State.unpark s i).latched = s.latched := by simp [State.unpark]

@[simp] theorem State.haltSibling_latched (s : State) (origin i : Nat) : (State.haltSibling s origin i).latched = s.latched := by
  unfold State.haltSibling
  dsimp only
  repeat' split
  all_goals simp

@[simp] theorem State.haltBlock_latched (s : State) (origin : Nat) : (State.haltBlock s origin).latched = s.latched := by simp [State.haltBlock]

@[simp] theorem State.releaseBlock_latched (s : State) (bi : Nat) : (State.releaseBlock s bi).latched = s.latched := by simp [State.releaseBlock]

@[simp] theorem State.fatal_latched (s : State) (i cls : Nat) (arg : W64) : (State.fatal s i cls arg).latched = s.latched := by simp [State.fatal]

@[simp] theorem State.takeTrap_latched (s : State) (i : Nat) (x : TrapInfo) : (State.takeTrap s i x).latched = s.latched := by simp [State.takeTrap]

@[simp] theorem State.trapAt_latched (s : State) (i : Ins) (cls sub : Nat) (causes : List (Nat × Nat)) (key off : Nat) :
    (State.trapAt s i cls sub causes key off).latched = s.latched := by simp [State.trapAt]

@[simp] theorem State.trapLanes_latched (s : State) (i : Ins) (cls sub : Nat) (lanes : List Nat) :
    (State.trapLanes s i cls sub lanes).latched = s.latched := by simp [State.trapLanes]

@[simp] theorem State.illegal_latched (s : State) (len sub : Nat) : (State.illegal s len sub).latched = s.latched := by simp [State.illegal]

@[simp] theorem State.returnTrap_latched (s : State) (i : Nat) : (State.returnTrap s i).latched = s.latched := by simp [State.returnTrap]

@[simp] theorem State.setArray_latched (s : State) (k : Nat) (l : List Nat) : (State.setArray s k l).latched = s.latched := by simp [State.setArray]

@[simp] theorem State.stopMma_latched (s : State) (i : Nat) : (State.stopMma s i).latched = s.latched := by
  rw [State.stopMma]
  split <;> simp

@[simp] theorem State.requeueMma_latched (s : State) (i : Nat) : (State.requeueMma s i).latched = s.latched := by
  rw [State.requeueMma]
  split <;> simp

@[simp] theorem State.rteMma_latched (s : State) (i : Nat) : (State.rteMma s i).latched = s.latched := by
  rw [State.rteMma]
  split <;> simp

@[simp] theorem runIns_latched (i : Ins) (s : State) (k : Team → List Nat → State) (hk : ∀ t ls, (k t ls).latched = s.latched) :
    s.latchedBy (runIns i s k) = s.latched := by
  unfold runIns
  dsimp only
  split <;> simp [hk]

@[simp] theorem runUni_latched (i : Ins) (s : State) (k : Team → State) (hk : ∀ t, (k t).latched = s.latched) :
    s.latchedBy (runUni i s k) = s.latched := by
  refine runIns_latched i s _ fun t ls => ?_
  simp [hk]

@[simp] theorem State.withFlags_latched (s : State) (i : Ins) (t : Team) (os : List LaneOut) (k : Team → State) (hk : ∀ t, (k t).latched = s.latched) :
    (State.withFlags s i t os k).latched = s.latched := by
  rw [State.withFlags]
  simp [hk]

@[simp] theorem runAlu_latched (i : Ins) (s : State) (g : Team → Nat → Nat × Nat) : s.latchedBy (runAlu i s g) = s.latched := by simp [runAlu]

@[simp] theorem runAlu32_latched (i : Ins) (s : State) (g : Team → Nat → Nat × Nat) : s.latchedBy (runAlu32 i s g) = s.latched := by simp [runAlu32]

@[simp] theorem runTest_latched (i : Ins) (s : State) (g : Team → Nat → Bool × Nat) : s.latchedBy (runTest i s g) = s.latched := by simp [runTest]

@[simp] theorem State.pageFault_latched (s : State) (i : Ins) (kind : Nat) (hits : List PageHit) : (State.pageFault s i kind hits).latched = s.latched := by
  unfold State.pageFault
  dsimp only
  split <;> simp

/-! Integer. -/

@[simp] theorem execIadd_latched (f : Form) (s : State) : s.latchedBy (execIadd f s) = s.latched := by simp [execIadd]

@[simp] theorem execIsub_latched (f : Form) (s : State) : s.latchedBy (execIsub f s) = s.latched := by simp [execIsub]

@[simp] theorem execImul_latched (f : Form) (s : State) : s.latchedBy (execImul f s) = s.latched := by simp [execImul]

@[simp] theorem execImulh_latched (f : Form) (s : State) : s.latchedBy (execImulh f s) = s.latched := by simp [execImulh]

@[simp] theorem execImad_latched (f : Form) (s : State) : s.latchedBy (execImad f s) = s.latched := by simp [execImad]

@[simp] theorem execIdiv_latched (f : Form) (s : State) : s.latchedBy (execIdiv f s) = s.latched := by simp [execIdiv]

@[simp] theorem execIrem_latched (f : Form) (s : State) : s.latchedBy (execIrem f s) = s.latched := by simp [execIrem]

@[simp] theorem execImin_latched (f : Form) (s : State) : s.latchedBy (execImin f s) = s.latched := by simp [execImin]

@[simp] theorem execImax_latched (f : Form) (s : State) : s.latchedBy (execImax f s) = s.latched := by simp [execImax]

@[simp] theorem execIabsS_latched (f : SForm) (s : State) : s.latchedBy (execIabsS f s) = s.latched := by simp [execIabsS]

@[simp] theorem execIabsL_latched (f : Form) (s : State) : s.latchedBy (execIabsL f s) = s.latched := by simp [execIabsL]

@[simp] theorem execInegS_latched (f : SForm) (s : State) : s.latchedBy (execInegS f s) = s.latched := by simp [execInegS]

@[simp] theorem execInegL_latched (f : Form) (s : State) : s.latchedBy (execInegL f s) = s.latched := by simp [execInegL]

@[simp] theorem execIadds_latched (f : Form) (s : State) : s.latchedBy (execIadds f s) = s.latched := by simp [execIadds]

@[simp] theorem execIsubs_latched (f : Form) (s : State) : s.latchedBy (execIsubs f s) = s.latched := by simp [execIsubs]

@[simp] theorem execAnd_latched (f : Form) (s : State) : s.latchedBy (execAnd f s) = s.latched := by simp [execAnd]

@[simp] theorem execOr_latched (f : Form) (s : State) : s.latchedBy (execOr f s) = s.latched := by simp [execOr]

@[simp] theorem execXor_latched (f : Form) (s : State) : s.latchedBy (execXor f s) = s.latched := by simp [execXor]

@[simp] theorem execAndn_latched (f : Form) (s : State) : s.latchedBy (execAndn f s) = s.latched := by simp [execAndn]

@[simp] theorem execNotS_latched (f : SForm) (s : State) : s.latchedBy (execNotS f s) = s.latched := by simp [execNotS]

@[simp] theorem execNotL_latched (f : Form) (s : State) : s.latchedBy (execNotL f s) = s.latched := by simp [execNotL]

@[simp] theorem execShl_latched (f : Form) (s : State) : s.latchedBy (execShl f s) = s.latched := by simp [execShl]

@[simp] theorem execShr_latched (f : Form) (s : State) : s.latchedBy (execShr f s) = s.latched := by simp [execShr]

@[simp] theorem execSar_latched (f : Form) (s : State) : s.latchedBy (execSar f s) = s.latched := by simp [execSar]

@[simp] theorem execRol_latched (f : Form) (s : State) : s.latchedBy (execRol f s) = s.latched := by simp [execRol]

@[simp] theorem execBfx_latched (f : Form) (s : State) : s.latchedBy (execBfx f s) = s.latched := by simp [execBfx]

@[simp] theorem execBfi_latched (f : Form) (s : State) : s.latchedBy (execBfi f s) = s.latched := by simp [execBfi]

@[simp] theorem execPopcS_latched (f : SForm) (s : State) : s.latchedBy (execPopcS f s) = s.latched := by simp [execPopcS]

@[simp] theorem execPopcL_latched (f : Form) (s : State) : s.latchedBy (execPopcL f s) = s.latched := by simp [execPopcL]

@[simp] theorem execClzS_latched (f : SForm) (s : State) : s.latchedBy (execClzS f s) = s.latched := by simp [execClzS]

@[simp] theorem execClzL_latched (f : Form) (s : State) : s.latchedBy (execClzL f s) = s.latched := by simp [execClzL]

@[simp] theorem execCtzS_latched (f : SForm) (s : State) : s.latchedBy (execCtzS f s) = s.latched := by simp [execCtzS]

@[simp] theorem execCtzL_latched (f : Form) (s : State) : s.latchedBy (execCtzL f s) = s.latched := by simp [execCtzL]

@[simp] theorem execBrevS_latched (f : SForm) (s : State) : s.latchedBy (execBrevS f s) = s.latched := by simp [execBrevS]

@[simp] theorem execBrevL_latched (f : Form) (s : State) : s.latchedBy (execBrevL f s) = s.latched := by simp [execBrevL]

@[simp] theorem execSel_latched (f : Form) (s : State) : s.latchedBy (execSel f s) = s.latched := by simp [execSel]

@[simp] theorem execMovS_latched (f : SForm) (s : State) : s.latchedBy (execMovS f s) = s.latched := by simp [execMovS]

@[simp] theorem execMovL_latched (f : Form) (s : State) : s.latchedBy (execMovL f s) = s.latched := by simp [execMovL]

@[simp] theorem execMovi_latched (f : Form) (s : State) : s.latchedBy (execMovi f s) = s.latched := by simp [execMovi]

@[simp] theorem execPrmt_latched (f : Form) (s : State) : s.latchedBy (execPrmt f s) = s.latched := by simp [execPrmt]

@[simp] theorem execIaddc_latched (f : Form) (s : State) : s.latchedBy (execIaddc f s) = s.latched := by simp [execIaddc]

@[simp] theorem execSrd_latched (f : Form) (s : State) : s.latchedBy (execSrd f s) = s.latched := by simp [execSrd]

@[simp] theorem execSwr_latched (f : Form) (s : State) : s.latchedBy (execSwr f s) = s.latched := by
  rw [execSwr]
  refine (State.latchedBy_ite _ _ _ _).trans ?_
  rw [runUni_latched]
  · simp
  · intro t
    dsimp only
    split
    · split <;> simp
    · simp

/-! FloatOps. -/

@[simp] theorem execFadd_latched (f : Form) (s : State) : s.latchedBy (execFadd f s) = s.latched := by simp [execFadd]

@[simp] theorem execFsub_latched (f : Form) (s : State) : s.latchedBy (execFsub f s) = s.latched := by simp [execFsub]

@[simp] theorem execFmul_latched (f : Form) (s : State) : s.latchedBy (execFmul f s) = s.latched := by simp [execFmul]

@[simp] theorem execFfma_latched (f : Form) (s : State) : s.latchedBy (execFfma f s) = s.latched := by simp [execFfma]

@[simp] theorem execFmin_latched (f : Form) (s : State) : s.latchedBy (execFmin f s) = s.latched := by simp [execFmin]

@[simp] theorem execFmax_latched (f : Form) (s : State) : s.latchedBy (execFmax f s) = s.latched := by simp [execFmax]

@[simp] theorem execFabsS_latched (f : SForm) (s : State) : s.latchedBy (execFabsS f s) = s.latched := by simp [execFabsS]

@[simp] theorem execFabsL_latched (f : Form) (s : State) : s.latchedBy (execFabsL f s) = s.latched := by simp [execFabsL]

@[simp] theorem execFnegS_latched (f : SForm) (s : State) : s.latchedBy (execFnegS f s) = s.latched := by simp [execFnegS]

@[simp] theorem execFnegL_latched (f : Form) (s : State) : s.latchedBy (execFnegL f s) = s.latched := by simp [execFnegL]

@[simp] theorem execFdiv_latched (f : Form) (s : State) : s.latchedBy (execFdiv f s) = s.latched := by simp [execFdiv]

@[simp] theorem execFsqrtS_latched (f : SForm) (s : State) : s.latchedBy (execFsqrtS f s) = s.latched := by simp [execFsqrtS]

@[simp] theorem execFsqrtL_latched (f : Form) (s : State) : s.latchedBy (execFsqrtL f s) = s.latched := by simp [execFsqrtL]

@[simp] theorem execFrcpS_latched (f : SForm) (s : State) : s.latchedBy (execFrcpS f s) = s.latched := by simp [execFrcpS]

@[simp] theorem execFrcpL_latched (f : Form) (s : State) : s.latchedBy (execFrcpL f s) = s.latched := by simp [execFrcpL]

@[simp] theorem execFrintS_latched (f : SForm) (s : State) : s.latchedBy (execFrintS f s) = s.latched := by simp [execFrintS]

@[simp] theorem execFrintL_latched (f : Form) (s : State) : s.latchedBy (execFrintL f s) = s.latched := by simp [execFrintL]

@[simp] theorem execFclassS_latched (f : SForm) (s : State) : s.latchedBy (execFclassS f s) = s.latched := by simp [execFclassS]

@[simp] theorem execFclassL_latched (f : Form) (s : State) : s.latchedBy (execFclassL f s) = s.latched := by simp [execFclassL]

@[simp] theorem execFscale_latched (f : Form) (s : State) : s.latchedBy (execFscale f s) = s.latched := by simp [execFscale]

@[simp] theorem execFdot2_latched (f : Form) (s : State) : s.latchedBy (execFdot2 f s) = s.latched := by simp [execFdot2]

/-! Convert. -/

@[simp] theorem runSr_latched (i : Ins) (s : State) (g : Team → Nat → Nat × Nat) : s.latchedBy (runSr i s g) = s.latched := by simp [runSr]

@[simp] theorem execCvt_latched (f : Form) (s : State) : s.latchedBy (execCvt f s) = s.latched := by simp [execCvt]

@[simp] theorem execPack_latched (f : Form) (s : State) : s.latchedBy (execPack f s) = s.latched := by simp [execPack]

@[simp] theorem execUnpk_latched (f : Form) (s : State) : s.latchedBy (execUnpk f s) = s.latched := by simp [execUnpk]

/-! Compare. -/

@[simp] theorem execIcmp_latched (f : Form) (s : State) : s.latchedBy (execIcmp f s) = s.latched := by simp [execIcmp]

@[simp] theorem execFcmp_latched (f : Form) (s : State) : s.latchedBy (execFcmp f s) = s.latched := by simp [execFcmp]

@[simp] theorem execPlop_latched (f : Form) (s : State) : s.latchedBy (execPlop f s) = s.latched := by simp [execPlop]

@[simp] theorem execPmov_latched (f : Form) (s : State) : s.latchedBy (execPmov f s) = s.latched := by
  rw [execPmov]
  split <;> simp

/-! CrossLane. -/

@[simp] theorem runProduce_latched (i : Ins) (s : State) (g : Team → List Nat → List Dst) : s.latchedBy (runProduce i s g) = s.latched := by
  simp [runProduce]

@[simp] theorem execShfl_latched (f : Form) (s : State) : s.latchedBy (execShfl f s) = s.latched := by simp [execShfl]

@[simp] theorem execBcst_latched (f : Form) (s : State) : s.latchedBy (execBcst f s) = s.latched := by simp [execBcst]

@[simp] theorem execVote_latched (f : Form) (s : State) : s.latchedBy (execVote f s) = s.latched := by simp [execVote]

@[simp] theorem execMbalS_latched (f : SForm) (s : State) : s.latchedBy (execMbalS f s) = s.latched := by simp [execMbalS]

@[simp] theorem execMbalL_latched (f : Form) (s : State) : s.latchedBy (execMbalL f s) = s.latched := by simp [execMbalL]

@[simp] theorem runScan_latched (i : Ins) (s : State) : s.latchedBy (runScan i s) = s.latched := by simp [runScan]

@[simp] theorem execScanS_latched (f : SForm) (s : State) : s.latchedBy (execScanS f s) = s.latched := by simp [execScanS]

@[simp] theorem execScanL_latched (f : Form) (s : State) : s.latchedBy (execScanL f s) = s.latched := by simp [execScanL]

@[simp] theorem execRedS_latched (f : SForm) (s : State) : s.latchedBy (execRedS f s) = s.latched := by simp [execRedS]

@[simp] theorem execRedL_latched (f : Form) (s : State) : s.latchedBy (execRedL f s) = s.latched := by simp [execRedL]

@[simp] theorem execTsort_latched (f : Form) (s : State) : s.latchedBy (execTsort f s) = s.latched := by simp [execTsort]

@[simp] theorem execTselk_latched (f : Form) (s : State) : s.latchedBy (execTselk f s) = s.latched := by simp [execTselk]

/-! FunctionUnit. -/

@[simp] theorem runFu_latched (i : Ins) (s : State) (g : Bool → Nat → Nat → Nat → Nat × Nat) : s.latchedBy (runFu i s g) = s.latched := by
  simp [runFu]

@[simp] theorem execCexp2_latched (f : Form) (s : State) : s.latchedBy (execCexp2 f s) = s.latched := by simp [execCexp2]

@[simp] theorem execClog2_latched (f : Form) (s : State) : s.latchedBy (execClog2 f s) = s.latched := by simp [execClog2]

@[simp] theorem execCsin_latched (f : Form) (s : State) : s.latchedBy (execCsin f s) = s.latched := by simp [execCsin]

@[simp] theorem execCcos_latched (f : Form) (s : State) : s.latchedBy (execCcos f s) = s.latched := by simp [execCcos]

@[simp] theorem execCsincos_latched (f : Form) (s : State) : s.latchedBy (execCsincos f s) = s.latched := by simp [execCsincos]

@[simp] theorem execCatan2_latched (f : Form) (s : State) : s.latchedBy (execCatan2 f s) = s.latched := by simp [execCatan2]

@[simp] theorem execCtanh_latched (f : Form) (s : State) : s.latchedBy (execCtanh f s) = s.latched := by simp [execCtanh]

@[simp] theorem execCsigm_latched (f : Form) (s : State) : s.latchedBy (execCsigm f s) = s.latched := by simp [execCsigm]

@[simp] theorem execCrsq_latched (f : Form) (s : State) : s.latchedBy (execCrsq f s) = s.latched := by simp [execCrsq]

@[simp] theorem execCsqrt_latched (f : Form) (s : State) : s.latchedBy (execCsqrt f s) = s.latched := by simp [execCsqrt]

/-! Control. -/

@[simp] theorem State.jump_latched (s : State) (t : Team) (target : W64) : (State.jump s t target).latched = s.latched := by simp [State.jump]

@[simp] theorem execBra_latched (f : Form) (s : State) : s.latchedBy (execBra f s) = s.latched := by simp [execBra]

@[simp] theorem execBrv_latched (f : Form) (s : State) : s.latchedBy (execBrv f s) = s.latched := by
  unfold execBrv
  refine runIns_latched _ s _ fun t ls => ?_
  split <;> simp

@[simp] theorem execBany_latched (f : Form) (s : State) : s.latchedBy (execBany f s) = s.latched := by simp [execBany]

@[simp] theorem execBall_latched (f : Form) (s : State) : s.latchedBy (execBall f s) = s.latched := by simp [execBall]

@[simp] theorem execCall_latched (f : Form) (s : State) : s.latchedBy (execCall f s) = s.latched := by simp [execCall]

@[simp] theorem runRet_latched (i : Ins) (s : State) : s.latchedBy (runRet i s) = s.latched := by simp [runRet]

@[simp] theorem execRetS_latched (f : SForm) (s : State) : s.latchedBy (execRetS f s) = s.latched := by simp [execRetS]

@[simp] theorem execRetL_latched (f : Form) (s : State) : s.latchedBy (execRetL f s) = s.latched := by simp [execRetL]

@[simp] theorem execJmpi_latched (f : Form) (s : State) : s.latchedBy (execJmpi f s) = s.latched := by simp [execJmpi]

@[simp] theorem execLoop_latched (f : Form) (s : State) : s.latchedBy (execLoop f s) = s.latched := by simp [execLoop]

@[simp] theorem runExit_latched (i : Ins) (s : State) : s.latchedBy (runExit i s) = s.latched := by
  unfold runExit
  refine runIns_latched i s _ fun t ls => ?_
  rw [State.latched_ite, State.finish_latched]
  dsimp only
  rw [State.latched_ite, State.finish_latched, ite_self, ite_self]

@[simp] theorem execExitS_latched (f : SForm) (s : State) : s.latchedBy (execExitS f s) = s.latched := by simp [execExitS]

@[simp] theorem execExitL_latched (f : Form) (s : State) : s.latchedBy (execExitL f s) = s.latched := by simp [execExitL]

@[simp] theorem State.barrierStep_latched (s : State) (b : Nat) : (State.barrierStep s b).latched = s.latched := by simp [State.barrierStep]

@[simp] theorem execBar_latched (f : SForm) (s : State) : s.latchedBy (execBar f s) = s.latched := by simp [execBar]

@[simp] theorem runSleep_latched (i : Ins) (s : State) : s.latchedBy (runSleep i s) = s.latched := by simp [runSleep]

@[simp] theorem execSleepS_latched (f : SForm) (s : State) : s.latchedBy (execSleepS f s) = s.latched := by simp [execSleepS]

@[simp] theorem execSleepL_latched (f : Form) (s : State) : s.latchedBy (execSleepL f s) = s.latched := by simp [execSleepL]

@[simp] theorem execYield_latched (f : SForm) (s : State) : s.latchedBy (execYield f s) = s.latched := by simp [execYield]

@[simp] theorem execTrap_latched (f : Form) (s : State) : s.latchedBy (execTrap f s) = s.latched := by simp [execTrap]

@[simp] theorem execIll_latched (word : W32) (s : State) : s.latchedBy (execIll word s) = s.latched := by simp [execIll]

@[simp] theorem execReservedOpcode_latched (word : W32) (s : State) : s.latchedBy (execReservedOpcode word s) = s.latched := by
  simp [execReservedOpcode]

/-! Debug. -/

@[simp] theorem execRte_latched (f : SForm) (s : State) : s.latchedBy (execRte f s) = s.latched := by simp [execRte]

@[simp] theorem runTsb_latched (i : Ins) (s : State) : s.latchedBy (runTsb i s) = s.latched := by simp [runTsb]

@[simp] theorem execTsbS_latched (f : SForm) (s : State) : s.latchedBy (execTsbS f s) = s.latched := by simp [execTsbS]

@[simp] theorem execTsbL_latched (f : Form) (s : State) : s.latchedBy (execTsbL f s) = s.latched := by simp [execTsbL]

@[simp] theorem execHaltb_latched (f : SForm) (s : State) : s.latchedBy (execHaltb f s) = s.latched := by simp [execHaltb]

@[simp] theorem execStep_latched (f : SForm) (s : State) : s.latchedBy (execStep f s) = s.latched := by simp [execStep]

@[simp] theorem execBkpt_latched (f : SForm) (s : State) : s.latchedBy (execBkpt f s) = s.latched := by simp [execBkpt]

@[simp] theorem execWatch_latched (f : Form) (s : State) : s.latchedBy (execWatch f s) = s.latched := by simp [execWatch]

@[simp] theorem State.setLantern_latched (s : State) (k : Nat) (x : W64) : (State.setLantern s k x).latched = s.latched := by simp [State.setLantern]

@[simp] theorem State.lanternPut_latched (s : State) (i : Nat) (low high : W64) : (State.lanternPut s i low high).1.latched = s.latched := by
  simp [State.lanternPut]

@[simp] theorem execMbxw_latched (f : Form) (s : State) : s.latchedBy (execMbxw f s) = s.latched := by simp [execMbxw]

@[simp] theorem execMbxr_latched (f : Form) (s : State) : s.latchedBy (execMbxr f s) = s.latched := by simp [execMbxr]

@[simp] theorem execDebuggerHalt_latched (s : State) : s.latchedBy (execDebuggerHalt s) = s.latched := by
  refine (State.latched_foldl (fun s i => ?_) _ _).trans (State.setBlock_latched _ _ _)
  split <;> simp

@[simp] theorem execDebuggerResume_latched (s : State) : s.latchedBy (execDebuggerResume s) = s.latched := by simp [execDebuggerResume]

end Sys2Proof.Machine
end

section
/-!
Records, copies, memory instructions and index regions latch nothing.
-/
namespace Sys2Proof.Machine

/-! Records. -/

@[simp] theorem State.record_latched (s : State) (vf dir slot : Nat) : (State.record s vf dir slot).1.latched = s.latched := by
  rw [State.record]
  split <;> simp

@[simp] theorem State.setL2_latched (s : State) (die k : Nat) (x : L2Line) : (State.setL2 s die k x).latched = s.latched := by simp [State.setL2]

@[simp] theorem State.setL1_latched (s : State) (core k : Nat) (x : L1Sec) : (State.setL1 s core k x).latched = s.latched := by simp [State.setL1]

@[simp] theorem State.setNc_latched (s : State) (core k : Nat) (x : NcSec) : (State.setNc s core k x).latched = s.latched := by simp [State.setNc]

@[simp] theorem State.dropL1s_latched (s : State) (core lo n : Nat) : (State.dropL1s s core lo n).latched = s.latched := by simp [State.dropL1s]

@[simp] theorem State.dropHolders_latched (s : State) (die k : Nat) : (State.dropHolders s die k).latched = s.latched := by simp [State.dropHolders]

@[simp] theorem State.loseGrain_latched (s : State) (die k : Nat) : (State.loseGrain s die k).latched = s.latched := by simp [State.loseGrain]

@[simp] theorem State.sendMsg_latched (s : State) (i : Instr) : (State.sendMsg s i).latched = s.latched := by simp [State.sendMsg]

@[simp] theorem State.askGrain_latched (s : State) (m : CohMsg) (wr : Bool) : (State.askGrain s m wr).latched = s.latched := by simp [State.askGrain]

@[simp] theorem State.setTags_latched (s : State) (k : Nat) (l : List (Nat × Nat)) : (State.setTags s k l).latched = s.latched := by
  simp [State.setTags]

@[simp] theorem State.touchTag_latched (s : State) (die k : Nat) : (State.touchTag s die k).latched = s.latched := by
  rw [State.touchTag]
  split <;> simp

@[simp] theorem State.flushSector_latched (s : State) (core k : Nat) : (State.flushSector s core k).latched = s.latched := by
  unfold State.flushSector
  repeat' split
  all_goals simp

@[simp] theorem State.setCtxTags_latched (s : State) (core : Nat) (l : List (Nat × Nat)) : (State.setCtxTags s core l).latched = s.latched := by
  simp [State.setCtxTags]

@[simp] theorem State.l1Room_latched (s : State) (core line : Nat) : (State.l1Room s core line).latched = s.latched := by simp [State.l1Room]

@[simp] theorem State.ctxTag_latched (s : State) (core f line : Nat) : (State.ctxTag s core f line).latched = s.latched := by simp [State.ctxTag]

@[simp] theorem State.fillL1_latched (s : State) (core : Nat) (sys : Bool) (a n : Nat) (le wts : W64) :
    (State.fillL1 s core sys a n le wts).latched = s.latched := by simp [State.fillL1]

@[simp] theorem State.leaseRead_latched (s : State) (core die : Nat) (sys : Bool) (grain size : Nat) :
    (State.leaseRead s core die sys grain size).latched = s.latched := by simp [State.leaseRead]

@[simp] theorem State.leaseWriteAt_latched (s : State) (core die : Nat) (sys : Bool) (grain size : Nat) (t : W64) :
    (State.leaseWriteAt s core die sys grain size t).latched = s.latched := by simp [State.leaseWriteAt]

@[simp] theorem State.leaseWrite_latched (s : State) (core die : Nat) (sys : Bool) (grain size : Nat) :
    (State.leaseWrite s core die sys grain size).latched = s.latched := by simp [State.leaseWrite]

@[simp] theorem State.engineWrite_latched (s : State) (die : Nat) (sys : Bool) (grain : Nat) : (State.engineWrite s die sys grain).latched = s.latched := by
  simp [State.engineWrite]

@[simp] theorem State.dropGrains_latched (s : State) (die : Nat) (t : Tr) (n : Nat) : (State.dropGrains s die t n).latched = s.latched := by
  simp [State.dropGrains]

@[simp] theorem State.joinRead_latched (s : State) (die core : Nat) (sys : Bool) (grain : Nat) :
    (State.joinRead s die core sys grain).latched = s.latched := by simp [State.joinRead]

@[simp] theorem State.readSector_latched (s : State) (core slot : Nat) (t : Tr) (a n : Nat) :
    (State.readSector s core slot t a n).1.latched = s.latched := by simp [State.readSector]

@[simp] theorem State.dropClean_latched (s : State) (core k : Nat) : (State.dropClean s core k).latched = s.latched := by simp [State.dropClean]

@[simp] theorem State.coreRead_latched (s0 : State) (core slot : Nat) (t : Tr) (n : Nat) : (State.coreRead s0 core slot t n).1.latched = s0.latched := by
  simp [State.coreRead]

@[simp] theorem State.coreWroteBoth_latched (s : State) (core : Nat) (t : Tr) (n : Nat) (t' : Tr) (n' : Nat) :
    (State.coreWroteBoth s core t n t' n').latched = s.latched := by simp [State.coreWroteBoth]

@[simp] theorem State.coreWrote_latched (s : State) (core : Nat) (t : Tr) (n : Nat) : (State.coreWrote s core t n).latched = s.latched := by
  simp [State.coreWrote]

@[simp] theorem State.putNc_latched (s : State) (core a : Nat) (b : Byte) (cmp : Bool) : (State.putNc s core a b cmp).latched = s.latched := by
  simp [State.putNc]

@[simp] theorem State.coreStore_latched (s : State) (core : Nat) (t : Tr) (bs : List Byte) (w : Writer) (va : Nat) :
    (State.coreStore s core t bs w va).1.latched = s.latched := by
  unfold State.coreStore
  dsimp only
  repeat' split
  all_goals simp

@[simp] theorem State.askOwned_latched (s : State) (core slot : Nat) (t : Tr) (n : Nat) : (State.askOwned s core slot t n).latched = s.latched := by
  simp [State.askOwned]

@[simp] theorem State.touchEngine_latched (s0 : State) (die : Nat) (t : Tr) (n : Nat) (wr : Bool) :
    (State.touchEngine s0 die t n wr).latched = s0.latched := by simp [State.touchEngine]

/-! Copies. -/

@[simp] theorem State.setBar_latched (s : State) (k w0 w1 : Nat) : (State.setBar s k w0 w1).latched = s.latched := by simp [State.setBar]

@[simp] theorem State.barRelease_latched (s : State) (bi k : Nat) : (State.barRelease s bi k).latched = s.latched := by simp [State.barRelease]

@[simp] theorem State.barCount_latched (s : State) (bi k c err miss : Nat) : (State.barCount s bi k c err miss).latched = s.latched := by
  simp [State.barCount]

/-! Memory. -/

@[simp] theorem State.planWalk_latched (s : State) (vf l key off va : Nat) (w : Want) (p : Plan) :
    (State.planWalk s vf l key off va w p).1.latched = s.latched := by
  rw [State.planWalk]
  split <;> simp

@[simp] theorem State.plan_latched (s : State) (i : Ins) (t : Team) (ls : List Nat) (w : Want) : (State.plan s i t ls w).1.latched = s.latched := by
  unfold State.plan
  split
  · rfl
  · dsimp only
    split
    · simp
    · refine (State.latched_foldl_fst (fun x l => ?_) _ _).trans (by simp)
      split <;> simp

@[simp] theorem State.trapFails_latched (s : State) (i : Ins) (fs : List Fail) : (State.trapFails s i fs).latched = s.latched := by
  rw [State.trapFails]
  split <;> simp

theorem State.watchTrap_latched (s : State) (i : Ins) (t : Team) (slot n : Nat) (rd wr : Bool) (accs : List Acc) :
    ∀ u, (State.watchTrap s i t slot n rd wr accs) = some u → u.latched = s.latched := by
  unfold State.watchTrap
  repeat' split
  all_goals simp

@[simp] theorem State.reject_latched (s : State) (i : Nat) : (State.reject s i).latched = s.latched := by simp [State.reject]

@[simp] theorem State.entered_latched (s : State) (i : Nat) : (State.entered s i).latched = s.latched := by simp [State.entered]

@[simp] theorem State.settle_latched (s : State) (i : Ins) (t : Team) (p : Plan) (extra : List Fail) (n : Nat) (rd wr : Bool) (k : State → State) (hk : (k s).latched = s.latched) :
    (State.settle s i t p extra n rd wr k).latched = s.latched := by
  unfold State.settle
  split
  · simp
  · split
    · simp
    · split
      case h_1 u hu => exact State.watchTrap_latched _ _ _ _ _ _ _ _ u hu
      case h_2 =>
        repeat' split
        all_goals simp [hk]

@[simp] theorem State.putCore_latched (s : State) (k : Nat) (bs : List Byte) : (State.putCore s k bs).latched = s.latched := by simp [State.putCore]

@[simp] theorem State.storePlace_latched (s : State) (x : Place) (bs : List Byte) (w : Writer) : (State.storePlace s x bs w).1.latched = s.latched := by
  unfold State.storePlace
  repeat' split
  all_goals simp

@[simp] theorem State.noteHeld_latched (s : State) (i : Nat) : (State.noteHeld s i).latched = s.latched := by
  rw [State.noteHeld]
  split <;> simp

@[simp] theorem State.noteLogs_latched (s : State) (n : Nat) : (State.noteLogs s n).latched = s.latched := by simp [State.noteLogs]

@[simp] theorem State.askUnits_latched (s : State) (core slot : Nat) (r : Rest) (us : List AUnit) :
    (State.askUnits s core slot r us).latched = s.latched := by
  refine State.latched_foldl (fun s u => ?_) _ _
  dsimp only
  split <;> simp

@[simp] theorem State.pairUp_latched (s : State) (core : Nat) (a b : Tr) : (State.pairUp s core a b).latched = s.latched := by simp [State.pairUp]

@[simp] theorem State.readUnit_latched (s0 : State) (core slot n : Nat) (u : AUnit) : (State.readUnit s0 core slot n u).1.latched = s0.latched := by
  unfold State.readUnit
  repeat' split
  all_goals simp

@[simp] theorem State.readUnits_latched (s : State) (core slot n : Nat) (us : List AUnit) : (State.readUnits s core slot n us).1.latched = s.latched := by
  simp [State.readUnits]

@[simp] theorem State.loadUnits_latched (s : State) (i : Nat) (r : Rest) (us : List AUnit) : (State.loadUnits s i r us).latched = s.latched := by
  simp [State.loadUnits]

@[simp] theorem State.storeUnit_latched (s : State) (core : Nat) (r : Rest) (w : Writer) (u : AUnit) :
    (State.storeUnit s core r w u).1.latched = s.latched := by
  rw [State.storeUnit]
  split <;> simp

@[simp] theorem State.storeUnits_latched (s : State) (i : Nat) (r : Rest) (us : List AUnit) : (State.storeUnits s i r us).latched = s.latched := by
  simp [State.storeUnits]

@[simp] theorem State.sendAtoms_latched (s : State) (i : Nat) (r : Rest) (us : List AUnit) : (State.sendAtoms s i r us).latched = s.latched := by
  simp [State.sendAtoms]

@[simp] theorem State.doUnits_latched (s : State) (i : Nat) (r : Rest) (us : List AUnit) : (State.doUnits s i r us).latched = s.latched := by
  simp [State.doUnits]

@[simp] theorem State.stored_latched (s : State) (i bytes : Nat) : (State.stored s i bytes).latched = s.latched := by simp [State.stored]

@[simp] theorem State.runRest_latched (s : State) (i : Nat) (r0 : Rest) : (State.runRest s i r0).latched = s.latched := by simp [State.runRest]

@[simp] theorem State.runUnits_latched (s : State) (i : Ins) (t : Team) (enc ilv n : Nat) (us : List AUnit) :
    (State.runUnits s i t enc ilv n us).latched = s.latched := by simp [State.runUnits]

@[simp] theorem State.landCore_latched (s : State) (i : Ins) (t : Team) (ls : List Nat) (set : Nat) (dsts : List Dst) (bad : List (Acc × Nat)) :
    (State.landCore s i t ls set dsts bad).latched = s.latched := by simp [State.landCore]

@[simp] theorem execLd_latched (f : Form) (s : State) : s.latchedBy (execLd f s) = s.latched := by simp [execLd]

@[simp] theorem State.storeCore_latched (s : State) (ws : List (Acc × List Byte)) : (State.storeCore s ws).latched = s.latched := by
  refine State.latched_foldl (fun s e => ?_) _ _
  split <;> simp

@[simp] theorem execSt_latched (f : Form) (s : State) : s.latchedBy (execSt f s) = s.latched := by simp [execSt]

@[simp] theorem State.scaleRecord_latched (s : State) (t : Team) (r : Rec) : (State.scaleRecord s t r).1.latched = s.latched := by
  simp [State.scaleRecord]

@[simp] theorem State.planBlocks_latched (s : State) (i : Ins) (t : Team) (ls : List Nat) (wr : Bool) :
    (State.planBlocks s i t ls wr).1.latched = s.latched := by
  unfold State.planBlocks
  dsimp only
  split
  · simp
  · refine (State.latched_foldl_fst (fun x e => ?_) _ _).trans (by simp)
    split <;> simp

@[simp] theorem execLdb_latched (f : Form) (s : State) : s.latchedBy (execLdb f s) = s.latched := by simp [execLdb]

@[simp] theorem execStb_latched (f : Form) (s : State) : s.latchedBy (execStb f s) = s.latched := by simp [execStb]

@[simp] theorem State.amoAt_latched (s : State) (pl : Place) (n : Nat) (a : HeldAmo) (w : Writer) : (State.amoAt s pl n a w).1.latched = s.latched := by
  unfold State.amoAt
  repeat' split
  all_goals simp

@[simp] theorem runAmo_latched (i : Ins) (s : State) : s.latchedBy (runAmo i s) = s.latched := by
  refine runIns_latched i s _ fun t ls => ?_
  rw [State.latched_ite, State.finish_latched]
  refine (congrArg _ ((State.settle_latched _ _ _ _ _ _ _ _ _ ?_).trans (State.plan_latched _ _ _ _ _))).trans (ite_self _)
  rw [State.latched_ite, State.runUnits_latched]
  refine (congrArg _ ?_).trans (ite_self _)
  dsimp only
  rw [State.latched_ite, State.finish_latched, State.landCore_latched, ite_self]
  refine State.latched_foldl_fst (fun x a => ?_) _ _
  repeat' split
  all_goals simp

@[simp] theorem execAmo_latched (f : Form) (s : State) : s.latchedBy (execAmo f s) = s.latched := by simp [execAmo]

@[simp] theorem execAmn_latched (f : Form) (s : State) : s.latchedBy (execAmn f s) = s.latched := by simp [execAmn]

@[simp] theorem execAcas_latched (f : Form) (s : State) : s.latchedBy (execAcas f s) = s.latched := by simp [execAcas]

@[simp] theorem State.flushNc_latched (s : State) (core vf : Nat) : (State.flushNc s core vf).latched = s.latched := by simp [State.flushNc]

@[simp] theorem State.dropNc_latched (s : State) (core vf : Nat) : (State.dropNc s core vf).latched = s.latched := by simp [State.dropNc]

@[simp] theorem State.maintain_latched (s : State) (core vf p q scope : Nat) : (State.maintain s core vf p q scope).latched = s.latched := by
  simp [State.maintain]

@[simp] theorem execFence_latched (f : Form) (s : State) : s.latchedBy (execFence f s) = s.latched := by simp [execFence]

@[simp] theorem execPref_latched (f : Form) (s : State) : s.latchedBy (execPref f s) = s.latched := by simp [execPref]

@[simp] theorem State.planParam_latched (s : State) (i : Ins) (t : Team) (ls : List Nat) (n : Nat) :
    (State.planParam s i t ls n).1.latched = s.latched := by
  refine State.latched_foldl_fst (fun x l => ?_) _ _
  dsimp only
  split <;> simp

@[simp] theorem execLdc_latched (f : Form) (s : State) : s.latchedBy (execLdc f s) = s.latched := by simp [execLdc]

/-! TableOps. -/

@[simp] theorem State.planTable_latched (s : State) (i : Ins) (t : Team) (ls : List Nat) : (State.planTable s i t ls).1.latched = s.latched := by
  rw [State.planTable]
  split <;> simp

theorem State.tableWatch_latched (s : State) (i : Ins) (t : Team) (ls : List Nat) : ∀ u, (State.tableWatch s i t ls) = some u → u.latched = s.latched := by
  intro u h
  unfold State.tableWatch at h
  dsimp only at h
  split at h
  · cases h
  · exact State.watchTrap_latched _ _ _ _ _ _ _ _ u h

@[simp] theorem runTable_latched (i : Ins) (s : State) : s.latchedBy (runTable i s) = s.latched := by
  refine runIns_latched i s _ fun t ls => ?_
  split
  · simp
  · dsimp only
    split
    · simp
    · split
      · simp
      · split
        case h_1 u hu => exact (State.tableWatch_latched _ _ _ _ u hu).trans (by simp)
        case h_2 => split <;> simp

@[simp] theorem execTlook_latched (f : Form) (s : State) : s.latchedBy (execTlook f s) = s.latched := by simp [execTlook]

@[simp] theorem execTins_latched (f : Form) (s : State) : s.latchedBy (execTins f s) = s.latched := by simp [execTins]

@[simp] theorem execTdel_latched (f : Form) (s : State) : s.latchedBy (execTdel f s) = s.latched := by simp [execTdel]

@[simp] theorem execTmod_latched (f : Form) (s : State) : s.latchedBy (execTmod f s) = s.latched := by simp [execTmod]

@[simp] theorem execTset_latched (f : Form) (s : State) : s.latchedBy (execTset f s) = s.latched := by simp [execTset]

@[simp] theorem execTopen_latched (f : Form) (s : State) : s.latchedBy (execTopen f s) = s.latched := by simp [execTopen]

@[simp] theorem execTnext_latched (f : Form) (s : State) : s.latchedBy (execTnext f s) = s.latched := by simp [execTnext]

@[simp] theorem execTseek_latched (f : Form) (s : State) : s.latchedBy (execTseek f s) = s.latched := by simp [execTseek]

@[simp] theorem execTcnt_latched (f : Form) (s : State) : s.latchedBy (execTcnt f s) = s.latched := by simp [execTcnt]

@[simp] theorem execTstat_latched (f : Form) (s : State) : s.latchedBy (execTstat f s) = s.latched := by simp [execTstat]

@[simp] theorem execKvx_latched (f : Form) (s : State) : s.latchedBy (execKvx f s) = s.latched := by simp [execKvx]

@[simp] theorem execTclose_latched (f : Form) (s : State) : s.latchedBy (execTclose f s) = s.latched := by simp [execTclose]

end Sys2Proof.Machine
end

section
/-!
The Spire, matrix arrays, line groups and copy engines latch nothing.
-/
namespace Sys2Proof.Machine

/-! Spire. -/

@[simp] theorem State.lineErr_latched (s : State) (vf : Nat) (r : Rec) (slot : Nat) : (State.lineErr s vf r slot).latched = s.latched := by
  simp [State.lineErr]

@[simp] theorem State.spReach_latched (s : State) (vf die va n : Nat) (wr : Bool) : (State.spReach s vf die va n wr).1.latched = s.latched := by
  refine State.latched_foldl_fst (fun x e => ?_) _ _
  split
  · rfl
  · dsimp only
    split
    · split <;> simp
    · simp
    · simp

@[simp] theorem State.spReachAll_latched (s : State) (vf die : Nat) (wr : Bool) (rs : List (Nat × Nat)) :
    (State.spReachAll s vf die wr rs).1.latched = s.latched := by
  refine State.latched_foldl_fst (fun x r => ?_) _ _
  split
  · rfl
  · simp

@[simp] theorem State.markUnits_latched (s : State) (vf : Nat) (r : Rec) (lo hi : Nat) : (State.markUnits s vf r lo hi).latched = s.latched := by
  simp [State.markUnits]

@[simp] theorem Eval.latched_ite (c : Prop) [Decidable c] (a b : Eval) : (if c then a else b).s.latched = if c then a.s.latched else b.s.latched :=
  apply_ite (fun x => x.s.latched) c a b

@[simp] theorem State.evalReach_latched (s : State) (vf : Nat) (tb : Table) (wr : Bool) (rs : List (Nat × Nat)) (k : State → Eval) (hk : ∀ u : State, (k u).s.latched = u.latched) :
    (State.evalReach s vf tb wr rs k).s.latched = s.latched := by
  unfold State.evalReach
  dsimp only
  split <;> simp [hk]

@[simp] theorem State.rowReach_latched (s : State) (vf : Nat) (tb : Table) (wr : Bool) (va n : Nat) (k : State → Eval) (hk : ∀ u : State, (k u).s.latched = u.latched) :
    (State.rowReach s vf tb wr va n k).s.latched = s.latched := by
  unfold State.rowReach
  dsimp only
  split <;> simp [hk]

@[simp] theorem State.spAdd_latched (s : State) (vf : Nat) (r : Rec) (tb : Table) (k v : Nat) (done : Table → Table) :
    (State.spAdd s vf r tb k v done).s.latched = s.latched := by simp [State.spAdd]

@[simp] theorem State.refReach_latched (s : State) (vf : Nat) (r : Rec) (tb : Table) (wr : Bool) (n : Nat) (k : State → Eval) (hk : ∀ u : State, (k u).s.latched = u.latched) :
    (State.refReach s vf r tb wr n k).s.latched = s.latched := by
  unfold State.refReach
  split <;> simp [hk]

@[simp] theorem spPoint_latched (op : Nat) (slotForm uniq : Bool) (vf : Nat) (r : Rec) (o m : Nat) (s : State) (tb : Table) (x : BatchLane) :
    (spPoint op slotForm uniq vf r o m s tb x).s.latched = s.latched := by
  refine State.evalReach_latched _ _ _ _ _ _ fun u => ?_
  split
  · split
    · rfl
    · split
      · rfl
      · simp
  · split
    · split <;> rfl
    · simp
  · split
    · rfl
    · refine State.refReach_latched _ _ _ _ _ _ _ fun v => ?_
      rw [Eval.latched_ite, State.rowReach_latched _ _ _ _ _ _ _ fun w => State.vput_latched _ _ _ _, ite_self]
  · split
    · rfl
    · simp
  · dsimp only
    rw [Eval.latched_ite, State.refReach_latched, ite_self]
    intro v
    split
    · rfl
    · split
      · split <;> rfl
      · simp

@[simp] theorem spSeek_latched (vf : Nat) (r : Rec) (s : State) (tb : Table) (gen last bound : Nat) :
    (spSeek vf r s tb gen last bound).s.latched = s.latched := by simp [spSeek]

@[simp] theorem spCursor_latched (op vf : Nat) (r : Rec) (o m : Nat) (s : State) (tb : Table) (x : BatchLane) :
    (spCursor op vf r o m s tb x).s.latched = s.latched := by
  unfold spCursor
  dsimp only
  repeat' split
  all_goals simp

@[simp] theorem spWhole_latched (op mod vf : Nat) (r : Rec) (s : State) (tb : Table) (x : BatchLane) :
    (spWhole op mod vf r s tb x).s.latched = s.latched := by
  unfold spWhole
  dsimp only
  split <;> simp

@[simp] theorem spLane_latched (b : Batch) (r : Rec) (s : State) (tb : Table) (x : BatchLane) : (spLane b r s tb x).s.latched = s.latched := by
  unfold spLane
  repeat' split
  all_goals simp

theorem BatchEval.latched_foldl {α : Type} {g : BatchEval → α → BatchEval} (hg : ∀ x a, (g x a).s.latched = x.s.latched) (l : List α)
    (x : BatchEval) : (l.foldl g x).s.latched = x.s.latched := by
  induction l generalizing x with
  | nil => rfl
  | cons a r ih => exact (ih _).trans (hg x a)

@[simp] theorem spLanes_latched (b : Batch) (r : Rec) (s0 : State) (tb0 : Table) : (spLanes b r s0 tb0).s.latched = s0.latched := by
  refine BatchEval.latched_foldl (fun x e => ?_) _ _
  dsimp only
  split
  · rfl
  · split <;> simp

@[simp] theorem State.setTable_latched (s : State) (vf ibase : Nat) (t : Table) : (State.setTable s vf ibase t).latched = s.latched := by
  simp [State.setTable]

@[simp] theorem State.spMark_latched (s : State) (vf die va : Nat) (bs : List Byte) : (State.spMark s vf die va bs).latched = s.latched := by
  rw [State.spMark]
  split <;> simp

@[simp] theorem State.formatted_latched (s : State) (vf : Nat) (r : Rec) : (State.formatted s vf r).latched = s.latched := by simp [State.formatted]

@[simp] theorem spBatch_latched (b : Batch) (s : State) : (spBatch b s).s.latched = s.latched := by
  unfold spBatch
  dsimp only
  repeat' split
  all_goals simp

@[simp] theorem State.waitLog_latched (s : State) (f : Nat) : (State.waitLog s f).latched = s.latched := by simp [State.waitLog]

@[simp] theorem State.quiet_latched (s : State) (a : Nat) : (State.quiet s a).latched = s.latched := by simp [State.quiet]

@[simp] theorem State.newAsks_latched (s : State) (is : List Instr) : (State.newAsks s is).latched = s.latched := by simp [State.newAsks]

@[simp] theorem State.unquiet_latched (s e : State) (he : e.latched = s.latched) : (State.unquiet s e).latched = s.latched := by
  simp [State.unquiet, he]

theorem State.trialWaits_latched (s0 e : State) (f : Nat) : ∀ u, (State.trialWaits s0 e f) = some u → u.latched = s0.latched := by
  unfold State.trialWaits
  dsimp only
  repeat' split
  all_goals simp

@[simp] theorem execSpireBatch_latched (n : Nat) (s : State) : s.latchedBy (execSpireBatch n s) = s.latched := by
  unfold execSpireBatch
  split
  · rfl
  · split
    · rfl
    · dsimp only
      split
      case h_1 u hu => exact State.trialWaits_latched _ _ _ u hu
      case h_2 => split <;> simp

/-! Matrix. -/

@[simp] theorem execSbq_latched (f : Form) (s : State) : s.latchedBy (execSbq f s) = s.latched := by simp [execSbq]

@[simp] theorem execSbdq_latched (f : Form) (s : State) : s.latchedBy (execSbdq f s) = s.latched := by simp [execSbdq]

@[simp] theorem State.operands_latched (s : State) (t : Team) (x : Fmt4) : (State.operands s t x).1.latched = s.latched := by
  unfold State.operands
  dsimp only
  repeat' split
  all_goals simp

@[simp] theorem State.pipeCheck_latched (s : State) (vf l key off : Nat) (rs : List (Nat × Nat)) (p : Plan) :
    (State.pipeCheck s vf l key off rs p).1.latched = s.latched := by
  refine State.latched_foldl_fst (fun x e => ?_) _ _
  dsimp only
  split <;> simp

@[simp] theorem State.planMma_latched (s : State) (i : Ins) (t : Team) (ls : List Nat) (x : Fmt4) : (State.planMma s i t ls x).1.latched = s.latched := by
  unfold State.planMma
  dsimp only
  repeat' split
  all_goals simp

@[simp] theorem execMma_latched (f : Form) (s : State) : s.latchedBy (execMma f s) = s.latched := by simp [execMma]

@[simp] theorem State.pipeReach_latched (s : State) (vf die : Nat) (ls : List Nat) (key off : Nat) (rs : List (Nat × Nat)) :
    (State.pipeReach s vf die ls key off rs).1.latched = s.latched := by
  refine State.latched_foldl_fst (fun x e => ?_) _ _
  dsimp only
  split <;> simp

@[simp] theorem State.stepReach_latched (s : State) (t : Team) (m : MmaJob) (x : Fmt4) (a b : Opnd) (ls : List Nat) (st : Nat) :
    (State.stepReach s t m x a b ls st).1.latched = s.latched := by simp [State.stepReach]

@[simp] theorem State.mmaPages_latched (s : State) (i : Nat) (m : MmaJob) (hits : List PageHit) : (State.mmaPages s i m hits).latched = s.latched := by
  rw [State.mmaPages]
  split <;> simp

@[simp] theorem State.mmaWordDone_latched (s : State) (i : Nat) (m : MmaJob) (w : Nat) : (State.mmaWordDone s i m w).latched = s.latched := by
  rw [State.mmaWordDone]
  split <;> simp

@[simp] theorem State.mmaWord_latched (s : State) (i : Nat) : (State.mmaWord s i).latched = s.latched := by
  rw [State.mmaWord]
  split <;> simp

@[simp] theorem runMflush_latched (i : Ins) (s : State) : s.latchedBy (runMflush i s) = s.latched := by simp [runMflush]

@[simp] theorem execMflushS_latched (f : SForm) (s : State) : s.latchedBy (execMflushS f s) = s.latched := by simp [execMflushS]

@[simp] theorem execMflushL_latched (f : Form) (s : State) : s.latchedBy (execMflushL f s) = s.latched := by simp [execMflushL]

@[simp] theorem execQmc_latched (f : Form) (s : State) : s.latchedBy (execQmc f s) = s.latched := by
  unfold execQmc
  refine runUni_latched _ s _ fun t => ?_
  dsimp only
  split
  · simp
  · split
    · simp
    · split <;> simp

@[simp] theorem runCred_latched (i : Ins) (s : State) : s.latchedBy (runCred i s) = s.latched := by simp [runCred]

@[simp] theorem execCredS_latched (f : SForm) (s : State) : s.latchedBy (execCredS f s) = s.latched := by simp [execCredS]

@[simp] theorem execCredL_latched (f : Form) (s : State) : s.latchedBy (execCredL f s) = s.latched := by simp [execCredL]

@[simp] theorem execOculusMerge_latched (b : Nat) (s : State) : s.latchedBy (execOculusMerge b s) = s.latched := by
  rw [execOculusMerge]
  split <;> simp

/-! Groups. -/

@[simp] theorem State.setGroup_latched (s : State) (k : Nat) (g : Group) : (State.setGroup s k g).latched = s.latched := by simp [State.setGroup]

@[simp] theorem State.putWords_latched (s : State) (f va : Nat) (bs : List Byte) (op : HeldOp) : (State.putWords s f va bs op).latched = s.latched := by
  unfold State.putWords
  dsimp only
  repeat' split
  all_goals simp

@[simp] theorem State.putRecord_latched (s : State) (k i : Nat) : (State.putRecord s k i).latched = s.latched := by simp [State.putRecord]

@[simp] theorem State.putRecords_latched (s : State) (k : Nat) : (State.putRecords s k).latched = s.latched := by simp [State.putRecords]

@[simp] theorem State.addWaste_latched (s : State) (k i : Nat) (w : Waste) : (State.addWaste s k i w).latched = s.latched := by simp [State.addWaste]

@[simp] theorem State.recordWaste_latched (s : State) (i : Nat) : (State.recordWaste s i).latched = s.latched := by simp [State.recordWaste]

@[simp] theorem State.copyWaste_latched (s : State) (i bytes : Nat) : (State.copyWaste s i bytes).latched = s.latched := by simp [State.copyWaste]

/-! CopyEngine. -/

@[simp] theorem State.cpkSide_latched (s : State) (t : Team) (used : Bool) (slot : Nat) : (State.cpkSide s t used slot).1.latched = s.latched := by
  unfold State.cpkSide
  dsimp only
  repeat' split
  all_goals simp

@[simp] theorem State.cpkCheck_latched (s : State) (t : Team) (c : Copy) : (State.cpkCheck s t c).1.latched = s.latched := by
  unfold State.cpkCheck
  dsimp only
  repeat' split
  all_goals simp

@[simp] theorem State.destGrains_latched (s : State) (c : CopyReq) : (State.destGrains s c).1.latched = s.latched := by
  refine State.latched_foldl_fst (fun x r => ?_) _ _
  split
  · rfl
  · refine State.latched_foldl_fst (fun x e => ?_) _ _
    dsimp only
    split
    · split
      · simp
      · refine (State.latched_foldl_fst (fun x e => ?_) _ _).trans (by simp)
        split
        · split <;> rfl
        · rfl
    · simp

@[simp] theorem State.ownDests_latched (s : State) (die : Nat) (c : CopyReq) : (State.ownDests s die c).latched = s.latched := by
  refine (State.latched_foldl (fun s x => ?_) _ _).trans (by simp)
  split <;> simp

@[simp] theorem State.cpkScan_latched (s : State) (t : Team) (cs : List Copy) : (State.cpkScan s t cs).1.latched = s.latched := by
  simp [State.cpkScan]

@[simp] theorem execCpk_latched (f : Form) (s : State) : s.latchedBy (execCpk f s) = s.latched := by
  unfold execCpk
  refine runUni_latched _ s _ fun t => ?_
  dsimp only
  split
  · simp
  · repeat' split
    all_goals simp

@[simp] theorem runBar_latched (i : Ins) (s : State) (k : Team → List Acc → State) (hk : ∀ t ls, (k t ls).latched = s.latched) :
    s.latchedBy (runBar i s k) = s.latched := by
  unfold runBar
  refine runIns_latched i s _ fun t ls => ?_
  dsimp only
  repeat' split
  all_goals simp [hk]

@[simp] theorem execBinit_latched (f : Form) (s : State) : s.latchedBy (execBinit f s) = s.latched := by simp [execBinit]

@[simp] theorem execBarr_latched (f : Form) (s : State) : s.latchedBy (execBarr f s) = s.latched := by simp [execBarr]

@[simp] theorem State.barDone_latched (s : State) (i : Ins) (t : Team) (a : Acc) : (State.barDone s i t a).latched = s.latched := by
  simp [State.barDone]

@[simp] theorem execBwait_latched (f : Form) (s : State) : s.latchedBy (execBwait f s) = s.latched := by simp [execBwait]

@[simp] theorem execWaitt_latched (f : Form) (s : State) : s.latchedBy (execWaitt f s) = s.latched := by simp [execWaitt]

@[simp] theorem State.copyFails_latched (s : State) : (State.copyFails s).1.latched = s.latched := by simp [State.copyFails]

theorem lookStops_latched {vf slot : Nat} {r : Rec} {q : State × Option SpStop} {x : State × CopySrc} (h : lookStops vf slot r q = some x) :
    x.1.latched = q.1.latched := by
  unfold lookStops at h
  split at h
  · cases h
    split <;> simp
  · cases h
    rfl
  · cases h

@[simp] theorem State.copyLook_latched (s : State) (vf slot : Nat) (r : Rec) (key off : Nat) :
    (State.copyLook s vf slot r key off).1.latched = s.latched := by
  unfold State.copyLook
  dsimp only
  split
  case h_1 x hx => exact (lookStops_latched hx).trans (by simp)
  case h_2 =>
    split
    · simp
    · split
      case h_1 x hx => exact (lookStops_latched hx).trans (by simp)
      case h_2 => split <;> simp

@[simp] theorem State.copySource_latched (s : State) (c : CopyReq) (r : Nat) : (State.copySource s c r).1.latched = s.latched := by
  unfold State.copySource
  dsimp only
  repeat' split
  all_goals simp

@[simp] theorem State.putCopy_latched (s : State) (c : CopyReq) : (State.putCopy s c).latched = s.latched := by simp [State.putCopy]

@[simp] theorem State.copyRowEnd_latched (s : State) (c : CopyReq) (r err miss : Nat) : (State.copyRowEnd s c r err miss).latched = s.latched := by
  unfold State.copyRowEnd
  dsimp only
  split <;> simp

@[simp] theorem State.copyWalk_latched (s : State) (vf va n : Nat) (wr : Bool) : (State.copyWalk s vf va n wr).1.latched = s.latched := by
  simp [State.copyWalk]

@[simp] theorem State.copyHold_latched (s : State) (c : CopyReq) (r va cause : Nat) (wr : Bool) (miss : Nat) :
    (State.copyHold s c r va cause wr miss).latched = s.latched := by simp [State.copyHold]

@[simp] theorem State.copyStop_latched (s : State) (c : CopyReq) (r : Nat) (wr : Bool) (x : CopyStop) (miss : Nat) :
    (State.copyStop s c r wr x miss).latched = s.latched := by
  unfold State.copyStop
  repeat' split
  all_goals simp

@[simp] theorem State.copyRead_latched (s : State) (c : CopyReq) (x : CopySrc) : (State.copyRead s c x).1.latched = s.latched := by
  unfold State.copyRead
  dsimp only
  repeat' split
  all_goals simp

@[simp] theorem State.copyWrite_latched (s : State) (c : CopyReq) (r : Nat) (bs : List Byte) (miss : Nat) :
    (State.copyWrite s c r bs miss).latched = s.latched := by
  unfold State.copyWrite
  dsimp only
  repeat' split
  all_goals simp

@[simp] theorem State.qmcRow_latched (s : State) (c : CopyReq) (target : Nat) : (State.qmcRow s c target).latched = s.latched := by
  simp [State.qmcRow]

@[simp] theorem execCopyRow_latched (id : Nat) (s : State) : s.latchedBy (execCopyRow id s) = s.latched := by
  unfold execCopyRow
  split
  · rfl
  · split
    · rfl
    · split
      · rfl
      · split
        · simp
        · dsimp only
          split
          case h_1 u hu => exact State.trialWaits_latched _ _ _ u hu
          case h_2 =>
            refine State.unquiet_latched _ _ ?_
            split <;> simp

@[simp] theorem State.copyResolve_latched (s : State) (core vf page : Nat) (ok : Bool) : (State.copyResolve s core vf page ok).latched = s.latched := by
  unfold State.copyResolve
  split
  · simp
  · refine State.latched_foldl (fun s e => ?_) _ _
    split <;> simp

end Sys2Proof.Machine
end

section
/-!
Queues, teams and the Campanile latch nothing.
-/
namespace Sys2Proof.Machine

/-! Queues. -/

@[simp] theorem State.wakeHeld_latched (s : State) (i : Nat) : (State.wakeHeld s i).latched = s.latched := by simp [State.wakeHeld]

@[simp] theorem State.parkSoon_latched (s : State) (i : Nat) (c : Cause) (a : W64) : (State.parkSoon s i c a).latched = s.latched := by
  rw [State.parkSoon]
  split <;> simp

@[simp] theorem State.setQueue_latched (s : State) (k : Nat) (q : Queue) : (State.setQueue s k q).latched = s.latched := by simp [State.setQueue]

@[simp] theorem execQpush_latched (f : Form) (s : State) : s.latchedBy (execQpush f s) = s.latched := by simp [execQpush]

@[simp] theorem execQpop_latched (f : Form) (s : State) : s.latchedBy (execQpop f s) = s.latched := by simp [execQpop]

@[simp] theorem execQstat_latched (f : Form) (s : State) : s.latchedBy (execQstat f s) = s.latched := by simp [execQstat]

@[simp] theorem State.refill_latched (fuel : Nat) (s : State) (k : Nat) : (State.refill fuel s k).latched = s.latched := by
  induction fuel generalizing s with
  | zero => rfl
  | succ m ih =>
    unfold State.refill
    dsimp only
    repeat' split
    all_goals simp [ih]

@[simp] theorem State.pushTry_latched (s : State) (r : QReq) : (State.pushTry s r).1.latched = s.latched := by
  unfold State.pushTry
  dsimp only
  repeat' split
  all_goals simp

@[simp] theorem State.pushFinds_latched (s : State) (n : Nat) (r : QReq) : (State.pushFinds s n r).1.latched = s.latched := by
  rw [State.pushFinds]
  split <;> simp

@[simp] theorem State.holdPush_latched (s : State) (n : Nat) (r : QReq) (c : Cause) (arg : Nat) (rec_ : Option FaultRec) :
    (State.holdPush s n r c arg rec_).latched = s.latched := by
  unfold State.holdPush
  repeat' split
  all_goals simp

@[simp] theorem State.turnAway_latched (s : State) (n : Nat) (r : QReq) : (State.turnAway s n r).latched = s.latched := by simp [State.turnAway]

@[simp] theorem execPushAccept_latched (n : Nat) (s : State) : s.latchedBy (execPushAccept n s) = s.latched := by
  unfold execPushAccept
  split
  · rfl
  · split
    · rfl
    · dsimp only
      split
      · exact State.unquiet_latched _ _ (by simp)
      · rw [State.latchedBy_next]
        split
        case h_1 u hu => exact State.trialWaits_latched _ _ _ u hu
        case h_2 =>
          refine State.unquiet_latched _ _ ?_
          split <;> simp

@[simp] theorem execPopServe_latched (n : Nat) (s : State) : s.latchedBy (execPopServe n s) = s.latched := by
  unfold execPopServe
  dsimp only
  repeat' split
  all_goals simp

@[simp] theorem execRdx_latched (f : Form) (s : State) : s.latchedBy (execRdx f s) = s.latched := by simp [execRdx]

@[simp] theorem State.enterHeld_latched (fuel : Nat) (s : State) (n : Nat) : (State.enterHeld fuel s n).latched = s.latched := by
  induction fuel generalizing s with
  | zero => rfl
  | succ m ih =>
    unfold State.enterHeld
    dsimp only
    split <;> simp [ih]

@[simp] theorem execRdxDepositArrival_latched (n : Nat) (s : State) : s.latchedBy (execRdxDepositArrival n s) = s.latched := by
  rw [execRdxDepositArrival]
  split <;> simp

@[simp] theorem execBucketFlush_latched (n k b : Nat) (s : State) : s.latchedBy (execBucketFlush n k b s) = s.latched := by simp [execBucketFlush]

@[simp] theorem execStageDrain_latched (n k : Nat) (s : State) : s.latchedBy (execStageDrain n k s) = s.latched := by simp [execStageDrain]

/-! Teams. -/

@[simp] theorem State.fetchWord_latched (s : State) (f va : Nat) : (State.fetchWord s f va).1.latched = s.latched := by
  rw [State.fetchWord]
  split <;> simp

@[simp] theorem State.fetch_latched (s : State) (i : Nat) : (State.fetch s i).1.latched = s.latched := by
  unfold State.fetch
  dsimp only
  repeat' split
  all_goals simp

@[simp] theorem State.absentPage_latched (s : State) (f : Nat) (vas : List Nat) : (State.absentPage s f vas).1.latched = s.latched := by
  simp [State.absentPage]

@[simp] theorem State.parkContext_latched (s : State) (i va cause : Nat) : (State.parkContext s i va cause).latched = s.latched := by
  simp [State.parkContext]

@[simp] theorem State.drainAll_latched (s : State) : (State.drainAll s).latched = s.latched := by simp [State.drainAll]

@[simp] theorem State.passClock_latched (s : State) : (State.passClock s).latched = s.latched := by simp [State.passClock]

@[simp] theorem State.setRlines_latched (s : State) (k : Nat) (l : List (Nat × Nat × Bool)) : (State.setRlines s k l).latched = s.latched := by
  simp [State.setRlines]

@[simp] theorem State.ctxLines_latched (s : State) (core f va n : Nat) (wr : Bool) : (State.ctxLines s core f va n wr).latched = s.latched := by
  refine (State.latched_foldl (fun s e => ?_) _ _).trans (by simp)
  dsimp only
  split <;> simp

@[simp] theorem State.writeLine_latched (s0 : State) (i n w : Nat) : (State.writeLine s0 i n w).latched = s0.latched := by simp [State.writeLine]

@[simp] theorem State.leaveLine_latched (s : State) (e : Nat × Nat × Bool) : (State.leaveLine s e).latched = s.latched := by simp [State.leaveLine]

@[simp] theorem State.rvictim_latched (s : State) (k : Nat) (locked : Nat × Nat × Bool → Bool) : (State.rvictim s k locked).latched = s.latched := by
  rw [State.rvictim]
  split <;> simp

@[simp] theorem State.dropLines_latched (s : State) (i : Nat) : (State.dropLines s i).latched = s.latched := by simp [State.dropLines]

@[simp] theorem State.saveLines_latched (s : State) (i : Nat) : (State.saveLines s i).latched = s.latched := by simp [State.saveLines]

@[simp] theorem State.saveAway_latched (s : State) (i : Nat) (x : Nat × Nat) : (State.saveAway s i x).latched = s.latched := by simp [State.saveAway]

@[simp] theorem State.restoreAway_latched (s : State) (i : Nat) : (State.restoreAway s i).latched = s.latched := by
  rw [State.restoreAway]
  split <;> simp

@[simp] theorem State.fetchLine_latched (s : State) (i n w : Nat) (whole : Bool) : (State.fetchLine s i n w whole).latched = s.latched := by
  unfold State.fetchLine
  dsimp only
  repeat' split
  all_goals simp

@[simp] theorem State.placeLine_latched (s : State) (i n w : Nat) (wr : Bool) (ns : List Nat) (fetch : State → State) (hfetch : ∀ u : State, (fetch u).latched = u.latched) :
    (State.placeLine s i n w wr ns fetch).latched = s.latched := by
  unfold State.placeLine
  dsimp only
  split <;> simp [hfetch]

@[simp] theorem State.fillLine_latched (s : State) (i n w : Nat) (ns : List Nat) (whole : Bool) :
    (State.fillLine s i n w ns whole).latched = s.latched := by simp [State.fillLine]

@[simp] theorem execRegisterMissFill_latched (i n w : Nat) (s : State) : s.latchedBy (execRegisterMissFill i n w s) = s.latched := by
  simp [execRegisterMissFill]

@[simp] theorem State.fillWindow_latched (s : State) (i : Nat) (x : Ins) : (State.fillWindow s i x).latched = s.latched := by simp [State.fillWindow]

@[simp] theorem State.dirtied_latched (s : State) (i : Nat) (x : Instr) (t0 : Team) : (State.dirtied s i x t0).latched = s.latched := by
  unfold State.dirtied
  repeat' split
  all_goals simp

@[simp] theorem State.writeLanes_latched (s : State) (i n w : Nat) (ls : List Nat) : (State.writeLanes s i n w ls).latched = s.latched := by
  simp [State.writeLanes]

@[simp] theorem State.landed_latched (s : State) (i : Nat) (t0 : Team) (rs : List Ref) : (State.landed s i t0 rs).latched = s.latched := by
  simp [State.landed]

@[simp] theorem State.logLost_latched (s : State) (i : Nat) (t0 : Team) (rs : List Ref) : (State.logLost s i t0 rs).latched = s.latched := by
  rw [State.logLost, State.latched_ite, State.latched_foldl, ite_self]
  intro s r
  split <;> simp

@[simp] theorem State.recount_latched (s : State) (i : Nat) : (State.recount s i).latched = s.latched := by simp [State.recount]

@[simp] theorem execMmaArrayExecution_latched (core part : Nat) (s : State) : s.latchedBy (execMmaArrayExecution core part s) = s.latched := by
  rw [execMmaArrayExecution]
  split <;> simp

@[simp] theorem execLateReply_latched (n : Nat) (s : State) : s.latchedBy (execLateReply n s) = s.latched := by
  rw [execLateReply]
  split <;> simp

@[simp] theorem State.setCluster_latched (s : State) (c : Nat) (x : Cluster) : (State.setCluster s c x).latched = s.latched := by
  simp [State.setCluster]

@[simp] theorem State.saveSide_latched (s : State) (i : Nat) : (State.saveSide s i).latched = s.latched := by
  unfold State.saveSide
  dsimp only
  repeat' split
  all_goals simp

@[simp] theorem State.evictTeam_latched (s : State) (i : Nat) (out : Bool) : (State.evictTeam s i out).latched = s.latched := by
  rw [State.evictTeam]
  split <;> simp

@[simp] theorem State.partialEvict_latched (fuel : Nat) (s : State) (core part vf need : Nat) :
    (State.partialEvict fuel s core part vf need).latched = s.latched := by
  induction fuel generalizing s with
  | zero => rfl
  | succ m ih =>
    unfold State.partialEvict
    split
    · rfl
    · split <;> simp [ih]

@[simp] theorem State.readControl_latched (s : State) (i : Nat) : (State.readControl s i).latched = s.latched := by
  unfold State.readControl
  dsimp only
  repeat' split
  all_goals simp

@[simp] theorem State.redecodeMma_latched (s : State) (i : Nat) : (State.redecodeMma s i).latched = s.latched := by
  unfold State.redecodeMma
  dsimp only
  repeat' split
  all_goals simp

@[simp] theorem execTeamActivation_latched (core : Nat) (s : State) : s.latchedBy (execTeamActivation core s) = s.latched := by
  unfold execTeamActivation
  dsimp only
  repeat' split
  all_goals simp

@[simp] theorem execTeamEviction_latched (core part : Nat) (s : State) : s.latchedBy (execTeamEviction core part s) = s.latched := by
  unfold execTeamEviction
  repeat' split
  all_goals simp

@[simp] theorem execReadyListSteal_latched (core : Nat) (s : State) : s.latchedBy (execReadyListSteal core s) = s.latched := by
  rw [execReadyListSteal]
  split <;> simp

@[simp] theorem execStarvationPick_latched (core part : Nat) (s : State) : s.latchedBy (execStarvationPick core part s) = s.latched := by
  rw [execStarvationPick]
  split <;> simp

@[simp] theorem State.retried_latched (s : State) (i : Nat) : (State.retried s i).latched = s.latched := by
  rw [State.retried]
  split <;> simp

@[simp] theorem State.goOn_latched (s : State) (i : Nat) : (State.goOn s i).latched = s.latched := by
  rw [State.goOn]
  split <;> simp

@[simp] theorem execRequestRetry_latched (i : Nat) (s : State) : s.latchedBy (execRequestRetry i s) = s.latched := by simp [execRequestRetry]

@[simp] theorem execSleepWake_latched (i : Nat) (s : State) : s.latchedBy (execSleepWake i s) = s.latched := by simp [execSleepWake]

@[simp] theorem State.forgetTeam_latched (s : State) (i : Nat) : (State.forgetTeam s i).latched = s.latched := by simp [State.forgetTeam]

@[simp] theorem execTeamResume_latched (i : Nat) (s : State) : s.latchedBy (execTeamResume i s) = s.latched := by simp [execTeamResume]

@[simp] theorem State.retireTeam_latched (s : State) (i : Nat) : (State.retireTeam s i).latched = s.latched := by simp [State.retireTeam]

@[simp] theorem State.cancelNow_latched (s : State) (i : Nat) : (State.cancelNow s i).latched = s.latched := by simp [State.cancelNow]

@[simp] theorem State.cancelTeam_latched (s : State) (i : Nat) : (State.cancelTeam s i).latched = s.latched := by
  rw [State.cancelTeam]
  split <;> simp

@[simp] theorem execTeamRetirement_latched (i : Nat) (s : State) : s.latchedBy (execTeamRetirement i s) = s.latched := by simp [execTeamRetirement]

@[simp] theorem execContextImageFree_latched (i : Nat) (s : State) : s.latchedBy (execContextImageFree i s) = s.latched := by
  simp [execContextImageFree]

@[simp] theorem execCancelledPendingRetire_latched (i : Nat) (s : State) : s.latchedBy (execCancelledPendingRetire i s) = s.latched := by
  simp [execCancelledPendingRetire]

/-! Ballot. -/

@[simp] theorem State.cancelSibling_latched (s : State) (k i : Nat) : (State.cancelSibling s k i).latched = s.latched := by simp [State.cancelSibling]

@[simp] theorem State.decideGroup_latched (s : State) (k cause : Nat) (winner : Option Nat) : (State.decideGroup s k cause winner).latched = s.latched := by
  simp [State.decideGroup]

@[simp] theorem execFinishedSiblingCheck_latched (k : Nat) (s : State) : s.latchedBy (execFinishedSiblingCheck k s) = s.latched := by
  unfold execFinishedSiblingCheck
  repeat' split
  all_goals simp

@[simp] theorem State.postHash_latched (s : State) (k i : Nat) (h : W64) : (State.postHash s k i h).1.latched = s.latched := by simp [State.postHash]

@[simp] theorem execCampanilePost_latched (n : Nat) (s : State) : s.latchedBy (execCampanilePost n s) = s.latched := by
  rw [execCampanilePost]
  split <;> simp

@[simp] theorem State.sendPost_latched (s : State) (i : Ins) (t : Team) (kind group : Nat) (word : W64) :
    (State.sendPost s i t kind group word).latched = s.latched := by simp [State.sendPost]

@[simp] theorem execSgpost_latched (f : Form) (s : State) : s.latchedBy (execSgpost f s) = s.latched := by simp [execSgpost]

@[simp] theorem execSgpoll_latched (f : Form) (s : State) : s.latchedBy (execSgpoll f s) = s.latched := by simp [execSgpoll]

@[simp] theorem execSgchk_latched (f : Form) (s : State) : s.latchedBy (execSgchk f s) = s.latched := by simp [execSgchk]

@[simp] theorem State.slotDone_latched (s : State) (k i : Nat) (err : Bool) : (State.slotDone s k i err).latched = s.latched := by
  simp [State.slotDone]

@[simp] theorem State.releasePage_latched (s : State) (k i die va cause : Nat) (w : Bool) :
    (State.releasePage s k i die va cause w).latched = s.latched := by simp [State.releasePage]

@[simp] theorem State.removeKeys_latched (s : State) (k i : Nat) (r : Rec) (keys : List Nat) : (State.removeKeys s k i r keys).latched = s.latched := by
  induction keys generalizing s with
  | nil => simp [State.removeKeys]
  | cons x rest ih =>
    unfold State.removeKeys
    dsimp only
    split <;> simp [ih]

@[simp] theorem State.releaseSlot_latched (s : State) (k i : Nat) : (State.releaseSlot s k i).latched = s.latched := by
  unfold State.releaseSlot
  dsimp only
  repeat' split
  all_goals simp

@[simp] theorem State.releaseSlots_latched (fuel : Nat) (s : State) (k i : Nat) : (State.releaseSlots fuel s k i).latched = s.latched := by
  induction fuel generalizing s with
  | zero => rfl
  | succ m ih =>
    unfold State.releaseSlots
    simp [ih]

@[simp] theorem execKvRelease_latched (k i : Nat) (s : State) : s.latchedBy (execKvRelease k i s) = s.latched := by
  unfold execKvRelease
  rw [State.latchedBy_next, State.latched_ite]
  dsimp only
  split
  case isTrue =>
    split
    case h_1 u hu => exact State.trialWaits_latched _ _ _ u hu
    case h_2 => exact State.unquiet_latched _ _ (by simp)
  case isFalse => rfl

@[simp] theorem State.releaseResolve_latched (s : State) (k i : Nat) (ok : Bool) : (State.releaseResolve s k i ok).latched = s.latched := by
  simp [State.releaseResolve]

@[simp] theorem State.planEvent_latched (s : State) (i : Ins) (t : Team) (wr : Bool) : (State.planEvent s i t wr).1.latched = s.latched := by
  simp [State.planEvent]

@[simp] theorem execEvsig_latched (f : Form) (s : State) : s.latchedBy (execEvsig f s) = s.latched := by
  simp [execEvsig]

@[simp] theorem execEvwait_latched (f : Form) (s : State) : s.latchedBy (execEvwait f s) = s.latched := by
  unfold execEvwait
  refine runUni_latched _ s _ fun t => ?_
  have hplan : (s.planEvent (insW 0x1C5 f) t false).1.latched = s.latched := by simp
  refine (State.settle_latched _ _ _ _ _ _ _ _ _ ?_).trans hplan
  refine (foldl_keeps (P := fun v : State => v.latched = s.latched) _ (fun v c hv => ?_) _ _ hplan).trans hplan.symm
  simp [hv]

end Sys2Proof.Machine
end

section
/-!
The front end and placement latch nothing.
-/
namespace Sys2Proof.Machine

/-! FrontEnd. -/

@[simp] theorem State.feRead_latched (s : State) (f va n : Nat) : (State.feRead s f va n).1.latched = s.latched := by simp [State.feRead]

@[simp] theorem State.feReach_latched (s : State) (f va n : Nat) : (State.feReach s f va n).1.latched = s.latched := by
  refine State.latched_foldl_fst (fun x e => ?_) _ _
  split <;> simp

@[simp] theorem State.feWrite_latched (s : State) (f va : Nat) (bs : List Byte) : (State.feWrite s f va bs).1.latched = s.latched := by
  rw [State.feWrite]
  split <;> simp

@[simp] theorem State.holdLine_latched (s : State) (f va k : Nat) : (State.holdLine s f va k).latched = s.latched := by
  rw [State.holdLine]
  split <;> simp

@[simp] theorem State.feUnresolved_latched (s : State) (f q what n : Nat) : (State.feUnresolved s f q what n).latched = s.latched := by
  unfold State.feUnresolved
  dsimp only
  split <;> simp

@[simp] theorem State.feBlock_latched (s : State) (f q what n : Nat) (wr : Bool) (x : FeRead) : (State.feBlock s f q what n wr x).latched = s.latched := by
  unfold State.feBlock
  repeat' split
  all_goals simp

@[simp] theorem State.tryAppends_latched (fuel : Nat) (s : State) (f q : Nat) : (State.tryAppends fuel s f q).latched = s.latched := by
  induction fuel generalizing s with
  | zero => rfl
  | succ m ih =>
    unfold State.tryAppends
    dsimp only
    repeat' split
    all_goals simp [ih]

@[simp] theorem execLaunch_latched (f : Form) (s : State) : s.latchedBy (execLaunch f s) = s.latched := by
  unfold execLaunch
  refine runUni_latched _ s _ fun t => ?_
  dsimp only
  rw [State.latched_ite, State.trapAt_latched]
  refine (congrArg _ ?_).trans (ite_self _)
  split <;> simp

@[simp] theorem execTailLineInvalidation_latched (f q : Nat) (s : State) : s.latchedBy (execTailLineInvalidation f q s) = s.latched := by
  unfold execTailLineInvalidation
  dsimp only
  repeat' split
  all_goals simp

@[simp] theorem State.descTables_latched (s : State) (f q : Nat) (w : List W64) : (State.descTables s f q w).1.latched = s.latched := by
  unfold State.descTables
  dsimp only
  repeat' split
  all_goals simp

@[simp] theorem State.dropJob_latched (s : State) (n : Nat) : (State.dropJob s n).latched = s.latched := by simp [State.dropJob]

@[simp] theorem State.reportDone_latched (s : State) (n : Nat) : (State.reportDone s n).latched = s.latched := by simp [State.reportDone]

@[simp] theorem State.completeJob_latched (s : State) (n : Nat) : (State.completeJob s n).latched = s.latched := by
  unfold State.completeJob
  dsimp only
  repeat' split
  all_goals simp

@[simp] theorem State.finishJob_latched (s : State) (n status : Nat) : (State.finishJob s n status).latched = s.latched := by simp [State.finishJob]

@[simp] theorem State.takeDescriptor_latched (s : State) (f q : Nat) (w : List W64) (ds : List (List W64)) (status : Nat) :
    (State.takeDescriptor s f q w ds status).latched = s.latched := by simp [State.takeDescriptor]

@[simp] theorem execDescriptorConsume_latched (f q : Nat) (s : State) : s.latchedBy (execDescriptorConsume f q s) = s.latched := by
  unfold execDescriptorConsume
  dsimp only
  repeat' split
  all_goals simp

@[simp] theorem State.waitCheck_latched (s : State) (j : Job) : (State.waitCheck s j).1.latched = s.latched := by simp [State.waitCheck]

@[simp] theorem State.holdWaits_latched (s : State) (n : Nat) : (State.holdWaits s n).latched = s.latched := by simp [State.holdWaits]

@[simp] theorem execWaitCounterWrite_latched (n : Nat) (s : State) : s.latchedBy (execWaitCounterWrite n s) = s.latched := by
  unfold execWaitCounterWrite
  dsimp only
  repeat' split
  all_goals simp

@[simp] theorem execLaunchDescriptor_latched (n : Nat) (s : State) : s.latchedBy (execLaunchDescriptor n s) = s.latched := by
  simp [execLaunchDescriptor]

@[simp] theorem State.applyGen_latched (s : State) (f : Nat) (r : Rec) : (State.applyGen s f r).latched = s.latched := by simp [State.applyGen]

@[simp] theorem execDirectoryUpdate_latched (n : Nat) (s : State) : s.latchedBy (execDirectoryUpdate n s) = s.latched := by
  unfold execDirectoryUpdate
  dsimp only
  repeat' split
  all_goals simp

@[simp] theorem State.ringEntries_latched (k : Nat) (s : State) (vf : Nat) (q : Queue) : (State.ringEntries k s vf q).1.latched = s.latched := by
  induction k generalizing s with
  | zero => rfl
  | succ m ih =>
    unfold State.ringEntries
    dsimp only
    split
    · split <;> simp [ih]
    · exact ih s

@[simp] theorem State.moveRing_latched (k : Nat) (s : State) (vf : Nat) (old new : Queue) : (State.moveRing k s vf old new).1.latched = s.latched := by
  unfold State.moveRing
  dsimp only
  split
  · refine (State.latched_foldl_fst (fun x j => ?_) _ _).trans (by simp)
    split <;> simp
  · simp

@[simp] theorem execQueueDescriptor_latched (n : Nat) (s : State) : s.latchedBy (execQueueDescriptor n s) = s.latched := by
  unfold execQueueDescriptor
  dsimp only
  repeat' split
  all_goals simp

@[simp] theorem State.cancelJob_latched (s : State) (n : Nat) : (State.cancelJob s n).latched = s.latched := by simp [State.cancelJob]

@[simp] theorem execCancel_latched (n : Nat) (s : State) : s.latchedBy (execCancel n s) = s.latched := by simp [execCancel]

@[simp] theorem execSignal_latched (n : Nat) (s : State) : s.latchedBy (execSignal n s) = s.latched := by simp [execSignal]

@[simp] theorem execGroupOpen_latched (n : Nat) (s : State) : s.latchedBy (execGroupOpen n s) = s.latched := by
  unfold execGroupOpen
  dsimp only
  repeat' split
  all_goals simp

@[simp] theorem execGroupFree_latched (n : Nat) (s : State) : s.latchedBy (execGroupFree n s) = s.latched := by simp [execGroupFree]

@[simp] theorem execGroupFreeCompletion_latched (n : Nat) (s : State) : s.latchedBy (execGroupFreeCompletion n s) = s.latched := by
  simp [execGroupFreeCompletion]

@[simp] theorem execLaunchCompletion_latched (n : Nat) (s : State) : s.latchedBy (execLaunchCompletion n s) = s.latched := by
  simp [execLaunchCompletion]

/-! Placement. -/

@[simp] theorem State.writeSave_latched (s : State) (f place a : Nat) (bs : List Byte) : (State.writeSave s f place a bs).1.latched = s.latched := by
  simp [State.writeSave]

@[simp] theorem State.readSave_latched (s : State) (f place a n : Nat) : (State.readSave s f place a n).1.latched = s.latched := by
  simp [State.readSave]

@[simp] theorem State.saveBlock_latched (s : State) (i : Nat) : (State.saveBlock s i).latched = s.latched := by
  unfold State.saveBlock
  dsimp only
  repeat' split
  all_goals simp

@[simp] theorem State.restoreBlock_latched (s : State) (i base : Nat) : (State.restoreBlock s i base).latched = s.latched := by
  unfold State.restoreBlock
  dsimp only
  repeat' split
  all_goals simp

@[simp] theorem State.zeroRange_latched (s : State) (lo hi : Nat) : (State.zeroRange s lo hi).latched = s.latched := by simp [State.zeroRange]

@[simp] theorem State.keepLines_latched (s : State) (i lo hi : Nat) : (State.keepLines s i lo hi).latched = s.latched := by simp [State.keepLines]

@[simp] theorem State.clearImage_latched (s : State) (i : Nat) : (State.clearImage s i).latched = s.latched := by
  refine State.latched_foldl (fun s e => ?_) _ _
  split
  · dsimp only
    repeat' split
    all_goals simp
  · dsimp only
    split <;> simp
  · rfl

@[simp] theorem State.writeFirst_latched (s : State) (i : Nat) : (State.writeFirst s i).latched = s.latched := by simp [State.writeFirst]

@[simp] theorem State.createBlock_latched (s : State) (n : Nat) (p : Spot) : (State.createBlock s n p).latched = s.latched := by
  simp [State.createBlock]

@[simp] theorem State.takeTurn_latched (s : State) (f c : Nat) : (State.takeTurn s f c).latched = s.latched := by simp [State.takeTurn]

@[simp] theorem execBlockPlacement_latched (n : Nat) (choice : Option Nat) (s : State) : s.latchedBy (execBlockPlacement n choice s) = s.latched := by
  unfold execBlockPlacement
  repeat' split
  all_goals simp

@[simp] theorem execTurnEnd_latched (c : Nat) (s : State) : s.latchedBy (execTurnEnd c s) = s.latched := by
  unfold execTurnEnd
  dsimp only
  repeat' split
  all_goals simp

end Sys2Proof.Machine
end

section
/-!
The fabric, the coherence network and the link latch nothing, TDISP requests apart.
-/
namespace Sys2Proof.Machine

/-! FabricEvents. -/

@[simp] theorem execInvcmd_latched (s : State) : s.latchedBy (execInvcmd s) = s.latched := by simp [execInvcmd]

@[simp] theorem State.dropL1_latched (s : State) (f : Nat) : (State.dropL1 s f).latched = s.latched := by simp [State.dropL1]

@[simp] theorem State.dropTlb_latched (s : State) (f : Nat) (first n : W64) : (State.dropTlb s f first n).latched = s.latched := by
  simp [State.dropTlb]

@[simp] theorem execInvalidationComplete_latched (f : Nat) (s : State) : s.latchedBy (execInvalidationComplete f s) = s.latched := by
  unfold execInvalidationComplete
  repeat' split
  all_goals simp

@[simp] theorem State.teamXfault_latched (s : State) (r : FaultRec) (i sub : Nat) : (State.teamXfault s r i sub).latched = s.latched := by
  unfold State.teamXfault
  dsimp only
  repeat' split
  all_goals simp

@[simp] theorem State.retryRings_latched (s : State) (f : Nat) : (State.retryRings s f).latched = s.latched := by simp [State.retryRings]

@[simp] theorem State.faultOutcome_latched (s : State) (r : FaultRec) (out : Nat) (dropped : Bool) :
    (State.faultOutcome s r out dropped).latched = s.latched := by
  rw [State.faultOutcome]
  split <;> simp

@[simp] theorem execFsresolve_latched (s : State) : s.latchedBy (execFsresolve s) = s.latched := by
  unfold execFsresolve
  dsimp only
  repeat' split
  all_goals simp

@[simp] theorem State.dropFaults_latched (fuel : Nat) (s : State) (f : Nat) : (State.dropFaults fuel s f).latched = s.latched := by
  induction fuel generalizing s with
  | zero => rfl
  | succ m ih =>
    unfold State.dropFaults
    split
    · rfl
    · split <;> simp [ih]

@[simp] theorem State.setQuota_latched (s : State) (f : Nat) (v : W64) : (State.setQuota s f v).latched = s.latched := by simp [State.setQuota]

@[simp] theorem execQuotaLimitExpiry_latched (i : Nat) (s : State) : s.latchedBy (execQuotaLimitExpiry i s) = s.latched := by
  unfold execQuotaLimitExpiry
  repeat' split
  all_goals simp

@[simp] theorem State.storePaid_latched (s : State) (i : Nat) : (State.storePaid s i).latched = s.latched := by
  rw [State.storePaid]
  split <;> simp

@[simp] theorem State.afterHeld_latched (s : State) (h : Held) (err : Nat) : (State.afterHeld s h err).latched = s.latched := by
  unfold State.afterHeld
  repeat' split
  all_goals simp

@[simp] theorem State.atomDone_latched (s : State) (tag old : Nat) (flag : Bool) (sub : Nat) : (State.atomDone s tag old flag sub).latched = s.latched := by
  rw [State.atomDone]
  split <;> simp

@[simp] theorem State.wrote_latched (s : State) (w : Writer) (f : Nat) (ps : List Part) : (State.wrote s w f ps).latched = s.latched := by
  refine State.latched_foldl (fun s p => ?_) _ _
  dsimp only
  split
  · simp
  · split <;> simp
  · simp

@[simp] theorem State.cleaned_latched (s : State) (h : Held) : (State.cleaned s h).latched = s.latched := by
  rw [State.cleaned]
  split <;> simp

@[simp] theorem State.performHeld_latched (s : State) (k : Nat) : (State.performHeld s k).latched = s.latched := by
  unfold State.performHeld
  repeat' split
  all_goals simp

@[simp] theorem execHeldWriteRelease_latched (d : Nat) (s : State) : s.latchedBy (execHeldWriteRelease d s) = s.latched := by
  unfold execHeldWriteRelease
  repeat' split
  all_goals simp

@[simp] theorem State.releaseLog_latched (fuel : Nat) (s : State) (f : Nat) : (State.releaseLog fuel s f).latched = s.latched := by
  induction fuel generalizing s with
  | zero => rfl
  | succ m ih =>
    unfold State.releaseLog
    split
    · rfl
    · split <;> simp [ih]

@[simp] theorem State.setLog_latched (s : State) (f off : Nat) (v : W64) : (State.setLog s f off v).latched = s.latched := by simp [State.setLog]

@[simp] theorem State.spaceTrap_latched (s : State) (h : Held) (i : Nat) (pc : W64) (len : Nat) : (State.spaceTrap s h i pc len).latched = s.latched := by
  simp [State.spaceTrap]

@[simp] theorem State.expireHeld_latched (s : State) (k : Nat) : (State.expireHeld s k).latched = s.latched := by
  unfold State.expireHeld
  repeat' split
  all_goals simp

@[simp] theorem execHeldWriteExpiry_latched (d : Nat) (s : State) : s.latchedBy (execHeldWriteExpiry d s) = s.latched := by
  unfold execHeldWriteExpiry
  repeat' split
  all_goals simp

@[simp] theorem State.poisonBlock_latched (s : State) (f a : Nat) : (State.poisonBlock s f a).latched = s.latched := by simp [State.poisonBlock]

@[simp] theorem execBlockAccess_latched (a : BlockAcc) (s : State) : s.latchedBy (execBlockAccess a s) = s.latched := by
  unfold execBlockAccess
  dsimp only
  repeat' split
  all_goals simp

@[simp] theorem State.discardFrames_latched (fuel : Nat) (s : State) (f lo hi : Nat) : (State.discardFrames fuel s f lo hi).1.latched = s.latched := by
  induction fuel generalizing s lo with
  | zero =>
    unfold State.discardFrames
    simp
  | succ m ih =>
    unfold State.discardFrames
    simp [ih]

@[simp] theorem State.noteDiscard_latched (s : State) (f a hi : Nat) : (State.noteDiscard s f a hi).latched = s.latched := by simp [State.noteDiscard]

@[simp] theorem execDiscard_latched (s : State) : s.latchedBy (execDiscard s) = s.latched := by simp [execDiscard]

@[simp] theorem execDiscardComplete_latched (f : Nat) (s : State) : s.latchedBy (execDiscardComplete f s) = s.latched := by
  unfold execDiscardComplete
  repeat' split
  all_goals simp

@[simp] theorem State.engineRead_latched (s : State) (d a : Nat) : (State.engineRead s d a).latched = s.latched := by
  rw [State.engineRead]
  split <;> simp

@[simp] theorem State.recompact_latched (s : State) (d : Nat) : (State.recompact s d).latched = s.latched := by
  refine State.latched_foldl (fun s b => ?_) _ _
  dsimp only
  split
  · rfl
  · split <;> simp

@[simp] theorem State.askBalloons_latched (s : State) (d : Nat) : (State.askBalloons s d).latched = s.latched := by simp [State.askBalloons]

@[simp] theorem execReclamationRound_latched (d : Nat) (s : State) : s.latchedBy (execReclamationRound d s) = s.latched := by
  simp [execReclamationRound]

@[simp] theorem State.demote_latched (s : State) (n slot : Nat) : (State.demote s n slot).latched = s.latched := by simp [State.demote]

@[simp] theorem State.sweep_latched (s : State) (d : Nat) : (State.sweep s d).latched = s.latched := by
  refine State.latched_foldl (fun s n => ?_) _ _
  dsimp only
  split
  · rfl
  · split
    · simp
    · split
      · rfl
      · split <;> simp

@[simp] theorem execBalwaitExpiry_latched (d : Nat) (s : State) : s.latchedBy (execBalwaitExpiry d s) = s.latched := by simp [execBalwaitExpiry]

@[simp] theorem execPromotion_latched (n : Nat) (s : State) : s.latchedBy (execPromotion n s) = s.latched := by simp [execPromotion]

/-! Coherence. -/

@[simp] theorem execLogicalTimeTick_latched (s : State) : s.latchedBy (execLogicalTimeTick s) = s.latched := by
  unfold execLogicalTimeTick
  rw [State.latchedBy_next, State.latched_mk, State.latched_eta, State.latched_foldl fun s c => State.setLt_latched _ _ _]

@[simp] theorem State.setDir_latched (s : State) (k : Nat) (x : DirLine) : (State.setDir s k x).latched = s.latched := by simp [State.setDir]

@[simp] theorem State.setHub_latched (s : State) (a : Nat) (h : HubLine) : (State.setHub s a h).latched = s.latched := by simp [State.setHub]

@[simp] theorem State.setHost_latched (s : State) (a p : Nat) (h : Option Bool) : (State.setHost s a p h).latched = s.latched := by
  simp [State.setHost]

@[simp] theorem State.takeMsg_latched (s : State) (i : Instr) : (State.takeMsg s i).latched = s.latched := by simp [State.takeMsg]

@[simp] theorem State.sfTouch_latched (s : State) (line home size : Nat) : (State.sfTouch s line home size).latched = s.latched := by
  simp [State.sfTouch]

@[simp] theorem State.sfFree_latched (s : State) (line home : Nat) : (State.sfFree s line home).latched = s.latched := by simp [State.sfFree]

@[simp] theorem State.evictLine_latched (s : State) (die line : Nat) : (State.evictLine s die line).latched = s.latched := by simp [State.evictLine]

@[simp] theorem State.writeLate_latched (s : State) (die line : Nat) : (State.writeLate s die line).latched = s.latched := by simp [State.writeLate]

@[simp] theorem State.tagRoom_latched (s : State) (die line f : Nat) : (State.tagRoom s die line f).latched = s.latched := by
  unfold State.tagRoom
  dsimp only
  repeat' split
  all_goals simp

@[simp] theorem State.fillL2_latched (s : State) (die : Nat) (m : CohMsg) (st : L2St) : (State.fillL2 s die m st).latched = s.latched := by
  simp [State.fillL2]

@[simp] theorem State.sendData_latched (s : State) (m : CohMsg) (g : L2St) : (State.sendData s m g).latched = s.latched := by simp [State.sendData]

@[simp] theorem State.plainAtomic_latched (s : State) (m : CohMsg) : (State.plainAtomic s m).1.latched = s.latched := by simp [State.plainAtomic]

@[simp] theorem State.homeAtomic_latched (s : State) (a : Atom) : (State.homeAtomic s a).latched = s.latched := by
  rw [State.homeAtomic]
  split <;> simp

@[simp] theorem State.grantAtomic_latched (s : State) (m : CohMsg) : (State.grantAtomic s m).latched = s.latched := by
  rw [State.grantAtomic]
  split <;> simp

@[simp] theorem State.nameDie_latched (s : State) (m : CohMsg) : (State.nameDie s m).latched = s.latched := by simp [State.nameDie]

@[simp] theorem State.grantReq_latched (s0 : State) (k : ReqKind) (m : CohMsg) : (State.grantReq s0 k m).latched = s0.latched := by
  unfold State.grantReq
  dsimp only
  repeat' split
  all_goals simp

@[simp] theorem State.serveOne_latched (s : State) (k : ReqKind) (m : CohMsg) : (State.serveOne s k m).latched = s.latched := by
  unfold State.serveOne
  dsimp only
  repeat' split
  all_goals simp

@[simp] theorem State.serveReq_latched (s : State) (k : ReqKind) (m : CohMsg) : (State.serveReq s k m).latched = s.latched := by simp [State.serveReq]

@[simp] theorem State.wakeReqs_latched (fuel : Nat) (s : State) : (State.wakeReqs fuel s).latched = s.latched := by
  induction fuel generalizing s with
  | zero => rfl
  | succ n ih =>
    unfold State.wakeReqs
    split
    · rfl
    · split
      · rfl
      · split <;> simp [ih]

@[simp] theorem State.answered_latched (s : State) (bi sys : Bool) (grain : Nat) : (State.answered s bi sys grain).latched = s.latched := by
  unfold State.answered
  dsimp only
  repeat' split
  all_goals simp

@[simp] theorem State.arrive_latched (s : State) (k : ReqKind) (m : CohMsg) : (State.arrive s k m).latched = s.latched := by
  unfold State.arrive
  repeat' split
  all_goals simp

@[simp] theorem execRds_latched (m : CohMsg) (s : State) : s.latchedBy (execRds m s) = s.latched := by simp [execRds]

@[simp] theorem execRdxMsg_latched (m : CohMsg) (s : State) : s.latchedBy (execRdxMsg m s) = s.latched := by simp [execRdxMsg]

@[simp] theorem execOwnnd_latched (m : CohMsg) (s : State) : s.latchedBy (execOwnnd m s) = s.latched := by simp [execOwnnd]

@[simp] theorem execUpg_latched (m : CohMsg) (s : State) : s.latchedBy (execUpg m s) = s.latched := by simp [execUpg]

@[simp] theorem execAtomicreq_latched (m : CohMsg) (s : State) : s.latchedBy (execAtomicreq m s) = s.latched := by simp [execAtomicreq]

@[simp] theorem execWb_latched (m : CohMsg) (s : State) : s.latchedBy (execWb m s) = s.latched := by simp [execWb]

@[simp] theorem State.respond_latched (s : State) (m : CohMsg) (old : L2St) : (State.respond s m old).latched = s.latched := by simp [State.respond]

@[simp] theorem execSnps_latched (m : CohMsg) (s : State) : s.latchedBy (execSnps m s) = s.latched := by simp [execSnps]

@[simp] theorem execSnpx_latched (m : CohMsg) (s : State) : s.latchedBy (execSnpx m s) = s.latched := by simp [execSnpx]

@[simp] theorem execInv_latched (m : CohMsg) (s : State) : s.latchedBy (execInv m s) = s.latched := by simp [execInv]

@[simp] theorem execBi_latched (m : CohMsg) (s : State) : s.latchedBy (execBi m s) = s.latched := by simp [execBi]

@[simp] theorem execRsp_latched (m : CohMsg) (s : State) : s.latchedBy (execRsp m s) = s.latched := by
  unfold execRsp
  repeat' split
  all_goals simp

@[simp] theorem State.goDie_latched (s : State) (die : Nat) : (State.goDie s die).latched = s.latched := by simp [State.goDie]

@[simp] theorem State.endFill_latched (s : State) (k : Nat) : (State.endFill s k).latched = s.latched := by simp [State.endFill]

@[simp] theorem execData_latched (m : CohMsg) (s : State) : s.latchedBy (execData m s) = s.latched := by simp [execData]

@[simp] theorem State.atomBack_latched (s : State) (tag : Nat) : (State.atomBack s tag).latched = s.latched := by
  rw [State.atomBack]
  split <;> simp

@[simp] theorem execAtomicrsp_latched (m : CohMsg) (s : State) : s.latchedBy (execAtomicrsp m s) = s.latched := by simp [execAtomicrsp]

@[simp] theorem execRetry_latched (m : CohMsg) (s : State) : s.latchedBy (execRetry m s) = s.latched := by simp [execRetry]

@[simp] theorem execPoison_latched (m : CohMsg) (s : State) : s.latchedBy (execPoison m s) = s.latched := by simp [execPoison]

@[simp] theorem State.lineCame_latched (s : State) (a : Nat) : (State.lineCame s a).latched = s.latched := by
  rw [State.lineCame]
  split <;> simp

@[simp] theorem State.takeLine_latched (s : State) (die a : Nat) (excl : Bool) : (State.takeLine s die a excl).latched = s.latched := by
  simp [State.takeLine]

@[simp] theorem execRdshared_latched (s : State) : s.latchedBy (execRdshared s) = s.latched := by simp [execRdshared]

@[simp] theorem execRdown_latched (s : State) : s.latchedBy (execRdown s) = s.latched := by simp [execRdown]

@[simp] theorem State.probeLine_latched (s : State) (a : Nat) (f : Option L2St) : (State.probeLine s a f).latched = s.latched := by
  rw [State.probeLine]
  split <;> simp

@[simp] theorem State.retryLine_latched (s : State) (a : Nat) (data : Bool) : (State.retryLine s a data).latched = s.latched := by
  simp [State.retryLine]

@[simp] theorem State.giveLine_latched (s : State) (a : Nat) : (State.giveLine s a).latched = s.latched := by simp [State.giveLine]

@[simp] theorem execDirtyevict_latched (s : State) : s.latchedBy (execDirtyevict s) = s.latched := by simp [execDirtyevict]

@[simp] theorem execCleanevict_latched (s : State) : s.latchedBy (execCleanevict s) = s.latched := by simp [execCleanevict]

@[simp] theorem State.defer_latched (s : State) (i : Instr) : (State.defer s i).latched = s.latched := by simp [State.defer]

@[simp] theorem State.shareLine_latched (s : State) (a : Nat) : (State.shareLine s a).latched = s.latched := by simp [State.shareLine]

@[simp] theorem State.loseLine_latched (s : State) (a : Nat) (bs : List Byte) : (State.loseLine s a bs).latched = s.latched := by
  simp [State.loseLine]

@[simp] theorem execSnpdata_latched (s : State) : s.latchedBy (execSnpdata s) = s.latched := by simp [execSnpdata]

@[simp] theorem execSnpinv_latched (s : State) : s.latchedBy (execSnpinv s) = s.latched := by simp [execSnpinv]

@[simp] theorem execSnpcur_latched (s : State) : s.latchedBy (execSnpcur s) = s.latched := by simp [execSnpcur]

@[simp] theorem State.giveHosts_latched (s : State) (p a : Nat) (all : Bool) : (State.giveHosts s p a all).latched = s.latched := by
  simp [State.giveHosts]

@[simp] theorem execBisnpinv_latched (s : State) : s.latchedBy (execBisnpinv s) = s.latched := by simp [execBisnpinv]

@[simp] theorem execBisnpdata_latched (s : State) : s.latchedBy (execBisnpdata s) = s.latched := by simp [execBisnpdata]

@[simp] theorem State.linkStore_latched (s : State) (da : Nat) (bs : List Byte) : (State.linkStore s da bs).latched = s.latched := by
  refine (State.noteLogs_latched _ _).trans (State.latched_foldl (fun s e => ?_) _ _)
  split <;> simp

@[simp] theorem State.hostAnswered_latched (s : State) (line : Nat) : (State.hostAnswered s line).latched = s.latched := by
  unfold State.hostAnswered
  repeat' split
  all_goals simp

@[simp] theorem execBirsp_latched (s : State) : s.latchedBy (execBirsp s) = s.latched := by
  rw [execBirsp]
  split <;> simp

/-! Link. -/

@[simp] theorem State.answer_latched (s : State) (k : Nat) (ws : List W64) : (State.answer s k ws).latched = s.latched := by simp [State.answer]

@[simp] theorem State.setPort_latched (s : State) (p : Nat) (x : Port) : (State.setPort s p x).latched = s.latched := by simp [State.setPort]

@[simp] theorem State.setPeer_latched (s : State) (p : Nat) (x : Peer) : (State.setPeer s p x).latched = s.latched := by simp [State.setPeer]

@[simp] theorem State.hostTakes_latched (s : State) (a p : Nat) (excl : Bool) : (State.hostTakes s a p excl).latched = s.latched := by
  simp [State.hostTakes]

@[simp] theorem State.askHosts_latched (s : State) (i : Instr) (a : Nat) (ps : List Nat) (excl : Bool) :
    (State.askHosts s i a ps excl).latched = s.latched := by simp [State.askHosts]

@[simp] theorem execMemrd_latched (s : State) : s.latchedBy (execMemrd s) = s.latched := by
  unfold execMemrd
  dsimp only
  repeat' split
  all_goals simp

@[simp] theorem execMemwr_latched (s : State) : s.latchedBy (execMemwr s) = s.latched := by
  unfold execMemwr
  dsimp only
  repeat' split
  all_goals simp

@[simp] theorem State.closeSession_latched (s : State) (p : Nat) : (State.closeSession s p).latched = s.latched := by simp [State.closeSession]

@[simp] theorem State.dropLink_latched (s : State) (p : Nat) : (State.dropLink s p).latched = s.latched := by
  refine (State.wakeReqs_latched _ _).trans ((State.latched_foldl (fun s i => ?_) _ _).trans (by simp))
  split <;> simp

@[simp] theorem State.cutRest_latched (s : State) (p i : Nat) : (State.cutRest s p i).latched = s.latched := by
  rw [State.cutRest]
  split <;> simp

@[simp] theorem State.portDown_latched (s : State) (p : Nat) : (State.portDown s p).latched = s.latched := by simp [State.portDown]

@[simp] theorem execPortDown_latched (s : State) : s.latchedBy (execPortDown s) = s.latched := by simp [execPortDown]

@[simp] theorem State.train_latched (s : State) (p pass : Nat) : (State.train s p pass).latched = s.latched := by simp [State.train]

@[simp] theorem execPortTraining_latched (s : State) : s.latchedBy (execPortTraining s) = s.latched := by simp [execPortTraining]

@[simp] theorem execFlit_latched (s : State) : s.latchedBy (execFlit s) = s.latched := by simp [execFlit]

@[simp] theorem State.cancelFunction_latched (s : State) (f : Nat) : (State.cancelFunction s f).latched = s.latched := by simp [State.cancelFunction]

@[simp] theorem State.closeBound_latched (s : State) (f : Nat) : (State.closeBound s f).latched = s.latched := by simp [State.closeBound]

@[simp] theorem State.scrub_latched (s : State) (f o : Nat) : (State.scrub s f o).1.latched = s.latched := by simp [State.scrub]

@[simp] theorem State.deferAt_latched (s : State) (i : Instr) (o : Nat) : (State.deferAt s i o).latched = s.latched := by simp [State.deferAt]

@[simp] theorem execGetDeviceInterfaceReport_latched (s : State) : s.latchedBy (execGetDeviceInterfaceReport s) = s.latched := by
  simp [execGetDeviceInterfaceReport]

@[simp] theorem execGetDeviceInterfaceState_latched (s : State) : s.latchedBy (execGetDeviceInterfaceState s) = s.latched := by
  simp [execGetDeviceInterfaceState]

@[simp] theorem State.setSession_latched (s : State) (n : Nat) (x : Sess) : (State.setSession s n x).latched = s.latched := by simp [State.setSession]

@[simp] theorem execAlgorithmNegotiation_latched (s : State) : s.latchedBy (execAlgorithmNegotiation s) = s.latched := by
  simp [execAlgorithmNegotiation]

@[simp] theorem execKeyExchange_latched (s : State) : s.latchedBy (execKeyExchange s) = s.latched := by
  unfold execKeyExchange
  dsimp only
  repeat' split
  all_goals simp

@[simp] theorem execFinish_latched (s : State) : s.latchedBy (execFinish s) = s.latched := by simp [execFinish]

@[simp] theorem execHeartbeat_latched (s : State) : s.latchedBy (execHeartbeat s) = s.latched := by simp [execHeartbeat]

@[simp] theorem execKeyUpdate_latched (s : State) : s.latchedBy (execKeyUpdate s) = s.latched := by simp [execKeyUpdate]

@[simp] theorem execEndSession_latched (s : State) : s.latchedBy (execEndSession s) = s.latched := by simp [execEndSession]

@[simp] theorem execGetMeasurements_latched (s : State) : s.latchedBy (execGetMeasurements s) = s.latched := by simp [execGetMeasurements]

@[simp] theorem execBind_latched (s : State) : s.latchedBy (execBind s) = s.latched := by
  unfold execBind
  dsimp only
  repeat' split
  all_goals simp

@[simp] theorem State.openSession_latched (s : State) (p f : Nat) : (State.openSession s p f).latched = s.latched := by
  rw [State.openSession]
  split <;> simp

@[simp] theorem State.beginSession_latched (s : State) (p f : Nat) : (State.beginSession s p f).latched = s.latched := by simp [State.beginSession]

@[simp] theorem State.sessCommand_latched (s : State) (p : Nat) (v : W64) : (State.sessCommand s p v).latched = s.latched := by
  unfold State.sessCommand
  repeat' split
  all_goals simp

@[simp] theorem State.sessEvent_latched (s : State) (op : Nat) : (State.sessEvent s op).latched = s.latched := by simp [State.sessEvent]

@[simp] theorem execSessionOpen_latched (s : State) : s.latchedBy (execSessionOpen s) = s.latched := by simp [execSessionOpen]

@[simp] theorem execSessionClose_latched (s : State) : s.latchedBy (execSessionClose s) = s.latched := by simp [execSessionClose]

@[simp] theorem execSessionKeyUpdate_latched (s : State) : s.latchedBy (execSessionKeyUpdate s) = s.latched := by simp [execSessionKeyUpdate]

end Sys2Proof.Machine
end

section
/-!
The Belfry's events, writes of the function windows and what stands around an instruction latch nothing, resets and COMMIT apart.
-/
namespace Sys2Proof.Machine

/-! Belfry. -/

@[simp] theorem State.setBel_latched (s : State) (b : Belfry) : (State.setBel s b).latched = (b.fuses, s.tdisp) := by simp [State.setBel]

@[simp] theorem State.fillPools_latched (s : State) : (State.fillPools s).latched = s.latched := by simp [State.fillPools]

@[simp] theorem State.trainAll_latched (s : State) (m n : Nat) : (State.trainAll s m n).latched = s.latched := by simp [State.trainAll]

@[simp] theorem Belfry.boots_fuses (b : Belfry) (x : FwSlot) : (b.boots x).fuses = b.fuses := rfl

@[simp] theorem Belfry.booted_fuses (b : Belfry) (ready : Bool) : (b.booted ready).fuses = b.fuses := by
  unfold Belfry.booted
  repeat' split
  all_goals rfl

@[simp] theorem State.bringUp_latched (s : State) (k : Nat) : (s.bringUp k).latched = s.latched := by
  unfold State.bringUp
  dsimp only
  repeat' split
  all_goals simp

@[simp] theorem State.bcmdBusy_latched (s : State) : (State.bcmdBusy s).latched = s.latched := by simp [State.bcmdBusy]

@[simp] theorem State.cancelAll_latched (s : State) : (State.cancelAll s).latched = s.latched := by simp [State.cancelAll]

@[simp] theorem State.clearRegs_latched (s : State) (f : Nat) : (State.clearRegs s f).latched = s.latched := by simp [State.clearRegs]

@[simp] theorem execUpdate_latched (s : State) : s.latchedBy (execUpdate s) = s.latched := by simp [execUpdate]

@[simp] theorem execUpdateReadComplete_latched (s : State) : s.latchedBy (execUpdateReadComplete s) = s.latched := by
  unfold execUpdateReadComplete
  dsimp only
  repeat' split
  all_goals simp

@[simp] theorem State.cleanCaches_latched (s : State) : (State.cleanCaches s).latched = s.latched := by simp [State.cleanCaches]

@[simp] theorem execD3hotExit_latched (s : State) : s.latchedBy (execD3hotExit s) = s.latched := by simp [execD3hotExit]

@[simp] theorem execD0IdleEntry_latched (s : State) : s.latchedBy (execD0IdleEntry s) = s.latched := by simp [execD0IdleEntry]

@[simp] theorem execD0IdleExit_latched (s : State) : s.latchedBy (execD0IdleExit s) = s.latched := by simp [execD0IdleExit]

@[simp] theorem State.setSensor_latched (s : State) (n : Nat) (x : W32) : (State.setSensor s n x).latched = s.latched := by simp [State.setSensor]

@[simp] theorem execSensorWarning_latched (s : State) : s.latchedBy (execSensorWarning s) = s.latched := by simp [execSensorWarning]

@[simp] theorem execSensorWarningEnd_latched (s : State) : s.latchedBy (execSensorWarningEnd s) = s.latched := by simp [execSensorWarningEnd]

@[simp] theorem execShutdown_latched (s : State) : s.latchedBy (execShutdown s) = s.latched := by
  rw [execShutdown]
  split <;> simp

@[simp] theorem State.clockStep_latched (s : State) (k : Nat) (n : Option Nat) (b : Belfry) : (State.clockStep s k n b).latched = (b.fuses, s.tdisp) := by
  simp [State.clockStep]

@[simp] theorem execClockStepDown_latched (s : State) : s.latchedBy (execClockStepDown s) = s.latched := by simp [execClockStepDown]

@[simp] theorem execClockStepUp_latched (s : State) : s.latchedBy (execClockStepUp s) = s.latched := by simp [execClockStepUp]

@[simp] theorem execLantentHighWrite_latched (s : State) : s.latchedBy (execLantentHighWrite s) = s.latched := by simp [execLantentHighWrite]

@[simp] theorem execLantentHighRead_latched (s : State) : s.latchedBy (execLantentHighRead s) = s.latched := by simp [execLantentHighRead]

@[simp] theorem State.lantasg_latched (s : State) (n : Nat) (v : W64) (hv : Bool) : (State.lantasg s n v hv).latched = s.latched := by
  simp [State.lantasg]

@[simp] theorem execLantasgWrite_latched (s : State) : s.latchedBy (execLantasgWrite s) = s.latched := by simp [execLantasgWrite]

/-! RegWrites. -/

@[simp] theorem State.via_latched (s : State) (f n : Nat) (v : W64) (e : State → Host.Outcome State Fault Refusal) (he : ∀ u : State, u.latchedBy (e u) = u.latched) :
    (State.via s f n v e).latched = s.latched := by
  have h := he { s with inp := { s.inp with fn := f, num := n, value := v } }
  unfold State.via
  split
  case h_1 t ht =>
    rw [ht] at h
    exact h
  case h_2 => rfl

@[simp] theorem State.setIf_latched (s : State) (c : Bool) (f off : Nat) (v : W64) : (State.setIf s c f off v).latched = s.latched := by
  simp [State.setIf]

@[simp] theorem State.flushLines_latched (s : State) (p : Nat → Bool) : (State.flushLines s p).latched = s.latched := by simp [State.flushLines]

@[simp] theorem State.writeClrange_latched (s : State) (f : Nat) (v : W64) : (State.writeClrange s f v).latched = s.latched := by
  simp [State.writeClrange]

@[simp] theorem State.writeWindow_latched (s : State) (f : Nat) (lo n : Nat) : (State.writeWindow s f lo n).latched = s.latched := by
  simp [State.writeWindow]

@[simp] theorem State.writePtroot_latched (s : State) (f : Nat) (v : W64) : (State.writePtroot s f v).latched = s.latched := by
  simp [State.writePtroot]

@[simp] theorem State.writeLqcfg_latched (s : State) (f q : Nat) (v : W64) : (State.writeLqcfg s f q v).latched = s.latched := by
  simp [State.writeLqcfg]

@[simp] theorem State.writeRr_latched (s : State) (f off : Nat) (v : W64) : (State.writeRr s f off v).latched = s.latched := by simp [State.writeRr]

@[simp] theorem State.writeFsqcfg_latched (s : State) (f : Nat) (v : W64) : (State.writeFsqcfg s f v).latched = s.latched := by
  simp [State.writeFsqcfg]

@[simp] theorem State.writeFsqhead_latched (s : State) (f : Nat) (v : W64) : (State.writeFsqhead s f v).latched = s.latched := by
  simp [State.writeFsqhead]

@[simp] theorem State.deferReg_latched (s : State) (i : Instr) (f n : Nat) (v : W64) : (State.deferReg s i f n v).latched = s.latched := by
  simp [State.deferReg]

@[simp] theorem State.writeNcwin_latched (s : State) (f n : Nat) (v : W64) : (State.writeNcwin s f n v).latched = s.latched := by
  simp [State.writeNcwin]

@[simp] theorem State.writeQrange_latched (s : State) (f : Nat) (v : W64) : (State.writeQrange s f v).latched = s.latched := by
  simp [State.writeQrange]

@[simp] theorem State.writeGrange_latched (s : State) (f : Nat) (v : W64) : (State.writeGrange s f v).latched = s.latched := by
  simp [State.writeGrange]

@[simp] theorem State.writeL2cfg_latched (s : State) (f : Nat) (v : W64) : (State.writeL2cfg s f v).latched = s.latched := by simp [State.writeL2cfg]

@[simp] theorem State.writeDmspace_latched (s : State) (v : W64) : (State.writeDmspace s v).latched = s.latched := by simp [State.writeDmspace]

@[simp] theorem State.checkPools_latched (s : State) : (State.checkPools s).latched = s.latched := by simp [State.checkPools]

theorem State.latched_ite_eq {c : Prop} [Decidable c] {s a b : State} (ha : a.latched = s.latched) (hb : b.latched = s.latched) :
    (if c then a else b).latched = s.latched := by
  rw [State.latched_ite, ha, hb, ite_self]

@[simp] theorem State.writeHv_latched (s : State) (f off : Nat) (v : W64) : (State.writeHv s f off v).latched = s.latched := by
  unfold State.writeHv
  iterate 16 refine State.latched_ite_eq (by simp) ?_
  split <;> simp

@[simp] theorem State.writeRw_latched (s : State) (f off : Nat) (v : W64) : (State.writeRw s f off v).latched = s.latched := by
  unfold State.writeRw
  dsimp only
  iterate 5 refine State.latched_ite_eq (by simp) ?_
  refine State.latched_ite_eq ?_ (by simp)
  split <;> simp

/-! Issue. -/

@[simp] theorem State.takePend_latched (s : State) (i : Nat) (p0 : PendTrap) : (State.takePend s i p0).latched = s.latched := by simp [State.takePend]

theorem State.boundary_latched (s : State) (i : Nat) : ∀ u, (State.boundary s i) = some u → u.latched = s.latched := by
  unfold State.boundary
  dsimp only
  repeat' split
  all_goals simp

@[simp] theorem State.textPage_latched (s : State) (va cause : Nat) : (State.textPage s va cause).latched = s.latched := by simp [State.textPage]

@[simp] theorem State.textTrap_latched (s : State) (cls sub : Nat) : (State.textTrap s cls sub).latched = s.latched := by simp [State.textTrap]

@[simp] theorem State.ready_latched (s : State) : (State.ready s).1.latched = s.latched := by
  unfold State.ready
  dsimp only
  repeat' split
  all_goals simp

@[simp] theorem State.logUnread_latched (s : State) (i : Nat) (x : Instr) (t0 : Team) : (State.logUnread s i x t0).latched = s.latched := by
  rw [State.logUnread]
  split <;> simp

@[simp] theorem State.countSkid_latched (s : State) (i : Nat) : (State.countSkid s i).latched = s.latched := by
  rw [State.countSkid]
  split <;> simp

@[simp] theorem State.stepTrap_latched (s : State) (i : Nat) (t0 : Team) (len : Nat) : (State.stepTrap s i t0 len).latched = s.latched := by
  simp [State.stepTrap]

@[simp] theorem State.completed_latched (s : State) (i : Nat) (x : Instr) (t0 : Team) : (State.completed s i x t0).latched = s.latched := by
  simp [State.completed]

@[simp] theorem State.quotaPark_latched (s : State) (b : Batch) (l : Nat) : (State.quotaPark s b l).latched = s.latched := by simp [State.quotaPark]

@[simp] theorem State.spacePark_latched (s : State) (a : Nat) : (State.spacePark s a).latched = s.latched := by simp [State.spacePark]

@[simp] theorem State.verdictActs_latched (s : State) (v : Verdict) : (State.verdictActs s v).latched = s.latched := by
  unfold State.verdictActs
  repeat' split
  all_goals simp

@[simp] theorem execSpireVerdict_latched (n : Nat) (s : State) : s.latchedBy (execSpireVerdict n s) = s.latched := by
  rw [execSpireVerdict]
  split <;> simp

/-! Due. -/

@[simp] theorem State.clocked_latched (s : State) : (State.clocked s).latched = s.latched := by simp [State.clocked]

end Sys2Proof.Machine
end

section
/-!
No step lowers the number of blown fuses (O57): what a step latches, and the few events that do.
-/
namespace Sys2Proof.Machine

/-- The next state of an outcome, if there is one, has at least `n` fuses blown. -/
def fusesKept (n : Nat) (o : Host.Outcome State Fault Refusal) : Prop :=
  match o with
  | .next t => t.fusesAtLeast n
  | _ => True

theorem State.fusesAtLeast_of_latched {n : Nat} {s t : State} (h : t.latched = s.latched) (hs : s.fusesAtLeast n) : t.fusesAtLeast n := by
  have hf : t.bel.fuses = s.bel.fuses := congrArg Prod.fst h
  rw [State.fusesAtLeast, hf]
  exact hs

theorem fusesKept_of_latched {n : Nat} {s : State} {o : Host.Outcome State Fault Refusal} (h : s.latchedBy o = s.latched) (hs : s.fusesAtLeast n) :
    fusesKept n o := by
  cases o with
  | next t => exact State.fusesAtLeast_of_latched h hs
  | fault e => trivial
  | refused e => trivial

theorem fusesKept_next {n : Nat} {t : State} (h : t.fusesAtLeast n) : fusesKept n (.next t) := h

theorem fusesKept_ite {n : Nat} {c : Prop} [Decidable c] {a b : Host.Outcome State Fault Refusal} (ha : fusesKept n a) (hb : fusesKept n b) :
    fusesKept n (if c then a else b) := by
  split
  · exact ha
  · exact hb

theorem State.fusesAtLeast_ite {n : Nat} {c : Prop} [Decidable c] {a b : State} (ha : a.fusesAtLeast n) (hb : b.fusesAtLeast n) :
    (if c then a else b).fusesAtLeast n := by
  split
  · exact ha
  · exact hb

/-! TDISP: a request changes an interface's state and no fuse. -/

section
variable {n : Nat} (s : State) (h : s.fusesAtLeast n)
include h

theorem State.setTdisp_fuses (f x : Nat) : (s.setTdisp f x).fusesAtLeast n := h

theorem State.lockError_fuses (f : Nat) : (s.lockError f).fusesAtLeast n :=
  State.fusesAtLeast_of_latched (State.cancelFunction_latched _ f) (s.setTdisp_fuses h f 3)

theorem State.answer_fuses (k : Nat) (ws : List W64) : (s.answer k ws).fusesAtLeast n := h

theorem State.scrub_fuses (f o : Nat) : (s.scrub f o).1.fusesAtLeast n := State.fusesAtLeast_of_latched (State.scrub_latched s f o) h

theorem execLockInterfaceRequest_fuses : fusesKept n (execLockInterfaceRequest s) :=
  fusesKept_ite h (fusesKept_ite h h)

theorem execStartInterfaceRequest_fuses : fusesKept n (execStartInterfaceRequest s) :=
  fusesKept_ite h (fusesKept_ite h h)

theorem execStopInterfaceRequest_fuses : fusesKept n (execStopInterfaceRequest s) := by
  unfold execStopInterfaceRequest
  refine fusesKept_ite h ?_
  have hx := s.scrub_fuses h s.inp.fn s.inp.low.toNat
  generalize s.scrub s.inp.fn s.inp.low.toNat = x at hx ⊢
  dsimp only
  split
  · exact fusesKept_next (State.fusesAtLeast_of_latched (State.deferAt_latched _ _ _) hx)
  · exact fusesKept_next (State.answer_fuses _ (State.setTdisp_fuses _ hx _ _) _ _)

theorem execFunctionLevelReset_fuses : fusesKept n (execFunctionLevelReset s) := by
  unfold execFunctionLevelReset
  refine fusesKept_ite h ?_
  have hx := s.scrub_fuses h s.inp.fn s.inp.low.toNat
  generalize s.scrub s.inp.fn s.inp.low.toNat = x at hx ⊢
  dsimp only
  split
  · exact fusesKept_next (State.fusesAtLeast_of_latched (State.deferAt_latched _ _ _) hx)
  · exact fusesKept_next (State.fusesAtLeast_of_latched (State.dropFaults_latched _ _ _) hx)

/-! Resets and power: what is lost, the flash and the fuses are not. -/

theorem State.lost_fuses {b : Belfry} (hb : b.fuses = s.bel.fuses) : (s.lost b).fusesAtLeast n := by
  rw [State.fusesAtLeast, State.lost, hb]
  exact h

theorem execColdReset_fuses : fusesKept n (execColdReset s) :=
  fusesKept_next (State.fusesAtLeast_of_latched (State.bringUp_latched _ 1) (s.lost_fuses h rfl))

theorem execWarmReset_fuses : fusesKept n (execWarmReset s) := by
  unfold execWarmReset
  refine fusesKept_ite h ?_
  have hs : (if s.warming then s else s.cancelAll.setBel { s.bel with busy := true, stage := 0 }).fusesAtLeast n :=
    State.fusesAtLeast_ite h h
  generalize (if s.warming then s else s.cancelAll.setBel { s.bel with busy := true, stage := 0 }) = u at hs ⊢
  exact fusesKept_ite (fusesKept_next (State.fusesAtLeast_of_latched (State.deferAt_latched _ _ _) hs))
    (fusesKept_next (State.fusesAtLeast_of_latched (State.bringUp_latched _ 1) (u.lost_fuses hs rfl)))

theorem execD3hotEntry_fuses : fusesKept n (execD3hotEntry s) := by
  unfold execD3hotEntry
  refine fusesKept_ite h ?_
  have hc : s.cleanCaches.fusesAtLeast n := State.fusesAtLeast_of_latched (State.cleanCaches_latched s) h
  generalize s.cleanCaches = x at hc ⊢
  exact fusesKept_next hc

theorem execD3cold_fuses : fusesKept n (execD3cold s) := fusesKept_next (s.lost_fuses h rfl)

/-- COMMIT alone blows fuses: up to the booted image's SVN. -/
theorem execCommit_fuses : fusesKept n (execCommit s) :=
  fusesKept_ite h (fusesKept_ite h (h.trans (Nat.le_max_left _ _)))

/-! Writes of registers: a locked field's write is an error of its interface, BCMD's write its command. -/

theorem State.writeOwn_fuses (f off : Nat) (v : W64) (hv : Bool) : (s.writeOwn f off v hv).fusesAtLeast n := by
  unfold State.writeOwn
  refine State.fusesAtLeast_ite h (State.fusesAtLeast_ite (State.fusesAtLeast_ite h ?_) ?_)
  · split
    · exact State.fusesAtLeast_of_latched (State.writeHv_latched s f off v) h
    · exact h
    · exact s.lockError_fuses h _
  · exact State.fusesAtLeast_of_latched (State.writeRw_latched s f off v) h

theorem State.writeWin_fuses (f off : Nat) (v : W64) (hv : Bool) : (s.writeWin f off v hv).fusesAtLeast n :=
  State.fusesAtLeast_ite (State.fusesAtLeast_ite (s.writeOwn_fuses h _ _ _ _) h) (s.writeOwn_fuses h _ _ _ _)

theorem State.inputWrite_fuses (off : Nat) : (s.inputWrite off).fusesAtLeast n :=
  State.fusesAtLeast_ite (s.writeOwn_fuses h _ _ _ _) h

theorem State.via_fuses {e : State → Host.Outcome State Fault Refusal} (he : ∀ u : State, u.fusesAtLeast n → fusesKept n (e u)) (f k : Nat) (v : W64) :
    (s.via f k v e).fusesAtLeast n := by
  have hu := he { s with inp := { s.inp with fn := f, num := k, value := v } } h
  unfold State.via
  split
  case h_1 t ht =>
    rw [ht] at hu
    exact hu
  case h_2 => exact h

theorem State.writeBel_fuses (off : Nat) (v low : W64) (hv : Bool) : (s.writeBel off v low hv).fusesAtLeast n := by
  unfold State.writeBel
  refine State.fusesAtLeast_ite h (State.fusesAtLeast_ite ?_ ?_)
  · split
    · exact s.via_fuses h (fun u hu => fusesKept_of_latched (execUpdate_latched u) hu) _ _ _
    · exact s.via_fuses h (fun u hu => execCommit_fuses u hu) _ _ _
    · exact s.via_fuses h (fun u hu => execWarmReset_fuses u hu) _ _ _
    · exact State.fusesAtLeast_ite h h
  · refine State.fusesAtLeast_ite h (State.fusesAtLeast_ite h (State.fusesAtLeast_ite ?_ (State.fusesAtLeast_ite ?_ h)))
    · exact State.fusesAtLeast_of_latched (State.lantasg_latched s _ _ _) h
    · exact State.fusesAtLeast_of_latched (State.lanternPut_latched s _ _ _) h

theorem execPquotaWrite_fuses : fusesKept n (execPquotaWrite s) := s.inputWrite_fuses h _
theorem execDlheadWrite_fuses : fusesKept n (execDlheadWrite s) := s.inputWrite_fuses h _
theorem execFsqcfgWrite_fuses : fusesKept n (execFsqcfgWrite s) := s.inputWrite_fuses h _
theorem execFsqheadWrite_fuses : fusesKept n (execFsqheadWrite s) := s.inputWrite_fuses h _
theorem execRrheadWrite_fuses : fusesKept n (execRrheadWrite s) := s.inputWrite_fuses h _
theorem execPtrootWrite_fuses : fusesKept n (execPtrootWrite s) := s.inputWrite_fuses h _
theorem execL2cfgWrite_fuses : fusesKept n (execL2cfgWrite s) := s.inputWrite_fuses h _
theorem execLqcfgWrite_fuses : fusesKept n (execLqcfgWrite s) := State.fusesAtLeast_ite (s.inputWrite_fuses h _) h
theorem execNcwinWrite_fuses : fusesKept n (execNcwinWrite s) := State.fusesAtLeast_ite (s.inputWrite_fuses h _) h
theorem execAliasWrite_fuses : fusesKept n (execAliasWrite s) := State.fusesAtLeast_ite (s.writeWin_fuses h _ _ _ _) h

theorem execRegisterWrite_fuses : fusesKept n (execRegisterWrite s) := by
  unfold execRegisterWrite
  split
  · exact State.fusesAtLeast_ite (s.writeWin_fuses h _ _ _ _) h
  · exact s.writeBel_fuses h _ _ _ _

end

/-! The dispatch, and the step around it. -/

/-- Every row of the opcode table keeps the blown fuses: the dispatch, arm by arm. -/
theorem exec_fuses {n : Nat} (i : Instr) (s : State) (h : s.fusesAtLeast n) : fusesKept n (exec i s) :=
  match i with
  | .iadd f => fusesKept_of_latched (execIadd_latched f s) h
  | .isub f => fusesKept_of_latched (execIsub_latched f s) h
  | .imul f => fusesKept_of_latched (execImul_latched f s) h
  | .imulh f => fusesKept_of_latched (execImulh_latched f s) h
  | .imad f => fusesKept_of_latched (execImad_latched f s) h
  | .idiv f => fusesKept_of_latched (execIdiv_latched f s) h
  | .irem f => fusesKept_of_latched (execIrem_latched f s) h
  | .imin f => fusesKept_of_latched (execImin_latched f s) h
  | .imax f => fusesKept_of_latched (execImax_latched f s) h
  | .iabsS f => fusesKept_of_latched (execIabsS_latched f s) h
  | .iabsL f => fusesKept_of_latched (execIabsL_latched f s) h
  | .inegS f => fusesKept_of_latched (execInegS_latched f s) h
  | .inegL f => fusesKept_of_latched (execInegL_latched f s) h
  | .iadds f => fusesKept_of_latched (execIadds_latched f s) h
  | .isubs f => fusesKept_of_latched (execIsubs_latched f s) h
  | .and f => fusesKept_of_latched (execAnd_latched f s) h
  | .or f => fusesKept_of_latched (execOr_latched f s) h
  | .xor f => fusesKept_of_latched (execXor_latched f s) h
  | .andn f => fusesKept_of_latched (execAndn_latched f s) h
  | .notS f => fusesKept_of_latched (execNotS_latched f s) h
  | .notL f => fusesKept_of_latched (execNotL_latched f s) h
  | .shl f => fusesKept_of_latched (execShl_latched f s) h
  | .shr f => fusesKept_of_latched (execShr_latched f s) h
  | .sar f => fusesKept_of_latched (execSar_latched f s) h
  | .rol f => fusesKept_of_latched (execRol_latched f s) h
  | .bfx f => fusesKept_of_latched (execBfx_latched f s) h
  | .bfi f => fusesKept_of_latched (execBfi_latched f s) h
  | .popcS f => fusesKept_of_latched (execPopcS_latched f s) h
  | .popcL f => fusesKept_of_latched (execPopcL_latched f s) h
  | .clzS f => fusesKept_of_latched (execClzS_latched f s) h
  | .clzL f => fusesKept_of_latched (execClzL_latched f s) h
  | .ctzS f => fusesKept_of_latched (execCtzS_latched f s) h
  | .ctzL f => fusesKept_of_latched (execCtzL_latched f s) h
  | .brevS f => fusesKept_of_latched (execBrevS_latched f s) h
  | .brevL f => fusesKept_of_latched (execBrevL_latched f s) h
  | .sel f => fusesKept_of_latched (execSel_latched f s) h
  | .movS f => fusesKept_of_latched (execMovS_latched f s) h
  | .movL f => fusesKept_of_latched (execMovL_latched f s) h
  | .movi f => fusesKept_of_latched (execMovi_latched f s) h
  | .prmt f => fusesKept_of_latched (execPrmt_latched f s) h
  | .srd f => fusesKept_of_latched (execSrd_latched f s) h
  | .swr f => fusesKept_of_latched (execSwr_latched f s) h
  | .iaddc f => fusesKept_of_latched (execIaddc_latched f s) h
  | .fadd f => fusesKept_of_latched (execFadd_latched f s) h
  | .fsub f => fusesKept_of_latched (execFsub_latched f s) h
  | .fmul f => fusesKept_of_latched (execFmul_latched f s) h
  | .ffma f => fusesKept_of_latched (execFfma_latched f s) h
  | .fmin f => fusesKept_of_latched (execFmin_latched f s) h
  | .fmax f => fusesKept_of_latched (execFmax_latched f s) h
  | .fabsS f => fusesKept_of_latched (execFabsS_latched f s) h
  | .fabsL f => fusesKept_of_latched (execFabsL_latched f s) h
  | .fnegS f => fusesKept_of_latched (execFnegS_latched f s) h
  | .fnegL f => fusesKept_of_latched (execFnegL_latched f s) h
  | .fdiv f => fusesKept_of_latched (execFdiv_latched f s) h
  | .fsqrtS f => fusesKept_of_latched (execFsqrtS_latched f s) h
  | .fsqrtL f => fusesKept_of_latched (execFsqrtL_latched f s) h
  | .frcpS f => fusesKept_of_latched (execFrcpS_latched f s) h
  | .frcpL f => fusesKept_of_latched (execFrcpL_latched f s) h
  | .frintS f => fusesKept_of_latched (execFrintS_latched f s) h
  | .frintL f => fusesKept_of_latched (execFrintL_latched f s) h
  | .fclassS f => fusesKept_of_latched (execFclassS_latched f s) h
  | .fclassL f => fusesKept_of_latched (execFclassL_latched f s) h
  | .fscale f => fusesKept_of_latched (execFscale_latched f s) h
  | .fdot2 f => fusesKept_of_latched (execFdot2_latched f s) h
  | .cvt f => fusesKept_of_latched (execCvt_latched f s) h
  | .pack f => fusesKept_of_latched (execPack_latched f s) h
  | .unpk f => fusesKept_of_latched (execUnpk_latched f s) h
  | .sbq f => fusesKept_of_latched (execSbq_latched f s) h
  | .sbdq f => fusesKept_of_latched (execSbdq_latched f s) h
  | .icmp f => fusesKept_of_latched (execIcmp_latched f s) h
  | .fcmp f => fusesKept_of_latched (execFcmp_latched f s) h
  | .plop f => fusesKept_of_latched (execPlop_latched f s) h
  | .pmov f => fusesKept_of_latched (execPmov_latched f s) h
  | .shfl f => fusesKept_of_latched (execShfl_latched f s) h
  | .bcst f => fusesKept_of_latched (execBcst_latched f s) h
  | .vote f => fusesKept_of_latched (execVote_latched f s) h
  | .mbalS f => fusesKept_of_latched (execMbalS_latched f s) h
  | .mbalL f => fusesKept_of_latched (execMbalL_latched f s) h
  | .scanS f => fusesKept_of_latched (execScanS_latched f s) h
  | .scanL f => fusesKept_of_latched (execScanL_latched f s) h
  | .redS f => fusesKept_of_latched (execRedS_latched f s) h
  | .redL f => fusesKept_of_latched (execRedL_latched f s) h
  | .tsort f => fusesKept_of_latched (execTsort_latched f s) h
  | .tselk f => fusesKept_of_latched (execTselk_latched f s) h
  | .cexp2 f => fusesKept_of_latched (execCexp2_latched f s) h
  | .clog2 f => fusesKept_of_latched (execClog2_latched f s) h
  | .csin f => fusesKept_of_latched (execCsin_latched f s) h
  | .ccos f => fusesKept_of_latched (execCcos_latched f s) h
  | .csincos f => fusesKept_of_latched (execCsincos_latched f s) h
  | .catan2 f => fusesKept_of_latched (execCatan2_latched f s) h
  | .ctanh f => fusesKept_of_latched (execCtanh_latched f s) h
  | .csigm f => fusesKept_of_latched (execCsigm_latched f s) h
  | .crsq f => fusesKept_of_latched (execCrsq_latched f s) h
  | .csqrt f => fusesKept_of_latched (execCsqrt_latched f s) h
  | .ld f => fusesKept_of_latched (execLd_latched f s) h
  | .st f => fusesKept_of_latched (execSt_latched f s) h
  | .ldb f => fusesKept_of_latched (execLdb_latched f s) h
  | .stb f => fusesKept_of_latched (execStb_latched f s) h
  | .amo f => fusesKept_of_latched (execAmo_latched f s) h
  | .amn f => fusesKept_of_latched (execAmn_latched f s) h
  | .acas f => fusesKept_of_latched (execAcas_latched f s) h
  | .fence f => fusesKept_of_latched (execFence_latched f s) h
  | .pref f => fusesKept_of_latched (execPref_latched f s) h
  | .ldc f => fusesKept_of_latched (execLdc_latched f s) h
  | .tlook f => fusesKept_of_latched (execTlook_latched f s) h
  | .tins f => fusesKept_of_latched (execTins_latched f s) h
  | .tdel f => fusesKept_of_latched (execTdel_latched f s) h
  | .tmod f => fusesKept_of_latched (execTmod_latched f s) h
  | .tset f => fusesKept_of_latched (execTset_latched f s) h
  | .topen f => fusesKept_of_latched (execTopen_latched f s) h
  | .tnext f => fusesKept_of_latched (execTnext_latched f s) h
  | .tseek f => fusesKept_of_latched (execTseek_latched f s) h
  | .tclose f => fusesKept_of_latched (execTclose_latched f s) h
  | .tcnt f => fusesKept_of_latched (execTcnt_latched f s) h
  | .tstat f => fusesKept_of_latched (execTstat_latched f s) h
  | .mma f => fusesKept_of_latched (execMma_latched f s) h
  | .mflushS f => fusesKept_of_latched (execMflushS_latched f s) h
  | .mflushL f => fusesKept_of_latched (execMflushL_latched f s) h
  | .kvx f => fusesKept_of_latched (execKvx_latched f s) h
  | .qmc f => fusesKept_of_latched (execQmc_latched f s) h
  | .credS f => fusesKept_of_latched (execCredS_latched f s) h
  | .credL f => fusesKept_of_latched (execCredL_latched f s) h
  | .cpk f => fusesKept_of_latched (execCpk_latched f s) h
  | .binit f => fusesKept_of_latched (execBinit_latched f s) h
  | .barr f => fusesKept_of_latched (execBarr_latched f s) h
  | .bwait f => fusesKept_of_latched (execBwait_latched f s) h
  | .waitt f => fusesKept_of_latched (execWaitt_latched f s) h
  | .qpush f => fusesKept_of_latched (execQpush_latched f s) h
  | .qpop f => fusesKept_of_latched (execQpop_latched f s) h
  | .rdx f => fusesKept_of_latched (execRdx_latched f s) h
  | .qstat f => fusesKept_of_latched (execQstat_latched f s) h
  | .bra f => fusesKept_of_latched (execBra_latched f s) h
  | .brv f => fusesKept_of_latched (execBrv_latched f s) h
  | .bany f => fusesKept_of_latched (execBany_latched f s) h
  | .ball f => fusesKept_of_latched (execBall_latched f s) h
  | .call f => fusesKept_of_latched (execCall_latched f s) h
  | .retS f => fusesKept_of_latched (execRetS_latched f s) h
  | .retL f => fusesKept_of_latched (execRetL_latched f s) h
  | .jmpi f => fusesKept_of_latched (execJmpi_latched f s) h
  | .loop f => fusesKept_of_latched (execLoop_latched f s) h
  | .exitS f => fusesKept_of_latched (execExitS_latched f s) h
  | .exitL f => fusesKept_of_latched (execExitL_latched f s) h
  | .bar f => fusesKept_of_latched (execBar_latched f s) h
  | .sleepS f => fusesKept_of_latched (execSleepS_latched f s) h
  | .sleepL f => fusesKept_of_latched (execSleepL_latched f s) h
  | .yield f => fusesKept_of_latched (execYield_latched f s) h
  | .trap f => fusesKept_of_latched (execTrap_latched f s) h
  | .sgpost f => fusesKept_of_latched (execSgpost_latched f s) h
  | .sgpoll f => fusesKept_of_latched (execSgpoll_latched f s) h
  | .sgchk f => fusesKept_of_latched (execSgchk_latched f s) h
  | .launch f => fusesKept_of_latched (execLaunch_latched f s) h
  | .evsig f => fusesKept_of_latched (execEvsig_latched f s) h
  | .evwait f => fusesKept_of_latched (execEvwait_latched f s) h
  | .rte f => fusesKept_of_latched (execRte_latched f s) h
  | .tsbS f => fusesKept_of_latched (execTsbS_latched f s) h
  | .tsbL f => fusesKept_of_latched (execTsbL_latched f s) h
  | .haltb f => fusesKept_of_latched (execHaltb_latched f s) h
  | .step f => fusesKept_of_latched (execStep_latched f s) h
  | .bkpt f => fusesKept_of_latched (execBkpt_latched f s) h
  | .watch f => fusesKept_of_latched (execWatch_latched f s) h
  | .mbxw f => fusesKept_of_latched (execMbxw_latched f s) h
  | .mbxr f => fusesKept_of_latched (execMbxr_latched f s) h
  | .ill word => fusesKept_of_latched (execIll_latched word s) h
  | .lateReply reply => fusesKept_of_latched (execLateReply_latched reply s) h
  | .registerMissFill team reg word => fusesKept_of_latched (execRegisterMissFill_latched team reg word s) h
  | .teamActivation core => fusesKept_of_latched (execTeamActivation_latched core s) h
  | .teamEviction core part => fusesKept_of_latched (execTeamEviction_latched core part s) h
  | .readyListSteal core => fusesKept_of_latched (execReadyListSteal_latched core s) h
  | .starvationPick core part => fusesKept_of_latched (execStarvationPick_latched core part s) h
  | .requestRetry team => fusesKept_of_latched (execRequestRetry_latched team s) h
  | .teamResume team => fusesKept_of_latched (execTeamResume_latched team s) h
  | .sleepWake team => fusesKept_of_latched (execSleepWake_latched team s) h
  | .teamRetirement team => fusesKept_of_latched (execTeamRetirement_latched team s) h
  | .contextImageFree team => fusesKept_of_latched (execContextImageFree_latched team s) h
  | .cancelledPendingRetire team => fusesKept_of_latched (execCancelledPendingRetire_latched team s) h
  | .blockPlacement job images => fusesKept_of_latched (execBlockPlacement_latched job images s) h
  | .turnEnd cluster => fusesKept_of_latched (execTurnEnd_latched cluster s) h
  | .mmaArrayExecution core part => fusesKept_of_latched (execMmaArrayExecution_latched core part s) h
  | .oculusMerge block => fusesKept_of_latched (execOculusMerge_latched block s) h
  | .copyRow request => fusesKept_of_latched (execCopyRow_latched request s) h
  | .pushAccept request => fusesKept_of_latched (execPushAccept_latched request s) h
  | .popServe request => fusesKept_of_latched (execPopServe_latched request s) h
  | .rdxDepositArrival deposit => fusesKept_of_latched (execRdxDepositArrival_latched deposit s) h
  | .bucketFlush job stage bucket => fusesKept_of_latched (execBucketFlush_latched job stage bucket s) h
  | .stageDrain job stage => fusesKept_of_latched (execStageDrain_latched job stage s) h
  | .spireBatch batch => fusesKept_of_latched (execSpireBatch_latched batch s) h
  | .spireVerdict verdict => fusesKept_of_latched (execSpireVerdict_latched verdict s) h
  | .kvRelease group sibling => fusesKept_of_latched (execKvRelease_latched group sibling s) h
  | .campanilePost post => fusesKept_of_latched (execCampanilePost_latched post s) h
  | .finishedSiblingCheck group => fusesKept_of_latched (execFinishedSiblingCheck_latched group s) h
  | .tailLineInvalidation fe queue => fusesKept_of_latched (execTailLineInvalidation_latched fe queue s) h
  | .descriptorConsume fe queue => fusesKept_of_latched (execDescriptorConsume_latched fe queue s) h
  | .launchDescriptor job => fusesKept_of_latched (execLaunchDescriptor_latched job s) h
  | .directoryUpdate job => fusesKept_of_latched (execDirectoryUpdate_latched job s) h
  | .queueDescriptor job => fusesKept_of_latched (execQueueDescriptor_latched job s) h
  | .cancel job => fusesKept_of_latched (execCancel_latched job s) h
  | .signal job => fusesKept_of_latched (execSignal_latched job s) h
  | .groupOpen job => fusesKept_of_latched (execGroupOpen_latched job s) h
  | .groupFree job => fusesKept_of_latched (execGroupFree_latched job s) h
  | .groupFreeCompletion job => fusesKept_of_latched (execGroupFreeCompletion_latched job s) h
  | .waitCounterWrite job => fusesKept_of_latched (execWaitCounterWrite_latched job s) h
  | .launchCompletion job => fusesKept_of_latched (execLaunchCompletion_latched job s) h
  | .invalidationComplete fn => fusesKept_of_latched (execInvalidationComplete_latched fn s) h
  | .quotaLimitExpiry team => fusesKept_of_latched (execQuotaLimitExpiry_latched team s) h
  | .blockAccess acc => fusesKept_of_latched (execBlockAccess_latched acc s) h
  | .discardComplete fn => fusesKept_of_latched (execDiscardComplete_latched fn s) h
  | .heldWriteRelease die => fusesKept_of_latched (execHeldWriteRelease_latched die s) h
  | .heldWriteExpiry die => fusesKept_of_latched (execHeldWriteExpiry_latched die s) h
  | .reclamationRound die => fusesKept_of_latched (execReclamationRound_latched die s) h
  | .balwaitExpiry die => fusesKept_of_latched (execBalwaitExpiry_latched die s) h
  | .promotion frame => fusesKept_of_latched (execPromotion_latched frame s) h
  | .rds msg => fusesKept_of_latched (execRds_latched msg s) h
  | .rdxMsg msg => fusesKept_of_latched (execRdxMsg_latched msg s) h
  | .ownnd msg => fusesKept_of_latched (execOwnnd_latched msg s) h
  | .upg msg => fusesKept_of_latched (execUpg_latched msg s) h
  | .atomicreq msg => fusesKept_of_latched (execAtomicreq_latched msg s) h
  | .wb msg => fusesKept_of_latched (execWb_latched msg s) h
  | .snps msg => fusesKept_of_latched (execSnps_latched msg s) h
  | .snpx msg => fusesKept_of_latched (execSnpx_latched msg s) h
  | .inv msg => fusesKept_of_latched (execInv_latched msg s) h
  | .bi msg => fusesKept_of_latched (execBi_latched msg s) h
  | .data msg => fusesKept_of_latched (execData_latched msg s) h
  | .rsp msg => fusesKept_of_latched (execRsp_latched msg s) h
  | .atomicrsp msg => fusesKept_of_latched (execAtomicrsp_latched msg s) h
  | .retry msg => fusesKept_of_latched (execRetry_latched msg s) h
  | .poison msg => fusesKept_of_latched (execPoison_latched msg s) h
  | .reservedOpcode word => fusesKept_of_latched (execReservedOpcode_latched word s) h
  | .invcmd => fusesKept_of_latched (execInvcmd_latched s) h
  | .fsresolve => fusesKept_of_latched (execFsresolve_latched s) h
  | .pquotaWrite => execPquotaWrite_fuses s h
  | .dlheadWrite => execDlheadWrite_fuses s h
  | .discard => fusesKept_of_latched (execDiscard_latched s) h
  | .logicalTimeTick => fusesKept_of_latched (execLogicalTimeTick_latched s) h
  | .rdshared => fusesKept_of_latched (execRdshared_latched s) h
  | .rdown => fusesKept_of_latched (execRdown_latched s) h
  | .dirtyevict => fusesKept_of_latched (execDirtyevict_latched s) h
  | .cleanevict => fusesKept_of_latched (execCleanevict_latched s) h
  | .snpdata => fusesKept_of_latched (execSnpdata_latched s) h
  | .snpinv => fusesKept_of_latched (execSnpinv_latched s) h
  | .snpcur => fusesKept_of_latched (execSnpcur_latched s) h
  | .bisnpinv => fusesKept_of_latched (execBisnpinv_latched s) h
  | .bisnpdata => fusesKept_of_latched (execBisnpdata_latched s) h
  | .birsp => fusesKept_of_latched (execBirsp_latched s) h
  | .memrd => fusesKept_of_latched (execMemrd_latched s) h
  | .memwr => fusesKept_of_latched (execMemwr_latched s) h
  | .flit => fusesKept_of_latched (execFlit_latched s) h
  | .portTraining => fusesKept_of_latched (execPortTraining_latched s) h
  | .portDown => fusesKept_of_latched (execPortDown_latched s) h
  | .lockInterfaceRequest => execLockInterfaceRequest_fuses s h
  | .startInterfaceRequest => execStartInterfaceRequest_fuses s h
  | .stopInterfaceRequest => execStopInterfaceRequest_fuses s h
  | .getDeviceInterfaceReport => fusesKept_of_latched (execGetDeviceInterfaceReport_latched s) h
  | .getDeviceInterfaceState => fusesKept_of_latched (execGetDeviceInterfaceState_latched s) h
  | .algorithmNegotiation => fusesKept_of_latched (execAlgorithmNegotiation_latched s) h
  | .keyExchange => fusesKept_of_latched (execKeyExchange_latched s) h
  | .finish => fusesKept_of_latched (execFinish_latched s) h
  | .heartbeat => fusesKept_of_latched (execHeartbeat_latched s) h
  | .keyUpdate => fusesKept_of_latched (execKeyUpdate_latched s) h
  | .endSession => fusesKept_of_latched (execEndSession_latched s) h
  | .getMeasurements => fusesKept_of_latched (execGetMeasurements_latched s) h
  | .bind => fusesKept_of_latched (execBind_latched s) h
  | .sessionOpen => fusesKept_of_latched (execSessionOpen_latched s) h
  | .sessionClose => fusesKept_of_latched (execSessionClose_latched s) h
  | .sessionKeyUpdate => fusesKept_of_latched (execSessionKeyUpdate_latched s) h
  | .update => fusesKept_of_latched (execUpdate_latched s) h
  | .updateReadComplete => fusesKept_of_latched (execUpdateReadComplete_latched s) h
  | .commit => execCommit_fuses s h
  | .warmReset => execWarmReset_fuses s h
  | .coldReset => execColdReset_fuses s h
  | .functionLevelReset => execFunctionLevelReset_fuses s h
  | .d3hotEntry => execD3hotEntry_fuses s h
  | .d3hotExit => fusesKept_of_latched (execD3hotExit_latched s) h
  | .d3cold => execD3cold_fuses s h
  | .d0IdleEntry => fusesKept_of_latched (execD0IdleEntry_latched s) h
  | .d0IdleExit => fusesKept_of_latched (execD0IdleExit_latched s) h
  | .sensorWarning => fusesKept_of_latched (execSensorWarning_latched s) h
  | .shutdown => fusesKept_of_latched (execShutdown_latched s) h
  | .clockStepDown => fusesKept_of_latched (execClockStepDown_latched s) h
  | .clockStepUp => fusesKept_of_latched (execClockStepUp_latched s) h
  | .lantentHighWrite => fusesKept_of_latched (execLantentHighWrite_latched s) h
  | .lantentHighRead => fusesKept_of_latched (execLantentHighRead_latched s) h
  | .lantasgWrite => fusesKept_of_latched (execLantasgWrite_latched s) h
  | .lqcfgWrite => execLqcfgWrite_fuses s h
  | .fsqcfgWrite => execFsqcfgWrite_fuses s h
  | .fsqheadWrite => execFsqheadWrite_fuses s h
  | .rrheadWrite => execRrheadWrite_fuses s h
  | .ptrootWrite => execPtrootWrite_fuses s h
  | .ncwinWrite => execNcwinWrite_fuses s h
  | .l2cfgWrite => execL2cfgWrite_fuses s h
  | .aliasWrite => execAliasWrite_fuses s h
  | .registerWrite => execRegisterWrite_fuses s h
  | .debuggerHalt => fusesKept_of_latched (execDebuggerHalt_latched s) h
  | .debuggerResume => fusesKept_of_latched (execDebuggerResume_latched s) h
  | .sensorWarningEnd => fusesKept_of_latched (execSensorWarningEnd_latched s) h

theorem afterExec_fuses {n : Nat} (x : Instr) (s : State) {r : Ran} (h : fusesKept n r) : fusesKept n (afterExec x s r) := by
  cases r with
  | next t => exact State.fusesAtLeast_of_latched (s := t) (by simp) h
  | fault e => trivial
  | refused e => trivial

theorem State.issue_fuses {n : Nat} (s : State) (h : s.fusesAtLeast n) : fusesKept n s.issue := by
  unfold State.issue
  refine fusesKept_ite h ?_
  cases hb : s.boundary s.cur with
  | some t => exact State.fusesAtLeast_of_latched ((State.clocked_latched t).trans (State.boundary_latched s s.cur t hb)) h
  | none =>
    have hr := State.fusesAtLeast_of_latched (State.ready_latched s) h
    dsimp only
    cases s.ready.2 with
    | none => exact State.fusesAtLeast_of_latched (State.clocked_latched _) hr
    | some x => exact afterExec_fuses _ _ (exec_fuses x _ hr)

theorem State.outside_fuses {n : Nat} (s : State) (e : Instr × Input) (h : s.fusesAtLeast n) : fusesKept n (s.outside e) := by
  unfold State.outside
  split
  · exact h
  split
  · exact h
  have hx := exec_fuses e.1 { s with inp := e.2 } h
  split
  case h_1 t ht =>
    rw [ht] at hx
    exact hx
  case h_2 => exact hx

theorem State.make_fuses {n : Nat} (s : State) (m : Move) (h : s.fusesAtLeast n) : ∀ r, s.make m = some r → fusesKept n r := by
  intro r hr
  cases m with
  | resume k =>
    simp only [State.make] at hr
    split at hr
    · cases hr
      exact State.outside_fuses _ _ h
    · cases hr
  | event i =>
    have hx := exec_fuses i s h
    simp only [State.make] at hr
    split at hr
    · split at hr <;> cases hr
      simpa [*] using hx
    · cases hr
      exact hx
  | pick i =>
    cases hr
    exact h
  | clock =>
    cases hr
    exact State.fusesAtLeast_of_latched (State.passClock_latched s) h

theorem State.turn_fuses {n : Nat} (s : State) (h : s.fusesAtLeast n) : fusesKept n s.turn := by
  unfold State.turn
  refine fusesKept_ite (fusesKept_ite (exec_fuses .shutdown s h) (State.fusesAtLeast_of_latched (State.tick_latched s) h)) ?_
  refine fusesKept_ite (s.issue_fuses h) ?_
  split
  · cases hm : s.moves.findSome? s.make with
    | none => exact State.fusesAtLeast_of_latched (State.passClock_latched s) h
    | some r =>
      obtain ⟨m, -, hr⟩ := List.exists_of_findSome?_eq_some hm
      exact s.make_fuses m h r hr
  · next k rest _ =>
    dsimp only
    cases hm : State.make { s with order := rest } (State.moves { s with order := rest } |>.getD k .clock) with
    | none => exact h
    | some r => exact State.make_fuses { s with order := rest } _ h r hm

theorem step_fuses {n : Nat} (s : State) (h : s.fusesAtLeast n) : fusesKept n (step s) := by
  unfold step
  split
  · exact fusesKept_ite (s.turn_fuses h) (State.outside_fuses _ _ h)
  · exact s.turn_fuses h

/-- Settles O57: a step latches nothing, but for TDISP and resets, which keep the fuses, and COMMIT, which blows more. -/
theorem fusesNeverFall : Obligations.FusesNeverFall := by
  unfold Obligations.FusesNeverFall
  intro n s t h hs
  have ht := step_fuses s h
  rw [hs] at ht
  exact ht

end Sys2Proof.Machine
end

section
/-!
PROOFS. O54: firmware and resets.
-/
namespace Sys2Proof.Machine

/-! Firmware commands. -/

theorem exec_update {s : State} (hb : s.bel.busy = false) : exec .update s = .next (s.setBel { s.bel with
    busy := true, pending := false, newBoot := false, bootFails := 0, source := s.bel.barg,
    flash := SMap.put s.bel.flash s.bel.spare FwSlot.erased FwSlot.erased }) := by
  refine if_neg ?_
  rw [hb]
  exact Bool.false_ne_true

/-- What the end of a firmware image's read answers: the verification's result, and a good image in the spare slot. -/
theorem exec_updateReadComplete {s : State} {i : FwImage} (hb : s.bel.busy = true) (hs : s.bel.stage ≠ 0) (hi : s.imageAt s.bel.source.toNat = some i) :
    ∃ u, exec .updateReadComplete s = .next u ∧ u.bel.busy = false ∧ u.bel.result = verifyImage (some i) s.bel.fuses ∧ u.bel.fuses = s.bel.fuses
      ∧ (u.bel.result = 0 → u.bel.pending = true
          ∧ SMap.get u.bel.flash s.bel.spare FwSlot.erased = { valid := true, version := i.version, svn := i.svn, digest := i.digest }) := by
  have hex : exec .updateReadComplete s = execUpdateReadComplete s := rfl
  have hgo : ¬(!s.bel.busy || s.bel.stage == 0) = true := by
    rw [hb, beq_false_of_ne hs]
    exact Bool.false_ne_true
  rw [execUpdateReadComplete] at hex
  dsimp only at hex
  rw [if_neg hgo, hi] at hex
  dsimp only at hex
  by_cases hr : verifyImage (some i) s.bel.fuses = 0
  · rw [if_pos hr] at hex
    have hflash := SMap.get_put_same s.bel.flash s.bel.spare { valid := true, version := i.version, svn := i.svn, digest := i.digest } FwSlot.erased
    exact ⟨_, hex, rfl, hr.symm, rfl, fun _ => ⟨rfl, hflash⟩⟩
  · rw [if_neg hr] at hex
    exact ⟨_, hex, rfl, rfl, rfl, fun h => absurd h hr⟩

theorem exec_commit {s : State} (hb : s.bel.busy = false) (hn : s.bel.newBoot = true) (hs : s.bel.stage = 9) :
    ∃ u, exec .commit s = .next u ∧ u.bel.slot = (!s.bel.slot) ∧ u.bel.pending = false ∧ u.bel.result = 0
      ∧ u.bel.fuses = max s.bel.fuses (SMap.get s.bel.flash s.bel.spare FwSlot.erased).svn := by
  have hex : exec .commit s = execCommit s := rfl
  rw [execCommit] at hex
  dsimp only at hex
  rw [if_neg (by rw [hb]; exact Bool.false_ne_true), if_neg (by rw [hn, hs]; decide)] at hex
  exact ⟨_, hex, rfl, rfl, rfl, rfl⟩

/-! Resets. -/

/-- A warm reset whose launches have been cancelled and have completed. -/
theorem exec_warmReset {s : State} (hw : s.warming = true) (ha : s.anyLive = false) (hl : s.launching = false) :
    exec .warmReset s = .next ((s.lost s.bel.warmOnly).bringUp 1) := by
  show execWarmReset s = _
  rw [execWarmReset, hw, Bool.not_true, Bool.and_false, if_neg Bool.false_ne_true, if_pos rfl]
  dsimp only
  exact if_neg (by rw [ha, hl]; exact Bool.false_ne_true)

theorem State.ifst_setTdisp (s : State) (f x : Nat) : (s.setTdisp f x).ifst f = x := SMap.get_put_same _ _ _ _

theorem State.ifst_of_latched {s t : State} (h : t.latched = s.latched) (f : Nat) : t.ifst f = s.ifst f := by
  have ht : t.tdisp = s.tdisp := congrArg Prod.snd h
  rw [State.ifst, State.ifst, ht]

/-- A function-level reset whose scrub has nothing left to wait for leaves the interface unlocked: what follows latches nothing. -/
theorem exec_functionLevelReset {s t : State} (hf : s.inp.fn < 64) (hx : s.scrub s.inp.fn s.inp.low.toNat = (t, none)) :
    ∃ u, exec .functionLevelReset s = .next u ∧ u.ifst s.inp.fn = 0 := by
  have hex : exec .functionLevelReset s = execFunctionLevelReset s := rfl
  rw [execFunctionLevelReset] at hex
  dsimp only at hex
  rw [if_neg (Nat.not_le.mpr hf), hx] at hex
  refine ⟨_, hex, (State.ifst_of_latched (State.dropFaults_latched _ _ _) _).trans ?_⟩
  exact t.ifst_setTdisp s.inp.fn 0

/-- Settles O54: each command and reset is the branch of its definition that its guard picks. -/
theorem firmwareAndResets : Obligations.FirmwareAndResets := by
  unfold Obligations.FirmwareAndResets
  intro s
  exact ⟨fun hb => ⟨_, exec_update hb, rfl, rfl, rfl, rfl,
    SMap.get_put_same s.bel.flash s.bel.spare FwSlot.erased FwSlot.erased⟩, fun i => exec_updateReadComplete, exec_commit, rfl,
    exec_warmReset, ⟨rfl, rfl, rfl, rfl, rfl, rfl⟩, fun t => exec_functionLevelReset⟩

end Sys2Proof.Machine
end

section
/-!
PROOFS. O2, O3 and O59: sample words, what a step runs, and the reset state.
-/
namespace Sys2Proof.Machine

/-! Sample words (O2). -/

/-- Settles O2: the decoder evaluated on each of the words. -/
theorem decodeSampleWords : Obligations.DecodeSampleWords := by
  unfold Obligations.DecodeSampleWords
  decide

/-! What a step runs (O3). -/

theorem State.turn_powered {s : State} (hp : s.bel.power = .d0 ∨ s.bel.power = .d0idle) (h : s.picked = true) : s.turn = s.issue := by
  have hd : ¬(s.bel.power ≠ .d0 ∧ s.bel.power ≠ .d0idle) := fun hn => hp.elim hn.1 hn.2
  rw [State.turn, if_neg hd, if_pos h]

theorem step_of_no_agenda {s : State} (h : s.agenda = []) : step s = s.turn := by
  rw [step, h]

theorem step_of_teamFirst {s : State} {e : Instr × Input} {rest : List (Instr × Input)} (h : s.agenda = e :: rest) (ht : s.teamFirst e = true) :
    step s = s.turn := by
  rw [step, h]
  exact if_pos ht

theorem step_of_outside {s : State} {e : Instr × Input} {rest : List (Instr × Input)} (h : s.agenda = e :: rest) (ht : s.teamFirst e = false) :
    step s = State.outside { s with agenda := rest } e := by
  rw [step, h]
  exact if_neg (by rw [ht]; exact Bool.false_ne_true)

theorem State.outside_heard {s : State} {e : Instr × Input} (hi : insOf e.1 = none) (hh : s.hears e.1 = true) :
    s.outside e = match exec e.1 { s with inp := e.2 } with
      | .next t => .next { t with inp := Input.none }
      | .fault r => .fault r
      | .refused r => .refused r := by
  rw [State.outside, hi]
  dsimp only
  rw [hh, Bool.not_true, if_neg Bool.false_ne_true]
  cases exec e.1 { s with inp := e.2 } with
  | next t => rfl
  | fault r => rfl
  | refused r => rfl

theorem State.outside_unheard {s : State} {e : Instr × Input} (hh : s.hears e.1 = false) : s.outside e = .next s := by
  rw [State.outside, hh]
  cases insOf e.1 with
  | some i => rfl
  | none => rfl

/-- The picked team's next instruction, where its words decode and its window's pages and lines are there or can be fetched. -/
theorem State.ready_of_decoded {s f : State} {w0 w1 w2 : W32} {x : Instr} {i : Ins} (hw : s.fetchWaits s.cur = false)
    (hf : s.fetch s.cur = (f, .ok w0 w1 w2)) (hd : decodeWords ((s.team s.cur).limits f) w0 w1 w2 = .ok x) (hi : insOf x = some i)
    (hpoll : i.accesses = false ∨ f.polls s.cur = false) {q : State × Option (Nat × Nat)}
    (hq : f.absentPage (s.team s.cur).vf ((s.team s.cur).windowVas (some i)) = q) (hpage : q.2 = none)
    (hroom : q.1.missing s.cur i = true → q.1.mayEnter (s.team s.cur).core s.cur = true) :
    s.ready = ((if q.1.missing s.cur i then q.1.entered s.cur else q.1).fillWindow s.cur i, some x) := by
  have hp : ¬(i.accesses && f.polls s.cur) = true := by
    rw [Bool.and_eq_true]
    rintro ⟨ha, hb⟩
    rcases hpoll with h | h
    · rw [h] at ha
      exact Bool.false_ne_true ha
    · rw [h] at hb
      exact Bool.false_ne_true hb
  rw [State.ready]
  dsimp only
  rw [hw, if_neg Bool.false_ne_true, hf]
  dsimp only
  rw [hd]
  dsimp only
  rw [hi]
  dsimp only
  rw [if_neg hp, hq, hpage]
  dsimp only
  cases hm : q.1.missing s.cur i with
  | false => rfl
  | true =>
    rw [hroom hm]
    rfl

theorem State.issue_of_ready {s r : State} {x : Instr} (hm : s.mayIssue s.cur = true) (hb : s.boundary s.cur = none) (hr : s.ready = (r, some x)) :
    s.issue = afterExec x r (exec x r) := by
  rw [State.issue, hm, Bool.not_true, if_neg Bool.false_ne_true, hb, hr]

/-- A host's access that the picked team goes before: the team's next instruction is the MBXW or MBXR of that entry. -/
theorem State.teamFirst_spec {s : State} {e : Instr × Input} (h : s.teamFirst e = true) :
    s.picked = true ∧ ∃ i n, s.nextIns s.cur = some i ∧ (i.op = 0x1E6 ∨ i.op = 0x1E7) ∧ lanternOf e = some n ∧ (s.team s.cur).sr i.f.a.toNat = n := by
  rw [State.teamFirst, Bool.and_eq_true] at h
  obtain ⟨hp, h⟩ := h
  refine ⟨hp, ?_⟩
  split at h
  case h_1 i n hi hn =>
    rw [Bool.and_eq_true, Bool.or_eq_true, beq_iff_eq, beq_iff_eq, beq_iff_eq] at h
    exact ⟨i, n, hi, h.1, hn, h.2⟩
  case h_2 => exact absurd h Bool.false_ne_true

theorem State.fetchWord_good {s : State} {f va : Nat} {t : Tr} (ht : (s.walk f va true false).2 = .ok t)
    (hg : ((s.walk f va true false).1.readTr t 4).2 = false) :
    (s.fetchWord f va).2 = .ok (BitVec.ofNat 32 (leNat ((s.walk f va true false).1.readTr t 4).1)) 0 0 := by
  rw [State.fetchWord]
  dsimp only
  rw [ht]
  dsimp only
  rw [hg]
  rfl

theorem State.fetch_one_word {s : State} {i : Nat} {w : W32} (hl : w.toNat % 4 = 0)
    (hw : (s.fetchWord (s.team i).vf (s.ktext (s.team i) + (s.team i).pc.toNat)).2 = .ok w 0 0) : (s.fetch i).2 = .ok w 0 0 := by
  rw [State.fetch]
  dsimp only
  rw [hw]
  dsimp only
  rw [if_pos (Or.inl hl), hw]

/-- Settles O3: the step by cases of the agenda, and the turn of a picked team by what it fetches. -/
theorem stepRunsDecoded : Obligations.StepRunsDecoded := by
  unfold Obligations.StepRunsDecoded
  refine ⟨?_, ?_, ?_, ?_, ?_⟩
  · intro s f w0 w1 w2 x i hag hpow hpick hmay hbound hwait hfetch hdec hins q s1 hpage hroom hpoll
    have hready := State.ready_of_decoded hwait hfetch hdec hins hpoll rfl hpage hroom
    rw [step_of_no_agenda hag, State.turn_powered hpow hpick, State.issue_of_ready hmay hbound hready]
    show afterExec x s1 (exec x s1) = _
    cases exec x s1 with
    | next t => rfl
    | fault e => rfl
    | refused e => rfl
  · intro s e inp rest hag hteam hins hhears
    exact (step_of_outside hag hteam).trans (State.outside_heard hins hhears)
  · intro s e inp rest hag hteam hhears
    exact (step_of_outside hag hteam).trans (State.outside_unheard hhears)
  · intro s e inp rest hag hteam
    obtain ⟨hpick, hex⟩ := State.teamFirst_spec hteam
    exact ⟨hpick, hex, fun hpow => (step_of_teamFirst hag hteam).trans (State.turn_powered hpow hpick)⟩
  · intro s i t a ht hgood w hlen
    exact State.fetch_one_word hlen (State.fetchWord_good ht hgood)

/-! The reset state and the first step (O59). -/

/-- Every lane of a port passes: the port is up with all 32 of them. -/
theorem State.train_all_lanes (s : State) (p : Nat) :
    s.train p (2 ^ 32 - 1) = s.setPort p { lanes := 32, up := true, replays := 0, fails := 0 } := by
  have h : trainedLanes (2 ^ 32 - 1) = 32 := by decide
  rw [State.train, h]
  rfl

theorem State.trainAll_teams (s : State) (m n : Nat) : (s.trainAll m n).teams = s.teams := by
  refine foldl_keeps (P := fun u : State => u.teams = s.teams) _ (fun u p hu => ?_) _ _ rfl
  rw [State.train_all_lanes]
  split
  · exact hu
  · exact hu

/-- A bring-up ends at the last step it completes, in D0, with the teams there were. -/
theorem State.bringUp_spec (s : State) (n : Nat) :
    (s.bringUp n).bel.stage = s.lastStep n ∧ (s.bringUp n).bel.power = .d0 ∧ (s.bringUp n).teams = s.teams := by
  rw [State.bringUp]
  refine ⟨?_, ?_, ?_⟩
  · split <;> rfl
  · split <;> rfl
  · have h1 : (if n ≤ 4 ∧ 4 ≤ s.lastStep n then s.fillPools else s).teams = s.teams := by
      split <;> rfl
    generalize (if n ≤ 4 ∧ 4 ≤ s.lastStep n then s.fillPools else s) = s1 at h1 ⊢
    have h2 : (if 6 ≤ s.lastStep n then s1.trainAll 0 2 else s1).teams = s.teams := by
      split
      · exact (s1.trainAll_teams 0 2).trans h1
      · exact h1
    generalize (if 6 ≤ s.lastStep n then s1.trainAll 0 2 else s1) = s2 at h2 ⊢
    have h3 : (if 7 ≤ s.lastStep n then s2.trainAll 2 8 else s2).teams = s.teams := by
      split
      · exact (s2.trainAll_teams 2 8).trans h2
      · exact h2
    generalize (if 7 ≤ s.lastStep n then s2.trainAll 2 8 else s2) = s3 at h3 ⊢
    split
    · exact h3
    · exact h3

/-- The first move of a machine that has just been powered on. -/
theorem State.moves_coldReady {s : State} (hd : s.deferred = []) (h : s.coldReady = true) : ∃ rest, s.moves = .event .coldReset :: rest := by
  rw [State.moves, State.candidates, State.unitEvents, hd, h]
  exact ⟨_, rfl⟩

theorem State.turn_first_move {s t : State} {m : Move} {rest : List Move} (hp : s.bel.power = .d0) (hk : s.picked = false) (ho : s.order = [])
    (hm : s.moves = m :: rest) (ht : s.make m = some (.next t)) : s.turn = .next t := by
  rw [State.turn, if_neg (fun h => h.1 hp), hk, if_neg Bool.false_ne_true, ho, hm]
  dsimp only
  rw [List.findSome?_cons, ht]
  rfl

theorem State.make_event {s t : State} {i : Instr} (he : exec i s = .next t) (hne : t ≠ s) : s.make (.event i) = some (.next t) := by
  rw [State.make, he]
  exact if_neg hne

/-- The first step after power-on is the cold reset, which brings the device up. -/
theorem step_powered_on {s : State} (ha : s.agenda = []) (hd : s.deferred = []) (ho : s.order = []) (hk : s.picked = false) (hp : s.bel.power = .d0)
    (hc : s.coldReady = true) (hs : s.bel.stage = 0) (hlast : (s.lost s.bel.flashOnly).lastStep 1 = 9) :
    ∃ t, step s = .next t ∧ t.bel.stage = 9 ∧ t.bel.power = .d0 ∧ t.bel.fuses = s.bel.fuses ∧ t.teams = [] := by
  obtain ⟨hstage, hpower, hteams⟩ := State.bringUp_spec (s.lost s.bel.flashOnly) 1
  have hfuses : ((s.lost s.bel.flashOnly).bringUp 1).bel.fuses = s.bel.fuses := congrArg Prod.fst (State.bringUp_latched (s.lost s.bel.flashOnly) 1)
  have hex : exec .coldReset s = .next ((s.lost s.bel.flashOnly).bringUp 1) := rfl
  generalize (s.lost s.bel.flashOnly).bringUp 1 = t at hstage hpower hteams hfuses hex
  rw [hlast] at hstage
  have hne : t ≠ s := by
    intro h
    rw [h, hs] at hstage
    exact absurd hstage (by decide)
  obtain ⟨rest, hmoves⟩ := State.moves_coldReady hd hc
  exact ⟨t, (step_of_no_agenda ha).trans (State.turn_first_move hp hk ho hmoves (State.make_event hex hne)), hstage, hpower, hfuses, hteams⟩

/-- Settles O59: the first move of the reset state is the cold reset, whose bring-up completes every step. -/
theorem resetState : Obligations.ResetState := by
  unfold Obligations.ResetState
  intro s
  have hcanonical : s.memoryCanonical := ⟨rfl, rfl, rfl⟩
  obtain ⟨t, hstep, hstage, hpower, hfuses, hteams⟩ := step_powered_on (s := State.reset) rfl rfl rfl rfl rfl rfl rfl (by decide)
  exact ⟨hcanonical, Nat.zero_le _, rfl, rfl, rfl, rfl, rfl, rfl, rfl, t, hstep, hstage, hpower, hfuses, hteams,
    memoryStaysCanonical s t hcanonical hstep⟩

end Sys2Proof.Machine
end
